-- ==== Sys2Proof/Word.lean ====
section
/-! DEFINITION. The word types of the machine and their plainest arithmetic (R2, R8). -/

namespace Sys2Proof

/-- One byte of memory. -/
abbrev Byte := BitVec 8

/-- One 16-bit word of an instruction (R78). -/
abbrev HWord := BitVec 16

/-- One 64-bit register value (R62, R63). -/
abbrev Word := BitVec 64

/-- A physical address, 52 bits (R18), kept as a number. -/
abbrev PAddr := Nat

end Sys2Proof
end

