-- ==== Sys2Proof/Config.lean ====
section
/-! DEFINITION. What an implementation fixes, and the values the spec leaves open. A free value is a constant
without a body, so no proof can lean on what it is. -/

namespace Sys2Proof.Config

/-- A 64-bit value the spec calls undefined (R7), fresh for each value of the counter `State.free`.
DESIGN CHOICE, log 11. DEDUCED, log 61. -/
opaque freeWord : Nat → Word

/-- A byte the spec calls undefined (R7, R224, R299). -/
opaque freeByte : Nat → Byte

/-- The undefined byte at an address (R224, R231, R299), for a value of the counter `State.free`. -/
opaque freeByteAt : Nat → Nat → Byte

/-- A choice the spec leaves open, as a number. -/
opaque freeNat : Nat → Nat

/-- A choice the spec leaves open, yes or no. -/
opaque freeBool : Nat → Bool

/-- Cycles a step takes beyond one (R3, R15). -/
opaque elapsedCycles : Nat → Nat

/-- Nanoseconds a step takes (R156). -/
opaque elapsedNs : Nat → Nat

/-- The partition whose window holds a frame that no context of this package names (R289, R323). DESIGN CHOICE, log 95. -/
opaque framePartition : Nat → Nat

/-- Whether a record is drawn by the forester of a die sampling with probability 2^-k (R379). -/
opaque sampled : Nat → Nat → Bool

/-- The per-boot integrity key K (R349), by the number of the boot. DESIGN CHOICE, log 15. -/
opaque bootKey : Nat → BitVec 256

/-- Worari ports that come up with the package (R414). -/
opaque portsUp : BitVec 18

/-- SM2 signature r and s of a digest by the device identity key (R429). -/
opaque sm2Sign : BitVec 256 → BitVec 512

/-- The device identity certificate, an X.509 v3 certificate in DER encoding (R415). -/
opaque certificate : List Byte

/-- SM3 digests of the images measured into registers 0 to 3 (R429). -/
opaque imageDigest : Nat → BitVec 256

/-- `IDENT.STEP`, fixed for each part (R414). -/
opaque stepping : Nat

/-- Package number in the node domain, known from stage 2 (R414). -/
opaque packageNumber : Nat

/-- Packages present in the node domain (R412). -/
opaque packagesPresent : List Nat

/-- Packages of the system, which bound a system-domain group (R25). -/
opaque systemPackages : Nat

/-- The compression engine's verdict on a page's bytes (R307, R325). -/
opaque compressible : List Byte → Bool

/-- Bytes of the compressed zone that a compressed page takes (R325). -/
opaque zippedSize : List Byte → Nat

end Sys2Proof.Config
end

