-- ==== Sys2Proof/Syntax.lean ====
section
/-! DEFINITION. The instructions of the opcode table and the events of its rows without bits,
one constructor of `Instr` for each row. -/

namespace Sys2Proof

/-- Class W of R89: operand width of an integer instruction. -/
inductive Width where
  | w64
  | w32
deriving DecidableEq, Repr

/-- Class EX of R89: source width of `SEXT` and `ZEXT`; also the widths 0 to 2 of class SZ that `LDZ` takes. -/
inductive Ex where
  | byte
  | half
  | word
deriving DecidableEq, Repr

/-- Class CC of R89: integer comparison. -/
inductive Cc where
  | eq
  | ne
  | lt
  | ge
  | ltu
  | geu
deriving DecidableEq, Repr

/-- Class SZ of R89: access size. -/
inductive Sz where
  | byte
  | half
  | word
  | dbl
deriving DecidableEq, Repr

/-- Word or doubleword: bit [0] of classes OS and AM, class PR less 2, class WD less 2 (R89). -/
inductive Wd where
  | word
  | dbl
deriving DecidableEq, Repr

/-- A memory scope (R252). -/
inductive Scope where
  | cluster
  | die
  | pkg
  | node
  | sys
deriving DecidableEq, Repr

/-- Class FS of R89, less 1: size of `FLD` and `FST`. -/
inductive Fs where
  | half
  | word
  | dbl
deriving DecidableEq, Repr

/-- Class PF of R89: level a `PREF` names. -/
inductive Pf where
  | l1
  | l2
  | llc
  | l1w
deriving DecidableEq, Repr

/-- Class SB of R89: field width of `SBST`. -/
inductive Sb where
  | two
  | four
deriving DecidableEq, Repr

/-- Bits [3:2] of class AM of R89. -/
inductive Order where
  | relaxed
  | acq
  | rel
  | ar
deriving DecidableEq, Repr

/-- Class FK of R89: kind of `FENCE`. -/
inductive Fk where
  | load
  | store
  | acquire
  | release
  | sc
deriving DecidableEq, Repr

/-- Format bits of classes FF, FC, CV and CI of R89. -/
inductive Fmt where
  | fp64
  | fp32
  | fp16
  | bf16
deriving DecidableEq, Repr

/-- Condition bits [3:2] of class FC of R89. -/
inductive Fcc where
  | eq
  | lt
  | le
  | un
deriving DecidableEq, Repr

/-- Integer width bits [3:2] of class CI of R89. -/
inductive IW where
  | int64
  | int32
deriving DecidableEq, Repr

/-- Condition of `VCMP` (R196). -/
inductive Vcc where
  | eq
  | ne
  | lt
  | le
  | un
deriving DecidableEq, Repr

/-- Operation of `VRED` and `VSCAN` (R196). -/
inductive Rop where
  | add
  | min
  | max
  | and
  | or
  | xor
deriving DecidableEq, Repr

/-- Operation of `VMLOG` (R196). -/
inductive Mop where
  | and
  | or
  | xor
  | andn
deriving DecidableEq, Repr

/-- Accumulator type tag, with the tag codes of R158 (R66). -/
inductive Tag where
  | empty
  | fp32
  | int
  | i32
  | fp64
  | bf16
  | fp16
deriving DecidableEq, Repr

/-- Class TP of R89: format pair of a `TMMA`. -/
inductive Pair where
  | fp64
  | fp32
  | bf16
  | fp16
  | e4m3
  | e5m2
  | int8
  | int4
  | sx7
  | sx4
  | sx2
  | e4m3e5m2
  | e5m2e4m3
  | sx4sx7
deriving DecidableEq, Repr

/-- Class OF of R89: output format of a drain. -/
inductive OFmt where
  | fp32
  | fp64
  | bf16
  | fp16
  | e4m3
  | e5m2
  | int8
  | int32
  | sx7
  | sx4
  | sx2
deriving DecidableEq, Repr

/-- SX format with the codes of `TLDS` variant [1:0] (R158). -/
inductive SxK where
  | sx7
  | sx4
  | sx2
deriving DecidableEq, Repr

/-- Class MC of R89: `XDRAIN` class. -/
inductive Mc where
  | loc
  | pkg
  | dev
  | host
deriving DecidableEq, Repr

/-- What `TZERO` clears: a tile, or an accumulator that then carries a tag (R158, R187). -/
inductive ZeroKind where
  | tile
  | acc (tag : Tag)
deriving DecidableEq, Repr

/-- The forms of `TMOV` (R158, R188). -/
inductive MovKind where
  | tile
  | acc
  | convert (tag : Tag)
deriving DecidableEq, Repr

/-- `PFX.N`: repeat count 1 to 64 and the four step-mask bits (R81, R86). -/
structure Rep where
  n : Nat
  mask : Nat
deriving DecidableEq, Repr

/-- The prefix words an instruction carries beside its operands (R82): `PFX.N`, whether `PFX.G` is
present, and how many `PFX.X` words. `PFX.P` is present exactly off page 0 (R85). -/
structure Form where
  rep : Option Rep
  g : Bool
  nx : Nat
deriving DecidableEq, Repr

/-- A request another package sends for memory owned here (R249): it is uncached and performed at
the owner. `bind` is the list of a group with a member here (R418), and `abort` the abort of a collective for a member
lost there, with the code it brings (R393). -/
inductive RemoteReq where
  | read (addr : Nat) (n : Nat)
  | write (addr : Nat) (n : Nat) (v : Word)
  | atomic (op : Nat) (addr : Nat) (n : Nat) (v old : Word)
  | subByte (field : Nat) (width : Nat) (v : Word)
  | bind (group pid : Nat) (members : List Word)
  | abort (group id code : Nat) (member : Word)
deriving DecidableEq, Repr

/-- Such a request under the sequence number and the incarnation it carries (R390, R391), with the poison of its data and
whether it is the last piece of an access of a whole line (R371). -/
structure SentReq where
  seq : Nat
  req : RemoteReq
  inc : Nat
  poison : Bool
  full : Bool
deriving DecidableEq, Repr

/-- A host access to package memory (R423): through BAR2 or a VF, or through CXL.mem, whose two decoders the host sets
(R422). -/
inductive HostReq where
  | read (vf : Option Nat) (addr : Nat) (n : Nat)
  | write (vf : Option Nat) (addr : Nat) (data : List Byte)
  | atomic (vf : Option Nat) (kind : Nat) (addr : Nat) (n : Nat) (v cmp : Word)
  | decoder (k : Nat) (base size : Nat)
  | memRead (addr : Nat) (n : Nat)
  | memWrite (addr : Nat) (data : List Byte)
deriving DecidableEq, Repr

/-- An error that ECC corrects, or where one it cannot correct struck (R370, R371, R389), or a defect of an engine:
a failing row of a slot (R431), or an array cell that comes out wrong for a number of runs (R377). -/
inductive EccSite where
  | corrected (die : Nat)
  | memory (line : Nat)
  | copy (die line : Nat)
  | storeBuffer (core idx : Nat)
  | register (core : Nat) (lodged : Bool) (file idx : Nat)
  | slotRow (core : Nat) (lodged acc : Bool) (name band row : Nat)
  | cellar (core : Nat) (lodged : Bool) (name band row col : Nat)
  | defectRow (eng : Nat) (acc : Bool) (slot row : Nat) (spare : Bool) (mask stuck : BitVec 4096)
  | defectCell (eng acc row col : Nat) (flip : Word) (runs : Option Nat)
  | unattributable (die : Nat)
deriving DecidableEq, Repr

/-- A die or a package that may be declared dead (R391). -/
inductive Agent where
  | die (n : Nat)
  | package (n : Nat)
deriving DecidableEq, Repr

/-- How fetching a word of an instruction failed (R88): PAGE with its DETAIL, a poisoned page-table entry (R317),
or poisoned instruction bytes (R372). -/
inductive FetchFault where
  | page (detail : Nat) (addr : Word)
  | entry
  | poison
deriving DecidableEq, Repr

/-- One constructor for each row of the opcode table. For an encoded instruction the arguments are its
prefixes, its variant, its payload fields, its register fields and its immediate, in that order. For a
row without bits they say which agent, line, record or value the event concerns. -/
inductive Instr where
  | addP0 (fm : Form) (d : Nat) (a : Nat) (b : Nat)
  | subP0 (fm : Form) (d : Nat) (a : Nat) (b : Nat)
  | addiP0 (fm : Form) (d : Nat) (a : Nat) (imm : Int)
  | andiP0 (fm : Form) (d : Nat) (a : Nat) (imm : Int)
  | shliP0 (fm : Form) (d : Nat) (a : Nat) (imm : Nat)
  | movP0 (fm : Form) (d : Nat) (a : Nat)
  | liP0 (fm : Form) (d : Nat) (imm : Int)
  | ldP0 (fm : Form) (d : Nat) (a : Nat) (imm : Int)
  | stP0 (fm : Form) (d : Nat) (a : Nat) (imm : Int)
  | fldP0 (fm : Form) (d : Nat) (a : Nat) (imm : Int)
  | brP0 (fm : Form) (imm : Int)
  | brcP0 (fm : Form) (d : Nat) (imm : Int)
  | jalP0 (fm : Form) (d : Nat) (imm : Int)
  | jalrP0 (fm : Form) (d : Nat) (a : Nat) (imm : Int)
  | add (fm : Form) (w : Width) (d : Nat) (a : Nat) (b : Nat)
  | sub (fm : Form) (w : Width) (d : Nat) (a : Nat) (b : Nat)
  | mul (fm : Form) (w : Width) (d : Nat) (a : Nat) (b : Nat)
  | mulh (fm : Form) (w : Width) (d : Nat) (a : Nat) (b : Nat)
  | mulhu (fm : Form) (w : Width) (d : Nat) (a : Nat) (b : Nat)
  | div (fm : Form) (w : Width) (d : Nat) (a : Nat) (b : Nat)
  | divu (fm : Form) (w : Width) (d : Nat) (a : Nat) (b : Nat)
  | rem (fm : Form) (w : Width) (d : Nat) (a : Nat) (b : Nat)
  | remu (fm : Form) (w : Width) (d : Nat) (a : Nat) (b : Nat)
  | min (fm : Form) (w : Width) (d : Nat) (a : Nat) (b : Nat)
  | max (fm : Form) (w : Width) (d : Nat) (a : Nat) (b : Nat)
  | minu (fm : Form) (w : Width) (d : Nat) (a : Nat) (b : Nat)
  | maxu (fm : Form) (w : Width) (d : Nat) (a : Nat) (b : Nat)
  | addi (fm : Form) (w : Width) (d : Nat) (a : Nat) (imm : Int)
  | and (fm : Form) (w : Width) (d : Nat) (a : Nat) (b : Nat)
  | andi (fm : Form) (w : Width) (d : Nat) (a : Nat) (imm : Int)
  | andn (fm : Form) (w : Width) (d : Nat) (a : Nat) (b : Nat)
  | or (fm : Form) (w : Width) (d : Nat) (a : Nat) (b : Nat)
  | ori (fm : Form) (w : Width) (d : Nat) (a : Nat) (imm : Int)
  | xor (fm : Form) (w : Width) (d : Nat) (a : Nat) (b : Nat)
  | xori (fm : Form) (w : Width) (d : Nat) (a : Nat) (imm : Int)
  | shl (fm : Form) (w : Width) (d : Nat) (a : Nat) (b : Nat)
  | shli (fm : Form) (w : Width) (d : Nat) (a : Nat) (imm : Nat)
  | shr (fm : Form) (w : Width) (d : Nat) (a : Nat) (b : Nat)
  | shri (fm : Form) (w : Width) (d : Nat) (a : Nat) (imm : Nat)
  | sra (fm : Form) (w : Width) (d : Nat) (a : Nat) (b : Nat)
  | srai (fm : Form) (w : Width) (d : Nat) (a : Nat) (imm : Nat)
  | rotr (fm : Form) (w : Width) (d : Nat) (a : Nat) (b : Nat)
  | rotri (fm : Form) (w : Width) (d : Nat) (a : Nat) (imm : Nat)
  | clz (fm : Form) (w : Width) (d : Nat) (a : Nat)
  | ctz (fm : Form) (w : Width) (d : Nat) (a : Nat)
  | popc (fm : Form) (w : Width) (d : Nat) (a : Nat)
  | rev8 (fm : Form) (w : Width) (d : Nat) (a : Nat)
  | sext (fm : Form) (x : Ex) (d : Nat) (a : Nat)
  | zext (fm : Form) (x : Ex) (d : Nat) (a : Nat)
  | bfx (fm : Form) (w : Width) (d : Nat) (a : Nat) (imm : Nat)
  | bfi (fm : Form) (w : Width) (d : Nat) (a : Nat) (imm : Nat)
  | lea (fm : Form) (d : Nat) (a : Nat) (imm : Int)
  | li (fm : Form) (d : Nat) (imm : Int)
  | mov (fm : Form) (d : Nat) (a : Nat)
  | sel (fm : Form) (k : Nat) (d : Nat) (a : Nat) (b : Nat)
  | cmp (fm : Form) (c : Cc) (d : Nat) (a : Nat) (b : Nat)
  | cmpi (fm : Form) (c : Cc) (d : Nat) (a : Nat) (imm : Int)
  | pand (fm : Form) (d : Nat) (a : Nat) (b : Nat)
  | por (fm : Form) (d : Nat) (a : Nat) (b : Nat)
  | pxor (fm : Form) (d : Nat) (a : Nat) (b : Nat)
  | pnot (fm : Form) (d : Nat) (a : Nat)
  | pmov (fm : Form) (d : Nat) (a : Nat)
  | br (fm : Form) (imm : Int)
  | brc (fm : Form) (d : Nat) (imm : Int)
  | jal (fm : Form) (d : Nat) (imm : Int)
  | jalr (fm : Form) (d : Nat) (a : Nat) (imm : Int)
  | ld (fm : Form) (z : Sz) (d : Nat) (a : Nat) (imm : Int)
  | ldz (fm : Form) (z : Ex) (d : Nat) (a : Nat) (imm : Int)
  | st (fm : Form) (z : Sz) (d : Nat) (a : Nat) (imm : Int)
  | ldx (fm : Form) (z : Sz) (d : Nat) (a : Nat) (b : Nat)
  | stx (fm : Form) (z : Sz) (d : Nat) (a : Nat) (b : Nat)
  | ldp (fm : Form) (z : Wd) (d : Nat) (a : Nat) (imm : Int)
  | stp (fm : Form) (z : Wd) (d : Nat) (a : Nat) (imm : Int)
  | lda (fm : Form) (sc : Scope) (z : Wd) (d : Nat) (a : Nat) (imm : Int)
  | stl (fm : Form) (sc : Scope) (z : Wd) (d : Nat) (a : Nat) (imm : Int)
  | fld (fm : Form) (z : Fs) (d : Nat) (a : Nat) (imm : Int)
  | fst (fm : Form) (z : Fs) (d : Nat) (a : Nat) (imm : Int)
  | pref (fm : Form) (lv : Pf) (a : Nat) (imm : Int)
  | sbst (fm : Form) (sb : Sb) (d : Nat) (a : Nat) (imm : Int)
  | ldw (fm : Form) (z : Wd) (d : Nat) (a : Nat) (imm : Int)
  | chkw (fm : Form) (imm : Int)
  | amoadd (fm : Form) (o : Order) (z : Wd) (sc : Scope) (d : Nat) (a : Nat) (b : Nat)
  | amoand (fm : Form) (o : Order) (z : Wd) (sc : Scope) (d : Nat) (a : Nat) (b : Nat)
  | amoor (fm : Form) (o : Order) (z : Wd) (sc : Scope) (d : Nat) (a : Nat) (b : Nat)
  | amoxor (fm : Form) (o : Order) (z : Wd) (sc : Scope) (d : Nat) (a : Nat) (b : Nat)
  | amomin (fm : Form) (o : Order) (z : Wd) (sc : Scope) (d : Nat) (a : Nat) (b : Nat)
  | amomax (fm : Form) (o : Order) (z : Wd) (sc : Scope) (d : Nat) (a : Nat) (b : Nat)
  | amominu (fm : Form) (o : Order) (z : Wd) (sc : Scope) (d : Nat) (a : Nat) (b : Nat)
  | amomaxu (fm : Form) (o : Order) (z : Wd) (sc : Scope) (d : Nat) (a : Nat) (b : Nat)
  | amoswap (fm : Form) (o : Order) (z : Wd) (sc : Scope) (d : Nat) (a : Nat) (b : Nat)
  | amocas (fm : Form) (o : Order) (z : Wd) (sc : Scope) (d : Nat) (a : Nat) (b : Nat)
  | amofadd (fm : Form) (o : Order) (z : Wd) (sc : Scope) (d : Nat) (a : Nat) (b : Nat)
  | fence (fm : Form) (k : Fk) (sc : Scope)
  | waitne (fm : Form) (d : Nat) (a : Nat) (b : Nat)
  | yield (fm : Form)
  | tspawn (fm : Form) (d : Nat) (a : Nat)
  | texit (fm : Form)
  | tbar (fm : Form) (imm : Nat)
  | tinfo (fm : Form) (d : Nat)
  | gtidrd (fm : Form) (d : Nat)
  | rdcyc (fm : Form) (d : Nat)
  | rdtime (fm : Form) (d : Nat)
  | fadd (fm : Form) (f : Fmt) (rx : Nat) (d : Nat) (a : Nat) (b : Nat)
  | fsub (fm : Form) (f : Fmt) (rx : Nat) (d : Nat) (a : Nat) (b : Nat)
  | fmul (fm : Form) (f : Fmt) (rx : Nat) (d : Nat) (a : Nat) (b : Nat)
  | fdiv (fm : Form) (f : Fmt) (rx : Nat) (d : Nat) (a : Nat) (b : Nat)
  | fsqrt (fm : Form) (f : Fmt) (rx : Nat) (d : Nat) (a : Nat)
  | fma (fm : Form) (f : Fmt) (rx : Nat) (d : Nat) (a : Nat) (b : Nat)
  | fms (fm : Form) (f : Fmt) (rx : Nat) (d : Nat) (a : Nat) (b : Nat)
  | fnma (fm : Form) (f : Fmt) (rx : Nat) (d : Nat) (a : Nat) (b : Nat)
  | fmin (fm : Form) (f : Fmt) (rx : Nat) (d : Nat) (a : Nat) (b : Nat)
  | fmax (fm : Form) (f : Fmt) (rx : Nat) (d : Nat) (a : Nat) (b : Nat)
  | fabs (fm : Form) (f : Fmt) (rx : Nat) (d : Nat) (a : Nat)
  | fneg (fm : Form) (f : Fmt) (rx : Nat) (d : Nat) (a : Nat)
  | fsgnj (fm : Form) (f : Fmt) (rx : Nat) (d : Nat) (a : Nat) (b : Nat)
  | fcmp (fm : Form) (c : Fcc) (f : Fmt) (rx : Nat) (d : Nat) (a : Nat) (b : Nat)
  | fclass (fm : Form) (f : Fmt) (rx : Nat) (d : Nat) (a : Nat)
  | fcvt (fm : Form) (df : Fmt) (sf : Fmt) (rx : Nat) (d : Nat) (a : Nat)
  | fcvti (fm : Form) (iw : IW) (f : Fmt) (rx : Nat) (d : Nat) (a : Nat)
  | icvtf (fm : Form) (iw : IW) (f : Fmt) (rx : Nat) (d : Nat) (a : Nat)
  | fmvg (fm : Form) (d : Nat) (a : Nat)
  | gmvf (fm : Form) (d : Nat) (a : Nat)
  | frcpa (fm : Form) (f : Fmt) (rx : Nat) (d : Nat) (a : Nat)
  | frsqa (fm : Form) (f : Fmt) (rx : Nat) (d : Nat) (a : Nat)
  | vwin (fm : Form) (d : Nat) (a : Nat)
  | vadd (fm : Form) (z : Bool) (k : Nat) (d : Nat) (a : Nat) (b : Nat)
  | vsub (fm : Form) (z : Bool) (k : Nat) (d : Nat) (a : Nat) (b : Nat)
  | vmul (fm : Form) (z : Bool) (k : Nat) (d : Nat) (a : Nat) (b : Nat)
  | vfma (fm : Form) (z : Bool) (k : Nat) (d : Nat) (a : Nat) (b : Nat)
  | vfms (fm : Form) (z : Bool) (k : Nat) (d : Nat) (a : Nat) (b : Nat)
  | vmin (fm : Form) (z : Bool) (k : Nat) (d : Nat) (a : Nat) (b : Nat)
  | vmax (fm : Form) (z : Bool) (k : Nat) (d : Nat) (a : Nat) (b : Nat)
  | vabs (fm : Form) (z : Bool) (k : Nat) (d : Nat) (a : Nat)
  | vneg (fm : Form) (z : Bool) (k : Nat) (d : Nat) (a : Nat)
  | vand (fm : Form) (z : Bool) (k : Nat) (d : Nat) (a : Nat) (b : Nat)
  | vor (fm : Form) (z : Bool) (k : Nat) (d : Nat) (a : Nat) (b : Nat)
  | vxor (fm : Form) (z : Bool) (k : Nat) (d : Nat) (a : Nat) (b : Nat)
  | vshl (fm : Form) (z : Bool) (k : Nat) (d : Nat) (a : Nat) (b : Nat)
  | vshr (fm : Form) (z : Bool) (k : Nat) (d : Nat) (a : Nat) (b : Nat)
  | vcvt (fm : Form) (hi : Bool) (tg : Tag) (d : Nat) (a : Nat) (b : Nat)
  | vbcast (fm : Form) (z : Bool) (k : Nat) (d : Nat) (a : Nat) (b : Nat)
  | vbcl (fm : Form) (z : Bool) (k : Nat) (d : Nat) (a : Nat) (b : Nat)
  | vperm (fm : Form) (z : Bool) (k : Nat) (d : Nat) (a : Nat) (b : Nat)
  | vrot (fm : Form) (z : Bool) (k : Nat) (d : Nat) (a : Nat) (b : Nat)
  | vred (fm : Form) (op : Rop) (d : Nat) (a : Nat) (b : Nat)
  | vscan (fm : Form) (z : Bool) (op : Rop) (d : Nat) (a : Nat) (b : Nat)
  | vcmp (fm : Form) (u : Bool) (c : Vcc) (d : Nat) (a : Nat) (b : Nat)
  | vmerge (fm : Form) (inv : Bool) (k : Nat) (d : Nat) (a : Nat) (b : Nat)
  | vmlog (fm : Form) (op : Mop) (d : Nat) (a : Nat) (b : Nat)
  | vmpopc (fm : Form) (d : Nat) (a : Nat)
  | vrcpa (fm : Form) (z : Bool) (k : Nat) (d : Nat) (a : Nat)
  | vrsqa (fm : Form) (z : Bool) (k : Nat) (d : Nat) (a : Nat)
  | vexp2a (fm : Form) (z : Bool) (k : Nat) (d : Nat) (a : Nat)
  | vlog2a (fm : Form) (z : Bool) (k : Nat) (d : Nat) (a : Nat)
  | vld (fm : Form) (z : Bool) (k : Nat) (d : Nat) (a : Nat) (imm : Int)
  | vst (fm : Form) (z : Bool) (k : Nat) (d : Nat) (a : Nat) (imm : Int)
  | vlds (fm : Form) (z : Bool) (k : Nat) (d : Nat) (a : Nat) (b : Nat)
  | vsts (fm : Form) (z : Bool) (k : Nat) (d : Nat) (a : Nat) (b : Nat)
  | vgath (fm : Form) (z : Bool) (k : Nat) (d : Nat) (a : Nat) (b : Nat)
  | vscat (fm : Form) (z : Bool) (k : Nat) (d : Nat) (a : Nat) (b : Nat)
  | vmovg (fm : Form) (z : Bool) (k : Nat) (d : Nat) (a : Nat) (b : Nat)
  | vmovf (fm : Form) (z : Bool) (k : Nat) (d : Nat) (a : Nat) (b : Nat)
  | vmov (fm : Form) (z : Bool) (k : Nat) (d : Nat) (a : Nat)
  | tmma (fm : Form) (pr : Pair) (wide : Bool) (k : Nat) (fs : Nat) (d : Nat) (a : Nat) (b : Nat)
  | tmmaChained (fm : Form) (pr : Pair) (wide : Bool) (k : Nat) (fs : Nat) (d : Nat) (a : Nat) (b : Nat)
  | tld (fm : Form) (b0 : Bool) (rows : Nat) (bytes : Nat) (d : Nat) (a : Nat) (b : Nat)
  | tlds (fm : Form) (b0 : Bool) (sx : SxK) (rows : Nat) (d : Nat) (a : Nat) (b : Nat)
  | tsto (fm : Form) (rows : Nat) (bytes : Nat) (d : Nat) (a : Nat) (b : Nat)
  | tzero (fm : Form) (tgt : ZeroKind) (d : Nat)
  | tmov (fm : Form) (mk : MovKind) (d : Nat) (a : Nat)
  | tgang (fm : Form) (imm : Nat)
  | tdrain (fm : Form) (o : OFmt) (free : Bool) (fs : Nat) (d : Nat) (a : Nat) (b : Nat)
  | tdraint (fm : Form) (o : OFmt) (o2 : OFmt) (free : Bool) (fs : Nat) (ft : Nat) (d : Nat) (a : Nat) (b : Nat)
  | tfree (fm : Form) (acc : Bool) (d : Nat) (a : Nat)
  | tsync (fm : Form)
  | tctlSeed (fm : Form) (d : Nat)
  | tctlRd (fm : Form) (d : Nat)
  | tctlClr (fm : Form)
  | tqryRows (fm : Form) (d : Nat) (a : Nat)
  | tqryAcc (fm : Form) (d : Nat) (a : Nat)
  | tqryCell (fm : Form) (d : Nat) (a : Nat)
  | tqryFree (fm : Form) (d : Nat)
  | tqryGang (fm : Form) (d : Nat)
  | tqryCorr (fm : Form) (d : Nat)
  | tqryUnck (fm : Form) (d : Nat)
  | xcopy (fm : Form) (d : Nat) (a : Nat)
  | xcopy2 (fm : Form) (d : Nat) (a : Nat)
  | xgath (fm : Form) (d : Nat) (a : Nat)
  | xscat (fm : Form) (d : Nat) (a : Nat)
  | xfill (fm : Form) (d : Nat) (a : Nat)
  | xwarm (fm : Form) (llc : Bool) (d : Nat) (a : Nat)
  | xcollAr (fm : Form) (d : Nat) (a : Nat)
  | xcollAg (fm : Form) (d : Nat) (a : Nat)
  | xcollRs (fm : Form) (d : Nat) (a : Nat)
  | xcollBc (fm : Form) (d : Nat) (a : Nat)
  | xdrain (fm : Form) (mc : Mc)
  | xcancel (fm : Form) (d : Nat) (a : Nat)
  | svc (fm : Form) (imm : Nat)
  | hvc (fm : Form) (imm : Nat)
  | mvc (fm : Form) (imm : Nat)
  | tret (fm : Form)
  | srd (fm : Form) (d : Nat) (imm : Nat)
  | swr (fm : Form) (a : Nat) (imm : Nat)
  | sset (fm : Form) (d : Nat) (a : Nat) (imm : Nat)
  | sclr (fm : Form) (d : Nat) (a : Nat) (imm : Nat)
  | tlbinv (fm : Form) (a : Nat) (b : Nat)
  | tlbsync (fm : Form)
  | cflush (fm : Form) (a : Nat) (imm : Int)
  | cinv (fm : Form) (a : Nat) (imm : Int)
  | cwb (fm : Form) (a : Nat) (imm : Int)
  | wfi (fm : Form)
  | halt (fm : Form)
  | ctxsw (fm : Form)
  | ctxld (fm : Form) (d : Nat) (a : Nat)
  | ctxsp (fm : Form) (d : Nat) (a : Nat)
  | wpins (fm : Form) (a : Nat) (b : Nat)
  | wpclr (fm : Form)
  | bkpt (fm : Form) (imm : Nat)
  | dump (fm : Form) (d : Nat) (a : Nat) (b : Nat)
  | pgmig (fm : Form) (d : Nat) (a : Nat) (b : Nat)
  | pgcmp (fm : Form) (d : Nat) (a : Nat)
  | instructionFetchFault (ff : FetchFault)
  | contextSwap (core : Nat)
  | ipiMessage (core : Nat) (pid : Nat)
  | rootCheck (ok : Bool)
  | dieLinkTraining (ddok : Nat) (ccok : Nat)
  | hbmTraining (ok : Nat)
  | copyCommandStart (id : Nat)
  | copyCommandEnd (id : Nat)
  | hostMemoryAccess (rq : HostReq)
  | hostRegisterAccess (wr : Bool) (off : Nat) (n : Nat) (v : Word)
  | fillRequest (die : Nat) (line : Nat)
  | fillReply (die : Nat) (line : Nat)
  | writeThrough (die : Nat) (line : Nat)
  | writeThroughAck (die : Nat) (line : Nat)
  | fabricMessage (src : Nat) (dst : Nat) (seq : Nat)
  | fabricAck (src : Nat) (dst : Nat) (seq : Nat)
  | quantumBoundary (core : Nat)
  | storeBufferDrain (core : Nat)
  | eccError (site : EccSite)
  | generationSweepEnd (die : Nat)
  | cellarStallResume
  | cellarStallTimeout
  | tmmaComplete
  | auditReplay (rec : Nat) (eng : Nat)
  | auditTieBreak (rec : Nat) (eng : Nat)
  | auditTimeout (rec : Nat)
  | gangGrant
  | persistentRequest (core : Nat) (line : Nat)
  | confirmationRequest (gtid : Nat) (line : Nat)
  | waysideAnswer (gtid : Nat) (line : Nat)
  | waysideTimeout (gtid : Nat) (line : Nat)
  | retentionExit (die : Nat) (slice : Nat)
  | remotePackageRequest (pkg : Nat) (rq : SentReq)
  | handOver (frame : Nat) (pkg : Nat)
  | pageWalk (va : Word) (acc : Nat)
  | notPresentExpiry (va : Word)
  | pageExpansion (va : Word)
  | frameTranslation (frame : Nat)
  | isolationWindow (core : Nat)
  | backgroundSpill (core : Nat)
  | lodgedTileEviction (core : Nat)
  | tileNameReload
  | interruptEntry
  | asyncCauseDelivery
  | ipiWrite (v : Word)
  | hostirqWrite (v : Word)
  | xstateWrite (v : Word)
  | celshrWrite (v : Word)
  | rprselWrite (v : Word)
  | rpraddWrite (v : Word)
  | bootstWrite (v : Word)
  | systemRegisterWrite (n : Nat) (v : Word)
  | spawnRequest
  | acceptanceRecorded
  | chunkRequest
  | groupAdmission (pid : Nat)
  | runQueueRestore (core : Nat)
  | restoreComplete (core : Nat)
  | teamCompletion (team : Nat)
  | threadKill (gtid : Nat) (contained : Bool)
  | masterElection
  | dieFence (die : Nat)
  | agentDeclaredDead (ag : Agent)
  | staleMessage (ag : Agent) (line : Nat) (inc : Nat)
  | fabricResend (src : Nat) (dst : Nat) (seq : Nat)
  | linkDown (port : Nat)
  | routeRepair
  | collectiveStart (grp : Nat) (cid : Nat)
  | collectiveAbort (grp : Nat) (cid : Nat)
  | rollCall
  | rollcallPeriodChange
  | packageReset
  | powerOnStable
  | coreRelease
  | healthMonitorRefresh (die : Nat) (kind : Nat) (idx : Nat) (value : Nat) (alarm : Bool)
  | thermalReset (die : Nat)
  | governorClockChange
  | hostLinkTraining (cxl : Bool) (rate : Nat) (width : Nat)
  | doorbellWrite (vf : Nat) (off : Nat) (n : Nat) (v : Word)
  | doorbellRead (vf : Nat) (off : Nat) (n : Nat)
  | mbdoor
  | idcert
  | mailboxQuote
  | logread
  | bistread
  | forwardedMailboxCommand
  | unknownMailboxCommand
  | mbstatWrite (v : Word)
  | rdcsize
  | pool
  | zone
  | propose
  | expand
  | runq
  | sapool
  | elect
  | auditcfg
  | auditlog
  | auditrun
  | auditrule
  | quarantine
  | dbgstop
  | rollcall
  | groupbind
  | routeset
  | notify
  | hostvf
  | hostwin
  | extend
  | quote
  | illegalInstruction
  | atomicAtHome (die : Nat) (line : Nat)
  | tlbRemovalComplete
  | retentionEntry (die : Nat) (slice : Nat)
  | hostLinkFailure
  | managementRestart (core : Nat)
deriving DecidableEq, Repr

end Sys2Proof
end

