-- ==== Sys2Proof/Machine/Encoding.lean ====
section
/-! DEFINITION. The encoding of every instruction as the spec's opcode map gives it (R78 to R91): page,
major, variant, format, register fields and immediate. `Decode.lean` builds the words and reads them
back, `WellFormed.lean` states the limits. -/

namespace Sys2Proof

/-- Code of a `Width` in its field. -/
def Width.code : Width → Nat
  | .w64 => 0
  | .w32 => 1

/-- The `Width` a code stands for, if it stands for one. -/
def Width.ofCode : Nat → Option Width
  | 0 => some .w64
  | 1 => some .w32
  | _ => none

/-- Code of a `Ex` in its field. -/
def Ex.code : Ex → Nat
  | .byte => 0
  | .half => 1
  | .word => 2

/-- The `Ex` a code stands for, if it stands for one. -/
def Ex.ofCode : Nat → Option Ex
  | 0 => some .byte
  | 1 => some .half
  | 2 => some .word
  | _ => none

/-- Code of a `Cc` in its field. -/
def Cc.code : Cc → Nat
  | .eq => 0
  | .ne => 1
  | .lt => 2
  | .ge => 3
  | .ltu => 4
  | .geu => 5

/-- The `Cc` a code stands for, if it stands for one. -/
def Cc.ofCode : Nat → Option Cc
  | 0 => some .eq
  | 1 => some .ne
  | 2 => some .lt
  | 3 => some .ge
  | 4 => some .ltu
  | 5 => some .geu
  | _ => none

/-- Code of a `Sz` in its field. -/
def Sz.code : Sz → Nat
  | .byte => 0
  | .half => 1
  | .word => 2
  | .dbl => 3

/-- The `Sz` a code stands for, if it stands for one. -/
def Sz.ofCode : Nat → Option Sz
  | 0 => some .byte
  | 1 => some .half
  | 2 => some .word
  | 3 => some .dbl
  | _ => none

/-- Code of a `Wd` in its field. -/
def Wd.code : Wd → Nat
  | .word => 0
  | .dbl => 1

/-- The `Wd` a code stands for, if it stands for one. -/
def Wd.ofCode : Nat → Option Wd
  | 0 => some .word
  | 1 => some .dbl
  | _ => none

/-- Code of a `Scope` in its field. -/
def Scope.code : Scope → Nat
  | .cluster => 0
  | .die => 1
  | .pkg => 2
  | .node => 3
  | .sys => 4

/-- The `Scope` a code stands for, if it stands for one. -/
def Scope.ofCode : Nat → Option Scope
  | 0 => some .cluster
  | 1 => some .die
  | 2 => some .pkg
  | 3 => some .node
  | 4 => some .sys
  | _ => none

/-- Code of a `Fs` in its field. -/
def Fs.code : Fs → Nat
  | .half => 0
  | .word => 1
  | .dbl => 2

/-- The `Fs` a code stands for, if it stands for one. -/
def Fs.ofCode : Nat → Option Fs
  | 0 => some .half
  | 1 => some .word
  | 2 => some .dbl
  | _ => none

/-- Code of a `Pf` in its field. -/
def Pf.code : Pf → Nat
  | .l1 => 0
  | .l2 => 1
  | .llc => 2
  | .l1w => 3

/-- The `Pf` a code stands for, if it stands for one. -/
def Pf.ofCode : Nat → Option Pf
  | 0 => some .l1
  | 1 => some .l2
  | 2 => some .llc
  | 3 => some .l1w
  | _ => none

/-- Code of a `Sb` in its field. -/
def Sb.code : Sb → Nat
  | .two => 0
  | .four => 1

/-- The `Sb` a code stands for, if it stands for one. -/
def Sb.ofCode : Nat → Option Sb
  | 0 => some .two
  | 1 => some .four
  | _ => none

/-- Code of a `Order` in its field. -/
def Order.code : Order → Nat
  | .relaxed => 0
  | .acq => 1
  | .rel => 2
  | .ar => 3

/-- The `Order` a code stands for, if it stands for one. -/
def Order.ofCode : Nat → Option Order
  | 0 => some .relaxed
  | 1 => some .acq
  | 2 => some .rel
  | 3 => some .ar
  | _ => none

/-- Code of a `Fk` in its field. -/
def Fk.code : Fk → Nat
  | .load => 0
  | .store => 1
  | .acquire => 2
  | .release => 3
  | .sc => 4

/-- The `Fk` a code stands for, if it stands for one. -/
def Fk.ofCode : Nat → Option Fk
  | 0 => some .load
  | 1 => some .store
  | 2 => some .acquire
  | 3 => some .release
  | 4 => some .sc
  | _ => none

/-- Code of a `Fmt` in its field. -/
def Fmt.code : Fmt → Nat
  | .fp64 => 0
  | .fp32 => 1
  | .fp16 => 2
  | .bf16 => 3

/-- The `Fmt` a code stands for, if it stands for one. -/
def Fmt.ofCode : Nat → Option Fmt
  | 0 => some .fp64
  | 1 => some .fp32
  | 2 => some .fp16
  | 3 => some .bf16
  | _ => none

/-- Code of a `Fcc` in its field. -/
def Fcc.code : Fcc → Nat
  | .eq => 0
  | .lt => 1
  | .le => 2
  | .un => 3

/-- The `Fcc` a code stands for, if it stands for one. -/
def Fcc.ofCode : Nat → Option Fcc
  | 0 => some .eq
  | 1 => some .lt
  | 2 => some .le
  | 3 => some .un
  | _ => none

/-- Code of a `IW` in its field. -/
def IW.code : IW → Nat
  | .int64 => 0
  | .int32 => 1

/-- The `IW` a code stands for, if it stands for one. -/
def IW.ofCode : Nat → Option IW
  | 0 => some .int64
  | 1 => some .int32
  | _ => none

/-- Code of a `Vcc` in its field. -/
def Vcc.code : Vcc → Nat
  | .eq => 0
  | .ne => 1
  | .lt => 2
  | .le => 3
  | .un => 4

/-- The `Vcc` a code stands for, if it stands for one. -/
def Vcc.ofCode : Nat → Option Vcc
  | 0 => some .eq
  | 1 => some .ne
  | 2 => some .lt
  | 3 => some .le
  | 4 => some .un
  | _ => none

/-- Code of a `Rop` in its field. -/
def Rop.code : Rop → Nat
  | .add => 0
  | .min => 1
  | .max => 2
  | .and => 3
  | .or => 4
  | .xor => 5

/-- The `Rop` a code stands for, if it stands for one. -/
def Rop.ofCode : Nat → Option Rop
  | 0 => some .add
  | 1 => some .min
  | 2 => some .max
  | 3 => some .and
  | 4 => some .or
  | 5 => some .xor
  | _ => none

/-- Code of a `Mop` in its field. -/
def Mop.code : Mop → Nat
  | .and => 0
  | .or => 1
  | .xor => 2
  | .andn => 3

/-- The `Mop` a code stands for, if it stands for one. -/
def Mop.ofCode : Nat → Option Mop
  | 0 => some .and
  | 1 => some .or
  | 2 => some .xor
  | 3 => some .andn
  | _ => none

/-- Code of a `Tag` in its field. -/
def Tag.code : Tag → Nat
  | .empty => 0
  | .fp32 => 1
  | .int => 2
  | .i32 => 3
  | .fp64 => 4
  | .bf16 => 5
  | .fp16 => 6

/-- The `Tag` a code stands for, if it stands for one. -/
def Tag.ofCode : Nat → Option Tag
  | 0 => some .empty
  | 1 => some .fp32
  | 2 => some .int
  | 3 => some .i32
  | 4 => some .fp64
  | 5 => some .bf16
  | 6 => some .fp16
  | _ => none

/-- Code of a `Pair` in its field. -/
def Pair.code : Pair → Nat
  | .fp64 => 0
  | .fp32 => 1
  | .bf16 => 2
  | .fp16 => 3
  | .e4m3 => 4
  | .e5m2 => 5
  | .int8 => 6
  | .int4 => 7
  | .sx7 => 8
  | .sx4 => 9
  | .sx2 => 10
  | .e4m3e5m2 => 11
  | .e5m2e4m3 => 12
  | .sx4sx7 => 13

/-- The `Pair` a code stands for, if it stands for one. -/
def Pair.ofCode : Nat → Option Pair
  | 0 => some .fp64
  | 1 => some .fp32
  | 2 => some .bf16
  | 3 => some .fp16
  | 4 => some .e4m3
  | 5 => some .e5m2
  | 6 => some .int8
  | 7 => some .int4
  | 8 => some .sx7
  | 9 => some .sx4
  | 10 => some .sx2
  | 11 => some .e4m3e5m2
  | 12 => some .e5m2e4m3
  | 13 => some .sx4sx7
  | _ => none

/-- Code of a `OFmt` in its field. -/
def OFmt.code : OFmt → Nat
  | .fp32 => 0
  | .fp64 => 1
  | .bf16 => 2
  | .fp16 => 3
  | .e4m3 => 4
  | .e5m2 => 5
  | .int8 => 6
  | .int32 => 7
  | .sx7 => 8
  | .sx4 => 9
  | .sx2 => 10

/-- The `OFmt` a code stands for, if it stands for one. -/
def OFmt.ofCode : Nat → Option OFmt
  | 0 => some .fp32
  | 1 => some .fp64
  | 2 => some .bf16
  | 3 => some .fp16
  | 4 => some .e4m3
  | 5 => some .e5m2
  | 6 => some .int8
  | 7 => some .int32
  | 8 => some .sx7
  | 9 => some .sx4
  | 10 => some .sx2
  | _ => none

/-- Code of a `SxK` in its field. -/
def SxK.code : SxK → Nat
  | .sx7 => 0
  | .sx4 => 1
  | .sx2 => 2

/-- The `SxK` a code stands for, if it stands for one. -/
def SxK.ofCode : Nat → Option SxK
  | 0 => some .sx7
  | 1 => some .sx4
  | 2 => some .sx2
  | _ => none

/-- Code of a `Mc` in its field. -/
def Mc.code : Mc → Nat
  | .loc => 0
  | .pkg => 1
  | .dev => 2
  | .host => 3

/-- The `Mc` a code stands for, if it stands for one. -/
def Mc.ofCode : Nat → Option Mc
  | 0 => some .loc
  | 1 => some .pkg
  | 2 => some .dev
  | 3 => some .host
  | _ => none

/-- Variant of `TZERO` (R158): [3] accumulator, [2:0] tag code. -/
def ZeroKind.code : ZeroKind → Nat
  | .tile => 0
  | .acc t => 8 + t.code

/-- The `TZERO` form of a variant. -/
def ZeroKind.ofCode (v : Nat) : Option ZeroKind :=
  if v = 0 then some .tile else if v < 8 then none else (Tag.ofCode (v - 8)).map .acc

/-- Variant of `TMOV` (R158): [3] convert. -/
def MovKind.code : MovKind → Nat
  | .tile => 0
  | .acc => 1
  | .convert t => 8 + t.code

/-- The `TMOV` form of a variant. -/
def MovKind.ofCode (v : Nat) : Option MovKind :=
  if v = 0 then some .tile else if v = 1 then some .acc
  else if v < 8 then none else (Tag.ofCode (v - 8)).map .convert

/-- Tags a conversion may name: codes 1, 3, 4, 5 and 6 (R158). -/
def Tag.isDest : Tag → Bool
  | .empty => false
  | .int => false
  | _ => true

/-- A `TMOV` form the variant field assigns (R158). -/
def MovKind.ok : MovKind → Bool
  | .convert t => t.isDest
  | _ => true

/-- Pairs a scale register is allowed with: FP8 and SX, mixed pairs included (R89). -/
def Pair.scaled : Pair → Bool
  | .fp64 => false
  | .fp32 => false
  | .bf16 => false
  | .fp16 => false
  | .int8 => false
  | .int4 => false
  | _ => true

/-- SX output formats (R184). -/
def OFmt.isSx : OFmt → Bool
  | .sx7 => true
  | .sx4 => true
  | .sx2 => true
  | _ => false

/-- Output formats a drain scale is allowed with: FP8, INT8 and SX (R184). -/
def OFmt.scaled : OFmt → Bool
  | .e4m3 => true
  | .e5m2 => true
  | .int8 => true
  | o => o.isSx

/-- Range of an immediate shift amount (R98). -/
def shiftOk (w : Width) (v : Nat) : Bool :=
  match w with
  | .w64 => decide (v < 64)
  | .w32 => decide (v < 32)

/-- Range of the `BFX` and `BFI` immediate (R98): at most 4,095, position plus width inside the word. -/
def fieldOk (w : Width) (v : Nat) : Bool :=
  decide (v ≤ 4095) && decide (v % 64 + (v / 64 + 1) ≤ (match w with | .w64 => 64 | .w32 => 32))

/-- An unsigned immediate of at most `n`. -/
def rangeOk (n v : Nat) : Bool := decide (v ≤ n)

/-- Gang sizes (R175). -/
def gangOk (v : Nat) : Bool := decide (v = 1 ∨ v = 2 ∨ v = 4)

/-- Scope payload of an atomic (R89); without `PFX.X` the scope is sys. -/
def scopePayload (fm : Form) (sc : Scope) : Nat := if fm.nx = 0 then 0 else sc.code

/-- Payload of `TMMA` (R89). -/
def tmmaPayload (wide : Bool) (k fs : Nat) : Nat := (if wide then 256 else 0) + (k - 1) * 64 + fs

/-- Payload of `TLD` and `TSTO` (R158). -/
def rowsPayload (rows bytes : Nat) : Nat := (16 - bytes / 8) * 64 + (64 - rows)

/-- Payload of `TDRAINT` (R158). -/
def tdraintPayload (o2 : OFmt) (free : Bool) (fs ft : Nat) : Nat :=
  ft * 2048 + o2.code * 128 + (if free then 64 else 0) + fs

/-- Base-word formats (R78). -/
inductive WFmt where
  | R
  | I
  | L
  | C
  | J
  | N
deriving DecidableEq, Repr

/-- What a register field names (R84): nothing (reserved), a register of a file, an even or odd pair
of `g` registers from its first, or a vector row with its window bit. -/
inductive FKind where
  | none
  | g
  | gp
  | f
  | t
  | c
  | p
  | m
  | v
deriving DecidableEq, Repr

/-- Greatest number a field may name, window bit left out (R84); `gp` also needs the next register. -/
def FKind.limit : FKind → Nat
  | .none => 0
  | .g => 63
  | .gp => 62
  | .f => 63
  | .t => 15
  | .c => 7
  | .p => 7
  | .m => 7
  | .v => 63

/-- A register field: what it names and its value. -/
structure Fld where
  kind : FKind
  val : Nat
deriving DecidableEq, Repr

/-- The immediate of an instruction: none, signed (R79), unsigned with the range its chapter gives, or
a payload of named fields carried by at most `maxX` `PFX.X` words (R83). -/
inductive ImmSpec where
  | none
  | signed (v : Int)
  | unsigned (v : Nat) (ok : Nat → Bool)
  | payload (v : Nat) (maxX : Nat)

/-- The encoding of one instruction. `rep` says that the map marks it repeatable, `ok` that its variant
and payload fields are assigned values. -/
structure Enc where
  fm : Form
  page : Nat
  major : Nat
  variant : Nat
  fmt : WFmt
  d : Fld
  a : Fld
  b : Fld
  imm : ImmSpec
  rep : Bool
  ok : Bool

/-- No register in this field. -/
def noFld : Fld := ⟨.none, 0⟩

/-- File of the `TZERO` destination (R158). -/
def ZeroKind.kind : ZeroKind → FKind
  | .tile => .t
  | .acc _ => .c

/-- File of the `TMOV` operands (R158). -/
def MovKind.kind : MovKind → FKind
  | .tile => .t
  | _ => .c

/-- Kind of the address fields of `TDRAIN`: SX output also reads the next register (R158). -/
def OFmt.addrKind (o : OFmt) : FKind := if o.isSx then .gp else .g

/-- The encoding of every instruction (R90, R98, R120, R129, R158, R206, R221, R286); `none` for a row without bits. -/
def Instr.enc : Instr → Option Enc
  | .addP0 fm d a b => some ⟨fm, 0, 0, 0, .R, ⟨.g, d⟩, ⟨.g, a⟩, ⟨.g, b⟩, .none, true, true⟩
  | .subP0 fm d a b => some ⟨fm, 0, 1, 0, .R, ⟨.g, d⟩, ⟨.g, a⟩, ⟨.g, b⟩, .none, true, true⟩
  | .addiP0 fm d a imm => some ⟨fm, 0, 2, 0, .I, ⟨.g, d⟩, ⟨.g, a⟩, noFld, .signed imm, true, true⟩
  | .andiP0 fm d a imm => some ⟨fm, 0, 3, 0, .I, ⟨.g, d⟩, ⟨.g, a⟩, noFld, .signed imm, true, true⟩
  | .shliP0 fm d a imm => some ⟨fm, 0, 4, 0, .I, ⟨.g, d⟩, ⟨.g, a⟩, noFld, .unsigned imm (shiftOk .w64), true, true⟩
  | .movP0 fm d a => some ⟨fm, 0, 5, 0, .R, ⟨.g, d⟩, ⟨.g, a⟩, noFld, .none, true, true⟩
  | .liP0 fm d imm => some ⟨fm, 0, 6, 0, .L, ⟨.g, d⟩, noFld, noFld, .signed imm, true, true⟩
  | .ldP0 fm d a imm => some ⟨fm, 0, 7, 0, .I, ⟨.g, d⟩, ⟨.g, a⟩, noFld, .signed imm, true, true⟩
  | .stP0 fm d a imm => some ⟨fm, 0, 8, 0, .I, ⟨.g, d⟩, ⟨.g, a⟩, noFld, .signed imm, true, true⟩
  | .fldP0 fm d a imm => some ⟨fm, 0, 9, 0, .I, ⟨.f, d⟩, ⟨.g, a⟩, noFld, .signed imm, true, true⟩
  | .brP0 fm imm => some ⟨fm, 0, 10, 0, .J, noFld, noFld, noFld, .signed imm, false, true⟩
  | .brcP0 fm d imm => some ⟨fm, 0, 11, 0, .C, ⟨.p, d⟩, noFld, noFld, .signed imm, false, true⟩
  | .jalP0 fm d imm => some ⟨fm, 0, 12, 0, .L, ⟨.g, d⟩, noFld, noFld, .signed imm, false, true⟩
  | .jalrP0 fm d a imm => some ⟨fm, 0, 13, 0, .I, ⟨.g, d⟩, ⟨.g, a⟩, noFld, .signed imm, false, true⟩
  | .add fm w d a b => some ⟨fm, 1, 0, w.code, .R, ⟨.g, d⟩, ⟨.g, a⟩, ⟨.g, b⟩, .none, true, true⟩
  | .sub fm w d a b => some ⟨fm, 1, 1, w.code, .R, ⟨.g, d⟩, ⟨.g, a⟩, ⟨.g, b⟩, .none, true, true⟩
  | .mul fm w d a b => some ⟨fm, 1, 2, w.code, .R, ⟨.g, d⟩, ⟨.g, a⟩, ⟨.g, b⟩, .none, true, true⟩
  | .mulh fm w d a b => some ⟨fm, 1, 3, w.code, .R, ⟨.g, d⟩, ⟨.g, a⟩, ⟨.g, b⟩, .none, true, true⟩
  | .mulhu fm w d a b => some ⟨fm, 1, 4, w.code, .R, ⟨.g, d⟩, ⟨.g, a⟩, ⟨.g, b⟩, .none, true, true⟩
  | .div fm w d a b => some ⟨fm, 1, 5, w.code, .R, ⟨.g, d⟩, ⟨.g, a⟩, ⟨.g, b⟩, .none, true, true⟩
  | .divu fm w d a b => some ⟨fm, 1, 6, w.code, .R, ⟨.g, d⟩, ⟨.g, a⟩, ⟨.g, b⟩, .none, true, true⟩
  | .rem fm w d a b => some ⟨fm, 1, 7, w.code, .R, ⟨.g, d⟩, ⟨.g, a⟩, ⟨.g, b⟩, .none, true, true⟩
  | .remu fm w d a b => some ⟨fm, 1, 8, w.code, .R, ⟨.g, d⟩, ⟨.g, a⟩, ⟨.g, b⟩, .none, true, true⟩
  | .min fm w d a b => some ⟨fm, 1, 9, w.code, .R, ⟨.g, d⟩, ⟨.g, a⟩, ⟨.g, b⟩, .none, true, true⟩
  | .max fm w d a b => some ⟨fm, 1, 10, w.code, .R, ⟨.g, d⟩, ⟨.g, a⟩, ⟨.g, b⟩, .none, true, true⟩
  | .minu fm w d a b => some ⟨fm, 1, 11, w.code, .R, ⟨.g, d⟩, ⟨.g, a⟩, ⟨.g, b⟩, .none, true, true⟩
  | .maxu fm w d a b => some ⟨fm, 1, 12, w.code, .R, ⟨.g, d⟩, ⟨.g, a⟩, ⟨.g, b⟩, .none, true, true⟩
  | .addi fm w d a imm => some ⟨fm, 1, 13, w.code, .I, ⟨.g, d⟩, ⟨.g, a⟩, noFld, .signed imm, true, true⟩
  | .and fm w d a b => some ⟨fm, 2, 0, w.code, .R, ⟨.g, d⟩, ⟨.g, a⟩, ⟨.g, b⟩, .none, true, true⟩
  | .andi fm w d a imm => some ⟨fm, 2, 1, w.code, .I, ⟨.g, d⟩, ⟨.g, a⟩, noFld, .signed imm, true, true⟩
  | .andn fm w d a b => some ⟨fm, 2, 2, w.code, .R, ⟨.g, d⟩, ⟨.g, a⟩, ⟨.g, b⟩, .none, true, true⟩
  | .or fm w d a b => some ⟨fm, 2, 3, w.code, .R, ⟨.g, d⟩, ⟨.g, a⟩, ⟨.g, b⟩, .none, true, true⟩
  | .ori fm w d a imm => some ⟨fm, 2, 4, w.code, .I, ⟨.g, d⟩, ⟨.g, a⟩, noFld, .signed imm, true, true⟩
  | .xor fm w d a b => some ⟨fm, 2, 5, w.code, .R, ⟨.g, d⟩, ⟨.g, a⟩, ⟨.g, b⟩, .none, true, true⟩
  | .xori fm w d a imm => some ⟨fm, 2, 6, w.code, .I, ⟨.g, d⟩, ⟨.g, a⟩, noFld, .signed imm, true, true⟩
  | .shl fm w d a b => some ⟨fm, 2, 7, w.code, .R, ⟨.g, d⟩, ⟨.g, a⟩, ⟨.g, b⟩, .none, true, true⟩
  | .shli fm w d a imm => some ⟨fm, 2, 8, w.code, .I, ⟨.g, d⟩, ⟨.g, a⟩, noFld, .unsigned imm (shiftOk w), true, true⟩
  | .shr fm w d a b => some ⟨fm, 2, 9, w.code, .R, ⟨.g, d⟩, ⟨.g, a⟩, ⟨.g, b⟩, .none, true, true⟩
  | .shri fm w d a imm => some ⟨fm, 2, 10, w.code, .I, ⟨.g, d⟩, ⟨.g, a⟩, noFld, .unsigned imm (shiftOk w), true, true⟩
  | .sra fm w d a b => some ⟨fm, 2, 11, w.code, .R, ⟨.g, d⟩, ⟨.g, a⟩, ⟨.g, b⟩, .none, true, true⟩
  | .srai fm w d a imm => some ⟨fm, 2, 12, w.code, .I, ⟨.g, d⟩, ⟨.g, a⟩, noFld, .unsigned imm (shiftOk w), true, true⟩
  | .rotr fm w d a b => some ⟨fm, 2, 13, w.code, .R, ⟨.g, d⟩, ⟨.g, a⟩, ⟨.g, b⟩, .none, true, true⟩
  | .rotri fm w d a imm => some ⟨fm, 3, 0, w.code, .I, ⟨.g, d⟩, ⟨.g, a⟩, noFld, .unsigned imm (shiftOk w), true, true⟩
  | .clz fm w d a => some ⟨fm, 3, 1, w.code, .R, ⟨.g, d⟩, ⟨.g, a⟩, noFld, .none, true, true⟩
  | .ctz fm w d a => some ⟨fm, 3, 2, w.code, .R, ⟨.g, d⟩, ⟨.g, a⟩, noFld, .none, true, true⟩
  | .popc fm w d a => some ⟨fm, 3, 3, w.code, .R, ⟨.g, d⟩, ⟨.g, a⟩, noFld, .none, true, true⟩
  | .rev8 fm w d a => some ⟨fm, 3, 4, w.code, .R, ⟨.g, d⟩, ⟨.g, a⟩, noFld, .none, true, true⟩
  | .sext fm x d a => some ⟨fm, 3, 5, x.code, .R, ⟨.g, d⟩, ⟨.g, a⟩, noFld, .none, true, true⟩
  | .zext fm x d a => some ⟨fm, 3, 6, x.code, .R, ⟨.g, d⟩, ⟨.g, a⟩, noFld, .none, true, true⟩
  | .bfx fm w d a imm => some ⟨fm, 3, 7, w.code, .I, ⟨.g, d⟩, ⟨.g, a⟩, noFld, .unsigned imm (fieldOk w), true, true⟩
  | .bfi fm w d a imm => some ⟨fm, 3, 8, w.code, .I, ⟨.g, d⟩, ⟨.g, a⟩, noFld, .unsigned imm (fieldOk w), true, true⟩
  | .lea fm d a imm => some ⟨fm, 3, 9, 0, .I, ⟨.g, d⟩, ⟨.g, a⟩, noFld, .signed imm, true, true⟩
  | .li fm d imm => some ⟨fm, 3, 10, 0, .L, ⟨.g, d⟩, noFld, noFld, .signed imm, true, true⟩
  | .mov fm d a => some ⟨fm, 3, 11, 0, .R, ⟨.g, d⟩, ⟨.g, a⟩, noFld, .none, true, true⟩
  | .sel fm k d a b => some ⟨fm, 3, 12, k, .R, ⟨.g, d⟩, ⟨.g, a⟩, ⟨.g, b⟩, .none, true, decide (k < 8)⟩
  | .cmp fm c d a b => some ⟨fm, 4, 0, c.code, .R, ⟨.p, d⟩, ⟨.g, a⟩, ⟨.g, b⟩, .none, true, true⟩
  | .cmpi fm c d a imm => some ⟨fm, 4, 1, c.code, .I, ⟨.p, d⟩, ⟨.g, a⟩, noFld, .signed imm, true, true⟩
  | .pand fm d a b => some ⟨fm, 4, 2, 0, .R, ⟨.p, d⟩, ⟨.p, a⟩, ⟨.p, b⟩, .none, false, true⟩
  | .por fm d a b => some ⟨fm, 4, 3, 0, .R, ⟨.p, d⟩, ⟨.p, a⟩, ⟨.p, b⟩, .none, false, true⟩
  | .pxor fm d a b => some ⟨fm, 4, 4, 0, .R, ⟨.p, d⟩, ⟨.p, a⟩, ⟨.p, b⟩, .none, false, true⟩
  | .pnot fm d a => some ⟨fm, 4, 5, 0, .R, ⟨.p, d⟩, ⟨.p, a⟩, noFld, .none, false, true⟩
  | .pmov fm d a => some ⟨fm, 4, 6, 0, .R, ⟨.p, d⟩, ⟨.g, a⟩, noFld, .none, false, true⟩
  | .br fm imm => some ⟨fm, 4, 7, 0, .J, noFld, noFld, noFld, .signed imm, false, true⟩
  | .brc fm d imm => some ⟨fm, 4, 8, 0, .C, ⟨.p, d⟩, noFld, noFld, .signed imm, false, true⟩
  | .jal fm d imm => some ⟨fm, 4, 9, 0, .L, ⟨.g, d⟩, noFld, noFld, .signed imm, false, true⟩
  | .jalr fm d a imm => some ⟨fm, 4, 10, 0, .I, ⟨.g, d⟩, ⟨.g, a⟩, noFld, .signed imm, false, true⟩
  | .ld fm z d a imm => some ⟨fm, 5, 0, z.code, .I, ⟨.g, d⟩, ⟨.g, a⟩, noFld, .signed imm, true, true⟩
  | .ldz fm z d a imm => some ⟨fm, 5, 1, z.code, .I, ⟨.g, d⟩, ⟨.g, a⟩, noFld, .signed imm, true, true⟩
  | .st fm z d a imm => some ⟨fm, 5, 2, z.code, .I, ⟨.g, d⟩, ⟨.g, a⟩, noFld, .signed imm, true, true⟩
  | .ldx fm z d a b => some ⟨fm, 5, 3, z.code, .R, ⟨.g, d⟩, ⟨.g, a⟩, ⟨.g, b⟩, .none, true, true⟩
  | .stx fm z d a b => some ⟨fm, 5, 4, z.code, .R, ⟨.g, d⟩, ⟨.g, a⟩, ⟨.g, b⟩, .none, true, true⟩
  | .ldp fm z d a imm => some ⟨fm, 5, 5, z.code + 2, .I, ⟨.gp, d⟩, ⟨.g, a⟩, noFld, .signed imm, true, true⟩
  | .stp fm z d a imm => some ⟨fm, 5, 6, z.code + 2, .I, ⟨.gp, d⟩, ⟨.g, a⟩, noFld, .signed imm, true, true⟩
  | .lda fm sc z d a imm => some ⟨fm, 6, 0, sc.code * 2 + z.code, .I, ⟨.g, d⟩, ⟨.g, a⟩, noFld, .signed imm, false, true⟩
  | .stl fm sc z d a imm => some ⟨fm, 6, 1, sc.code * 2 + z.code, .I, ⟨.g, d⟩, ⟨.g, a⟩, noFld, .signed imm, false, true⟩
  | .fld fm z d a imm => some ⟨fm, 6, 2, z.code + 1, .I, ⟨.f, d⟩, ⟨.g, a⟩, noFld, .signed imm, true, true⟩
  | .fst fm z d a imm => some ⟨fm, 6, 3, z.code + 1, .I, ⟨.f, d⟩, ⟨.g, a⟩, noFld, .signed imm, true, true⟩
  | .pref fm lv a imm => some ⟨fm, 6, 4, lv.code, .I, noFld, ⟨.g, a⟩, noFld, .signed imm, true, true⟩
  | .sbst fm sb d a imm => some ⟨fm, 6, 5, sb.code, .I, ⟨.g, d⟩, ⟨.g, a⟩, noFld, .signed imm, false, true⟩
  | .ldw fm z d a imm => some ⟨fm, 7, 0, z.code + 2, .I, ⟨.g, d⟩, ⟨.g, a⟩, noFld, .signed imm, false, true⟩
  | .chkw fm imm => some ⟨fm, 7, 1, 0, .J, noFld, noFld, noFld, .signed imm, false, true⟩
  | .amoadd fm o z sc d a b => some ⟨fm, 8, 0, o.code * 4 + z.code, .R, ⟨.g, d⟩, ⟨.g, a⟩, ⟨.g, b⟩, .payload (scopePayload fm sc) 1, false, decide (fm.nx = 0 → sc = .sys)⟩
  | .amoand fm o z sc d a b => some ⟨fm, 8, 1, o.code * 4 + z.code, .R, ⟨.g, d⟩, ⟨.g, a⟩, ⟨.g, b⟩, .payload (scopePayload fm sc) 1, false, decide (fm.nx = 0 → sc = .sys)⟩
  | .amoor fm o z sc d a b => some ⟨fm, 8, 2, o.code * 4 + z.code, .R, ⟨.g, d⟩, ⟨.g, a⟩, ⟨.g, b⟩, .payload (scopePayload fm sc) 1, false, decide (fm.nx = 0 → sc = .sys)⟩
  | .amoxor fm o z sc d a b => some ⟨fm, 8, 3, o.code * 4 + z.code, .R, ⟨.g, d⟩, ⟨.g, a⟩, ⟨.g, b⟩, .payload (scopePayload fm sc) 1, false, decide (fm.nx = 0 → sc = .sys)⟩
  | .amomin fm o z sc d a b => some ⟨fm, 8, 4, o.code * 4 + z.code, .R, ⟨.g, d⟩, ⟨.g, a⟩, ⟨.g, b⟩, .payload (scopePayload fm sc) 1, false, decide (fm.nx = 0 → sc = .sys)⟩
  | .amomax fm o z sc d a b => some ⟨fm, 8, 5, o.code * 4 + z.code, .R, ⟨.g, d⟩, ⟨.g, a⟩, ⟨.g, b⟩, .payload (scopePayload fm sc) 1, false, decide (fm.nx = 0 → sc = .sys)⟩
  | .amominu fm o z sc d a b => some ⟨fm, 8, 6, o.code * 4 + z.code, .R, ⟨.g, d⟩, ⟨.g, a⟩, ⟨.g, b⟩, .payload (scopePayload fm sc) 1, false, decide (fm.nx = 0 → sc = .sys)⟩
  | .amomaxu fm o z sc d a b => some ⟨fm, 8, 7, o.code * 4 + z.code, .R, ⟨.g, d⟩, ⟨.g, a⟩, ⟨.g, b⟩, .payload (scopePayload fm sc) 1, false, decide (fm.nx = 0 → sc = .sys)⟩
  | .amoswap fm o z sc d a b => some ⟨fm, 8, 8, o.code * 4 + z.code, .R, ⟨.g, d⟩, ⟨.g, a⟩, ⟨.g, b⟩, .payload (scopePayload fm sc) 1, false, decide (fm.nx = 0 → sc = .sys)⟩
  | .amocas fm o z sc d a b => some ⟨fm, 8, 9, o.code * 4 + z.code, .R, ⟨.g, d⟩, ⟨.g, a⟩, ⟨.g, b⟩, .payload (scopePayload fm sc) 1, false, decide (fm.nx = 0 → sc = .sys)⟩
  | .amofadd fm o z sc d a b => some ⟨fm, 8, 10, o.code * 4 + z.code, .R, ⟨.f, d⟩, ⟨.g, a⟩, ⟨.f, b⟩, .payload (scopePayload fm sc) 1, false, decide (fm.nx = 0 → sc = .sys)⟩
  | .fence fm k sc => some ⟨fm, 9, 0, k.code, .I, noFld, noFld, noFld, .unsigned sc.code (rangeOk 4), false, true⟩
  | .waitne fm d a b => some ⟨fm, 9, 1, 0, .R, ⟨.g, d⟩, ⟨.g, a⟩, ⟨.g, b⟩, .none, false, true⟩
  | .yield fm => some ⟨fm, 9, 2, 0, .N, noFld, noFld, noFld, .none, false, true⟩
  | .tspawn fm d a => some ⟨fm, 9, 3, 0, .R, ⟨.g, d⟩, ⟨.g, a⟩, noFld, .none, false, true⟩
  | .texit fm => some ⟨fm, 9, 4, 0, .N, noFld, noFld, noFld, .none, false, true⟩
  | .tbar fm imm => some ⟨fm, 9, 5, 0, .I, noFld, noFld, noFld, .unsigned imm (rangeOk 7), false, true⟩
  | .tinfo fm d => some ⟨fm, 9, 6, 0, .R, ⟨.gp, d⟩, noFld, noFld, .none, false, true⟩
  | .gtidrd fm d => some ⟨fm, 9, 7, 0, .R, ⟨.g, d⟩, noFld, noFld, .none, false, true⟩
  | .rdcyc fm d => some ⟨fm, 9, 8, 0, .R, ⟨.g, d⟩, noFld, noFld, .none, false, true⟩
  | .rdtime fm d => some ⟨fm, 9, 9, 0, .R, ⟨.g, d⟩, noFld, noFld, .none, false, true⟩
  | .fadd fm f rx d a b => some ⟨fm, 10, 0, f.code, .R, ⟨.f, d⟩, ⟨.f, a⟩, ⟨.f, b⟩, .payload (rx) 1, true, (!(rx / 8 == 1 && rx % 8 > 4)) && rx < 16⟩
  | .fsub fm f rx d a b => some ⟨fm, 10, 1, f.code, .R, ⟨.f, d⟩, ⟨.f, a⟩, ⟨.f, b⟩, .payload (rx) 1, true, (!(rx / 8 == 1 && rx % 8 > 4)) && rx < 16⟩
  | .fmul fm f rx d a b => some ⟨fm, 10, 2, f.code, .R, ⟨.f, d⟩, ⟨.f, a⟩, ⟨.f, b⟩, .payload (rx) 1, true, (!(rx / 8 == 1 && rx % 8 > 4)) && rx < 16⟩
  | .fdiv fm f rx d a b => some ⟨fm, 10, 3, f.code, .R, ⟨.f, d⟩, ⟨.f, a⟩, ⟨.f, b⟩, .payload (rx) 1, true, (!(rx / 8 == 1 && rx % 8 > 4)) && rx < 16⟩
  | .fsqrt fm f rx d a => some ⟨fm, 10, 4, f.code, .R, ⟨.f, d⟩, ⟨.f, a⟩, noFld, .payload (rx) 1, true, (!(rx / 8 == 1 && rx % 8 > 4)) && rx < 16⟩
  | .fma fm f rx d a b => some ⟨fm, 10, 5, f.code, .R, ⟨.f, d⟩, ⟨.f, a⟩, ⟨.f, b⟩, .payload (rx) 1, true, (!(rx / 8 == 1 && rx % 8 > 4)) && rx < 16⟩
  | .fms fm f rx d a b => some ⟨fm, 10, 6, f.code, .R, ⟨.f, d⟩, ⟨.f, a⟩, ⟨.f, b⟩, .payload (rx) 1, true, (!(rx / 8 == 1 && rx % 8 > 4)) && rx < 16⟩
  | .fnma fm f rx d a b => some ⟨fm, 10, 7, f.code, .R, ⟨.f, d⟩, ⟨.f, a⟩, ⟨.f, b⟩, .payload (rx) 1, true, (!(rx / 8 == 1 && rx % 8 > 4)) && rx < 16⟩
  | .fmin fm f rx d a b => some ⟨fm, 10, 8, f.code, .R, ⟨.f, d⟩, ⟨.f, a⟩, ⟨.f, b⟩, .payload (rx) 1, true, (!(rx / 8 == 1 && rx % 8 > 4)) && rx < 16⟩
  | .fmax fm f rx d a b => some ⟨fm, 10, 9, f.code, .R, ⟨.f, d⟩, ⟨.f, a⟩, ⟨.f, b⟩, .payload (rx) 1, true, (!(rx / 8 == 1 && rx % 8 > 4)) && rx < 16⟩
  | .fabs fm f rx d a => some ⟨fm, 10, 10, f.code, .R, ⟨.f, d⟩, ⟨.f, a⟩, noFld, .payload (rx) 1, true, (!(rx / 8 == 1 && rx % 8 > 4)) && rx < 16⟩
  | .fneg fm f rx d a => some ⟨fm, 10, 11, f.code, .R, ⟨.f, d⟩, ⟨.f, a⟩, noFld, .payload (rx) 1, true, (!(rx / 8 == 1 && rx % 8 > 4)) && rx < 16⟩
  | .fsgnj fm f rx d a b => some ⟨fm, 10, 12, f.code, .R, ⟨.f, d⟩, ⟨.f, a⟩, ⟨.f, b⟩, .payload (rx) 1, true, (!(rx / 8 == 1 && rx % 8 > 4)) && rx < 16⟩
  | .fcmp fm c f rx d a b => some ⟨fm, 11, 0, c.code * 4 + f.code, .R, ⟨.p, d⟩, ⟨.f, a⟩, ⟨.f, b⟩, .payload (rx) 1, false, (!(rx / 8 == 1 && rx % 8 > 4)) && rx < 16⟩
  | .fclass fm f rx d a => some ⟨fm, 11, 1, f.code, .R, ⟨.g, d⟩, ⟨.f, a⟩, noFld, .payload (rx) 1, false, (!(rx / 8 == 1 && rx % 8 > 4)) && rx < 16⟩
  | .fcvt fm df sf rx d a => some ⟨fm, 11, 2, df.code * 4 + sf.code, .R, ⟨.f, d⟩, ⟨.f, a⟩, noFld, .payload (rx) 1, false, decide (df ≠ sf) && (!(rx / 8 == 1 && rx % 8 > 4)) && rx < 16⟩
  | .fcvti fm iw f rx d a => some ⟨fm, 11, 3, iw.code * 4 + f.code, .R, ⟨.g, d⟩, ⟨.f, a⟩, noFld, .payload (rx) 1, false, (!(rx / 8 == 1 && rx % 8 > 4)) && rx < 16⟩
  | .icvtf fm iw f rx d a => some ⟨fm, 11, 4, iw.code * 4 + f.code, .R, ⟨.f, d⟩, ⟨.g, a⟩, noFld, .payload (rx) 1, false, (!(rx / 8 == 1 && rx % 8 > 4)) && rx < 16⟩
  | .fmvg fm d a => some ⟨fm, 11, 5, 0, .R, ⟨.g, d⟩, ⟨.f, a⟩, noFld, .none, false, true⟩
  | .gmvf fm d a => some ⟨fm, 11, 6, 0, .R, ⟨.f, d⟩, ⟨.g, a⟩, noFld, .none, false, true⟩
  | .frcpa fm f rx d a => some ⟨fm, 12, 0, f.code, .R, ⟨.f, d⟩, ⟨.f, a⟩, noFld, .payload (rx) 1, true, (!(rx / 8 == 1 && rx % 8 > 4)) && rx < 16⟩
  | .frsqa fm f rx d a => some ⟨fm, 12, 1, f.code, .R, ⟨.f, d⟩, ⟨.f, a⟩, noFld, .payload (rx) 1, true, (!(rx / 8 == 1 && rx % 8 > 4)) && rx < 16⟩
  | .vwin fm d a => some ⟨fm, 16, 0, 0, .R, ⟨.c, d⟩, ⟨.c, a⟩, noFld, .none, false, true⟩
  | .vadd fm z k d a b => some ⟨fm, 16, 1, (if z then 8 else 0) + k, .R, ⟨.v, d⟩, ⟨.v, a⟩, ⟨.v, b⟩, .none, true, decide (k < 8)⟩
  | .vsub fm z k d a b => some ⟨fm, 16, 2, (if z then 8 else 0) + k, .R, ⟨.v, d⟩, ⟨.v, a⟩, ⟨.v, b⟩, .none, true, decide (k < 8)⟩
  | .vmul fm z k d a b => some ⟨fm, 16, 3, (if z then 8 else 0) + k, .R, ⟨.v, d⟩, ⟨.v, a⟩, ⟨.v, b⟩, .none, true, decide (k < 8)⟩
  | .vfma fm z k d a b => some ⟨fm, 16, 4, (if z then 8 else 0) + k, .R, ⟨.v, d⟩, ⟨.v, a⟩, ⟨.v, b⟩, .none, true, decide (k < 8)⟩
  | .vfms fm z k d a b => some ⟨fm, 16, 5, (if z then 8 else 0) + k, .R, ⟨.v, d⟩, ⟨.v, a⟩, ⟨.v, b⟩, .none, true, decide (k < 8)⟩
  | .vmin fm z k d a b => some ⟨fm, 16, 6, (if z then 8 else 0) + k, .R, ⟨.v, d⟩, ⟨.v, a⟩, ⟨.v, b⟩, .none, true, decide (k < 8)⟩
  | .vmax fm z k d a b => some ⟨fm, 16, 7, (if z then 8 else 0) + k, .R, ⟨.v, d⟩, ⟨.v, a⟩, ⟨.v, b⟩, .none, true, decide (k < 8)⟩
  | .vabs fm z k d a => some ⟨fm, 16, 8, (if z then 8 else 0) + k, .R, ⟨.v, d⟩, ⟨.v, a⟩, noFld, .none, true, decide (k < 8)⟩
  | .vneg fm z k d a => some ⟨fm, 16, 9, (if z then 8 else 0) + k, .R, ⟨.v, d⟩, ⟨.v, a⟩, noFld, .none, true, decide (k < 8)⟩
  | .vand fm z k d a b => some ⟨fm, 17, 0, (if z then 8 else 0) + k, .R, ⟨.v, d⟩, ⟨.v, a⟩, ⟨.v, b⟩, .none, true, decide (k < 8)⟩
  | .vor fm z k d a b => some ⟨fm, 17, 1, (if z then 8 else 0) + k, .R, ⟨.v, d⟩, ⟨.v, a⟩, ⟨.v, b⟩, .none, true, decide (k < 8)⟩
  | .vxor fm z k d a b => some ⟨fm, 17, 2, (if z then 8 else 0) + k, .R, ⟨.v, d⟩, ⟨.v, a⟩, ⟨.v, b⟩, .none, true, decide (k < 8)⟩
  | .vshl fm z k d a b => some ⟨fm, 17, 3, (if z then 8 else 0) + k, .R, ⟨.v, d⟩, ⟨.v, a⟩, ⟨.v, b⟩, .none, true, decide (k < 8)⟩
  | .vshr fm z k d a b => some ⟨fm, 17, 4, (if z then 8 else 0) + k, .R, ⟨.v, d⟩, ⟨.v, a⟩, ⟨.v, b⟩, .none, true, decide (k < 8)⟩
  | .vcvt fm hi tg d a b => some ⟨fm, 17, 5, (if hi then 8 else 0) + tg.code, .R, ⟨.v, d⟩, ⟨.v, a⟩, ⟨.m, b⟩, .none, true, tg.isDest⟩
  | .vbcast fm z k d a b => some ⟨fm, 18, 0, (if z then 8 else 0) + k, .R, ⟨.v, d⟩, ⟨.g, a⟩, ⟨.g, b⟩, .none, true, decide (k < 8)⟩
  | .vbcl fm z k d a b => some ⟨fm, 18, 1, (if z then 8 else 0) + k, .R, ⟨.v, d⟩, ⟨.v, a⟩, ⟨.g, b⟩, .none, true, decide (k < 8)⟩
  | .vperm fm z k d a b => some ⟨fm, 18, 2, (if z then 8 else 0) + k, .R, ⟨.v, d⟩, ⟨.v, a⟩, ⟨.v, b⟩, .none, true, decide (k < 8)⟩
  | .vrot fm z k d a b => some ⟨fm, 18, 3, (if z then 8 else 0) + k, .R, ⟨.v, d⟩, ⟨.v, a⟩, ⟨.g, b⟩, .none, true, decide (k < 8)⟩
  | .vred fm op d a b => some ⟨fm, 19, 0, op.code, .R, ⟨.v, d⟩, ⟨.v, a⟩, ⟨.m, b⟩, .none, true, true⟩
  | .vscan fm z op d a b => some ⟨fm, 19, 1, (if z then 8 else 0) + op.code, .R, ⟨.v, d⟩, ⟨.v, a⟩, ⟨.m, b⟩, .none, true, true⟩
  | .vcmp fm u c d a b => some ⟨fm, 20, 0, (if u then 8 else 0) + c.code, .R, ⟨.m, d⟩, ⟨.v, a⟩, ⟨.v, b⟩, .none, true, true⟩
  | .vmerge fm inv k d a b => some ⟨fm, 20, 1, (if inv then 8 else 0) + k, .R, ⟨.v, d⟩, ⟨.v, a⟩, ⟨.v, b⟩, .none, true, decide (k < 8)⟩
  | .vmlog fm op d a b => some ⟨fm, 20, 2, op.code, .R, ⟨.m, d⟩, ⟨.m, a⟩, ⟨.m, b⟩, .none, false, true⟩
  | .vmpopc fm d a => some ⟨fm, 20, 3, 0, .R, ⟨.g, d⟩, ⟨.m, a⟩, noFld, .none, false, true⟩
  | .vrcpa fm z k d a => some ⟨fm, 21, 0, (if z then 8 else 0) + k, .R, ⟨.v, d⟩, ⟨.v, a⟩, noFld, .none, true, decide (k < 8)⟩
  | .vrsqa fm z k d a => some ⟨fm, 21, 1, (if z then 8 else 0) + k, .R, ⟨.v, d⟩, ⟨.v, a⟩, noFld, .none, true, decide (k < 8)⟩
  | .vexp2a fm z k d a => some ⟨fm, 21, 2, (if z then 8 else 0) + k, .R, ⟨.v, d⟩, ⟨.v, a⟩, noFld, .none, true, decide (k < 8)⟩
  | .vlog2a fm z k d a => some ⟨fm, 21, 3, (if z then 8 else 0) + k, .R, ⟨.v, d⟩, ⟨.v, a⟩, noFld, .none, true, decide (k < 8)⟩
  | .vld fm z k d a imm => some ⟨fm, 22, 0, (if z then 8 else 0) + k, .I, ⟨.v, d⟩, ⟨.g, a⟩, noFld, .signed imm, true, decide (k < 8)⟩
  | .vst fm z k d a imm => some ⟨fm, 22, 1, (if z then 8 else 0) + k, .I, ⟨.v, d⟩, ⟨.g, a⟩, noFld, .signed imm, true, decide (k < 8)⟩
  | .vlds fm z k d a b => some ⟨fm, 22, 2, (if z then 8 else 0) + k, .R, ⟨.v, d⟩, ⟨.g, a⟩, ⟨.g, b⟩, .none, true, decide (k < 8)⟩
  | .vsts fm z k d a b => some ⟨fm, 22, 3, (if z then 8 else 0) + k, .R, ⟨.v, d⟩, ⟨.g, a⟩, ⟨.g, b⟩, .none, true, decide (k < 8)⟩
  | .vgath fm z k d a b => some ⟨fm, 22, 4, (if z then 8 else 0) + k, .R, ⟨.v, d⟩, ⟨.g, a⟩, ⟨.v, b⟩, .none, true, decide (k < 8)⟩
  | .vscat fm z k d a b => some ⟨fm, 22, 5, (if z then 8 else 0) + k, .R, ⟨.v, d⟩, ⟨.g, a⟩, ⟨.v, b⟩, .none, true, decide (k < 8)⟩
  | .vmovg fm z k d a b => some ⟨fm, 23, 0, (if z then 8 else 0) + k, .R, ⟨.g, d⟩, ⟨.v, a⟩, ⟨.g, b⟩, .none, false, decide (k < 8)⟩
  | .vmovf fm z k d a b => some ⟨fm, 23, 1, (if z then 8 else 0) + k, .R, ⟨.f, d⟩, ⟨.v, a⟩, ⟨.g, b⟩, .none, false, decide (k < 8)⟩
  | .vmov fm z k d a => some ⟨fm, 23, 2, (if z then 8 else 0) + k, .R, ⟨.v, d⟩, ⟨.v, a⟩, noFld, .none, true, decide (k < 8)⟩
  | .tmma fm pr wide k fs d a b => some ⟨fm, 24, 0, pr.code, .R, ⟨.c, d⟩, ⟨.t, a⟩, ⟨.t, b⟩, .payload (tmmaPayload wide k fs) 1, true, decide (1 ≤ k ∧ k ≤ 4 ∧ fs < 64 ∧ (fs = 0 ∨ pr.scaled = true))⟩
  | .tmmaChained fm pr wide k fs d a b => some ⟨fm, 25, 0, pr.code, .R, ⟨.c, d⟩, ⟨.c, a⟩, ⟨.t, b⟩, .payload (tmmaPayload wide k fs) 1, true, decide (1 ≤ k ∧ k ≤ 4 ∧ fs < 64 ∧ (fs = 0 ∨ pr.scaled = true))⟩
  | .tld fm b0 rows bytes d a b => some ⟨fm, 24, 1, (if b0 then 1 else 0), .R, ⟨.t, d⟩, ⟨.g, a⟩, ⟨.g, b⟩, .payload (rowsPayload rows bytes) 1, true, decide (1 ≤ rows ∧ rows ≤ 64 ∧ 8 ≤ bytes ∧ bytes ≤ 128 ∧ bytes % 8 = 0)⟩
  | .tlds fm b0 sx rows d a b => some ⟨fm, 24, 2, (if b0 then 4 else 0) + sx.code, .R, ⟨.t, d⟩, ⟨.gp, a⟩, ⟨.gp, b⟩, .payload (64 - rows) 1, true, decide (1 ≤ rows ∧ rows ≤ 64)⟩
  | .tsto fm rows bytes d a b => some ⟨fm, 24, 3, 0, .R, ⟨.t, d⟩, ⟨.g, a⟩, ⟨.g, b⟩, .payload (rowsPayload rows bytes) 1, true, decide (1 ≤ rows ∧ rows ≤ 64 ∧ 8 ≤ bytes ∧ bytes ≤ 128 ∧ bytes % 8 = 0)⟩
  | .tzero fm tgt d => some ⟨fm, 24, 4, tgt.code, .R, ⟨tgt.kind, d⟩, noFld, noFld, .none, true, true⟩
  | .tmov fm mk d a => some ⟨fm, 24, 5, mk.code, .R, ⟨mk.kind, d⟩, ⟨mk.kind, a⟩, noFld, .none, true, mk.ok⟩
  | .tgang fm imm => some ⟨fm, 24, 6, 0, .I, noFld, noFld, noFld, .unsigned imm (gangOk), false, true⟩
  | .tdrain fm o free fs d a b => some ⟨fm, 24, 7, o.code, .R, ⟨.c, d⟩, ⟨o.addrKind, a⟩, ⟨o.addrKind, b⟩, .payload ((if free then 64 else 0) + fs) 1, true, decide (fs < 64 ∧ (fs = 0 ∨ o.scaled = true))⟩
  | .tdraint fm o o2 free fs ft d a b => some ⟨fm, 24, 8, o.code, .R, ⟨.c, d⟩, ⟨.gp, a⟩, ⟨.gp, b⟩, .payload (tdraintPayload o2 free fs ft) 2, true, decide (fs < 64 ∧ ft < 64 ∧ (fs = 0 ∨ o.scaled = true) ∧ (ft = 0 ∨ o2.scaled = true) ∧ o.isSx = false ∧ o2.isSx = false)⟩
  | .tfree fm acc d a => some ⟨fm, 24, 9, (if acc then 1 else 0), .R, ⟨(if acc then .c else .t), d⟩, ⟨(if acc then .c else .t), a⟩, noFld, .none, true, true⟩
  | .tsync fm => some ⟨fm, 24, 10, 0, .N, noFld, noFld, noFld, .none, false, true⟩
  | .tctlSeed fm d => some ⟨fm, 24, 11, 0, .I, ⟨.g, d⟩, noFld, noFld, .unsigned 0 (fun _ => true), false, true⟩
  | .tctlRd fm d => some ⟨fm, 24, 11, 0, .I, ⟨.g, d⟩, noFld, noFld, .unsigned 1 (fun _ => true), false, true⟩
  | .tctlClr fm => some ⟨fm, 24, 11, 0, .I, noFld, noFld, noFld, .unsigned 2 (fun _ => true), false, true⟩
  | .tqryRows fm d a => some ⟨fm, 24, 12, 0, .R, ⟨.g, d⟩, ⟨.t, a⟩, noFld, .none, false, true⟩
  | .tqryAcc fm d a => some ⟨fm, 24, 12, 1, .R, ⟨.g, d⟩, ⟨.c, a⟩, noFld, .none, false, true⟩
  | .tqryCell fm d a => some ⟨fm, 24, 12, 2, .R, ⟨.g, d⟩, ⟨.c, a⟩, noFld, .none, false, true⟩
  | .tqryFree fm d => some ⟨fm, 24, 12, 3, .R, ⟨.g, d⟩, noFld, noFld, .none, false, true⟩
  | .tqryGang fm d => some ⟨fm, 24, 12, 4, .R, ⟨.g, d⟩, noFld, noFld, .none, false, true⟩
  | .tqryCorr fm d => some ⟨fm, 24, 12, 5, .R, ⟨.g, d⟩, noFld, noFld, .none, false, true⟩
  | .tqryUnck fm d => some ⟨fm, 24, 12, 6, .R, ⟨.g, d⟩, noFld, noFld, .none, false, true⟩
  | .xcopy fm d a => some ⟨fm, 28, 0, 0, .R, ⟨.g, d⟩, ⟨.g, a⟩, noFld, .none, false, true⟩
  | .xcopy2 fm d a => some ⟨fm, 28, 1, 0, .R, ⟨.g, d⟩, ⟨.g, a⟩, noFld, .none, false, true⟩
  | .xgath fm d a => some ⟨fm, 28, 2, 0, .R, ⟨.g, d⟩, ⟨.g, a⟩, noFld, .none, false, true⟩
  | .xscat fm d a => some ⟨fm, 28, 3, 0, .R, ⟨.g, d⟩, ⟨.g, a⟩, noFld, .none, false, true⟩
  | .xfill fm d a => some ⟨fm, 28, 4, 0, .R, ⟨.g, d⟩, ⟨.g, a⟩, noFld, .none, false, true⟩
  | .xwarm fm llc d a => some ⟨fm, 28, 5, (if llc then 1 else 0), .R, ⟨.g, d⟩, ⟨.g, a⟩, noFld, .none, false, true⟩
  | .xcollAr fm d a => some ⟨fm, 28, 6, 0, .R, ⟨.g, d⟩, ⟨.g, a⟩, noFld, .none, false, true⟩
  | .xcollAg fm d a => some ⟨fm, 28, 6, 1, .R, ⟨.g, d⟩, ⟨.g, a⟩, noFld, .none, false, true⟩
  | .xcollRs fm d a => some ⟨fm, 28, 6, 2, .R, ⟨.g, d⟩, ⟨.g, a⟩, noFld, .none, false, true⟩
  | .xcollBc fm d a => some ⟨fm, 28, 6, 3, .R, ⟨.g, d⟩, ⟨.g, a⟩, noFld, .none, false, true⟩
  | .xdrain fm mc => some ⟨fm, 28, 7, mc.code, .N, noFld, noFld, noFld, .none, false, true⟩
  | .xcancel fm d a => some ⟨fm, 28, 8, 0, .R, ⟨.g, d⟩, ⟨.g, a⟩, noFld, .none, false, true⟩
  | .svc fm imm => some ⟨fm, 48, 0, 0, .I, noFld, noFld, noFld, .unsigned imm (rangeOk 4095), false, true⟩
  | .hvc fm imm => some ⟨fm, 48, 1, 0, .I, noFld, noFld, noFld, .unsigned imm (rangeOk 4095), false, true⟩
  | .mvc fm imm => some ⟨fm, 48, 2, 0, .I, noFld, noFld, noFld, .unsigned imm (rangeOk 4095), false, true⟩
  | .tret fm => some ⟨fm, 48, 3, 0, .N, noFld, noFld, noFld, .none, false, true⟩
  | .srd fm d imm => some ⟨fm, 48, 4, 0, .I, ⟨.g, d⟩, noFld, noFld, .unsigned imm (rangeOk 4095), false, true⟩
  | .swr fm a imm => some ⟨fm, 48, 5, 0, .I, noFld, ⟨.g, a⟩, noFld, .unsigned imm (rangeOk 4095), false, true⟩
  | .sset fm d a imm => some ⟨fm, 48, 6, 0, .I, ⟨.g, d⟩, ⟨.g, a⟩, noFld, .unsigned imm (rangeOk 4095), false, true⟩
  | .sclr fm d a imm => some ⟨fm, 48, 7, 0, .I, ⟨.g, d⟩, ⟨.g, a⟩, noFld, .unsigned imm (rangeOk 4095), false, true⟩
  | .tlbinv fm a b => some ⟨fm, 49, 0, 0, .R, noFld, ⟨.g, a⟩, ⟨.g, b⟩, .none, false, true⟩
  | .tlbsync fm => some ⟨fm, 49, 1, 0, .N, noFld, noFld, noFld, .none, false, true⟩
  | .cflush fm a imm => some ⟨fm, 49, 2, 0, .I, noFld, ⟨.g, a⟩, noFld, .signed imm, false, true⟩
  | .cinv fm a imm => some ⟨fm, 49, 3, 0, .I, noFld, ⟨.g, a⟩, noFld, .signed imm, false, true⟩
  | .cwb fm a imm => some ⟨fm, 49, 4, 0, .I, noFld, ⟨.g, a⟩, noFld, .signed imm, false, true⟩
  | .wfi fm => some ⟨fm, 49, 5, 0, .N, noFld, noFld, noFld, .none, false, true⟩
  | .halt fm => some ⟨fm, 49, 6, 0, .N, noFld, noFld, noFld, .none, false, true⟩
  | .ctxsw fm => some ⟨fm, 50, 0, 0, .N, noFld, noFld, noFld, .none, false, true⟩
  | .ctxld fm d a => some ⟨fm, 50, 1, 0, .R, ⟨.g, d⟩, ⟨.g, a⟩, noFld, .none, false, true⟩
  | .ctxsp fm d a => some ⟨fm, 50, 2, 0, .R, ⟨.g, d⟩, ⟨.g, a⟩, noFld, .none, false, true⟩
  | .wpins fm a b => some ⟨fm, 50, 3, 0, .R, noFld, ⟨.g, a⟩, ⟨.g, b⟩, .none, false, true⟩
  | .wpclr fm => some ⟨fm, 50, 4, 0, .N, noFld, noFld, noFld, .none, false, true⟩
  | .bkpt fm imm => some ⟨fm, 50, 5, 0, .I, noFld, noFld, noFld, .unsigned imm (rangeOk 4095), false, true⟩
  | .dump fm d a b => some ⟨fm, 50, 6, 0, .R, ⟨.gp, d⟩, ⟨.g, a⟩, ⟨.g, b⟩, .none, false, true⟩
  | .pgmig fm d a b => some ⟨fm, 50, 7, 0, .R, ⟨.g, d⟩, ⟨.g, a⟩, ⟨.g, b⟩, .none, false, true⟩
  | .pgcmp fm d a => some ⟨fm, 50, 8, 0, .R, ⟨.g, d⟩, ⟨.g, a⟩, noFld, .none, false, true⟩
  | .instructionFetchFault _ => none
  | .contextSwap _ => none
  | .ipiMessage _ _ => none
  | .rootCheck _ => none
  | .dieLinkTraining _ _ => none
  | .hbmTraining _ => none
  | .copyCommandStart _ => none
  | .copyCommandEnd _ => none
  | .hostMemoryAccess _ => none
  | .hostRegisterAccess _ _ _ _ => none
  | .fillRequest _ _ => none
  | .fillReply _ _ => none
  | .writeThrough _ _ => none
  | .writeThroughAck _ _ => none
  | .fabricMessage _ _ _ => none
  | .fabricAck _ _ _ => none
  | .quantumBoundary _ => none
  | .storeBufferDrain _ => none
  | .eccError _ => none
  | .generationSweepEnd _ => none
  | .cellarStallResume => none
  | .cellarStallTimeout => none
  | .tmmaComplete => none
  | .auditReplay _ _ => none
  | .auditTieBreak _ _ => none
  | .auditTimeout _ => none
  | .gangGrant => none
  | .persistentRequest _ _ => none
  | .confirmationRequest _ _ => none
  | .waysideAnswer _ _ => none
  | .waysideTimeout _ _ => none
  | .retentionExit _ _ => none
  | .remotePackageRequest _ _ => none
  | .handOver _ _ => none
  | .pageWalk _ _ => none
  | .notPresentExpiry _ => none
  | .pageExpansion _ => none
  | .frameTranslation _ => none
  | .isolationWindow _ => none
  | .backgroundSpill _ => none
  | .lodgedTileEviction _ => none
  | .tileNameReload => none
  | .interruptEntry => none
  | .asyncCauseDelivery => none
  | .ipiWrite _ => none
  | .hostirqWrite _ => none
  | .xstateWrite _ => none
  | .celshrWrite _ => none
  | .rprselWrite _ => none
  | .rpraddWrite _ => none
  | .bootstWrite _ => none
  | .systemRegisterWrite _ _ => none
  | .spawnRequest => none
  | .acceptanceRecorded => none
  | .chunkRequest => none
  | .groupAdmission _ => none
  | .runQueueRestore _ => none
  | .restoreComplete _ => none
  | .teamCompletion _ => none
  | .threadKill _ _ => none
  | .masterElection => none
  | .dieFence _ => none
  | .agentDeclaredDead _ => none
  | .staleMessage _ _ _ => none
  | .fabricResend _ _ _ => none
  | .linkDown _ => none
  | .routeRepair => none
  | .collectiveStart _ _ => none
  | .collectiveAbort _ _ => none
  | .rollCall => none
  | .rollcallPeriodChange => none
  | .packageReset => none
  | .powerOnStable => none
  | .coreRelease => none
  | .healthMonitorRefresh _ _ _ _ _ => none
  | .thermalReset _ => none
  | .governorClockChange => none
  | .hostLinkTraining _ _ _ => none
  | .doorbellWrite _ _ _ _ => none
  | .doorbellRead _ _ _ => none
  | .mbdoor => none
  | .idcert => none
  | .mailboxQuote => none
  | .logread => none
  | .bistread => none
  | .forwardedMailboxCommand => none
  | .unknownMailboxCommand => none
  | .mbstatWrite _ => none
  | .rdcsize => none
  | .pool => none
  | .zone => none
  | .propose => none
  | .expand => none
  | .runq => none
  | .sapool => none
  | .elect => none
  | .auditcfg => none
  | .auditlog => none
  | .auditrun => none
  | .auditrule => none
  | .quarantine => none
  | .dbgstop => none
  | .rollcall => none
  | .groupbind => none
  | .routeset => none
  | .notify => none
  | .hostvf => none
  | .hostwin => none
  | .extend => none
  | .quote => none
  | .illegalInstruction => none
  | .atomicAtHome _ _ => none
  | .tlbRemovalComplete => none
  | .retentionEntry _ _ => none
  | .hostLinkFailure => none
  | .managementRestart _ => none

/-- Repeats of a form: the count of `PFX.N`, or one (R86). -/
def Form.count (fm : Form) : Nat :=
  match fm.rep with
  | none => 1
  | some r => r.n

/-- A step-mask bit of a form (R81). -/
def Form.steps (fm : Form) (bit : Nat) : Bool :=
  match fm.rep with
  | none => false
  | some r => decide (r.mask / 2 ^ bit % 2 = 1)

/-- Field d in repeat `j` (R86). -/
def Form.d (fm : Form) (j x : Nat) : Nat := if fm.steps 3 then x + j else x

/-- Field a in repeat `j` (R86). -/
def Form.a (fm : Form) (j x : Nat) : Nat := if fm.steps 2 then x + j else x

/-- Field b in repeat `j` (R86). -/
def Form.b (fm : Form) (j x : Nat) : Nat := if fm.steps 1 then x + j else x

/-- A signed immediate in repeat `j` (R86). -/
def Form.i (fm : Form) (j : Nat) (v : Int) : Int := if fm.steps 0 then v + j else v

/-- An unsigned immediate in repeat `j` (R86). -/
def Form.u (fm : Form) (j v : Nat) : Nat := if fm.steps 0 then v + j else v

/-- Bytes of an instruction of a form, on page 0 or off it (R82). -/
def Form.len (fm : Form) (page : Nat) : Nat :=
  2 * (1 + (if fm.rep.isSome then 1 else 0) + (if page = 0 then 0 else 1) + (if fm.g then 1 else 0) + fm.nx)

/-- The form of an encoded instruction; a row without bits has the empty form. -/
def Instr.form (i : Instr) : Form :=
  match i.enc with
  | some e => e.fm
  | none => ⟨none, false, 0⟩

/-- Bytes of an instruction: its prefix words and its base word (R82). -/
def Enc.len (e : Enc) : Nat :=
  2 * (1 + (if e.fm.rep.isSome then 1 else 0) + (if e.page = 0 then 0 else 1)
    + (if e.fm.g then 1 else 0) + e.fm.nx)

/-- Bytes of an instruction; 0 for a row without bits. -/
def Instr.len (i : Instr) : Nat :=
  match i.enc with
  | some e => e.len
  | none => 0

end Sys2Proof
end

