-- ==== Sys2Proof/Machine/Bits.lean ====
section
/-! DEFINITION. Bit fields, sign extension and byte order (R2, R8). -/

namespace Sys2Proof.Machine

/-- The field of `n` bits from bit `lo` of a register. -/
def bits (w : Word) (lo n : Nat) : Nat := w.toNat / 2 ^ lo % 2 ^ n

/-- A register with the field of `n` bits from bit `lo` replaced. -/
def putBits (w : Word) (lo n v : Nat) : Word :=
  (w &&& ~~~(BitVec.ofNat 64 (2 ^ n - 1) <<< lo)) ||| (BitVec.ofNat 64 (v % 2 ^ n) <<< lo)

/-- The low `n` bits of a number as a two's complement integer (R99). -/
def sext (v n : Nat) : Int :=
  if 2 * (v % 2 ^ n) < 2 ^ n then (v % 2 ^ n : Nat) else ((v % 2 ^ n : Nat) : Int) - 2 ^ n

/-- The 64-bit pattern of an integer. -/
def ofInt (i : Int) : Word := BitVec.ofInt 64 i

/-- The little-endian number of a list of bytes (R2). -/
def natOfBytes : List Byte → Nat
  | [] => 0
  | b :: bs => b.toNat + 256 * natOfBytes bs

/-- The `n` little-endian bytes of a number (R2). -/
def bytesOfNat : Nat → Nat → List Byte
  | 0, _ => []
  | n + 1, v => BitVec.ofNat 8 v :: bytesOfNat n (v / 256)

/-- The bytes of a register, lowest first. -/
def bytesOfWord (n : Nat) (w : Word) : List Byte := bytesOfNat n w.toNat

/-- The bytes of a tile row, lowest address first (R65). -/
def bytesOfRow (r : BitVec 1024) : List Byte := bytesOfNat 128 r.toNat

/-- A tile row from its bytes, zero above them. -/
def rowOfBytes (bs : List Byte) : BitVec 1024 := BitVec.ofNat 1024 (natOfBytes bs)

/-- Byte `i` of a number. -/
def byteAt (v i : Nat) : Nat := v / 256 ^ i % 256

/-- Replaces element `i` of a list, extending it with `d` up to that element. -/
def setPad {α : Type} (d : α) : Nat → α → List α → List α
  | 0, x, [] => [x]
  | 0, x, _ :: l => x :: l
  | i + 1, x, [] => d :: setPad d i x []
  | i + 1, x, y :: l => y :: setPad d i x l

/-- Number of trailing zero bits of a number, at most `n`. -/
def trailingZeros : Nat → Nat → Nat
  | 0, _ => 0
  | n + 1, v => if v % 2 = 1 then 0 else 1 + trailingZeros n (v / 2)

/-- Number of one bits among the low `n` bits of a number. -/
def oneBits : Nat → Nat → Nat
  | 0, _ => 0
  | n + 1, v => v % 2 + oneBits n (v / 2)

/-- Number of significant bits of a number (R102). -/
def bitLength (v : Nat) : Nat := if v = 0 then 0 else Nat.log2 v + 1

/-- Least power of two at or above `n` (R208). -/
def ceilPow2 (n : Nat) : Nat := if n ≤ 1 then 1 else 2 ^ (Nat.log2 (n - 1) + 1)

end Sys2Proof.Machine
end

