-- ==== Sys2Proof/Machine/Mem.lean ====
section
/-! DEFINITION. Memory: a list of (address, byte) pairs in one canonical form, addresses strictly rising and
no entry equal to what an unlisted address reads as. -/

namespace Sys2Proof.Machine

/-- What an unlisted address reads as. DESIGN CHOICE, log 4: the spec gives no contents of HBM before a
write. -/
def unlistedByte : Byte := 0

/-- The canonical form. -/
def Memory.wf : List Host.Cell → Bool
  | [] => true
  | [(_, b)] => b != unlistedByte
  | (a, b) :: (a', b') :: l => (b != unlistedByte) && decide (a < a') && Memory.wf ((a', b') :: l)

/-- The byte at an address. -/
def memRead : List Host.Cell → Nat → Byte
  | [], _ => unlistedByte
  | (k, v) :: l, a => if k = a then v else memRead l a

/-- Memory with the byte at an address replaced, in canonical form again. -/
def memWrite : List Host.Cell → Nat → Byte → List Host.Cell
  | [], a, b => if b = unlistedByte then [] else [(a, b)]
  | (k, v) :: l, a, b =>
    if a < k then (if b = unlistedByte then (k, v) :: l else (a, b) :: (k, v) :: l)
    else if a = k then (if b = unlistedByte then l else (a, b) :: l)
    else (k, v) :: memWrite l a b

/-- `n` bytes from an address up. -/
def memReadN (m : List Host.Cell) (a : Nat) : Nat → List Byte
  | 0 => []
  | n + 1 => memRead m a :: memReadN m (a + 1) n

/-- Bytes written from an address up; `mask` selects the bits of each byte that are written (R117). -/
def memWriteMasked (mask : Byte) (m : List Host.Cell) (a : Nat) : List Byte → List Host.Cell
  | [] => m
  | b :: bs =>
    memWriteMasked mask (memWrite m a ((memRead m a &&& ~~~mask) ||| (b &&& mask))) (a + 1) bs

/-- Bytes written from an address up. -/
def memWriteN (m : List Host.Cell) (a : Nat) : List Byte → List Host.Cell
  | [] => m
  | b :: bs => memWriteN (memWrite m a b) (a + 1) bs

/-- The line of an address (R18). -/
def lineOf (a : Nat) : Nat := a / 128

/-- The 4 KiB frame of an address (R322). -/
def frameOf (a : Nat) : Nat := a / 4096

end Sys2Proof.Machine
end

