-- ==== Sys2Proof/Machine/State.lean ====
section
/-! DEFINITION. The state of one package: its cores with their contexts, its memory, its engines and every
table the spec names, as plain data, and the state after reset. -/

namespace Sys2Proof.Machine

/-- Reasons to stop with a fault. There are none: every trap the spec describes is a next state (R282,
R284), and so is the access to an address that does not exist (PAGE, R309, R412). -/
inductive Fault
deriving DecidableEq, Repr

/-- Reasons to refuse an instruction. -/
inductive Refusal where
  /-- Raised by `exec` for an instruction without a meaning yet, naming its mnemonic. Safe: the machine
  stops where the hardware goes on. -/
  | notModelled (mnemonic : String)
deriving DecidableEq, Repr

/-! ## Tile state -/

/-- Side-store of a tile loaded by `TLDS` (R65, R348): for each row, the exponent byte and the micro byte of
block b at bytes 2b and 2b + 1. -/
structure Side where
  kind : SxK
  rows : List (BitVec 256)
deriving DecidableEq, Repr

/-- One band of a tile register (R65, R176): its rows (as many as the row count), its side-store and the
rows an uncorrectable error poisoned (R370). -/
structure Tile where
  rows : List (BitVec 1024)
  side : Option Side
  bad : List Nat
deriving DecidableEq, Repr

/-- An accumulator (R66, R176): tag, row and column extent, and for each band its rows of cells. A cell that
is not listed is zero. A cell holds its tag's pattern in its low bits; an INT cell holds its folded value
acc24 + 2^24 × count, which determines both parts (R179). `bad` lists poisoned (band, row) pairs.
DESIGN CHOICE, log 12. -/
structure Acc where
  tag : Tag
  rext : Nat
  cext : Nat
  bands : List (List (List Word))
  bad : List (Nat × Nat)
  badCells : List (Nat × Nat × Nat) := []
deriving DecidableEq, Repr

/-! ## A context -/

/-- Scalar files and the program counter (R62 to R64). -/
structure Regs where
  g : Vector Word 64
  f : Vector Word 64
  p : Vector Bool 8
  m : Vector (BitVec 128) 8
  pc : Word
deriving DecidableEq, Repr

/-- User control and status registers (R68 to R72, R310), the LFSR (R58), the hidden owner of `XSTATE`
(R335) and the last fault (R321). -/
structure Ctl where
  fcsr : Word
  tctl : Word
  xstate : Word
  owner : Nat
  utvec : Word
  ucause : Word
  uepc : Word
  utval : Word
  hbase : Word
  hlimit : Word
  hoffs : Word
  lfsr : BitVec 32
  lastValid : Bool
  lastPc : Word
  lastVa : Word
deriving DecidableEq, Repr

/-- The trap registers of one level (R287, R288). `deleg` delegates one level down. -/
structure TrapSet where
  deleg : Word
  tvec : Word
  cause : Word
  epc : Word
  tval : Word
  scr : Word
deriving DecidableEq, Repr

/-- Privileged registers of a context (R287, R288) and its pending asynchronous causes (R332, R347). -/
structure Priv where
  status : Word
  sup : TrapSet
  hyp : TrapSet
  mon : TrapSet
  ptbase : Word
  teamlim : Word
  watchf : Word
  gtid : Word
  partid : Word
  pwbase : Word
  pwlimit : Word
  pending : Word
  auditDetail : Word
  auditTval : Word
  mchkDetail : Word
deriving DecidableEq, Repr

/-- State of a wayside entry (R144). -/
inductive WState where
  | pending
  | confirmed
  | struck
deriving DecidableEq, Repr

/-- A wayside entry (R144): `LDW` address, line, copy version (`none` is UNKNOWN, R248), state. -/
structure Wayside where
  va : Word
  line : Nat
  version : Option Nat
  state : WState
deriving DecidableEq, Repr

/-- The watch filter and its two summary levels (R395). -/
structure Watch where
  base : BitVec 4096
  s4k : BitVec 2048
  s2m : BitVec 2048
deriving DecidableEq, Repr

/-- Poisoned registers of a context (R370): one bit a scalar register, and the system-register numbers of
poisoned control registers. -/
structure RegPoison where
  g : BitVec 64
  f : BitVec 64
  p : BitVec 8
  m : BitVec 8
  ctl : List Nat
deriving DecidableEq, Repr

/-- What an instruction that has not retired has already sent or started (R154, R161, R175, R334). -/
inductive Sent where
  | nothing
  /-- A `TSPAWN` request waits at the distributors. -/
  | spawn
  /-- The answer to a `TSPAWN`: check number or 0. -/
  | spawnAnswer (status : Nat)
  /-- A `TINFO` request waits at the distributors. -/
  | info
  /-- The answer to a `TINFO`. -/
  | infoAnswer (first len : Word)
  /-- A `TGANG` request waits; the engines listed have accepted it (R365). -/
  | gang (g : Nat) (accepted : List Nat)
  /-- Every engine has accepted a `TGANG`. -/
  | gangGranted (g : Nat)
  /-- An atomic travels to the line's home. -/
  | atomic (line : Nat)
  /-- The old value an atomic read at its home, and the flags it raised. -/
  | atomicAnswer (old : Word) (flags : Nat)
  /-- An atomic that met poison at its home. -/
  | atomicPoison
  /-- A `TMMA` waits in a cellar stall, for this accumulator, since a cycle, after earlier stalls, with the entries that
  the steps done so far have taken in each band (R180). -/
  | stall (acc since used : Nat) (held : List Nat)
  /-- A stalled `TMMA` has been let on by a freed entry: its stalls so far, and its entries. -/
  | resumed (used : Nat) (held : List Nat)
  /-- A `TMMA` in test mode is to run again (R378): its stalls so far. -/
  | retry (used : Nat)
  /-- A stalled `TMMA` reached 4,096 cycles of stall. -/
  | timedOut (acc : Nat)
  /-- A `TLBSYNC` or another long operation is under way. -/
  | working
deriving DecidableEq, Repr

/-- Tables of a context (R144, R395, R153), its save area, the numbers of the blocks and names written to it
(R343, R344), an extension not read yet with its address, its length and the annex length (R351), and the model's
own records: `resumeAt` is the pc at which the last trap or `TRET` lets the thread go on (R71), `passedAt` is the cycle of the last trap entry, `TRET` or `TLBSYNC` (R300), and of an instruction in
progress `repLeft` counts the repeats not yet completed between two repeats (0 between instructions),
`ir` holds the first eight bytes of the words last fetched, and `regang`, while a restored context has not its gang
again, lists the engines that have accepted it (R175); of a `TMMA` in progress `runs` counts the runs that have mismatched
(R378). -/
structure Aux where
  wayside : List Wayside
  watch : Watch
  poison : RegPoison
  gang : Nat
  arrive : BitVec 8
  unchecked : Bool
  corrections : Word
  area : Option Nat
  areaSeq : Word
  spilled : List Nat
  evicted : List Nat
  extPending : Option (Nat × Nat × Nat)
  sent : Sent
  resumeAt : Word
  passedAt : Nat
  repLeft : Nat
  ir : Word
  regang : Option (List Nat)
  runs : Nat
deriving DecidableEq, Repr

/-- The architectural state of one thread (R347 lists it whole). -/
structure Ctx where
  regs : Regs
  ctl : Ctl
  prv : Priv
  t : Vector (List Tile) 16
  c : Vector Acc 8
  aux : Aux
deriving DecidableEq, Repr

/-! ## A core -/

/-- A retired store that has not left the store buffer (R239): the context it belongs to, its physical
address, its bytes and, for `SBST`, the bits of the byte it writes (R117). -/
structure SbEntry where
  gtid : Word
  pid : Nat
  pa : Nat
  data : List Byte
  mask : Byte
  poison : Bool
deriving DecidableEq, Repr

/-- A TLB entry (R318): PID, ASID, page level, first virtual address, leaf and the address it was read at.
`g64` marks a 64 KiB page. -/
structure TlbEntry where
  pid : Nat
  asid : Nat
  level : Nat
  g64 : Bool
  vbase : Nat
  pte : Word
  pteAddr : Nat
deriving DecidableEq, Repr

/-- A not-present result the walker remembers (R318). -/
structure NpEntry where
  pid : Nat
  asid : Nat
  level : Nat
  page : Nat
deriving DecidableEq, Repr

/-- A pending interrupt (R332): DETAIL and PID. -/
structure Intr where
  detail : Nat
  pid : Nat
deriving DecidableEq, Repr

/-- One core: its banks, store buffer, slot table, selectors, pending interrupts and TLBs. `bank` holds the
active context of a core that is not the current one; the current core's lies in `State.ctx`. `minPl` is the least level
at which a context that does not qualify may issue, and `lent` the context that the rest of the quantum has been passed
to (R142, R340). `retired` is the cycle of the last retirement (R404). -/
structure CoreSt where
  released : Bool
  halted : Bool
  act : Bool
  bank : Option Ctx
  lodge : Option Ctx
  sb : List SbEntry
  slottab : Vector Word 16
  quantum : Option (Nat × Word)
  minPl : Nat
  lent : Option Word
  window : Bool
  swapping : Bool
  lastLodged : List (Nat × Word)
  engsel : Word
  hmsel : Word
  rprsel : Word
  bistsum : Word
  ints : List Intr
  messages : List (Nat × Nat)
  preempt : Option (Nat × Word)
  tlb : List TlbEntry
  notPresent : List NpEntry
  retired : Option Nat
deriving DecidableEq, Repr

/-! ## Memory and coherence -/

/-- A remote copy of a line on a die (R241). -/
structure Copy where
  die : Nat
  line : Nat
  data : List Byte
  poison : Bool
  stamp : Nat
  version : Option Nat
deriving DecidableEq, Repr

/-- A write-through from a die to a line's home (R242), with the GTID and PID of its issuer (R289). `full` marks the
last piece of an access of all 128 bytes (R251, R371). `applied` once the home has applied it, with the line's version
`ver` then; it is removed when its acknowledgement arrives. `readers` are the other threads of the die that have read a
value of it, or acquired since (R257), `inc` is the die's incarnation (R391), and `cmd` the copy command that wrote it
(R140). -/
structure WriteThrough where
  die : Nat
  line : Nat
  gtid : Word
  pid : Nat
  pa : Nat
  data : List Byte
  mask : Byte
  poison : Bool
  full : Bool
  applied : Bool
  ver : Option Nat
  readers : List Word
  inc : Nat
  cmd : Option Nat
deriving DecidableEq, Repr

/-- A fill in flight (R241): the stamp is `GENCUR` when the die sent the request; `reply` holds the line's bytes, poison
and version as the home served it, and `pid` is the issuer's (R289). -/
structure Fill where
  die : Nat
  line : Nat
  stamp : Nat
  reply : List Byte × Bool × Option Nat
  pid : Nat
deriving DecidableEq, Repr

/-- A confirmation request (R248) with the GTID and PID of its issuer (R289), and its answer. -/
structure Confirm where
  gtid : Word
  die : Nat
  line : Nat
  version : Option Nat
  answer : Option Bool
  pid : Nat
deriving DecidableEq, Repr

/-- An atomic on its way to the home of its line (R138), with the GTID and PID of its issuer (R289). -/
structure AtomicReq where
  gtid : Word
  pid : Nat
  die : Nat
  pa : Nat
  op : Nat
  size : Nat
  src : Word
  cmp : Word
deriving DecidableEq, Repr

/-- Tokens of a line that a core holds (R239); the rest of the die's 128 lie with its shared caches. -/
structure TokenRec where
  die : Nat
  line : Nat
  core : Nat
  n : Nat
deriving DecidableEq, Repr

/-- A retention record of an L2 slice or remote-data-cache region (R247). -/
structure Retained where
  die : Nat
  slice : Nat
  count : Nat
deriving DecidableEq, Repr

/-- A halfword of a native frame that a store has replaced, as fetch may still read it (R300): its address, its old
value, the storing thread, the cycle at which that flushed the line, and whether it has executed `TLBSYNC` since. -/
structure OldCode where
  pa : Nat
  old : BitVec 16
  gtid : Word
  flushedAt : Option Nat
  synced : Bool
deriving DecidableEq, Repr

/-- Coherence state of the package (R239 to R248). `gencur` is the 32-bit clearing count of each die; `left` holds the
last version of each line that has left the version directory (R248); `dirty` marks the bytes of each line written
since its last write-back (R299); `oldCode` lists replaced halfwords of code (R300); `hostLines` lists the lines the host holds
a copy of through CXL.mem (R422). Every line of a stack in `badStacks` is poisoned but
for those written whole since, which `healed` lists (R371, R430). -/
structure Coh where
  gencur : Vector Nat 4
  sweeping : Vector Bool 4
  copies : List Copy
  wts : List WriteThrough
  fills : List Fill
  confirms : List Confirm
  atomics : List AtomicReq
  versions : List (Nat × Nat)
  left : List (Nat × Nat)
  nextVersion : Nat
  tokens : List TokenRec
  persistent : List (Nat × Nat × Nat)
  retained : List Retained
  poisoned : List Nat
  badStacks : List Nat
  healed : List Nat
  dirty : List (Nat × BitVec 128)
  oldCode : List OldCode
  hostLines : List Nat
deriving DecidableEq, Repr

/-! ## Translation and residence -/

/-- A `TLBINV` whose removal has not completed (R297): selector, address, ASID, PID and the issuing GTID. -/
structure TlbRemoval where
  sel : Nat
  va : Word
  asid : Nat
  pid : Nat
  gtid : Word
deriving DecidableEq, Repr

/-- A ring in memory, in the layout of R324: address of its header and number of records. -/
structure Ring where
  addr : Nat
  count : Nat
deriving DecidableEq, Repr

/-- Setting of PROPOSE for a partition (R328). -/
structure Proposal where
  pid : Nat
  ring : Ring
  threshold : Nat
  core : Nat
deriving DecidableEq, Repr

/-- A compressed page in the zone (R325): its handle, its bytes and which of its lines hold poison (R371). -/
structure Zipped where
  handle : Nat
  data : List Byte
  bad : List Nat
deriving DecidableEq, Repr

/-- What a translation of an access holds of its context: PID, window, root, ASID, heap triple, level. -/
structure Space where
  pid : Nat
  asid : Nat
  root : Nat
  pwbase : Nat
  pwlimit : Nat
  hbase : Nat
  hlimit : Nat
  hoffs : Nat
  user : Bool
deriving DecidableEq, Repr

/-- A context saved in memory (R344): the area, the GTID, the address space of the context, the core it left, and the
cycle of its last trap entry, `TRET` or `TLBSYNC` (R300). -/
structure Saved where
  area : Nat
  gtid : Word
  space : Space
  core : Nat
  passedAt : Nat
deriving DecidableEq, Repr

/-- Translation and residence state of the package (R322 to R328, R96); `saved` lists the contexts in save areas,
whose windows, heaps and areas the residence hardware respects. -/
structure Xlat where
  removals : List TlbRemoval
  native : List Nat
  owners : List (Nat × Nat)
  counters : List (Nat × Nat × Nat)
  handOvers : List (Nat × Nat)
  carve : Vector Nat 4
  pool : Option Ring
  zone : Option (Nat × Nat)
  zipped : List Zipped
  proposals : List Proposal
  saved : List Saved
deriving DecidableEq, Repr

/-! ## Engines, copy engines and collectives -/

/-- A repair entry (R431, R432). -/
structure RepairEntry where
  acc : Bool
  slot : Nat
  row : Nat
deriving DecidableEq, Repr

/-- A fault of the multiply array (R377): bits flipped in a cell of an accumulator that a run writes. The last
field counts the runs it still hits; `none` is a permanent fault. -/
structure ArrayFault where
  acc : Nat
  row : Nat
  col : Nat
  flip : Word
  runs : Option Nat
deriving DecidableEq, Repr

/-- A failing row of a slot, or of the spare that stands for it once it is redirected (R343, R431, R432): the bits of
`mask` read as those of `stuck`, whatever was written. -/
structure RowFault where
  acc : Bool
  slot : Nat
  row : Nat
  spare : Bool
  mask : BitVec 4096
  stuck : BitVec 4096
deriving DecidableEq, Repr

/-- A tile engine (R341, R291, R384, R431). -/
structure Engine where
  slots : Vector Word 32
  celshr : Vector Word 8
  repair : List RepairEntry
  quarantined : Bool
  suspect : Bool
  faults : List ArrayFault
  rowFaults : List RowFault
deriving DecidableEq, Repr

/-- Kind of a range lock (R229). -/
inductive LockKind where
  | read
  | write
deriving DecidableEq, Repr

/-- A range lock (R229): cluster, command, issuing GTID and PID, byte range and kind. -/
structure Lock where
  cluster : Nat
  cmd : Nat
  gtid : Word
  pid : Nat
  lo : Nat
  hi : Nat
  kind : LockKind
deriving DecidableEq, Repr

/-- Operation of a copy command (R219). -/
inductive CmdOp where
  | copy
  | copy2
  | gather
  | scatter
  | fill
  | warm (llc : Bool)
  | collective (variant : Nat)
deriving DecidableEq, Repr

/-- Fields of a command descriptor (R219). -/
structure Desc where
  src : Word
  dst : Word
  len : Word
  cw : Word
  p0 : Word
  p1 : Word
  rows : Nat
deriving DecidableEq, Repr

/-- A command in flight (R221): the core that issued it, the address space to translate with, where its completion
word lay at issue and whether that is device memory, its `XDRAIN` classes once they are known (R232), the code and
address it ends with, once its work is over (R230), whether it is a collective that has started or ended, of a scatter the
bytes its thread has written where it is to write (R224), and whether its destination is still to be made undefined
(R231). -/
structure Cmd where
  id : Nat
  core : Nat
  gtid : Word
  pid : Nat
  space : Space
  op : CmdOp
  desc : Desc
  cw : Option (Nat × Bool)
  classes : Option (List Nat)
  outcome : Option (Nat × Nat)
  ran : Bool
  raced : List Nat
  scrambles : Bool
deriving DecidableEq, Repr

/-- A collective group (R418): number, PID and member GTIDs in rank order. -/
structure Group where
  num : Nat
  pid : Nat
  members : List Word
deriving DecidableEq, Repr

/-- An abort that stands for a collective (R393): the code and the members that have not received it. -/
structure Abort where
  group : Nat
  id : Nat
  code : Nat
  waiting : List Word
deriving DecidableEq, Repr

/-- Copy engines, range locks and collectives of the package. `lost` lists threads that were killed, with the code their
collectives end with, `told` aborts of collectives that are still to be sent to other packages: package, group,
identifier, code and the lost member (R393). -/
structure CopySt where
  locks : List Lock
  lockshr : Vector (Vector Word 8) 32
  cmds : List Cmd
  nextCmd : Nat
  groups : List Group
  aborts : List Abort
  lost : List (Word × Nat)
  told : List (Nat × Nat × Nat × Nat × Word)
deriving DecidableEq, Repr

/-! ## Scheduling -/

/-- A level of a launch record (R25). -/
structure Level where
  extent : Nat
  domain : Nat
  scope : Nat
  bar : Bool
deriving DecidableEq, Repr

/-- Life state of a team member (R21). -/
inductive Life where
  | pending
  | queued
  | resident
  | ended
deriving DecidableEq, Repr

/-- A thread of a team (R27): rank, GTID, life state, how often it has arrived at each level (R31), the core or
the cluster's first core it was placed at, whether it has begun (R151) and its save area (R359). -/
structure Member where
  rank : Nat
  gtid : Word
  life : Life
  arrived : List Nat
  place : Option Nat
  begun : Bool
  area : Option Nat
deriving DecidableEq, Repr

/-- A chunk handed out and not reported complete (R353). -/
structure Handout where
  chunk : Nat
  gtid : Word
deriving DecidableEq, Repr

/-- A team (R23 to R34, R353): the launch record's fields, the context its threads copy (R76, R290), where
the completion word lies, its members and its index space. `noted` once its acceptance has been recorded and DONEW = 1
sent, `ending` once the final completion word has been sent (R34, R352). -/
structure Team where
  id : Nat
  prio : Nat
  istart : Word
  icount : Nat
  chunk : Nat
  donew : Option (Nat × Word)
  levels : List Level
  base : Ctx
  members : List Member
  next : Nat
  handouts : List Handout
  reissue : List Nat
  killed : Bool
  reissued : Bool
  noted : Bool
  ending : Bool
deriving DecidableEq, Repr

/-- A request that waits at the distributors: a `TSPAWN` with its record, or a `TINFO` (R352). -/
inductive Request where
  | spawn (core : Nat) (gtid : Word) (data : List Byte) (donew : Option (Nat × Word))
  | accepted (core : Nat) (gtid : Word) (team : Nat)
  | info (core : Nat) (gtid : Word) (team : Nat)
deriving DecidableEq, Repr

/-- A run queue (R359): PID, cluster, array address and record count. -/
structure RunQueue where
  pid : Nat
  cluster : Nat
  addr : Nat
  count : Nat
deriving DecidableEq, Repr

/-- A restore by a distributor in progress (R361): the core, the record, its area, the partition of the queue and the
thread. -/
structure Restore where
  core : Nat
  record : Nat
  area : Nat
  pid : Nat
  gtid : Word
deriving DecidableEq, Repr

/-- Distributors of the package (R352 to R368), the members that wait for a reserved active bank, by core and GTID
(R357), and the messages on their way between cores, by core and PID (R292). `electHost` is the mode in which the
pending election began (R420). -/
structure Sched where
  master : Nat
  election : Bool
  electHost : Bool
  serial : Nat
  teams : List Team
  requests : List Request
  runqs : List RunQueue
  sapools : List (Nat × Ring)
  restores : List Restore
  spillSeq : Word
  reserved : List (Nat × Word)
  ipis : List (Nat × Nat)
deriving DecidableEq, Repr

/-! ## Reliability -/

/-- The operands of a `TMMA` as they stand when it executes (R169, R171, R380): pair, form, K-count, gang size,
number of the first destination, `TCTL`, FP32 scale, the chained source or the A tiles, the B tiles of each group,
and the previous values of the destinations. -/
structure TmmaOp where
  pair : Pair
  wide : Bool
  k : Nat
  gang : Nat
  dest : Nat
  tctl : Word
  scale : Nat
  chained : Option Acc
  a : List (List Tile)
  b : List (List Tile)
  old : List Acc
deriving DecidableEq, Repr

/-- An audit record (R380 to R387): what was sampled, the engines that ran it and their signatures. `reported` while
it waits for AUDITRULE. -/
structure AuditRec where
  seq : Nat
  gtid : Word
  pid : Nat
  pc : Word
  die : Nat
  op : TmmaOp
  orig : Nat
  replay : Option Nat
  third : Option Nat
  sigs : List Word
  outcome : Nat
  reported : Bool
deriving DecidableEq, Repr

/-- A management-log record (R415). -/
structure LogRec where
  cycle : Word
  code : Nat
  die : Nat
  pid : Nat
  addr : Nat
  count : Nat
deriving DecidableEq, Repr

/-- Forester, log and agents (R370 to R391). `held` lists asynchronous causes that wait for contexts that are not
resident: GTID, code, DETAIL and TVAL (R332, R383, R392). `scrubbed` lists the lines that the last scrub for an agent, by
its number, has poisoned (R391). -/
structure Rel where
  auditK : Vector Nat 4
  retry : Vector Nat 4
  audits : List AuditRec
  reports : List AuditRec
  auditSeq : Nat
  log : List LogRec
  logRead : Nat
  held : List (Word × Nat × Nat × Word)
  incarnation : List (Nat × Nat)
  scrubbed : List (Nat × Nat)
  deadPkgs : List Nat
  live : Vector Bool 4
  fenced : Vector Bool 4
deriving DecidableEq, Repr

/-! ## Fabric, host, boot, debug -/

/-- A message between two packages (R390): ordered pair, sequence number, thread and PID of the issuer (R289), request,
whether its data is poisoned and whether it is the last piece of an access of a whole line (R371), whether the
destination has applied it, the incarnation it carries (R391), of a request that is forwarded its source and number there
(R250), the other threads of the package that have acquired since (R257), and the copy command that sent it (R140). -/
structure Msg where
  src : Nat
  dst : Nat
  seq : Nat
  gtid : Word
  pid : Nat
  rq : RemoteReq
  poison : Bool
  full : Bool
  applied : Bool
  sentOut : Bool
  inc : Nat
  fwd : Option (Nat × Nat)
  readers : List Word
  cmd : Option Nat
deriving DecidableEq, Repr

/-- What a destination keeps of the messages of an ordered pair (R390): the lowest number not yet applied, and the
numbers applied above it. -/
structure Seen where
  src : Nat
  dst : Nat
  floor : Nat
  above : List Nat
deriving DecidableEq, Repr

/-- A reply the destination keeps for a message of another package (R390): source, number, the bytes that a load or an
atomic read and whether they are poisoned (R371), and the incarnation it carries (R391). -/
structure Reply where
  src : Nat
  seq : Nat
  data : List Byte
  poison : Bool
  inc : Nat
deriving DecidableEq, Repr

/-- Another package of the node domain, as its host link and its carve-outs bear on an access from here (R308, R412,
R413). -/
structure Peer where
  pkg : Nat
  linkUp : Bool
  cxl : Bool
  carve : Vector Nat 4
deriving DecidableEq, Repr

/-- Fabric state (R390, R417). `seqs` holds the next number of each ordered pair, `seen` what a destination has applied,
`replies` the replies kept; `repairHost` is the mode in which the repair at hand began (R420); a package that `peers`
does not list stands as `Peer.reset` says. -/
structure Fabric where
  msgs : List Msg
  seqs : List (Nat × Nat × Nat)
  seen : List Seen
  replies : List Reply
  linksUp : BitVec 18
  routes : List (Nat × Nat)
  repairing : Bool
  repairHost : Bool
  present : List Nat
  peers : List Peer
deriving DecidableEq, Repr

/-- A VF binding (R419). -/
structure Vf where
  num : Nat
  pid : Nat
  area : Nat
  core : Nat
deriving DecidableEq, Repr

/-- One MSI-X vector: address, data and vector-control mask bit, as PCIe defines. -/
structure MsixVector where
  fn : Nat
  idx : Nat
  addr : Word
  data : Word
deriving DecidableEq, Repr

/-- Host link and device registers (R413 to R423). `mbPending` while a submitted mailbox command has been neither
served nor forwarded; `answer` is what the last host read returned. -/
structure HostSt where
  trained : Bool
  failed : Bool
  cxl : Bool
  rate : Nat
  width : Nat
  vfs : List Vf
  msix : List MsixVector
  pendingBits : List (Nat × Nat)
  sentMsix : List (Nat × Nat)
  window : Option (Nat × Nat)
  decoders : List (Nat × Nat × Nat)
  notifyCore : Nat
  dumpRing : Option Ring
  mbcmd : Word
  mbarg : Vector Word 8
  mbstat : Word
  mbPending : Bool
  answer : Option (List Byte)
deriving DecidableEq, Repr

/-- Boot, measurement and health state (R426 to R434). `stuck` once a stage has failed; `boots` counts package
resets; `record` is the management interface's repair record, by engine (R432); `calls` holds the length in bytes of
each thread's last `mvc`, as the firmware that returns past it must know it (R451). -/
structure Boot where
  bootst : Word
  stuck : Bool
  boots : Nat
  record : List (Nat × RepairEntry)
  calls : List (Word × Nat)
  measure : Vector (BitVec 256) 8
  fwEntry : Word
  fwHandler : Option Word
  health : List (Nat × Nat × Nat × Word)
deriving DecidableEq, Repr

/-- Previous values of a die's roll call (R407): for each core its run state, GTID and PC. -/
structure RollDie where
  last : List (Nat × Word × Word)
  count : Nat
  lost : Nat
deriving DecidableEq, Repr

/-- Roll call and package stop list (R401 to R407): a stop is a GTID and the bit a restore applies; roll calls have been
taken up to the cycle `rollAt`. -/
structure Dbg where
  stops : List (Word × Bool)
  rollK : Nat
  rollNext : Option Nat
  rollMask : Nat
  rollRing : Nat
  rollSize : Nat
  roll : Vector RollDie 4
  rollAt : Nat
deriving DecidableEq, Repr

/-- Whose turn it is: a core executes its next instruction, or an event row of the opcode table takes place.
The list of turns is plain data, and stands for every outside input and every order of agents. -/
inductive Turn where
  | run (core : Nat)
  | event (i : Instr)
deriving DecidableEq, Repr

/-- The machine: the current core (`cur`) with its active context `ctx` and the rest of it in `core`, the
other cores, memory, and the package's units. `free` is the counter that free values are applied to.
DESIGN CHOICE, log 5. -/
structure State where
  cur : Nat
  ctx : Ctx
  core : CoreSt
  others : List (Nat × CoreSt)
  turns : List Turn
  cyc : Nat
  ns : Nat
  free : Nat
  modes : Word
  pkg : Nat
  mem : List Host.Cell
  coh : Coh
  xlat : Xlat
  eng : Vector Engine 128
  copy : CopySt
  sched : Sched
  rel : Rel
  fab : Fabric
  host : HostSt
  boot : Boot
  dbg : Dbg
deriving DecidableEq, Repr

/-! ## Reset -/

/-- An accumulator with nothing in it. -/
def Acc.empty : Acc := ⟨.empty, 0, 0, [], [], []⟩

/-- A tile band with row count 0. -/
def Tile.empty : Tile := ⟨[], none, []⟩

/-- Scalar files at zero; the reads of `g0`, `p0` and `m0` do not use what is stored. DESIGN CHOICE, log 1. -/
def Regs.reset (pc : Word) : Regs :=
  ⟨Vector.replicate 64 0, Vector.replicate 64 0, Vector.replicate 8 false, Vector.replicate 8 0, pc⟩

/-- Reset values of R69 to R72, R310 and R58; `TCTL.WINB` resets to 1 (R70). -/
def Ctl.reset : Ctl :=
  { fcsr := 0, tctl := 0x8000000, xstate := 0, owner := 0, utvec := 0, ucause := 0, uepc := 0, utval := 0
    hbase := 0, hlimit := 0, hoffs := 0, lfsr := 1, lastValid := false, lastPc := 0, lastVa := 0 }

/-- A trap set at zero. -/
def TrapSet.reset : TrapSet := ⟨0, 0, 0, 0, 0, 0⟩

/-- Reset values of R288: `STATUS.PL` 3, `TEAMLIM.PRIOMAX` 15, the rest 0. -/
def Priv.reset (gtid : Word) : Priv :=
  { status := 3, sup := TrapSet.reset, hyp := TrapSet.reset, mon := TrapSet.reset, ptbase := 0
    teamlim := 0xF000000, watchf := 0, gtid := gtid, partid := 0, pwbase := 0, pwlimit := 0, pending := 0
    auditDetail := 0, auditTval := 0, mchkDetail := 0 }

/-- Tables of a fresh context. -/
def Aux.reset : Aux :=
  { wayside := [], watch := ⟨0, 0, 0⟩, poison := ⟨0, 0, 0, 0, []⟩, gang := 1, arrive := 0
    unchecked := false, corrections := 0, area := none, areaSeq := 0, spilled := []
    evicted := [], extPending := none, sent := .nothing, resumeAt := 0, passedAt := 0, repLeft := 0, ir := 0, regang := none, runs := 0 }

/-- A context at its reset values. -/
def Ctx.reset (gtid pc : Word) : Ctx :=
  { regs := Regs.reset pc, ctl := Ctl.reset, prv := Priv.reset gtid
    t := Vector.replicate 16 [Tile.empty], c := Vector.replicate 8 Acc.empty, aux := Aux.reset }

/-- A core at reset: not released, both banks empty, every register 0 (R288, R431, R433, R434). -/
def CoreSt.reset : CoreSt :=
  { released := false, halted := false, act := false, bank := none, lodge := none, sb := []
    slottab := Vector.replicate 16 0, quantum := none, minPl := 4, lent := none, window := false, swapping := false
    lastLodged := [], engsel := 0, hmsel := 0, rprsel := 0, bistsum := 0, ints := [], messages := []
    preempt := none, tlb := [], notPresent := [], retired := none }

/-- Coherence state at reset: nothing in flight, every clearing count 0, every version UNKNOWN. -/
def Coh.reset : Coh :=
  { gencur := Vector.replicate 4 0, sweeping := Vector.replicate 4 false
    copies := [], wts := [], fills := [], confirms := []
    atomics := [], versions := [], left := [], nextVersion := 0, tokens := [], persistent := [], retained := []
    poisoned := [], badStacks := [], healed := [], dirty := [], oldCode := [], hostLines := [] }

/-- Translation state at reset; the carve-out of each die is 8 GiB (R16). -/
def Xlat.reset : Xlat :=
  { removals := [], native := [], owners := [], counters := [], handOvers := []
    carve := Vector.replicate 4 8, pool := none, zone := none, zipped := []
    proposals := [], saved := [] }

/-- An engine at reset: every slot entry KIND 0, every share record invalid (R288). -/
def Engine.reset : Engine :=
  ⟨Vector.replicate 32 0, Vector.replicate 8 0, [], false, false, [], []⟩

/-- Copy engines at reset: no lock, no command, no group. -/
def CopySt.reset : CopySt :=
  ⟨[], Vector.replicate 32 (Vector.replicate 8 0), [], 0, [], [], [], []⟩

/-- Distributors at reset: die 0 is the master (R352). -/
def Sched.reset : Sched := ⟨0, false, false, 1, [], [], [], [], [], 0, [], []⟩

/-- Reliability state at reset: k = 12 (R379), retry count 3 (R385). -/
def Rel.reset : Rel :=
  ⟨Vector.replicate 4 12, Vector.replicate 4 3, [], [], 0, [], 0, [], [], [], [], Vector.replicate 4 false,
    Vector.replicate 4 false⟩

/-- Fabric at reset: no link up, no package present. -/
def Fabric.reset : Fabric := ⟨[], [], [], [], 0, [], false, false, [], []⟩

/-- Another package as this one finds it: its host link up as PCIe, its carve-outs at their default of 8 GiB (R16).
DESIGN CHOICE, log 71. -/
def Peer.reset (p : Nat) : Peer := ⟨p, true, false, Vector.replicate 4 8⟩

/-- Host side at reset (R414). -/
def HostSt.reset : HostSt :=
  { trained := false, failed := false, cxl := false, rate := 0, width := 0, vfs := [], msix := []
    pendingBits := [], sentMsix := [], window := none, decoders := [], notifyCore := 0, dumpRing := none, mbcmd := 0
    mbarg := Vector.replicate 8 0, mbstat := 0, mbPending := false
    answer := none }

/-- Entry address that the firmware image header names (R427); DESIGN CHOICE, log 2. -/
def fwEntryAddress : Word := 0x10000

/-- Boot state at reset: stage 0 (R426), measurement registers 0 (R429). -/
def Boot.reset : Boot := ⟨0, false, 0, [], [], Vector.replicate 8 0, fwEntryAddress, none, []⟩

/-- Debug state at reset: no stop, roll call off. -/
def Dbg.reset : Dbg := ⟨[], 0, none, 0, 0, 0, Vector.replicate 4 ⟨[], 0, 0⟩, 0⟩

/-- The package right after reset (R426): stage 0, no core released, nothing in memory. The bank of the
current core holds what R427 gives it at core release, but is not occupied yet. -/
def State.reset : State :=
  { cur := 0, ctx := Ctx.reset 1 fwEntryAddress, core := CoreSt.reset, others := [], turns := []
    cyc := 0, ns := 0, free := 0, modes := 0, pkg := 0, mem := [], coh := Coh.reset, xlat := Xlat.reset
    eng := Vector.replicate 128 Engine.reset, copy := CopySt.reset, sched := Sched.reset
    rel := Rel.reset, fab := Fabric.reset, host := HostSt.reset, boot := Boot.reset, dbg := Dbg.reset }

end Sys2Proof.Machine
end

