-- ==== Sys2Proof/Machine/Ops.lean ====
section
/-! DEFINITION. The named operations over registers, and taking a trap, returning from one and retiring an
instruction, each written once. -/

namespace Sys2Proof.Machine

/-! ## Registers -/

/-- Reads `g`n; `g0` is zero (R62). -/
def rg (s : State) (n : Nat) : Word := if n = 0 then 0 else (s.ctx.regs.g[n]?).getD 0

/-- Reads `f`n (R63). -/
def rf (s : State) (n : Nat) : Word := (s.ctx.regs.f[n]?).getD 0

/-- Reads `p`n; `p0` is true (R64). -/
def rp (s : State) (n : Nat) : Bool := if n = 0 then true else (s.ctx.regs.p[n]?).getD false

/-- Reads `m`n; `m0` is all ones (R64). -/
def rm (s : State) (n : Nat) : BitVec 128 :=
  if n = 0 then BitVec.allOnes 128 else (s.ctx.regs.m[n]?).getD 0

/-- Writing a poisoned register makes it good again (R370). -/
def healG (s : State) (n : Nat) : State :=
  if s.ctx.aux.poison.g.getLsbD n
  then { s with ctx.aux.poison.g := s.ctx.aux.poison.g &&& ~~~(1#64 <<< n) } else s

/-- As `healG`, for `f`. -/
def healF (s : State) (n : Nat) : State :=
  if s.ctx.aux.poison.f.getLsbD n
  then { s with ctx.aux.poison.f := s.ctx.aux.poison.f &&& ~~~(1#64 <<< n) } else s

/-- As `healG`, for `p`. -/
def healP (s : State) (n : Nat) : State :=
  if s.ctx.aux.poison.p.getLsbD n
  then { s with ctx.aux.poison.p := s.ctx.aux.poison.p &&& ~~~(1#8 <<< n) } else s

/-- As `healG`, for `m`. -/
def healM (s : State) (n : Nat) : State :=
  if s.ctx.aux.poison.m.getLsbD n
  then { s with ctx.aux.poison.m := s.ctx.aux.poison.m &&& ~~~(1#8 <<< n) } else s

/-- Writes `g`n; a write to `g0` is discarded (R62). -/
def wg (s : State) (n : Nat) (v : Word) : State :=
  if n = 0 then s else healG { s with ctx.regs.g := s.ctx.regs.g.setIfInBounds n v } n

/-- Writes `f`n (R63). -/
def wf (s : State) (n : Nat) (v : Word) : State :=
  healF { s with ctx.regs.f := s.ctx.regs.f.setIfInBounds n v } n

/-- Writes `p`n; a write to `p0` is discarded (R64). -/
def wp (s : State) (n : Nat) (v : Bool) : State :=
  if n = 0 then s else healP { s with ctx.regs.p := s.ctx.regs.p.setIfInBounds n v } n

/-- Writes `m`n; a write to `m0` is discarded (R64). -/
def wm (s : State) (n : Nat) (v : BitVec 128) : State :=
  if n = 0 then s else healM { s with ctx.regs.m := s.ctx.regs.m.setIfInBounds n v } n

/-- Index of free value `i`, of 65,536, that a step may use. -/
def draw (s : State) (i : Nat) : Nat := s.free * 65536 + i % 65536

/-- The program counter. -/
def State.pc (s : State) : Word := s.ctx.regs.pc

/-- Sets the program counter. -/
def State.setPc (s : State) (v : Word) : State := { s with ctx.regs.pc := v }

/-- Sets `STATUS`. -/
def State.setStatus (s : State) (w : Word) : State := { s with ctx.prv.status := w }

/-- `STATUS.PL` (R279). -/
def State.pl (s : State) : Nat := bits s.ctx.prv.status 0 2

/-- `PARTID.PID` of the context (R289). -/
def Ctx.pid (c : Ctx) : Nat := bits c.prv.partid 0 12

/-- `PARTID.PID` of the active context. -/
def State.pid (s : State) : Nat := s.ctx.pid

/-- `UCAUSE.UBUSY` (R72). -/
def Ctx.ubusy (c : Ctx) : Bool := c.ctl.ucause.getLsbD 63

/-- The state of an instruction that `XSTATE`'s owner is compared with (R335). -/
def Ctx.level (c : Ctx) : Nat :=
  if bits c.prv.status 0 2 = 0 then (if c.ubusy then 1 else 0) else bits c.prv.status 0 2 + 1

/-- The fields of `XSTATE` describe the instruction at hand (R335). -/
def Ctx.owns (c : Ctx) : Bool := decide (c.ctl.owner = c.level)

/-- The die of the current core (R9). -/
def State.die (s : State) : Nat := s.cur / 64

/-- The cluster of the current core, die × 8 + cluster (R9). -/
def State.cluster (s : State) : Nat := s.cur / 8

/-! ## Stops -/

/-- A trap an instruction raises: code, DETAIL, TVAL (R331), whether it is a fault of one of its accesses,
and the row or lane it stopped at. -/
structure Trap where
  code : Nat
  detail : Nat
  tval : Word
  access : Bool
  unit : Nat
deriving DecidableEq, Repr

/-- How an instruction fails to complete: a trap, or a wait in which it has no effect beyond the state given
here and executes again. -/
inductive Stop where
  | trap (t : Trap) (s : State)
  | wait (s : State)
deriving DecidableEq, Repr

/-- The result of a part of an instruction: the state it leaves and a value. -/
abbrev RunV (α : Type) := Except Stop (State × α)

/-- The result of an instruction's effect: the state it leaves. -/
abbrev Run := Except Stop State

/-- The outcome of an instruction. -/
abbrev Out := Host.Outcome State Fault Refusal

/-- ILL at this instruction; TVAL is the words fetched (R331). -/
def illTrap (s : State) : Trap := ⟨0x01, 0, s.ctx.aux.ir, false, 0⟩

/-- PRIV at this instruction; DETAIL is the system-register number of a system-register access (R331). -/
def privTrap (detail : Nat) (s : State) : Trap := ⟨0x03, detail, s.ctx.aux.ir, false, 0⟩

/-- Raises ILL. -/
def raiseIll {α : Type} (s : State) : Except Stop α := .error (.trap (illTrap s) s)

/-- Raises a trap that is no access fault. -/
def raise {α : Type} (code detail : Nat) (tval : Word) (s : State) : Except Stop α :=
  .error (.trap ⟨code, detail, tval, false, 0⟩ s)

/-- Raises a fault of an access (R111). -/
def raiseAccess {α : Type} (code detail : Nat) (tval : Word) (s : State) : Except Stop α :=
  .error (.trap ⟨code, detail, tval, true, 0⟩ s)

/-- Waits: the instruction executes again. DEDUCED, log 59. -/
def waitIn {α : Type} (s : State) : Except Stop α := .error (.wait s)

/-- An instruction that commits rows or lanes starts at unit `k`: a trap that is no access fault leaves it there (R336). -/
def fromUnit (k : Nat) : Run → Run
  | .error (.trap t s) => .error (.trap (if t.access then t else { t with unit := k }) s)
  | r => r

/-- Marks an access fault with the row or lane at which it stopped (R164, R214). -/
def atUnit {α : Type} (k : Nat) : Except Stop α → Except Stop α
  | .error (.trap t s) => .error (.trap (if t.access then { t with unit := k } else t) s)
  | r => r

/-- A register an instruction reads as a source. -/
inductive Src where
  | g (n : Nat)
  | f (n : Nat)
  | p (n : Nat)
  | m (n : Nat)
  | ctl (num : Nat)
deriving DecidableEq, Repr

/-- A poisoned register (R370); the constant registers have no storage to poison. DEDUCED, log 18. -/
def poisonedSrc (s : State) : Src → Bool
  | .g n => decide (n ≠ 0) && s.ctx.aux.poison.g.getLsbD n
  | .f n => s.ctx.aux.poison.f.getLsbD n
  | .p n => decide (n ≠ 0) && s.ctx.aux.poison.p.getLsbD n
  | .m n => decide (n ≠ 0) && s.ctx.aux.poison.m.getLsbD n
  | .ctl n => s.ctx.aux.poison.ctl.contains n

/-- Reading a poisoned register as a source raises MCHK with DETAIL 0x0002 before any access (R372). -/
def need (s : State) (l : List Src) : Except Stop Unit :=
  if l.any (poisonedSrc s) then raise 0x13 0x0002 0 s else .ok ()

/-- PRIV below a level (R280). -/
def atLeast (s : State) (pl : Nat) : Except Stop Unit :=
  if s.pl < pl then .error (.trap (privTrap 0 s) s) else .ok ()

/-! ## Progress fields -/

/-- `XSTATE` with REP, TPROG and RFC replaced (R71). -/
def xstateOf (rep tprog rfc : Nat) : Word :=
  BitVec.ofNat 64 (rep % 128 + tprog % 256 * 256 + rfc % 32 * 524288)

/-- `XSTATE.REP`. -/
def Ctl.rep (c : Ctl) : Nat := bits c.xstate 0 7

/-- `XSTATE.TPROG`. -/
def Ctl.tprog (c : Ctl) : Nat := bits c.xstate 8 8

/-- `XSTATE.RFC`. -/
def Ctl.rfc (c : Ctl) : Nat := bits c.xstate 19 5

/-- Writes `XSTATE` and takes its ownership (R335). -/
def setXstate (x : Word) (s : State) : State :=
  { s with ctx.ctl.xstate := x, ctx.ctl.owner := s.ctx.level }

/-- A trap writes the progress fields and takes their ownership (R335). -/
def setProgress (rep tprog rfc : Nat) (s : State) : State := setXstate (xstateOf rep tprog rfc) s

/-- RFC as the instruction at hand sees it (R335). -/
def rfcSeen (s : State) : Nat := if s.ctx.owns then s.ctx.ctl.rfc else 0

/-- REP as the instruction at hand sees it (R335). -/
def repSeen (s : State) : Nat := if s.ctx.owns then s.ctx.ctl.rep else 0

/-- TPROG as the instruction at hand sees it (R335). -/
def tprogSeen (s : State) : Nat := if s.ctx.owns then s.ctx.ctl.tprog else 0

/-! ## Taking a trap -/

/-- BASE of a vector register, as bits [55:1] (R72). -/
def vecBase (w : Word) : Nat := bits w 1 55

/-- The address a register of the layout of `UTVEC` or `UEPC` reads as (R72). -/
def vecAddr (w : Word) : Word := BitVec.ofNat 64 (vecBase w * 2)

/-- The trap registers of level 1, 2 or 3. -/
def State.trapSet (s : State) : Nat → TrapSet
  | 1 => s.ctx.prv.sup
  | 2 => s.ctx.prv.hyp
  | _ => s.ctx.prv.mon

/-- Replaces the trap registers of level 1, 2 or 3. -/
def State.setTrapSet (s : State) (lvl : Nat) (x : TrapSet) : State :=
  match lvl with
  | 1 => { s with ctx.prv.sup := x }
  | 2 => { s with ctx.prv.hyp := x }
  | _ => { s with ctx.prv.mon := x }

/-- A user handler can take the trap: `UTVEC.BASE` is nonzero and UBUSY is 0 (R74). -/
def userReady (s : State) : Bool := decide (vecBase s.ctx.ctl.utvec ≠ 0) && !s.ctx.ubusy

/-- The level a trap names before levels without a handler are passed over (R282). -/
def routeFirst (s : State) (c : Nat) : Nat :=
  if c = 0x0B then 1
  else if c = 0x11 ∨ c = 0x06 then 2
  else if c = 0x12 then 3
  else if s.ctx.prv.mon.deleg.getLsbD c then
    (if s.ctx.prv.hyp.deleg.getLsbD c then
      (if s.ctx.prv.sup.deleg.getLsbD c && userReady s then 0 else 1)
     else 2)
  else 3

/-- Passes over levels 1 and 2 while they have no handler (R282). -/
def routeUp (s : State) (t : Nat) : Nat :=
  let t1 := if t = 1 ∧ vecBase s.ctx.prv.sup.tvec = 0 then 2 else t
  if t1 = 2 ∧ vecBase s.ctx.prv.hyp.tvec = 0 then 3 else t1

/-- The level a trap of code `c` raised at level `pl` goes to (R282). -/
def route (s : State) (c pl : Nat) : Nat := routeUp s (max (routeFirst s c) pl)

/-- `STATUS.IE` of level 1, 2 or 3 (R288). -/
def State.ie (s : State) (lvl : Nat) : Bool := s.ctx.prv.status.getLsbD (3 + lvl)

/-- The CAUSE register entry writes (R284, R288). -/
def causeOf (ppl : Nat) (pie : Bool) (code detail : Nat) : Word :=
  BitVec.ofNat 64 (ppl % 4 * 2 ^ 62 + (if pie then 2 ^ 61 else 0) + detail % 65536 * 65536 + code % 256)

/-- Entry to level T at 1 or above, one step (R284). -/
def enter (lvl code detail : Nat) (tval pc : Word) (s : State) : State :=
  let x := s.trapSet lvl
  ((s.setTrapSet lvl
      { x with cause := causeOf s.pl (s.ie lvl) code detail, epc := vecAddr pc, tval := tval }).setStatus
    (putBits (putBits s.ctx.prv.status (3 + lvl) 1 0) 0 2 lvl)).setPc (vecAddr x.tvec)

/-- Delivery to the user handler, one step (R74). -/
def enterUser (code detail : Nat) (tval pc : Word) (s : State) : State :=
  { s with
    ctx.ctl.ucause := BitVec.ofNat 64 (2 ^ 63 + detail % 65536 * 65536 + code % 256)
    ctx.ctl.uepc := vecAddr pc
    ctx.ctl.utval := tval
    ctx.regs.pc := vecAddr s.ctx.ctl.utvec }

/-- Both banks of the core stop (R302). -/
def haltCore (s : State) : State := { s with core.halted := true }

/-- Sends a trap to the level R282 gives it. A route to level 3 without a monitor handler stops the core as
`HALT` does. Nothing of the interrupted instruction stays in progress. -/
def deliver (code detail : Nat) (tval pc : Word) (s : State) : State :=
  let s := { s with
    ctx.aux.sent := .nothing, ctx.aux.repLeft := 0, ctx.aux.resumeAt := pc, ctx.aux.passedAt := s.cyc }
  let lvl := route s code s.pl
  if lvl = 0 then enterUser code detail tval pc s
  else if lvl = 3 ∧ vecBase s.ctx.prv.mon.tvec = 0 then haltCore s
  else enter lvl code detail tval pc s

/-- The refault count of a PAGE at `va` (R321). -/
def nextRfc (va : Word) (s : State) : Nat :=
  if rfcSeen s > 0 || s.ctx.ctl.lastValid then
    (if s.pc = s.ctx.ctl.lastPc ∧ va = s.ctx.ctl.lastVa then min (rfcSeen s + 1) 16 else 0)
  else 0

/-- Notes the fault address of a PAGE (R321). -/
def noteFault (va : Word) (s : State) : State :=
  { s with ctx.ctl.lastPc := s.pc, ctx.ctl.lastVa := va, ctx.ctl.lastValid := true }

/-- Progress a trap of an instruction records (R87, R331, R336): an access fault writes REP and TPROG; any
other trap of a repeat writes REP, and the units already committed (`fromUnit`) stay in TPROG. -/
def recordProgress (rep : Option Nat) (rfc : Nat) (t : Trap) (s : State) : State :=
  if t.access then setProgress (rep.getD 0) t.unit rfc s
  else
    match rep with
    | none => s
    | some r => setProgress r t.unit rfc s

/-- A trap at the instruction at the program counter. `rep` is the number of repeats not completed where the
instruction carries `PFX.N`. A PAGE that refaults for the sixteenth time becomes TRANS (R321). -/
def takeTrap (rep : Option Nat) (t : Trap) (s : State) : State :=
  if t.code = 0x05 then
    let rfc := nextRfc t.tval s
    let s1 := noteFault t.tval (recordProgress rep rfc t s)
    deliver (if rfc = 16 then 0x06 else 0x05) t.detail t.tval s.pc s1
  else deliver t.code t.detail t.tval s.pc (recordProgress rep (rfcSeen s) t s)

/-- Between two repeats the count of those left becomes REP (R87). -/
def recordRepeats (s : State) : State :=
  if s.ctx.aux.repLeft = 0 then s else setProgress s.ctx.aux.repLeft 0 (rfcSeen s) s

/-- A fault of the fetch at the program counter: progress of the instruction there stays (R87, R88, R331). -/
def takeFetchTrap (t : Trap) (s : State) : State :=
  let s := recordRepeats s
  if t.code = 0x05 then
    let rfc := nextRfc t.tval s
    let s1 := if s.ctx.owns then { s with ctx.ctl.xstate := putBits s.ctx.ctl.xstate 19 5 rfc }
      else if rfc = 0 then s else setProgress 0 0 rfc s
    deliver (if rfc = 16 then 0x06 else 0x05) t.detail t.tval s.pc (noteFault t.tval s1)
  else deliver t.code t.detail t.tval s.pc s

/-- An interrupt or asynchronous cause at the boundary of the oldest instruction (R284, R330): between two
repeats the count of those left is recorded first (R87). -/
def takeAsync (code detail : Nat) (tval : Word) (s : State) : State :=
  deliver code detail tval s.pc (recordRepeats s)

/-! ## Return from a trap -/

/-- `TRET` at level 1 to 3 (R295): the state it returns to. -/
def returnFrom (lvl : Nat) (s : State) : State :=
  let x := s.trapSet lvl
  (State.setStatus { s with ctx.aux.resumeAt := vecAddr x.epc, ctx.aux.passedAt := s.cyc }
    (putBits (putBits s.ctx.prv.status (3 + lvl) 1 (bits x.cause 61 1)) 0 2 (bits x.cause 62 2))).setPc (vecAddr x.epc)

/-- `TRET` at user level while UBUSY is 1 (R75). -/
def returnFromUser (s : State) : State :=
  { s with
    ctx.ctl.ucause := putBits s.ctx.ctl.ucause 63 1 0
    ctx.aux.resumeAt := vecAddr s.ctx.ctl.uepc
    ctx.aux.passedAt := s.cyc
    ctx.regs.pc := vecAddr s.ctx.ctl.uepc }

/-! ## Retirement -/

/-- Progress fields at the retirement of an instruction (R71, R321, R335): RFC is cleared at the resume PC, and at the
address of the last PAGE. -/
def clearProgress (s : State) : State :=
  let atLast := s.ctx.ctl.lastValid && decide (s.ctx.ctl.lastPc = s.pc)
  let x := if s.ctx.owns then
      (if atLast || decide (s.ctx.aux.resumeAt = s.pc) then 0 else xstateOf 0 0 s.ctx.ctl.rfc) else s.ctx.ctl.xstate
  { s with
    ctx.ctl.xstate := x
    ctx.ctl.lastValid := s.ctx.ctl.lastValid && decide (s.ctx.ctl.lastPc ≠ s.pc)
    ctx.aux.sent := .nothing
    ctx.aux.repLeft := 0
    core.retired := some s.cyc }

/-- The instruction at the program counter retires and execution goes on at `target`. With `STATUS.STEP`, a
STEP trap follows an instruction that retired at user level (R285). -/
def retireTo (target : Word) (s : State) : State :=
  let s1 := (clearProgress s).setPc target
  if s.ctx.prv.status.getLsbD 7 && decide (s.pl = 0) then deliver 0x0A 0 0 target s1 else s1

/-- The instruction retires and the next one in memory follows. -/
def retire (len : Nat) (s : State) : State := retireTo (s.pc + BitVec.ofNat 64 len) s

/-! ## Running an instruction -/

/-- Where a form's execution begins (R87, R336): repeat and unit, or nothing where REP exceeds the count.
Between two repeats of one execution `repLeft` says how many are left. -/
def startAt (fm : Form) (s : State) : Option (Nat × Nat) :=
  if s.ctx.aux.repLeft ≠ 0 then some (fm.count - s.ctx.aux.repLeft, 0)
  else
    match fm.rep with
    | none => some (0, tprogSeen s)
    | some r =>
      if repSeen s > r.n then none
      else some (if repSeen s = 0 then 0 else r.n - repSeen s, tprogSeen s)

/-- What follows one repeat: the next one, retirement, the trap, or the wait. -/
def afterRepeat (fm : Form) (len j : Nat) (r : Run) : Host.Outcome State Fault Refusal :=
  match r with
  | .ok s =>
    if j + 1 < fm.count then .next { s with ctx.aux.repLeft := fm.count - j - 1, ctx.aux.sent := .nothing }
    else .next (retire len s)
  | .error (.trap t s) =>
    .next (takeTrap (if fm.rep.isSome then some (fm.count - j) else none) t s)
  | .error (.wait s) => .next s

/-- Executes one repeat of an instruction: `body` is its effect in repeat `j` from unit `k` on. -/
def runRep (fm : Form) (len : Nat) (body : Nat → Nat → State → Run) (s : State) :
    Host.Outcome State Fault Refusal :=
  match startAt fm s with
  | none => .next (takeTrap none (illTrap s) s)
  | some (j, k) => afterRepeat fm len j (body j k s)

/-- Executes an instruction that is not repeatable and falls through. -/
def runOne (len : Nat) (body : State → Run) (s : State) : Host.Outcome State Fault Refusal :=
  match body s with
  | .ok s' => .next (retire len s')
  | .error (.trap t s') => .next (takeTrap none t s')
  | .error (.wait s') => .next s'

/-- Executes a control transfer: `body` gives the target. -/
def runTo (body : State → RunV Word) (s : State) : Host.Outcome State Fault Refusal :=
  match body s with
  | .ok (s', target) => .next (retireTo target s')
  | .error (.trap t s') => .next (takeTrap none t s')
  | .error (.wait s') => .next s'

/-- Outcome of a machine event: no instruction retires. An event that cannot take place changes nothing. -/
def runEvent (s : State) (r : Run) : Host.Outcome State Fault Refusal :=
  match r with
  | .ok s' => .next s'
  | .error (.wait s') => .next s'
  | .error (.trap _ _) => .next s

/-- Address of the base word of the instruction at the program counter (R80). -/
def baseAddr (fm : Form) (page : Nat) (s : State) : Word := s.pc + BitVec.ofNat 64 (fm.len page - 2)

/-- The target of a PC-relative immediate (R80). -/
def relTarget (fm : Form) (page : Nat) (imm : Int) (s : State) : Word := baseAddr fm page s + ofInt (2 * imm)

/-- The return address an instruction writes (R80). -/
def returnAddr (fm : Form) (page : Nat) (s : State) : Word := s.pc + BitVec.ofNat 64 (fm.len page)

end Sys2Proof.Machine
end

