-- ==== Sys2Proof/Machine/Flags.lean ====
section
/-! DEFINITION. The floating-point controls and sticky flags, and the retirement of an instruction that raises
them (R46 to R49, R52, R69, R124). -/

namespace Sys2Proof.Machine

/-- Rounding modes 0 to 4 (R46). -/
inductive Rm where
  | rne
  | rtz
  | rdn
  | rup
  | rmm
deriving DecidableEq, Repr

/-- The rounding mode of a code; codes without a mode do not occur where this is used (R69, R120). -/
def Rm.ofCode : Nat → Rm
  | 1 => .rtz
  | 2 => .rdn
  | 3 => .rup
  | 4 => .rmm
  | _ => .rne

/-- Controls of a path: rounding mode, DAZ, FTZ and E4NAN (R52). -/
structure FpCtl where
  rm : Rm
  daz : Bool
  ftz : Bool
  e4nan : Bool
deriving DecidableEq, Repr

/-- NV, bit 4 of the flags (R69). -/
def flagNV : Nat := 16

/-- DZ, bit 3 of the flags (R69). -/
def flagDZ : Nat := 8

/-- OF, bit 2 of the flags (R69). -/
def flagOF : Nat := 4

/-- UF, bit 1 of the flags (R69). -/
def flagUF : Nat := 2

/-- NX, bit 0 of the flags (R69). -/
def flagNX : Nat := 1

/-- A flag if a condition holds. -/
def flagIf (b : Bool) (f : Nat) : Nat := if b then f else 0

/-- Controls of scalar and vector instructions, from `FCSR` (R52, R69). `rx` is the static rounding payload of
an instruction; bit 3 selects it (R120, R121). -/
def fcsrCtl (rx : Nat) (s : State) : FpCtl :=
  { rm := Rm.ofCode (if rx / 8 = 1 then rx % 8 else bits s.ctx.ctl.fcsr 5 3)
    daz := s.ctx.ctl.fcsr.getLsbD 21
    ftz := s.ctx.ctl.fcsr.getLsbD 22
    e4nan := s.ctx.ctl.fcsr.getLsbD 23 }

/-- Controls of tile paths, from `TCTL` (R52, R70). `drm` is not used under SR, where elements round RNE or by
R59. -/
def tctlCtl (s : State) : FpCtl :=
  { rm := Rm.ofCode (bits s.ctx.ctl.tctl 17 3)
    daz := s.ctx.ctl.tctl.getLsbD 12
    ftz := s.ctx.ctl.tctl.getLsbD 13
    e4nan := s.ctx.ctl.tctl.getLsbD 14 }

/-- ORs flags into `FCSR.FLAGS` (R49). -/
def orFlags (raised : Nat) (s : State) : State :=
  { s with ctx.ctl.fcsr := s.ctx.ctl.fcsr ||| BitVec.ofNat 64 (raised % 32) }

/-- FPE enables, `FCSR.TEN` (R69). -/
def trapEnables (s : State) : Nat := bits s.ctx.ctl.fcsr 16 5

/-- Retirement of an instruction that raises flags (R124): FPE where an enabled flag is among them, with
nothing written; otherwise the result and the sticky flags. -/
def fpRetire (raised : Nat) (write : State → State) (s : State) : Run :=
  if raised &&& trapEnables s ≠ 0 then raise 0x0C ((raised &&& trapEnables s) + 32 * (raised % 32)) 0 s
  else .ok (orFlags raised (write s))

end Sys2Proof.Machine
end

