-- ==== Sys2Proof/Machine/Float.lean ====
section
/-! DEFINITION. Element formats, exact values, rounding and conversion (R37 to R53, R59). -/

namespace Sys2Proof.Machine

/-! ## Formats -/

/-- The floating-point element formats of R37. -/
inductive EFmt where
  | fp64
  | fp32
  | fp16
  | bf16
  | e5m2
  | e4m3
deriving DecidableEq, Repr

/-- Width of a format (R37). -/
def EFmt.bits : EFmt → Nat
  | .fp64 => 64
  | .fp32 => 32
  | .fp16 => 16
  | .bf16 => 16
  | .e5m2 => 8
  | .e4m3 => 8

/-- Fraction bits (R37). -/
def EFmt.fbits : EFmt → Nat
  | .fp64 => 52
  | .fp32 => 23
  | .fp16 => 10
  | .bf16 => 7
  | .e5m2 => 2
  | .e4m3 => 3

/-- Exponent bits (R37). -/
def EFmt.ebits (f : EFmt) : Nat := f.bits - 1 - f.fbits

/-- Bias (R37). -/
def EFmt.bias (f : EFmt) : Nat := 2 ^ (f.ebits - 1) - 1

/-- Exponent of the smallest normal value. -/
def EFmt.emin (f : EFmt) : Int := 1 - (f.bias : Int)

/-- Exponent of the unit in the last place of the subnormal range. -/
def EFmt.qmin (f : EFmt) : Int := f.emin - f.fbits

/-- The format has infinities and an exponent field reserved for them (R37, R38). -/
def EFmt.ieee : EFmt → Bool
  | .e4m3 => false
  | _ => true

/-- Magnitude bits of the largest finite value (R37). -/
def EFmt.maxFinite (f : EFmt) : Nat :=
  if f.ieee then (2 ^ f.ebits - 1) * 2 ^ f.fbits - 1 else 2 ^ (f.bits - 1) - 2

/-- Magnitude bits of infinity. -/
def EFmt.infBits (f : EFmt) : Nat := (2 ^ f.ebits - 1) * 2 ^ f.fbits

/-- The canonical NaN (R39). -/
def EFmt.nanBits (f : EFmt) : Nat :=
  if f.ieee then f.infBits + 2 ^ (f.fbits - 1) else 0x7F

/-- The sign bit as a number. -/
def EFmt.signBit (f : EFmt) (neg : Bool) : Nat := if neg then 2 ^ (f.bits - 1) else 0

/-- A format of the scalar unit. -/
def fmtE : Fmt → EFmt
  | .fp64 => .fp64
  | .fp32 => .fp32
  | .fp16 => .fp16
  | .bf16 => .bf16

/-! ## Values -/

/-- The value of an encoding: a NaN, quiet or signalling, an infinity, or ± m × 2^e with m = 0 for a zero. -/
inductive FVal where
  | nan (signalling : Bool)
  | inf (neg : Bool)
  | fin (neg : Bool) (m : Nat) (e : Int)
deriving DecidableEq, Repr

/-- Exponent field of an encoding. -/
def EFmt.expField (f : EFmt) (b : Nat) : Nat := b / 2 ^ f.fbits % 2 ^ f.ebits

/-- Fraction field of an encoding. -/
def EFmt.fracField (f : EFmt) (b : Nat) : Nat := b % 2 ^ f.fbits

/-- Sign of an encoding. -/
def EFmt.neg (f : EFmt) (b : Nat) : Bool := b.testBit (f.bits - 1)

/-- Magnitude bits of an encoding. -/
def EFmt.mag (f : EFmt) (b : Nat) : Nat := b % 2 ^ (f.bits - 1)

/-- An encoding is a subnormal (R37). -/
def EFmt.subnormal (f : EFmt) (b : Nat) : Bool := decide (f.expField b = 0 ∧ f.fracField b ≠ 0)

/-- An encoding is a NaN (R37, R38). -/
def EFmt.isNan (f : EFmt) (b : Nat) : Bool :=
  if f.ieee then decide (f.mag b > f.infBits) else decide (f.mag b = 0x7F)

/-- The value of an encoding (R37, R38, R39). -/
def EFmt.value (f : EFmt) (b : Nat) : FVal :=
  if f.isNan b then .nan (f.ieee && !b.testBit (f.fbits - 1))
  else if f.ieee && decide (f.mag b = f.infBits) then .inf (f.neg b)
  else if f.expField b = 0 then .fin (f.neg b) (f.fracField b) f.qmin
  else .fin (f.neg b) (2 ^ f.fbits + f.fracField b) ((f.expField b : Int) - f.bias - f.fbits)

/-- DAZ on an encoding (R50). -/
def EFmt.dazBits (f : EFmt) (daz : Bool) (b : Nat) : Nat :=
  if daz && f.subnormal b && decide (f ≠ .fp64) then f.signBit (f.neg b) else b % 2 ^ f.bits

/-- The value of a source after DAZ (R50). -/
def EFmt.source (f : EFmt) (c : FpCtl) (b : Nat) : FVal := f.value (f.dazBits c.daz b)

/-- A signalling NaN. -/
def FVal.signalling : FVal → Bool
  | .nan s => s
  | _ => false

/-- A NaN. -/
def FVal.isNan : FVal → Bool
  | .nan _ => true
  | _ => false

/-- Sign of a value that is no NaN. -/
def FVal.neg : FVal → Bool
  | .nan _ => false
  | .inf n => n
  | .fin n _ _ => n

/-- A zero. -/
def FVal.isZero : FVal → Bool
  | .fin _ 0 _ => true
  | _ => false

/-- The value with its sign inverted. -/
def FVal.negate : FVal → FVal
  | .nan s => .nan s
  | .inf n => .inf !n
  | .fin n m e => .fin (!n) m e

/-! ## Exact numbers -/

/-- The number m × 2^e. -/
structure Dy where
  m : Int
  e : Int
deriving DecidableEq, Repr

/-- m shifted so that the number is a multiple of 2^e. -/
def Dy.at (x : Dy) (e : Int) : Int := x.m * 2 ^ (x.e - e).toNat

/-- Exact sum. -/
def Dy.add (x y : Dy) : Dy :=
  if x.m = 0 then y
  else if y.m = 0 then x
  else
    let e := min x.e y.e
    ⟨x.at e + y.at e, e⟩

/-- Exact product. -/
def Dy.mul (x y : Dy) : Dy := ⟨x.m * y.m, x.e + y.e⟩

/-- Exact comparison x < y. -/
def Dy.lt (x y : Dy) : Bool :=
  let e := min x.e y.e
  decide (x.at e < y.at e)

/-- A finite value as an exact number. -/
def FVal.dy : FVal → Dy
  | .fin n m e => ⟨if n then -(m : Int) else m, e⟩
  | _ => ⟨0, 0⟩

/-- An integer as an exact number. -/
def Dy.ofInt (i : Int) : Dy := ⟨i, 0⟩

/-! ## Rounding -/

/-- Rounds q + r / d, with r < d and `odd` for the parity of q, to an integer of the sign given (R46). `r2` is
twice the remainder compared with the divisor, `exact` says that nothing is cut off. -/
def roundUp (rm : Rm) (neg : Bool) (q : Nat) (cmp : Ordering) (exact : Bool) : Nat :=
  if exact then q
  else
    match rm with
    | .rtz => q
    | .rdn => if neg then q + 1 else q
    | .rup => if neg then q else q + 1
    | .rne =>
      match cmp with
      | .lt => q
      | .gt => q + 1
      | .eq => if q % 2 = 0 then q else q + 1
    | .rmm =>
      match cmp with
      | .lt => q
      | _ => q + 1

/-- Rounds (m + ε) / 2^sh to an integer, where 0 < ε < 1 if `sticky` and ε = 0 if not; the second component
says that the value changed. -/
def roundShift (rm : Rm) (neg : Bool) (m sh : Nat) (sticky : Bool) : Nat × Bool :=
  if sh = 0 then (roundUp rm neg m .lt (!sticky), sticky)
  else if sh > bitLength m + 1 then
    (roundUp rm neg 0 .lt (decide (m = 0) && !sticky), decide (m ≠ 0) || sticky)
  else
    let q := m / 2 ^ sh
    let r := m % 2 ^ sh
    let half := 2 ^ (sh - 1)
    let c : Ordering := if r < half then .lt else if r = half then (if sticky then .gt else .eq) else .gt
    let exact := decide (r = 0) && !sticky
    (roundUp rm neg q c exact, !exact)

/-- Rounds the number n × (m + ε) × 2^e to a multiple of 2^u (see `roundShift`), in units of 2^u. -/
def roundUnit (rm : Rm) (neg : Bool) (m : Nat) (e u : Int) (sticky : Bool) : Nat × Bool :=
  if u ≤ e then (m * 2 ^ (e - u).toNat, sticky) else roundShift rm neg m (u - e).toNat sticky

/-- An encoding with the flags its making raised. -/
structure FRes where
  bits : Nat
  flags : Nat
deriving DecidableEq, Repr

/-- Magnitude bits of q × 2^u for a rounded q and the unit it was rounded to. -/
def EFmt.pack (f : EFmt) (q : Nat) (u : Int) : Nat :=
  if q < 2 ^ f.fbits then q
  else if q = 2 ^ (f.fbits + 1) then ((u + f.fbits + 1 + f.bias).toNat) * 2 ^ f.fbits
  else (u + f.fbits + f.bias).toNat * 2 ^ f.fbits + (q - 2 ^ f.fbits)

/-- Result of an overflow (R47). -/
def EFmt.overflow (f : EFmt) (c : FpCtl) (neg : Bool) : Nat :=
  let toInf := match c.rm with
    | .rtz => false
    | .rdn => neg
    | .rup => !neg
    | _ => true
  if f.ieee then f.signBit neg + (if toInf then f.infBits else f.maxFinite)
  else if toInf && c.e4nan then f.nanBits else f.signBit neg + f.maxFinite

/-- Exponent of the leading bit of a nonzero magnitude m × 2^e. -/
def topExp (m : Nat) (e : Int) : Int := e + Nat.log2 m

/-- A nonzero result is tiny before the exponent range is applied (R48). -/
def EFmt.tiny (f : EFmt) (rm : Rm) (neg : Bool) (m : Nat) (e : Int) (sticky : Bool) : Bool :=
  let t := topExp m e
  decide (t < f.emin) &&
    !(decide (t = f.emin - 1) &&
      decide ((roundUnit rm neg m e (t - f.fbits) sticky).1 = 2 ^ (f.fbits + 1)))

/-- FTZ and the underflow flag on a rounded result (R48, R51). -/
def EFmt.finish (f : EFmt) (c : FpCtl) (neg tiny inexact : Bool) (mag : Nat) : FRes :=
  if tiny && c.ftz && decide (f ≠ .fp64) then ⟨f.signBit neg, flagUF ||| flagNX⟩
  else ⟨f.signBit neg + mag, flagIf (tiny && inexact) flagUF ||| flagIf inexact flagNX⟩

/-- Rounds the nonzero number of sign `neg` and magnitude (m + ε) × 2^e into a format (R47, R48, R51); m is not
zero, and has at least two bits more than the format's precision where ε is not zero. An overflow raises OF
and NX only, also where E4NAN makes it NaN 0x7F. DEDUCED (log 80). -/
def EFmt.round (f : EFmt) (c : FpCtl) (neg : Bool) (m : Nat) (e : Int) (sticky : Bool) : FRes :=
  let t := topExp m e
  let u := max (t - f.fbits) f.qmin
  if t > 2 * f.bias + 2 then ⟨f.overflow c neg, flagOF ||| flagNX⟩
  else
    let (q, inexact) := roundUnit c.rm neg m e u sticky
    let mag := f.pack q u
    if mag > f.maxFinite then ⟨f.overflow c neg, flagOF ||| flagNX⟩
    else f.finish c neg (f.tiny c.rm neg m e sticky) inexact mag

/-- Rounds an exact number that is not zero. -/
def EFmt.roundDy (f : EFmt) (c : FpCtl) (x : Dy) : FRes :=
  f.round c (decide (x.m < 0)) x.m.natAbs x.e false

/-- An exact zero with a sign. -/
def EFmt.zero (f : EFmt) (neg : Bool) : FRes := ⟨f.signBit neg, 0⟩

/-- An infinite result (R47, R61): a format without infinities overflows. -/
def EFmt.infinity (f : EFmt) (neg : Bool) : FRes := ⟨f.signBit neg + f.infBits, 0⟩

/-- The canonical NaN, with NV where an operand signals or the operation generates it (R39, R48). -/
def EFmt.nan (f : EFmt) (nv : Bool) : FRes := ⟨f.nanBits, flagIf nv flagNV⟩

/-! ## Arithmetic -/

/-- Sign of an exact zero sum (R125): the sign of both addends where both are zeros of one sign. -/
def zeroSign (rm : Rm) (bothZero na nb : Bool) : Bool :=
  if bothZero && (na == nb) then na else decide (rm = .rdn)

/-- The rounded sum of two values; a NaN among them signals as `nv` says (R125). -/
def EFmt.sum (f : EFmt) (c : FpCtl) (x y : FVal) : FRes :=
  match x, y with
  | .nan s, y => f.nan (s || y.signalling)
  | x, .nan s => f.nan (s || x.signalling)
  | .inf a, .inf b => if a = b then f.infinity a else f.nan true
  | .inf a, _ => f.infinity a
  | _, .inf b => f.infinity b
  | .fin na ma ea, .fin nb mb eb =>
    let r := (FVal.fin na ma ea).dy.add (FVal.fin nb mb eb).dy
    if r.m = 0 then f.zero (zeroSign c.rm (decide (ma = 0 ∧ mb = 0)) na nb) else f.roundDy c r

/-- The exact product of two values; a generated or propagated NaN is marked signalling where it raises NV. -/
def mulVal (x y : FVal) : FVal :=
  match x, y with
  | .nan s, y => .nan (s || y.signalling)
  | x, .nan s => .nan (s || x.signalling)
  | .inf a, .inf b => .inf (a != b)
  | .inf a, .fin b m _ => if m = 0 then .nan true else .inf (a != b)
  | .fin a m _, .inf b => if m = 0 then .nan true else .inf (a != b)
  | .fin a m e, .fin b n g => .fin (a != b) (m * n) (e + g)

/-- A value rounded into a format (R47, R53): a NaN gives the canonical NaN, NV where it signals. -/
def EFmt.ofVal (f : EFmt) (c : FpCtl) : FVal → FRes
  | .nan s => f.nan s
  | .inf n =>
    if f.ieee then f.infinity n
    else if c.e4nan then ⟨f.nanBits, flagNV⟩ else ⟨f.signBit n + f.maxFinite, flagNV⟩
  | .fin n m e => if m = 0 then f.zero n else f.round c n m e false

/-- `FADD` and the like (R125). -/
def EFmt.addR (f : EFmt) (c : FpCtl) (a b : Nat) : FRes := f.sum c (f.source c a) (f.source c b)

/-- `FSUB` and the like (R125). -/
def EFmt.subR (f : EFmt) (c : FpCtl) (a b : Nat) : FRes := f.sum c (f.source c a) (f.source c b).negate

/-- `FMUL` and the like (R125). -/
def EFmt.mulR (f : EFmt) (c : FpCtl) (a b : Nat) : FRes := f.ofVal c (mulVal (f.source c a) (f.source c b))

/-- ±(a × b) ± d with one rounding (R125). -/
def EFmt.fmaR (f : EFmt) (c : FpCtl) (negProd negD : Bool) (a b d : Nat) : FRes :=
  let p := mulVal (f.source c a) (f.source c b)
  let z := f.source c d
  f.sum c (if negProd then p.negate else p) (if negD then z.negate else z)

/-- `FDIV` (R125): the quotient of the mantissas to far more bits than any format holds, and a sticky bit. -/
def EFmt.divR (f : EFmt) (c : FpCtl) (a b : Nat) : FRes :=
  match f.source c a, f.source c b with
  | .nan s, y => f.nan (s || y.signalling)
  | x, .nan s => f.nan (s || x.signalling)
  | .inf _, .inf _ => f.nan true
  | .inf n, y => f.infinity (n != y.neg)
  | .fin n _ _, .inf k => f.zero (n != k)
  | .fin n m e, .fin k p g =>
    if p = 0 then (if m = 0 then f.nan true else ⟨(f.infinity (n != k)).bits, flagDZ⟩)
    else if m = 0 then f.zero (n != k)
    else
      let num := m * 2 ^ 128
      f.round c (n != k) (num / p) (e - g - 128) (decide (num % p ≠ 0))

/-- The integer square root of a number below 4^(n) by digits, with n steps. -/
def isqrtFrom (v : Nat) : Nat → Nat → Nat
  | 0, r => r
  | n + 1, r =>
    let t := r + 2 ^ n
    isqrtFrom v n (if t * t ≤ v then t else r)

/-- ⌊√v⌋. -/
def isqrt (v : Nat) : Nat := isqrtFrom v (bitLength v / 2 + 1) 0

/-- `FSQRT` (R125). -/
def EFmt.sqrtR (f : EFmt) (c : FpCtl) (a : Nat) : FRes :=
  match f.source c a with
  | .nan s => f.nan s
  | .inf n => if n then f.nan true else f.infinity false
  | .fin n m e =>
    if m = 0 then f.zero n
    else if n then f.nan true
    else
      let m1 := if e % 2 = 0 then m else 2 * m
      let e1 := if e % 2 = 0 then e else e - 1
      let v := m1 * 2 ^ 128
      let r := isqrt v
      f.round c false r (e1 / 2 - 64) (decide (r * r ≠ v))

/-! ## Comparison, minimum and maximum -/

/-- x < y of values that are no NaN, with −0 equal to +0. -/
def FVal.lt (x y : FVal) : Bool :=
  match x, y with
  | .inf a, .inf b => a && !b
  | .inf a, _ => a
  | _, .inf b => !b
  | x, y => x.dy.lt y.dy

/-- `FMIN` and `FMAX` (R126). -/
def EFmt.minmaxR (f : EFmt) (c : FpCtl) (max : Bool) (a b : Nat) : FRes :=
  let a' := f.dazBits c.daz a
  let b' := f.dazBits c.daz b
  let x := f.value a'
  let y := f.value b'
  let nv := flagIf (x.signalling || y.signalling) flagNV
  if x.isNan && y.isNan then ⟨f.nanBits, nv⟩
  else if x.isNan then ⟨b', nv⟩
  else if y.isNan then ⟨a', nv⟩
  else
    let aLess := x.lt y || (!y.lt x && x.neg && !y.neg)
    ⟨if max then (if aLess then b' else a') else (if aLess then a' else b'), 0⟩

/-- Conditions of `FCMP` and of float lanes of `VCMP` (R128): whether the relation holds. -/
def fcmpHolds (cc : Fcc) (x y : FVal) : Bool :=
  let un := x.isNan || y.isNan
  match cc with
  | .eq => !un && !x.lt y && !y.lt x
  | .lt => !un && x.lt y
  | .le => !un && !y.lt x
  | .un => un

/-- NV of a comparison (R128): any NaN for lt and le, a signalling NaN for the others. -/
def fcmpFlags (cc : Fcc) (x y : FVal) : Nat :=
  match cc with
  | .lt | .le => flagIf (x.isNan || y.isNan) flagNV
  | _ => flagIf (x.signalling || y.signalling) flagNV

/-! ## Integers -/

/-- Least value of a signed integer of n bits. -/
def intMin (n : Nat) : Int := -(2 ^ (n - 1))

/-- Greatest value of a signed integer of n bits. -/
def intMax (n : Nat) : Int := 2 ^ (n - 1) - 1

/-- An integer held within n bits, and whether it had to be (R53). -/
def saturate (n : Nat) (i : Int) : Int × Bool :=
  if i < intMin n then (intMin n, true) else if i > intMax n then (intMax n, true) else (i, false)

/-- A value to a signed integer of n bits, with the flags raised (R53). -/
def toIntR (n : Nat) (rm : Rm) : FVal → Int × Nat
  | .nan _ => (intMax n, flagNV)
  | .inf neg => (if neg then intMin n else intMax n, flagNV)
  | .fin neg m e =>
    if m ≠ 0 ∧ topExp m e > n then (if neg then intMin n else intMax n, flagNV)
    else
      let (q, inexact) := roundUnit rm neg m e 0 false
      let (v, sat) := saturate n (if neg then -(q : Int) else q)
      (v, if sat then flagNV else flagIf inexact flagNX)

/-- An integer to a float (R53). -/
def EFmt.ofInt (f : EFmt) (c : FpCtl) (i : Int) : FRes :=
  if i = 0 then f.zero false else f.round c (decide (i < 0)) i.natAbs 0 false

/-! ## Classes -/

/-- `FCLASS` (R129): the number of the bit that is set. -/
def EFmt.classOf (f : EFmt) (b : Nat) : Nat :=
  match f.value b with
  | .nan s => if s then 8 else 9
  | .inf n => if n then 0 else 7
  | .fin n m _ =>
    if m = 0 then (if n then 3 else 4)
    else if f.subnormal b then (if n then 2 else 5)
    else (if n then 1 else 6)

/-! ## Stochastic rounding -/

/-- `lfsr_advance` (R58). -/
def lfsrAdvance (st : BitVec 32) : BitVec 32 :=
  (st <<< 1) ||| (if (st.getLsbD 31 ^^ st.getLsbD 21 ^^ st.getLsbD 1 ^^ st.getLsbD 0) then 1 else 0)

/-- The magnitude m × 2^e rounded to a multiple of 2^u by `round_sr`, in units of 2^u, and whether the value
changed (R59). -/
def srUnit (st : BitVec 32) (m : Nat) (e u : Int) : Nat × Bool :=
  if u ≤ e then (m * 2 ^ (e - u).toNat, false)
  else
    let sh := (u - e).toNat
    if sh > bitLength m + 40 then (0, decide (m ≠ 0))
    else
      let q := m / 2 ^ sh
      let r := m % 2 ^ sh
      (if r ≠ 0 ∧ r * 2 ^ 32 / 2 ^ sh > st.toNat then q + 1 else q, decide (r ≠ 0))

/-- Rounds a nonzero magnitude by `round_sr` into a format (R48, R59): overflow and FTZ as under RNE. -/
def EFmt.roundSr (f : EFmt) (c : FpCtl) (st : BitVec 32) (neg : Bool) (m : Nat) (e : Int) : FRes :=
  let c := { c with rm := .rne }
  let t := topExp m e
  let u := max (t - f.fbits) f.qmin
  if t > 2 * f.bias + 2 then ⟨f.overflow c neg, flagOF ||| flagNX⟩
  else
    let (q, inexact) := srUnit st m e u
    let mag := f.pack q u
    if mag > f.maxFinite then ⟨f.overflow c neg, flagOF ||| flagNX⟩
    else f.finish c neg (decide (mag < 2 ^ f.fbits)) inexact mag

end Sys2Proof.Machine
end

