-- ==== Sys2Proof/Machine/Amo.lean ====
section
/-! DEFINITION. What an atomic makes of the value it reads (R134, R136, R137). -/

namespace Sys2Proof.Machine

/-- Operation of an atomic, with its major on page 8 (R134). -/
inductive AmoOp where
  | add
  | and
  | or
  | xor
  | min
  | max
  | minu
  | maxu
  | swap
  | cas
  | fadd
deriving DecidableEq, Repr

/-- Major of an atomic on page 8 (R134). -/
def AmoOp.code : AmoOp → Nat
  | .add => 0
  | .and => 1
  | .or => 2
  | .xor => 3
  | .min => 4
  | .max => 5
  | .minu => 6
  | .maxu => 7
  | .swap => 8
  | .cas => 9
  | .fadd => 10

/-- The atomic of a major. -/
def AmoOp.ofCode : Nat → AmoOp
  | 0 => .add
  | 1 => .and
  | 2 => .or
  | 3 => .xor
  | 4 => .min
  | 5 => .max
  | 6 => .minu
  | 7 => .maxu
  | 8 => .swap
  | 9 => .cas
  | _ => .fadd

/-- Controls of `AMOFADD` (R137). -/
def amoCtl : FpCtl := ⟨.rne, false, false, false⟩

/-- Format of `AMOFADD` by access size (R137). -/
def amoFmt (n : Nat) : EFmt := if n = 4 then .fp32 else .fp64

/-- New value and flags of an atomic of n bytes, and nothing where it writes no memory (R136, R137). -/
def amoNew (op : AmoOp) (n old src cmp : Nat) : Option (Nat × Nat) :=
  let w := 8 * n
  let src := src % 2 ^ w
  match op with
  | .add => some ((old + src) % 2 ^ w, 0)
  | .and => some (old &&& src, 0)
  | .or => some (old ||| src, 0)
  | .xor => some (old ^^^ src, 0)
  | .min => some (if sext old w ≤ sext src w then old else src, 0)
  | .max => some (if sext old w ≥ sext src w then old else src, 0)
  | .minu => some (if old ≤ src then old else src, 0)
  | .maxu => some (if old ≥ src then old else src, 0)
  | .swap => some (src, 0)
  | .cas => if old = cmp % 2 ^ w then some (src, 0) else none
  | .fadd =>
    let r := (amoFmt n).addR amoCtl old src
    some (r.bits, r.flags)

end Sys2Proof.Machine
end

