-- ==== Sys2Proof/Machine/Coherence.lean ====
section
/-! DEFINITION. Where an access is performed: homes, remote copies, write-throughs, generations, tokens, the
store buffer and messages to other packages (R236 to R251). -/

namespace Sys2Proof.Machine

/-! ## Addresses -/

/-- Origin package of a physical address (R308). -/
def originOf (pa : Nat) : Nat := pa / 2 ^ 44

/-- Offset within the origin package (R308). -/
def offsetOf (pa : Nat) : Nat := pa % 2 ^ 44

/-- End of HBM: 768 GiB (R308). -/
def hbmEnd : Nat := 0xC000000000

/-- The compute die that homes an HBM address (R17, R308). A frame that has been handed over keeps the die number of its
origin offset at its new owner. DESIGN CHOICE, log 69. -/
def homeDie (pa : Nat) : Nat := offsetOf pa / 0x3000000000

/-- Start of the host window (R412). -/
def hostBase : Nat := 0x10000000000

/-- The host window of a package (R412). -/
def isHostWin (pa : Nat) : Bool := decide (hostBase ≤ offsetOf pa)

/-- The package that owns a frame now (R322). -/
def ownerOf (s : State) (pa : Nat) : Nat :=
  ((s.xlat.owners.find? (fun e => e.1 = frameOf pa)).map (·.2)).getD (originOf pa)

/-- Another package of the node domain (R412). -/
def peerOf (s : State) (p : Nat) : Peer := (s.fab.peers.find? (fun x => x.pkg = p)).getD (Peer.reset p)

/-- The host link carries accesses (R413). -/
def hostLinkUp (s : State) : Bool := s.host.trained && !s.host.failed

/-- The host link of the package that an address of a host window names carries accesses (R412, R413). -/
def linkUpAt (s : State) (pa : Nat) : Bool :=
  if originOf pa = s.pkg then hostLinkUp s else (peerOf s (originOf pa)).linkUp

/-- That link trained as CXL (R413). -/
def cxlAt (s : State) (pa : Nat) : Bool := if originOf pa = s.pkg then s.host.cxl else (peerOf s (originOf pa)).cxl

/-- The home of an address serves no request: its die has been fenced off, or the package that owns its page has
been declared dead (R389, R392). -/
def deadHome (s : State) (pa : Nat) : Bool :=
  s.rel.deadPkgs.contains (ownerOf s pa) ||
  (decide (offsetOf pa < hbmEnd ∧ ownerOf s pa = s.pkg) && (s.rel.fenced[homeDie pa]?).getD false)

/-- An address of the package's HBM, owned here: its home is a die of this package. -/
def localMem (s : State) (pa : Nat) : Bool :=
  decide (offsetOf pa < hbmEnd ∧ ownerOf s pa = s.pkg)

/-- Bits of the page a leaf maps (R312). -/
def pageBits (lvl : Nat) (g64 : Bool) : Nat :=
  match lvl with
  | 0 => if g64 then 16 else 12
  | 1 => 21
  | 2 => 30
  | _ => 43

/-- Bits [51:12] of an entry as an address (R313). -/
def pteAddr (e : Word) : Nat := bits e 12 40 * 4096

/-! ## Cores by number -/

/-- The core of a number, the current one among them. -/
def getCore (s : State) (n : Nat) : CoreSt :=
  if n = s.cur then s.core
  else ((s.others.find? (fun e => e.1 = n)).map (·.2)).getD CoreSt.reset

/-- Replaces the core of a number. -/
def setCore (s : State) (n : Nat) (c : CoreSt) : State :=
  if n = s.cur then { s with core := c }
  else { s with others := (n, c) :: s.others.filter (fun e => e.1 ≠ n) }

/-- The active context of a core, if its bank is occupied. -/
def activeOf (s : State) (n : Nat) : Option Ctx :=
  if n = s.cur then (if s.core.act then some s.ctx else none) else (getCore s n).bank

/-- Replaces the active context of a core. -/
def setActive (s : State) (n : Nat) (c : Ctx) : State :=
  if n = s.cur then { s with ctx := c, core.act := true }
  else setCore s n { getCore s n with bank := some c, act := true }

/-- Empties the active bank of a core. -/
def clearActive (s : State) (n : Nat) : State :=
  if n = s.cur then { s with core.act := false }
  else setCore s n { getCore s n with bank := none, act := false }

/-- Makes another core the current one. -/
def switchTo (s : State) (n : Nat) : State :=
  if n = s.cur then s
  else
    let c := getCore s n
    let old : CoreSt := { s.core with bank := if s.core.act then some s.ctx else none }
    { s with
      cur := n
      ctx := c.bank.getD (Ctx.reset 0 0)
      core := { c with act := c.bank.isSome, bank := none }
      others := (s.cur, old) :: s.others.filter (fun e => e.1 ≠ n ∧ e.1 ≠ s.cur) }

/-- Resident contexts of a core: active, then lodged. -/
def residents (s : State) (n : Nat) : List Ctx :=
  (activeOf s n).toList ++ (getCore s n).lodge.toList

/-- The 256 global core numbers (R9). -/
def coreNumbers : List Nat := List.range 256

/-- Applies a change to the context of a GTID wherever it is resident. -/
def onContext (gtid : Word) (f : Ctx → Ctx) (s : State) : State :=
  coreNumbers.foldl (fun s n =>
    let s1 := match activeOf s n with
      | some c => if c.prv.gtid = gtid then setActive s n (f c) else s
      | none => s
    match (getCore s1 n).lodge with
    | some c => if c.prv.gtid = gtid then setCore s1 n { getCore s1 n with lodge := some (f c) } else s1
    | none => s1) s

/-- A resident context of a GTID. -/
def findContext (s : State) (gtid : Word) : Option Ctx :=
  coreNumbers.findSome? (fun n => (residents s n).find? (fun c => c.prv.gtid = gtid))

/-- The partition of a thread (R289): of its resident context, of the context saved for it, or of its team while it has not
begun; a thread that has ended has none. -/
def pidOf (s : State) (gtid : Word) : Option Nat :=
  ((findContext s gtid).map Ctx.pid).or
    (((s.xlat.saved.find? (fun x => x.gtid = gtid)).map (fun x => x.space.pid)).or
      ((s.sched.teams.find? (fun t => t.members.any (fun m => decide (m.gtid = gtid ∧ m.life ≠ .ended)))).map
        (fun t => t.base.pid)))

/-! ## Log and pending causes -/

/-- Appends a management-log record (R415). DEDUCED, log 51. -/
def logEvent (code die pid addr count : Nat) (s : State) : State :=
  { s with rel.log := s.rel.log ++ [⟨BitVec.ofNat 64 s.cyc, code, die, pid, addr, count⟩] }

/-- Holds an asynchronous MCHK pending in a context (R332, R373). -/
def pendMchk (detail : Nat) (c : Ctx) : Ctx :=
  { c with prv.pending := c.prv.pending ||| (1#64 <<< 0x13), prv.mchkDetail := BitVec.ofNat 64 detail }

/-- A thread of a team has ended. -/
def hasEnded (s : State) (gtid : Word) : Bool :=
  s.sched.teams.any (fun t => t.members.any (fun m => decide (m.gtid = gtid ∧ m.life = .ended)))

/-- Records what an atomic sent away has come to in the context that sent it. -/
def answerAtomic (gtid : Word) (x : Sent) (s : State) : State :=
  if s.ctx.prv.gtid = gtid ∧ s.core.act then { s with ctx.aux.sent := x }
  else onContext gtid (fun c => { c with aux.sent := x }) s

/-- A context that is not resident may yet become so: it lies in a save area, or its team lists it as a thread that
has not ended. -/
def mayReturn (s : State) (gtid : Word) : Bool :=
  !hasEnded s gtid && (s.xlat.saved.any (fun x => decide (x.gtid = gtid)) ||
    s.sched.teams.any (fun t => t.members.any (fun m => decide (m.gtid = gtid))))

/-- Number of an agent in the incarnation directory: dies 0 to 3, then packages. -/
def agentKey : Agent → Nat
  | .die n => n
  | .package n => 4 + n

/-- The incarnation that the homes record for an agent, which a live agent carries (R391). -/
def incOf (s : State) (ag : Agent) : Nat := ((s.rel.incarnation.find? (fun e => e.1 = agentKey ag)).map (·.2)).getD 0

/-- Reports a retired store that cannot be delivered: MCHK 4 in its context, held while the context is not resident,
or in the log alone where the context has ended (R392, R394). -/
def loseStore (die : Nat) (gtid : Word) (pid pa : Nat) (s : State) : State :=
  if (findContext s gtid).isSome then onContext gtid (pendMchk 0x0004) s
  else if mayReturn s gtid then { s with rel.held := s.rel.held ++ [(gtid, 0x13, 0x0004, 0)] }
  else logEvent 8 die pid pa 1 s

/-- An interrupt becomes pending at a core; INTs of one source other than messages are merged (R333).
DEDUCED, log 37. -/
def pendInt (core detail pid : Nat) (s : State) : State :=
  let c := getCore s core
  if c.ints.any (fun i => i.detail = detail ∧ i.pid = pid) then s
  else setCore s core { c with ints := c.ints ++ [⟨detail, pid⟩] }

/-! ## The home of a line -/

/-- Write version of a line; `none` is UNKNOWN (R248). -/
def versionOf (c : Coh) (line : Nat) : Option Nat :=
  (c.versions.find? (fun e => e.1 = line)).map (·.2)

/-- A write increments the version of a tracked line modulo 2^20 (R242). DESIGN CHOICE, log 63. -/
def bumpVersion (line : Nat) (c : Coh) : Coh :=
  { c with versions := c.versions.map (fun e => if e.1 = line then (e.1, (e.2 + 1) % 2 ^ 20) else e) }

/-- Lines leave the version directory: their versions are UNKNOWN from now on (R248). -/
def leaveDirectory (gone : Nat → Bool) (c : Coh) : Coh :=
  { c with
    versions := c.versions.filter (fun e => !gone e.1)
    left := c.versions.filter (fun e => gone e.1) ++ c.left }

/-- A fill assigns a version to an UNKNOWN line: the one after the last it had, which no earlier fill returned, and a
new number for a line that had none (R248). -/
def trackVersion (line : Nat) (c : Coh) : Coh :=
  match versionOf c line with
  | some _ => c
  | none =>
    match c.left.find? (fun e => e.1 = line) with
    | some (_, v) =>
      { c with versions := (line, (v + 1) % 2 ^ 20) :: c.versions, left := c.left.filter (fun e => decide (e.1 ≠ line)) }
    | none => { c with versions := (line, c.nextVersion % 2 ^ 20) :: c.versions, nextVersion := c.nextVersion + 1 }

/-- Room for a line in the version directory: another line may leave it for that; whether one does, and which, is
open. DESIGN CHOICE, log 63. -/
def roomInDirectory (s : State) : State :=
  if Config.freeBool (draw s 41) then
    match s.coh.versions[Config.freeNat (draw s 42) % s.coh.versions.length]? with
    | some e => { s with coh := leaveDirectory (fun l => decide (l = e.1)) s.coh }
    | none => s
  else s

/-- Poisons a line (R371). -/
def poisonLine (line : Nat) (c : Coh) : Coh :=
  if c.poisoned.contains line then c else { c with poisoned := line :: c.poisoned }

/-- The 64 GiB stack that a line lies in, with its package (R17, R308). -/
def stackOf (line : Nat) : Nat := line / 2 ^ 29

/-- A line holds poison (R371, R430). -/
def poisonedLine (c : Coh) (line : Nat) : Bool :=
  c.poisoned.contains line || (c.badStacks.contains (stackOf line) && !c.healed.contains line)

/-- A line gives poison to whoever reads it: it holds poison, or its home serves no request (R371, R392). -/
def linePoisoned (s : State) (line : Nat) : Bool := deadHome s (line * 128) || poisonedLine s.coh line

/-- A message with an old incarnation is dropped and logged, and its line, if it names one, is poisoned unless the scrub
has poisoned it (R391). -/
def dropStale (ag : Agent) (line : Option Nat) (s : State) : State :=
  let pa := line.getD 0 * 128
  let die := match ag with
    | .die d => d
    | .package _ => homeDie pa
  let s1 := logEvent 6 die 0 pa 1 s
  if line.any (fun l => localMem s1 pa && !s1.rel.scrubbed.contains (agentKey ag, l))
  then { s1 with coh := poisonLine (line.getD 0) s1.coh } else s1

/-- Poison after a write (R371): a poisoned write poisons; one access of all 128 bytes clears. -/
def poisonAfter (line : Nat) (poison full : Bool) (c : Coh) : Coh :=
  if poison then poisonLine line c
  else if full then
    { c with
      poisoned := c.poisoned.filter (fun l => decide (l ≠ line))
      healed := if c.badStacks.contains (stackOf line) && !c.healed.contains line then line :: c.healed else c.healed }
  else c

/-- Marks bytes of a line as written since its last write-back (R299). -/
def markDirty (pa n : Nat) (c : Coh) : Coh :=
  let line := lineOf pa
  let m : BitVec 128 := BitVec.ofNat 128 ((2 ^ n - 1) * 2 ^ (pa % 128))
  let old : BitVec 128 := ((c.dirty.find? (fun e => e.1 = line)).map (·.2)).getD 0
  { c with dirty := (line, old ||| m) :: c.dirty.filter (fun e => decide (e.1 ≠ line)) }

/-- A write-back of a line: nothing in it counts as written since (R299). -/
def writeBack (line : Nat) (c : Coh) : Coh := { c with dirty := c.dirty.filter (fun e => decide (e.1 ≠ line)) }

/-- The host's copy of a line is back-invalidated, before the line is written (R422). -/
def backInvalidate (line : Nat) (c : Coh) : Coh := { c with hostLines := c.hostLines.filter (· ≠ line) }

/-- The home applies a write that lies in one line (R242). -/
def homeWrite (pa : Nat) (data : List Byte) (mask : Byte) (poison full : Bool) (s : State) : State :=
  { s with
    mem := memWriteMasked mask s.mem pa data
    coh := markDirty pa data.length (poisonAfter (lineOf pa) poison full
      (bumpVersion (lineOf pa) (backInvalidate (lineOf pa) s.coh))) }

/-- A frame is marked native, in the package's record or in a mapping that a core's TLB holds (R96, R300). DEDUCED,
log 19. -/
def nativeFrame (s : State) (frame : Nat) : Bool :=
  s.xlat.native.contains frame ||
  (s.core :: s.others.map (·.2)).any (fun c => c.tlb.any (fun t =>
    t.pte.getLsbD 63 && t.pte.getLsbD 4 &&
      decide (pteAddr t.pte / 2 ^ pageBits t.level t.g64 = frame * 4096 / 2 ^ pageBits t.level t.g64)))

/-- The halfword at an address. -/
def halfAt (m : List Host.Cell) (a : Nat) : BitVec 16 := BitVec.ofNat 16 (natOfBytes (memReadN m a 2))

/-- A store's write at the home (R242). What it replaces of a native frame is kept for fetch (R300). -/
def storeWrite (gtid : Word) (pa : Nat) (data : List Byte) (mask : Byte) (poison full : Bool) (s : State) : State :=
  let t := homeWrite pa data mask poison full s
  if nativeFrame s (frameOf pa) then
    let old := ((List.range ((pa + data.length + 1) / 2 - pa / 2)).map (fun i => 2 * (pa / 2 + i))).filter
      (fun a => decide (halfAt s.mem a ≠ halfAt t.mem a))
    { t with coh.oldCode := old.map (fun a => ⟨a, halfAt s.mem a, gtid, none, false⟩) ++ t.coh.oldCode }
  else t

/-- The indivisible read, change and write at the home (R136, R138): state, old value, flags. -/
def amoAt (gtid : Word) (op : AmoOp) (pa n : Nat) (src cmp : Word) (s : State) : State × Word × Nat :=
  let old := natOfBytes (memReadN s.mem pa n)
  match amoNew op n old src.toNat cmp.toNat with
  | none => (s, BitVec.ofNat 64 old, 0)
  | some (v, fl) => (storeWrite gtid pa (bytesOfNat n v) 0xFF false false s, BitVec.ofNat 64 old, fl)

/-! ## Generations and copies -/

/-- `GENCUR` of a die as its 16-bit generation (R244). -/
def generation (c : Coh) (die : Nat) : Nat := (c.gencur[die]?).getD 0 % 2 ^ 16

/-- Age of a copy, or of a fill on its way, that has a stamp (R241). -/
def stampAge (c : Coh) (die stamp : Nat) : Nat := (generation c die + 2 ^ 16 - stamp % 2 ^ 16) % 2 ^ 16

/-- Age of a copy (R241). -/
def ageOf (c : Coh) (x : Copy) : Nat := stampAge c x.die x.stamp

/-- The copy of a line on a die, unless its age makes it absent (R246). -/
def copyOf (c : Coh) (die line : Nat) : Option Copy :=
  c.copies.find? (fun x => x.die = die ∧ x.line = line ∧ ageOf c x < 2 ^ 15)

/-- The copy of a line on a die while it is fresh (R241). -/
def freshCopy (c : Coh) (die line : Nat) : Option Copy :=
  (copyOf c die line).filter (fun x => ageOf c x = 0)

/-- Discards a die's copy of a line, and a fill of it that is on its way. -/
def dropCopy (die line : Nat) (c : Coh) : Coh :=
  { c with
    copies := c.copies.filter (fun x => ¬ (x.die = die ∧ x.line = line))
    fills := c.fills.filter (fun x => ¬ (x.die = die ∧ x.line = line)) }

/-- Discards every copy of a die, and every fill that is on its way to it. -/
def dropDie (die : Nat) (c : Coh) : Coh :=
  { c with
    copies := c.copies.filter (fun x => decide (x.die ≠ die))
    fills := c.fills.filter (fun x => decide (x.die ≠ die)) }

/-- Replaces a die's copy of a line. -/
def putCopy (x : Copy) (c : Coh) : Coh :=
  { c with copies := x :: (dropCopy x.die x.line c).copies }

/-- Ends a sweep: every copy of the die of age 2^14 or more goes, and with them the fills on their way that are as old,
which would arrive stale (R244); a held clearing may proceed (R246). -/
def endSweep (die : Nat) (c : Coh) : Coh :=
  { c with
    copies := c.copies.filter (fun x => ¬ (x.die = die ∧ ageOf c x ≥ 2 ^ 14))
    fills := c.fills.filter (fun x => ¬ (x.die = die ∧ stampAge c die x.stamp ≥ 2 ^ 14))
    sweeping := c.sweeping.setIfInBounds die false }

/-- The next clearing of the die has to wait for its sweep (R246). -/
def clearingHeld (c : Coh) (die : Nat) : Bool :=
  (c.sweeping[die]?).getD false && decide (((c.gencur[die]?).getD 0 + 1) % 2 ^ 14 = 0)

/-- A clearing of a die that no sweep holds (R244, R246). -/
def bumpGeneration (die : Nat) (c : Coh) : Coh :=
  let n := ((c.gencur[die]?).getD 0 + 1) % 2 ^ 32
  { c with
    gencur := c.gencur.setIfInBounds die n
    sweeping := if n % 2 ^ 14 = 0 then c.sweeping.setIfInBounds die true else c.sweeping }

/-- A clearing at once, ending a sweep that would hold it. -/
def clearingNow (die : Nat) (s : State) : State :=
  { s with coh := bumpGeneration die (if clearingHeld s.coh die then endSweep die s.coh else s.coh) }

/-- A clearing by an instruction: it waits while a sweep holds it (R246). -/
def clearing (s : State) : Run :=
  if clearingHeld s.coh s.die then
    waitIn { s with coh := endSweep s.die s.coh }
  else .ok { s with coh := bumpGeneration s.die s.coh }

/-! ## Tokens -/

/-- The active persistent request for a line on a die (R240). -/
def activePersistent (c : Coh) (die line : Nat) : Option Nat :=
  (c.persistent.find? (fun e => e.1 = die ∧ e.2.2 = line)).map (·.2.1)

/-- Every token of a line on a die goes to the core whose request for it is active (R240). -/
def serveRequest (die line : Nat) (c : Coh) : Coh :=
  match activePersistent c die line with
  | none => c
  | some q => { c with tokens := ⟨die, line, q, 128⟩ :: c.tokens.filter (fun t => ¬ (t.die = die ∧ t.line = line)) }

/-- A core's request ends with its access, and the next one for the line becomes active (R240). -/
def settleTokens (core line : Nat) (c : Coh) : Coh :=
  serveRequest (core / 64) line
    { c with persistent := c.persistent.filter (fun e => ¬ (e.1 = core / 64 ∧ e.2.1 = core ∧ e.2.2 = line)) }

/-- Another core's persistent request for the line is active, so that this core keeps no token of it (R240). -/
def tokensHeld (c : Coh) (core line : Nat) : Bool :=
  (activePersistent c (core / 64) line).any (fun q => decide (q ≠ core))

/-- A core gives up its persistent request: the access it was for is squashed with its context. -/
def dropRequest (core : Nat) (c : Coh) : Coh :=
  { c with persistent := c.persistent.filter (fun e => ¬ (e.1 = core / 64 ∧ e.2.1 = core)) }

/-- A core gathers all 128 tokens of its die for a line (R239). -/
def gatherTokens (core line : Nat) (c : Coh) : Coh :=
  settleTokens core line
    { c with tokens := ⟨core / 64, line, core, 128⟩ ::
        c.tokens.filter (fun t => ¬ (t.die = core / 64 ∧ t.line = line)) }

/-- Tokens of a line that cores of a die hold. -/
def heldTokens (c : Coh) (die line : Nat) : Nat :=
  (c.tokens.filter (fun t => t.die = die ∧ t.line = line)).foldl (fun a t => a + t.n) 0

/-- A core takes one token of a line for a read: from the shared caches, or from a core that holds several
(R239). -/
def readToken (core line : Nat) (c : Coh) : Coh :=
  let die := core / 64
  if c.tokens.any (fun t => t.die = die ∧ t.line = line ∧ t.core = core ∧ t.n > 0)
  then settleTokens core line c
  else
    let give := if heldTokens c die line < 128 then c.tokens
      else c.tokens.map (fun t => if t.die = die ∧ t.line = line ∧ t.n > 1 then { t with n := t.n - 1 } else t)
    settleTokens core line { c with tokens := ⟨die, line, core, 1⟩ :: give }

/-! ## Messages to other packages -/

/-- Next sequence number of an ordered pair of packages (R390). -/
def nextSeq (f : Fabric) (src dst : Nat) : Nat :=
  ((f.seqs.find? (fun e => e.1 = src ∧ e.2.1 = dst)).map (·.2.2)).getD 0

/-- Messages to a package have a way out: over the port installed for it, or, where none is, over any port that is up
while no repair is under way (R417). DEDUCED, log 42. -/
def pathUp (f : Fabric) (dst : Nat) : Bool :=
  match f.routes.find? (fun r => r.1 = dst) with
  | some r => f.linksUp.getLsbD r.2
  | none => decide (f.linksUp ≠ 0) && !f.repairing

/-- Messages of this package that wait for a route and have one go out, in the order they were queued (R417). -/
def releaseMsgs (s : State) : State :=
  { s with fab.msgs := s.fab.msgs.map (fun m =>
      if m.src = s.pkg ∧ pathUp s.fab m.dst then { m with sentOut := true } else m) }

/-- Route repair by the management firmware: for every package present the lowest port that is up; repair ends
(R417). DESIGN CHOICE, log 98. -/
def repairRoutes (s : State) : State :=
  let up := (List.range 18).find? s.fab.linksUp.getLsbD
  releaseMsgs { s with
    fab.routes := match up with
      | some p => s.fab.present.map (fun d => (d, p))
      | none => s.fab.routes
    fab.repairing := false }

/-- Address and length of a remote request; a sub-byte field lies in one byte (R117). -/
def reqRange : RemoteReq → Nat × Nat
  | .read a n => (a, n)
  | .write a n _ => (a, n)
  | .atomic _ a n _ _ => (a, n)
  | .subByte f w _ => (f / (8 / w), 1)
  | .bind _ _ _ | .abort _ _ _ _ => (0, 0)

/-- The line that a remote request names. -/
def reqLine (rq : RemoteReq) : Option Nat := if (reqRange rq).2 = 0 then none else some (lineOf (reqRange rq).1)

/-- A remote request may write a byte of a range. -/
def reqWrites (rq : RemoteReq) (pa n : Nat) : Bool :=
  let (a, k) := reqRange rq
  match rq with
  | .read _ _ => false
  | _ => decide (a < pa + n ∧ pa < a + k)

/-- A source keeps at most 32,768 messages unacknowledged to one destination (R390); a store needs up to 17 of them. -/
def pairFullTo (s : State) (dst : Nat) : Bool :=
  decide ((s.fab.msgs.filter (fun m => m.src = s.pkg ∧ m.dst = dst)).length + 17 > 32768)

/-- The messages to the owner of an address are that many. -/
def pairFull (s : State) (pa : Nat) : Bool := pairFullTo s (ownerOf s pa)

/-- The next number of the pair from this package has been used (R390). -/
def useSeq (dst : Nat) (f : Fabric) (src : Nat) : Fabric :=
  { f with seqs := (src, dst, (nextSeq f src dst + 1) % 2 ^ 32) :: f.seqs.filter (fun e => ¬ (e.1 = src ∧ e.2.1 = dst)) }

/-- Sends a message to another package (R249, R390), for a copy command where one is named, or forwards a request that
package `fwd` sent under a number (R250). Without a route it waits (R417). DESIGN CHOICE, log 16. -/
def sendMsgFor (fwd : Option (Nat × Nat)) (cmd : Option Nat) (dst : Nat) (gtid : Word) (pid : Nat) (rq : RemoteReq)
    (poison full : Bool) (s : State) : State :=
  let m : Msg := ⟨s.pkg, dst, nextSeq s.fab s.pkg dst, gtid, pid, rq, poison, full, false, pathUp s.fab dst,
    incOf s (.package s.pkg), fwd, [], cmd⟩
  { s with fab := { useSeq dst s.fab s.pkg with msgs := s.fab.msgs ++ [m] } }

/-- Sends a message of this package's own. -/
def sendMsg (dst : Nat) (gtid : Word) (pid : Nat) (rq : RemoteReq) (poison full : Bool) (s : State) : State :=
  sendMsgFor none none dst gtid pid rq poison full s

/-- Aborts of collectives that wait to be told to members in other packages go out, as far as the messages to those are
not too many (R390, R393). -/
def tellAborts (s : State) : State :=
  s.copy.told.foldl (fun s x =>
    let (p, g, i, k, m) := x
    if pairFullTo s p then { s with copy.told := s.copy.told ++ [x] } else sendMsg p m 0 (.abort g i k m) false false s)
    { s with copy.told := [] }

/-- What a remote request does at the owner's home (R249, R117). An atomic that meets poison writes nothing (R138,
R371). -/
def applyRemote (gtid : Word) (rq : RemoteReq) (poison full : Bool) (s : State) : State :=
  match rq with
  | .read _ _ | .bind _ _ _ | .abort _ _ _ _ => s
  | .write a n v => storeWrite gtid a (bytesOfNat n v.toNat) 0xFF poison full s
  | .atomic op a n v cmp =>
    if linePoisoned s (lineOf a) then s else (amoAt gtid (AmoOp.ofCode op) a n v cmp s).1
  | .subByte fld w v =>
    let per := 8 / w
    let sh := w * (fld % per)
    storeWrite gtid (fld / per) [BitVec.ofNat 8 (v.toNat % 2 ^ w * 2 ^ sh)]
      (BitVec.ofNat 8 ((2 ^ w - 1) * 2 ^ sh)) poison false s

/-- What the reply to a request carries: the bytes it reads, and whether they are poisoned (R371). -/
def replyTo (rq : RemoteReq) (s : State) : List Byte × Bool :=
  match rq with
  | .read a n => (memReadN s.mem a n, linePoisoned s (lineOf a))
  | .atomic _ a n _ _ => (memReadN s.mem a n, linePoisoned s (lineOf a))
  | _ => ([], false)

/-- What the thread that sent a request learns from its reply. -/
def answerRemote (gtid : Word) (rq : RemoteReq) (before after : State) : State :=
  match rq with
  | .atomic op a n v cmp =>
    if linePoisoned before (lineOf a) then answerAtomic gtid .atomicPoison after
    else
      let r := amoAt gtid (AmoOp.ofCode op) a n v cmp before
      answerAtomic gtid (.atomicAnswer r.2.1 r.2.2) after
  | _ => after

/-- The destination of a message keeps the reply to it until the source acknowledges it (R390). -/
def keepReply (src seq : Nat) (d : List Byte × Bool) (s : State) : State :=
  { s with fab.replies := ⟨src, seq, d.1, d.2, incOf s (.package s.pkg)⟩ :: s.fab.replies }

/-- What the destination keeps of an ordered pair. -/
def seenOf (f : Fabric) (src dst : Nat) : Seen :=
  (f.seen.find? (fun e => e.src = src ∧ e.dst = dst)).getD ⟨src, dst, 0, []⟩

/-- The destination may apply a number: it is among the 65,536 numbers from the floor up, and not recorded (R390). -/
def Seen.fresh (e : Seen) (seq : Nat) : Bool :=
  decide ((seq + 2 ^ 32 - e.floor) % 2 ^ 32 ≤ 65536) && !e.above.contains seq

/-- The floor moves past the numbers recorded from it up. -/
def Seen.settle : Nat → Seen → Seen
  | 0, e => e
  | n + 1, e =>
    if e.above.contains e.floor
    then Seen.settle n { e with above := e.above.filter (· ≠ e.floor), floor := (e.floor + 1) % 2 ^ 32 }
    else e

/-- Records a number as applied (R390). -/
def recordSeq (src dst seq : Nat) (f : Fabric) : Fabric :=
  let e := seenOf f src dst
  let e1 := Seen.settle (e.above.length + 1) { e with above := seq :: e.above }
  { f with seen := e1 :: f.seen.filter (fun x => ¬ (x.src = src ∧ x.dst = dst)) }

/-- The destination applies a message, once (R390). -/
def applyMsg (src dst seq : Nat) (s : State) : State :=
  match s.fab.msgs.find? (fun m => m.src = src ∧ m.dst = dst ∧ m.seq = seq) with
  | none => s
  | some m =>
    if m.applied || !(seenOf s.fab src dst).fresh seq then s
    else
      let s1 := applyRemote m.gtid m.rq m.poison m.full s
      let s2 := match m.fwd with
        | some (p, n) => keepReply p n (replyTo m.rq s) s1
        | none => answerRemote m.gtid m.rq s s1
      let f := recordSeq src dst seq s2.fab
      { s2 with fab := { f with msgs := f.msgs.map (fun x =>
          if x.src = src ∧ x.dst = dst ∧ x.seq = seq then { x with applied := true } else x) } }

/-- An acknowledgement reaches the source of an applied message (R390). -/
def ackMsg (src dst seq : Nat) (s : State) : State :=
  { s with
    fab.msgs := s.fab.msgs.filter (fun m => ¬ (m.src = src ∧ m.dst = dst ∧ m.seq = seq ∧ m.applied)) }

/-- A message counts for a thread: the thread has sent it, or has acquired since another thread of the package did
(R257). -/
def Msg.counts (m : Msg) (gtid : Word) : Bool := decide (m.gtid = gtid) || m.readers.contains gtid

/-- No earlier message that counts for the thread and writes a byte of a range is still to be applied, whoever owns the
page by now (R250, R255, R256). -/
def msgsPast (gtid : Word) (pa n : Nat) (s : State) : Bool :=
  s.fab.msgs.all (fun m => decide (m.src ≠ s.pkg) || !m.counts gtid || m.applied || !reqWrites m.rq pa n)

/-- An earlier message of the same thread to bytes of this one has not been applied: accesses of a thread to the same
bytes follow program order (R255). -/
def msgBehind (s : State) (m : Msg) : Bool :=
  (s.fab.msgs.takeWhile (fun x => decide (x ≠ m))).any (fun x =>
    decide (x.src = m.src) && x.counts m.gtid && !x.applied &&
      (reqWrites x.rq (reqRange m.rq).1 (reqRange m.rq).2 || reqWrites m.rq (reqRange x.rq).1 (reqRange x.rq).2))

/-- A message of this package gets on: one that has gone out is applied, and one that is applied is acknowledged; it waits
while it is behind an earlier one. -/
def passMsg (s : State) (m : Msg) : State :=
  if m.src = s.pkg ∧ (m.applied ∨ m.sentOut) ∧ !msgBehind s m then ackMsg m.src m.dst m.seq (applyMsg m.src m.dst m.seq s)
  else s

/-- A read of another package's memory may take place: there is a route to the owner (R417), room for a message (R390),
and no earlier message that writes its bytes is still to be applied (R255). DEDUCED, log 43. -/
def remoteReady (gtid : Word) (pa n : Nat) (s : State) : Bool :=
  pathUp s.fab (ownerOf s pa) && !pairFull s pa && msgsPast gtid pa n s

/-- A message to another package that is applied and answered at once (R390). -/
def askPackage (dst : Nat) (s : State) : State :=
  { s with fab := useSeq dst (recordSeq s.pkg dst (nextSeq s.fab s.pkg dst) s.fab) s.pkg }

/-- A read of another package's memory is such a message (R249). -/
def askRemote (pa : Nat) (s : State) : State :=
  if ownerOf s pa = s.pkg ∨ deadHome s pa then s else askPackage (ownerOf s pa) s

/-! ## Write-throughs -/

/-- The home's answer to a confirmation request: the versions agree, and the line's is known (R248). -/
def agrees (c : Coh) (x : Confirm) : Bool :=
  match versionOf c x.line, x.version with
  | some v, some w => decide (v = w)
  | _, _ => false

/-- The home answers the confirmation requests of a die for a line that have reached it (R243, R248). -/
def answerConfirms (die line : Nat) (c : Coh) : Coh :=
  { c with confirms := c.confirms.map (fun x =>
      if x.die = die ∧ x.line = line ∧ x.answer = none then { x with answer := some (agrees c x) } else x) }

/-- The home applies the oldest write-through of a die to a line, after the confirmation requests the die sent before
it (R242, R243): a request is sent when no write-through of its die to the line is under way (R144). The home's own die
gives up no token for it and does not wait for a request that is active there. DESIGN CHOICE, log 92. -/
def applyWt (die line : Nat) (s : State) : State :=
  match s.coh.wts.find? (fun w => w.die = die ∧ w.line = line ∧ ¬ w.applied) with
  | none => s
  | some w =>
    let i := s.coh.wts.findIdx (fun w => w.die = die ∧ w.line = line ∧ ¬ w.applied)
    if w.inc ≠ incOf s (.die die) then dropStale (.die die) (some line) { s with coh.wts := s.coh.wts.eraseIdx i }
    else
      let s1 := storeWrite w.gtid w.pa w.data w.mask w.poison w.full { s with coh := answerConfirms die line s.coh }
      { s1 with coh.wts := s1.coh.wts.set i { w with applied := true, ver := versionOf s1.coh line } }

/-- The acknowledgement of the oldest applied write-through reaches its die, whose copy takes the new version
(R242). -/
def ackWt (die line : Nat) (s : State) : State :=
  match s.coh.wts.find? (fun w => w.die = die ∧ w.line = line ∧ w.applied) with
  | none => s
  | some w =>
    let i := s.coh.wts.findIdx (fun w => w.die = die ∧ w.line = line ∧ w.applied)
    { s with
      coh.wts := s.coh.wts.eraseIdx i
      coh.copies := s.coh.copies.map (fun x => if x.die = die ∧ x.line = line then { x with version := w.ver } else x) }

/-- Applies every write-through of a die to a line: a later read by that die at the home sees them (R243). -/
def applyWts (die line : Nat) (s : State) : State :=
  (s.coh.wts.filter (fun w => w.die = die ∧ w.line = line ∧ ¬ w.applied)).foldl
    (fun s _ => applyWt die line s) s

/-! ## Stores -/

/-- Splits a run of bytes at the multiples of `m`. -/
def cutAt (m : Nat) : Nat → Nat → List Byte → List (Nat × List Byte)
  | 0, _, _ => []
  | fuel + 1, pa, data =>
    if data = [] then []
    else
      let n := m - pa % m
      (pa, data.take n) :: cutAt m fuel (pa + n) (data.drop n)

/-- A list in an order that is open: each place takes what a free value names of those that are left. -/
def anyOrder {α : Type} (f : Nat → Nat) : Nat → List α → List α
  | 0, l => l
  | n + 1, l =>
    match l[f n % l.length]? with
    | none => l
    | some x => x :: anyOrder f n (l.eraseIdx (f n % l.length))

/-- The order in which the pieces of an access are observed: any (R251). -/
def pieceOrder {α : Type} (s : State) (pa : Nat) (l : List α) : List α :=
  anyOrder (fun i => (Config.freeByteAt (draw s 62) (pa + i)).toNat) (l.length - 1) l

/-- The write-throughs of a store: it goes in its aligned pieces, of 16 bytes for a core's and of 8 for a copy command's,
in any order (R251). The last one ends an access of a whole line (R371). -/
def writeThroughs (s : State) (cmd : Option Nat) (die : Nat) (e : SbEntry) : List WriteThrough :=
  let grain := if cmd.isSome then 8 else 16
  let ps := pieceOrder s e.pa (if e.data.length ≤ grain then [(e.pa, e.data)] else cutAt grain 17 e.pa e.data)
  (List.range ps.length).zipWith (fun i p => ⟨die, lineOf p.1, e.gtid, e.pid, p.1, p.2, e.mask, e.poison,
    decide (e.data.length = 128 ∧ i + 1 = ps.length), false, none, [], incOf s (.die die), cmd⟩) ps

/-- A store to another package's memory leaves as messages of at most 8 bytes (R249, R251), one of less than a byte as a
request for that field (R117). -/
def sendStore (cmd : Option Nat) (e : SbEntry) (s : State) : State :=
  if e.mask ≠ 0xFF then
    let w := if oneBits 8 e.mask.toNat = 2 then 2 else 4
    let sh := trailingZeros 8 e.mask.toNat
    sendMsgFor none cmd (ownerOf s e.pa) e.gtid e.pid
      (.subByte (e.pa * (8 / w) + sh / w) w (BitVec.ofNat 64 (natOfBytes e.data / 2 ^ sh))) e.poison false s
  else (cutAt 8 17 e.pa e.data).foldl (fun s p =>
    sendMsgFor none cmd (ownerOf s e.pa) e.gtid e.pid (.write p.1 p.2.length (BitVec.ofNat 64 (natOfBytes p.2))) e.poison
      (decide (e.data.length = 128 ∧ p.1 + p.2.length = e.pa + 128)) s) s

/-- A store is performed, of a core or of a copy command: its core gathers the line's tokens and the bytes go to the home,
through the die's copy where the home is another die, in a message where another package owns the page, or to the host
(R239, R242, R249, R413). One that cannot be delivered is reported (R392, R413). -/
def performStoreBy (cmd : Option Nat) (core : Nat) (e : SbEntry) (s : State) : State :=
  let die := core / 64
  let line := lineOf e.pa
  let full := decide (e.data.length = 128)
  if deadHome s e.pa || (isHostWin e.pa && !linkUpAt s e.pa) then loseStore die e.gtid e.pid e.pa s
  else if ownerOf s e.pa ≠ s.pkg then sendStore cmd e s
  else if !localMem s e.pa then homeWrite e.pa e.data e.mask e.poison full s
  else
    let s := { s with coh := gatherTokens core line s.coh }
    if homeDie e.pa = die then storeWrite e.gtid e.pa e.data e.mask e.poison full s
    else
      let c1 := match freshCopy s.coh die line with
        | none => dropCopy die line s.coh
        | some x =>
          let off := e.pa % 128
          let d := (List.range x.data.length).map (fun i =>
            let o := (x.data[i]?).getD 0
            if off ≤ i ∧ i < off + e.data.length
            then (o &&& ~~~e.mask) ||| ((e.data[i - off]?).getD 0 &&& e.mask) else o)
          putCopy { x with data := d, poison := (x.poison && !full) || e.poison } s.coh
      { s with coh := { c1 with wts := c1.wts ++ writeThroughs s cmd die e } }

/-- A core's store is performed. -/
def performStore (core : Nat) (e : SbEntry) (s : State) : State := performStoreBy none core e s

/-- A store cannot be performed now: another core's persistent request for its line is active (R240), an earlier message
of its thread to its bytes is still to be applied (R255), or its messages would be too many (R390). -/
def storeHeld (core : Nat) (gtid : Word) (pa n : Nat) (s : State) : Bool :=
  if ownerOf s pa ≠ s.pkg then pairFull s pa
  else (localMem s pa && tokensHeld s.coh core (lineOf pa)) || !msgsPast gtid pa n s

/-- The oldest store leaves a core's store buffer and is performed (R239), unless it is held. -/
def drainHead (core : Nat) (s : State) : State :=
  match (getCore s core).sb with
  | [] => s
  | e :: r => if storeHeld core e.gtid e.pa e.data.length s then s else performStore core e (setCore s core { getCore s core with sb := r })

/-- Drains a store buffer up to a store that is held. -/
def drainAll (core : Nat) (s : State) : State := (getCore s core).sb.foldl (fun s _ => drainHead core s) s

/-- Entries the store buffer holds (R239). DESIGN CHOICE, log 62. -/
def sbCapacity : Nat := 96

/-- Splits a run of bytes at line boundaries. -/
def linePieces : Nat → Nat → List Byte → List (Nat × List Byte)
  | 0, _, _ => []
  | fuel + 1, pa, data =>
    if data = [] then []
    else
      let n := 128 - pa % 128
      (pa, data.take n) :: linePieces fuel (pa + n) (data.drop n)

/-- Store-buffer entries of bytes written at a physical address: a row from a line boundary goes line by line, any other
in its aligned pieces of 16 bytes, in any order (R251), and one to the host in its aligned 8 bytes (R413). -/
def sbEntries (s : State) (pa : Nat) (data : List Byte) : List SbEntry :=
  (if isHostWin pa then pieceOrder s pa (cutAt 8 (data.length / 8 + 2) pa data)
    else if pa % 128 = 0 then linePieces (data.length / 128 + 2) pa data
    else pieceOrder s pa (cutAt 16 (data.length / 16 + 2) pa data)).map
    (fun p => ⟨s.ctx.prv.gtid, s.pid, p.1, p.2, 0xFF, false⟩)

/-- A retired store enters the store buffer; a full buffer makes the instruction wait. -/
def pushStores (l : List SbEntry) (s : State) : Run :=
  if s.core.sb.length ≥ sbCapacity then waitIn (drainHead s.cur s)
  else .ok { s with core.sb := s.core.sb ++ l }

/-- One unit of the work that waiting instructions wait for: the oldest store leaves the buffer, else a
write-through of the die is applied or acknowledged, else a message of the package that has gone out is; else the
firmware repairs the routes (R417). -/
def progress (s : State) : State :=
  if s.core.sb ≠ [] then drainHead s.cur s
  else
    match s.coh.wts.find? (fun w => w.die = s.die) with
    | some w => if w.applied then ackWt w.die w.line s else applyWt w.die w.line s
    | none =>
      match s.fab.msgs.find? (fun m => decide (m.src = s.pkg) && (m.applied || (m.sentOut && !msgBehind s m))) with
      | some m => if m.applied then ackMsg m.src m.dst m.seq s else applyMsg m.src m.dst m.seq s
      | none => if s.fab.repairing && !s.fab.repairHost then repairRoutes s else releaseMsgs (tellAborts s)

/-! ## Loads -/

/-- Bytes of a line read at the home under a token of the die (R239), after the die's own earlier write-throughs to it
(R243). -/
def readHome (pa n : Nat) (s : State) : State × List Byte × Bool :=
  if !localMem s pa then (askRemote pa s, memReadN s.mem pa n, linePoisoned s (lineOf pa))
  else
    let s := { s with coh := readToken s.cur (lineOf pa) s.coh }
    let s := if homeDie pa = s.die then s else applyWts s.die (lineOf pa) s
    (s, memReadN s.mem pa n, linePoisoned s (lineOf pa))

/-- Serves a fill of a line: bytes, poison and version at the home (R241). -/
def serveFill (die line : Nat) (s : State) : State × (List Byte × Bool × Option Nat) :=
  let s := applyWts die line s
  let s := if (versionOf s.coh line).isSome then s else roomInDirectory s
  let s := { s with coh := trackVersion line s.coh }
  (s, (memReadN s.mem (line * 128) 128, linePoisoned s line, versionOf s.coh line))

/-- Bytes of one line read by an ordinary load: at the home, from a fresh copy, or through a fill that makes a
new copy (R241). -/
def readLine (pa n : Nat) (s : State) : State × List Byte × Bool :=
  if !localMem s pa then readHome pa n s
  else
    let line := lineOf pa
    let s := { s with coh := readToken s.cur line s.coh }
    if homeDie pa = s.die then (s, memReadN s.mem pa n, linePoisoned s line)
    else
      match freshCopy s.coh s.die line with
      | some x => (s, (x.data.drop (pa % 128)).take n, x.poison)
      | none =>
        let (s, d, p, v) := serveFill s.die line s
        let s := { s with coh := putCopy ⟨s.die, line, d, p, generation s.coh s.die, v⟩ s.coh }
        (s, (d.drop (pa % 128)).take n, p)

/-- A thread of a die has read bytes: the write-throughs to them that are not acknowledged note it (R257). -/
def noteRead (gtid : Word) (die pa n : Nat) (c : Coh) : Coh :=
  { c with wts := c.wts.map (fun w =>
      if w.die = die ∧ (w.gtid ≠ gtid ∨ w.cmd ≠ none) ∧ w.pa < pa + n ∧ pa < w.pa + w.data.length ∧ ¬ w.readers.contains gtid
      then { w with readers := gtid :: w.readers } else w) }

/-- The active context has read bytes (R257). -/
def heard (pa n : Nat) (s : State) : State := { s with coh := noteRead s.ctx.prv.gtid s.die pa n s.coh }

/-- A thread of a die has acquired: what other threads of the die have written through, and those of its package have
sent to other packages, and is not acknowledged, counts as read, since happens-before is transitive (R256, R257); of a copy
command's writes those that some thread has read. DESIGN CHOICE, log 100. -/
def heardBy (g : Word) (die : Nat) (s : State) : State :=
  let counts (h : Word) (cmd : Option Nat) (readers : List Word) : Bool :=
    !readers.contains g && (if cmd.isSome then !readers.isEmpty else decide (h ≠ g))
  { s with
    coh.wts := s.coh.wts.map (fun w =>
      if decide (w.die = die) && counts w.gtid w.cmd w.readers then { w with readers := g :: w.readers } else w)
    fab.msgs := s.fab.msgs.map (fun m =>
      if decide (m.src = s.pkg) && counts m.gtid m.cmd m.readers then { m with readers := g :: m.readers } else m) }

/-- The active context has acquired. -/
def heardAll (s : State) : State := heardBy s.ctx.prv.gtid s.die s

/-- A store-buffer entry overlaps a range of bytes. -/
def SbEntry.meets (e : SbEntry) (pa n : Nat) : Bool :=
  decide (e.pa < pa + n ∧ pa < e.pa + e.data.length)

/-- Bytes of a range with the stores of one context forwarded over them, oldest first (R118), and whether a
forwarded entry is poisoned. -/
def forward (gtid : Word) (pa : Nat) (sb : List SbEntry) (d : List Byte) : List Byte :=
  (sb.filter (fun e => e.gtid = gtid ∧ e.meets pa d.length)).foldl (fun d e =>
    (List.range d.length).map (fun i =>
      let o := (d[i]?).getD 0
      if e.pa ≤ pa + i ∧ pa + i < e.pa + e.data.length
      then (o &&& ~~~e.mask) ||| ((e.data[pa + i - e.pa]?).getD 0 &&& e.mask) else o)) d

/-- Every byte of a range comes whole from stores of the context in the buffer. -/
def covered (gtid : Word) (pa n : Nat) (sb : List SbEntry) : Bool :=
  (List.range n).all (fun i => sb.any (fun e =>
    decide (e.gtid = gtid ∧ e.mask = 0xFF ∧ e.pa ≤ pa + i ∧ pa + i < e.pa + e.data.length)))

/-- Bytes of one line as the context's own load sees them. `home` reads at the home and never from a copy. A
load that overlaps a store of the other context waits until that store has left the buffer (R342), and one of a line
for which another core's persistent request is active waits for its end (R240), as does one of bytes that an unapplied
message of the thread writes (R255), and one of another package's memory until it can be sent. The last component says
that poison is among them. -/
def loadLine (home : Bool) (pa n : Nat) (s : State) : RunV (List Byte × Bool) :=
  if s.core.sb.any (fun e => decide (e.gtid ≠ s.ctx.prv.gtid) && e.meets pa n) then
    waitIn (drainHead s.cur s)
  else if localMem s pa && tokensHeld s.coh s.cur (lineOf pa) then waitIn s
  else if !deadHome s pa && !(if localMem s pa then msgsPast s.ctx.prv.gtid pa n s else remoteReady s.ctx.prv.gtid pa n s)
    then waitIn (progress s)
  else
    let (s1, d, p) := if home then readHome pa n s else readLine pa n s
    let bad := (p && !covered s.ctx.prv.gtid pa n s.core.sb) ||
      s.core.sb.any (fun e => decide (e.gtid = s.ctx.prv.gtid) && e.poison && e.meets pa n)
    .ok (heard pa n s1, forward s.ctx.prv.gtid pa s.core.sb d, bad)

/-! ## Waiting for earlier accesses -/

/-- The messages of a thread of the package have been acknowledged, and those of others that count for it (R257). A copy
command's own count for nobody but those who acquire after it (R140). -/
def msgsDone (gtid : Word) (s : State) : Bool :=
  s.fab.msgs.all (fun m => decide (m.src ≠ s.pkg ∨ ((m.gtid ≠ gtid ∨ m.cmd ≠ none) ∧ gtid ∉ m.readers)))

/-- Every earlier store of a thread of the die has been performed at a scope code of R252: it has left the buffer; from
pkg on its write-throughs are acknowledged, and those of other threads whose values it has read; from node on its
messages are (R114, R254, R257). The writes of its copy commands are none of its stores (R140). -/
def performedFor (gtid : Word) (scope : Nat) (s : State) : Bool :=
  s.core.sb.all (fun e => decide (e.gtid ≠ gtid)) &&
  (decide (scope < 2) || s.coh.wts.all (fun w =>
    decide (w.die ≠ s.die ∨ ((w.gtid ≠ gtid ∨ w.cmd ≠ none) ∧ gtid ∉ w.readers)))) &&
  (decide (scope < 3) || msgsDone gtid s)

/-- Every earlier store of the active context has been performed at a scope. -/
def storesPerformed (scope : Nat) (s : State) : Bool := performedFor s.ctx.prv.gtid scope s

/-- No store of the core, write-through of its die or message of the package is under way. -/
def storesIdle (s : State) : Bool :=
  s.core.sb.isEmpty && s.coh.wts.all (fun w => decide (w.die ≠ s.die)) && s.fab.msgs.all (fun m => decide (m.src ≠ s.pkg))

/-- Waits until every earlier store has been performed at a scope. -/
def awaitStores (scope : Nat) (s : State) : Run :=
  if storesPerformed scope s then .ok s else waitIn (progress s)

end Sys2Proof.Machine
end

