-- ==== Sys2Proof/Machine/Device.lean ====
section
/-! DEFINITION. Device registers, the firmware mailbox registers, MSI-X and the doorbell pages (R414 to R416,
R421). -/

namespace Sys2Proof.Machine

/-- Vectors of a function: 2,048 on PF0 (function 0), 16 on a VF (R421). -/
def msixCount (fn : Nat) : Nat := if fn = 0 then 2048 else 16

/-- A vector of an MSI-X table; PCIe resets its mask bit to 1 (log 13). -/
def msixVector (h : HostSt) (fn idx : Nat) : MsixVector :=
  (h.msix.find? (fun v => v.fn = fn ∧ v.idx = idx)).getD ⟨fn, idx, 0, 0x100000000⟩

/-- Sends the message of a vector, or sets its pending bit while it is masked (R292). -/
def sendMsix (fn idx : Nat) (s : State) : State :=
  if idx ≥ msixCount fn then s
  else if (msixVector s.host fn idx).data.getLsbD 32 then
    (if s.host.pendingBits.contains (fn, idx) then s
     else { s with host.pendingBits := (fn, idx) :: s.host.pendingBits })
  else { s with host.sentMsix := s.host.sentMsix ++ [(fn, idx)] }

/-- Writes one 8-byte half of a table entry; unmasking a pending vector sends its message, as PCIe defines. -/
def writeMsix (fn off : Nat) (v : Word) (s : State) : State :=
  let idx := off / 16
  let x := msixVector s.host fn idx
  let y : MsixVector := if off % 16 < 8 then { x with addr := v } else { x with data := v }
  let s1 := { s with
    host.msix := y :: s.host.msix.filter (fun z => ¬ (z.fn = fn ∧ z.idx = idx)) }
  if s1.host.pendingBits.contains (fn, idx) && !y.data.getLsbD 32 then
    { s1 with
      host.pendingBits := s1.host.pendingBits.filter (· ≠ (fn, idx))
      host.sentMsix := s1.host.sentMsix ++ [(fn, idx)] }
  else s1

/-- Reads one 8-byte half of a table entry. -/
def readMsix (h : HostSt) (fn off : Nat) : Word :=
  let x := msixVector h fn (off / 16)
  if off % 16 < 8 then x.addr else x.data

/-- Reads 64 pending bits. -/
def readPending (h : HostSt) (fn first : Nat) : Word :=
  (List.range 64).foldl (fun w i => if h.pendingBits.contains (fn, first + i) then w ||| (1#64 <<< i) else w) 0

/-- `BOOTST.DIEOK` (R430). -/
def dieOk (s : State) : Nat := bits s.boot.bootst 4 4

/-- A die is live: trained and not fenced off (R389, R430). -/
def dieLive (s : State) (d : Nat) : Bool :=
  (s.rel.live[d]?).getD false && !(s.rel.fenced[d]?).getD false

/-- Every core of a die has `BISTSUM.DONE` (R414). -/
def bistDone (s : State) (d : Nat) : Bool :=
  (List.range 64).all (fun i => (getCore s (d * 64 + i)).bistsum.getLsbD 0)

/-- The VF binding of a number. -/
def vfOf (s : State) (v : Nat) : Option Vf := s.host.vfs.find? (fun x => x.num = v)

/-- A doorbell write: a sys-scope store of the same bytes to the doorbell area, and an INT for word 0 (R416). -/
def ringDoorbell (x : Vf) (off : Nat) (data : List Byte) (s : State) : State :=
  let s1 := homeWrite (x.area + off) data 0xFF false false s
  if off < 8 then pendInt x.core 0x0002 x.pid s1 else s1

/-- The doorbell word at a device-register offset lies in a poisoned line (R372, R416). -/
def poisonedDoorbell (s : State) (off : Nat) : Bool :=
  decide (0x100000 ≤ off ∧ off < 0x500000 ∧ off % 0x10000 < 0xF000) &&
    (vfOf s ((off - 0x100000) / 0x10000 + 1)).any (fun x => linePoisoned s (lineOf (x.area + off % 0x10000)))

/-- Reads a device register at an 8-byte aligned offset (R414 to R416); reserved offsets read as 0. -/
def devRead (s : State) (off : Nat) : Word :=
  if off = 0x000 then
    BitVec.ofNat 64 (0xC48 * 2 ^ 32 + Config.stepping % 65536 * 65536 + s.pkg % 256 * 256 + dieOk s)
  else if off = 0x008 then s.boot.bootst
  else if off = 0x010 then
    BitVec.ofNat 64 (s.host.rate % 256 * 65536 + s.host.width % 256 * 256 + (if s.host.cxl then 1 else 0))
  else if off = 0x018 then BitVec.ofNat 64 s.fab.linksUp.toNat
  else if off = 0x020 then
    (List.range 4).foldl (fun w d => if bistDone s d then w ||| (1#64 <<< d) else w) 0
  else if off = 0x1000 then s.host.mbcmd
  else if 0x1008 ≤ off ∧ off < 0x1048 then (s.host.mbarg[(off - 0x1008) / 8]?).getD 0
  else if off = 0x1050 then s.host.mbstat
  else if 0x10000 ≤ off ∧ off < 0x18000 then readMsix s.host 0 (off - 0x10000)
  else if 0x18000 ≤ off ∧ off < 0x18100 then readPending s.host 0 ((off - 0x18000) * 8)
  else if 0x100000 ≤ off ∧ off < 0x500000 then
    let v := (off - 0x100000) / 0x10000 + 1
    let o := off % 0x10000
    match vfOf s v with
    | none => 0
    | some x =>
      if o < 0xF000 then BitVec.ofNat 64 (natOfBytes (memReadN s.mem (x.area + o) 8))
      else if o < 0xF100 then readMsix s.host v (o - 0xF000)
      else if o = 0xF800 then readPending s.host v 0
      else 0
  else 0

/-- Bits of a device register that may hold anything, at an 8-byte aligned offset: neither a reserved one nor one whose
value R414 fixes (R414 to R416, R421, R430). -/
def regOpen (off : Nat) : Word :=
  if off = 0x000 then 0xFFFF000F
  else if off = 0x008 then 0x00FFFFF0000000FF
  else if off = 0x010 then 0x00FFFF01
  else if off = 0x018 then 0x3FFFF
  else if off = 0x020 then 0xF
  else if off = 0x1000 then 0xFFFF
  else if 0x1008 ≤ off ∧ off < 0x1048 then BitVec.allOnes 64
  else if off = 0x1050 then 0x800000000000FFFF
  else if 0x10000 ≤ off ∧ off < 0x18100 then BitVec.allOnes 64
  else if 0x100000 ≤ off ∧ off < 0x500000 then
    let o := off % 0x10000
    if o < 0xF100 then BitVec.allOnes 64 else if o = 0xF800 then 0xFFFF else 0
  else 0

/-- A register of another package `p`, of which only what R414 fixes for every package is known; `v` gives the rest.
DESIGN CHOICE, log 71. -/
def otherReg (p off : Nat) (v : Word) : Word :=
  (v &&& regOpen off) ||| (if off = 0x000 then BitVec.ofNat 64 (0xC48 * 2 ^ 32 + p % 256 * 256) else 0)

/-- A write of `MBSTAT` by the device side; clearing BUSY sends vector 0 of PF0 (R415). -/
def writeMbstat (v : Word) (s : State) : State :=
  let was := s.host.mbstat.getLsbD 63
  let s1 := { s with host.mbstat := v &&& 0x800000000000FFFF }
  if was && !v.getLsbD 63 then sendMsix 0 0 s1 else s1

/-- Writes a device register from the device side; read-only and reserved ones ignore the write (R414). -/
def devWrite (off : Nat) (v : Word) (s : State) : State :=
  if 0x1008 ≤ off ∧ off < 0x1048 then
    { s with host.mbarg := s.host.mbarg.setIfInBounds ((off - 0x1008) / 8) v }
  else if off = 0x1050 then writeMbstat v s
  else if 0x10000 ≤ off ∧ off < 0x18000 then writeMsix 0 (off - 0x10000) v s
  else if 0x100000 ≤ off ∧ off < 0x500000 then
    let n := (off - 0x100000) / 0x10000 + 1
    let o := off % 0x10000
    match vfOf s n with
    | none => s
    | some x =>
      if o < 0xF000 then ringDoorbell x o (bytesOfWord 8 v) s
      else if o < 0xF100 then writeMsix n (o - 0xF000) v s
      else s
  else s

end Sys2Proof.Machine
end

