-- ==== Sys2Proof/WellFormed.lean ====
section
/-! DEFINITION. When an instruction is well formed: exactly the checks of R88 that its fields can fail. -/

namespace Sys2Proof

/-- Immediate bits a base word holds (R78). -/
def WFmt.immBits : WFmt → Nat
  | .R => 0
  | .I => 4
  | .L => 8
  | .C => 8
  | .J => 12
  | .N => 0

/-- Assembled width of the immediate (R83). -/
def Enc.immWidth (e : Enc) : Nat := e.fmt.immBits + 10 * e.fm.nx

/-- A field within the limit of R84, and within 4 bits where there is no `PFX.G`. -/
def Fld.ok (g : Bool) (x : Fld) : Bool :=
  (g || decide (x.val < 16)) &&
  (match x.kind with
   | .v => decide (x.val < 128)
   | k => decide (x.val ≤ k.limit))

/-- The last repeat keeps a stepped field within its limit (R86), also one whose limit R165, R184 or R185 gives.
DESIGN CHOICE, log 97. -/
def Fld.stepOk (n : Nat) (x : Fld) : Bool :=
  match x.kind with
  | .none => false
  | .v => decide (x.val % 64 + (n - 1) ≤ 63)
  | k => decide (x.val + (n - 1) ≤ k.limit)

/-- An immediate fits its assembled width and its range in the repeat that adds `j` to it (R79, R86). -/
def ImmSpec.ok (w : Nat) (nx : Nat) (j : Nat) : ImmSpec → Bool
  | .none => decide (nx = 0)
  | .signed v => decide (-(2 ^ w : Int) ≤ 2 * (v + j) ∧ 2 * (v + j) < 2 ^ w)
  | .unsigned v ok => decide (v + j < 2 ^ w) && ok (v + j)
  | .payload v m => decide (nx ≤ m ∧ v < 2 ^ w)

/-- A format whose base word holds immediate bits: only these step the immediate (R86). -/
def WFmt.hasImm : WFmt → Bool
  | .R => false
  | .N => false
  | _ => true

/-- Words before the base word: at most four (R82). -/
def Enc.prefixes (e : Enc) : Nat :=
  (if e.fm.rep.isSome then 1 else 0) + (if e.page = 0 then 0 else 1) + (if e.fm.g then 1 else 0) + e.fm.nx

/-- The conditions of R86 on `PFX.N`. -/
def Enc.repOk (e : Enc) : Bool :=
  match e.fm.rep with
  | none => true
  | some r =>
    e.rep && decide (1 ≤ r.n ∧ r.n ≤ 64 ∧ r.mask < 16) &&
    (!decide (r.mask / 8 % 2 = 1) || e.d.stepOk r.n) &&
    (!decide (r.mask / 4 % 2 = 1) || e.a.stepOk r.n) &&
    (!decide (r.mask / 2 % 2 = 1) || e.b.stepOk r.n) &&
    (!decide (r.mask % 2 = 1) ||
      (e.fmt.hasImm && (List.range r.n).all (e.imm.ok e.immWidth e.fm.nx)))

/-- The checks of R88 item 2 on an encoding; format C is that of `BRC`, which takes no `PFX.G` (R108). -/
def Enc.wellFormed (e : Enc) : Bool :=
  e.ok &&
  decide (e.page < 64 ∧ e.major < 14 ∧ e.variant < 16 ∧ (e.page = 0 → e.variant = 0)) &&
  decide (e.prefixes ≤ 4) &&
  (!e.fm.g || (e.fmt != .J && e.fmt != .N && e.fmt != .C)) &&
  e.d.ok e.fm.g && e.a.ok e.fm.g && e.b.ok e.fm.g &&
  e.imm.ok e.immWidth e.fm.nx 0 &&
  e.repOk

/-- An instruction that R88 accepts. A row without bits has no encoding and nothing to check. -/
def Instr.wellFormed (i : Instr) : Bool :=
  match i.enc with
  | some e => e.wellFormed
  | none => true

end Sys2Proof
end

