-- ==== Sys2Proof/Decode.lean ====
section
/-! DEFINITION. From halfwords to an instruction, and back (R78 to R91). Decoding is total: it answers an
instruction or a named rejection, and every rejection is an ILL of R88. -/

namespace Sys2Proof

/-- Why a chain of words is no instruction (R88 item 2). Every one raises ILL. -/
inductive Reject where
  /-- No base word: the chain ends in a prefix word, or a fifth prefix stands where the base word should. -/
  | noBaseWord
  /-- Prefix words out of the order of R82, or one of a kind given twice. -/
  | prefixOrder
  /-- `PFX.P` with page 0. -/
  | pageZero
  /-- Bit 9 of `PFX.G`. -/
  | prefixReserved
  /-- Major 0xE. -/
  | majorE
  /-- Page, major or variant without an assignment. -/
  | unassigned
  /-- A reserved field or payload bit that is not zero. -/
  | reserved
  /-- A register, an immediate, a prefix or a repeat outside its limits. -/
  | illFormed
deriving DecidableEq, Repr

/-- A chain of words pulled apart, before any meaning: prefixes, then the four fields of the base word.
`xval` holds the payloads of the `nx` `PFX.X` words, the nearest to the base word lowest (R83). -/
structure Raw where
  rep : Option Rep
  pv : Option (Nat × Nat)
  g : Option (Nat × Nat × Nat)
  nx : Nat
  xval : Nat
  major : Nat
  d : Nat
  a : Nat
  b : Nat
deriving DecidableEq, Repr

/-- The page a chain selects (R85). -/
def Raw.page (r : Raw) : Nat := (r.pv.map (·.1)).getD 0

/-- The variant a chain selects (R85). -/
def Raw.variant (r : Raw) : Nat := (r.pv.map (·.2)).getD 0

/-- Field d with the high bits of `PFX.G` (R84). -/
def Raw.fd (r : Raw) : Nat := (r.g.map (·.1)).getD 0 * 16 + r.d

/-- Field a with the high bits of `PFX.G` (R84). -/
def Raw.fa (r : Raw) : Nat := (r.g.map (·.2.1)).getD 0 * 16 + r.a

/-- Field b with the high bits of `PFX.G` (R84). -/
def Raw.fb (r : Raw) : Nat := (r.g.map (·.2.2)).getD 0 * 16 + r.b

/-- The form of the chain. -/
def Raw.form (r : Raw) : Form := ⟨r.rep, r.g.isSome, r.nx⟩

/-- The assembled immediate as an unsigned number (R83). -/
def Raw.immU (r : Raw) : WFmt → Nat
  | .R => r.xval
  | .N => r.xval
  | .I => r.xval * 16 + r.b
  | .L => r.xval * 256 + r.a * 16 + r.b
  | .C => r.xval * 256 + r.a * 16 + r.b
  | .J => r.xval * 4096 + r.d * 256 + r.a * 16 + r.b

/-- The assembled immediate as a signed number: its top bit is the sign (R83). -/
def Raw.immS (r : Raw) (f : WFmt) : Int :=
  let w := f.immBits + 10 * r.nx
  if 2 * r.immU f < 2 ^ w then (r.immU f : Int) else (r.immU f : Int) - 2 ^ w

/-- Two's complement of an immediate in `w` bits. -/
def immPattern (w : Nat) : ImmSpec → Nat
  | .none => 0
  | .signed v => (v % (2 ^ w : Int)).toNat
  | .unsigned v _ => v
  | .payload v _ => v

/-- The fields an encoding puts into its words. -/
def Enc.raw (e : Enc) : Raw :=
  let v := immPattern e.immWidth e.imm
  let base : Nat × Nat × Nat × Nat :=
    match e.fmt with
    | .R => (v, e.d.val % 16, e.a.val % 16, e.b.val % 16)
    | .I => (v / 16, e.d.val % 16, e.a.val % 16, v % 16)
    | .L => (v / 256, e.d.val % 16, v / 16 % 16, v % 16)
    | .C => (v / 256, e.d.val % 16, v / 16 % 16, v % 16)
    | .J => (v / 4096, v / 256 % 16, v / 16 % 16, v % 16)
    | .N => (v, 0, 0, 0)
  { rep := e.fm.rep
    pv := if e.page = 0 then none else some (e.page, e.variant)
    g := if e.fm.g then some (e.d.val / 16, e.a.val / 16, e.b.val / 16) else none
    nx := e.fm.nx
    xval := base.1
    major := e.major
    d := base.2.1
    a := base.2.2.1
    b := base.2.2.2 }

/-- A prefix word of a kind with a payload (R81). -/
def prefixWord (kind payload : Nat) : HWord := BitVec.ofNat 16 (0xF000 + kind * 1024 + payload)

/-- The `PFX.X` words of a value, the highest bits first (R83). -/
def xWords : Nat → Nat → List HWord
  | 0, _ => []
  | n + 1, v => xWords n (v / 1024) ++ [prefixWord 0 (v % 1024)]

/-- The words of pulled-apart fields, in the order of R82. -/
def Raw.words (r : Raw) : List HWord :=
  (match r.rep with
   | none => []
   | some q => [prefixWord 3 ((q.n - 1) * 16 + q.mask)]) ++
  (match r.pv with
   | none => []
   | some (p, v) => [prefixWord 2 (p * 16 + v)]) ++
  (match r.g with
   | none => []
   | some (d, a, b) => [prefixWord 1 (d * 64 + a * 8 + b)]) ++
  xWords r.nx r.xval ++
  [BitVec.ofNat 16 (r.major * 4096 + r.d * 256 + r.a * 16 + r.b)]

/-- A prefix word (R81). -/
def isPrefix (w : HWord) : Bool := decide (w.toNat / 4096 = 15)

/-- Kind of a prefix word (R81). -/
def prefixKind (w : HWord) : Nat := w.toNat / 1024 % 4

/-- Payload of a prefix word (R81). -/
def prefixPayload (w : HWord) : Nat := w.toNat % 1024

/-- Takes `PFX.N` off the front. -/
def takeN : List HWord → Option Rep × List HWord
  | w :: ws => if isPrefix w && prefixKind w = 3
      then (some ⟨prefixPayload w / 16 + 1, prefixPayload w % 16⟩, ws) else (none, w :: ws)
  | [] => (none, [])

/-- Takes `PFX.P` off the front. -/
def takeP : List HWord → Option (Nat × Nat) × List HWord
  | w :: ws => if isPrefix w && prefixKind w = 2
      then (some (prefixPayload w / 16, prefixPayload w % 16), ws) else (none, w :: ws)
  | [] => (none, [])

/-- Takes `PFX.G` off the front; its reserved bit stays in the d part. -/
def takeG : List HWord → Option (Nat × Nat × Nat) × List HWord
  | w :: ws => if isPrefix w && prefixKind w = 1
      then (some (prefixPayload w / 64, prefixPayload w / 8 % 8, prefixPayload w % 8), ws)
      else (none, w :: ws)
  | [] => (none, [])

/-- Takes every `PFX.X` off the front, gathering the payload. -/
def takeX (nx xval : Nat) : List HWord → (Nat × Nat) × List HWord
  | w :: ws => if isPrefix w && prefixKind w = 0
      then takeX (nx + 1) (xval * 1024 + prefixPayload w) ws else ((nx, xval), w :: ws)
  | [] => ((nx, xval), [])

/-- Pulls a chain apart, or says why it is none (R82, R88). -/
def parse (ws : List HWord) : Except Reject Raw :=
  let (rep, ws1) := takeN ws
  let (pv, ws2) := takeP ws1
  let (g, ws3) := takeG ws2
  let ((nx, xval), ws4) := takeX 0 0 ws3
  match ws4 with
  | [w] =>
    if isPrefix w then .error .prefixOrder
    else
      .ok ⟨rep, pv, g, nx, xval, w.toNat / 4096, w.toNat / 256 % 16, w.toNat / 16 % 16, w.toNat % 16⟩
  | [] => .error .noBaseWord
  | _ => .error .prefixOrder

/-- Instructions of opcode page 0 (R90). -/
def buildPage0 (r : Raw) : Option Instr :=
  match r.major with
  | 0 => some (.addP0 r.form r.fd r.fa r.fb)
  | 1 => some (.subP0 r.form r.fd r.fa r.fb)
  | 2 => some (.addiP0 r.form r.fd r.fa (r.immS .I))
  | 3 => some (.andiP0 r.form r.fd r.fa (r.immS .I))
  | 4 => some (.shliP0 r.form r.fd r.fa (r.immU .I))
  | 5 => some (.movP0 r.form r.fd r.fa)
  | 6 => some (.liP0 r.form r.fd (r.immS .L))
  | 7 => some (.ldP0 r.form r.fd r.fa (r.immS .I))
  | 8 => some (.stP0 r.form r.fd r.fa (r.immS .I))
  | 9 => some (.fldP0 r.form r.fd r.fa (r.immS .I))
  | 10 => some (.brP0 r.form (r.immS .J))
  | 11 => some (.brcP0 r.form r.fd (r.immS .C))
  | 12 => some (.jalP0 r.form r.fd (r.immS .L))
  | 13 => some (.jalrP0 r.form r.fd r.fa (r.immS .I))
  | _ => none

/-- Instructions of opcode page 1 (R90). -/
def buildPage1 (r : Raw) : Option Instr :=
  match r.major with
  | 0 => (Width.ofCode r.variant).bind fun w => some (.add r.form w r.fd r.fa r.fb)
  | 1 => (Width.ofCode r.variant).bind fun w => some (.sub r.form w r.fd r.fa r.fb)
  | 2 => (Width.ofCode r.variant).bind fun w => some (.mul r.form w r.fd r.fa r.fb)
  | 3 => (Width.ofCode r.variant).bind fun w => some (.mulh r.form w r.fd r.fa r.fb)
  | 4 => (Width.ofCode r.variant).bind fun w => some (.mulhu r.form w r.fd r.fa r.fb)
  | 5 => (Width.ofCode r.variant).bind fun w => some (.div r.form w r.fd r.fa r.fb)
  | 6 => (Width.ofCode r.variant).bind fun w => some (.divu r.form w r.fd r.fa r.fb)
  | 7 => (Width.ofCode r.variant).bind fun w => some (.rem r.form w r.fd r.fa r.fb)
  | 8 => (Width.ofCode r.variant).bind fun w => some (.remu r.form w r.fd r.fa r.fb)
  | 9 => (Width.ofCode r.variant).bind fun w => some (.min r.form w r.fd r.fa r.fb)
  | 10 => (Width.ofCode r.variant).bind fun w => some (.max r.form w r.fd r.fa r.fb)
  | 11 => (Width.ofCode r.variant).bind fun w => some (.minu r.form w r.fd r.fa r.fb)
  | 12 => (Width.ofCode r.variant).bind fun w => some (.maxu r.form w r.fd r.fa r.fb)
  | 13 => (Width.ofCode r.variant).bind fun w => some (.addi r.form w r.fd r.fa (r.immS .I))
  | _ => none

/-- Instructions of opcode page 2 (R90). -/
def buildPage2 (r : Raw) : Option Instr :=
  match r.major with
  | 0 => (Width.ofCode r.variant).bind fun w => some (.and r.form w r.fd r.fa r.fb)
  | 1 => (Width.ofCode r.variant).bind fun w => some (.andi r.form w r.fd r.fa (r.immS .I))
  | 2 => (Width.ofCode r.variant).bind fun w => some (.andn r.form w r.fd r.fa r.fb)
  | 3 => (Width.ofCode r.variant).bind fun w => some (.or r.form w r.fd r.fa r.fb)
  | 4 => (Width.ofCode r.variant).bind fun w => some (.ori r.form w r.fd r.fa (r.immS .I))
  | 5 => (Width.ofCode r.variant).bind fun w => some (.xor r.form w r.fd r.fa r.fb)
  | 6 => (Width.ofCode r.variant).bind fun w => some (.xori r.form w r.fd r.fa (r.immS .I))
  | 7 => (Width.ofCode r.variant).bind fun w => some (.shl r.form w r.fd r.fa r.fb)
  | 8 => (Width.ofCode r.variant).bind fun w => some (.shli r.form w r.fd r.fa (r.immU .I))
  | 9 => (Width.ofCode r.variant).bind fun w => some (.shr r.form w r.fd r.fa r.fb)
  | 10 => (Width.ofCode r.variant).bind fun w => some (.shri r.form w r.fd r.fa (r.immU .I))
  | 11 => (Width.ofCode r.variant).bind fun w => some (.sra r.form w r.fd r.fa r.fb)
  | 12 => (Width.ofCode r.variant).bind fun w => some (.srai r.form w r.fd r.fa (r.immU .I))
  | 13 => (Width.ofCode r.variant).bind fun w => some (.rotr r.form w r.fd r.fa r.fb)
  | _ => none

/-- Instructions of opcode page 3 (R90). -/
def buildPage3 (r : Raw) : Option Instr :=
  match r.major with
  | 0 => (Width.ofCode r.variant).bind fun w => some (.rotri r.form w r.fd r.fa (r.immU .I))
  | 1 => (Width.ofCode r.variant).bind fun w => some (.clz r.form w r.fd r.fa)
  | 2 => (Width.ofCode r.variant).bind fun w => some (.ctz r.form w r.fd r.fa)
  | 3 => (Width.ofCode r.variant).bind fun w => some (.popc r.form w r.fd r.fa)
  | 4 => (Width.ofCode r.variant).bind fun w => some (.rev8 r.form w r.fd r.fa)
  | 5 => (Ex.ofCode r.variant).bind fun x => some (.sext r.form x r.fd r.fa)
  | 6 => (Ex.ofCode r.variant).bind fun x => some (.zext r.form x r.fd r.fa)
  | 7 => (Width.ofCode r.variant).bind fun w => some (.bfx r.form w r.fd r.fa (r.immU .I))
  | 8 => (Width.ofCode r.variant).bind fun w => some (.bfi r.form w r.fd r.fa (r.immU .I))
  | 9 => some (.lea r.form r.fd r.fa (r.immS .I))
  | 10 => some (.li r.form r.fd (r.immS .L))
  | 11 => some (.mov r.form r.fd r.fa)
  | 12 => some (.sel r.form (r.variant) r.fd r.fa r.fb)
  | _ => none

/-- Instructions of opcode page 4 (R90). -/
def buildPage4 (r : Raw) : Option Instr :=
  match r.major with
  | 0 => (Cc.ofCode r.variant).bind fun c => some (.cmp r.form c r.fd r.fa r.fb)
  | 1 => (Cc.ofCode r.variant).bind fun c => some (.cmpi r.form c r.fd r.fa (r.immS .I))
  | 2 => some (.pand r.form r.fd r.fa r.fb)
  | 3 => some (.por r.form r.fd r.fa r.fb)
  | 4 => some (.pxor r.form r.fd r.fa r.fb)
  | 5 => some (.pnot r.form r.fd r.fa)
  | 6 => some (.pmov r.form r.fd r.fa)
  | 7 => some (.br r.form (r.immS .J))
  | 8 => some (.brc r.form r.fd (r.immS .C))
  | 9 => some (.jal r.form r.fd (r.immS .L))
  | 10 => some (.jalr r.form r.fd r.fa (r.immS .I))
  | _ => none

/-- Instructions of opcode page 5 (R90). -/
def buildPage5 (r : Raw) : Option Instr :=
  match r.major with
  | 0 => (Sz.ofCode r.variant).bind fun z => some (.ld r.form z r.fd r.fa (r.immS .I))
  | 1 => (Ex.ofCode r.variant).bind fun z => some (.ldz r.form z r.fd r.fa (r.immS .I))
  | 2 => (Sz.ofCode r.variant).bind fun z => some (.st r.form z r.fd r.fa (r.immS .I))
  | 3 => (Sz.ofCode r.variant).bind fun z => some (.ldx r.form z r.fd r.fa r.fb)
  | 4 => (Sz.ofCode r.variant).bind fun z => some (.stx r.form z r.fd r.fa r.fb)
  | 5 => ((if r.variant < 2 then none else Wd.ofCode (r.variant - 2))).bind fun z => some (.ldp r.form z r.fd r.fa (r.immS .I))
  | 6 => ((if r.variant < 2 then none else Wd.ofCode (r.variant - 2))).bind fun z => some (.stp r.form z r.fd r.fa (r.immS .I))
  | _ => none

/-- Instructions of opcode page 6 (R90). -/
def buildPage6 (r : Raw) : Option Instr :=
  match r.major with
  | 0 => (Scope.ofCode (r.variant / 2)).bind fun sc => (Wd.ofCode (r.variant % 2)).bind fun z => some (.lda r.form sc z r.fd r.fa (r.immS .I))
  | 1 => (Scope.ofCode (r.variant / 2)).bind fun sc => (Wd.ofCode (r.variant % 2)).bind fun z => some (.stl r.form sc z r.fd r.fa (r.immS .I))
  | 2 => ((if r.variant < 1 then none else Fs.ofCode (r.variant - 1))).bind fun z => some (.fld r.form z r.fd r.fa (r.immS .I))
  | 3 => ((if r.variant < 1 then none else Fs.ofCode (r.variant - 1))).bind fun z => some (.fst r.form z r.fd r.fa (r.immS .I))
  | 4 => (Pf.ofCode r.variant).bind fun lv => some (.pref r.form lv r.fa (r.immS .I))
  | 5 => (Sb.ofCode r.variant).bind fun sb => some (.sbst r.form sb r.fd r.fa (r.immS .I))
  | _ => none

/-- Instructions of opcode page 7 (R90). -/
def buildPage7 (r : Raw) : Option Instr :=
  match r.major with
  | 0 => ((if r.variant < 2 then none else Wd.ofCode (r.variant - 2))).bind fun z => some (.ldw r.form z r.fd r.fa (r.immS .I))
  | 1 => some (.chkw r.form (r.immS .J))
  | _ => none

/-- Instructions of opcode page 8 (R90). -/
def buildPage8 (r : Raw) : Option Instr :=
  match r.major with
  | 0 => (Order.ofCode (r.variant / 4)).bind fun o => (Wd.ofCode (r.variant % 4)).bind fun z => (if r.nx = 0 then some .sys else Scope.ofCode r.xval).bind fun sc => some (.amoadd r.form o z sc r.fd r.fa r.fb)
  | 1 => (Order.ofCode (r.variant / 4)).bind fun o => (Wd.ofCode (r.variant % 4)).bind fun z => (if r.nx = 0 then some .sys else Scope.ofCode r.xval).bind fun sc => some (.amoand r.form o z sc r.fd r.fa r.fb)
  | 2 => (Order.ofCode (r.variant / 4)).bind fun o => (Wd.ofCode (r.variant % 4)).bind fun z => (if r.nx = 0 then some .sys else Scope.ofCode r.xval).bind fun sc => some (.amoor r.form o z sc r.fd r.fa r.fb)
  | 3 => (Order.ofCode (r.variant / 4)).bind fun o => (Wd.ofCode (r.variant % 4)).bind fun z => (if r.nx = 0 then some .sys else Scope.ofCode r.xval).bind fun sc => some (.amoxor r.form o z sc r.fd r.fa r.fb)
  | 4 => (Order.ofCode (r.variant / 4)).bind fun o => (Wd.ofCode (r.variant % 4)).bind fun z => (if r.nx = 0 then some .sys else Scope.ofCode r.xval).bind fun sc => some (.amomin r.form o z sc r.fd r.fa r.fb)
  | 5 => (Order.ofCode (r.variant / 4)).bind fun o => (Wd.ofCode (r.variant % 4)).bind fun z => (if r.nx = 0 then some .sys else Scope.ofCode r.xval).bind fun sc => some (.amomax r.form o z sc r.fd r.fa r.fb)
  | 6 => (Order.ofCode (r.variant / 4)).bind fun o => (Wd.ofCode (r.variant % 4)).bind fun z => (if r.nx = 0 then some .sys else Scope.ofCode r.xval).bind fun sc => some (.amominu r.form o z sc r.fd r.fa r.fb)
  | 7 => (Order.ofCode (r.variant / 4)).bind fun o => (Wd.ofCode (r.variant % 4)).bind fun z => (if r.nx = 0 then some .sys else Scope.ofCode r.xval).bind fun sc => some (.amomaxu r.form o z sc r.fd r.fa r.fb)
  | 8 => (Order.ofCode (r.variant / 4)).bind fun o => (Wd.ofCode (r.variant % 4)).bind fun z => (if r.nx = 0 then some .sys else Scope.ofCode r.xval).bind fun sc => some (.amoswap r.form o z sc r.fd r.fa r.fb)
  | 9 => (Order.ofCode (r.variant / 4)).bind fun o => (Wd.ofCode (r.variant % 4)).bind fun z => (if r.nx = 0 then some .sys else Scope.ofCode r.xval).bind fun sc => some (.amocas r.form o z sc r.fd r.fa r.fb)
  | 10 => (Order.ofCode (r.variant / 4)).bind fun o => (Wd.ofCode (r.variant % 4)).bind fun z => (if r.nx = 0 then some .sys else Scope.ofCode r.xval).bind fun sc => some (.amofadd r.form o z sc r.fd r.fa r.fb)
  | _ => none

/-- Instructions of opcode page 9 (R90). -/
def buildPage9 (r : Raw) : Option Instr :=
  match r.major with
  | 0 => (Fk.ofCode r.variant).bind fun k => (Scope.ofCode (r.immU .I)).bind fun sc => some (.fence r.form k sc)
  | 1 => some (.waitne r.form r.fd r.fa r.fb)
  | 2 => some (.yield r.form)
  | 3 => some (.tspawn r.form r.fd r.fa)
  | 4 => some (.texit r.form)
  | 5 => some (.tbar r.form (r.immU .I))
  | 6 => some (.tinfo r.form r.fd)
  | 7 => some (.gtidrd r.form r.fd)
  | 8 => some (.rdcyc r.form r.fd)
  | 9 => some (.rdtime r.form r.fd)
  | _ => none

/-- Instructions of opcode page 10 (R90). -/
def buildPage10 (r : Raw) : Option Instr :=
  match r.major with
  | 0 => (Fmt.ofCode r.variant).bind fun f => (if r.xval < 16 then some r.xval else none).bind fun rx => some (.fadd r.form f rx r.fd r.fa r.fb)
  | 1 => (Fmt.ofCode r.variant).bind fun f => (if r.xval < 16 then some r.xval else none).bind fun rx => some (.fsub r.form f rx r.fd r.fa r.fb)
  | 2 => (Fmt.ofCode r.variant).bind fun f => (if r.xval < 16 then some r.xval else none).bind fun rx => some (.fmul r.form f rx r.fd r.fa r.fb)
  | 3 => (Fmt.ofCode r.variant).bind fun f => (if r.xval < 16 then some r.xval else none).bind fun rx => some (.fdiv r.form f rx r.fd r.fa r.fb)
  | 4 => (Fmt.ofCode r.variant).bind fun f => (if r.xval < 16 then some r.xval else none).bind fun rx => some (.fsqrt r.form f rx r.fd r.fa)
  | 5 => (Fmt.ofCode r.variant).bind fun f => (if r.xval < 16 then some r.xval else none).bind fun rx => some (.fma r.form f rx r.fd r.fa r.fb)
  | 6 => (Fmt.ofCode r.variant).bind fun f => (if r.xval < 16 then some r.xval else none).bind fun rx => some (.fms r.form f rx r.fd r.fa r.fb)
  | 7 => (Fmt.ofCode r.variant).bind fun f => (if r.xval < 16 then some r.xval else none).bind fun rx => some (.fnma r.form f rx r.fd r.fa r.fb)
  | 8 => (Fmt.ofCode r.variant).bind fun f => (if r.xval < 16 then some r.xval else none).bind fun rx => some (.fmin r.form f rx r.fd r.fa r.fb)
  | 9 => (Fmt.ofCode r.variant).bind fun f => (if r.xval < 16 then some r.xval else none).bind fun rx => some (.fmax r.form f rx r.fd r.fa r.fb)
  | 10 => (Fmt.ofCode r.variant).bind fun f => (if r.xval < 16 then some r.xval else none).bind fun rx => some (.fabs r.form f rx r.fd r.fa)
  | 11 => (Fmt.ofCode r.variant).bind fun f => (if r.xval < 16 then some r.xval else none).bind fun rx => some (.fneg r.form f rx r.fd r.fa)
  | 12 => (Fmt.ofCode r.variant).bind fun f => (if r.xval < 16 then some r.xval else none).bind fun rx => some (.fsgnj r.form f rx r.fd r.fa r.fb)
  | _ => none

/-- Instructions of opcode page 11 (R90). -/
def buildPage11 (r : Raw) : Option Instr :=
  match r.major with
  | 0 => (Fcc.ofCode (r.variant / 4)).bind fun c => (Fmt.ofCode (r.variant % 4)).bind fun f => (if r.xval < 16 then some r.xval else none).bind fun rx => some (.fcmp r.form c f rx r.fd r.fa r.fb)
  | 1 => (Fmt.ofCode r.variant).bind fun f => (if r.xval < 16 then some r.xval else none).bind fun rx => some (.fclass r.form f rx r.fd r.fa)
  | 2 => (Fmt.ofCode (r.variant / 4)).bind fun df => (Fmt.ofCode (r.variant % 4)).bind fun sf => (if r.xval < 16 then some r.xval else none).bind fun rx => some (.fcvt r.form df sf rx r.fd r.fa)
  | 3 => (IW.ofCode (r.variant / 4)).bind fun iw => (Fmt.ofCode (r.variant % 4)).bind fun f => (if r.xval < 16 then some r.xval else none).bind fun rx => some (.fcvti r.form iw f rx r.fd r.fa)
  | 4 => (IW.ofCode (r.variant / 4)).bind fun iw => (Fmt.ofCode (r.variant % 4)).bind fun f => (if r.xval < 16 then some r.xval else none).bind fun rx => some (.icvtf r.form iw f rx r.fd r.fa)
  | 5 => some (.fmvg r.form r.fd r.fa)
  | 6 => some (.gmvf r.form r.fd r.fa)
  | _ => none

/-- Instructions of opcode page 12 (R90). -/
def buildPage12 (r : Raw) : Option Instr :=
  match r.major with
  | 0 => (Fmt.ofCode r.variant).bind fun f => (if r.xval < 16 then some r.xval else none).bind fun rx => some (.frcpa r.form f rx r.fd r.fa)
  | 1 => (Fmt.ofCode r.variant).bind fun f => (if r.xval < 16 then some r.xval else none).bind fun rx => some (.frsqa r.form f rx r.fd r.fa)
  | _ => none

/-- Instructions of opcode page 16 (R90). -/
def buildPage16 (r : Raw) : Option Instr :=
  match r.major with
  | 0 => some (.vwin r.form r.fd r.fa)
  | 1 => some (.vadd r.form ((decide (r.variant / 8 = 1))) ((r.variant % 8)) r.fd r.fa r.fb)
  | 2 => some (.vsub r.form ((decide (r.variant / 8 = 1))) ((r.variant % 8)) r.fd r.fa r.fb)
  | 3 => some (.vmul r.form ((decide (r.variant / 8 = 1))) ((r.variant % 8)) r.fd r.fa r.fb)
  | 4 => some (.vfma r.form ((decide (r.variant / 8 = 1))) ((r.variant % 8)) r.fd r.fa r.fb)
  | 5 => some (.vfms r.form ((decide (r.variant / 8 = 1))) ((r.variant % 8)) r.fd r.fa r.fb)
  | 6 => some (.vmin r.form ((decide (r.variant / 8 = 1))) ((r.variant % 8)) r.fd r.fa r.fb)
  | 7 => some (.vmax r.form ((decide (r.variant / 8 = 1))) ((r.variant % 8)) r.fd r.fa r.fb)
  | 8 => some (.vabs r.form ((decide (r.variant / 8 = 1))) ((r.variant % 8)) r.fd r.fa)
  | 9 => some (.vneg r.form ((decide (r.variant / 8 = 1))) ((r.variant % 8)) r.fd r.fa)
  | _ => none

/-- Instructions of opcode page 17 (R90). -/
def buildPage17 (r : Raw) : Option Instr :=
  match r.major with
  | 0 => some (.vand r.form ((decide (r.variant / 8 = 1))) ((r.variant % 8)) r.fd r.fa r.fb)
  | 1 => some (.vor r.form ((decide (r.variant / 8 = 1))) ((r.variant % 8)) r.fd r.fa r.fb)
  | 2 => some (.vxor r.form ((decide (r.variant / 8 = 1))) ((r.variant % 8)) r.fd r.fa r.fb)
  | 3 => some (.vshl r.form ((decide (r.variant / 8 = 1))) ((r.variant % 8)) r.fd r.fa r.fb)
  | 4 => some (.vshr r.form ((decide (r.variant / 8 = 1))) ((r.variant % 8)) r.fd r.fa r.fb)
  | 5 => (Tag.ofCode (r.variant % 8)).bind fun tg => some (.vcvt r.form ((decide (r.variant / 8 = 1))) tg r.fd r.fa r.fb)
  | _ => none

/-- Instructions of opcode page 18 (R90). -/
def buildPage18 (r : Raw) : Option Instr :=
  match r.major with
  | 0 => some (.vbcast r.form ((decide (r.variant / 8 = 1))) ((r.variant % 8)) r.fd r.fa r.fb)
  | 1 => some (.vbcl r.form ((decide (r.variant / 8 = 1))) ((r.variant % 8)) r.fd r.fa r.fb)
  | 2 => some (.vperm r.form ((decide (r.variant / 8 = 1))) ((r.variant % 8)) r.fd r.fa r.fb)
  | 3 => some (.vrot r.form ((decide (r.variant / 8 = 1))) ((r.variant % 8)) r.fd r.fa r.fb)
  | _ => none

/-- Instructions of opcode page 19 (R90). -/
def buildPage19 (r : Raw) : Option Instr :=
  match r.major with
  | 0 => (Rop.ofCode r.variant).bind fun op => some (.vred r.form op r.fd r.fa r.fb)
  | 1 => (Rop.ofCode (r.variant % 8)).bind fun op => some (.vscan r.form ((decide (r.variant / 8 = 1))) op r.fd r.fa r.fb)
  | _ => none

/-- Instructions of opcode page 20 (R90). -/
def buildPage20 (r : Raw) : Option Instr :=
  match r.major with
  | 0 => (Vcc.ofCode (r.variant % 8)).bind fun c => some (.vcmp r.form ((decide (r.variant / 8 = 1))) c r.fd r.fa r.fb)
  | 1 => some (.vmerge r.form ((decide (r.variant / 8 = 1))) ((r.variant % 8)) r.fd r.fa r.fb)
  | 2 => (Mop.ofCode r.variant).bind fun op => some (.vmlog r.form op r.fd r.fa r.fb)
  | 3 => some (.vmpopc r.form r.fd r.fa)
  | _ => none

/-- Instructions of opcode page 21 (R90). -/
def buildPage21 (r : Raw) : Option Instr :=
  match r.major with
  | 0 => some (.vrcpa r.form ((decide (r.variant / 8 = 1))) ((r.variant % 8)) r.fd r.fa)
  | 1 => some (.vrsqa r.form ((decide (r.variant / 8 = 1))) ((r.variant % 8)) r.fd r.fa)
  | 2 => some (.vexp2a r.form ((decide (r.variant / 8 = 1))) ((r.variant % 8)) r.fd r.fa)
  | 3 => some (.vlog2a r.form ((decide (r.variant / 8 = 1))) ((r.variant % 8)) r.fd r.fa)
  | _ => none

/-- Instructions of opcode page 22 (R90). -/
def buildPage22 (r : Raw) : Option Instr :=
  match r.major with
  | 0 => some (.vld r.form ((decide (r.variant / 8 = 1))) ((r.variant % 8)) r.fd r.fa (r.immS .I))
  | 1 => some (.vst r.form ((decide (r.variant / 8 = 1))) ((r.variant % 8)) r.fd r.fa (r.immS .I))
  | 2 => some (.vlds r.form ((decide (r.variant / 8 = 1))) ((r.variant % 8)) r.fd r.fa r.fb)
  | 3 => some (.vsts r.form ((decide (r.variant / 8 = 1))) ((r.variant % 8)) r.fd r.fa r.fb)
  | 4 => some (.vgath r.form ((decide (r.variant / 8 = 1))) ((r.variant % 8)) r.fd r.fa r.fb)
  | 5 => some (.vscat r.form ((decide (r.variant / 8 = 1))) ((r.variant % 8)) r.fd r.fa r.fb)
  | _ => none

/-- Instructions of opcode page 23 (R90). -/
def buildPage23 (r : Raw) : Option Instr :=
  match r.major with
  | 0 => some (.vmovg r.form ((decide (r.variant / 8 = 1))) ((r.variant % 8)) r.fd r.fa r.fb)
  | 1 => some (.vmovf r.form ((decide (r.variant / 8 = 1))) ((r.variant % 8)) r.fd r.fa r.fb)
  | 2 => some (.vmov r.form ((decide (r.variant / 8 = 1))) ((r.variant % 8)) r.fd r.fa)
  | _ => none

/-- Instructions of opcode page 24 (R90). -/
def buildPage24 (r : Raw) : Option Instr :=
  match r.major with
  | 0 => (Pair.ofCode r.variant).bind fun pr => some (.tmma r.form pr ((decide (r.xval / 256 % 2 = 1))) ((r.xval / 64 % 4 + 1)) ((r.xval % 64)) r.fd r.fa r.fb)
  | 1 => (if r.variant < 2 then some (decide (r.variant = 1)) else none).bind fun b0 => some (.tld r.form b0 ((64 - r.xval % 64)) ((128 - 8 * (r.xval / 64 % 16))) r.fd r.fa r.fb)
  | 2 => (if r.variant < 8 then some (decide (r.variant / 4 = 1)) else none).bind fun b0 => (SxK.ofCode (r.variant % 4)).bind fun sx => (if r.xval < 64 then some (64 - r.xval) else none).bind fun rows => some (.tlds r.form b0 sx rows r.fd r.fa r.fb)
  | 3 => some (.tsto r.form ((64 - r.xval % 64)) ((128 - 8 * (r.xval / 64 % 16))) r.fd r.fa r.fb)
  | 4 => (ZeroKind.ofCode r.variant).bind fun tgt => some (.tzero r.form tgt r.fd)
  | 5 => (MovKind.ofCode r.variant).bind fun mk => some (.tmov r.form mk r.fd r.fa)
  | 6 => some (.tgang r.form (r.immU .I))
  | 7 => (OFmt.ofCode r.variant).bind fun o => some (.tdrain r.form o ((decide (r.xval / 64 % 2 = 1))) ((r.xval % 64)) r.fd r.fa r.fb)
  | 8 => (OFmt.ofCode r.variant).bind fun o => (OFmt.ofCode (r.xval / 128 % 16)).bind fun o2 => some (.tdraint r.form o o2 ((decide (r.xval / 64 % 2 = 1))) ((r.xval % 64)) ((r.xval / 2048 % 64)) r.fd r.fa r.fb)
  | 9 => (if r.variant < 2 then some (decide (r.variant = 1)) else none).bind fun acc => some (.tfree r.form acc r.fd r.fa)
  | 10 => some (.tsync r.form)
  | 11 => if r.immU .I = 0 then some (.tctlSeed r.form r.fd) else if r.immU .I = 1 then some (.tctlRd r.form r.fd) else if r.immU .I = 2 then some (.tctlClr r.form) else none
  | 12 =>
      if r.variant = 0 then some (.tqryRows r.form r.fd r.fa) else
      if r.variant = 1 then some (.tqryAcc r.form r.fd r.fa) else
      if r.variant = 2 then some (.tqryCell r.form r.fd r.fa) else
      if r.variant = 3 then some (.tqryFree r.form r.fd) else
      if r.variant = 4 then some (.tqryGang r.form r.fd) else
      if r.variant = 5 then some (.tqryCorr r.form r.fd) else
      if r.variant = 6 then some (.tqryUnck r.form r.fd) else
      none
  | _ => none

/-- Instructions of opcode page 25 (R90). -/
def buildPage25 (r : Raw) : Option Instr :=
  match r.major with
  | 0 => (Pair.ofCode r.variant).bind fun pr => some (.tmmaChained r.form pr ((decide (r.xval / 256 % 2 = 1))) ((r.xval / 64 % 4 + 1)) ((r.xval % 64)) r.fd r.fa r.fb)
  | _ => none

/-- Instructions of opcode page 28 (R90). -/
def buildPage28 (r : Raw) : Option Instr :=
  match r.major with
  | 0 => some (.xcopy r.form r.fd r.fa)
  | 1 => some (.xcopy2 r.form r.fd r.fa)
  | 2 => some (.xgath r.form r.fd r.fa)
  | 3 => some (.xscat r.form r.fd r.fa)
  | 4 => some (.xfill r.form r.fd r.fa)
  | 5 => (if r.variant < 2 then some (decide (r.variant = 1)) else none).bind fun llc => some (.xwarm r.form llc r.fd r.fa)
  | 6 =>
      if r.variant = 0 then some (.xcollAr r.form r.fd r.fa) else
      if r.variant = 1 then some (.xcollAg r.form r.fd r.fa) else
      if r.variant = 2 then some (.xcollRs r.form r.fd r.fa) else
      if r.variant = 3 then some (.xcollBc r.form r.fd r.fa) else
      none
  | 7 => (Mc.ofCode r.variant).bind fun mc => some (.xdrain r.form mc)
  | 8 => some (.xcancel r.form r.fd r.fa)
  | _ => none

/-- Instructions of opcode page 48 (R90). -/
def buildPage48 (r : Raw) : Option Instr :=
  match r.major with
  | 0 => some (.svc r.form (r.immU .I))
  | 1 => some (.hvc r.form (r.immU .I))
  | 2 => some (.mvc r.form (r.immU .I))
  | 3 => some (.tret r.form)
  | 4 => some (.srd r.form r.fd (r.immU .I))
  | 5 => some (.swr r.form r.fa (r.immU .I))
  | 6 => some (.sset r.form r.fd r.fa (r.immU .I))
  | 7 => some (.sclr r.form r.fd r.fa (r.immU .I))
  | _ => none

/-- Instructions of opcode page 49 (R90). -/
def buildPage49 (r : Raw) : Option Instr :=
  match r.major with
  | 0 => some (.tlbinv r.form r.fa r.fb)
  | 1 => some (.tlbsync r.form)
  | 2 => some (.cflush r.form r.fa (r.immS .I))
  | 3 => some (.cinv r.form r.fa (r.immS .I))
  | 4 => some (.cwb r.form r.fa (r.immS .I))
  | 5 => some (.wfi r.form)
  | 6 => some (.halt r.form)
  | _ => none

/-- Instructions of opcode page 50 (R90). -/
def buildPage50 (r : Raw) : Option Instr :=
  match r.major with
  | 0 => some (.ctxsw r.form)
  | 1 => some (.ctxld r.form r.fd r.fa)
  | 2 => some (.ctxsp r.form r.fd r.fa)
  | 3 => some (.wpins r.form r.fa r.fb)
  | 4 => some (.wpclr r.form)
  | 5 => some (.bkpt r.form (r.immU .I))
  | 6 => some (.dump r.form r.fd r.fa r.fb)
  | 7 => some (.pgmig r.form r.fd r.fa r.fb)
  | 8 => some (.pgcmp r.form r.fd r.fa)
  | _ => none

/-- The instruction a page and major name, with its fields as they stand (R90, R91). -/
def build (r : Raw) : Option Instr :=
  match r.page with
  | 0 => buildPage0 r
  | 1 => buildPage1 r
  | 2 => buildPage2 r
  | 3 => buildPage3 r
  | 4 => buildPage4 r
  | 5 => buildPage5 r
  | 6 => buildPage6 r
  | 7 => buildPage7 r
  | 8 => buildPage8 r
  | 9 => buildPage9 r
  | 10 => buildPage10 r
  | 11 => buildPage11 r
  | 12 => buildPage12 r
  | 16 => buildPage16 r
  | 17 => buildPage17 r
  | 18 => buildPage18 r
  | 19 => buildPage19 r
  | 20 => buildPage20 r
  | 21 => buildPage21 r
  | 22 => buildPage22 r
  | 23 => buildPage23 r
  | 24 => buildPage24 r
  | 25 => buildPage25 r
  | 28 => buildPage28 r
  | 48 => buildPage48 r
  | 49 => buildPage49 r
  | 50 => buildPage50 r
  | _ => none

/-- The fields an instruction encodes to. -/
def Instr.raw (i : Instr) : Option Raw := i.enc.map Enc.raw

/-- Checks of R88 item 2 on pulled-apart fields, in its order, and the instruction that passes. An
instruction is accepted only if encoding it gives the same fields back, so no bit is dropped. -/
def decodeRaw (r : Raw) : Except Reject Instr :=
  if r.major = 14 then .error .majorE
  else if r.pv.isSome && r.page = 0 then .error .pageZero
  else
    match build r with
    | none => .error .unassigned
    | some i =>
      if i.raw = some r then (if i.wellFormed then .ok i else .error .illFormed) else .error .reserved

/-- The instruction a chain of words encodes, or the named reason it is none. -/
def decode (ws : List HWord) : Except Reject Instr :=
  match parse ws with
  | .error e => .error e
  | .ok r => decodeRaw r

/-- The words of an instruction, from the same tables; none for a row without bits. -/
def encode (i : Instr) : List HWord :=
  match i.raw with
  | some r => r.words
  | none => []

/-- Words a fetch takes for one chain: up to the first word that is no prefix, and at most five (R82). -/
def chainOf : Nat → List HWord → List HWord
  | 0, _ => []
  | _ + 1, [] => []
  | n + 1, w :: ws => if isPrefix w then w :: chainOf n ws else [w]

/-- The instruction at the front of a stream of words. -/
def decodeStream (ws : List HWord) : Except Reject Instr := decode (chainOf 5 ws)

/-- The halfwords of a number whose bit 0 is the lowest bit of the first word, `n` of them. -/
def wordsOfNat : Nat → Nat → List HWord
  | 0, _ => []
  | n + 1, w => BitVec.ofNat 16 w :: wordsOfNat n (w / 65536)

/-- The words the opcode table's numbering lays out: the row's own words and zeros after them, up to the
longest instruction. -/
def tableWords (nbits w : Nat) : List HWord := wordsOfNat 5 (w % 2 ^ nbits)

/-- The instruction this decoder reads from a row of the opcode table. -/
def decodeTableWord (nbits w : Nat) : Option Instr :=
  match decodeStream (tableWords nbits w) with
  | .ok i => some i
  | .error _ => none

/-- The two little-endian bytes of a halfword (R2). -/
def hwordBytes (w : HWord) : List Byte := [w.extractLsb' 0 8, w.extractLsb' 8 8]

/-- The halfword two bytes make (R2). -/
def hwordOf (lo hi : Byte) : HWord := hi ++ lo

/-- Halfwords of a run of bytes; an odd last byte is dropped. -/
def hwordsOf : List Byte → List HWord
  | lo :: hi :: bs => hwordOf lo hi :: hwordsOf bs
  | _ => []

/-- The instruction a run of bytes begins with: total on any bytes. -/
def decodeBytes (bs : List Byte) : Except Reject Instr := decodeStream (hwordsOf bs)

end Sys2Proof
end

