-- ==== Sys2Proof/Machine/Portable.lean ====
section
/-! DEFINITION. The translation of a code frame from portable to native form (R92 to R96). -/

namespace Sys2Proof.Machine

/-- Base-word format and signedness of the immediate of each assigned page and major (R90, R98). An unassigned
one is laid out as three register fields, so that the native word is the illegal one it stands for. An immediate is taken as unsigned where the instruction declares
none. DESIGN CHOICE, log 88. -/
def portableFormat (page major : Nat) : WFmt × Bool :=
  match page, major with
  | 0, 0 => (.R, false)
  | 0, 1 => (.R, false)
  | 0, 2 => (.I, true)
  | 0, 3 => (.I, true)
  | 0, 4 => (.I, false)
  | 0, 5 => (.R, false)
  | 0, 6 => (.L, true)
  | 0, 7 => (.I, true)
  | 0, 8 => (.I, true)
  | 0, 9 => (.I, true)
  | 0, 10 => (.J, true)
  | 0, 11 => (.C, true)
  | 0, 12 => (.L, true)
  | 0, 13 => (.I, true)
  | 1, 0 => (.R, false)
  | 1, 1 => (.R, false)
  | 1, 2 => (.R, false)
  | 1, 3 => (.R, false)
  | 1, 4 => (.R, false)
  | 1, 5 => (.R, false)
  | 1, 6 => (.R, false)
  | 1, 7 => (.R, false)
  | 1, 8 => (.R, false)
  | 1, 9 => (.R, false)
  | 1, 10 => (.R, false)
  | 1, 11 => (.R, false)
  | 1, 12 => (.R, false)
  | 1, 13 => (.I, true)
  | 2, 0 => (.R, false)
  | 2, 1 => (.I, true)
  | 2, 2 => (.R, false)
  | 2, 3 => (.R, false)
  | 2, 4 => (.I, true)
  | 2, 5 => (.R, false)
  | 2, 6 => (.I, true)
  | 2, 7 => (.R, false)
  | 2, 8 => (.I, false)
  | 2, 9 => (.R, false)
  | 2, 10 => (.I, false)
  | 2, 11 => (.R, false)
  | 2, 12 => (.I, false)
  | 2, 13 => (.R, false)
  | 3, 0 => (.I, false)
  | 3, 1 => (.R, false)
  | 3, 2 => (.R, false)
  | 3, 3 => (.R, false)
  | 3, 4 => (.R, false)
  | 3, 5 => (.R, false)
  | 3, 6 => (.R, false)
  | 3, 7 => (.I, false)
  | 3, 8 => (.I, false)
  | 3, 9 => (.I, true)
  | 3, 10 => (.L, true)
  | 3, 11 => (.R, false)
  | 3, 12 => (.R, false)
  | 4, 0 => (.R, false)
  | 4, 1 => (.I, true)
  | 4, 2 => (.R, false)
  | 4, 3 => (.R, false)
  | 4, 4 => (.R, false)
  | 4, 5 => (.R, false)
  | 4, 6 => (.R, false)
  | 4, 7 => (.J, true)
  | 4, 8 => (.C, true)
  | 4, 9 => (.L, true)
  | 4, 10 => (.I, true)
  | 5, 0 => (.I, true)
  | 5, 1 => (.I, true)
  | 5, 2 => (.I, true)
  | 5, 3 => (.R, false)
  | 5, 4 => (.R, false)
  | 5, 5 => (.I, true)
  | 5, 6 => (.I, true)
  | 6, 0 => (.I, true)
  | 6, 1 => (.I, true)
  | 6, 2 => (.I, true)
  | 6, 3 => (.I, true)
  | 6, 4 => (.I, true)
  | 6, 5 => (.I, true)
  | 7, 0 => (.I, true)
  | 7, 1 => (.J, true)
  | 8, 0 => (.R, false)
  | 8, 1 => (.R, false)
  | 8, 2 => (.R, false)
  | 8, 3 => (.R, false)
  | 8, 4 => (.R, false)
  | 8, 5 => (.R, false)
  | 8, 6 => (.R, false)
  | 8, 7 => (.R, false)
  | 8, 8 => (.R, false)
  | 8, 9 => (.R, false)
  | 8, 10 => (.R, false)
  | 9, 0 => (.I, false)
  | 9, 1 => (.R, false)
  | 9, 2 => (.N, false)
  | 9, 3 => (.R, false)
  | 9, 4 => (.N, false)
  | 9, 5 => (.I, false)
  | 9, 6 => (.R, false)
  | 9, 7 => (.R, false)
  | 9, 8 => (.R, false)
  | 9, 9 => (.R, false)
  | 10, 0 => (.R, false)
  | 10, 1 => (.R, false)
  | 10, 2 => (.R, false)
  | 10, 3 => (.R, false)
  | 10, 4 => (.R, false)
  | 10, 5 => (.R, false)
  | 10, 6 => (.R, false)
  | 10, 7 => (.R, false)
  | 10, 8 => (.R, false)
  | 10, 9 => (.R, false)
  | 10, 10 => (.R, false)
  | 10, 11 => (.R, false)
  | 10, 12 => (.R, false)
  | 11, 0 => (.R, false)
  | 11, 1 => (.R, false)
  | 11, 2 => (.R, false)
  | 11, 3 => (.R, false)
  | 11, 4 => (.R, false)
  | 11, 5 => (.R, false)
  | 11, 6 => (.R, false)
  | 12, 0 => (.R, false)
  | 12, 1 => (.R, false)
  | 16, 0 => (.R, false)
  | 16, 1 => (.R, false)
  | 16, 2 => (.R, false)
  | 16, 3 => (.R, false)
  | 16, 4 => (.R, false)
  | 16, 5 => (.R, false)
  | 16, 6 => (.R, false)
  | 16, 7 => (.R, false)
  | 16, 8 => (.R, false)
  | 16, 9 => (.R, false)
  | 17, 0 => (.R, false)
  | 17, 1 => (.R, false)
  | 17, 2 => (.R, false)
  | 17, 3 => (.R, false)
  | 17, 4 => (.R, false)
  | 17, 5 => (.R, false)
  | 18, 0 => (.R, false)
  | 18, 1 => (.R, false)
  | 18, 2 => (.R, false)
  | 18, 3 => (.R, false)
  | 19, 0 => (.R, false)
  | 19, 1 => (.R, false)
  | 20, 0 => (.R, false)
  | 20, 1 => (.R, false)
  | 20, 2 => (.R, false)
  | 20, 3 => (.R, false)
  | 21, 0 => (.R, false)
  | 21, 1 => (.R, false)
  | 21, 2 => (.R, false)
  | 21, 3 => (.R, false)
  | 22, 0 => (.I, true)
  | 22, 1 => (.I, true)
  | 22, 2 => (.R, false)
  | 22, 3 => (.R, false)
  | 22, 4 => (.R, false)
  | 22, 5 => (.R, false)
  | 23, 0 => (.R, false)
  | 23, 1 => (.R, false)
  | 23, 2 => (.R, false)
  | 24, 0 => (.R, false)
  | 25, 0 => (.R, false)
  | 24, 1 => (.R, false)
  | 24, 2 => (.R, false)
  | 24, 3 => (.R, false)
  | 24, 4 => (.R, false)
  | 24, 5 => (.R, false)
  | 24, 6 => (.I, false)
  | 24, 7 => (.R, false)
  | 24, 8 => (.R, false)
  | 24, 9 => (.R, false)
  | 24, 10 => (.N, false)
  | 24, 11 => (.I, false)
  | 24, 12 => (.R, false)
  | 28, 0 => (.R, false)
  | 28, 1 => (.R, false)
  | 28, 2 => (.R, false)
  | 28, 3 => (.R, false)
  | 28, 4 => (.R, false)
  | 28, 5 => (.R, false)
  | 28, 6 => (.R, false)
  | 28, 7 => (.N, false)
  | 28, 8 => (.R, false)
  | 48, 0 => (.I, false)
  | 48, 1 => (.I, false)
  | 48, 2 => (.I, false)
  | 48, 3 => (.N, false)
  | 48, 4 => (.I, false)
  | 48, 5 => (.I, false)
  | 48, 6 => (.I, false)
  | 48, 7 => (.I, false)
  | 49, 0 => (.R, false)
  | 49, 1 => (.N, false)
  | 49, 2 => (.I, true)
  | 49, 3 => (.I, true)
  | 49, 4 => (.I, true)
  | 49, 5 => (.N, false)
  | 49, 6 => (.N, false)
  | 50, 0 => (.N, false)
  | 50, 1 => (.R, false)
  | 50, 2 => (.R, false)
  | 50, 3 => (.R, false)
  | 50, 4 => (.N, false)
  | 50, 5 => (.I, false)
  | 50, 6 => (.R, false)
  | 50, 7 => (.R, false)
  | 50, 8 => (.R, false)
  | _, _ => (.R, false)

/-- Class AM: the immediate is the scope code, and sys needs no `PFX.X` (R94). -/
def isAtomicClass (page major : Nat) : Bool := decide (page = 8 ∧ major ≤ 10)

/-- A value fits an immediate of `w` bits. -/
def immFits (signed : Bool) (w : Nat) (v : Int) : Bool :=
  if signed then decide (-(2 ^ w : Int) ≤ 2 * v ∧ 2 * v < 2 ^ w) else decide (0 ≤ v ∧ v < 2 ^ w)

/-- Fewest `PFX.X` words, up to `fuel`, at which every listed value fits above `base` bits (R94). -/
def fewestX (signed : Bool) (base : Nat) (vs : List Int) : Nat → Nat → Option Nat
  | 0, _ => none
  | fuel + 1, n =>
    if vs.all (immFits signed (base + 10 * n)) then some n else fewestX signed base vs fuel (n + 1)

/-- The native words of a portable instruction with a 64-bit immediate, or nothing where R95 makes the slot
illegal. `slot` is the number of halfwords the slot holds. A register field that lies where the format holds its
immediate leaves its high bits in `PFX.G` (R95). DEDUCED, log 20. -/
def nativeWords (w : Nat) (imm : Nat) (slot : Nat) : Option (List HWord) :=
  let page := w / 2 ^ 58 % 64
  let major := w / 2 ^ 54 % 16
  let variant := w / 2 ^ 50 % 16
  let rep : Nat := w / 2 ^ 44 % 64
  let step := w / 2 ^ 40 % 16
  let d := w / 2 ^ 33 % 128
  let a := w / 2 ^ 26 % 128
  let b := w / 2 ^ 19 % 128
  let (fmt, signed) := portableFormat page major
  let v : Int := if signed ∧ imm ≥ 2 ^ 63 then (imm : Int) - 2 ^ 64 else imm
  let vs := if step % 2 = 1 then [v, v + (rep : Int)] else [v]
  let base := fmt.immBits
  let nx := if isAtomicClass page major ∧ imm = 4 then some 0
    else if isAtomicClass page major ∧ imm < 1024 then some 1
    else fewestX signed base vs 7 0
  if major ≥ 14 || (decide (page = 0) && decide (variant ≠ 0)) then none
  else
    match nx with
    | none => none
    | some n =>
      let wide := base + 10 * n
      let pat := if isAtomicClass page major ∧ imm = 4 then 0 else (v % (2 ^ wide : Int)).toNat
      let lo := pat % 2 ^ base
      let r : Raw :=
        { rep := if rep = 0 ∧ step = 0 then none else some ⟨rep + 1, step⟩
          pv := if page = 0 then none else some (page, variant)
          g := if d > 15 ∨ a > 15 ∨ b > 15 then some (d / 16, a / 16, b / 16) else none
          nx := n
          xval := pat / 2 ^ base
          major := major
          d := if fmt = .J then lo / 256 % 16 else d % 16
          a := if fmt = .L ∨ fmt = .C ∨ fmt = .J then lo / 16 % 16 else a % 16
          b := if fmt = .R ∨ fmt = .N then b % 16 else lo % 16 }
      let ws := r.words
      if ws.length > 5 ∨ ws.length > slot then none else some ws

/-- The native slot of `n` halfwords: filler 0x0000, then the words, the base word last; 0xE000 alone where
there are none (R94, R95). DEDUCED, log 20. -/
def nativeSlot (n : Nat) (ws : Option (List HWord)) : List HWord :=
  let l := ws.getD [0xE000]
  List.replicate (n - l.length) 0 ++ l

/-- A continuation word (R93). -/
def isContinuation (w : Nat) : Bool :=
  decide (w / 2 ^ 58 % 64 = 63 ∧ w / 2 ^ 54 % 16 = 15 ∧ w / 2 ^ 45 % 512 = 0)

/-- Native halfwords of the portable words of a frame (R94, R95). A continuation at offset 0 of the frame, or
after no instruction word, is illegal; so is one after a word of major 15, and each of the two makes a slot of its own.
DESIGN CHOICE, log 108. -/
def nativeOf : List Nat → List HWord
  | [] => []
  | [w] => nativeSlot 4 (nativeWords w (extendImm w) 4)
  | w :: c :: ws =>
    if isContinuation c && decide (w / 2 ^ 54 % 16 < 15) then
      nativeSlot 8 (nativeWords w (c % 2 ^ 45 * 2 ^ 19 + w % 2 ^ 19) 8) ++ nativeOf ws
    else nativeSlot 4 (nativeWords w (extendImm w) 4) ++ nativeOf (c :: ws)
where
  /-- The immediate of a portable word without a continuation, sign-extended to 64 bits (R92). -/
  extendImm (w : Nat) : Nat :=
    let i := w % 2 ^ 19
    if i < 2 ^ 18 then i else i + 2 ^ 64 - 2 ^ 19

/-- The 64-bit words of a run of bytes. -/
def dwordsOf : Nat → List Byte → List Nat
  | 0, _ => []
  | n + 1, bs => natOfBytes (bs.take 8) :: dwordsOf n (bs.drop 8)

/-- The native bytes of a frame of 4,096 bytes (R96). -/
def translateFrame (bs : List Byte) : List Byte :=
  (nativeOf (dwordsOf 512 bs)).flatMap hwordBytes

end Sys2Proof.Machine
end

