-- ==== Sys2Proof/Machine/Translate.lean ====
section
/-! DEFINITION. Virtual to physical addresses: the heap triple, page tables, TLBs, compressed pages and code
frames (R309 to R327). -/

namespace Sys2Proof.Machine

/-- Kind of an access for permissions (R315). -/
inductive AccKind where
  | load
  | store
  | atomic
  | fetch
deriving DecidableEq, Repr

/-- ACC of a PAGE detail (R317). -/
def AccKind.acc : AccKind → Nat
  | .load => 0
  | .store => 1
  | .atomic => 1
  | .fetch => 2

/-- The access writes. -/
def AccKind.writes : AccKind → Bool
  | .store => true
  | .atomic => true
  | _ => false

/-- DETAIL of a PAGE (R317). -/
def pageDetail (acc lvl reason : Nat) : Nat := acc * 256 + lvl * 64 + reason

/-- The address space of a context (R309). -/
def Ctx.space (c : Ctx) : Space :=
  { pid := c.pid
    asid := bits c.prv.ptbase 52 12
    root := bits c.prv.ptbase 12 40 * 4096
    pwbase := bits c.prv.pwbase 12 40 * 4096
    pwlimit := bits c.prv.pwlimit 12 40 * 4096
    hbase := bits c.ctl.hbase 16 40 * 65536
    hlimit := bits c.ctl.hlimit 16 40 * 65536
    hoffs := bits c.ctl.hoffs 16 36 * 65536
    user := decide (bits c.prv.status 0 2 = 0) }

/-- A translated access: physical address, and whether its page is device memory (TYPE 1). -/
structure Phys where
  pa : Nat
  dev : Bool
deriving DecidableEq, Repr

/-- Every byte lies inside the partition window; PID 0 has none (R289). -/
def inWindow (sp : Space) (pa n : Nat) : Bool :=
  decide (sp.pid = 0) || decide (sp.pwbase ≤ pa ∧ pa + n ≤ sp.pwlimit)

/-- Some byte lies in the remote-data-cache carve-out of its die, in this package or another (R308). -/
def inCarve (s : State) (pa n : Nat) : Bool :=
  let sizes := if originOf pa = s.pkg then s.xlat.carve else (peerOf s (originOf pa)).carve
  (List.range 4).any (fun d =>
    let hi := (d + 1) * 0x3000000000
    let lo := hi - (sizes[d]?).getD 0 * 2 ^ 30
    decide (offsetOf pa < hi ∧ lo < offsetOf pa + n))

/-- The address reaches something (R412): HBM, device registers or the host window of a package that is
present. -/
def reachable (s : State) (pa : Nat) : Bool :=
  let o := offsetOf pa
  (decide (originOf pa = s.pkg) || s.fab.present.contains (originOf pa)) &&
  (decide (o < hbmEnd) || decide (hbmEnd ≤ o ∧ o < hbmEnd + 2 ^ 32) ||
    decide (hostBase ≤ o ∧ o < 0x100000000000))

/-- The device registers of a package (R412). -/
def isDevReg (pa : Nat) : Bool :=
  decide (hbmEnd ≤ offsetOf pa ∧ offsetOf pa < hbmEnd + 2 ^ 32)

/-- Step 4 of R309, with R412 and R414: window, carve-out, presence, and PID 0 for device registers.
DEDUCED, log 56. -/
def step4 (s : State) (sp : Space) (pa n : Nat) : Bool :=
  inWindow sp pa n && !inCarve s pa n && reachable s pa && (!isDevReg pa || decide (sp.pid = 0))

/-- Index of a virtual address at a level (R312). -/
def levelIndex (va : Nat) : Nat → Nat
  | 0 => va / 2 ^ 12 % 2 ^ 9
  | 1 => va / 2 ^ 21 % 2 ^ 9
  | 2 => va / 2 ^ 30 % 2 ^ 13
  | _ => va / 2 ^ 43 % 2 ^ 13

/-- How a walk ends. -/
inductive WalkRes where
  | leaf (lvl : Nat) (e : Word) (at_ : Nat)
  | stop (lvl reason : Nat)
  | compressed (lvl : Nat) (e : Word) (at_ : Nat)
  | poison
deriving DecidableEq, Repr

/-- A page-table entry as it stands in memory. -/
def readPte (s : State) (a : Nat) : Word := BitVec.ofNat 64 (natOfBytes (memReadN s.mem a 8))

/-- A leaf that R314 rejects. -/
def leafBad (lvl : Nat) (e : Word) : Bool :=
  let g64 := e.getLsbD 61
  decide (lvl = 3) || (e.getLsbD 3 && !e.getLsbD 2) ||
  decide (pteAddr e % 2 ^ pageBits lvl g64 ≠ 0) || (g64 && decide (lvl ≠ 0)) ||
  e.getLsbD 60 || decide (bits e 10 2 ≠ 0) || decide (bits e 8 2 ≥ 2)

/-- A pointer that R314 rejects, or that R312 does where it names a level-2 table. -/
def pointerBad (lvl : Nat) (e : Word) : Bool :=
  decide (lvl = 0) || decide (bits e 60 4 ≠ 0) || decide (bits e 2 8 ≠ 0) || decide (bits e 10 2 ≠ 0) ||
  (decide (lvl = 3) && decide (pteAddr e % 65536 ≠ 0))

/-- The entry a level-0 lookup uses: where one of the sixteen entries of a 64 KiB range has G64 and they are
not identical but for A and D, any one of them (R314), chosen by a free value. -/
def level0Entry (s : State) (tbl idx : Nat) : Nat :=
  let g := idx / 16 * 16
  let es := (List.range 16).map (fun i => readPte s (tbl + 8 * (g + i)) &&& ~~~0xC0#64)
  if es.any (fun e => e.getLsbD 61) && !es.all (fun e => decide (e = es.headD 0))
  then tbl + 8 * (g + Config.freeNat (draw s (1000 + idx)) % 16) else tbl + 8 * idx

/-- The levels of a walk from a table down (R312, R314). The first argument is the level plus one. A table among device
registers or in the host window is an access those do not allow (R412, R413); of a partition other than PID 0 the former are out of
reach (R414). -/
def walkFrom (s : State) (sp : Space) (va : Nat) : Nat → Nat → WalkRes
  | 0, _ => .stop 0 3
  | l + 1, tbl =>
    if !(inWindow sp tbl (if l ≥ 2 then 65536 else 4096) && !inCarve s tbl 8 && reachable s tbl) ||
      (isDevReg tbl && decide (sp.pid ≠ 0)) then .stop l 4
    else if isDevReg tbl || isHostWin tbl then .stop l 9
    else
      let a := if l = 0 then level0Entry s tbl (levelIndex va 0) else tbl + 8 * levelIndex va l
      let e := readPte s a
      if linePoisoned s (lineOf a) then .poison
      else if !e.getLsbD 0 then (if e.getLsbD 62 && decide (l ≤ 1) then .compressed l e a else .stop l 1)
      else if e.getLsbD 1 then (if leafBad l e then .stop l 3 else .leaf l e a)
      else if pointerBad l e then .stop l 3
      else walkFrom s sp va l (pteAddr e)

/-- A walk from the root (R312). DEDUCED, log 58. -/
def walk (s : State) (sp : Space) (va : Nat) : WalkRes :=
  if sp.root % 65536 ≠ 0 then .stop 3 3 else walkFrom s sp va 4 sp.root

/-- A leaf permits an access (R315). -/
def permits (sp : Space) (k : AccKind) (e : Word) : Bool :=
  (match k with
   | .load => e.getLsbD 2
   | .store => e.getLsbD 3
   | .atomic => e.getLsbD 2 && e.getLsbD 3
   | .fetch => e.getLsbD 4) &&
  (if sp.user then e.getLsbD 5 else !(decide (k = .fetch) && e.getLsbD 5))

/-- Physical address a leaf gives a virtual address. -/
def leafPhys (lvl : Nat) (e : Word) (va : Nat) : Nat :=
  let b := pageBits lvl (e.getLsbD 61)
  pteAddr e / 2 ^ b * 2 ^ b + va % 2 ^ b

/-- ORs bits into an entry at its home (R316). -/
def orEntry (a : Nat) (bitsOn : Word) (s : State) : State :=
  homeWrite a (bytesOfWord 8 (readPte s a ||| bitsOn)) 0xFF false false s

/-- A TLB entry matches (R318). -/
def TlbEntry.hits (t : TlbEntry) (sp : Space) (va : Nat) : Bool :=
  decide (t.pid = sp.pid ∧ t.asid = sp.asid ∧
    va / 2 ^ pageBits t.level t.g64 * 2 ^ pageBits t.level t.g64 = t.vbase)

/-- A remembered not-present result matches (R318). -/
def NpEntry.hits (t : NpEntry) (sp : Space) (va : Nat) : Bool :=
  decide (t.pid = sp.pid ∧ t.asid = sp.asid ∧ va / 2 ^ pageBits t.level false = t.page)

/-- Installs a leaf in the current core's TLB. -/
def installTlb (sp : Space) (va lvl : Nat) (e : Word) (a : Nat) (s : State) : State :=
  let g := e.getLsbD 61
  let b := pageBits lvl g
  { s with core.tlb := ⟨sp.pid, sp.asid, lvl, g, va / 2 ^ b * 2 ^ b, e, a⟩ ::
      s.core.tlb.filter (fun t => ¬ t.hits sp va) }

/-! ## Free frames and compressed pages -/

/-- HEAD, TAIL of a ring header (R324). -/
def ringHead (s : State) (r : Ring) : Nat := natOfBytes (memReadN s.mem r.addr 8)

/-- TAIL of a ring header (R324). -/
def ringTail (s : State) (r : Ring) : Nat := natOfBytes (memReadN s.mem (r.addr + 8) 8)

/-- Writes bytes at a physical address as an agent of the current die does, piece by line piece: the die's own copy of the
line is none of the latest (R242). -/
def agentWrite (pa : Nat) (data : List Byte) (s : State) : State :=
  (linePieces (data.length / 128 + 2) pa data).foldl (fun s p =>
    homeWrite p.1 p.2 0xFF false (decide (p.2.length = 128)) { s with coh := dropCopy s.die (lineOf p.1) s.coh }) s

/-- Number of free addresses in a pool ring: software publishes them by TAIL, hardware takes them at HEAD (R324).
DEDUCED, log 72. -/
def ringFree (s : State) (r : Ring) : Nat := (ringTail s r + 2 ^ 64 - ringHead s r) % 2 ^ 64

/-- Address that slot `i` of a pool ring holds, after its 64-byte header (R324, R328, R359). -/
def ringSlot (s : State) (r : Ring) (i : Nat) : Nat :=
  natOfBytes (memReadN s.mem (r.addr + 64 + 8 * (i % r.count)) 8)

/-- Takes the oldest free address of a pool ring (R324). DEDUCED, log 72. -/
def ringTake (r : Ring) (s : State) : Option (Nat × State) :=
  let h := ringHead s r
  if ringFree s r = 0 then none
  else some (ringSlot s r h, agentWrite r.addr (bytesOfNat 8 ((h + 1) % 2 ^ 64)) s)

/-- Returns an address to a pool ring, if it is not full: it becomes the one taken next. -/
def ringGive (r : Ring) (a : Nat) (s : State) : State :=
  let h := (ringHead s r + 2 ^ 64 - 1) % 2 ^ 64
  if ringFree s r ≥ r.count then s
  else agentWrite r.addr (bytesOfNat 8 h) (agentWrite (r.addr + 64 + 8 * (h % r.count)) (bytesOfNat 8 a) s)

/-- The free addresses of a pool ring, oldest first; it has no more than its records. -/
def ringAddrs (s : State) (r : Ring) : List Nat :=
  (List.range (min (ringFree s r) r.count)).map (fun i => ringSlot s r (ringHead s r + i))

/-- Takes `n` consecutive frames, aligned on their size, from anywhere in a pool ring; the others stay, in order. -/
def ringTakeRun (r : Ring) (n : Nat) (s : State) : Option (Nat × State) :=
  let l := ringAddrs s r
  let run (f : Nat) : List Nat := (List.range n).map (fun i => f + 4096 * i)
  match l.find? (fun f => decide (f % (4096 * n) = 0) && (run f).all l.contains) with
  | none => none
  | some f =>
    let rest := l.filter (fun a => !(run f).contains a)
    let h := ringTail s r + 2 ^ 64 - rest.length
    let s1 := (rest.zip (List.range rest.length)).foldl (fun s e =>
      agentWrite (r.addr + 64 + 8 * ((h + e.2) % r.count)) (bytesOfNat 8 e.1) s) s
    some (f, agentWrite r.addr (bytesOfNat 8 (h % 2 ^ 64)) s1)

/-- Bytes of a page a compressed leaf stands for: 64 KiB with G64, 4 KiB without (R325). -/
def zippedBytes (e : Word) : Nat := if e.getLsbD 61 then 65536 else 4096

/-- Every copy, and every fill on its way, of the lines of a range goes: the range is about to hold other bytes. -/
def dropRange (pa n : Nat) (c : Coh) : Coh :=
  { c with
    copies := c.copies.filter (fun x => ¬ (pa ≤ x.line * 128 ∧ x.line * 128 < pa + n))
    fills := c.fills.filter (fun x => ¬ (pa ≤ x.line * 128 ∧ x.line * 128 < pa + n)) }

/-- Poisons the lines of a page that the list names by their place in it (R371). -/
def poisonPage (pa : Nat) (bad : List Nat) (c : Coh) : Coh := bad.foldl (fun c i => poisonLine (lineOf pa + i) c) c

/-- Expands a compressed page into a frame and frees its handle; nothing where the handle is unknown (R326). -/
def expandInto (e : Word) (frame : Nat) (s : State) : Option State :=
  match s.xlat.zipped.find? (fun z => z.handle = bits e 12 40) with
  | none => none
  | some z =>
    let s1 := agentWrite frame z.data s
    some { s1 with
      coh := poisonPage frame z.bad (dropRange frame z.data.length s1.coh)
      xlat.zipped := s1.xlat.zipped.filter (fun x => x.handle ≠ z.handle) }

/-- The entries that map one page: the sixteen of a 64 KiB page, or the one (R314). -/
def pageEntries (e : Word) (a : Nat) : List Nat :=
  if e.getLsbD 61 then (List.range 16).map (fun i => a / 128 * 128 + 8 * i) else [a]

/-- Frames of the pool that hold a page of so many bytes: the oldest one, or sixteen that lie together. -/
def takePage (r : Ring) (n : Nat) (s : State) : Option (Nat × State) :=
  if n = 4096 then ringTake r s else ringTakeRun r (n / 4096) s

/-- Hardware expansion of a compressed page: frames of the pool, the page's bytes, the new leaf (R326). Nothing where
the pool has none that hold the page. DESIGN CHOICE, log 73. -/
def expandPage (e : Word) (a : Nat) (s : State) : Option State :=
  match s.xlat.pool with
  | none => none
  | some r =>
    match takePage r (zippedBytes e) s with
    | none => none
    | some (f, s1) =>
      (expandInto e f s1).map (fun s2 =>
        (pageEntries e a).foldl (fun s a =>
          homeWrite a (bytesOfWord 8
            ((putBits (readPte s a) 12 40 (f / 4096) &&& ~~~(1#64 <<< 62)) ||| 1)) 0xFF false false s) s2)

/-! ## Translation -/

/-- Raises a PAGE of an access. -/
def raisePage {α : Type} (k : AccKind) (lvl reason : Nat) (va : Word) (s : State) : Except Stop α :=
  raiseAccess 0x05 (pageDetail k.acc lvl reason) va s

/-- The heap triple (R311). -/
def heapTranslate (sp : Space) (k : AccKind) (va : Word) (n : Nat) (s : State) : RunV Phys :=
  let pa := (va.toNat + sp.hoffs) % 2 ^ 52
  if k = .fetch then raisePage k 0 2 va s
  else if !step4 s sp pa n then raisePage k 0 4 va s
  else if originOf pa ≠ s.pkg ∨ offsetOf pa ≥ hbmEnd ∨ ownerOf s pa ≠ s.pkg then raisePage k 0 8 va s
  else .ok (s, ⟨pa, false⟩)

/-- Uses a leaf: applies step 4 of R309, and only then sets A and D where the access needs them and installs it
(R314, R316). DEDUCED, log 52. -/
def useLeaf (sp : Space) (k : AccKind) (va : Word) (n lvl : Nat) (e : Word) (a : Nat) (s : State) :
    RunV Phys :=
  let on : Word := (if e.getLsbD 6 then 0 else 0x40) ||| (if k.writes && !e.getLsbD 7 then 0x80 else 0)
  let s1 := if on = 0 then s else orEntry a on s
  let pa := leafPhys lvl e va.toNat
  if !step4 s sp pa n then raisePage k lvl 4 va s
  else .ok (installTlb sp va.toNat lvl (e ||| on) a s1, ⟨pa, decide (bits e 8 2 = 1)⟩)

/-- A fresh walk for an access (R314 to R316, R326). `fuel` bounds the replays after an expansion. -/
def walkFor (sp : Space) (k : AccKind) (va : Word) (n : Nat) : Nat → State → RunV Phys
  | 0, s => raisePage k 0 5 va s
  | fuel + 1, s =>
    match walk s sp va.toNat with
    | .poison => raiseAccess 0x0E 2 0 s
    | .stop lvl r =>
      let s1 := if r = 1 then
          { s with core.notPresent := ⟨sp.pid, sp.asid, lvl, va.toNat / 2 ^ pageBits lvl false⟩ :: s.core.notPresent }
        else s
      raisePage k lvl r va s1
    | .compressed lvl e a =>
      if s.modes.getLsbD 1 then raisePage k lvl 5 va s
      else
        match expandPage e a s with
        | none => raisePage k lvl 5 va s
        | some s1 => walkFor sp k va n fuel s1
    | .leaf lvl e a =>
      if !permits sp k e then raisePage k lvl 2 va s else useLeaf sp k va n lvl e a s

/-- Translation through the TLB, the not-present cache and the walker (R318, R319). -/
def tableTranslate (sp : Space) (k : AccKind) (va : Word) (n : Nat) (s : State) : RunV Phys :=
  match s.core.tlb.find? (fun t => t.hits sp va.toNat) with
  | some t =>
    if permits sp k t.pte then
      (if k.writes && !t.pte.getLsbD 7 then
        walkFor sp k va n 2 { s with core.tlb := s.core.tlb.filter (fun t => ¬ t.hits sp va.toNat) }
      else
        let pa := leafPhys t.level t.pte va.toNat
        if !step4 s sp pa n then raisePage k t.level 4 va s
        else .ok (s, ⟨pa, decide (bits t.pte 8 2 = 1)⟩))
    else
      let s1 := { s with core.tlb := s.core.tlb.filter (fun t => ¬ t.hits sp va.toNat) }
      match s1.core.notPresent.find? (fun t => t.hits sp va.toNat) with
      | some t => raisePage k t.level 1 va s1
      | none => walkFor sp k va n 2 s1
  | none =>
    match s.core.notPresent.find? (fun t => t.hits sp va.toNat) with
    | some t => raisePage k t.level 1 va s
    | none => walkFor sp k va n 2 s

/-- Translation of an access that lies within one page (R309). -/
def translateIn (sp : Space) (k : AccKind) (va : Word) (n : Nat) (s : State) : RunV Phys :=
  if va.toNat ≥ 2 ^ 56 then raisePage k 0 7 va s
  else if sp.hbase ≤ va.toNat ∧ va.toNat < sp.hlimit then heapTranslate sp k va n s
  else tableTranslate sp k va n s

/-- Translation in the active context's address space. -/
def translate (k : AccKind) (va : Word) (n : Nat) (s : State) : RunV Phys :=
  translateIn s.ctx.space k va n s

/-! ## Code frames -/

/-- Translates a frame from portable to native form and records it (R96). Its poisoned lines stay poisoned (R371). -/
def makeNative (frame : Nat) (s : State) : State :=
  if s.xlat.native.contains frame then s
  else
    let bad := (List.range 32).filter (fun i => linePoisoned s (frame * 32 + i))
    let s1 := agentWrite (frame * 4096) (translateFrame (memReadN s.mem (frame * 4096) 4096)) s
    { s1 with coh := poisonPage (frame * 4096) bad s1.coh, xlat.native := frame :: s1.xlat.native }

/-- The leaf of a fetch, from the TLB entry the translation left. -/
def fetchLeaf (s : State) (va : Word) : Option TlbEntry :=
  s.core.tlb.find? (fun t => t.hits s.ctx.space va.toNat)

/-- Brings the frame of a fetch into native form, as NAT and `MODES.XLAT` say (R327). NAT is set as A and D are: where
the entry has changed since it was read, the fetch walks again (R316). -/
def readyFrame (va : Word) (pa : Nat) (s : State) : Run :=
  match fetchLeaf s va with
  | none => .ok s
  | some t =>
    if t.pte.getLsbD 63 then .ok s
    else if s.modes.getLsbD 6 then raiseAccess 0x05 (pageDetail 2 t.level 6) va s
    else if t.level = 0 ∧ ¬ t.g64 ∧ (readPte s t.pteAddr ||| 0xC0) ≠ (t.pte ||| 0xC0) then
      waitIn { s with core.tlb := s.core.tlb.filter (fun t => ¬ t.hits s.ctx.space va.toNat) }
    else
      let s1 := makeNative (frameOf pa) s
      if t.level = 0 ∧ ¬ t.g64 then
        let s2 := orEntry t.pteAddr (1#64 <<< 63) s1
        .ok { s2 with core.tlb := s2.core.tlb.map (fun x =>
          if x.hits s2.ctx.space va.toNat then { x with pte := x.pte ||| (1#64 <<< 63) } else x) }
      else .ok s1

/-- In host-assisted mode a fetch walks again where the TLB holds a leaf without NAT: the operating system sets NAT,
executes `TLBSYNC` and returns (R319, R327). DEDUCED, log 53. -/
def forgetUntranslated (va : Word) (s : State) : State :=
  match fetchLeaf s va with
  | none => s
  | some t =>
    if s.modes.getLsbD 6 && !t.pte.getLsbD 63 then
      { s with core.tlb := s.core.tlb.filter (fun t => ¬ t.hits s.ctx.space va.toNat) }
    else s

/-- Old values of a halfword that a fetch of the context may still read: those whose storing thread has not flushed
the line and then executed `TLBSYNC`, and those flushed since the context last passed a trap entry, a `TRET` or a
`TLBSYNC` of its own (R300). -/
def oldHalves (s : State) (pa : Nat) : List (BitVec 16) :=
  (s.coh.oldCode.filter (fun o => decide (o.pa = pa) &&
    !(o.synced && o.flushedAt.any (fun c => decide (c < s.ctx.aux.passedAt))))).map (·.old)

/-- The halfword a fetch reads at a physical address: as memory holds it, or as one of the stores it need not see yet
found it (R300). DEDUCED, log 19. -/
def codeHalf (s : State) (pa : Nat) : BitVec 16 :=
  match oldHalves s pa with
  | [] => hwordOf (memRead s.mem pa) (memRead s.mem (pa + 1))
  | l =>
    ((l.map some ++ [none])[Config.freeNat (draw s (48 + pa / 2 % 8)) % (l.length + 1)]?.getD none).getD
      (hwordOf (memRead s.mem pa) (memRead s.mem (pa + 1)))

/-- Fetches one halfword (R88, R327). A poisoned line raises MCHK with DETAIL 0x0001 (R372); device registers and the
host window hold no code (R412, R413). -/
def fetchHword (va : Word) (s : State) : Except Stop (State × HWord) := do
  let (s, ph) ← translate .fetch va 2 (forgetUntranslated va s)
  if isDevReg ph.pa || isHostWin ph.pa then raisePage .fetch (((fetchLeaf s va).map (·.level)).getD 0) 9 va s
  else
    let s ← readyFrame va ph.pa s
    if linePoisoned s (lineOf ph.pa) then raise 0x13 0x0001 0 s else .ok (s, codeHalf s ph.pa)

/-- Fetches the words of one chain: up to its first word that is no prefix, at most five (R82). -/
def fetchChain : Nat → Word → State → Except Stop (State × List HWord)
  | 0, _, s => .ok (s, [])
  | n + 1, va, s => do
    let (s, w) ← fetchHword va s
    if isPrefix w then do
      let (s, ws) ← fetchChain n (va + 2) s
      .ok (s, w :: ws)
    else .ok (s, [w])

end Sys2Proof.Machine
end

