-- ==== Sys2Proof/Machine/Access.lean ====
section
/-! DEFINITION. The checks of an access in their order, and loads and stores of scalars, rows and blocks
(R109 to R111, R163 to R167, R186, R315, R398, R413). -/

namespace Sys2Proof.Machine

/-- What makes an access, for the rules on device memory and the host window (R315, R413). -/
inductive AccClass where
  | scalar
  | ldw
  | sbst
  | atomic (amo : Nat)
  | row
  | line
deriving DecidableEq, Repr

/-- The page level of the translation an address uses; 0 for the heap (R317). -/
def lvlOf (s : State) (va : Word) : Nat := ((fetchLeaf s va).map (·.level)).getD 0

/-- Whether device memory, device registers or the host window turn the access away (R315, R412, R413). The
atomics 0, 8 and 9 are `AMOADD`, `AMOSWAP` and `AMOCAS`. An instruction of R299 is none of the accesses that device
registers and the host window allow. DEDUCED, log 94. -/
def devRefuses (s : State) (c : AccClass) (ph : Phys) (n : Nat) : Bool :=
  if isDevReg ph.pa then !(ph.dev && decide (c = .scalar ∧ n = 8))
  else if ph.dev && decide (c ≠ .scalar ∧ c ≠ .line) then true
  else if isHostWin ph.pa then
    match c with
    | .sbst => !cxlAt s ph.pa
    | .atomic k => !cxlAt s ph.pa && decide (k ≠ 0 ∧ k ≠ 8 ∧ k ≠ 9)
    | .line => true
    | _ => false
  else false

/-- A range lock of the context faults the access (R229). -/
def locked (s : State) (k : AccKind) (va n : Nat) : Bool :=
  s.copy.locks.any (fun l =>
    decide (l.gtid = s.ctx.prv.gtid ∧ l.lo < l.hi ∧ l.lo < va + n ∧ va < l.hi) &&
    (k.writes || decide (l.kind = .write)))

/-- The three hashes of a watch-filter key (R396). -/
def watchHash (x b : Nat) : List Nat :=
  [0x9E3779B97F4A7C15, 0xB5A32C6D9F41E7C9, 0x8F1D6B53E2A74C2B].map
    (fun c => x * c % 2 ^ 64 / 2 ^ (64 - b))

/-- A key is present in a level of the filter when all three of its bits are set (R396). -/
def present {w : Nat} (f : BitVec w) (x b : Nat) : Bool := (watchHash x b).all f.getLsbD

/-- Keys of the units of 2^b bytes that an access meets. -/
def keysOf (va n b : Nat) : List Nat :=
  (List.range ((va + n - 1) / 2 ^ b + 1 - va / 2 ^ b)).map (fun i => va / 2 ^ b + i)

/-- The watch filter marks a byte of the access (R398). -/
def watched (s : State) (va n : Nat) : Bool :=
  let w := s.ctx.aux.watch
  s.ctx.prv.watchf.getLsbD 0 &&
  ((keysOf va n 6).any (fun x => present w.base x 12) ||
   (s.ctx.prv.watchf.getLsbD 1 && (keysOf va n 12).any (fun x => present w.s4k x 11)) ||
   (s.ctx.prv.watchf.getLsbD 2 && (keysOf va n 21).any (fun x => present w.s2m x 11)))

/-- 1 for a store or atomic, 0 for a load (R73, R331). -/
def AccKind.bit (k : AccKind) : Nat := if k.writes then 1 else 0

/-- Orders 3 and 4 of R111: RANGE, then WATCH. -/
def checkRange (k : AccKind) (va : Word) (n : Nat) (s : State) : Except Stop Unit :=
  if locked s k va.toNat n then raiseAccess 0x08 k.bit va s
  else if watched s va.toNat n then raiseAccess 0x07 k.bit va s
  else .ok ()

/-- Order 2 of R111 for an access within one page. -/
def checkPage (k : AccKind) (c : AccClass) (va : Word) (n : Nat) (s : State) :
    Except Stop (State × Phys) := do
  let (s, ph) ← translate k va n s
  if devRefuses s c ph n then raisePage k (lvlOf s va) 9 va s else .ok (s, ph)

/-- The checks of a scalar access in the order of R111, up to WATCH. -/
def checkScalar (k : AccKind) (c : AccClass) (va : Word) (n : Nat) (s : State) :
    Except Stop (State × Phys) := do
  if va.toNat % n ≠ 0 then raiseAccess 0x04 k.bit va s
  else
    let (s, ph) ← checkPage k c va n s
    let _ ← checkRange k va n s
    .ok (s, ph)

/-- The access leaves the caches: device memory, device registers or the host window. -/
def uncached (ph : Phys) : Bool := ph.dev || decide (offsetOf ph.pa ≥ hbmEnd)

/-- EMC with DETAIL 2: poison consumed (R73, R372). -/
def raisePoison {α : Type} (s : State) : Except Stop α := raiseAccess 0x0E 2 0 s

/-- Every earlier access of the thread that device memory orders has been performed (R315): the store buffer is
empty, and, before an access to a TYPE 1 page, the thread's write-throughs and messages are acknowledged. -/
def deviceTurn (dev : Bool) (s : State) : Bool :=
  s.core.sb.isEmpty && (!dev || (s.coh.wts.all (fun w => decide (w.gtid ≠ s.ctx.prv.gtid ∨ w.cmd ≠ none)) &&
    s.fab.msgs.all (fun m => decide (m.gtid ≠ s.ctx.prv.gtid ∨ m.cmd ≠ none))))

/-- Bytes of an uncached read at a physical address. What another package's registers hold is not among the state of
this package (log 71). A die's copy of a line that the read takes at its home is none of the latest: a later load reads
there or sees a later value (R245). DEDUCED, log 101. -/
def readUncached (pa n : Nat) (s : State) : Except Stop (State × List Byte) :=
  if isDevReg pa then
    if originOf pa = s.pkg && poisonedDoorbell s (offsetOf pa - hbmEnd) then raisePoison s
    else .ok (s, bytesOfWord n (if originOf pa = s.pkg then devRead s (offsetOf pa - hbmEnd)
      else otherReg (originOf pa) (offsetOf pa - hbmEnd) (Config.freeWord (draw s 43))))
  else if isHostWin pa && !linkUpAt s pa then raisePoison s
  else
    let (s1, d, p) := readHome pa n (if localMem s pa && decide (homeDie pa ≠ s.die)
      then { s with coh := dropCopy s.die (lineOf pa) s.coh } else s)
    if p then raisePoison s1 else .ok (heard pa n s1, d)

/-- An uncached write at a physical address: to a device register of the package, or as any other store, without the
store buffer. -/
def writeUncached (pa : Nat) (data : List Byte) (mask : Byte) (s : State) : State :=
  if isDevReg pa && decide (originOf pa = s.pkg) then devWrite (offsetOf pa - hbmEnd) (BitVec.ofNat 64 (natOfBytes data)) s
  else performStore s.cur ⟨s.ctx.prv.gtid, s.pid, pa, data, mask, false⟩ s

/-- Where a virtual address lies as the tables stand; nothing where it does not translate. -/
def physOf (s : State) (sp : Space) (va : Nat) : Option Nat :=
  if sp.hbase ≤ va ∧ va < sp.hlimit then some ((va + sp.hoffs) % 2 ^ 52)
  else
    match walk s sp va with
    | .leaf lvl e _ => some (leafPhys lvl e va)
    | _ => none

/-- Base of the elements that a gather reads or a scatter writes, which no lock covers (R224, R229). -/
def elemBase (c : Cmd) : Option Word :=
  match c.op with
  | .gather => some c.desc.src
  | .scatter => some c.desc.dst
  | _ => none

/-- Address of an element at a signed index from a base (R224). One past 2^64 stays there, where no page is (R8, R452); one
below 0 has its high bits set. -/
def elemAt (base idx : Word) : Nat :=
  let a := (base.toNat : Int) + idx.toInt
  if a < 0 then (a + 2 ^ 64).toNat else a.toNat

/-- The index of an element as the issuing thread left it. -/
def elemIndex (s : State) (c : Cmd) (k : Nat) : Option Word :=
  (physOf s c.space (c.desc.p0.toNat + 8 * k)).map (fun pa =>
    BitVec.ofNat 64 (natOfBytes (forward c.gtid pa s.core.sb (memReadN s.mem pa 8))))

/-- A gather or scatter moves the byte at a physical address as an element's (R224). -/
def movesByte (s : State) (c : Cmd) (pa : Nat) : Bool :=
  match elemBase c with
  | none => false
  | some base => (List.range c.desc.p1.toNat).any (fun k => (elemIndex s c k).any (fun i =>
      let va := elemAt base i
      (List.range ((va + c.desc.len.toNat + 4095) / 4096 - va / 4096)).any (fun j =>
        let lo := max va ((va / 4096 + j) * 4096)
        let hi := min (va + c.desc.len.toNat) ((va / 4096 + j + 1) * 4096)
        (physOf s c.space lo).any (fun p => decide (p ≤ pa ∧ pa < p + (hi - lo))))))

/-- An in-flight gather or scatter of the context moves the byte at a physical address. -/
def racing (s : State) (pa : Nat) : Bool :=
  s.copy.cmds.any (fun c => decide (c.gtid = s.ctx.prv.gtid) && movesByte s c pa)

/-- Bytes of an access of the context, of which those that race with an element of its own gather or scatter are undefined
(R224): free values under a key. -/
def raceBytesBy (key : Nat) (s : State) (pa : Nat) (d : List Byte) : List Byte :=
  if s.copy.cmds.any (fun c => decide (c.gtid = s.ctx.prv.gtid) && (elemBase c).isSome) then
    (List.range d.length).map (fun i =>
      if racing s (pa + i) then Config.freeByteAt key (pa + i) else (d[i]?).getD 0)
  else d

/-- Bytes that a load of the context sees, or a store of it leaves (R224). -/
def raceBytes (s : State) (pa : Nat) (d : List Byte) : List Byte := raceBytesBy s.free s pa d

/-- The context writes bytes: those that its own scatter is to write are undefined when it has (R224). -/
def noteRaces (pa n : Nat) (s : State) : State :=
  { s with copy.cmds := s.copy.cmds.map (fun c =>
      if c.gtid = s.ctx.prv.gtid ∧ c.op = .scatter then
        { c with raced := ((List.range n).map (fun i => pa + i)).filter (movesByte s c) ++ c.raced }
      else c) }

/-- Bytes of an uncached access of the context: of device registers as they are, else as `raceBytes` says. -/
def raceUncached (s : State) (pa : Nat) (d : List Byte) : List Byte := if isDevReg pa then d else raceBytes s pa d

/-- An uncached access has to wait: for earlier accesses of the thread (R315), for tokens that another core's persistent
request takes (R240), for a message of the thread to its bytes (R255), or for a route to the package it goes to (R417). -/
def uncachedWaits (ph : Phys) (n : Nat) (s : State) : Bool :=
  !deviceTurn ph.dev s || (!deadHome s ph.pa &&
    !(if ownerOf s ph.pa ≠ s.pkg then remoteReady s.ctx.prv.gtid ph.pa n s
      else msgsPast s.ctx.prv.gtid ph.pa n s && !(localMem s ph.pa && tokensHeld s.coh s.cur (lineOf ph.pa))))

/-- Bytes of a checked scalar load. `home` never reads a copy. -/
def loadPhys (home : Bool) (ph : Phys) (n : Nat) (s : State) : Except Stop (State × List Byte) :=
  if uncached ph then
    (if uncachedWaits ph n s then waitIn (progress s)
     else do
      let (s, d) ← readUncached ph.pa n s
      .ok (s, raceUncached s ph.pa d))
  else do
    let (s, d, p) ← loadLine home ph.pa n s
    if p then raisePoison s else .ok (s, raceBytes s ph.pa d)

/-- A scalar load of `n` bytes: the checks of R111, then the bytes. -/
def loadScalar (home : Bool) (c : AccClass) (va : Word) (n : Nat) (s : State) :
    Except Stop (State × List Byte) := do
  let (s, ph) ← checkScalar .load c va n s
  loadPhys home ph n s

/-- A checked store of bytes at a physical address. -/
def storePhys (ph : Phys) (data : List Byte) (mask : Byte) (s : State) : Run :=
  if uncached ph then
    (if uncachedWaits ph data.length s then waitIn (progress s)
     else .ok (writeUncached ph.pa (raceUncached s ph.pa data) mask (noteRaces ph.pa data.length s)))
  else do
    let s ← pushStores ((sbEntries s ph.pa (raceBytes s ph.pa data)).map (fun e => { e with mask := mask })) s
    .ok (noteRaces ph.pa data.length s)

/-- A scalar store of bytes: the checks of R111, then the store. -/
def storeScalar (va : Word) (data : List Byte) (s : State) : Run := do
  let (s, ph) ← checkScalar .store .scalar va data.length s
  storePhys ph data 0xFF s

/-! ## Rows -/

/-- Page pieces of a row: address and length. -/
def pagePieces : Nat → Nat → Nat → List (Nat × Nat)
  | 0, _, _ => []
  | fuel + 1, va, n =>
    if n = 0 then []
    else
      let k := min n (4096 - va % 4096)
      (va, k) :: pagePieces fuel (va + k) (n - k)

/-- Order 2 of R111 for every page piece of a row, in order: the physical pieces. -/
def checkPieces (k : AccKind) : List (Nat × Nat) → State → Except Stop (State × List (Nat × Nat))
  | [], s => .ok (s, [])
  | (va, n) :: l, s => do
    let (s, ph) ← checkPage k .row (BitVec.ofNat 64 va) n s
    let (s, r) ← checkPieces k l s
    .ok (s, (ph.pa, n) :: r)

/-- RANGE of every access of at most 128 bytes that a row is made of, and then WATCH of each (R111, R398); a longer row is
cut every 128 bytes from its start. DESIGN CHOICE, log 96. -/
def checkRowRange (k : AccKind) (va : Word) (n : Nat) (s : State) : Except Stop Unit :=
  let ps := (List.range ((n + 127) / 128)).map (fun i => (va + BitVec.ofNat 64 (128 * i), min 128 (n - 128 * i)))
  match ps.find? (fun p => locked s k p.1.toNat p.2) with
  | some p => raiseAccess 0x08 k.bit p.1 s
  | none =>
    match ps.find? (fun p => watched s p.1.toNat p.2) with
    | some p => raiseAccess 0x07 k.bit p.1 s
    | none => .ok ()

/-- The checks of a row of `n` bytes in the order of R111, up to WATCH: its physical pieces. -/
def checkRow (k : AccKind) (align : Nat) (va : Word) (n : Nat) (s : State) :
    Except Stop (State × List (Nat × Nat)) := do
  if va.toNat % align ≠ 0 then raiseAccess 0x04 k.bit va s
  else
    let (s, ps) ← checkPieces k (pagePieces (n / 4096 + 2) va.toNat n) s
    let _ ← checkRowRange k va n s
    .ok (s, ps)

/-- Bytes of checked physical pieces, line by line, each piece an access of its own (R251), all in one step. DESIGN
CHOICE, log 99. -/
def loadPieces : List (Nat × Nat) → State → Except Stop (State × List Byte)
  | [], s => .ok (s, [])
  | (pa, n) :: l, s => do
    let (s, d) ← loadPhys false ⟨pa, false⟩ n s
    let (s, r) ← loadPieces l s
    .ok (s, d ++ r)

/-- Line pieces of a physical range. -/
def lineRanges (pa n : Nat) : List (Nat × Nat) :=
  (linePieces (n / 128 + 2) pa (List.replicate n 0)).map (fun p => (p.1, p.2.length))

/-- Bytes of a row: the checks of R111, then the bytes. -/
def loadRow (align : Nat) (va : Word) (n : Nat) (s : State) : Except Stop (State × List Byte) := do
  let (s, ps) ← checkRow .load align va n s
  loadPieces (ps.flatMap (fun p => lineRanges p.1 p.2)) s

/-- Bytes laid over physical pieces in order. -/
def layOver : List (Nat × Nat) → List Byte → List (Nat × List Byte)
  | [], _ => []
  | (pa, n) :: l, d => (pa, d.take n) :: layOver l (d.drop n)

/-- Stores of checked pieces: they enter the store buffer in order (R186, R215), those to the host window too, which is no
cache (R413). -/
def storePieces (l : List (Nat × List Byte)) (s : State) : Run := do
  let s ← pushStores (l.flatMap (fun p => sbEntries s p.1 (raceBytes s p.1 p.2))) s
  .ok (l.foldl (fun s p => noteRaces p.1 p.2.length s) s)

end Sys2Proof.Machine
end

