-- ==== Sys2Proof/Machine/Operands.lean ====
section
/-! DEFINITION. Operand forms of the integer and scalar memory instructions (R98, R99, R109). -/


namespace Sys2Proof

/-- Operand width of class W in bits (R99). -/
def Width.bits : Width → Nat
  | .w64 => 64
  | .w32 => 32

/-- Source width of class EX in bits (R102). -/
def Ex.bits : Ex → Nat
  | .byte => 8
  | .half => 16
  | .word => 32

/-- Access size of class SZ in bytes (R109). -/
def Sz.bytes : Sz → Nat
  | .byte => 1
  | .half => 2
  | .word => 4
  | .dbl => 8

/-- Access size of a zero-extending load in bytes. -/
def Ex.bytes : Ex → Nat
  | .byte => 1
  | .half => 2
  | .word => 4

/-- Word or doubleword in bytes. -/
def Wd.bytes : Wd → Nat
  | .word => 4
  | .dbl => 8

/-- Access size of class FS in bytes (R115). -/
def Fs.bytes : Fs → Nat
  | .half => 2
  | .word => 4
  | .dbl => 8

/-- Field width of class SB in bits (R117). -/
def Sb.bits : Sb → Nat
  | .two => 2
  | .four => 4

end Sys2Proof

namespace Sys2Proof.Machine

/-- A register or immediate as the variant sees it, signed (R99). -/
def opndS (w : Width) (x : Word) : Int := sext x.toNat w.bits

/-- A register or immediate as the variant sees it, unsigned (R99). -/
def opndU (w : Width) (x : Word) : Nat := x.toNat % 2 ^ w.bits

/-- The value a class W instruction writes: a 32-bit result is sign-extended (R99). -/
def wr (w : Width) (res : Int) : Word :=
  match w with
  | .w64 => ofInt res
  | .w32 => ofInt (sext (res % 2 ^ 32).toNat 32)

/-- Effect of a three-register instruction on `g` registers. -/
def aluR (fm : Form) (d a b : Nat) (f : Word → Word → Word) (j : Nat) (_k : Nat) (s : State) : Run := do
  let _ ← need s [.g (fm.a j a), .g (fm.b j b)]
  .ok (wg s (fm.d j d) (f (rg s (fm.a j a)) (rg s (fm.b j b))))

/-- Effect of a two-register instruction on `g` registers. -/
def aluU (fm : Form) (d a : Nat) (f : Word → Word) (j : Nat) (_k : Nat) (s : State) : Run := do
  let _ ← need s [.g (fm.a j a)]
  .ok (wg s (fm.d j d) (f (rg s (fm.a j a))))

/-- Effect of an instruction on a `g` register and a signed immediate. -/
def aluI (fm : Form) (d a : Nat) (imm : Int) (f : Word → Word → Word) (j : Nat) (_k : Nat) (s : State) :
    Run := do
  let _ ← need s [.g (fm.a j a)]
  .ok (wg s (fm.d j d) (f (rg s (fm.a j a)) (ofInt (fm.i j imm))))

/-- Effect of an instruction on a `g` register and an unsigned immediate. -/
def aluN (fm : Form) (d a imm : Nat) (f : Word → Nat → Word) (j : Nat) (_k : Nat) (s : State) : Run := do
  let _ ← need s [.g (fm.a j a)]
  .ok (wg s (fm.d j d) (f (rg s (fm.a j a)) (fm.u j imm)))

/-- Effective address g_a + immediate × unit (R109). -/
def eaImm (fm : Form) (j a : Nat) (imm : Int) (unit : Nat) (s : State) : Word :=
  rg s (fm.a j a) + ofInt (fm.i j imm * unit)

/-- Effective address g_a + g_b × size (R109). -/
def eaIdx (fm : Form) (j a b : Nat) (size : Nat) (s : State) : Word :=
  rg s (fm.a j a) + rg s (fm.b j b) * BitVec.ofNat 64 size

/-- A loaded value, sign-extended (R112). -/
def loadedS (d : List Byte) : Word := ofInt (sext (natOfBytes d) (8 * d.length))

/-- A loaded value, zero-extended (R112). -/
def loadedU (d : List Byte) : Word := BitVec.ofNat 64 (natOfBytes d)

end Sys2Proof.Machine
end

