-- ==== Sys2Proof/Machine/Int.lean ====
section
/-! DEFINITION. Integer arithmetic, logic, bit, field, move, compare and predicate instructions (R99 to R105). -/

namespace Sys2Proof.Machine

/-! ## Results -/

/-- Truncating quotient; the divisor is not zero (R99). -/
def tdiv (x y : Int) : Int := Int.tdiv x y

/-- `ADD` (R100). -/
def addV (w : Width) (x y : Word) : Word := wr w (opndS w x + opndS w y)

/-- `SUB` (R100). -/
def subV (w : Width) (x y : Word) : Word := wr w (opndS w x - opndS w y)

/-- `MUL` (R100). -/
def mulV (w : Width) (x y : Word) : Word := wr w (opndS w x * opndS w y)

/-- `MULH` (R100). -/
def mulhV (w : Width) (x y : Word) : Word := wr w (opndS w x * opndS w y / 2 ^ w.bits)

/-- `MULHU` (R100). -/
def mulhuV (w : Width) (x y : Word) : Word := wr w ((opndU w x * opndU w y / 2 ^ w.bits : Nat) : Int)

/-- `DIV` (R100). -/
def divV (w : Width) (x y : Word) : Word := if opndS w y = 0 then wr w (-1) else wr w (tdiv (opndS w x) (opndS w y))

/-- `DIVU` (R100). -/
def divuV (w : Width) (x y : Word) : Word := if opndU w y = 0 then wr w (2 ^ w.bits - 1) else wr w ((opndU w x / opndU w y : Nat) : Int)

/-- `REM` (R100). -/
def remV (w : Width) (x y : Word) : Word := if opndS w y = 0 then wr w (opndS w x)
  else wr w (opndS w x - opndS w y * tdiv (opndS w x) (opndS w y))

/-- `REMU` (R100). -/
def remuV (w : Width) (x y : Word) : Word := if opndU w y = 0 then wr w (opndU w x) else wr w ((opndU w x % opndU w y : Nat) : Int)

/-- `MIN` (R100). -/
def minV (w : Width) (x y : Word) : Word := wr w (min (opndS w x) (opndS w y))

/-- `MAX` (R100). -/
def maxV (w : Width) (x y : Word) : Word := wr w (max (opndS w x) (opndS w y))

/-- `MINU` (R100). -/
def minuV (w : Width) (x y : Word) : Word := wr w ((min (opndU w x) (opndU w y) : Nat) : Int)

/-- `MAXU` (R100). -/
def maxuV (w : Width) (x y : Word) : Word := wr w ((max (opndU w x) (opndU w y) : Nat) : Int)

/-- `AND` (R101). -/
def andV (w : Width) (x y : Word) : Word := wr w ((x &&& y).toNat : Int)

/-- `ANDN` (R101). -/
def andnV (w : Width) (x y : Word) : Word := wr w ((x &&& ~~~y).toNat : Int)

/-- `OR` (R101). -/
def orV (w : Width) (x y : Word) : Word := wr w ((x ||| y).toNat : Int)

/-- `XOR` (R101). -/
def xorV (w : Width) (x y : Word) : Word := wr w ((x ^^^ y).toNat : Int)

/-- `SHL` by n below the width (R101). -/
def shlV (w : Width) (x : Word) (n : Nat) : Word := wr w (opndS w x * 2 ^ n)

/-- `SHR` by n below the width (R101). -/
def shrV (w : Width) (x : Word) (n : Nat) : Word := wr w ((opndU w x / 2 ^ n : Nat) : Int)

/-- `SRA` by n below the width (R101). -/
def sraV (w : Width) (x : Word) (n : Nat) : Word := wr w (opndS w x / 2 ^ n)

/-- `ROTR` by n below the width (R101). -/
def rotrV (w : Width) (x : Word) (n : Nat) : Word := wr w ((opndU w x / 2 ^ n + opndU w x * 2 ^ (w.bits - n) % 2 ^ w.bits : Nat) : Int)

/-- Shift amount of a register form: ub mod w (R101). -/
def shAmt (w : Width) (y : Word) : Nat := opndU w y % w.bits

/-- `CLZ` (R102). -/
def clzV (w : Width) (x : Word) : Word := wr w ((w.bits - bitLength (opndU w x) : Nat) : Int)

/-- `CTZ` (R102). -/
def ctzV (w : Width) (x : Word) : Word := wr w (trailingZeros w.bits (opndU w x) : Int)

/-- `POPC` (R102). -/
def popcV (w : Width) (x : Word) : Word := wr w (oneBits w.bits (opndU w x) : Int)

/-- `REV8` (R102). -/
def rev8V (w : Width) (x : Word) : Word :=
  wr w (natOfBytes (bytesOfNat (w.bits / 8) (opndU w x)).reverse : Int)

/-- `SEXT` (R102). -/
def sextV (e : Ex) (x : Word) : Word := ofInt (sext x.toNat e.bits)

/-- `ZEXT` (R102). -/
def zextV (e : Ex) (x : Word) : Word := BitVec.ofNat 64 (x.toNat % 2 ^ e.bits)

/-- Position of a `BFX` or `BFI` immediate (R102). -/
def fieldPos (imm : Nat) : Nat := imm % 64

/-- Mask 2^wid - 1 of a `BFX` or `BFI` immediate (R102). -/
def fieldMask (imm : Nat) : Nat := 2 ^ (imm / 64 + 1) - 1

/-- `BFX` (R102). -/
def bfxV (w : Width) (x : Word) (imm : Nat) : Word :=
  wr w ((opndU w x / 2 ^ fieldPos imm % (fieldMask imm + 1) : Nat) : Int)

/-- `BFI` over the old destination value (R102). -/
def bfiV (w : Width) (old x : Word) (imm : Nat) : Word :=
  let m := BitVec.ofNat 64 (fieldMask imm * 2 ^ fieldPos imm)
  let ins := BitVec.ofNat 64 (opndU w x % (fieldMask imm + 1) * 2 ^ fieldPos imm)
  wr w (((BitVec.ofNat 64 (opndU w old) &&& ~~~m) ||| ins).toNat : Int)

/-- `CMP` and `CMPI` over all 64 bits (R104). -/
def cmpV (c : Cc) (x y : Word) : Bool :=
  match c with
  | .eq => decide (x = y)
  | .ne => decide (x ≠ y)
  | .lt => decide (x.toInt < y.toInt)
  | .ge => decide (x.toInt ≥ y.toInt)
  | .ltu => decide (x.toNat < y.toNat)
  | .geu => decide (x.toNat ≥ y.toNat)

/-! ## Meanings -/

/-- `ADD` on page 0 (R90, R100). -/
def execAddP0 (fm : Form) (d a b : Nat) (s : State) : Out :=
  runRep fm (fm.len 0) (aluR fm d a b (addV .w64)) s

/-- `SUB` on page 0 (R90, R100). -/
def execSubP0 (fm : Form) (d a b : Nat) (s : State) : Out :=
  runRep fm (fm.len 0) (aluR fm d a b (subV .w64)) s

/-- `ADDI` on page 0 (R90, R100). -/
def execAddiP0 (fm : Form) (d a : Nat) (imm : Int) (s : State) : Out :=
  runRep fm (fm.len 0) (aluI fm d a imm (addV .w64)) s

/-- `ANDI` on page 0 (R90, R101). -/
def execAndiP0 (fm : Form) (d a : Nat) (imm : Int) (s : State) : Out :=
  runRep fm (fm.len 0) (aluI fm d a imm (andV .w64)) s

/-- `SHLI` on page 0 (R90, R101). -/
def execShliP0 (fm : Form) (d a imm : Nat) (s : State) : Out :=
  runRep fm (fm.len 0) (aluN fm d a imm (shlV .w64)) s

/-- `MOV` on page 0 (R90, R103). -/
def execMovP0 (fm : Form) (d a : Nat) (s : State) : Out :=
  runRep fm (fm.len 0) (aluU fm d a id) s

/-- `LI` on page 0 (R103). -/
def execLiP0 (fm : Form) (d : Nat) (imm : Int) (s : State) : Out :=
  runRep fm (fm.len 0) (fun j _ s => .ok (wg s (fm.d j d) (ofInt (fm.i j imm)))) s

/-- `ADD` (R100). -/
def execAdd (fm : Form) (w : Width) (d a b : Nat) (s : State) : Out :=
  runRep fm (fm.len 1) (aluR fm d a b (addV w)) s

/-- `SUB` (R100). -/
def execSub (fm : Form) (w : Width) (d a b : Nat) (s : State) : Out :=
  runRep fm (fm.len 1) (aluR fm d a b (subV w)) s

/-- `MUL` (R100). -/
def execMul (fm : Form) (w : Width) (d a b : Nat) (s : State) : Out :=
  runRep fm (fm.len 1) (aluR fm d a b (mulV w)) s

/-- `MULH` (R100). -/
def execMulh (fm : Form) (w : Width) (d a b : Nat) (s : State) : Out :=
  runRep fm (fm.len 1) (aluR fm d a b (mulhV w)) s

/-- `MULHU` (R100). -/
def execMulhu (fm : Form) (w : Width) (d a b : Nat) (s : State) : Out :=
  runRep fm (fm.len 1) (aluR fm d a b (mulhuV w)) s

/-- `DIV` (R100). -/
def execDiv (fm : Form) (w : Width) (d a b : Nat) (s : State) : Out :=
  runRep fm (fm.len 1) (aluR fm d a b (divV w)) s

/-- `DIVU` (R100). -/
def execDivu (fm : Form) (w : Width) (d a b : Nat) (s : State) : Out :=
  runRep fm (fm.len 1) (aluR fm d a b (divuV w)) s

/-- `REM` (R100). -/
def execRem (fm : Form) (w : Width) (d a b : Nat) (s : State) : Out :=
  runRep fm (fm.len 1) (aluR fm d a b (remV w)) s

/-- `REMU` (R100). -/
def execRemu (fm : Form) (w : Width) (d a b : Nat) (s : State) : Out :=
  runRep fm (fm.len 1) (aluR fm d a b (remuV w)) s

/-- `MIN` (R100). -/
def execMin (fm : Form) (w : Width) (d a b : Nat) (s : State) : Out :=
  runRep fm (fm.len 1) (aluR fm d a b (minV w)) s

/-- `MAX` (R100). -/
def execMax (fm : Form) (w : Width) (d a b : Nat) (s : State) : Out :=
  runRep fm (fm.len 1) (aluR fm d a b (maxV w)) s

/-- `MINU` (R100). -/
def execMinu (fm : Form) (w : Width) (d a b : Nat) (s : State) : Out :=
  runRep fm (fm.len 1) (aluR fm d a b (minuV w)) s

/-- `MAXU` (R100). -/
def execMaxu (fm : Form) (w : Width) (d a b : Nat) (s : State) : Out :=
  runRep fm (fm.len 1) (aluR fm d a b (maxuV w)) s

/-- `ADDI` (R100). -/
def execAddi (fm : Form) (w : Width) (d a : Nat) (imm : Int) (s : State) : Out :=
  runRep fm (fm.len 1) (aluI fm d a imm (addV w)) s

/-- `AND` (R101). -/
def execAnd (fm : Form) (w : Width) (d a b : Nat) (s : State) : Out :=
  runRep fm (fm.len 2) (aluR fm d a b (andV w)) s

/-- `ANDN` (R101). -/
def execAndn (fm : Form) (w : Width) (d a b : Nat) (s : State) : Out :=
  runRep fm (fm.len 2) (aluR fm d a b (andnV w)) s

/-- `OR` (R101). -/
def execOr (fm : Form) (w : Width) (d a b : Nat) (s : State) : Out :=
  runRep fm (fm.len 2) (aluR fm d a b (orV w)) s

/-- `XOR` (R101). -/
def execXor (fm : Form) (w : Width) (d a b : Nat) (s : State) : Out :=
  runRep fm (fm.len 2) (aluR fm d a b (xorV w)) s

/-- `ANDI` (R101). -/
def execAndi (fm : Form) (w : Width) (d a : Nat) (imm : Int) (s : State) : Out :=
  runRep fm (fm.len 2) (aluI fm d a imm (andV w)) s

/-- `ORI` (R101). -/
def execOri (fm : Form) (w : Width) (d a : Nat) (imm : Int) (s : State) : Out :=
  runRep fm (fm.len 2) (aluI fm d a imm (orV w)) s

/-- `XORI` (R101). -/
def execXori (fm : Form) (w : Width) (d a : Nat) (imm : Int) (s : State) : Out :=
  runRep fm (fm.len 2) (aluI fm d a imm (xorV w)) s

/-- `SHL` (R101). -/
def execShl (fm : Form) (w : Width) (d a b : Nat) (s : State) : Out :=
  runRep fm (fm.len 2) (aluR fm d a b (fun x y => shlV w x (shAmt w y))) s

/-- `SHR` (R101). -/
def execShr (fm : Form) (w : Width) (d a b : Nat) (s : State) : Out :=
  runRep fm (fm.len 2) (aluR fm d a b (fun x y => shrV w x (shAmt w y))) s

/-- `SRA` (R101). -/
def execSra (fm : Form) (w : Width) (d a b : Nat) (s : State) : Out :=
  runRep fm (fm.len 2) (aluR fm d a b (fun x y => sraV w x (shAmt w y))) s

/-- `ROTR` (R101). -/
def execRotr (fm : Form) (w : Width) (d a b : Nat) (s : State) : Out :=
  runRep fm (fm.len 2) (aluR fm d a b (fun x y => rotrV w x (shAmt w y))) s

/-- `SHLI` (R101). -/
def execShli (fm : Form) (w : Width) (d a imm : Nat) (s : State) : Out :=
  runRep fm (fm.len 2) (aluN fm d a imm (shlV w)) s

/-- `SHRI` (R101). -/
def execShri (fm : Form) (w : Width) (d a imm : Nat) (s : State) : Out :=
  runRep fm (fm.len 2) (aluN fm d a imm (shrV w)) s

/-- `SRAI` (R101). -/
def execSrai (fm : Form) (w : Width) (d a imm : Nat) (s : State) : Out :=
  runRep fm (fm.len 2) (aluN fm d a imm (sraV w)) s

/-- `ROTRI` (R101). -/
def execRotri (fm : Form) (w : Width) (d a imm : Nat) (s : State) : Out :=
  runRep fm (fm.len 3) (aluN fm d a imm (rotrV w)) s

/-- `CLZ` (R102). -/
def execClz (fm : Form) (w : Width) (d a : Nat) (s : State) : Out :=
  runRep fm (fm.len 3) (aluU fm d a (clzV w)) s

/-- `CTZ` (R102). -/
def execCtz (fm : Form) (w : Width) (d a : Nat) (s : State) : Out :=
  runRep fm (fm.len 3) (aluU fm d a (ctzV w)) s

/-- `POPC` (R102). -/
def execPopc (fm : Form) (w : Width) (d a : Nat) (s : State) : Out :=
  runRep fm (fm.len 3) (aluU fm d a (popcV w)) s

/-- `REV8` (R102). -/
def execRev8 (fm : Form) (w : Width) (d a : Nat) (s : State) : Out :=
  runRep fm (fm.len 3) (aluU fm d a (rev8V w)) s

/-- `SEXT` (R102). -/
def execSext (fm : Form) (e : Ex) (d a : Nat) (s : State) : Out :=
  runRep fm (fm.len 3) (aluU fm d a (sextV e)) s

/-- `ZEXT` (R102). -/
def execZext (fm : Form) (e : Ex) (d a : Nat) (s : State) : Out :=
  runRep fm (fm.len 3) (aluU fm d a (zextV e)) s

/-- `BFX` (R102). -/
def execBfx (fm : Form) (w : Width) (d a imm : Nat) (s : State) : Out :=
  runRep fm (fm.len 3) (aluN fm d a imm (bfxV w)) s

/-- `BFI`; its destination is a source (R102). -/
def execBfi (fm : Form) (w : Width) (d a imm : Nat) (s : State) : Out :=
  runRep fm (fm.len 3) (fun j _ s => do
    let _ ← need s [.g (fm.a j a), .g (fm.d j d)]
    .ok (wg s (fm.d j d) (bfiV w (rg s (fm.d j d)) (rg s (fm.a j a)) (fm.u j imm)))) s

/-- `LEA`: PC-relative where field a is 0, else g_a plus the immediate (R103). -/
def execLea (fm : Form) (d a : Nat) (imm : Int) (s : State) : Out :=
  runRep fm (fm.len 3) (fun j _ s => do
    let _ ← need s [.g (fm.a j a)]
    .ok (wg s (fm.d j d)
      (if fm.a j a = 0 then relTarget fm 3 (fm.i j imm) s else rg s (fm.a j a) + ofInt (fm.i j imm)))) s

/-- `LI` (R103). -/
def execLi (fm : Form) (d : Nat) (imm : Int) (s : State) : Out :=
  runRep fm (fm.len 3) (fun j _ s => .ok (wg s (fm.d j d) (ofInt (fm.i j imm)))) s

/-- `MOV` (R103). -/
def execMov (fm : Form) (d a : Nat) (s : State) : Out :=
  runRep fm (fm.len 3) (aluU fm d a id) s

/-- `SEL` by predicate k (R103). -/
def execSel (fm : Form) (k d a b : Nat) (s : State) : Out :=
  runRep fm (fm.len 3) (fun j _ s => do
    let _ ← need s [.p k, .g (fm.a j a), .g (fm.b j b)]
    .ok (wg s (fm.d j d) (if rp s k then rg s (fm.a j a) else rg s (fm.b j b)))) s

/-- `CMP` (R104). -/
def execCmp (fm : Form) (c : Cc) (d a b : Nat) (s : State) : Out :=
  runRep fm (fm.len 4) (fun j _ s => do
    let _ ← need s [.g (fm.a j a), .g (fm.b j b)]
    .ok (wp s (fm.d j d) (cmpV c (rg s (fm.a j a)) (rg s (fm.b j b))))) s

/-- `CMPI` (R104). -/
def execCmpi (fm : Form) (c : Cc) (d a : Nat) (imm : Int) (s : State) : Out :=
  runRep fm (fm.len 4) (fun j _ s => do
    let _ ← need s [.g (fm.a j a)]
    .ok (wp s (fm.d j d) (cmpV c (rg s (fm.a j a)) (ofInt (fm.i j imm))))) s

/-- Effect of a predicate instruction on two predicates (R105). -/
def predR (d a b : Nat) (f : Bool → Bool → Bool) (s : State) : Run := do
  let _ ← need s [.p a, .p b]
  .ok (wp s d (f (rp s a) (rp s b)))

/-- `PAND` (R105). -/
def execPand (fm : Form) (d a b : Nat) (s : State) : Out := runOne (fm.len 4) (predR d a b and) s

/-- `POR` (R105). -/
def execPor (fm : Form) (d a b : Nat) (s : State) : Out := runOne (fm.len 4) (predR d a b or) s

/-- `PXOR` (R105). -/
def execPxor (fm : Form) (d a b : Nat) (s : State) : Out := runOne (fm.len 4) (predR d a b xor) s

/-- `PNOT` (R105). -/
def execPnot (fm : Form) (d a : Nat) (s : State) : Out :=
  runOne (fm.len 4) (fun s => do
    let _ ← need s [.p a]
    .ok (wp s d (!rp s a))) s

/-- `PMOV` (R105). -/
def execPmov (fm : Form) (d a : Nat) (s : State) : Out :=
  runOne (fm.len 4) (fun s => do
    let _ ← need s [.g a]
    .ok (wp s d (decide (rg s a ≠ 0)))) s

end Sys2Proof.Machine
end

