-- ==== Sys2Proof/Machine/Control.lean ====
section
/-! DEFINITION. Control transfers (R106 to R108). -/

namespace Sys2Proof.Machine

/-- `BR` on a page (R106). -/
def branch (fm : Form) (page : Nat) (imm : Int) (s : State) : RunV Word := .ok (s, relTarget fm page imm s)

/-- `BRC` on a page (R106). -/
def branchIf (fm : Form) (page d : Nat) (imm : Int) (s : State) : RunV Word :=
  match need s [.p d] with
  | .error e => .error e
  | .ok _ => .ok (s, if rp s d then relTarget fm page imm s else returnAddr fm page s)

/-- `JAL` on a page: the link, then the target (R107). -/
def jumpLink (fm : Form) (page d : Nat) (imm : Int) (s : State) : RunV Word :=
  .ok (wg s d (returnAddr fm page s), relTarget fm page imm s)

/-- `JALR` on a page: an odd target raises ALIGN and writes nothing (R107, R331). -/
def jumpReg (fm : Form) (page d a : Nat) (imm : Int) (s : State) : RunV Word :=
  match need s [.g a] with
  | .error e => .error e
  | .ok _ =>
    let t := rg s a + ofInt imm
    if t.getLsbD 0 then raiseAccess 0x04 0 t s else .ok (wg s d (returnAddr fm page s), t)

/-- `BR` on page 0 (R90, R106). -/
def execBrP0 (fm : Form) (imm : Int) (s : State) : Out := runTo (branch fm 0 imm) s

/-- `BRC` on page 0 (R90, R106). -/
def execBrcP0 (fm : Form) (d : Nat) (imm : Int) (s : State) : Out := runTo (branchIf fm 0 d imm) s

/-- `JAL` on page 0 (R90, R107). -/
def execJalP0 (fm : Form) (d : Nat) (imm : Int) (s : State) : Out := runTo (jumpLink fm 0 d imm) s

/-- `JALR` on page 0 (R90, R107). -/
def execJalrP0 (fm : Form) (d a : Nat) (imm : Int) (s : State) : Out := runTo (jumpReg fm 0 d a imm) s

/-- `BR` (R106). -/
def execBr (fm : Form) (imm : Int) (s : State) : Out := runTo (branch fm 4 imm) s

/-- `BRC` (R106). -/
def execBrc (fm : Form) (d : Nat) (imm : Int) (s : State) : Out := runTo (branchIf fm 4 d imm) s

/-- `JAL` (R107). -/
def execJal (fm : Form) (d : Nat) (imm : Int) (s : State) : Out := runTo (jumpLink fm 4 d imm) s

/-- `JALR` (R107). -/
def execJalr (fm : Form) (d a : Nat) (imm : Int) (s : State) : Out := runTo (jumpReg fm 4 d a imm) s

end Sys2Proof.Machine
end

