-- ==== Sys2Proof/Machine/Ordering.lean ====
section
/-! DEFINITION. Scopes, acquires, releases, the wayside table and its confirmations (R114, R139, R143 to R148,
R248). -/

namespace Sys2Proof.Machine

/-! ## Confirmations -/

/-- The home compares versions and answers a confirmation request (R248). A line of version UNKNOWN is struck. -/
def serveConfirm (gtid : Word) (line : Nat) (s : State) : State :=
  let i := s.coh.confirms.findIdx (fun c => c.gtid = gtid ∧ c.line = line ∧ c.answer = none)
  match s.coh.confirms[i]? with
  | none => s
  | some c =>
    { s with coh.confirms := s.coh.confirms.set i { c with answer := some (agrees s.coh c) } }

/-- Gives the PENDING entries of a line and version their answer (R145). -/
def settleWayside (line : Nat) (version : Option Nat) (ok : Bool) (c : Ctx) : Ctx :=
  { c with aux.wayside := c.aux.wayside.map (fun w =>
      if w.line = line ∧ w.version = version ∧ w.state = .pending
      then { w with state := if ok then .confirmed else .struck } else w) }

/-- An answer reaches the context's table (R145). -/
def answerWayside (gtid : Word) (line : Nat) (s : State) : State :=
  let i := s.coh.confirms.findIdx (fun c => c.gtid = gtid ∧ c.line = line ∧ c.answer.isSome)
  match s.coh.confirms[i]? with
  | none => s
  | some c =>
    let s1 := { s with coh.confirms := s.coh.confirms.eraseIdx i }
    if s.ctx.prv.gtid = gtid ∧ s.core.act then
      { s1 with ctx := settleWayside line c.version (c.answer.getD false) s.ctx }
    else onContext gtid (settleWayside line c.version (c.answer.getD false)) s1

/-- An unanswered request is struck after 10 microseconds (R145). -/
def timeoutWayside (gtid : Word) (line : Nat) (s : State) : State :=
  let i := s.coh.confirms.findIdx (fun c => c.gtid = gtid ∧ c.line = line)
  match s.coh.confirms[i]? with
  | none => s
  | some c =>
    let s1 := { s with coh.confirms := s.coh.confirms.eraseIdx i }
    if s.ctx.prv.gtid = gtid ∧ s.core.act then
      { s1 with ctx := settleWayside line c.version false s.ctx }
    else onContext gtid (settleWayside line c.version false) s1

/-- One unit of the work that PENDING entries of the context wait for. An entry whose request is gone is struck
as unanswered. -/
def progressWayside (s : State) : State :=
  match s.coh.confirms.find? (fun c => c.gtid = s.ctx.prv.gtid) with
  | some c => if c.answer.isSome then answerWayside c.gtid c.line s else serveConfirm c.gtid c.line s
  | none =>
    { s with ctx.aux.wayside := s.ctx.aux.wayside.map (fun w =>
        if w.state = .pending then { w with state := .struck } else w) }

/-- An entry of the context is PENDING. -/
def waysidePending (c : Ctx) : Bool := c.aux.wayside.any (fun w => w.state = .pending)

/-- The STRUCK entries of the context. -/
def waysideStruck (c : Ctx) : List Wayside := c.aux.wayside.filter (fun w => w.state = .struck)

/-- Frees every entry of the context and discards answers on their way (R144, R146). -/
def freeWayside (s : State) : State :=
  { s with
    ctx.aux.wayside := []
    coh.confirms := s.coh.confirms.filter (fun c => c.gtid ≠ s.ctx.prv.gtid) }

/-- A context leaves the active bank: PENDING entries become STRUCK (R148). -/
def strikePending (c : Ctx) : Ctx :=
  { c with aux.wayside := c.aux.wayside.map (fun w =>
      if w.state = .pending then { w with state := .struck } else w) }

/-- The wayside rule of a release at pkg scope or wider (R147): STRIKE carries the number of struck entries and
the least of their addresses (R73). -/
def waysideRule (scope : Nat) (s : State) : Except Stop Unit :=
  if scope < 2 then .ok ()
  else if waysidePending s.ctx then waitIn (progressWayside s)
  else
    match waysideStruck s.ctx with
    | [] => .ok ()
    | w :: l => raise 0x10 (l.length + 1)
        (l.foldl (fun a x => if x.va.toNat < a.toNat then x.va else a) w.va) s

/-- The acquire side of an ordering instruction: at pkg scope or wider, a clearing (R244). At every scope the thread's later
releases carry what other threads have stored before (R257). -/
def acquireAt (scope : Nat) (s : State) : Run := if scope < 2 then .ok (heardAll s) else clearing (heardAll s)

/-- The release side of an ordering instruction at pkg scope or wider: the wayside rule, and every earlier
store performed at the scope (R114, R147). -/
def releaseAt (scope : Nat) (s : State) : Run := do
  let _ ← waysideRule scope s
  if scope < 2 then .ok s else awaitStores scope s

/-! ## Wayside loads -/

/-- Makes an entry and sends its confirmation request, after the die's own earlier write-throughs to the line
(R144, R243). -/
def addWayside (va : Word) (x : Copy) (s : State) : State :=
  if s.ctx.aux.wayside.any (fun w => w.line = x.line ∧ w.version = x.version) then s
  else
    let s1 := applyWts s.die x.line s
    { s1 with
      ctx.aux.wayside := s1.ctx.aux.wayside ++ [⟨va, x.line, x.version, .pending⟩]
      coh.confirms := s1.coh.confirms ++ [⟨s1.ctx.prv.gtid, s1.die, x.line, x.version, none, s1.pid⟩] }

/-- The copy an `LDW` reads as a wayside load: another die of the package homes the line, the die holds a copy
of age below 2^15, no store of the context is forwarded, and the table has room (R143, R144). -/
def waysideCopy (pa n : Nat) (s : State) : Option Copy :=
  if localMem s pa && decide (homeDie pa ≠ s.die ∧ s.ctx.aux.wayside.length < 32) &&
      !s.core.sb.any (fun e => e.meets pa n) then copyOf s.coh s.die (lineOf pa)
  else none

/-- The bytes of an `LDW` after its checks (R143). -/
def loadWayside (va : Word) (ph : Phys) (n : Nat) (s : State) : Except Stop (State × List Byte) :=
  match (if uncached ph then none else waysideCopy ph.pa n s) with
  | none => loadPhys false ph n s
  | some x =>
    if tokensHeld s.coh s.cur x.line then waitIn s
    else if !msgsPast s.ctx.prv.gtid ph.pa n s then waitIn (progress s)
    else
      let s := heard ph.pa n { s with coh := readToken s.cur x.line s.coh }
      if x.poison then raisePoison s
      else .ok (addWayside va x s, raceBytes (addWayside va x s) ph.pa ((x.data.drop (ph.pa % 128)).take n))

/-- `LDW` (R143). -/
def execLdw (fm : Form) (z : Wd) (d a : Nat) (imm : Int) (s : State) : Out :=
  runOne (fm.len 7) (fun s => do
    let _ ← need s [.g a]
    let va := eaImm fm 0 a imm z.bytes s
    let (s, ph) ← checkScalar .load .ldw va z.bytes s
    let (s, v) ← loadWayside va ph z.bytes s
    .ok (wg s d (loadedS v))) s

/-- `CHKW` (R146). -/
def execChkw (fm : Form) (imm : Int) (s : State) : Out :=
  runTo (fun s =>
    if waysidePending s.ctx then waitIn (progressWayside s)
    else if waysideStruck s.ctx ≠ [] then .ok (freeWayside s, relTarget fm 7 imm s)
    else .ok (freeWayside s, returnAddr fm 7 s)) s

end Sys2Proof.Machine
end

