-- ==== Sys2Proof/Machine/ScalarMem.lean ====
section
/-! DEFINITION. Scalar loads and stores (R109 to R119). -/

namespace Sys2Proof.Machine

/-- Effect of a load into a `g` register at an effective address. -/
def loadG (home : Bool) (va : Word) (n : Nat) (d : Nat) (f : List Byte → Word) (s : State) : Run := do
  let (s, v) ← loadScalar home .scalar va n s
  .ok (wg s d (f v))

/-- Effect of a load into an `f` register, zero above the loaded bits (R115). -/
def loadF (va : Word) (n : Nat) (d : Nat) (s : State) : Run := do
  let (s, v) ← loadScalar false .scalar va n s
  .ok (wf s d (loadedU v))

/-- `LD` on page 0: a doubleword (R90, R112). -/
def execLdP0 (fm : Form) (d a : Nat) (imm : Int) (s : State) : Out :=
  runRep fm (fm.len 0) (fun j _ s => do
    let _ ← need s [.g (fm.a j a)]
    loadG false (eaImm fm j a imm 8 s) 8 (fm.d j d) loadedS s) s

/-- `ST` on page 0: a doubleword (R90, R112). -/
def execStP0 (fm : Form) (d a : Nat) (imm : Int) (s : State) : Out :=
  runRep fm (fm.len 0) (fun j _ s => do
    let _ ← need s [.g (fm.a j a), .g (fm.d j d)]
    storeScalar (eaImm fm j a imm 8 s) (bytesOfWord 8 (rg s (fm.d j d))) s) s

/-- `FLD` on page 0: a doubleword (R90, R115). -/
def execFldP0 (fm : Form) (d a : Nat) (imm : Int) (s : State) : Out :=
  runRep fm (fm.len 0) (fun j _ s => do
    let _ ← need s [.g (fm.a j a)]
    loadF (eaImm fm j a imm 8 s) 8 (fm.d j d) s) s

/-- `LD` (R112). -/
def execLd (fm : Form) (z : Sz) (d a : Nat) (imm : Int) (s : State) : Out :=
  runRep fm (fm.len 5) (fun j _ s => do
    let _ ← need s [.g (fm.a j a)]
    loadG false (eaImm fm j a imm z.bytes s) z.bytes (fm.d j d) loadedS s) s

/-- `LDZ` (R112). -/
def execLdz (fm : Form) (z : Ex) (d a : Nat) (imm : Int) (s : State) : Out :=
  runRep fm (fm.len 5) (fun j _ s => do
    let _ ← need s [.g (fm.a j a)]
    loadG false (eaImm fm j a imm z.bytes s) z.bytes (fm.d j d) loadedU s) s

/-- `ST` (R112). -/
def execSt (fm : Form) (z : Sz) (d a : Nat) (imm : Int) (s : State) : Out :=
  runRep fm (fm.len 5) (fun j _ s => do
    let _ ← need s [.g (fm.a j a), .g (fm.d j d)]
    storeScalar (eaImm fm j a imm z.bytes s) (bytesOfWord z.bytes (rg s (fm.d j d))) s) s

/-- `LDX` (R112). -/
def execLdx (fm : Form) (z : Sz) (d a b : Nat) (s : State) : Out :=
  runRep fm (fm.len 5) (fun j _ s => do
    let _ ← need s [.g (fm.a j a), .g (fm.b j b)]
    loadG false (eaIdx fm j a b z.bytes s) z.bytes (fm.d j d) loadedS s) s

/-- `STX` (R112). -/
def execStx (fm : Form) (z : Sz) (d a b : Nat) (s : State) : Out :=
  runRep fm (fm.len 5) (fun j _ s => do
    let _ ← need s [.g (fm.a j a), .g (fm.b j b), .g (fm.d j d)]
    storeScalar (eaIdx fm j a b z.bytes s) (bytesOfWord z.bytes (rg s (fm.d j d))) s) s

/-- `LDP`: two elements in one access (R113). -/
def execLdp (fm : Form) (z : Wd) (d a : Nat) (imm : Int) (s : State) : Out :=
  runRep fm (fm.len 5) (fun j _ s => do
    let _ ← need s [.g (fm.a j a)]
    let (s, v) ← loadScalar false .scalar (eaImm fm j a imm (2 * z.bytes) s) (2 * z.bytes) s
    .ok (wg (wg s (fm.d j d) (loadedS (v.take z.bytes))) (fm.d j d + 1) (loadedS (v.drop z.bytes)))) s

/-- `STP`: two elements in one access (R113). -/
def execStp (fm : Form) (z : Wd) (d a : Nat) (imm : Int) (s : State) : Out :=
  runRep fm (fm.len 5) (fun j _ s => do
    let _ ← need s [.g (fm.a j a), .g (fm.d j d), .g (fm.d j d + 1)]
    storeScalar (eaImm fm j a imm (2 * z.bytes) s)
      (bytesOfWord z.bytes (rg s (fm.d j d)) ++ bytesOfWord z.bytes (rg s (fm.d j d + 1))) s) s

/-- `LDA`: an acquire at its scope; from pkg on it reads at the home and clears the die (R114). -/
def execLda (fm : Form) (sc : Scope) (z : Wd) (d a : Nat) (imm : Int) (s : State) : Out :=
  runOne (fm.len 6) (fun s => do
    let _ ← need s [.g a]
    let va := eaImm fm 0 a imm z.bytes s
    let (s, v) ← loadScalar (decide (2 ≤ sc.code)) .scalar va z.bytes s
    let s ← acquireAt sc.code s
    .ok (wg s d (loadedS v))) s

/-- `STL`: a release at its scope (R114). Its checks come first, then the wayside rule, then the wait. -/
def execStl (fm : Form) (sc : Scope) (z : Wd) (d a : Nat) (imm : Int) (s : State) : Out :=
  runOne (fm.len 6) (fun s => do
    let _ ← need s [.g a, .g d]
    let va := eaImm fm 0 a imm z.bytes s
    let (s, ph) ← checkScalar .store .scalar va z.bytes s
    let s ← releaseAt sc.code s
    storePhys ph (bytesOfWord z.bytes (rg s d)) 0xFF s) s

/-- `FLD` (R115). -/
def execFld (fm : Form) (z : Fs) (d a : Nat) (imm : Int) (s : State) : Out :=
  runRep fm (fm.len 6) (fun j _ s => do
    let _ ← need s [.g (fm.a j a)]
    loadF (eaImm fm j a imm z.bytes s) z.bytes (fm.d j d) s) s

/-- `FST` (R115). -/
def execFst (fm : Form) (z : Fs) (d a : Nat) (imm : Int) (s : State) : Out :=
  runRep fm (fm.len 6) (fun j _ s => do
    let _ ← need s [.g (fm.a j a), .f (fm.d j d)]
    storeScalar (eaImm fm j a imm z.bytes s) (bytesOfWord z.bytes (rf s (fm.d j d))) s) s

/-- A fill of a line is asked for unless the die homes the line or holds a fresh copy; its reply is on its way (R241). -/
def askFill (pa : Nat) (s : State) : State :=
  if homeDie pa = s.die ∨ (freshCopy s.coh s.die (lineOf pa)).isSome then s
  else
    let r := serveFill s.die (lineOf pa) s
    { r.1 with coh.fills := r.1.coh.fills ++ [⟨s.die, lineOf pa, generation s.coh s.die, r.2, s.pid⟩] }

/-- What `PREF` does with a line it may bring in: tokens of the line, all of them for a write, and a fill of another die's
line. The last-level cache is part of the home and holds no copy (R237). -/
def prefetchLine (lv : Pf) (pa : Nat) (s : State) : State :=
  if !localMem s pa || tokensHeld s.coh s.cur (lineOf pa) then s
  else
    match lv with
    | .l1w => askFill pa { s with coh := gatherTokens s.cur (lineOf pa) s.coh }
    | .llc => s
    | _ => askFill pa { s with coh := readToken s.cur (lineOf pa) s.coh }

/-- `PREF`: a hint that raises nothing; where it would fault, meets a lock or has a poisoned base, it does nothing
(R116). Each variant is checked as a load. DESIGN CHOICE, log 70. -/
def execPref (fm : Form) (lv : Pf) (a : Nat) (imm : Int) (s : State) : Out :=
  runRep fm (fm.len 6) (fun j _ s =>
    let va := eaImm fm j a imm 128 s
    match translate .load va 1 s with
    | .error _ => .ok s
    | .ok (s1, ph) =>
      if poisonedSrc s (.g (fm.a j a)) || uncached ph || locked s .store (va.toNat / 128 * 128) 128 then .ok s
      else .ok (prefetchLine lv ph.pa s1)) s

/-- `SBST`: one field of a byte (R117). -/
def execSbst (fm : Form) (sb : Sb) (d a : Nat) (imm : Int) (s : State) : Out :=
  runOne (fm.len 6) (fun s => do
    let _ ← need s [.g a, .g d]
    let w := sb.bits
    let fld := (rg s a + ofInt imm).toNat
    let sh := w * (fld % (8 / w))
    let (s, ph) ← checkScalar .store .sbst (BitVec.ofNat 64 (fld / (8 / w))) 1 s
    storePhys ph [BitVec.ofNat 8 ((rg s d).toNat % 2 ^ w * 2 ^ sh)]
      (BitVec.ofNat 8 ((2 ^ w - 1) * 2 ^ sh)) s) s

end Sys2Proof.Machine
end

