-- ==== Sys2Proof/Machine/Atomics.lean ====
section
/-! DEFINITION. Atomics (R135 to R138) and fences (R139). -/

namespace Sys2Proof.Machine

/-- The home performs the atomic at a place of the list of those on their way (R138, R243), after the die's own
earlier write-throughs to the line. A copy that another core of the die filled while it was on its way goes too: a later
load reads the atomic's write or a later one (R138, R245). The home's own die gives up no token for it (log 92).
DEDUCED, log 30. -/
def serveAtomicAt (i : Nat) (s : State) : State :=
  match s.coh.atomics[i]? with
  | none => s
  | some q =>
    let s1 := applyWts q.die (lineOf q.pa) { s with coh.atomics := s.coh.atomics.eraseIdx i }
    let s2 := { s1 with coh := dropCopy q.die (lineOf q.pa) s1.coh }
    if linePoisoned s2 (lineOf q.pa) then answerAtomic q.gtid .atomicPoison s2
    else
      let (s3, old, fl) := amoAt q.gtid (AmoOp.ofCode q.op) q.pa q.size q.src q.cmp s2
      answerAtomic q.gtid (.atomicAnswer old fl) { s3 with coh := noteRead q.gtid q.die q.pa q.size s3.coh }

/-- One unit of what a context waits for that has sent an atomic: it is performed at its home on another die, or its
message to another package gets on. -/
def serveAtomicOf (gtid : Word) (s : State) : State :=
  if s.coh.atomics.any (fun q => decide (q.gtid = gtid))
  then serveAtomicAt (s.coh.atomics.findIdx (fun q => q.gtid = gtid)) s else progress s

/-- `ATOMIC_AT_HOME`: the home of a line performs the oldest atomic a die sent there (R138). -/
def execAtomicAtHome (die line : Nat) (s : State) : Out :=
  .next (serveAtomicAt (s.coh.atomics.findIdx (fun q => q.die = die ∧ lineOf q.pa = line)) s)

/-- Sends an atomic to the home of its line on another die, or in a message to the owner in another package (R138,
R249). -/
def sendAtomic (op : AmoOp) (pa n : Nat) (src cmp : Word) (s : State) : State :=
  let s1 := { s with ctx.aux.sent := .atomic (lineOf pa) }
  if localMem s pa then
    let c1 := dropCopy s.die (lineOf pa) (gatherTokens s.cur (lineOf pa) s.coh)
    { s1 with coh := { c1 with atomics := c1.atomics ++ [⟨s.ctx.prv.gtid, s.pid, s.die, pa, op.code, n, src, cmp⟩] } }
  else sendMsg (ownerOf s pa) s.ctx.prv.gtid s.pid (.atomic op.code pa n src cmp) false false s1

/-- An atomic that meets bytes which the context's own gather or scatter moves: of those it sees, and leaves, undefined
values (R224), and it does its work on the others. -/
def raceAtomic (op : AmoOp) (pa n : Nat) (src cmp : Word) (s : State) : State :=
  let s1 := if localMem s pa then applyWts s.die (lineOf pa) s else askRemote pa s
  let old := natOfBytes (raceBytes s pa (memReadN s1.mem pa n))
  let new := (amoNew op n old src.toNat cmp.toNat).getD (old, 0)
  let d := raceBytesBy (draw s 46) s pa (bytesOfNat n new.1)
  let s2 := performStore s.cur ⟨s.ctx.prv.gtid, s.pid, pa, d, 0xFF, false⟩ (noteRaces pa n s1)
  { s2 with ctx.aux.sent := .atomicAnswer (BitVec.ofNat 64 old) new.2 }

/-- Performs a checked atomic whose earlier stores have left the buffer, or sends it away. -/
def startAtomic (op : AmoOp) (ph : Phys) (n : Nat) (src cmp : Word) (s : State) : Run :=
  if isHostWin ph.pa && !linkUpAt s ph.pa then raisePoison s
  else if (List.range n).any (fun i => racing s (ph.pa + i)) then
    (if linePoisoned s (lineOf ph.pa) then raisePoison s
     else if ownerOf s ph.pa ≠ s.pkg && !remoteReady s.ctx.prv.gtid ph.pa n s then waitIn (progress s)
     else .ok (raceAtomic op ph.pa n src cmp s))
  else if ownerOf s ph.pa = s.pkg && (isHostWin ph.pa || decide (homeDie ph.pa = s.die)) then
    let s1 := if localMem s ph.pa then { s with coh := gatherTokens s.cur (lineOf ph.pa) s.coh } else s
    if linePoisoned s1 (lineOf ph.pa) then raisePoison s1
    else
      let (s2, old, fl) := amoAt s.ctx.prv.gtid op ph.pa n src cmp s1
      .ok { s2 with ctx.aux.sent := .atomicAnswer old fl }
  else if deadHome s ph.pa then raisePoison s
  else waitIn (sendAtomic op ph.pa n src cmp s)

/-- Waits while another core's persistent request for the line is active (R240), a message of the thread to the bytes is
still to be applied (R255), or the messages to the owner would be too many (R390). -/
def atomicTurn (pa n : Nat) (s : State) : Except Stop Unit :=
  if storeHeld s.cur s.ctx.prv.gtid pa n s then waitIn (progress s) else .ok ()

/-- The effect of an atomic up to its answer. `rel` is its release scope if it releases. Every earlier store
leaves the store buffer first (R259). -/
def runAtomic (op : AmoOp) (rel : Option Nat) (va : Word) (n : Nat) (src cmp : Word) (s : State) :
    Except Stop (State × Word × Nat) :=
  match s.ctx.aux.sent with
  | .atomicAnswer old fl => .ok (s, old, fl)
  | .atomicPoison => raisePoison s
  | .atomic _ => waitIn (serveAtomicOf s.ctx.prv.gtid s)
  | _ => do
    let (s, ph) ← checkScalar .atomic (.atomic op.code) va n s
    let s ← match rel with
      | none => .ok s
      | some sc => releaseAt sc s
    let s ← awaitStores 0 s
    let _ ← atomicTurn ph.pa n s
    let s ← startAtomic op ph n src cmp s
    match s.ctx.aux.sent with
    | .atomicAnswer old fl => .ok (s, old, fl)
    | _ => waitIn s

/-- Order bits of an atomic include a release. -/
def Order.releases : Order → Bool
  | .rel => true
  | .ar => true
  | _ => false

/-- Order bits of an atomic include an acquire. -/
def Order.acquires : Order → Bool
  | .acq => true
  | .ar => true
  | _ => false

/-- An integer atomic (R136, R138). -/
def amoInt (op : AmoOp) (o : Order) (z : Wd) (sc : Scope) (d a b : Nat) (s : State) : Run := do
  let _ ← need s ([.g a, .g b] ++ (if op = .cas then [Src.g d] else []))
  let (s, old, _) ← runAtomic op (if Order.releases o then some sc.code else none) (rg s a) z.bytes (rg s b) (rg s d) s
  let s ← if Order.acquires o then acquireAt sc.code s else .ok s
  .ok (wg s d (ofInt (sext old.toNat (8 * z.bytes))))

/-- `AMOADD` (R136). -/
def execAmoadd (fm : Form) (o : Order) (z : Wd) (sc : Scope) (d a b : Nat) (s : State) : Out :=
  runOne (fm.len 8) (amoInt .add o z sc d a b) s

/-- `AMOAND` (R136). -/
def execAmoand (fm : Form) (o : Order) (z : Wd) (sc : Scope) (d a b : Nat) (s : State) : Out :=
  runOne (fm.len 8) (amoInt .and o z sc d a b) s

/-- `AMOOR` (R136). -/
def execAmoor (fm : Form) (o : Order) (z : Wd) (sc : Scope) (d a b : Nat) (s : State) : Out :=
  runOne (fm.len 8) (amoInt .or o z sc d a b) s

/-- `AMOXOR` (R136). -/
def execAmoxor (fm : Form) (o : Order) (z : Wd) (sc : Scope) (d a b : Nat) (s : State) : Out :=
  runOne (fm.len 8) (amoInt .xor o z sc d a b) s

/-- `AMOMIN` (R136). -/
def execAmomin (fm : Form) (o : Order) (z : Wd) (sc : Scope) (d a b : Nat) (s : State) : Out :=
  runOne (fm.len 8) (amoInt .min o z sc d a b) s

/-- `AMOMAX` (R136). -/
def execAmomax (fm : Form) (o : Order) (z : Wd) (sc : Scope) (d a b : Nat) (s : State) : Out :=
  runOne (fm.len 8) (amoInt .max o z sc d a b) s

/-- `AMOMINU` (R136). -/
def execAmominu (fm : Form) (o : Order) (z : Wd) (sc : Scope) (d a b : Nat) (s : State) : Out :=
  runOne (fm.len 8) (amoInt .minu o z sc d a b) s

/-- `AMOMAXU` (R136). -/
def execAmomaxu (fm : Form) (o : Order) (z : Wd) (sc : Scope) (d a b : Nat) (s : State) : Out :=
  runOne (fm.len 8) (amoInt .maxu o z sc d a b) s

/-- `AMOSWAP` (R136). -/
def execAmoswap (fm : Form) (o : Order) (z : Wd) (sc : Scope) (d a b : Nat) (s : State) : Out :=
  runOne (fm.len 8) (amoInt .swap o z sc d a b) s

/-- `AMOCAS` (R136). -/
def execAmocas (fm : Form) (o : Order) (z : Wd) (sc : Scope) (d a b : Nat) (s : State) : Out :=
  runOne (fm.len 8) (amoInt .cas o z sc d a b) s

/-- `AMOFADD` (R137). Its flags never trap. -/
def execAmofadd (fm : Form) (o : Order) (z : Wd) (sc : Scope) (d a b : Nat) (s : State) : Out :=
  runOne (fm.len 8) (fun s => do
    let _ ← need s [.g a, .f b]
    let (s, old, fl) ← runAtomic .fadd (if Order.releases o then some sc.code else none) (rg s a) z.bytes (rf s b) 0 s
    let s ← if Order.acquires o then acquireAt sc.code s else .ok s
    .ok (orFlags fl (wf s d old))) s

/-- Waits until the messages to other packages that count for the thread are acknowledged. -/
def awaitMsgs (s : State) : Run := if msgsDone s.ctx.prv.gtid s then .ok s else waitIn (progress s)

/-- `FENCE` (R139, R258): loads are performed in order; the store buffer keeps stores in order below pkg scope. `FENCE.sc`
orders stores to other packages too, at every scope, since R278 excepts no location. DEDUCED, log 102. -/
def execFence (fm : Form) (k : Fk) (sc : Scope) (s : State) : Out :=
  runOne (fm.len 9) (fun s =>
    match k with
    | .load => .ok s
    | .store => if sc.code < 2 then .ok s else awaitStores sc.code s
    | .acquire => acquireAt sc.code s
    | .release => releaseAt sc.code s
    | .sc => do
      let _ ← waysideRule sc.code s
      let s ← awaitStores sc.code s
      let s ← awaitMsgs s
      acquireAt sc.code s) s

end Sys2Proof.Machine
end

