-- ==== Sys2Proof/Machine/Traps.lean ====
section
/-! DEFINITION. Asynchronous causes, interrupts, the refusal to issue, and the traps of fetch and decode (R88,
R283, R329 to R340). -/

namespace Sys2Proof.Machine

/-! ## Pending causes -/

/-- An asynchronous MCHK is pending for the active context (R332). -/
def mchkPending (s : State) : Bool := s.ctx.prv.pending.getLsbD 0x13

/-- An AUDIT is pending for the active context (R332). -/
def auditPending (s : State) : Bool := s.ctx.prv.pending.getLsbD 0x0F

/-- An interrupt that routes to a level is taken (R283). -/
def takeable (s : State) (lvl : Nat) : Bool := decide (lvl > s.pl) || (decide (lvl = s.pl) && s.ie lvl)

/-- The partition of a slot-table entry differs from the active context's (R340). A thread the package does not
know counts as another partition's. -/
def entryDiffers (s : State) (entry : Word) : Bool :=
  match bits entry 62 2 with
  | 1 => decide (pidOf s (BitVec.ofNat 64 (bits entry 0 48)) ≠ some s.pid)
  | _ => decide (bits entry 0 12 ≠ s.pid)

/-- The level PREEMPT routes to (R340): at least hypervisor where the entry's partition differs. -/
def preemptLevel (s : State) (entry : Word) : Nat :=
  routeUp s (max (max (routeFirst s 0x15) s.pl) (if entryDiffers s entry then 2 else 0))

/-- A quantum of KIND 0, in which both banks issue nothing (R338). -/
def nobodys (s : State) : Bool := s.core.quantum.any (fun q => decide (bits q.2 62 2 = 0))

/-- A pending PREEMPT is taken now. A quantum that goes to nobody lets it wait (R338, R340). -/
def preemptReady (s : State) : Bool :=
  match s.core.preempt with
  | some (_, entry) => takeable s (preemptLevel s entry) && !nobodys s
  | none => false

/-- DETAILs of the INTs pending at the core that the active context may take (R332): those that carry its PID or
PID 0, and messages. -/
def intsFor (s : State) : List (Bool × Nat × Nat) :=
  ((s.core.ints.filter (fun i => i.pid = 0 ∨ i.pid = s.pid)).map (fun i => (false, i.detail, i.pid))) ++
  ((s.core.messages.filter (fun m => (m.1 = 0 ∨ m.1 = s.pid) ∧ m.2 > 0)).map (fun m => (true, 0x0001, m.1)))

/-- An INT is pending and enabled. -/
def intReady (s : State) : Bool := !(intsFor s).isEmpty && takeable s (route s 0x14 s.pl)

/-- An interrupt is pending whose route gives a level at or above PL, whether enabled or not (R301). -/
def interruptWaits (s : State) : Bool := s.core.preempt.isSome || !(intsFor s).isEmpty

/-- The INT that is taken: which of several is not given, so a free value chooses. -/
def chosenInt (s : State) : Bool × Nat × Nat :=
  ((intsFor s)[Config.freeNat (draw s 0) % (intsFor s).length]?).getD (false, 0, 0)

/-- Removes an INT that is taken from its core: one message, or the merged INT of a source (R333, R425). -/
def clearInt (x : Bool × Nat × Nat) (s : State) : State :=
  if x.1 then
    { s with core.messages := s.core.messages.map (fun m => if m.1 = x.2.2 then (m.1, m.2 - 1) else m) }
  else { s with core.ints := s.core.ints.filter (fun i => ¬ (i.detail = x.2.1 ∧ i.pid = x.2.2)) }

/-- An acceptance of a thread's `TSPAWN` has been recorded: it is past withdrawing (R353). -/
def spawnNoted (g : Word) (s : State) : Bool :=
  s.sched.requests.any (fun r =>
    match r with
    | .accepted _ x t => decide (x = g) && s.sched.teams.any (fun y => decide (y.id = t) && y.noted)
    | _ => false)

/-- The instruction at hand has sent or started something that completes before an interrupt (R334). -/
def mustComplete (s : State) : Bool :=
  match s.ctx.aux.sent with
  | .spawn => spawnNoted s.ctx.prv.gtid s
  | .spawnAnswer _ | .info | .infoAnswer _ _ | .atomic _ | .atomicAnswer _ _ | .atomicPoison | .working | .resumed _ _ => true
  | _ => false

/-- A request that a `TSPAWN` of a thread has sent. -/
def Request.spawnOf (g : Word) : Request → Bool
  | .spawn _ x _ _ => decide (x = g)
  | .accepted _ x _ => decide (x = g)
  | .info _ _ _ => false

/-- The team of an acceptance that is not recorded yet, for a thread. -/
def Request.teamOf (g : Word) : Request → Option Nat
  | .accepted _ x t => if x = g then some t else none
  | _ => none

/-- A thread's `TSPAWN` goes no further: its request is withdrawn, and with it a team whose acceptance has not been
recorded (R22, R150, R368). -/
def withdrawSpawn (g : Word) (s : State) : State :=
  let gone := s.sched.requests.filterMap (Request.teamOf g)
  { s with
    sched.requests := if spawnNoted g s then s.sched.requests
      else s.sched.requests.filter (fun r => !Request.spawnOf g r)
    sched.teams := s.sched.teams.filter (fun t => t.noted || !gone.contains t.id) }

/-- An instruction that is abandoned withdraws what it has sent: a squashed `TSPAWN` creates nothing (R29, R150,
R175, R334). -/
def abandon (s : State) : State :=
  match s.ctx.aux.sent with
  | .spawn => withdrawSpawn s.ctx.prv.gtid s
  | _ => s

/-- `ASYNC_CAUSE_DELIVERY`: MCHK, then AUDIT, at rank 1 and 2 (R329, R332). A halted core takes nothing (R302). -/
def execAsyncCauseDelivery (s : State) : Out :=
  if s.core.halted then .next s
  else if mchkPending s then
    .next (takeAsync 0x13 s.ctx.prv.mchkDetail.toNat 0
      { abandon s with ctx.prv.pending := s.ctx.prv.pending &&& ~~~(1#64 <<< 0x13) })
  else if auditPending s then
    .next (takeAsync 0x0F s.ctx.prv.auditDetail.toNat s.ctx.prv.auditTval
      { abandon s with ctx.prv.pending := s.ctx.prv.pending &&& ~~~(1#64 <<< 0x0F) })
  else .next s

/-- Entry of a PREEMPT at the level R340 gives. -/
def takePreempt (idx : Nat) (entry : Word) (s : State) : State :=
  let s1 := recordRepeats s
  let lvl := preemptLevel s entry
  let s2 := { s1 with core.preempt := none, ctx.aux.sent := .nothing, ctx.aux.repLeft := 0 }
  if lvl = 3 ∧ vecBase s.ctx.prv.mon.tvec = 0 then haltCore s2
  else { enter lvl 0x15 idx (BitVec.ofNat 64 (bits entry 0 48)) s.pc s2 with core.minPl := lvl, ctx.aux.passedAt := s.cyc }

/-! ## Fetch and decode -/

/-- `ILLEGAL_INSTRUCTION`: words that are no instruction raise ILL (R87, R88, R331). A halted core fetches nothing
(R302). -/
def execIllegalInstruction (s : State) : Out :=
  if s.core.halted then .next s else .next (takeTrap none (illTrap s) (recordRepeats s))

/-- `INSTRUCTION_FETCH_FAULT`: a word of the instruction cannot be fetched (R88, R317, R372). A halted core fetches
nothing (R302). -/
def execInstructionFetchFault (ff : FetchFault) (s : State) : Out :=
  if s.core.halted then .next s
  else
  match ff with
  | .page detail va => .next (takeFetchTrap ⟨0x05, detail, va, true, 0⟩ s)
  | .entry => .next (takeFetchTrap ⟨0x0E, 2, 0, true, 0⟩ s)
  | .poison => .next (takeFetchTrap ⟨0x13, 0x0001, 0, false, 0⟩ s)

/-- The fetch fault a trap of the fetch stands for. -/
def fetchFaultOf (t : Trap) : FetchFault :=
  if t.code = 0x05 then .page t.detail t.tval
  else if t.code = 0x0E then .entry
  else .poison

/-- The first eight bytes of the fetched words, as TVAL of ILL holds them (R331). DEDUCED, log 66. -/
def irOf (ws : List HWord) : Word := BitVec.ofNat 64 (natOfBytes ((ws.flatMap hwordBytes).take 8))

/-! ## Issue -/

/-- A context qualifies for a slot-table entry (R338). -/
def qualifies (entry : Word) (c : Ctx) : Bool :=
  match bits entry 62 2 with
  | 1 => decide (bits c.prv.gtid 0 48 = bits entry 0 48)
  | 2 => decide (c.pid = bits entry 0 12)
  | _ => false

/-- Commands that the active context issued in another cluster are in flight: it does not issue until they have ended
(R234). -/
def commandsElsewhere (s : State) : Bool :=
  s.copy.cmds.any (fun c => decide (c.gtid = s.ctx.prv.gtid ∧ c.core / 8 ≠ s.cluster))

/-- The active context may issue in the current quantum, which may be lent to it (R142, R338, R340). DEDUCED, log 9. -/
def mayIssue (s : State) : Bool :=
  !commandsElsewhere s &&
  (match s.core.quantum with
   | none => true
   | some (_, entry) => qualifies entry s.ctx || decide (s.pl ≥ s.core.minPl) ||
     decide (s.core.lent = some s.ctx.prv.gtid))

/-- The core does something of its own: it has been released, holds a context and has not halted (R302, R427). -/
def coreRuns (s : State) : Bool := s.core.released && !s.core.halted && (s.core.act || s.core.swapping)

/-- The service an MVC number names (R328, R359, R385, R401, R404, R419, R429). -/
def serviceInstr : Nat → Option Instr
  | 0x40 => some .rdcsize
  | 0x41 => some .pool
  | 0x42 => some .zone
  | 0x43 => some .propose
  | 0x44 => some .expand
  | 0x48 => some .runq
  | 0x49 => some .sapool
  | 0x4A => some .elect
  | 0x50 => some .auditcfg
  | 0x51 => some .auditlog
  | 0x52 => some .auditrun
  | 0x53 => some .auditrule
  | 0x54 => some .quarantine
  | 0x58 => some .dbgstop
  | 0x59 => some .rollcall
  | 0x60 => some .groupbind
  | 0x61 => some .routeset
  | 0x62 => some .notify
  | 0x63 => some .hostvf
  | 0x64 => some .hostwin
  | 0x68 => some .extend
  | 0x69 => some .quote
  | _ => none

/-- The monitor firmware is about to serve a call: its handler was entered by MVC (R451). -/
def firmwareCalled (s : State) : Bool :=
  decide (s.boot.fwHandler = some s.pc ∧ s.pl = 3 ∧ bits s.ctx.prv.mon.cause 0 8 = 0x12)

/-- What a step executes, and in which state. -/
inductive Choice where
  | exec (i : Instr) (s : State)
  | idle (s : State)
deriving DecidableEq, Repr

/-- Fetch and decode at the program counter (R88). DEDUCED, log 17. Before each repeat of one execution the words are fetched
anew. DESIGN CHOICE, log 109. -/
def fetchDecode (s : State) : Choice :=
  match fetchChain 5 s.pc s with
  | .error (.trap t s1) => .exec (.instructionFetchFault (fetchFaultOf t)) s1
  | .error (.wait s1) => .idle s1
  | .ok (s1, ws) =>
    let s2 := { s1 with ctx.aux.ir := irOf ws }
    match decode ws with
    | .ok i => .exec i s2
    | .error _ => .exec .illegalInstruction s2

/-- A swap to a context of another partition is due: it squashes what has not retired (R339). DEDUCED, log 22. -/
def crossing (s : State) : Bool := s.core.swapping && s.core.lodge.any (fun c => decide (c.pid ≠ s.pid))

/-- The instruction at the program counter is a `WFI` that the context may execute: it retires before an interrupt is
taken (R301). -/
def atWfi (s : State) : Bool :=
  decide (1 ≤ s.pl) &&
  (match fetchDecode s with
   | .exec (.wfi _) _ => true
   | _ => false)

/-- `INTERRUPT_ENTRY`: PREEMPT, then INT, where pending and enabled (R283, R329). A halted core takes none (R302), a
`WFI` retires first (R301), and so does what completes before an interrupt (R154, R334). -/
def execInterruptEntry (s : State) : Out :=
  if s.core.halted || mustComplete s || ((preemptReady s || intReady s) && atWfi s) then .next s
  else
  match s.core.preempt with
  | some (idx, entry) =>
    if preemptReady s then .next (takePreempt idx entry (abandon s))
    else if intReady s then .next (takeAsync 0x14 (chosenInt s).2.1 0 (clearInt (chosenInt s) (abandon s)))
    else .next s
  | none =>
    if intReady s then .next (takeAsync 0x14 (chosenInt s).2.1 0 (clearInt (chosenInt s) (abandon s)))
    else .next s

end Sys2Proof.Machine
end

