-- ==== Sys2Proof/Machine/Csr.lean ====
section
/-! DEFINITION. What each control register stores of a value written to it: RO fields keep their value, reserved
codes store 0 (R4, R5, R69 to R72, R288, R310). -/

namespace Sys2Proof.Machine

/-- The bits of a field. -/
def regMask (lo n : Nat) : Word := BitVec.ofNat 64 (2 ^ n - 1) <<< lo

/-- What is left of a value under a list of fields. -/
def fields (l : List (Nat × Nat)) (v : Word) : Word :=
  l.foldl (fun w f => w ||| (v &&& regMask f.1 f.2)) 0

/-- `FCSR`: a write of 5, 6 or 7 to RM stores 0 (R69). -/
def storeFcsr (v : Word) : Word :=
  let w := fields [(16, 8), (5, 3), (0, 5)] v
  if bits w 5 3 ≥ 5 then putBits w 5 3 0 else w

/-- `TCTL`: a write of 6 or 7 to DRM stores 0; CKMODE is writable where `ck` says so (R70). -/
def storeTctl (ck : Bool) (old v : Word) : Word :=
  let w := fields [(24, 6), (16, 4), (12, 3)] v ||| ((if ck then v else old) &&& regMask 15 1)
  if bits w 17 3 ≥ 6 then putBits w 17 3 0 else w

/-- `XSTATE` (R71). -/
def storeXstate (v : Word) : Word := fields [(19, 5), (8, 8), (0, 7)] v

/-- The layout of `UTVEC` and `UEPC` (R72). -/
def storeVec (v : Word) : Word := fields [(1, 55)] v

/-- `UCAUSE` (R72). -/
def storeUcause (v : Word) : Word := fields [(63, 1), (16, 16), (0, 8)] v

/-- `HBASE` and `HLIMIT` (R310). -/
def storeHeap (v : Word) : Word := fields [(16, 40)] v

/-- `HOFFS` (R310). -/
def storeHoffs (v : Word) : Word := fields [(16, 36)] v

/-- `STATUS` written at a level: an IE bit the level may not set stays (R288). -/
def storeStatus (pl : Nat) (old v : Word) : Word :=
  let m := regMask 7 1 ||| regMask 4 1 ||| (if pl ≥ 2 then regMask 5 1 else 0) |||
    (if pl ≥ 3 then regMask 6 1 else 0)
  (v &&& m) ||| (old &&& ~~~m)

/-- A delegation register of level 1, 2 or 3: fixed causes read as 0 (R288). -/
def storeDeleg (lvl : Nat) (v : Word) : Word :=
  if lvl = 1 then fields [(0x08, 1), (0x0C, 3), (0x10, 1)] v
  else fields [(1, 5), (7, 4), (0x0C, 5), (0x13, 3)] v

/-- A CAUSE register of level 1, 2 or 3: PPL is at most the register's level (R288). -/
def storeCause (lvl : Nat) (v : Word) : Word :=
  let w := fields [(61, 3), (16, 16), (0, 8)] v
  if bits w 62 2 > lvl then putBits w 62 2 lvl else w

/-- `PTBASE` (R288). -/
def storePtbase (v : Word) : Word := fields [(12, 52)] v

/-- `TEAMLIM` (R288). -/
def storeTeamlim (v : Word) : Word := fields [(0, 28)] v

/-- `WATCHF` (R288). -/
def storeWatchf (v : Word) : Word := fields [(0, 3)] v

/-- `PARTID` (R288). -/
def storePartid (v : Word) : Word := fields [(16, 1), (0, 12)] v

/-- `PWBASE` and `PWLIMIT` (R288). -/
def storeWindow (v : Word) : Word := fields [(12, 40)] v

/-- `SLOTTABn`: KIND 3 stores 0; KIND 2 keeps ID [11:0] only (R288). -/
def storeSlottab (v : Word) : Word :=
  let k := if bits v 62 2 = 3 then 0 else bits v 62 2
  BitVec.ofNat 64 (k * 2 ^ 62 + (if k = 2 then bits v 0 12 else bits v 0 48))

/-- `ENGSEL` (R288). -/
def storeEngsel (v : Word) : Word := fields [(8, 2), (0, 5)] v

/-- `ENGSLOT`: KIND 3 stores 0 (R288). -/
def storeEngslot (v : Word) : Word :=
  let w := fields [(4, 2), (0, 3)] v
  if bits w 4 2 = 3 then putBits w 4 2 0 else w

/-- `MODES` (R288). -/
def storeModes (v : Word) : Word := fields [(0, 7)] v

/-- A trap set of level 1, 2 or 3 under its registers' layouts. -/
def storeTrapSet (lvl : Nat) (x : TrapSet) : TrapSet :=
  { deleg := storeDeleg lvl x.deleg, tvec := storeVec x.tvec, cause := storeCause lvl x.cause
    epc := storeVec x.epc, tval := x.tval, scr := x.scr }

end Sys2Proof.Machine
end

