-- ==== Sys2Proof/Machine/Sm3.lean ====
section
/-! DEFINITION. The SM3 digest, as its published standard defines it (R349, R429 name it; log 14). -/

namespace Sys2Proof.Machine

/-- A 32-bit word of SM3. -/
abbrev W32 := BitVec 32

/-- Big-endian words of a run of bytes. -/
def sm3Words : List Byte → List W32
  | a :: b :: c :: d :: l => (a ++ b ++ c ++ d) :: sm3Words l
  | _ => []

/-- Padding: a one bit, zeros, and the length in bits as eight big-endian bytes. -/
def sm3Pad (m : List Byte) : List Byte :=
  m ++ 0x80 :: List.replicate ((119 - m.length % 64) % 64) 0 ++ (bytesOfNat 8 (8 * m.length)).reverse

/-- Permutation P0. -/
def sm3P0 (x : W32) : W32 := x ^^^ x.rotateLeft 9 ^^^ x.rotateLeft 17

/-- Permutation P1. -/
def sm3P1 (x : W32) : W32 := x ^^^ x.rotateLeft 15 ^^^ x.rotateLeft 23

/-- Word i of a list. -/
def wordAt (l : List W32) (i : Nat) : W32 := (l[i]?).getD 0

/-- Extends a reversed schedule by n words. -/
def sm3Expand : Nat → List W32 → List W32
  | 0, r => r
  | n + 1, r =>
    sm3Expand n ((sm3P1 (wordAt r 15 ^^^ wordAt r 8 ^^^ (wordAt r 2).rotateLeft 15) ^^^
      (wordAt r 12).rotateLeft 7 ^^^ wordAt r 5) :: r)

/-- The eight working words. -/
structure Sm3V where
  a : W32
  b : W32
  c : W32
  d : W32
  e : W32
  f : W32
  g : W32
  h : W32
deriving DecidableEq, Repr

/-- One round j with words W and W′. -/
def sm3Round (j : Nat) (w w' : W32) (v : Sm3V) : Sm3V :=
  let t : W32 := if j < 16 then 0x79cc4519 else 0x7a879d8a
  let ss1 := (v.a.rotateLeft 12 + v.e + t.rotateLeft (j % 32)).rotateLeft 7
  let ss2 := ss1 ^^^ v.a.rotateLeft 12
  let ff := if j < 16 then v.a ^^^ v.b ^^^ v.c else (v.a &&& v.b) ||| (v.a &&& v.c) ||| (v.b &&& v.c)
  let gg := if j < 16 then v.e ^^^ v.f ^^^ v.g else (v.e &&& v.f) ||| (~~~v.e &&& v.g)
  let tt1 := ff + v.d + ss2 + w'
  let tt2 := gg + v.h + ss1 + w
  ⟨tt1, v.a, v.b.rotateLeft 9, v.c, sm3P0 tt2, v.e, v.f.rotateLeft 19, v.g⟩

/-- Rounds from j on over a schedule. -/
def sm3Rounds : Nat → Nat → List W32 → Sm3V → Sm3V
  | 0, _, _, v => v
  | n + 1, j, w, v => sm3Rounds n (j + 1) w (sm3Round j (wordAt w j) (wordAt w j ^^^ wordAt w (j + 4)) v)

/-- One block of sixteen words. -/
def sm3Block (v : Sm3V) (blk : List W32) : Sm3V :=
  let r := sm3Rounds 64 0 (sm3Expand 52 blk.reverse).reverse v
  ⟨r.a ^^^ v.a, r.b ^^^ v.b, r.c ^^^ v.c, r.d ^^^ v.d, r.e ^^^ v.e, r.f ^^^ v.f, r.g ^^^ v.g, r.h ^^^ v.h⟩

/-- All blocks of a padded message, at most n. -/
def sm3Blocks : Nat → List W32 → Sm3V → Sm3V
  | 0, _, v => v
  | n + 1, w, v => if w = [] then v else sm3Blocks n (w.drop 16) (sm3Block v (w.take 16))

/-- Initial value. -/
def sm3Init : Sm3V :=
  ⟨0x7380166f, 0x4914b2b9, 0x172442d7, 0xda8a0600, 0xa96f30bc, 0x163138aa, 0xe38dee4d, 0xb0fb0e4e⟩

/-- The digest of a message, 32 bytes in digest order. PRESUMED, log 14. -/
def sm3 (m : List Byte) : List Byte :=
  let w := sm3Words (sm3Pad m)
  let v := sm3Blocks (w.length / 16) w sm3Init
  [v.a, v.b, v.c, v.d, v.e, v.f, v.g, v.h].flatMap (fun x => (bytesOfNat 4 x.toNat).reverse)

end Sys2Proof.Machine
end

