-- ==== Sys2Proof/Machine/SaveArea.lean ====
section
/-! DEFINITION. The save area: its blocks and header, integrity tags, the spill of a context and its restore
(R344 to R351). -/

namespace Sys2Proof

/-- Bytes of a stored cell of a tag (R345). -/
def Tag.cellBytes : Tag → Nat
  | .empty => 1
  | .fp64 => 8
  | .bf16 => 2
  | .fp16 => 2
  | _ => 4

/-- Columns of a tag (R66). -/
def Tag.cols : Tag → Nat
  | .empty => 0
  | .fp64 => 64
  | .bf16 => 256
  | .fp16 => 256
  | _ => 128

end Sys2Proof

namespace Sys2Proof.Machine

/-- Bytes cut or padded with zeros to a length. -/
def padTo (n : Nat) (l : List Byte) : List Byte := (l ++ List.replicate (n - l.length) 0).take n

/-- Doublewords as bytes. -/
def wordsBytes (l : List Word) : List Byte := l.flatMap (bytesOfWord 8)

/-- The number of `n` bytes at an offset. -/
def numAt (d : List Byte) (off n : Nat) : Nat := natOfBytes ((d.drop off).take n)

/-- The doubleword at an offset. -/
def dwordAt (d : List Byte) (off : Nat) : Word := BitVec.ofNat 64 (numAt d off 8)

/-- The tag of a block (R349). DESIGN CHOICE, log 68. -/
def blockTag (boot a i : Nat) (seq : Word) (d : List Byte) : List Byte :=
  (sm3 (bytesOfNat 32 (Config.bootKey boot).toNat ++ bytesOfNat 8 a ++ bytesOfNat 2 i ++ bytesOfWord 8 seq ++ d)).take 8

/-! ## Cell and tag geometry -/

/-- acc24 of a folded INT cell (R177, R179). -/
def acc24 (v : Word) : Int := sext (v.toNat % 2 ^ 24) 24

/-- Cellar count of a folded INT cell (R179). -/
def cellCount (v : Word) : Int := (v.toInt - acc24 v) / 2 ^ 24

/-- Cellar entries an INT cell holds between instructions (R178). -/
def cellEntries (v : Word) : Nat := ((cellCount v).natAbs + 126) / 127

/-- The counts of a cell's entries: full ones, then the rest. -/
def entryCounts (c : Int) : List Int :=
  let n := c.natAbs
  let sg : Int := if c < 0 then -1 else 1
  List.replicate (n / 127) (127 * sg) ++ (if n % 127 = 0 then [] else [sg * (n % 127 : Nat)])

/-- A cell of a band; a cell that is not listed is zero. -/
def cellAt (band : List (List Word)) (i q : Nat) : Word := (((band[i]?).getD [])[q]?).getD 0

/-- A band of an accumulator. -/
def Acc.band (a : Acc) (e : Nat) : List (List Word) := (a.bands[e]?).getD []

/-- A row of an accumulator band is poisoned, or a cell of it by its cellar entry (R370, R202). -/
def Acc.rowBad (a : Acc) (e r : Nat) : Bool :=
  a.bad.contains (e, r) || a.badCells.any (fun x => decide (x.1 = e ∧ x.2.1 = r))

/-- A band of a tile register. -/
def tileBand (t : List Tile) (e : Nat) : Tile := (t[e]?).getD Tile.empty

/-- Tile `n`. -/
def Ctx.tile (c : Ctx) (n : Nat) : List Tile := (c.t[n]?).getD []

/-- Accumulator `n`. -/
def Ctx.acc (c : Ctx) (n : Nat) : Acc := (c.c[n]?).getD Acc.empty

/-! ## Images of names -/

/-- Where a side-store lies in a saved row: first byte and length (R348). -/
def sideSpan : SxK → Nat × Nat
  | .sx7 => (128, 0)
  | .sx4 => (112, 16)
  | .sx2 => (96, 32)

/-- The 128 bytes of a saved tile row (R345, R348). -/
def savedRow (t : Tile) (i : Nat) : List Byte :=
  let row := bytesOfRow ((t.rows[i]?).getD 0)
  match t.side with
  | none => row
  | some x =>
    let (at_, n) := sideSpan x.kind
    row.take at_ ++ bytesOfNat n ((x.rows[i]?).getD 0).toNat

/-- The 8,192 bytes of a saved tile band. -/
def savedTile (t : Tile) : List Byte := (List.range 64).flatMap (savedRow t)

/-- The 32,768 bytes of a saved accumulator band: 64 rows of 512 bytes (R345). -/
def savedAcc (tag : Tag) (band : List (List Word)) : List Byte :=
  (List.range 64).flatMap (fun i => padTo 512 ((List.range tag.cols).flatMap (fun q =>
    let v := cellAt band i q
    bytesOfWord tag.cellBytes (if tag = .int then ofInt (acc24 v) else v))))

/-- A tile band is written: its row count is not 0 (R189, R344). -/
def tileLive (t : Tile) : Bool := !t.rows.isEmpty

/-- Tile numbers of a band that carry an SX7 side-store, in name order. -/
def sx7Tiles (c : Ctx) (e : Nat) : List Nat :=
  (List.range 16).filter (fun n => ((tileBand (c.tile n) e).side.map (·.kind)) = some .sx7)

/-- Cellar records of a band, in accumulator, row and column order (R348). -/
def cellRecords (c : Ctx) (e : Nat) : List (List Byte) :=
  (List.range 8).flatMap (fun n =>
    if (c.acc n).tag ≠ .int then []
    else (List.range 64).flatMap (fun i => (List.range 128).flatMap (fun q =>
      (entryCounts (cellCount (cellAt ((c.acc n).band e) i q))).map (fun k =>
        bytesOfNat 4 (n * 2 ^ 13 + i * 2 ^ 7 + q + (BitVec.ofInt 8 k).toNat * 2 ^ 24)))))

/-- The annex of a band (R348). -/
def annex (c : Ctx) (e : Nat) : List Byte :=
  (sx7Tiles c e).flatMap (fun n =>
    let t := tileBand (c.tile n) e
    (List.range 64).flatMap (fun i => bytesOfNat 16 (((t.side.bind (fun x => x.rows[i]?)).getD 0).toNat))) ++
  (cellRecords c e).flatten

/-- The descriptor of a tile band (R347). -/
def tileDesc (t : Tile) : Nat :=
  t.rows.length + 256 * (match t.side.map (·.kind) with
    | none => 0
    | some .sx7 => 1
    | some .sx4 => 2
    | some .sx2 => 3)

/-- The descriptor of an accumulator (R347). -/
def accDesc (a : Acc) : Nat := a.tag.code + a.rext * 256 + a.cext * 65536

/-- Tile and accumulator descriptors and the annex length of a band: 200 bytes (R347, R350). -/
def bandHead (c : Ctx) (e : Nat) : List Byte :=
  (List.range 16).flatMap (fun n => bytesOfNat 8 (tileDesc (tileBand (c.tile n) e))) ++
  (List.range 8).flatMap (fun n => bytesOfNat 8 (accDesc (c.acc n))) ++
  bytesOfNat 8 (annex c e).length

/-! ## Blocks -/

/-- Control registers of block 1 with their numbers, at 0x490 and on (R347). -/
def ctlWords (x : Ctl) : List (Nat × Word) :=
  [(0x001, x.fcsr), (0x002, x.tctl), (0x003, x.xstate), (0x004, x.utvec), (0x005, x.ucause), (0x006, x.uepc),
   (0x007, x.utval), (0x010, x.hbase), (0x011, x.hlimit), (0x012, x.hoffs)]

/-- Privileged registers of block 1 with their numbers, at 0x4F8 and on; the last two have none (R347). -/
def privWords (x : Priv) : List (Nat × Word) :=
  [(0x100, x.status), (0x101, x.sup.deleg), (0x102, x.sup.tvec), (0x103, x.sup.cause), (0x104, x.sup.epc),
   (0x105, x.sup.tval), (0x106, x.sup.scr), (0x108, x.ptbase), (0x109, x.teamlim), (0x10A, x.watchf),
   (0x208, x.partid), (0x209, x.pwbase), (0x20A, x.pwlimit), (0x201, x.hyp.deleg), (0x202, x.hyp.tvec),
   (0x203, x.hyp.cause), (0x204, x.hyp.epc), (0x205, x.hyp.tval), (0x206, x.hyp.scr), (0x301, x.mon.deleg),
   (0x302, x.mon.tvec), (0x303, x.mon.cause), (0x304, x.mon.epc), (0x305, x.mon.tval), (0x306, x.mon.scr),
   (0, x.auditDetail), (0, x.auditTval)]

/-- The doubleword at 0x4E0 of block 1 (R347). -/
def packWord (c : Ctx) : Word :=
  BitVec.ofNat 64 (c.ctl.lfsr.toNat + c.aux.gang % 8 * 2 ^ 32 + c.aux.arrive.toNat * 2 ^ 40 +
    c.ctl.owner % 8 * 2 ^ 48 + (if c.ctl.lastValid then 2 ^ 51 else 0) + (if c.aux.unchecked then 2 ^ 52 else 0))

/-- The predicate byte, with p0 true. -/
def predByte (c : Ctx) : Nat :=
  (List.range 8).foldl (fun a i => if i = 0 || (c.regs.p[i]?).getD false then a + 2 ^ i else a) 0

/-- Block 1 (R347). -/
def block1 (c : Ctx) : List Byte :=
  padTo 4096 (wordsBytes (0 :: c.regs.g.toList.drop 1) ++ wordsBytes c.regs.f.toList ++ bytesOfWord 8 c.regs.pc ++
    bytesOfNat 8 (predByte c) ++
    ((BitVec.allOnes 128) :: c.regs.m.toList.drop 1).flatMap (fun x => bytesOfNat 16 x.toNat) ++
    wordsBytes ((ctlWords c.ctl).map (·.2)) ++ bytesOfWord 8 (packWord c) ++ bytesOfWord 8 c.ctl.lastPc ++
    bytesOfWord 8 c.ctl.lastVa ++ wordsBytes ((privWords c.prv).map (·.2)) ++ bytesOfWord 8 c.prv.pending ++
    bytesOfWord 8 c.aux.corrections)

/-- Code of a wayside state in a save area (R347). -/
def WState.code : WState → Nat
  | .confirmed => 2
  | _ => 3

/-- A wayside entry's 32 bytes (R347). -/
def waysideBytes (w : Wayside) : List Byte :=
  bytesOfWord 8 w.va ++ bytesOfNat 8 (w.line * 128) ++
  bytesOfNat 8 (w.version.getD 0 % 2 ^ 20 + w.state.code * 2 ^ 62) ++ bytesOfNat 8 0

/-- Block 2 (R347). -/
def block2 (c : Ctx) : List Byte :=
  padTo 4096 (padTo 1024 (c.aux.wayside.flatMap waysideBytes) ++ bytesOfNat 512 c.aux.watch.base.toNat ++
    bytesOfNat 256 c.aux.watch.s4k.toNat ++ bytesOfNat 256 c.aux.watch.s2m.toNat ++ bandHead c 0)

/-- The bytes of block `i`, for i from 1 to 99. -/
def blockOf (c : Ctx) (i : Nat) : List Byte :=
  if i = 1 then block1 c
  else if i = 2 then block2 c
  else if i = 3 then padTo 4096 (annex c 0)
  else if i < 36 then ((savedTile (tileBand (c.tile ((i - 4) / 2)) 0)).drop ((i - 4) % 2 * 4096)).take 4096
  else
    let a := c.acc ((i - 36) / 8)
    ((savedAcc a.tag (a.band 0)).drop ((i - 36) % 8 * 4096)).take 4096

/-- Name a block belongs to: 0 to 15 tiles, 16 to 23 accumulators (R345). -/
def nameOfBlock (i : Nat) : Option Nat :=
  if i < 4 then none else if i < 36 then some ((i - 4) / 2) else some (16 + (i - 36) / 8)

/-- Blocks of a name. -/
def blocksOfName (n : Nat) : List Nat :=
  if n < 16 then [4 + 2 * n, 5 + 2 * n] else (List.range 8).map (fun j => 36 + 8 * (n - 16) + j)

/-- A name is written: row count not 0, or tag not EMPTY (R344). -/
def nameLive (c : Ctx) (n : Nat) : Bool :=
  if n < 16 then tileLive (tileBand (c.tile n) 0) else (c.acc (n - 16)).tag != .empty

/-- Block `i` is written (R344). -/
def blockLive (c : Ctx) (i : Nat) : Bool :=
  match nameOfBlock i with
  | none => true
  | some n => nameLive c n

/-- The extension stream: the annex beyond 4,096 bytes, then the further bands (R350). -/
def extStream (c : Ctx) : List Byte :=
  (annex c 0).drop 4096 ++
  (List.range (c.aux.gang - 1)).flatMap (fun e =>
    bandHead c (e + 1) ++
    (List.range 16).flatMap (fun n => let t := tileBand (c.tile n) (e + 1); if tileLive t then savedTile t else []) ++
    (List.range 8).flatMap (fun n => let a := c.acc n; if a.tag = .empty then [] else savedAcc a.tag (a.band (e + 1))) ++
    annex c (e + 1))

/-- Lines of block `i` that hold a poisoned register or row: poison travels with the data (R371). -/
def badLines (c : Ctx) (i : Nat) : List Nat :=
  if i = 1 then
    let p := c.aux.poison
    ((List.range 64).filter (fun n => p.g.getLsbD n)).map (fun n => n / 16) ++
    ((List.range 64).filter (fun n => p.f.getLsbD n)).map (fun n => 4 + n / 16) ++
    (if p.p = 0 then [] else [8]) ++
    ((List.range 8).filter (fun n => p.m.getLsbD n)).map (fun n => (0x410 + 16 * n) / 128) ++
    p.ctl.flatMap (fun r =>
      ((List.range (ctlWords c.ctl).length).filter (fun k => ((ctlWords c.ctl)[k]?.map (·.1)) = some r)).map
        (fun k => (0x490 + 8 * k) / 128) ++
      ((List.range 25).filter (fun k => ((privWords c.prv)[k]?.map (·.1)) = some r)).map
        (fun k => (0x4F8 + 8 * k) / 128))
  else
    match nameOfBlock i with
    | none => []
    | some n =>
      if n < 16 then
        ((tileBand (c.tile n) 0).bad.filter (fun r => r / 32 = (i - 4) % 2)).map (fun r => r % 32)
      else
        ((c.acc (n - 16)).bad.filter (fun b => b.1 = 0 ∧ b.2 / 8 = (i - 36) % 8)).map (fun b => b.2 % 8 * 4) ++
        ((c.acc (n - 16)).badCells.filter (fun b => b.1 = 0 ∧ b.2.1 / 8 = (i - 36) % 8)).map
          (fun b => b.2.1 % 8 * 4 + b.2.2 / 32)

/-- A further band holds a poisoned row. -/
def extPoisoned (c : Ctx) : Bool :=
  (List.range 16).any (fun n => (List.range (c.aux.gang - 1)).any (fun e => !(tileBand (c.tile n) (e + 1)).bad.isEmpty)) ||
  (List.range 8).any (fun n => (c.acc n).bad.any (fun b => b.1 ≠ 0) || (c.acc n).badCells.any (fun b => b.1 ≠ 0))

/-! ## Writing -/

/-- Poisons lines. -/
def poisonLines (l : List Nat) (s : State) : State := l.foldl (fun s x => { s with coh := poisonLine x s.coh }) s

/-- Writes block `i` of a context to an area, and its tag (R345, R349). -/
def writeBlock (c : Ctx) (area : Nat) (seq : Word) (i : Nat) (s : State) : State :=
  let d := blockOf c i
  let s1 := agentWrite (area + 4096 * i) d s
  let s2 := agentWrite (area + 0x100 + 8 * i) (blockTag s.boot.boots area i seq d) s1
  poisonLines ((badLines c i).map (fun l => lineOf (area + 4096 * i) + l)) s2

/-- Writes extension block `j` of a stream (R349, R350). -/
def writeExt (x : Nat) (seq : Word) (str : List Byte) (j : Nat) (s : State) : State :=
  let d := padTo 4088 (str.drop (4088 * j))
  agentWrite (x + 4096 * j) (d ++ blockTag s.boot.boots x (0x8000 + j) seq d) s

/-- Blocks a stream needs. -/
def extBlocks (n : Nat) : Nat := (n + 4087) / 4088

/-- The header's first 56 bytes (R346). -/
def headerBytes (flags : Nat) (c : Ctx) (seq : Word) (x xb len : Nat) : List Byte :=
  bytesOfNat 8 flags ++ bytesOfNat 8 (bits c.prv.gtid 0 48) ++ bytesOfNat 8 c.pid ++ bytesOfWord 8 seq ++
  bytesOfNat 8 x ++ bytesOfNat 8 xb ++ bytesOfNat 8 len

/-- Block 0 as its tag covers it: FLAGS and the tag table are zero (R349). -/
def block0Hashed (c : Ctx) (seq : Word) (x xb len : Nat) : List Byte := padTo 4096 (headerBytes 0 c seq x xb len)

/-- FLAGS of an area as memory holds it. -/
def areaFlags (s : State) (area : Nat) : Word := BitVec.ofNat 64 (natOfBytes (memReadN s.mem area 8))

/-- Writes FLAGS of an area. -/
def setAreaFlags (area : Nat) (v : Word) (s : State) : State := agentWrite area (bytesOfWord 8 v) s

/-- Marks an area poisoned, with its reason (R346). -/
def markPoisoned (area reason : Nat) (s : State) : State :=
  setAreaFlags area (putBits (areaFlags s area ||| (1#64 <<< 18)) 20 4 reason) s

/-- Spills a context to an area: live blocks, extension, header last with the resident mark cleared (R304, R344,
R346, R350). An extension outside the context's window counts as missing (R289). -/
def spillTo (c : Ctx) (area : Nat) (s : State) : State :=
  let seq := s.sched.spillSeq + 1
  let s0 := { s with sched.spillSeq := seq }
  let x0 := natOfBytes (memReadN s0.mem (area + 0x20) 8) / 4096 * 4096
  let xb := natOfBytes (memReadN s0.mem (area + 0x28) 8)
  let str := extStream c
  let x := if step4 s c.space x0 (4096 * min xb (extBlocks str.length)) then x0 else 0
  let fits := decide (extBlocks str.length ≤ xb) && (decide (x ≠ 0) || str.isEmpty)
  let s1 := ((List.range 100).filter (fun i => i ≠ 0 ∧ blockLive c i)).foldl (fun s i => writeBlock c area seq i s) s0
  let s2 := if x = 0 then s1
    else (List.range (min xb (extBlocks str.length))).foldl (fun s j => writeExt x seq str j s) s1
  let s3 := if extPoisoned c && decide (x ≠ 0 ∧ xb ≠ 0) then poisonLines [lineOf x] s2 else s2
  let len := if fits then str.length else if x = 0 then 0 else min str.length (4088 * xb)
  let s4 := agentWrite (area + 0x420) (List.replicate 0xBE0 0)
    (agentWrite (area + 0x100) (blockTag s.boot.boots area 0 seq (block0Hashed c seq x0 xb len)) s3)
  let s5 := agentWrite (area + 8) ((headerBytes 0 c seq x0 xb len).drop 8 ++ List.replicate 200 0) s4
  setAreaFlags area (BitVec.ofNat 64 (0x10001 + (if fits then 0 else 0x340000)))
    { s5 with xlat.saved := ⟨area, c.prv.gtid, c.space, s.cur, c.aux.passedAt⟩ :: s5.xlat.saved.filter (fun x => decide (x.area ≠ area)) }

/-! ## Reading -/

/-- An area of 4,096 bytes holds a poisoned line. -/
def blockPoisoned (s : State) (a : Nat) : Bool := (List.range 32).any (fun l => linePoisoned s (lineOf a + l))

/-- A block of an area is intact: no poison, and its tag agrees (R351). -/
def blockIntact (s : State) (area : Nat) (seq : Word) (i : Nat) : Bool :=
  !blockPoisoned s (area + 4096 * i) &&
  decide (memReadN s.mem (area + 0x100 + 8 * i) 8 = blockTag s.boot.boots area i seq (memReadN s.mem (area + 4096 * i) 4096))

/-- A register file of `n` doublewords from an offset. -/
def dwordsAt (d : List Byte) (off : Nat) (n : Nat) : Vector Word n := Vector.ofFn (fun i => dwordAt d (off + 8 * i.val))

/-- Control registers of block 1 (R347). -/
def readCtl (d : List Byte) : Ctl :=
  let w := dwordAt d 0x4E0
  { fcsr := storeFcsr (dwordAt d 0x490), tctl := storeTctl true 0 (dwordAt d 0x498)
    xstate := storeXstate (dwordAt d 0x4A0), owner := bits w 48 3, utvec := storeVec (dwordAt d 0x4A8)
    ucause := storeUcause (dwordAt d 0x4B0), uepc := storeVec (dwordAt d 0x4B8), utval := dwordAt d 0x4C0
    hbase := storeHeap (dwordAt d 0x4C8), hlimit := storeHeap (dwordAt d 0x4D0), hoffs := storeHoffs (dwordAt d 0x4D8)
    lfsr := BitVec.ofNat 32 w.toNat, lastValid := w.getLsbD 51, lastPc := dwordAt d 0x4E8, lastVa := dwordAt d 0x4F0 }

/-- A trap set of level 1, 2 or 3 at an offset, and its delegation register at another (R347). -/
def readTrapSet (lvl : Nat) (d : List Byte) (off : Nat) : TrapSet :=
  storeTrapSet lvl ⟨dwordAt d off, dwordAt d (off + 8), dwordAt d (off + 16), dwordAt d (off + 24), dwordAt d (off + 32),
    dwordAt d (off + 40)⟩

/-- Privileged registers of block 1. The area holds no DETAIL of a pending MCHK, so it is one of the two codes an
asynchronous MCHK has (R373), by a free value. -/
def readPriv (d : List Byte) (gtid : Word) (free : Nat) : Priv :=
  { status := fields [(4, 4), (0, 2)] (dwordAt d 0x4F8), sup := readTrapSet 1 d 0x500
    ptbase := storePtbase (dwordAt d 0x530), teamlim := storeTeamlim (dwordAt d 0x538)
    watchf := storeWatchf (dwordAt d 0x540), partid := storePartid (dwordAt d 0x548)
    pwbase := storeWindow (dwordAt d 0x550), pwlimit := storeWindow (dwordAt d 0x558)
    hyp := readTrapSet 2 d 0x560, mon := readTrapSet 3 d 0x590, gtid := gtid
    auditDetail := dwordAt d 0x5C0, auditTval := dwordAt d 0x5C8
    pending := fields [(0x0F, 1), (0x13, 1)] (dwordAt d 0x5D0)
    mchkDetail := if Config.freeBool free then 3 else 4 }

/-- A wayside entry of a save area, unless it is free (R347). -/
def readWayside (d : List Byte) : Option Wayside :=
  let w := dwordAt d 16
  match bits w 62 2 with
  | 2 => some ⟨dwordAt d 0, numAt d 8 8 / 128, some (bits w 0 20), .confirmed⟩
  | 3 => some ⟨dwordAt d 0, numAt d 8 8 / 128, some (bits w 0 20), .struck⟩
  | _ => none

/-- Side-store format of a tile descriptor (R347). -/
def sideOfDesc (w : Word) : Option SxK :=
  match bits w 8 2 with
  | 1 => some .sx7
  | 2 => some .sx4
  | 3 => some .sx2
  | _ => none

/-- A tile band from its descriptor and its 8,192 bytes; an SX7 side-store is filled from the annex (R348). -/
def readTile (w : Word) (d : List Byte) : Tile :=
  let n := min (bits w 0 7) 64
  let row (i : Nat) : List Byte := (d.drop (128 * i)).take 128
  match sideOfDesc w with
  | none => ⟨(List.range n).map (fun i => rowOfBytes (row i)), none, []⟩
  | some k =>
    let (at_, len) := sideSpan k
    ⟨(List.range n).map (fun i => rowOfBytes ((row i).take at_)),
      some ⟨k, (List.range n).map (fun i => BitVec.ofNat 256 (natOfBytes (((row i).drop at_).take len)))⟩, []⟩

/-- Rows of cells of an accumulator band from its 32,768 bytes, within the extent (R345). -/
def readAcc (tag : Tag) (rext cext : Nat) (d : List Byte) : List (List Word) :=
  (List.range rext).map (fun i => (List.range cext).map (fun q =>
    let v := numAt d (512 * i + tag.cellBytes * q) tag.cellBytes
    if tag = .int then ofInt (sext v 24) else BitVec.ofNat 64 v))

/-- Tag, row and column extent of an accumulator descriptor. -/
def readAccDesc (w : Word) : Tag × Nat × Nat :=
  let t := (Tag.ofCode (bits w 0 3)).getD .empty
  (t, min (bits w 8 7) 64, min (bits w 16 9) t.cols)

/-- A band of a tile replaced. -/
def setTileBand (n e : Nat) (x : Tile) (c : Ctx) : Ctx :=
  { c with t := c.t.setIfInBounds n (setPad Tile.empty e x (c.tile n)) }

/-- A band of an accumulator replaced. -/
def setAccBand (n e : Nat) (x : List (List Word)) (c : Ctx) : Ctx :=
  let a := c.acc n
  { c with c := c.c.setIfInBounds n { a with bands := setPad [] e x a.bands } }

/-- One side-store row of an SX7 tile (R348). -/
def putSideRow (n e i : Nat) (d : List Byte) (c : Ctx) : Ctx :=
  let t := tileBand (c.tile n) e
  match t.side with
  | none => c
  | some x => setTileBand n e { t with side := some { x with rows := x.rows.set i (BitVec.ofNat 256 (natOfBytes d)) } } c

/-- One cellar record of a band (R348). -/
def putRecord (e : Nat) (w : Nat) (c : Ctx) : Ctx :=
  let n := w / 2 ^ 13 % 8
  let i := w / 2 ^ 7 % 64
  let q := w % 2 ^ 7
  let b := (c.acc n).band e
  if (c.acc n).tag ≠ .int then c
  else setAccBand n e (setPad [] i (setPad 0 q (cellAt b i q + ofInt (sext (w / 2 ^ 24) 8 * 2 ^ 24)) ((b[i]?).getD [])) b) c

/-- Applies the part of a band's annex that lies at an offset: `n` 4-byte steps, side-store rows first (R348). -/
def applyAnnex (e : Nat) (sx7 : List Nat) (off : Nat) (d : List Byte) (c : Ctx) : Ctx :=
  (List.range (d.length / 4)).foldl (fun c k =>
    let p := off + 4 * k
    if p < 1024 * sx7.length then
      (if p % 16 = 0 then putSideRow ((sx7[p / 1024]?).getD 0) e (p % 1024 / 16) ((d.drop (4 * k)).take 16) c else c)
    else putRecord e (natOfBytes ((d.drop (4 * k)).take 4)) c) c

/-- The context blocks 1 to 99 of an area describe, as memory holds them (R347, R348, R351). `live` says which
names were restored. -/
def readContext (s : State) (area : Nat) (gtid : Word) (seq : Word) (extLen x : Nat) : Ctx :=
  let b1 := memReadN s.mem (area + 0x1000) 4096
  let b2 := memReadN s.mem (area + 0x2000) 4096
  let w := dwordAt b1 0x4E0
  let gang := let g := bits w 32 3; if g = 2 ∨ g = 4 then g else 1
  let annexLen := numAt b2 0x8C0 8
  let tiles : List (List Tile) := (List.range 16).map (fun n =>
    [readTile (dwordAt b2 (0x800 + 8 * n)) (memReadN s.mem (area + 0x4000 + 0x2000 * n) 0x2000)])
  let accs : List Acc := (List.range 8).map (fun n =>
    let (tag, r, q) := readAccDesc (dwordAt b2 (0x880 + 8 * n))
    if tag = .empty then Acc.empty
    else ⟨tag, r, q, [readAcc tag r q (memReadN s.mem (area + 0x24000 + 0x8000 * n) 0x8000)], [], []⟩)
  let c : Ctx :=
    { regs :=
        { g := dwordsAt b1 0 64, f := dwordsAt b1 0x200 64
          p := Vector.ofFn (fun i => (numAt b1 0x408 1).testBit i.val)
          m := Vector.ofFn (fun i => BitVec.ofNat 128 (numAt b1 (0x410 + 16 * i.val) 16)), pc := dwordAt b1 0x400 }
      ctl := readCtl b1, prv := readPriv b1 gtid (draw s 1)
      t := Vector.ofFn (fun i => (tiles[i.val]?).getD []), c := Vector.ofFn (fun i => (accs[i.val]?).getD Acc.empty)
      aux := { Aux.reset with
        wayside := (List.range 32).filterMap (fun i => readWayside ((b2.drop (32 * i)).take 32))
        watch := ⟨BitVec.ofNat 4096 (numAt b2 0x400 512), BitVec.ofNat 2048 (numAt b2 0x600 256),
          BitVec.ofNat 2048 (numAt b2 0x700 256)⟩
        resumeAt := dwordAt b1 0x400, gang := gang, arrive := BitVec.ofNat 8 (bits w 40 8), unchecked := w.getLsbD 52
        corrections := dwordAt b1 0x5D8, area := some area, areaSeq := seq
        regang := if gang = 1 then none else some []
        extPending := if extLen = 0 then none else some (x, extLen, annexLen) } }
  applyAnnex 0 (sx7Tiles c 0) 0 ((memReadN s.mem (area + 0x3000) 4096).take annexLen) c

/-- What a restore comes to: a context, the failing block and its reason (R304, R351), or an address of the area that lies
outside the context's window (R289). -/
inductive Restored where
  | ok (c : Ctx)
  | bad (block reason : Nat)
  | outside (addr : Nat)
deriving DecidableEq, Repr

/-- A restored context whose wayside entries name lines inside its window (R289). DEDUCED, log 91. -/
def waysideInside (c : Ctx) : Restored :=
  match c.aux.wayside.find? (fun w => !inWindow c.space (w.line * 128) 128) with
  | some w => .outside (w.line * 128)
  | none => .ok c

/-- Blocks that a restore of an area checks: 1 to 3, and those of names its descriptors say were written. -/
def checkedBlocks (s : State) (area : Nat) : List Nat :=
  let b2 := memReadN s.mem (area + 0x2000) 4096
  (List.range 100).filter (fun i =>
    match nameOfBlock i with
    | none => decide (i ≠ 0)
    | some n =>
      if n < 16 then decide (bits (dwordAt b2 (0x800 + 8 * n)) 0 7 ≠ 0)
      else decide (bits (dwordAt b2 (0x880 + 8 * (n - 16))) 0 3 ≠ 0))

/-- Block 0 with FLAGS and the tag table taken as zero (R349). -/
def block0Of (s : State) (area : Nat) : List Byte :=
  let d := memReadN s.mem area 4096
  List.replicate 8 0 ++ (d.drop 8).take 248 ++ List.replicate 800 0 ++ d.drop 0x420

/-- Restores a sealed area: the header, then its blocks in order, each checked (R351). -/
def restoreSealed (s : State) (area : Nat) : Restored :=
  let seq := BitVec.ofNat 64 (natOfBytes (memReadN s.mem (area + 0x18) 8))
  if blockPoisoned s area then .bad 0 2
  else if memReadN s.mem (area + 0x100) 8 ≠ blockTag s.boot.boots area 0 seq (block0Of s area) then .bad 0 1
  else
    match (checkedBlocks s area).find? (fun i => !blockIntact s area seq i) with
    | some i => .bad i (if blockPoisoned s (area + 4096 * i) then 2 else 1)
    | none =>
      waysideInside (readContext s area (BitVec.ofNat 64 (natOfBytes (memReadN s.mem (area + 8) 6))) seq
        (natOfBytes (memReadN s.mem (area + 0x30) 8)) (natOfBytes (memReadN s.mem (area + 0x20) 8)))

/-- Fields of levels above the issuer's, from the issuer's own registers (R351): a saved level above the
issuer's is among them. -/
def capFields (own : Priv) (x : Priv) : Priv :=
  let pl := bits own.status 0 2
  let x1 := { x with
    status := putBits (storeStatus pl own.status x.status) 0 2 (min (bits x.status 0 2) pl) }
  if pl ≥ 3 then x1
  else if pl = 2 then { x1 with mon := own.mon }
  else { x1 with mon := own.mon, hyp := own.hyp, partid := own.partid, pwbase := own.pwbase, pwlimit := own.pwlimit }

/-- Serial number of the `n`-th thread of a package: they count from 1, and 0 comes after 2^40 − 1 but in package 0,
where it would make GTID 0 (R19). DESIGN CHOICE, log 77. -/
def serialOf (pkg n : Nat) : Nat := if pkg % 256 = 0 then n % (2 ^ 40 - 1) + 1 else (n + 1) % 2 ^ 40

/-- GTID of the `n`-th thread of the package (R19). -/
def gtidOf (s : State) (n : Nat) : Word := BitVec.ofNat 64 (s.pkg % 256 * 2 ^ 40 + serialOf s.pkg n)

/-- A fresh GTID of the package (R19). -/
def freshGtid (s : State) : Word := gtidOf s s.sched.serial

/-- Restores an unsealed area without tag checks; EXTLEN has to be 0 (R351), and block 0 is bad where it is not. DESIGN
CHOICE, log 113. -/
def restoreUnsealed (s : State) (own : Priv) (area : Nat) : Restored :=
  match (0 :: checkedBlocks s area).find? (fun i => blockPoisoned s (area + 4096 * i)) with
  | some i => .bad i 2
  | none =>
    if natOfBytes (memReadN s.mem (area + 0x30) 8) ≠ 0 then .bad 0 1
    else
      let c := readContext s area (freshGtid s) (BitVec.ofNat 64 (natOfBytes (memReadN s.mem (area + 0x18) 8))) 0 0
      waysideInside { c with prv := capFields own c.prv }

/-! ## Deferred reads -/

/-- A deferred read of a base block or of the extension: the context, or the MCHK detail and address and the poison
reason (R346, R351), or an extension address outside the window (R289). -/
inductive Deferred where
  | ok (c : Ctx)
  | bad (detail addr reason : Nat)
  | outside (addr : Nat)
deriving DecidableEq, Repr

/-- Tiles with an SX7 side-store in the descriptors of an area's block 2, in name order (R347, R348). -/
def areaSx7 (s : State) (area : Nat) : List Nat :=
  (List.range 16).filter (fun n =>
    sideOfDesc (BitVec.ofNat 64 (natOfBytes (memReadN s.mem (area + 0x2800 + 8 * n) 8))) = some .sx7)

/-- Reads the blocks of a name that the spill engine wrote out, and its part of the annex (R343, R351). -/
def reloadName (s : State) (c : Ctx) (n : Nat) : Deferred :=
  match c.aux.area with
  | none => .ok { c with aux.evicted := c.aux.evicted.filter (· ≠ n) }
  | some area =>
    match (2 :: 3 :: blocksOfName n).find? (fun i => !blockIntact s area c.aux.areaSeq i) with
    | some i => .bad (0x8000 + i) area (if blockPoisoned s (area + 4096 * i) then 2 else 1)
    | none =>
      let an := memReadN s.mem (area + 0x3000) 4096
      let c1 := { c with aux.evicted := c.aux.evicted.filter (· ≠ n) }
      if n < 16 then
        let w := BitVec.ofNat 64 (tileDesc (tileBand (c.tile n) 0))
        let c2 := setTileBand n 0 (readTile w (memReadN s.mem (area + 0x4000 + 0x2000 * n) 0x2000)) c1
        let k := (areaSx7 s area).findIdx (· = n)
        if (areaSx7 s area).contains n then
          .ok ((List.range 64).foldl (fun c i => putSideRow n 0 i ((an.drop (1024 * k + 16 * i)).take 16) c) c2)
        else .ok c2
      else
        let a := c.acc (n - 16)
        let c2 := setAccBand (n - 16) 0
          (readAcc a.tag a.rext a.cext (memReadN s.mem (area + 0x24000 + 0x8000 * (n - 16)) 0x8000)) c1
        let first := 1024 * (areaSx7 s area).length
        .ok ((List.range ((4096 - first) / 4)).foldl (fun c k =>
          let r := natOfBytes ((an.drop (first + 4 * k)).take 4)
          if r / 2 ^ 24 ≠ 0 ∧ r / 2 ^ 13 % 8 = n - 16 then putRecord 0 r c else c) c2)

/-- Bands 1 and on of a context from the extension stream after the annex overflow (R350). -/
def readBands : Nat → Nat → List Byte → Ctx → Ctx
  | 0, _, _, c => c
  | fuel + 1, e, d, c =>
    let descs := (List.range 16).map (fun n => dwordAt d (8 * n))
    let annexLen := numAt d 192 8
    let step (st : Ctx × List Byte) (n : Nat) : Ctx × List Byte :=
      let w := (descs[n]?).getD 0
      if bits w 0 7 = 0 then (setTileBand n e Tile.empty st.1, st.2)
      else (setTileBand n e (readTile w (st.2.take 8192)) st.1, st.2.drop 8192)
    let (c1, d1) := (List.range 16).foldl step (c, d.drop 200)
    let stepA (st : Ctx × List Byte) (n : Nat) : Ctx × List Byte :=
      let a := st.1.acc n
      if a.tag = .empty then st
      else (setAccBand n e (readAcc a.tag a.rext a.cext (st.2.take 32768)) st.1, st.2.drop 32768)
    let (c2, d2) := (List.range 8).foldl stepA (c1, d1)
    readBands fuel (e + 1) (d2.drop annexLen) (applyAnnex e (sx7Tiles c2 e) 0 (d2.take annexLen) c2)

/-- Reads the extension of a restored context at its first tile work (R350, R351). -/
def readExtension (s : State) (c : Ctx) : Deferred :=
  match c.aux.extPending with
  | none => .ok c
  | some (x, len, annexLen) =>
    let n := extBlocks len
    if !step4 s c.space x (4096 * n) then .outside x
    else
    match (List.range n).find? (fun j =>
        let d := memReadN s.mem (x + 4096 * j) 4096
        blockPoisoned s (x + 4096 * j) || decide (d.drop 4088 ≠ blockTag s.boot.boots x (0x8000 + j) c.aux.areaSeq (d.take 4088))) with
    | some j => .bad (0xC000 + j % 0x4000) x (if blockPoisoned s (x + 4096 * j) then 2 else 1)
    | none =>
      let str := ((List.range n).flatMap (fun j => memReadN s.mem (x + 4096 * j) 4088)).take len
      let spill := annexLen - 4096
      let c1 := applyAnnex 0 (sx7Tiles c 0) 4096 (str.take spill) { c with aux.extPending := none }
      .ok (readBands (c.aux.gang - 1) 1 (str.drop spill) c1)

/-- The deferred reads that tile work of the active context on some names waits for (R343, R351): reload of those that
were written out, and the extension. A failure raises MCHK at the instruction and marks the area poisoned. -/
def loadTileState (names : List Nat) (s : State) : Run :=
  let fail (detail addr reason : Nat) : Run :=
    let s1 := match s.ctx.aux.area with
      | none => s
      | some a => markPoisoned a reason s
    raise 0x13 detail (BitVec.ofNat 64 addr) s1
  let outside (a : Nat) : Run := raiseAccess 0x05 (pageDetail 0 0 4) (BitVec.ofNat 64 a) s
  match s.ctx.aux.evicted.find? names.contains with
  | some n =>
    (match reloadName s s.ctx n with
     | .ok c => waitIn { s with ctx := c }
     | .bad d a r => fail d a r
     | .outside a => outside a)
  | none =>
    if s.ctx.aux.extPending.isNone then .ok s
    else
      match readExtension s s.ctx with
      | .ok c => .ok { s with ctx := c }
      | .bad d a r => fail d a r
      | .outside a => outside a

end Sys2Proof.Machine
end

