-- ==== Sys2Proof/Machine/Engines.lean ====
section
/-! DEFINITION. Tile engines: which engine serves a core, slot-table grants, cellar shares, pinned slots, and the
names of a context (R65, R66, R175 to R181, R189, R291, R341, R343, R365, R366, R384, R431). -/

namespace Sys2Proof.Machine

/-! ## Which engine -/

/-- An engine by its number, die × 32 + cluster × 4 + engine (R385). -/
def engineAt (s : State) (n : Nat) : Engine := (s.eng[n]?).getD Engine.reset

/-- Replaces an engine. -/
def setEngine (n : Nat) (e : Engine) (s : State) : State := { s with eng := s.eng.setIfInBounds n e }

/-- Home engine of a core by R343, quarantined or not. -/
def rawHome (core : Nat) : Nat := core / 8 * 4 + core % 8 / 2

/-- The engine that serves a core: its home engine, else the other of its pair, else none (R343, R384). -/
def homeEngine (s : State) (core : Nat) : Option Nat :=
  let h := rawHome core
  let o := if h % 2 = 0 then h + 1 else h - 1
  if !(engineAt s h).quarantined then some h
  else if !(engineAt s o).quarantined then some o else none

/-- Engine of band `e` of a gang of `g` of a core (R365). -/
def gangEngine (core g e : Nat) : Nat :=
  let h := core % 8 / 2
  core / 8 * 4 + (if g = 1 then h else if g = 2 then (if e = 0 then h else if h % 2 = 0 then h + 1 else h - 1)
    else (h + e) % 4)

/-- Engines of the bands of a context on a core, none where none is in service. -/
def bandEngines (s : State) (core gang : Nat) : Option (List Nat) :=
  if gang = 1 then (homeEngine s core).map (fun h => [h])
  else some ((List.range gang).map (gangEngine core gang))

/-- A slot-table entry of an engine; a quarantined engine's entries read as KIND 0 (R384). -/
def engineSlot (s : State) (n i : Nat) : Word :=
  if (engineAt s n).quarantined then 0 else ((engineAt s n).slots[i]?).getD 0

/-- An engine has an entry in whose cycle a core may issue: KIND 1, or KIND 2 for gang work (R341, R366). -/
def hasSlot (s : State) (n core : Nat) (gangWork : Bool) : Bool :=
  (List.range 32).any (fun i =>
    let w := engineSlot s n i
    decide (bits w 0 3 = core % 8) && (decide (bits w 4 2 = 1) || (gangWork && decide (bits w 4 2 = 2))))

/-- MCHK with DETAIL 5 where no engine is in service for a tile or vector instruction (R373, R384). -/
def inService (s : State) : Except Stop Unit :=
  match bandEngines s s.cur s.ctx.aux.gang with
  | none => raise 0x13 0x0005 0 s
  | some _ => .ok ()

/-- The engines of the active context's bands. -/
def myEngines (s : State) : List Nat := (bandEngines s s.cur s.ctx.aux.gang).getD []

/-- Engines of a core's gang of `g` that have accepted its request: an acceptance stands (R365). -/
def acceptances (s : State) (g : Nat) (got : List Nat) : List Nat :=
  ((List.range g).map (gangEngine s.cur g)).filter (fun n => got.contains n || hasSlot s n s.cur true)

/-- A restored context of a gang obtains its gang again before it issues tile work (R175). -/
def obtainGang (s : State) : Run :=
  match s.ctx.aux.regang with
  | none => .ok s
  | some got =>
    let g := s.ctx.aux.gang
    if ((List.range g).map (gangEngine s.cur g)).any (fun n => (engineAt s n).quarantined) then raise 0x13 0x0005 0 s
    else
      let l := acceptances s g got
      if l.length = g then .ok { s with ctx.aux.regang := none }
      else waitIn (progress { s with ctx.aux.regang := some l })

/-- What tile work of any kind waits for: deferred tile state is read, and the gang of a restored context obtained (R175,
R343, R351). -/
def tileWork (names : List Nat) (s : State) : Run := do
  let s ← loadTileState names s
  obtainGang s

/-- Tile work that uses an engine's load, drain, vector or array path also waits until each engine has a cycle of the
core (R341, R366). -/
def granted (names : List Nat) (s : State) : Run := do
  let s ← tileWork names s
  if (myEngines s).all (fun n => hasSlot s n s.cur (decide (s.ctx.aux.gang > 1))) then .ok s
  else waitIn (progress s)

/-! ## Cellar shares -/

/-- Entries that an accumulator holds in one band (R178). -/
def bandEntries (a : Acc) (e : Nat) : Nat :=
  if a.tag ≠ .int then 0
  else (a.band e).foldl (fun n row => row.foldl (fun n v => n + cellEntries v) n) 0

/-- Entries of an accumulator over all its bands. -/
def accEntries (a : Acc) : Nat :=
  (List.range a.bands.length).foldl (fun n e => n + bandEntries a e) 0

/-- Entries that a stalled `TMMA` of a context holds in a band (R180). -/
def Sent.heldIn (x : Sent) (e : Nat) : Nat :=
  match x with
  | .stall _ _ _ l => (l[e]?).getD 0
  | .resumed _ l => (l[e]?).getD 0
  | _ => 0

/-- Entries that a context on a core holds in an engine; names written out of its home engine hold none there (R343). -/
def contextEntries (s : State) (core : Nat) (c : Ctx) (n : Nat) : Nat :=
  let es := (bandEngines s core c.aux.gang).getD []
  (List.range es.length).foldl (fun k e =>
    if es[e]? = some n then
      (List.range 8).foldl (fun k x =>
        if e = 0 && c.aux.evicted.contains (16 + x) then k else k + bandEntries (c.acc x) e) (k + c.aux.sent.heldIn e)
    else k) 0

/-- Entries of a partition in use in an engine (R181). -/
def entriesInUse (s : State) (pid n : Nat) : Nat :=
  (List.range 8).foldl (fun k i =>
    let core := n / 4 * 8 + i
    ((residents s core).filter (fun c => c.pid = pid)).foldl (fun k c => k + contextEntries s core c n) k) 0

/-- Cellar share of a partition on an engine (R181, R291). An entry that names a core with no active context counts for
no partition. -/
def cellarShare (s : State) (pid n : Nat) : Nat :=
  if (List.range 32).all (fun i =>
    let w := engineSlot s n i
    decide (bits w 4 2 = 0) ||
      (match activeOf s (n / 4 * 8 + bits w 0 3) with
       | none => false
       | some c => decide (c.pid = pid))) then 256
  else
    match (engineAt s n).celshr.toList.find? (fun w => w.getLsbD 63 && decide (bits w 32 12 = pid)) with
    | some w => bits w 0 9
    | none => 0

/-- Entries free in a partition's share of an engine (R192). -/
def entriesFree (s : State) (pid n : Nat) : Nat := cellarShare s pid n - entriesInUse s pid n

/-! ## Names as an instruction reads them -/

/-- Tile bank and accumulator bank of a pinned mapping: PIN at monitor level with gang size 1 (R431). -/
def pinned (s : State) : Option (Nat × Nat) :=
  if s.core.rprsel.getLsbD 15 && decide (s.pl = 3 ∧ s.ctx.aux.gang = 1)
  then some (bits s.core.rprsel 8 2, bits s.core.rprsel 12 2) else none

/-- Engine, tile bank and accumulator bank that the active context of a core pins (R431). -/
def pinsAt (s : State) (core : Nat) : Option (Nat × Nat × Nat) :=
  let r := (getCore s core).rprsel
  match activeOf s core, homeEngine s core with
  | some c, some n =>
    if r.getLsbD 15 && decide (bits c.prv.status 0 2 = 3 ∧ c.aux.gang = 1) then some (n, bits r 8 2, bits r 12 2) else none
  | _, _ => none

/-- Cores whose active contexts pin the same bank of the same engine as a core's does: their slots overlap (R439). -/
def pinRivals (s : State) (core : Nat) (acc : Bool) : List Nat :=
  match pinsAt s core with
  | none => []
  | some (n, tb, cb) =>
    ((List.range 8).map (fun i => core / 8 * 8 + i)).filter (fun x => decide (x ≠ core) &&
      (match pinsAt s x with
       | none => false
       | some (m, t, c) => decide (m = n) && (if acc then decide (c = cb) else decide (t = tb))))

/-- A row of a tile slot that holds an undefined value (R7, R432, R439). -/
def undefRow (s : State) (n i : Nat) : BitVec 1024 :=
  rowOfBytes ((List.range 128).map (fun k => Config.freeByteAt (draw s 60) (8192 * n + 128 * i + k)))

/-- Cells of a row of an accumulator slot that holds an undefined value; the cellar counts stay (R432, R439). -/
def undefCells (s : State) (n i e : Nat) (a : Acc) : List Word :=
  let w := a.tag.cellBytes
  (List.range a.cext).map (fun q =>
    let v := natOfBytes ((List.range w).map (fun k => Config.freeByteAt (draw s 61) (32768 * n + 512 * i + w * q + k)))
    if a.tag = .int then ofInt (sext v 24 + cellCount (cellAt (a.band e) i q) * 2 ^ 24) else BitVec.ofNat 64 v)

/-- A tile whose slot another core's pinned range overlaps (R439). -/
def undefTile (s : State) (n : Nat) (t : List Tile) : List Tile :=
  t.map (fun b => { b with rows := (List.range b.rows.length).map (undefRow s n), bad := [] })

/-- An accumulator whose slot another core's pinned range overlaps (R439). -/
def undefAcc (s : State) (n : Nat) (a : Acc) : Acc :=
  { a with
    bands := (List.range a.bands.length).map (fun e => (List.range a.rext).map (fun i => undefCells s n i e a))
    bad := []
    badCells := [] }

/-- Bits as cells with faults return them: the failing ones read as they are stuck (R431). -/
def stickBits (faults : List RowFault) (x : BitVec 4096) : BitVec 4096 :=
  faults.foldl (fun x f => (x &&& ~~~f.mask) ||| (f.stuck &&& f.mask)) x

/-- Faults of the row that stands for a row of a slot of the home engine: its own, or those of its spare once it is
redirected (R431, R432). -/
def slotFaults (s : State) (acc : Bool) (slot row : Nat) : List RowFault :=
  match homeEngine s s.cur with
  | none => []
  | some n =>
    let e := engineAt s n
    e.rowFaults.filter (fun f =>
      f.acc = acc ∧ f.slot = slot ∧ f.row = row ∧ f.spare = e.repair.contains ⟨acc, slot, row⟩)

/-- A tile register as an instruction reads it: a pinned slot returns its stored bits (R431), or undefined values where
another core's pinned range overlaps it (R439). -/
def seenTile (s : State) (n : Nat) : List Tile :=
  let t := s.ctx.tile n
  match pinned s with
  | none => t
  | some (tb, _) =>
    if !(pinRivals s s.cur false).isEmpty then undefTile s n t
    else t.map (fun b =>
      { b with
        rows := (List.range b.rows.length).map (fun i =>
          (stickBits (slotFaults s false (16 * tb + n) i) (((b.rows[i]?).getD 0).setWidth 4096)).setWidth 1024)
        bad := [] })

/-- A cell as a pinned slot returns it: its bits of the row, as they are stuck (R431). -/
def stuckCell (tag : Tag) (faults : List RowFault) (q : Nat) (v : Word) : Word :=
  let w := 8 * tag.cellBytes
  let x := ((stickBits faults ((BitVec.ofNat 4096 (v.toNat % 2 ^ w)) <<< (q * w))) >>> (q * w)).toNat % 2 ^ w
  if tag = .int then ofInt (sext (x % 2 ^ 24) 24 + cellCount v * 2 ^ 24) else BitVec.ofNat 64 x

/-- An accumulator as an instruction reads it (R431, R439). -/
def seenAcc (s : State) (n : Nat) : Acc :=
  let a := s.ctx.acc n
  match pinned s with
  | none => a
  | some (_, cb) =>
    if !(pinRivals s s.cur true).isEmpty then undefAcc s n a
    else { a with
      bands := a.bands.map (fun b => (List.range a.rext).map (fun i =>
        let x := slotFaults s true (8 * cb + n) i
        (List.range a.cext).map (fun q => stuckCell a.tag x q (cellAt b i q))))
      bad := []
      badCells := [] }

/-! ## Writing names -/

/-- Writes a tile name: its previous value, and a copy in its save area, are gone (R159). -/
def putTile (n : Nat) (t : List Tile) (s : State) : State :=
  { s with ctx.t := s.ctx.t.setIfInBounds n t, ctx.aux.evicted := s.ctx.aux.evicted.filter (· ≠ n) }

/-- Writes an accumulator name. -/
def putAcc (n : Nat) (a : Acc) (s : State) : State :=
  { s with ctx.c := s.ctx.c.setIfInBounds n a, ctx.aux.evicted := s.ctx.aux.evicted.filter (· ≠ 16 + n) }

/-- A tile name with row count 0 in every band. -/
def noTile (g : Nat) : List Tile := List.replicate g Tile.empty

/-- Frees every tile and accumulator name of a context, as `TFREE` does, for gang size `g` (R175, R189). An
extension that R351 has not read yet is dropped unread. DESIGN CHOICE (log 83). -/
def freeNames (g : Nat) (c : Ctx) : Ctx :=
  { c with
    t := Vector.replicate 16 (noTile g)
    c := Vector.replicate 8 Acc.empty
    aux.evicted := []
    aux.extPending := none
    aux.regang := none
    aux.gang := g }

/-- The names of a core's active context whose slots another core's pinned range overlaps hold undefined values from
now on (R439). -/
def undefNames (core : Nat) (s : State) : State :=
  match activeOf s core with
  | none => s
  | some c =>
    let c1 := if (pinRivals s core false).isEmpty then c
      else { c with t := Vector.ofFn (fun i => undefTile s (64 * core + i.val) c.t[i]) }
    let c2 := if (pinRivals s core true).isEmpty then c1
      else { c1 with c := Vector.ofFn (fun i => undefAcc s (64 * core + i.val) c1.c[i]) }
    if c2 = c then s else setActive s core c2

/-- The names of other cores whose pinned slots the current core's range overlaps are undefined (R439). -/
def undefRivals (s : State) : State :=
  ((pinRivals s s.cur false ++ pinRivals s s.cur true).dedup).foldl (fun s x => undefNames x s) s

/-- The current core ends to pin: where its range overlaps others, all of these slots are undefined (R439). -/
def endOverlap (s : State) : State := undefNames s.cur (undefRivals s)

/-- A row of a tile band; a row at or above the row count reads zero (R65). -/
def Tile.row (t : Tile) (i : Nat) : BitVec 1024 := (t.rows[i]?).getD 0

/-- A poisoned row or cell of an accumulator lies within the row extent (R372). -/
def Acc.poisoned (a : Acc) : Bool :=
  a.bad.any (fun b => decide (b.2 < a.rext)) || a.badCells.any (fun b => decide (b.2.1 < a.rext))

/-- Poison feeds a column of an accumulator: a poisoned row, or a poisoned cell of the column (R186). -/
def Acc.colBad (a : Acc) (q : Nat) : Bool :=
  a.bad.any (fun b => decide (b.2 < a.rext)) || a.badCells.any (fun b => decide (b.2.1 < a.rext ∧ b.2.2 = q))

end Sys2Proof.Machine
end

