-- ==== Sys2Proof/Machine/Sx.lean ====
section
/-! DEFINITION. The SX formats: values, payload and scale streams, and conversion into a block (R41 to R45,
R52, R53, R59). -/

namespace Sys2Proof

/-- Magnitude bits of an SX format (R41). -/
def SxK.mbits : SxK → Nat
  | .sx7 => 7
  | .sx4 => 4
  | .sx2 => 2

/-- Blocks of a slab's row (R165). -/
def SxK.blocks : SxK → Nat
  | .sx2 => 16
  | _ => 8

/-- Payload bytes of a block (R42). -/
def SxK.blockBytes (k : SxK) : Nat := 2 * (1 + k.mbits)

end Sys2Proof

namespace Sys2Proof.Machine

/-- Bits from a position of a little-endian bit string (R43, R44). -/
def bitsOf (v pos n : Nat) : Nat := v / 2 ^ pos % 2 ^ n

/-- The value of an element of a block (R41): a magnitude of zero is +0. -/
def sxValue (mbits : Nat) (neg : Bool) (m : Nat) (e mu : Nat) : FVal :=
  .fin (neg && decide (m ≠ 0)) m ((e : Int) - 127 - mu - (mbits - 1 : Nat))

/-- Element `x` of a row of payload and its side-store row (R42, R65): exponent byte at 2b, micro byte after
it. -/
def sxElem (k : SxK) (row : Nat) (side : Nat) (x : Nat) : FVal :=
  let b := x / 16
  let j := x % 16
  let w := 1 + k.mbits
  let el := bitsOf row (b * (8 * k.blockBytes) + j * w) w
  let e := bitsOf side (16 * b) 8
  let mu := bitsOf side (16 * b + 8 + j / 2) 1
  sxValue k.mbits (decide (el / 2 ^ k.mbits = 1)) (el % 2 ^ k.mbits) e mu

/-! ## Scale streams -/

/-- `decode_row_scales` (R44) on the stream as one number: the side-store row, or nothing where it fails. `b` is
the block at hand, the first argument how many are left. -/
def decodeScales (v : Nat) : Nat → Nat → Nat → Nat → Nat → Option Nat
  | 0, pos, _, _, acc => if bitsOf v pos ((8 - pos % 8) % 8) = 0 then some acc else none
  | n + 1, pos, b, prev, acc =>
    let d := bitsOf v pos 4
    if d = 8 then
      let e := bitsOf v (pos + 4) 8
      let mu := bitsOf v (pos + 12) 8
      decodeScales v n (pos + 20) (b + 1) e (acc + (e + mu * 256) * 2 ^ (16 * b))
    else if b = 0 then none
    else
      let e : Int := (prev : Int) + sext d 4
      if e < 0 ∨ e > 255 then none
      else
        let mu := bitsOf v (pos + 4) 8
        decodeScales v n (pos + 12) (b + 1) e.toNat (acc + (e.toNat + mu * 256) * 2 ^ (16 * b))

/-- The side-store row of a scale stream of `n` blocks (R44). -/
def rowScales (n : Nat) (d : List Byte) : Option Nat := decodeScales (natOfBytes d) n 0 0 0 0

/-! ## Conversion into SX -/

/-- A value under the replacement of specials (R53): the value and its flags. -/
def sxSpecial (mbits : Nat) : FVal → FVal × Nat
  | .nan _ => (.fin false (2 ^ mbits - 1) (129 - (mbits : Int)), flagNV)
  | .inf n => (.fin n (2 ^ mbits - 1) (129 - (mbits : Int)), flagNV)
  | v => (v, 0)

/-- Magnitude of a finite value and its exponent. -/
def FVal.parts : FVal → Nat × Int
  | .fin _ m e => (m, e)
  | _ => (0, 0)

/-- ⌊log2⌋ of the largest magnitude among values, if one is nonzero. -/
def maxTop (l : List FVal) : Option Int :=
  l.foldl (fun a v =>
    let (m, e) := v.parts
    if m = 0 then a
    else match a with
      | none => some (topExp m e)
      | some t => some (max t (topExp m e))) none

/-- One element of a block: rounded magnitude, flags (R45). The magnitude is rounded as a number that is not negative. `sr` holds the LFSR state where the element rounds
by SR. -/
def sxRound (mbits : Nat) (rm : Rm) (sr : Option (BitVec 32)) (u : Int) (v : FVal) : Nat × Nat :=
  let (m, e) := v.parts
  let (q, inexact) := match sr with
    | some st => srUnit st m e u
    | none => roundUnit rm false m e u false
  let lim := 2 ^ mbits - 1
  if q > lim then (lim, flagOF ||| flagNX)
  else if m ≠ 0 ∧ q = 0 then (0, flagUF ||| flagNX)
  else (q, flagIf inexact flagNX)

/-- Sixteen values as one block: exponent, micro byte, payload as a number, flags, LFSR (R45, R59). `real` counts
the elements that are not padding. -/
structure SxBlock where
  e : Nat
  mu : Nat
  payload : Nat
  flags : Nat
  lfsr : BitVec 32
deriving DecidableEq, Repr

/-- Micro bits of a block (R45): 1 where 0 < pmax < 2^(E − 127). -/
def sxMu (e : Int) (l : List FVal) : Nat :=
  (List.range 8).foldl (fun a k =>
    match maxTop ((l.drop (2 * k)).take 2) with
    | some t => if t < e then a + 2 ^ k else a
    | none => a) 0

/-- Converts values into a block (R45). -/
def sxBlock (mbits : Nat) (rm : Rm) (sr : Bool) (real : Nat) (st : BitVec 32) (l : List FVal) : SxBlock :=
  let repl := l.map (sxSpecial mbits)
  let vs := repl.map (·.1)
  let f0 := repl.foldl (fun a x => a ||| x.2) 0
  let e : Option Int := (maxTop vs).map (fun t => max (-127) (min 128 t))
  let eb : Nat := match e with
    | none => 0
    | some e => (e + 127).toNat
  let mu := match e with
    | none => 0
    | some e => sxMu e vs
  (List.range 16).foldl (fun b j =>
    let v := (vs[j]?).getD (.fin false 0 0)
    let st1 := if sr && decide (j < real) then lfsrAdvance b.lfsr else b.lfsr
    let u : Int := (eb : Int) - 127 - (bitsOf mu (j / 2) 1 : Nat) - (mbits - 1 : Nat)
    let (q, fl) := sxRound mbits rm (if sr then some st1 else none) u v
    let el := q + (if v.neg && decide (q ≠ 0) then 2 ^ mbits else 0)
    { b with payload := b.payload + el * 2 ^ (j * (1 + mbits)), flags := b.flags ||| fl, lfsr := st1 })
    ⟨eb, mu, 0, f0, st⟩

/-- A converted row: payload bytes, scale bytes, flags, LFSR. -/
structure SxRow where
  payload : List Byte
  scale : Nat
  pos : Nat
  prev : Option Nat
  flags : Nat
  lfsr : BitVec 32
deriving DecidableEq, Repr

/-- Appends a block's record (R43, R45). -/
def sxRecord (r : SxRow) (e mu : Nat) : Nat × Nat :=
  let esc := (8 + e * 16 + mu * 4096, 20)
  match r.prev with
  | none => esc
  | some p =>
    let d : Int := (e : Int) - p
    if d < -7 ∨ d > 7 then esc else ((d % 16).toNat + mu * 16, 12)

/-- Converts a row of values, padded with zeros to whole blocks (R45, R183). -/
def sxRow (k : SxK) (rm : Rm) (sr : Bool) (st : BitVec 32) (l : List FVal) : SxRow :=
  (List.range ((l.length + 15) / 16)).foldl (fun r b =>
    let part := (l.drop (16 * b)).take 16
    let x := sxBlock k.mbits rm sr part.length r.lfsr part
    let (rec_, n) := sxRecord r x.e x.mu
    { payload := r.payload ++ bytesOfNat k.blockBytes x.payload
      scale := r.scale + rec_ * 2 ^ r.pos, pos := r.pos + n, prev := some x.e
      flags := r.flags ||| x.flags, lfsr := x.lfsr })
    ⟨[], 0, 0, none, 0, st⟩

/-- Scale bytes of a converted row, padded to a byte (R43). -/
def SxRow.scaleBytes (r : SxRow) : List Byte := bytesOfNat ((r.pos + 7) / 8) r.scale

end Sys2Proof.Machine
end

