-- ==== Sys2Proof/Machine/Tile.lean ====
section
/-! DEFINITION. Tile loads and stores, clearing, moves, gangs, frees, control and queries (R163 to R168, R175,
R187 to R192). -/

namespace Sys2Proof.Machine

/-! ## Loading rows -/

/-- A loaded row: its bytes, and its side-store row for `TLDS`. -/
structure LoadedRow where
  row : BitVec 1024
  side : BitVec 256
deriving DecidableEq, Repr

/-- Row `i`, of `n` in each band, of a tile name as it reads (R164, R168). -/
def oldRow (t : List Tile) (n i : Nat) : LoadedRow :=
  let b := tileBand t (i / n)
  ⟨b.row (i % n), (b.side.bind (fun x => x.rows[i % n]?)).getD 0⟩

/-- A tile name holding the first rows of a load in band order (R164, R168). -/
def tileOfRows (g n : Nat) (kind : Option SxK) (rows : List LoadedRow) : List Tile :=
  (List.range g).map (fun e =>
    let r := (rows.drop (e * n)).take n
    { rows := r.map (·.row), side := if r.isEmpty then none else kind.map (fun k => ⟨k, r.map (·.side)⟩), bad := [] })

/-- Keeps the poison of rows a load took from the tile as it stood. -/
def keepBad (old : List Tile) (k n : Nat) (t : List Tile) : List Tile :=
  (List.range t.length).map (fun e =>
    let b := tileBand t e
    { b with bad := (tileBand old e).bad.filter (fun r => e * n + r < k ∧ r < b.rows.length) })

/-- Loads rows from `i` on; a row that faults commits the rows before it (R164). -/
def loadRows (fetch : Nat → State → Except Stop (State × LoadedRow)) (commit : List LoadedRow → State → State) :
    Nat → Nat → List LoadedRow → State → Run
  | 0, _, rows, s => .ok (commit rows s)
  | n + 1, i, rows, s =>
    match fetch i s with
    | .ok (s1, r) => loadRows fetch commit n (i + 1) (rows ++ [r]) s1
    | .error (.trap t s1) => .error (.trap { t with unit := i } (commit rows s1))
    | .error (.wait s1) => .error (.wait s1)

/-- The effect of a `TLD` or `TLDS` on t_d: `n` rows in each band, from unit `k` on (R163 to R165, R168). -/
def loadTile (b0 : Bool) (n : Nat) (kind : Option SxK) (d k : Nat) (src : List Src)
    (fetch : Nat → State → Except Stop (State × LoadedRow)) (s : State) : Run := fromUnit k do
  let _ ← inService s
  let g := s.ctx.aux.gang
  let total := if b0 then n else n * g
  if k ≥ total then raiseIll s
  else
    let _ ← need s src
    let s ← granted [d] s
    let old := s.ctx.tile d
    loadRows fetch (fun rows s => putTile d (keepBad old k n (tileOfRows g n kind rows)) s) (total - k) k
      ((List.range k).map (oldRow old n)) s

/-- Address of a row: base + i × stride (R163). -/
def rowAddr (base stride : Word) (i : Nat) : Word := base + BitVec.ofNat 64 i * stride

/-- `TLD` (R163). -/
def execTld (fm : Form) (b0 : Bool) (rows bytes d a b : Nat) (s : State) : Out :=
  runRep fm (fm.len 24) (fun j k s =>
    let ga := rg s (fm.a j a)
    let gb := rg s (fm.b j b)
    loadTile b0 rows none (fm.d j d) k [.g (fm.a j a), .g (fm.b j b)]
      (fun i s => do
        let (s, v) ← loadRow 8 (rowAddr ga gb i) bytes s
        .ok (s, ⟨rowOfBytes v, 0⟩)) s) s

/-- Reads a scale stream as far as its records and their padding reach (R165): `n` blocks are left, `pos` is the
bit position, `d` the bytes read. Each piece is an access of its own, and the stream is read to its end before its records are
judged (R44). DESIGN CHOICE, log 96. -/
def readScales (va : Word) : Nat → Nat → List Byte → State → Except Stop (State × List Byte)
  | 0, pos, d, s =>
    let want := (pos + 7) / 8
    if want ≤ d.length then .ok (s, d)
    else do
      let (s, v) ← loadRow 1 (va + BitVec.ofNat 64 d.length) (want - d.length) s
      .ok (s, d ++ v)
  | n + 1, pos, d, s => do
    let want := (pos + 11) / 8
    let (s, d) ← if want ≤ d.length then .ok (s, d)
      else do
        let (s, v) ← loadRow 1 (va + BitVec.ofNat 64 d.length) (want - d.length) s
        .ok (s, d ++ v)
    readScales va n (pos + (if bitsOf (natOfBytes d) pos 4 = 8 then 20 else 12)) d s

/-- One row of a `TLDS` (R165): payload, then scales; a failure of R44 raises ILL-DATA. -/
def loadSxRow (k : SxK) (pa sa : Word) (i : Nat) (s : State) : Except Stop (State × LoadedRow) := do
  let (s, v) ← loadRow 8 pa (k.blocks * k.blockBytes) s
  let (s, w) ← readScales sa k.blocks 0 [] s
  match rowScales k.blocks w with
  | none => raiseAccess 0x02 i sa s
  | some x => .ok (s, ⟨rowOfBytes v, BitVec.ofNat 256 x⟩)

/-- `TLDS` (R165). -/
def execTlds (fm : Form) (b0 : Bool) (sx : SxK) (rows d a b : Nat) (s : State) : Out :=
  runRep fm (fm.len 24) (fun j k s =>
    let ga := rg s (fm.a j a)
    let ga1 := rg s (fm.a j a + 1)
    let gb := rg s (fm.b j b)
    let gb1 := rg s (fm.b j b + 1)
    loadTile b0 rows (some sx) (fm.d j d) k
      [.g (fm.a j a), .g (fm.a j a + 1), .g (fm.b j b), .g (fm.b j b + 1)]
      (fun i s => loadSxRow sx (rowAddr ga ga1 i) (rowAddr gb gb1 i) i s) s) s

/-! ## Block stores -/

/-- A row of a block store (R186): address, bytes, alignment, and whether poison feeds it. The poison check
follows the access checks of the last piece of a row. -/
structure OutRow where
  va : Word
  data : List Byte
  align : Nat
  bad : Bool
deriving DecidableEq, Repr

/-- Checks every row of a block store in order and gives the physical pieces (R111, R186). A row of no bytes has no
checks. DESIGN CHOICE, log 96. -/
def checkRows : List OutRow → State → Except Stop (State × List (Nat × List Byte))
  | [], s => .ok (s, [])
  | r :: l, s => do
    let (s, ps) ← if r.data = [] then .ok (s, []) else checkRow .store r.align r.va r.data.length s
    if r.bad then raisePoison s
    else
      let (s, rest) ← checkRows l s
      .ok (s, layOver ps r.data ++ rest)

/-- A block store: every row is checked before a byte is written (R166, R186). -/
def blockStore (rows : List OutRow) (s : State) : Run := do
  let (s, ps) ← checkRows rows s
  storePieces ps s

/-- `TSTO` (R166, R168). -/
def execTsto (fm : Form) (rows bytes d a b : Nat) (s : State) : Out :=
  runRep fm (fm.len 24) (fun j _ s => do
    let _ ← inService s
    let _ ← need s [.g (fm.a j a), .g (fm.b j b)]
    let s ← granted [fm.d j d] s
    let t := seenTile s (fm.d j d)
    blockStore ((List.range (rows * s.ctx.aux.gang)).map (fun i =>
      { va := rowAddr (rg s (fm.a j a)) (rg s (fm.b j b)) i
        data := (bytesOfRow ((tileBand t (i / rows)).row (i % rows))).take bytes
        align := 8
        bad := (tileBand t (i / rows)).bad.contains (i % rows) })) s) s

/-! ## Clearing and moving -/

/-- `TZERO` (R187). -/
def execTzero (fm : Form) (tgt : ZeroKind) (d : Nat) (s : State) : Out :=
  runRep fm (fm.len 24) (fun j _ s => do
    let _ ← inService s
    let s ← tileWork [] s
    let g := s.ctx.aux.gang
    match tgt with
    | .tile => .ok (putTile (fm.d j d) (noTile g) s)
    | .acc tag =>
      if tag = .empty then .ok (putAcc (fm.d j d) Acc.empty s)
      else .ok (putAcc (fm.d j d) ⟨tag, 64, tag.cols, List.replicate g [], [], []⟩ s)) s

/-- A cell as a number or value (R66, R179): the folded value saturated to INT32, or the value after DAZ; with
the flags that reading it raises. -/
def readCell (c : FpCtl) (tag : Tag) (v : Word) : FVal × Nat :=
  let ofI (i : Int) : FVal := .fin (decide (i < 0)) i.natAbs 0
  match tag with
  | .empty => (.fin false 0 0, 0)
  | .int => let (i, sat) := saturate 32 v.toInt; (ofI i, flagIf sat flagNV)
  | .i32 => (ofI (sext v.toNat 32), 0)
  | .fp32 => (EFmt.fp32.source c v.toNat, 0)
  | .fp64 => (EFmt.fp64.source c v.toNat, 0)
  | .bf16 => (EFmt.bf16.source c v.toNat, 0)
  | .fp16 => (EFmt.fp16.source c v.toNat, 0)

/-- Float format of a tag. -/
def tagFmt : Tag → Option EFmt
  | .fp32 => some .fp32
  | .fp64 => some .fp64
  | .bf16 => some .bf16
  | .fp16 => some .fp16
  | _ => none

/-- A value as a cell of a tag (R188): rounded, or to a saturated INT32. -/
def writeCell (c : FpCtl) (tag : Tag) (v : FVal) : FRes :=
  match tagFmt tag with
  | some f => f.ofVal c v
  | none => let (i, fl) := toIntR 32 c.rm v; ⟨(i % 2 ^ 32).toNat, fl⟩

/-- Rows of cells of a band within the extent, through a function that also gives flags. -/
def mapBand (rext cext : Nat) (b : List (List Word)) (f : Word → FRes) : List (List Word) × Nat :=
  let rows := (List.range rext).map (fun i => (List.range cext).map (fun q => f (cellAt b i q)))
  (rows.map (fun r => r.map (fun x => BitVec.ofNat 64 x.bits)),
    rows.foldl (fun a r => r.foldl (fun a x => a ||| x.flags) a) 0)

/-- Controls of tile conversions: `TCTL`, with SR taken as RNE (R52, R183, R188). -/
def tileCtl (s : State) : FpCtl :=
  let c := tctlCtl s
  if bits s.ctx.ctl.tctl 17 3 = 5 then { c with rm := .rne } else c

/-- An accumulator converted into a tag, with the flags raised (R188). -/
def convertAcc (c : FpCtl) (a : Acc) (tag : Tag) : Acc × Nat :=
  let rs := a.bands.map (fun b => mapBand a.rext a.cext b (fun v =>
    let (x, f1) := readCell c a.tag v
    let r := writeCell c tag x
    ⟨r.bits, r.flags ||| f1⟩))
  (⟨tag, a.rext, a.cext, rs.map (·.1), [], []⟩, rs.foldl (fun x r => x ||| r.2) 0)

/-- Effect of a `TMOV` of c_a to c_d with a destination tag. -/
def moveAcc (tag : Tag) (d a : Nat) (s : State) : Run :=
  let x := seenAcc s a
  if x.tag = .empty then .ok (putAcc d Acc.empty s)
  else if x.cext > tag.cols then raiseIll s
  else if x.poisoned then raise 0x0E 2 0 s
  else if x.tag = tag then .ok (putAcc d x s)
  else
    let (y, fl) := convertAcc (tileCtl s) x tag
    .ok (orFlags fl (putAcc d y s))

/-- `TMOV` (R188). A copy of an INT accumulator yields I32. -/
def execTmov (fm : Form) (mk : MovKind) (d a : Nat) (s : State) : Out :=
  runRep fm (fm.len 24) (fun j _ s => do
    let _ ← inService s
    let s ← tileWork [if mk = .tile then fm.a j a else 16 + fm.a j a] s
    match mk with
    | .tile =>
      let t := seenTile s (fm.a j a)
      if t.any (fun b => !b.bad.isEmpty) then raise 0x0E 2 0 s else .ok (putTile (fm.d j d) t s)
    | .acc =>
      let tag := (s.ctx.acc (fm.a j a)).tag
      moveAcc (if tag = .int then .i32 else tag) (fm.d j d) (fm.a j a) s
    | .convert tag => do
      let _ ← need s [.ctl 0x002]
      moveAcc tag (fm.d j d) (fm.a j a) s) s

/-! ## Gangs, frees, control -/

/-- Engines a `TGANG` asks (R365). -/
def gangOf (s : State) (g : Nat) : List Nat := (List.range g).map (gangEngine s.cur g)

/-- Engines that have accepted the request of the `TGANG` at hand so far. -/
def gangSoFar (s : State) (g : Nat) : List Nat :=
  match s.ctx.aux.sent with
  | .gang x l => if x = g then l else []
  | _ => []

/-- Every engine of a gang has accepted the request (R365). -/
def gangAccepted (s : State) (g : Nat) : Bool := decide ((acceptances s g (gangSoFar s g)).length = g)

/-- `TGANG` (R175, R365, R384). -/
def execTgang (fm : Form) (imm : Nat) (s : State) : Out :=
  runOne (fm.len 24) (fun s =>
    if !gangOk imm then raiseIll s
    else if (gangOf s imm).any (fun n => (engineAt s n).quarantined) then raise 0x13 0x0005 0 s
    else if s.ctx.aux.sent = .gangGranted imm || gangAccepted s imm then
      let s := if imm = 1 then s else endOverlap s
      .ok { s with ctx := freeNames imm s.ctx }
    else waitIn (progress { s with ctx.aux.sent := .gang imm (acceptances s imm (gangSoFar s imm)) })) s

/-- `GANG_GRANT`: engines accept the request of the active context, and once all have it is granted (R365). -/
def execGangGrant (s : State) : Out :=
  match s.ctx.aux.sent with
  | .gang g l =>
    if gangAccepted s g then .next { s with ctx.aux.sent := .gangGranted g }
    else .next { s with ctx.aux.sent := .gang g (acceptances s g l) }
  | _ => .next s

/-- `TFREE` (R189). -/
def execTfree (fm : Form) (acc : Bool) (d a : Nat) (s : State) : Out :=
  runRep fm (fm.len 24) (fun j _ s => do
    let _ ← inService s
    if fm.a j a < fm.d j d then raiseIll s
    else
      let s ← tileWork [] s
      let names := (List.range 16).filter (fun n => fm.d j d ≤ n ∧ n ≤ fm.a j a)
      if acc then .ok (names.foldl (fun s n => putAcc n Acc.empty s) s)
      else .ok (names.foldl (fun s n => putTile n (noTile s.ctx.aux.gang) s) s)) s

/-- `TSYNC` (R190). It waits for no gang and no deferred tile state of a restored context (log 83). -/
def execTsync (fm : Form) (s : State) : Out :=
  runOne (fm.len 24) (fun s => do
    let _ ← inService s
    awaitStores 2 s) s

/-- `TCTL` operation 0: seeds the LFSR; zero loads 1 (R58, R191). -/
def execTctlSeed (fm : Form) (d : Nat) (s : State) : Out :=
  runOne (fm.len 24) (fun s => do
    let _ ← inService s
    let _ ← need s [.g d]
    let v : BitVec 32 := (rg s d).setWidth 32
    .ok { s with ctx.ctl.lfsr := if v = 0 then 1 else v }) s

/-- `TCTL` operation 1 (R191). -/
def execTctlRd (fm : Form) (d : Nat) (s : State) : Out :=
  runOne (fm.len 24) (fun s => do
    let _ ← inService s
    .ok (wg s d (s.ctx.ctl.lfsr.setWidth 64))) s

/-- `TCTL` operation 2 (R191). -/
def execTctlClr (fm : Form) (s : State) : Out :=
  runOne (fm.len 24) (fun s => do
    let _ ← inService s
    .ok { s with ctx.aux.corrections := 0, ctx.aux.unchecked := false }) s

/-- A `TQRY` on some names: the value of its query to g_d (R192). -/
def query (names : List Nat) (d : Nat) (f : State → Nat) (s : State) : Run := do
  let _ ← inService s
  let s ← tileWork names s
  .ok (wg s d (BitVec.ofNat 64 (f s)))

/-- `TQRY.rows` (R192). -/
def execTqryRows (fm : Form) (d a : Nat) (s : State) : Out :=
  runOne (fm.len 24) (query [a] d (fun s => (tileBand (s.ctx.tile a) 0).rows.length)) s

/-- `TQRY.acc` (R192). -/
def execTqryAcc (fm : Form) (d a : Nat) (s : State) : Out :=
  runOne (fm.len 24) (query [16 + a] d (fun s => accDesc (s.ctx.acc a))) s

/-- `TQRY.cell` (R192). -/
def execTqryCell (fm : Form) (d a : Nat) (s : State) : Out :=
  runOne (fm.len 24) (query [16 + a] d (fun s => accEntries (s.ctx.acc a))) s

/-- `TQRY.free`: the least over a gang's engines (R192). -/
def execTqryFree (fm : Form) (d : Nat) (s : State) : Out :=
  runOne (fm.len 24) (query [] d (fun s =>
    (myEngines s).foldl (fun m n => min m (entriesFree s s.pid n)) 256)) s

/-- `TQRY.gang` (R192). -/
def execTqryGang (fm : Form) (d : Nat) (s : State) : Out :=
  runOne (fm.len 24) (query [] d (fun s => s.ctx.aux.gang)) s

/-- `TQRY.corr` (R192). -/
def execTqryCorr (fm : Form) (d : Nat) (s : State) : Out :=
  runOne (fm.len 24) (query [] d (fun s => s.ctx.aux.corrections.toNat)) s

/-- `TQRY.unck` (R192). -/
def execTqryUnck (fm : Form) (d : Nat) (s : State) : Out :=
  runOne (fm.len 24) (query [] d (fun s => if s.ctx.aux.unchecked then 1 else 0)) s

end Sys2Proof.Machine
end

