-- ==== Sys2Proof/Machine/Drain.lean ====
section
/-! DEFINITION. Drains: `TDRAIN` and `TDRAINT` (R59, R183 to R186). -/

namespace Sys2Proof.Machine

/-- Output formats a tag accepts (R184). -/
def accepts (t : Tag) (o : OFmt) : Bool :=
  match t with
  | .empty => true
  | .fp32 => true
  | .fp64 => o == .fp64 || o == .fp32 || o == .int32
  | .int | .i32 => o == .int32 || o == .int8 || o == .fp32
  | .bf16 => o == .bf16 || o == .fp32
  | .fp16 => o == .fp16 || o == .fp32

/-- How an output element is stored. -/
inductive OutKind where
  | float (f : EFmt)
  | int (n : Nat)
  | sx (k : SxK)
deriving DecidableEq, Repr

/-- The kind of an output format (R89). -/
def outKind : OFmt → OutKind
  | .fp32 => .float .fp32
  | .fp64 => .float .fp64
  | .bf16 => .float .bf16
  | .fp16 => .float .fp16
  | .e4m3 => .float .e4m3
  | .e5m2 => .float .e5m2
  | .int8 => .int 8
  | .int32 => .int 32
  | .sx7 => .sx .sx7
  | .sx4 => .sx .sx4
  | .sx2 => .sx .sx2

/-- SR applies to BF16, FP8 and SX outputs only (R183). -/
def srFmt : EFmt → Bool
  | .bf16 => true
  | .e4m3 => true
  | .e5m2 => true
  | _ => false

/-- One element rounded by `round_sr` (R59); specials are those of R53. -/
def srElem (f : EFmt) (c : FpCtl) (st : BitVec 32) (v : FVal) : FRes :=
  match v with
  | .fin n m e => if m = 0 then f.zero n else f.roundSr c st n m e
  | v => f.ofVal { c with rm := .rne } v

/-- A row of output bytes with the flags and the LFSR it leaves. -/
structure OutBytes where
  payload : List Byte
  scales : List Byte
  flags : Nat
  lfsr : BitVec 32
deriving DecidableEq, Repr

/-- Elements of a row in a float format. -/
def floatRow (f : EFmt) (c : FpCtl) (sr : Bool) (st : BitVec 32) (l : List FVal) : OutBytes :=
  l.foldl (fun r v =>
    let st1 := if sr then lfsrAdvance r.lfsr else r.lfsr
    let x := if sr then srElem f c st1 v else f.ofVal c v
    { r with payload := r.payload ++ bytesOfNat (f.bits / 8) x.bits, flags := r.flags ||| x.flags, lfsr := st1 })
    ⟨[], [], 0, st⟩

/-- Elements of a row in an integer format (R53). -/
def intRow (n : Nat) (c : FpCtl) (st : BitVec 32) (l : List FVal) : OutBytes :=
  l.foldl (fun r v =>
    let (i, fl) := toIntR n c.rm v
    { r with payload := r.payload ++ bytesOfNat (n / 8) (i % 2 ^ n).toNat, flags := r.flags ||| fl })
    ⟨[], [], 0, st⟩

/-- One output row (R183). `c` has RNE for SR; `sr` says that DRM is SR. -/
def outRow (o : OFmt) (c : FpCtl) (sr : Bool) (st : BitVec 32) (l : List FVal) : OutBytes :=
  match outKind o with
  | .float f => floatRow f c (sr && srFmt f) st l
  | .int n => intRow n c st l
  | .sx k =>
    let r := sxRow k c.rm sr st l
    ⟨r.payload, r.scaleBytes, r.flags, r.lfsr⟩

/-- Bytes of an element of an output format; 1 for SX (R183). -/
def outAlign (o : OFmt) : Nat :=
  match outKind o with
  | .float f => f.bits / 8
  | .int n => n / 8
  | .sx _ => 1

/-- A value times the tensor scale, exactly (R183). A register number of 0 means a scale of 1. -/
def scaled (s : State) (c : FpCtl) (fs : Nat) (v : FVal) : FVal :=
  if fs = 0 then v else mulVal v (EFmt.fp32.source c ((rf s fs).toNat % 2 ^ 32))

/-- The rows of cells of an accumulator as values, every band in order, and the flags of reading them (R176). -/
def drainGrid (c : FpCtl) (a : Acc) : List (List FVal) × Nat :=
  let rows := a.bands.flatMap (fun b =>
    (List.range a.rext).map (fun i => (List.range a.cext).map (fun q => readCell c a.tag (cellAt b i q))))
  (rows.map (fun r => r.map (·.1)), rows.foldl (fun x r => r.foldl (fun x v => x ||| v.2) x) 0)

/-- Column `q` of a grid. -/
def columnOf (g : List (List FVal)) (q : Nat) : List FVal := g.map (fun r => (r[q]?).getD (.fin false 0 0))

/-- Output rows of one copy: stores, flags, LFSR. `bad` says whether poison feeds a row; scale bytes go to `sva`
with stride `sst`. -/
def copyRows (o : OFmt) (c : FpCtl) (sr : Bool) (bad : Nat → Bool) (va st sva sst : Word) :
    List (List FVal) → Nat → Nat → BitVec 32 → List OutRow × Nat × BitVec 32
  | [], _, fl, l => ([], fl, l)
  | r :: rs, i, fl, l =>
    let x := outRow o c sr l r
    let isSx := o.isSx
    let p : OutRow := ⟨rowAddr va st i, x.payload, outAlign o, bad i && !isSx⟩
    let here := if isSx then [p, ⟨rowAddr sva sst i, x.scales, 1, bad i⟩] else [p]
    let (rest, fl', l') := copyRows o c sr bad va st sva sst rs (i + 1) (fl ||| x.flags) x.lfsr
    (here ++ rest, fl', l')

/-- What a drain writes: rows in checking order, flags, LFSR (R183, R185, R186). -/
def drainRows (s : State) (a : Acc) (o : OFmt) (o2 : Option OFmt) (fs ft : Nat) (va st va1 st1 : Word) :
    List OutRow × Nat × BitVec 32 :=
  let c := tileCtl s
  let sr := decide (bits s.ctx.ctl.tctl 17 3 = 5)
  if a.tag = .empty then ([], 0, s.ctx.ctl.lfsr)
  else
    let (g, f0) := drainGrid c a
    let rowBad (i : Nat) : Bool := a.rext != 0 && a.rowBad (i / a.rext) (i % a.rext)
    let (r1, f1, l1) := copyRows o c sr rowBad va st va1 st1 (g.map (fun r => r.map (scaled s c fs))) 0 f0 s.ctx.ctl.lfsr
    match o2 with
    | none => (r1, f1, l1)
    | some o2 =>
      let cols := (List.range a.cext).map (columnOf g)
      let (r2, f2, l2) := copyRows o2 c sr a.colBad va1 st1 0 0 (cols.map (fun r => r.map (scaled s c ft))) 0 f1 l1
      (r1 ++ r2, f2, l2)

/-- The effect of a drain of c_d (R183 to R186). -/
def drain (o : OFmt) (o2 : Option OFmt) (free : Bool) (fs ft d a b : Nat) (s : State) : Run := do
  let _ ← inService s
  let tag := (s.ctx.acc d).tag
  if !(accepts tag o && (o2.map (accepts tag)).getD true) then raiseIll s
  else
    let pair := o2.isSome || o.isSx
    let _ ← need s ([Src.g a, .g b] ++ (if pair then [Src.g (a + 1), .g (b + 1)] else []) ++
      (if fs = 0 then [] else [Src.f fs]) ++ (if ft = 0 then [] else [Src.f ft]) ++ [.ctl 0x002])
    let s ← granted [16 + d] s
    let (rows, fl, lfsr) := drainRows s (seenAcc s d) o o2 fs ft (rg s a) (rg s b) (rg s (a + 1)) (rg s (b + 1))
    let s ← blockStore rows s
    let s1 := orFlags fl { s with ctx.ctl.lfsr := lfsr }
    .ok (if free then putAcc d Acc.empty s1 else s1)

/-- `TDRAIN` (R183, R184, R186). -/
def execTdrain (fm : Form) (o : OFmt) (free : Bool) (fs d a b : Nat) (s : State) : Out :=
  runRep fm (fm.len 24) (fun j _ s => drain o none free fs 0 (fm.d j d) (fm.a j a) (fm.b j b) s) s

/-- `TDRAINT` (R185). -/
def execTdraint (fm : Form) (o o2 : OFmt) (free : Bool) (fs ft d a b : Nat) (s : State) : Out :=
  runRep fm (fm.len 24) (fun j _ s => drain o (some o2) free fs ft (fm.d j d) (fm.a j a) (fm.b j b) s) s

end Sys2Proof.Machine
end

