-- ==== Sys2Proof/Machine/Approx.lean ====
section
/-! DEFINITION. The approximation tables by their formulas, and the results of the approximation instructions
(R60, R61). -/

namespace Sys2Proof.Machine

/-- Reciprocal entry for F, in units of 2^-12: 4096 × 512 / (513 + 2F) to the nearest (R60). -/
def rcpEntry (f : Nat) : Nat := (2 * (4096 * 512) / (513 + 2 * f) + 1) / 2

/-- Reciprocal square-root entry for e mod 2 and G, in units of 2^-12 (R60): twice the root is taken whole, so
that half of it, rounded up, is the nearest integer. -/
def rsqEntry (odd : Bool) (g : Nat) : Nat :=
  (isqrt (4 * 4096 * 4096 * 256 / ((257 + 2 * g) * (if odd then 2 else 1))) + 1) / 2

/-- The greatest t of n + 1 bits at or above `base` with t^512 ≤ bound, by digits. -/
def root512 (bound : Nat) : Nat → Nat → Nat
  | 0, t => t
  | n + 1, t => root512 bound n (if (t + 2 ^ n) ^ 512 ≤ bound then t + 2 ^ n else t)

/-- Exponential entry for F′, in units of 2^-11 (R60): t = ⌊4096 × 2^((2F′ + 1) / 512)⌋, halved to the nearest. -/
def exp2Entry (f : Nat) : Nat := (root512 (2 ^ (12 * 512 + 2 * f + 1)) 13 0 + 1) / 2

/-- Logarithm entry for F, in units of 2^-12 (R60): ⌊8192 × log2 (513 + 2F)⌋, halved to the nearest, less 9. -/
def log2Entry (f : Nat) : Nat := (Nat.log2 ((513 + 2 * f) ^ 8192) + 1) / 2 - 4096 * 9

/-- The top n fraction bits of a nonzero mantissa m, whose leading bit is left out (R60). -/
def topFraction (m n : Nat) : Nat :=
  let l := Nat.log2 m
  if l ≥ n then m / 2 ^ (l - n) - 2 ^ n else m * 2 ^ (n - l) - 2 ^ n

/-- Controls of an approximation's final rounding, always RNE (R61, R132). -/
def approxCtl (c : FpCtl) : FpCtl := { c with rm := .rne }

/-- `FRCPA` and `VRCPA` (R60, R61). -/
def EFmt.rcpR (f : EFmt) (c : FpCtl) (a : Nat) : FRes :=
  match f.source c a with
  | .nan s => f.nan s
  | .inf n => f.zero n
  | .fin n m e =>
    if m = 0 then ⟨(f.infinity n).bits, flagDZ⟩
    else f.round (approxCtl c) n (rcpEntry (topFraction m 8)) (-12 - topExp m e) false

/-- `FRSQA` and `VRSQA` (R60, R61). -/
def EFmt.rsqR (f : EFmt) (c : FpCtl) (a : Nat) : FRes :=
  match f.source c a with
  | .nan s => f.nan s
  | .inf n => if n then f.nan true else f.zero false
  | .fin n m e =>
    if m = 0 then ⟨(f.infinity n).bits, flagDZ⟩
    else if n then f.nan true
    else
      let t := topExp m e
      f.round (approxCtl c) false (rsqEntry (decide (t % 2 = 1)) (topFraction m 7)) (-12 - (t - t % 2) / 2) false

/-- ⌊m × 2^e⌋ of a signed number, and its 256ths below it: n and F′ of R60; `whole` says x is an integer. -/
def floorParts (neg : Bool) (m : Nat) (e : Int) : Int × Nat × Bool :=
  if 0 ≤ e then ((if neg then -1 else 1) * ((m * 2 ^ e.toNat : Nat) : Int), 0, true)
  else
    let sh := (-e).toNat
    if sh > bitLength m + 8 then (if neg then (-1, 255, false) else (0, 0, false))
    else
      let v : Int := if neg then -(m : Int) else m
      let n := v / 2 ^ sh
      let r := v % 2 ^ sh
      (n, (r * 256 / 2 ^ sh).toNat, decide (r = 0))

/-- `VEXP2A` (R60, R61). -/
def EFmt.exp2R (f : EFmt) (c : FpCtl) (a : Nat) : FRes :=
  match f.source c a with
  | .nan s => f.nan s
  | .inf n => if n then f.zero false else f.infinity false
  | .fin n m e =>
    if m = 0 then f.round (approxCtl c) false 1 0 false
    else
      let (k, fr, whole) := floorParts n m e
      if whole then f.round (approxCtl c) false 1 k false
      else f.round (approxCtl c) false (exp2Entry fr) (k - 11) false

/-- `VLOG2A` (R60, R61). -/
def EFmt.log2R (f : EFmt) (c : FpCtl) (a : Nat) : FRes :=
  match f.source c a with
  | .nan s => f.nan s
  | .inf n => if n then f.nan true else f.infinity false
  | .fin n m e =>
    if m = 0 then ⟨(f.infinity true).bits, flagDZ⟩
    else if n then f.nan true
    else
      let t := topExp m e
      let whole := decide (m = 2 ^ Nat.log2 m)
      let v : Int := if whole then t * 4096 else t * 4096 + log2Entry (topFraction m 8)
      if v = 0 then f.zero false else f.roundDy (approxCtl c) ⟨v, -12⟩

end Sys2Proof.Machine
end

