-- ==== Sys2Proof/Machine/Fp.lean ====
section
/-! DEFINITION. Scalar floating-point instructions (R120 to R132). -/

namespace Sys2Proof.Machine

/-- `FCSR` as a source. -/
def srcFcsr : Src := .ctl 0x001

/-- Reads a source register in a format (R122). -/
def rfn (f : Fmt) (s : State) (n : Nat) : Nat := (rf s n).toNat % 2 ^ (fmtE f).bits

/-- Writes a result, zero above its format's bits (R122). -/
def wfn (n : Nat) (v : Nat) (s : State) : State := wf s n (BitVec.ofNat 64 v)

/-- A rounding or comparing instruction on two sources. -/
def fp2 (fm : Form) (f : Fmt) (rx d a b : Nat) (op : FpCtl → Nat → Nat → FRes) (j _k : Nat) (s : State) : Run := do
  let _ ← need s [.f (fm.a j a), .f (fm.b j b), srcFcsr]
  let r := op (fcsrCtl rx s) (rfn f s (fm.a j a)) (rfn f s (fm.b j b))
  fpRetire r.flags (wfn (fm.d j d) r.bits) s

/-- A rounding instruction on one source. -/
def fp1 (fm : Form) (f : Fmt) (rx d a : Nat) (op : FpCtl → Nat → FRes) (j _k : Nat) (s : State) : Run := do
  let _ ← need s [.f (fm.a j a), srcFcsr]
  let r := op (fcsrCtl rx s) (rfn f s (fm.a j a))
  fpRetire r.flags (wfn (fm.d j d) r.bits) s

/-- A fused instruction, whose destination is a source (R121, R125). -/
def fp3 (fm : Form) (f : Fmt) (rx d a b : Nat) (negProd negD : Bool) (j _k : Nat) (s : State) : Run := do
  let _ ← need s [.f (fm.a j a), .f (fm.b j b), .f (fm.d j d), srcFcsr]
  let r := (fmtE f).fmaR (fcsrCtl rx s) negProd negD (rfn f s (fm.a j a)) (rfn f s (fm.b j b)) (rfn f s (fm.d j d))
  fpRetire r.flags (wfn (fm.d j d) r.bits) s

/-- `FADD` (R125). -/
def execFadd (fm : Form) (f : Fmt) (rx d a b : Nat) (s : State) : Out :=
  runRep fm (fm.len 10) (fp2 fm f rx d a b (fmtE f).addR) s

/-- `FSUB` (R125). -/
def execFsub (fm : Form) (f : Fmt) (rx d a b : Nat) (s : State) : Out :=
  runRep fm (fm.len 10) (fp2 fm f rx d a b (fmtE f).subR) s

/-- `FMUL` (R125). -/
def execFmul (fm : Form) (f : Fmt) (rx d a b : Nat) (s : State) : Out :=
  runRep fm (fm.len 10) (fp2 fm f rx d a b (fmtE f).mulR) s

/-- `FDIV` (R125). -/
def execFdiv (fm : Form) (f : Fmt) (rx d a b : Nat) (s : State) : Out :=
  runRep fm (fm.len 10) (fp2 fm f rx d a b (fmtE f).divR) s

/-- `FSQRT` (R125). -/
def execFsqrt (fm : Form) (f : Fmt) (rx d a : Nat) (s : State) : Out :=
  runRep fm (fm.len 10) (fp1 fm f rx d a (fmtE f).sqrtR) s

/-- `FMA` (R125). -/
def execFma (fm : Form) (f : Fmt) (rx d a b : Nat) (s : State) : Out :=
  runRep fm (fm.len 10) (fp3 fm f rx d a b false false) s

/-- `FMS` (R125). -/
def execFms (fm : Form) (f : Fmt) (rx d a b : Nat) (s : State) : Out :=
  runRep fm (fm.len 10) (fp3 fm f rx d a b false true) s

/-- `FNMA` (R125). -/
def execFnma (fm : Form) (f : Fmt) (rx d a b : Nat) (s : State) : Out :=
  runRep fm (fm.len 10) (fp3 fm f rx d a b true false) s

/-- `FMIN` (R126). -/
def execFmin (fm : Form) (f : Fmt) (rx d a b : Nat) (s : State) : Out :=
  runRep fm (fm.len 10) (fp2 fm f rx d a b (fun c => (fmtE f).minmaxR c false)) s

/-- `FMAX` (R126). -/
def execFmax (fm : Form) (f : Fmt) (rx d a b : Nat) (s : State) : Out :=
  runRep fm (fm.len 10) (fp2 fm f rx d a b (fun c => (fmtE f).minmaxR c true)) s

/-- Result of `FABS` (R127). -/
def fabsV (f : Fmt) (x : Nat) : Nat := (fmtE f).mag x

/-- Result of `FNEG` (R127). -/
def fnegV (f : Fmt) (x : Nat) : Nat := (fmtE f).signBit (!(fmtE f).neg x) + (fmtE f).mag x

/-- Result of `FSGNJ` (R127). -/
def fsgnjV (f : Fmt) (x y : Nat) : Nat := (fmtE f).signBit ((fmtE f).neg y) + (fmtE f).mag x

/-- `FABS` (R127). The rounding payload has no effect (R122). -/
def execFabs (fm : Form) (f : Fmt) (_rx d a : Nat) (s : State) : Out :=
  runRep fm (fm.len 10) (fun j _ s => do
    let _ ← need s [.f (fm.a j a)]
    .ok (wfn (fm.d j d) (fabsV f (rfn f s (fm.a j a))) s)) s

/-- `FNEG` (R127). -/
def execFneg (fm : Form) (f : Fmt) (_rx d a : Nat) (s : State) : Out :=
  runRep fm (fm.len 10) (fun j _ s => do
    let _ ← need s [.f (fm.a j a)]
    .ok (wfn (fm.d j d) (fnegV f (rfn f s (fm.a j a))) s)) s

/-- `FSGNJ` (R127). -/
def execFsgnj (fm : Form) (f : Fmt) (_rx d a b : Nat) (s : State) : Out :=
  runRep fm (fm.len 10) (fun j _ s => do
    let _ ← need s [.f (fm.a j a), .f (fm.b j b)]
    .ok (wfn (fm.d j d) (fsgnjV f (rfn f s (fm.a j a)) (rfn f s (fm.b j b))) s)) s

/-- `FCMP` (R128). -/
def execFcmp (fm : Form) (c : Fcc) (f : Fmt) (_rx d a b : Nat) (s : State) : Out :=
  runOne (fm.len 11) (fun s => do
    let _ ← need s [.f a, .f b, srcFcsr]
    let x := (fmtE f).source (fcsrCtl 0 s) (rfn f s a)
    let y := (fmtE f).source (fcsrCtl 0 s) (rfn f s b)
    fpRetire (fcmpFlags c x y) (fun s => wp s d (fcmpHolds c x y)) s) s

/-- `FCLASS` (R129). -/
def execFclass (fm : Form) (f : Fmt) (_rx d a : Nat) (s : State) : Out :=
  runOne (fm.len 11) (fun s => do
    let _ ← need s [.f a]
    .ok (wg s d (BitVec.ofNat 64 (2 ^ (fmtE f).classOf (rfn f s a))))) s

/-- `FCVT` (R53, R130). -/
def execFcvt (fm : Form) (df sf : Fmt) (rx d a : Nat) (s : State) : Out :=
  runOne (fm.len 11) (fun s => do
    let _ ← need s [.f a, srcFcsr]
    let c := fcsrCtl rx s
    let r := (fmtE df).ofVal c ((fmtE sf).source c (rfn sf s a))
    fpRetire r.flags (wfn d r.bits) s) s

/-- Width of an integer of class CI. -/
def iwBits : IW → Nat
  | .int64 => 64
  | .int32 => 32

/-- `FCVTI` (R53, R130). -/
def execFcvti (fm : Form) (iw : IW) (f : Fmt) (rx d a : Nat) (s : State) : Out :=
  runOne (fm.len 11) (fun s => do
    let _ ← need s [.f a, srcFcsr]
    let c := fcsrCtl rx s
    let r := toIntR (iwBits iw) c.rm ((fmtE f).source c (rfn f s a))
    fpRetire r.2 (fun s => wg s d (ofInt r.1)) s) s

/-- `ICVTF` (R53, R130). -/
def execIcvtf (fm : Form) (iw : IW) (f : Fmt) (rx d a : Nat) (s : State) : Out :=
  runOne (fm.len 11) (fun s => do
    let _ ← need s [.g a, srcFcsr]
    let r := (fmtE f).ofInt (fcsrCtl rx s) (sext (rg s a).toNat (iwBits iw))
    fpRetire r.flags (wfn d r.bits) s) s

/-- `FMVG` (R131). -/
def execFmvg (fm : Form) (d a : Nat) (s : State) : Out :=
  runOne (fm.len 11) (fun s => do
    let _ ← need s [.f a]
    .ok (wg s d (rf s a))) s

/-- `GMVF` (R131). -/
def execGmvf (fm : Form) (d a : Nat) (s : State) : Out :=
  runOne (fm.len 11) (fun s => do
    let _ ← need s [.g a]
    .ok (wf s d (rg s a))) s

/-- `FRCPA` (R60, R132). -/
def execFrcpa (fm : Form) (f : Fmt) (rx d a : Nat) (s : State) : Out :=
  runRep fm (fm.len 12) (fp1 fm f rx d a (fmtE f).rcpR) s

/-- `FRSQA` (R60, R132). -/
def execFrsqa (fm : Form) (f : Fmt) (rx d a : Nat) (s : State) : Out :=
  runRep fm (fm.len 12) (fp1 fm f rx d a (fmtE f).rsqR) s

end Sys2Proof.Machine
end

