-- ==== Sys2Proof/Machine/Vector.lean ====
section
/-! DEFINITION. Vector instructions on accumulator rows (R195 to R216). -/

namespace Sys2Proof.Machine

/-! ## Operands -/

/-- The accumulator a vector field names through its window (R67, R203). -/
def windowAcc (s : State) (f : Nat) : Nat := bits s.ctx.ctl.tctl (if f / 64 % 2 = 1 then 27 else 24) 3

/-- The tag of a vector operand as a lane type; INT counts as I32 (R197). -/
def laneTag (s : State) (f : Nat) : Tag :=
  let t := (s.ctx.acc (windowAcc s f)).tag
  if t = .int then .i32 else t

/-- Lane width in bits (R66). -/
def laneBits (t : Tag) : Nat := 8 * t.cellBytes

/-- The lane type of the operands in their order, where it exists and they agree with it (R197). `wide` lists
operands that need only the width; `loose` says that all of them do. -/
def laneType (s : State) (typed wide : List Nat) (loose : Bool) : Option Tag :=
  match (typed.map (laneTag s)).find? (fun t => t ≠ .empty) with
  | none => none
  | some t =>
    if typed.all (fun f => let x := laneTag s f
        decide (x = .empty ∨ x = t) || (loose && decide (laneBits x = laneBits t))) &&
      wide.all (fun f => let x := laneTag s f
        decide (x = .empty ∨ laneBits x = laneBits t))
    then some t else none

/-- A lane as it is read: its bits and the flags that reading it raises. -/
abbrev Lane := Nat × Nat

/-- A cell as a lane: an INT cell folds and saturates to INT32 (R198). -/
def laneOf (tag : Tag) (v : Word) : Lane :=
  match tag with
  | .empty => (0, 0)
  | .int => let (i, sat) := saturate 32 v.toInt; ((i % 2 ^ 32).toNat, flagIf sat flagNV)
  | t => (v.toNat % 2 ^ laneBits t, 0)

/-- The lanes of a vector operand in a band; outside the extent they are zero (R198). -/
def laneRow (s : State) (n f e : Nat) : List Lane :=
  let a := seenAcc s (windowAcc s f)
  if f % 64 < a.rext then
    (List.range n).map (fun q => if q < a.cext then laneOf a.tag (cellAt (a.band e) (f % 64) q) else (0, 0))
  else List.replicate n (0, 0)

/-- The row of a vector operand is poisoned in a band (R202). -/
def rowBad (s : State) (f e : Nat) : Bool :=
  let a := seenAcc s (windowAcc s f)
  a.rowBad e (f % 64) && decide (f % 64 < a.rext)

/-- Which lanes a mask makes active (R64). -/
def activeLanes (s : State) (k n : Nat) : List Bool :=
  (List.range n).map (fun i => (rm s k).getLsbD (if n = 256 then i / 2 else i))

/-- Flags of the active lanes (R201). -/
def laneFlags (act : List Bool) (l : List Lane) : Nat :=
  (List.zipWith (fun a (x : Lane) => if a then x.2 else 0) act l).foldl (· ||| ·) 0

/-- What is written to each lane; an inactive lane merges or becomes zero (R200). -/
def chosen (z : Bool) (act : List Bool) (l : List Lane) : List (Option Nat) :=
  List.zipWith (fun a (x : Lane) => if a then some x.1 else if z then some 0 else none) act l

/-! ## Writing a row -/

/-- A row of `n` cells with lanes replaced; lanes that are absent keep their cells. -/
def mergeRow (n : Nat) (old : List Word) (out : List (Option Nat)) : List Word :=
  (List.range n).map (fun i =>
    match (out[i]?).getD none with
    | some v => BitVec.ofNat 64 v
    | none => (old[i]?).getD 0)

/-- Every lane of a row is written. -/
def wholeRow (n : Nat) (out : List (Option Nat)) : Bool :=
  decide (out.length = n) && out.all (·.isSome)

/-- Cells of a band within the extent. -/
def trimBand (a : Acc) (e : Nat) : List (List Word) := ((a.band e).take a.rext).map (·.take a.cext)

/-- Writes a vector row, one list of lanes for each band that is written (R198, R199). A poisoned row of which
every lane is written is good again, and so is a poisoned cell that is written. -/
def vecWrite (t : Tag) (f : Nat) (outs : List (List (Option Nat))) (s : State) : State :=
  let x := windowAcc s f
  let r := f % 64
  let a := s.ctx.acc x
  let n := t.cols
  putAcc x
    { tag := if a.tag = .empty then t else a.tag
      rext := max a.rext (r + 1)
      cext := n
      bands := (List.range s.ctx.aux.gang).map (fun e =>
        let b := trimBand a e
        match outs[e]? with
        | none => b
        | some o => setPad [] r (mergeRow n ((b[r]?).getD []) o) b)
      bad := a.bad.filter (fun p =>
        decide (p.2 < a.rext) && !(decide (p.2 = r) && ((outs[p.1]?).map (wholeRow n)).getD false))
      badCells := a.badCells.filter (fun p =>
        decide (p.2.1 < a.rext) && !(decide (p.2.1 = r) && (((outs[p.1]?).bind (·[p.2.2]?)).bind id).isSome)) } s

/-! ## Running -/

/-- What every vector instruction checks before its effect: an engine, the lane type, the destination's tag, the
registers it reads, and the engines' cycles (R88, R197, R202). -/
def vecRun (typed wide : List Nat) (loose : Bool) (dest : Option Nat) (ok : Tag → Bool) (src : List Src)
    (body : Tag → State → Run) (s : State) : Run := do
  let _ ← inService s
  match laneType s typed wide loose with
  | none => raiseIll s
  | some t =>
    if (dest.map (fun d => decide ((s.ctx.acc (windowAcc s d)).tag = .int))).getD false || !ok t then raiseIll s
    else
      let _ ← need s (src ++ [.ctl 0x002, srcFcsr])
      let s ← granted ((typed ++ wide).map (fun f => 16 + windowAcc s f)) s
      body t s

/-- Bands of the context. -/
def bandsOf (s : State) : List Nat := List.range s.ctx.aux.gang

/-- Each band's row on its own: the source rows give the lanes of the destination (R199 to R202). -/
def vecEach (t : Tag) (z : Bool) (act : List Bool) (d : Nat) (srcs : List Nat)
    (op : List (List Lane) → List Lane) (s : State) : Run :=
  if (bandsOf s).any (fun e => srcs.any (fun f => rowBad s f e)) then raise 0x0E 2 0 s
  else
    let rs := (bandsOf s).map (fun e => op (srcs.map (fun f => laneRow s t.cols f e)))
    fpRetire (rs.foldl (fun fl l => fl ||| laneFlags act l) 0) (vecWrite t d (rs.map (chosen z act))) s

/-- Any lane type. -/
def anyTag (_ : Tag) : Bool := true

/-- I32 lanes only. -/
def intTag (t : Tag) : Bool := decide (t = .i32)

/-- Float lanes only. -/
def floatTag (t : Tag) : Bool := (tagFmt t).isSome

/-- A lane of one source row; a row that is absent reads zero. -/
def lanes1 (f : Lane → Lane) : List (List Lane) → List Lane
  | x :: _ => x.map f
  | _ => []

/-- Lanes of two source rows. -/
def lanes2 (f : Lane → Lane → Lane) : List (List Lane) → List Lane
  | x :: y :: _ => List.zipWith f x y
  | _ => []

/-- Lanes of three source rows. -/
def lanes3 (f : Lane → Lane → Lane → Lane) : List (List Lane) → List Lane
  | x :: y :: w :: _ => List.zipWith (fun (p : Lane × Lane) c => f p.1 p.2 c) (List.zip x y) w
  | _ => []

/-- A vector instruction of destination and two vector sources, or with the destination a third. -/
def vec3 (fm : Form) (page : Nat) (z : Bool) (k d a b : Nat) (loose dSrc : Bool) (ok : Tag → Bool)
    (op : Tag → State → List (List Lane) → List Lane) (s : State) : Out :=
  runRep fm (fm.len page) (fun j _ s =>
    let d := fm.d j d
    let a := fm.a j a
    let b := fm.b j b
    vecRun [d, a, b] [] loose (some d) ok [.m k] (fun t s =>
      vecEach t z (activeLanes s k t.cols) d (if dSrc then [a, b, d] else [a, b]) (op t s) s) s) s

/-- A vector instruction of destination and one vector source. -/
def vec2 (fm : Form) (page : Nat) (z : Bool) (k d a : Nat) (ok : Tag → Bool) (src : List Src)
    (op : Tag → State → List (List Lane) → List Lane) (j : Nat) (s : State) : Run :=
  let _ := page
  let d := fm.d j d
  let a := fm.a j a
  vecRun [d, a] [] false (some d) ok (.m k :: src) (fun t s =>
    vecEach t z (activeLanes s k t.cols) d [a] (op t s) s) s

/-! ## Windows -/

/-- `VWIN` (R203). -/
def execVwin (fm : Form) (d a : Nat) (s : State) : Out :=
  runOne (fm.len 16) (fun s => do
    let _ ← inService s
    .ok { s with ctx.ctl.tctl := putBits (putBits s.ctx.ctl.tctl 24 3 d) 27 3 a }) s

/-! ## Arithmetic -/

/-- Bits of an I32 lane from a number: it wraps (R201). -/
def wrap32 (i : Int) : Nat := (i % 2 ^ 32).toNat

/-- An operation on two lanes (R204). -/
def laneBin (t : Tag) (c : FpCtl) (ff : EFmt → FpCtl → Nat → Nat → FRes) (fi : Int → Int → Int) (x y : Lane) : Lane :=
  match tagFmt t with
  | some f => let r := ff f c x.1 y.1; (r.bits, r.flags ||| x.2 ||| y.2)
  | none => (wrap32 (fi (sext x.1 32) (sext y.1 32)), x.2 ||| y.2)

/-- a × b ± d on lanes (R204). -/
def laneFma (t : Tag) (c : FpCtl) (sub : Bool) (x y w : Lane) : Lane :=
  match tagFmt t with
  | some f => let r := f.fmaR c false sub x.1 y.1 w.1; (r.bits, r.flags ||| x.2 ||| y.2 ||| w.2)
  | none =>
    let p := sext x.1 32 * sext y.1 32
    (wrap32 (if sub then p - sext w.1 32 else p + sext w.1 32), x.2 ||| y.2 ||| w.2)

/-- A bit operation on a float lane, and its I32 operation (R204). -/
def laneUn (t : Tag) (ff : EFmt → Nat → Nat) (fi : Int → Int) (x : Lane) : Lane :=
  match tagFmt t with
  | some f => (ff f x.1, x.2)
  | none => (wrap32 (fi (sext x.1 32)), x.2)

/-- An arithmetic instruction on two lanes. -/
def vecArith (fm : Form) (z : Bool) (k d a b : Nat) (ff : EFmt → FpCtl → Nat → Nat → FRes) (fi : Int → Int → Int)
    (s : State) : Out :=
  vec3 fm 16 z k d a b false false anyTag (fun t s => lanes2 (laneBin t (fcsrCtl 0 s) ff fi)) s

/-- `VADD` (R204). -/
def execVadd (fm : Form) (z : Bool) (k d a b : Nat) (s : State) : Out :=
  vecArith fm z k d a b EFmt.addR (· + ·) s

/-- `VSUB` (R204). -/
def execVsub (fm : Form) (z : Bool) (k d a b : Nat) (s : State) : Out :=
  vecArith fm z k d a b EFmt.subR (· - ·) s

/-- `VMUL` (R204). -/
def execVmul (fm : Form) (z : Bool) (k d a b : Nat) (s : State) : Out :=
  vecArith fm z k d a b EFmt.mulR (· * ·) s

/-- `VFMA` (R204). -/
def execVfma (fm : Form) (z : Bool) (k d a b : Nat) (s : State) : Out :=
  vec3 fm 16 z k d a b false true anyTag (fun t s => lanes3 (laneFma t (fcsrCtl 0 s) false)) s

/-- `VFMS` (R204). -/
def execVfms (fm : Form) (z : Bool) (k d a b : Nat) (s : State) : Out :=
  vec3 fm 16 z k d a b false true anyTag (fun t s => lanes3 (laneFma t (fcsrCtl 0 s) true)) s

/-- `VMIN` (R204). -/
def execVmin (fm : Form) (z : Bool) (k d a b : Nat) (s : State) : Out :=
  vecArith fm z k d a b (fun f c => f.minmaxR c false) min s

/-- `VMAX` (R204). -/
def execVmax (fm : Form) (z : Bool) (k d a b : Nat) (s : State) : Out :=
  vecArith fm z k d a b (fun f c => f.minmaxR c true) max s

/-- `VABS` (R204). -/
def execVabs (fm : Form) (z : Bool) (k d a : Nat) (s : State) : Out :=
  runRep fm (fm.len 16) (fun j _ s =>
    vec2 fm 16 z k d a anyTag [] (fun t _ => lanes1 (laneUn t EFmt.mag (fun i => (i.natAbs : Int)))) j s) s

/-- `VNEG` (R204). -/
def execVneg (fm : Form) (z : Bool) (k d a : Nat) (s : State) : Out :=
  runRep fm (fm.len 16) (fun j _ s =>
    vec2 fm 16 z k d a anyTag []
      (fun t _ => lanes1 (laneUn t (fun f x => f.signBit (!f.neg x) + f.mag x) (fun i => -i))) j s) s

/-! ## Logic and shifts -/

/-- A logical instruction: operands of one lane width (R205). An INT cell that saturates as it is read raises the
NV of R198. DEDUCED (log 85). -/
def vecLogic (fm : Form) (z : Bool) (k d a b : Nat) (f : Nat → Nat → Nat) (s : State) : Out :=
  vec3 fm 17 z k d a b true false anyTag (fun _ _ => lanes2 (fun x y => (f x.1 y.1, x.2 ||| y.2))) s

/-- `VAND` (R205). -/
def execVand (fm : Form) (z : Bool) (k d a b : Nat) (s : State) : Out := vecLogic fm z k d a b (· &&& ·) s

/-- `VOR` (R205). -/
def execVor (fm : Form) (z : Bool) (k d a b : Nat) (s : State) : Out := vecLogic fm z k d a b (· ||| ·) s

/-- `VXOR` (R205). -/
def execVxor (fm : Form) (z : Bool) (k d a b : Nat) (s : State) : Out := vecLogic fm z k d a b (· ^^^ ·) s

/-- `VSHL` (R205). -/
def execVshl (fm : Form) (z : Bool) (k d a b : Nat) (s : State) : Out :=
  vec3 fm 17 z k d a b false false intTag
    (fun _ _ => lanes2 (fun x y => (x.1 * 2 ^ (y.1 % 32) % 2 ^ 32, x.2 ||| y.2))) s

/-- `VSHR` (R205). -/
def execVshr (fm : Form) (z : Bool) (k d a b : Nat) (s : State) : Out :=
  vec3 fm 17 z k d a b false false intTag
    (fun _ _ => lanes2 (fun x y => (wrap32 (sext x.1 32 / 2 ^ (y.1 % 32)), x.2 ||| y.2))) s

/-! ## Conversion -/

/-- A lane of type `st` converted into type `t` (R53, R206). -/
def laneConvert (c : FpCtl) (st t : Tag) (x : Lane) : Lane :=
  let (v, _) := readCell c (if st = .int then .i32 else st) (BitVec.ofNat 64 x.1)
  let r := writeCell c t v
  (r.bits, r.flags ||| x.2)

/-- The lanes of a conversion by destination lane; a lane without a source is absent (R206). -/
def convertRow (c : FpCtl) (st t : Tag) (hi : Bool) (l : List Lane) : List (Option Lane) :=
  let ns := st.cols
  let nd := t.cols
  let h := if hi then 1 else 0
  (List.range nd).map (fun i =>
    if nd < ns then (l[i + nd * h]?).map (laneConvert c st t)
    else if i < ns * h then none
    else (l[i - ns * h]?).map (laneConvert c st t))

/-- A conversion exists between lane types (R206). -/
def convertOk (st t dt : Tag) (hi : Bool) : Bool :=
  decide (st ≠ .empty ∧ st ≠ t ∧ (dt = .empty ∨ dt = t)) &&
  decide (laneBits st ≠ 4 * laneBits t ∧ laneBits t ≠ 4 * laneBits st) &&
  !(hi && decide (laneBits st = laneBits t))

/-- `VCVT` (R206). -/
def execVcvt (fm : Form) (hi : Bool) (tg : Tag) (d a b : Nat) (s : State) : Out :=
  runRep fm (fm.len 17) (fun j _ s => do
    let _ ← inService s
    let d := fm.d j d
    let a := fm.a j a
    let k := fm.b j b
    let st := laneTag s a
    if !convertOk st tg (s.ctx.acc (windowAcc s d)).tag hi then raiseIll s
    else
      let _ ← need s [.m k, .ctl 0x002, srcFcsr]
      let s ← granted [16 + windowAcc s d, 16 + windowAcc s a] s
      if (bandsOf s).any (rowBad s a) then raise 0x0E 2 0 s
      else
        let act := activeLanes s k tg.cols
        let rs := (bandsOf s).map (fun e =>
          List.zipWith (fun a (x : Option Lane) => if a then x else none) act
            (convertRow (fcsrCtl 0 s) st tg hi (laneRow s st.cols a e)))
        fpRetire (rs.foldl (fun fl l => l.foldl (fun fl x => fl ||| (x.map (·.2)).getD 0) fl) 0)
          (vecWrite tg d (rs.map (fun l => l.map (fun x => x.map (·.1))))) s) s

/-! ## Lane movement -/

/-- Lane `i` of a row. -/
def laneAt (l : List Lane) (i : Nat) : Lane := (l[i]?).getD (0, 0)

/-- `VBCL` (R207). -/
def execVbcl (fm : Form) (z : Bool) (k d a b : Nat) (s : State) : Out :=
  runRep fm (fm.len 18) (fun j _ s =>
    let gb := (rg s (fm.b j b)).toNat
    vec2 fm 18 z k d a anyTag [.g (fm.b j b)]
      (fun t _ r => let x := laneAt (r.headD []) (gb % t.cols); List.replicate t.cols x) j s) s

/-- `VPERM` (R207). -/
def execVperm (fm : Form) (z : Bool) (k d a b : Nat) (s : State) : Out :=
  runRep fm (fm.len 18) (fun j _ s =>
    let d := fm.d j d
    let a := fm.a j a
    let b := fm.b j b
    vecRun [d, a] [b] false (some d) anyTag [.m k] (fun t s =>
      vecEach t z (activeLanes s k t.cols) d [a, b]
        (fun r => ((r[1]?).getD []).map (fun y =>
          let x := laneAt (r.headD []) (y.1 % t.cols)
          (x.1, x.2 ||| y.2))) s) s) s

/-- `VROT` (R207). -/
def execVrot (fm : Form) (z : Bool) (k d a b : Nat) (s : State) : Out :=
  runRep fm (fm.len 18) (fun j _ s =>
    let gb := (rg s (fm.b j b)).toNat
    vec2 fm 18 z k d a anyTag [.g (fm.b j b)]
      (fun t _ r => (r.headD []).drop (gb % t.cols) ++ (r.headD []).take (gb % t.cols)) j s) s

/-- `VMOV` (R207). -/
def execVmov (fm : Form) (z : Bool) (k d a : Nat) (s : State) : Out :=
  runRep fm (fm.len 23) (fun j _ s => vec2 fm 23 z k d a anyTag [] (fun _ _ => lanes1 id) j s) s

/-! ## Reductions and scans -/

/-- One operation in the lane type (R208). DAZ has been applied to the sources already. -/
def comb (op : Rop) (t : Tag) (c : FpCtl) (x y : Nat) : FRes :=
  let c := { c with daz := false }
  match op with
  | .and => ⟨x &&& y, 0⟩
  | .or => ⟨x ||| y, 0⟩
  | .xor => ⟨x ^^^ y, 0⟩
  | .add =>
    match tagFmt t with
    | some f => f.addR c x y
    | none => ⟨wrap32 (sext x 32 + sext y 32), 0⟩
  | .min =>
    match tagFmt t with
    | some f => f.minmaxR c false x y
    | none => ⟨wrap32 (min (sext x 32) (sext y 32)), 0⟩
  | .max =>
    match tagFmt t with
    | some f => f.minmaxR c true x y
    | none => ⟨wrap32 (max (sext x 32) (sext y 32)), 0⟩

/-- Joins two sides of which either may be absent (R208). -/
def join (op : Rop) (t : Tag) (c : FpCtl) : Option Nat → Option Nat → Option Nat × Nat
  | some x, some y => let r := comb op t c x y; (some r.bits, r.flags)
  | some x, none => (some x, 0)
  | none, y => (y, 0)

/-- One level of a reduction. -/
def redLevel (op : Rop) (t : Tag) (c : FpCtl) : List (Option Nat) → List (Option Nat × Nat)
  | x :: y :: l => join op t c x y :: redLevel op t c l
  | _ => []

/-- Flags of a level. -/
def levelFlags (l : List (Option Nat × Nat)) : Nat := l.foldl (fun fl x => fl ||| x.2) 0

/-- A reduction of `levels` levels (R208). -/
def redTree (op : Rop) (t : Tag) (c : FpCtl) : Nat → List (Option Nat) → Nat → Option Nat × Nat
  | 0, l, fl => (l.headD none, fl)
  | n + 1, l, fl =>
    let r := redLevel op t c l
    redTree op t c n (r.map (·.1)) (fl ||| levelFlags r)

/-- A scan of `levels` levels, the first with distance `d` (R208). -/
def scanTree (op : Rop) (t : Tag) (c : FpCtl) : Nat → Nat → List (Option Nat) → Nat → List (Option Nat) × Nat
  | 0, _, l, fl => (l, fl)
  | n + 1, d, l, fl =>
    let r := List.zipWith (join op t c) (List.replicate d none ++ l) l
    scanTree op t c n (2 * d) (r.map (·.1)) (fl ||| levelFlags r)

/-- add, min and max on float lanes, for which DAZ, NV and the canonical NaN apply (R208). -/
def ropFloat (op : Rop) (t : Tag) : Option EFmt :=
  match op with
  | .add | .min | .max => tagFmt t
  | _ => none

/-- A source lane of a reduction: DAZ, and NV for a signalling NaN (R208). -/
def redSource (op : Rop) (t : Tag) (c : FpCtl) (x : Lane) : Lane :=
  match ropFloat op t with
  | none => x
  | some f => (f.dazBits c.daz x.1, x.2 ||| flagIf (f.source c x.1).signalling flagNV)

/-- A NaN result of a reduction is canonical (R208). -/
def redResult (op : Rop) (t : Tag) (x : Nat) : Nat :=
  match ropFloat op t with
  | none => x
  | some f => if f.isNan x then f.nanBits else x

/-- Identity of an operation (R208). -/
def ropIdent (op : Rop) (t : Tag) : Nat :=
  match op with
  | .add | .or | .xor => 0
  | .and => 2 ^ laneBits t - 1
  | .min =>
    match tagFmt t with
    | some f => (f.infinity false).bits
    | none => 2 ^ 31 - 1
  | .max =>
    match tagFmt t with
    | some f => (f.infinity true).bits
    | none => 2 ^ 31

/-- Source lanes of a reduction, those that are inactive absent. -/
def presentLanes (act : List Bool) (l : List Lane) : List (Option Nat) :=
  List.zipWith (fun a (x : Lane) => if a then some x.1 else none) act l

/-- The lanes `VRED` writes, with the flags on the first of them. -/
def redRow (op : Rop) (t : Tag) (c : FpCtl) (act : List Bool) (l : List Lane) : List Lane :=
  let l := l.map (redSource op t c)
  let (x, fl) := redTree op t c (Nat.log2 t.cols) (presentLanes act l) (laneFlags act l)
  List.replicate t.cols ((x.map (redResult op t)).getD (ropIdent op t), fl)

/-- The lanes `VSCAN` writes and its flags. -/
def scanRow (op : Rop) (t : Tag) (c : FpCtl) (z : Bool) (act : List Bool) (l : List Lane) :
    List (Option Nat) × Nat :=
  let l := l.map (redSource op t c)
  let (xs, fl) := scanTree op t c (Nat.log2 t.cols) 1 (presentLanes act l) (laneFlags act l)
  (List.zipWith (fun a (x : Option Nat) =>
    if a then x.map (redResult op t) else if z then some 0 else none) act xs, fl)

/-- `VRED` (R208). -/
def execVred (fm : Form) (op : Rop) (d a b : Nat) (s : State) : Out :=
  runRep fm (fm.len 19) (fun j _ s =>
    let d := fm.d j d
    let a := fm.a j a
    let k := fm.b j b
    vecRun [d, a] [] false (some d) anyTag [.m k] (fun t s =>
      vecEach t false (List.replicate t.cols true) d [a]
        (fun r => redRow op t (fcsrCtl 0 s) (activeLanes s k t.cols) (r.headD [])) s) s) s

/-- `VSCAN` (R208). -/
def execVscan (fm : Form) (z : Bool) (op : Rop) (d a b : Nat) (s : State) : Out :=
  runRep fm (fm.len 19) (fun j _ s =>
    let d := fm.d j d
    let a := fm.a j a
    let k := fm.b j b
    vecRun [d, a] [] false (some d) anyTag [.m k] (fun t s =>
      if (bandsOf s).any (rowBad s a) then raise 0x0E 2 0 s
      else
        let rs := (bandsOf s).map (fun e =>
          scanRow op t (fcsrCtl 0 s) z (activeLanes s k t.cols) (laneRow s t.cols a e))
        fpRetire (rs.foldl (fun fl r => fl ||| r.2) 0) (vecWrite t d (rs.map (·.1))) s) s) s

/-! ## Compare and masks -/

/-- Order of an I32 comparison (R209). -/
def vccInt (c : Vcc) (x y : Int) : Bool :=
  match c with
  | .eq => decide (x = y)
  | .ne => decide (x ≠ y)
  | .lt => decide (x < y)
  | .le => decide (x ≤ y)
  | .un => false

/-- The comparison of float lanes behind a condition; ne is the negation of eq (R209). -/
def fccOf : Vcc → Fcc
  | .eq => .eq
  | .ne => .eq
  | .lt => .lt
  | .le => .le
  | .un => .un

/-- The result of comparing two lanes, and the flags (R209). -/
def laneCmp (c : Vcc) (u : Bool) (t : Tag) (ctl : FpCtl) (x y : Lane) : Bool × Nat :=
  match tagFmt t with
  | some f =>
    let v := f.source ctl x.1
    let w := f.source ctl y.1
    (fcmpHolds (fccOf c) v w ^^ decide (c = .ne), fcmpFlags (fccOf c) v w ||| x.2 ||| y.2)
  | none =>
    (if u then vccInt c x.1 y.1 else vccInt c (sext x.1 32) (sext y.1 32), x.2 ||| y.2)

/-- Every other lane of a row. -/
def evens : List Lane → List Lane
  | x :: _ :: l => x :: evens l
  | l => l

/-- Lanes of a row that reach the mask (R209). -/
def cmpLanes (t : Tag) (odd : Bool) (l : List Lane) : List Lane :=
  if t.cols = 256 then evens (if odd then l.drop 1 else l) else l

/-- The number of a list of bits, lowest first. -/
def natOfBits : List Bool → Nat
  | [] => 0
  | b :: l => (if b then 1 else 0) + 2 * natOfBits l

/-- Conditions and variants that exist for a lane type (R209). -/
def cmpOk (u : Bool) (c : Vcc) (t : Tag) : Bool :=
  match t with
  | .i32 => decide (c ≠ .un)
  | .fp32 | .fp64 => !u
  | _ => true

/-- `VCMP` (R209). -/
def execVcmp (fm : Form) (u : Bool) (c : Vcc) (d a b : Nat) (s : State) : Out :=
  runRep fm (fm.len 20) (fun j _ s =>
    let a := fm.a j a
    let b := fm.b j b
    vecRun [a, b] [] false none (cmpOk u c) [] (fun t s =>
      if rowBad s a 0 || rowBad s b 0 then raise 0x0E 2 0 s
      else
        let r := List.zipWith (laneCmp c u t (fcsrCtl 0 s))
          (cmpLanes t u (laneRow s t.cols a 0)) (cmpLanes t u (laneRow s t.cols b 0))
        fpRetire (r.foldl (fun fl x => fl ||| x.2) 0)
          (fun s => wm s (fm.d j d) (BitVec.ofNat 128 (natOfBits (r.map (·.1))))) s) s) s

/-- `VMERGE` (R210). A chosen INT cell that saturates as it is read raises the NV of R198. DEDUCED (log 85). -/
def execVmerge (fm : Form) (inv : Bool) (k d a b : Nat) (s : State) : Out :=
  runRep fm (fm.len 20) (fun j _ s =>
    let d := fm.d j d
    let a := fm.a j a
    let b := fm.b j b
    vecRun [d, a, b] [] false (some d) anyTag [.m k] (fun t s =>
      vecEach t false (List.replicate t.cols true) d [a, b]
        (lanes3 (fun x y g => if g.1 = 1 then x else y) ∘ fun r =>
          r ++ [(activeLanes s k t.cols).map (fun g => (if g ^^ inv then 1 else 0, 0))]) s) s) s

/-- Result of `VMLOG` (R210). -/
def mlogV (op : Mop) (x y : BitVec 128) : BitVec 128 :=
  match op with
  | .and => x &&& y
  | .or => x ||| y
  | .xor => x ^^^ y
  | .andn => x &&& ~~~y

/-- `VMLOG` (R210). -/
def execVmlog (fm : Form) (op : Mop) (d a b : Nat) (s : State) : Out :=
  runOne (fm.len 20) (fun s => do
    let _ ← inService s
    let _ ← need s [.m a, .m b]
    .ok (wm s d (mlogV op (rm s a) (rm s b)))) s

/-- `VMPOPC` (R210). -/
def execVmpopc (fm : Form) (d a : Nat) (s : State) : Out :=
  runOne (fm.len 20) (fun s => do
    let _ ← inService s
    let _ ← need s [.m a]
    .ok (wg s d (BitVec.ofNat 64 (oneBits 128 (rm s a).toNat)))) s

/-! ## Approximations -/

/-- An approximation on a float lane (R211). -/
def laneApprox (t : Tag) (c : FpCtl) (ff : EFmt → FpCtl → Nat → FRes) (x : Lane) : Lane :=
  match tagFmt t with
  | some f => let r := ff f c x.1; (r.bits, r.flags ||| x.2)
  | none => x

/-- An approximation instruction. -/
def vecApprox (fm : Form) (z : Bool) (k d a : Nat) (ff : EFmt → FpCtl → Nat → FRes) (s : State) : Out :=
  runRep fm (fm.len 21) (fun j _ s =>
    vec2 fm 21 z k d a floatTag [] (fun t s => lanes1 (laneApprox t (fcsrCtl 0 s) ff)) j s) s

/-- `VRCPA` (R211). -/
def execVrcpa (fm : Form) (z : Bool) (k d a : Nat) (s : State) : Out := vecApprox fm z k d a EFmt.rcpR s

/-- `VRSQA` (R211). -/
def execVrsqa (fm : Form) (z : Bool) (k d a : Nat) (s : State) : Out := vecApprox fm z k d a EFmt.rsqR s

/-- `VEXP2A` (R211). -/
def execVexp2a (fm : Form) (z : Bool) (k d a : Nat) (s : State) : Out := vecApprox fm z k d a EFmt.exp2R s

/-- `VLOG2A` (R211). -/
def execVlog2a (fm : Form) (z : Bool) (k d a : Nat) (s : State) : Out := vecApprox fm z k d a EFmt.log2R s

/-! ## Moves to scalar registers -/

/-- The lane that `VMOVG` and `VMOVF` write, with its flags; nothing where the destination is unchanged (R212). -/
def movedLane (s : State) (t : Tag) (z : Bool) (k a b : Nat) : Option Lane :=
  let q := (rg s b).toNat % t.cols
  if ((activeLanes s k t.cols)[q]?).getD false then some (laneAt (laneRow s t.cols a 0) q)
  else if z then some (0, 0) else none

/-- Effect of a move of a lane to a scalar register. -/
def moveLane (z : Bool) (k a b : Nat) (write : Tag → Nat → State → State) (s : State) : Run :=
  vecRun [a] [] false none anyTag [.m k, .g b] (fun t s =>
    if rowBad s a 0 then raise 0x0E 2 0 s
    else
      match movedLane s t z k a b with
      | none => .ok s
      | some x => fpRetire x.2 (write t x.1) s) s

/-- `VMOVG` (R212). -/
def execVmovg (fm : Form) (z : Bool) (k d a b : Nat) (s : State) : Out :=
  runRep fm (fm.len 23) (fun j _ s =>
    moveLane z k (fm.a j a) (fm.b j b) (fun t v s =>
      wg s (fm.d j d) (if t = .i32 then ofInt (sext v 32) else BitVec.ofNat 64 v)) s) s

/-- `VMOVF` (R212). -/
def execVmovf (fm : Form) (z : Bool) (k d a b : Nat) (s : State) : Out :=
  runRep fm (fm.len 23) (fun j _ s =>
    moveLane z k (fm.a j a) (fm.b j b) (fun _ v s => wf s (fm.d j d) (BitVec.ofNat 64 v)) s) s

/-! ## Memory access -/

/-- Loads the lanes from `i` on; a lane that faults commits those before it (R214). -/
def loadLanes (addr : Nat → Word) (w : Nat) (z : Bool) (commit : List (Option Nat) → State → State) :
    List Bool → Nat → List (Option Nat) → State → Except Stop (State × List (Option Nat))
  | [], _, out, s => .ok (s, out)
  | true :: act, i, out, s =>
    match loadScalar false .row (addr i) w s with
    | .ok (s1, v) => loadLanes addr w z commit act (i + 1) (out ++ [some (natOfBytes v)]) s1
    | .error (.trap t s1) => .error (.trap { t with unit := i } (commit out s1))
    | .error (.wait s1) => .error (.wait s1)
  | false :: act, i, out, s =>
    loadLanes addr w z commit act (i + 1) (out ++ [if z then some 0 else none]) s

/-- Flags that reading the index lanes of the active lanes raises (R198). -/
def indexFlags (act : List Bool) (ofs : Option (List Lane)) : Nat := laneFlags act (ofs.getD [])

/-- What a load that faults leaves of a row: the lanes before the fault, where any of them was written (R198, R214).
DEDUCED, log 79. -/
def commitLanes (t : Tag) (d : Nat) (outs : List (List (Option Nat))) (s : State) : State :=
  if outs.any (fun l => l.any Option.isSome) then vecWrite t d outs s else s

/-- A vector load of band 0 from lane `k0` on (R199, R213, R214): `addr` gives a lane's address from the offset
lanes, where there are any. -/
def vecLoad (z : Bool) (k d k0 : Nat) (ofs : Option Nat) (src : List Src) (addr : Tag → List Lane → State → Nat → Word)
    (s : State) : Run :=
  vecRun [d] ofs.toList false (some d) (fun t => decide (k0 < t.cols)) (.m k :: src) (fun t s =>
    if (ofs.map (fun b => rowBad s b 0)).getD false then raise 0x0E 2 0 s
    else do
      let act := activeLanes s k t.cols
      let o := ofs.map (fun b => laneRow s t.cols b 0)
      let (s1, out) ← loadLanes (addr t (o.getD []) s) (laneBits t / 8) z
        (fun out s => commitLanes t d [out] s) (act.drop k0) k0 (List.replicate k0 none) s
      fpRetire (indexFlags act o) (vecWrite t d [out]) s1) s

/-- The checks of the lanes of a vector store, in lane order (R215). -/
def checkLanes (addr : Nat → Word) (w : Nat) : List (Bool × Lane) → Nat → State →
    Except Stop (State × List (Nat × List Byte))
  | [], _, s => .ok (s, [])
  | (false, _) :: l, i, s => checkLanes addr w l (i + 1) s
  | (true, x) :: l, i, s => do
    let (s, ph) ← checkScalar .store .row (addr i) w s
    let (s, r) ← checkLanes addr w l (i + 1) s
    .ok (s, (ph.pa, bytesOfNat w x.1) :: r)

/-- A vector store of band 0 (R199, R213, R215). -/
def vecStore (k d : Nat) (ofs : Option Nat) (src : List Src) (addr : Tag → List Lane → State → Nat → Word)
    (s : State) : Run :=
  vecRun [d] ofs.toList false none anyTag (.m k :: src) (fun t s =>
    if (ofs.map (fun b => rowBad s b 0)).getD false then raise 0x0E 2 0 s
    else do
      let act := activeLanes s k t.cols
      let o := ofs.map (fun b => laneRow s t.cols b 0)
      let row := laneRow s t.cols d 0
      let (s1, ps) ← checkLanes (addr t (o.getD []) s) (laneBits t / 8) (List.zip act row) 0 s
      if rowBad s d 0 then raisePoison s1
      else
        let fl := laneFlags act row ||| indexFlags act o
        let _ ← fpRetire fl id s1
        let s2 ← storePieces ps s1
        .ok (orFlags fl s2)) s

/-- Lane address of `VLD` and `VST` (R213). -/
def vldAddr (a : Nat) (imm : Int) (t : Tag) (_ : List Lane) (s : State) (i : Nat) : Word :=
  rg s a + ofInt (imm * 512) + BitVec.ofNat 64 (i * (laneBits t / 8))

/-- Lane address of `VLDS` and `VSTS` (R213). -/
def vldsAddr (a b : Nat) (_ : Tag) (_ : List Lane) (s : State) (i : Nat) : Word :=
  rg s a + BitVec.ofNat 64 i * rg s b

/-- Lane address of `VGATH` and `VSCAT` (R213). -/
def vgathAddr (a : Nat) (t : Tag) (o : List Lane) (s : State) (i : Nat) : Word :=
  rg s a + ofInt (sext (laneAt o i).1 (laneBits t))

/-- `VLD` (R213, R214). -/
def execVld (fm : Form) (z : Bool) (k d a : Nat) (imm : Int) (s : State) : Out :=
  runRep fm (fm.len 22) (fun j k0 s =>
    fromUnit k0 <| vecLoad z k (fm.d j d) k0 none [.g (fm.a j a)] (vldAddr (fm.a j a) (fm.i j imm)) s) s

/-- `VLDS` (R213, R214). -/
def execVlds (fm : Form) (z : Bool) (k d a b : Nat) (s : State) : Out :=
  runRep fm (fm.len 22) (fun j k0 s =>
    fromUnit k0 <| vecLoad z k (fm.d j d) k0 none [.g (fm.a j a), .g (fm.b j b)] (vldsAddr (fm.a j a) (fm.b j b)) s) s

/-- `VGATH` (R213, R214). -/
def execVgath (fm : Form) (z : Bool) (k d a b : Nat) (s : State) : Out :=
  runRep fm (fm.len 22) (fun j k0 s =>
    fromUnit k0 <| vecLoad z k (fm.d j d) k0 (some (fm.b j b)) [.g (fm.a j a)] (vgathAddr (fm.a j a)) s) s

/-- `VST` (R213, R215). A store leaves no lane unwritten for the zeroing bit to act on. -/
def execVst (fm : Form) (_z : Bool) (k d a : Nat) (imm : Int) (s : State) : Out :=
  runRep fm (fm.len 22) (fun j _ s =>
    vecStore k (fm.d j d) none [.g (fm.a j a)] (vldAddr (fm.a j a) (fm.i j imm)) s) s

/-- `VSTS` (R213, R215). -/
def execVsts (fm : Form) (_z : Bool) (k d a b : Nat) (s : State) : Out :=
  runRep fm (fm.len 22) (fun j _ s =>
    vecStore k (fm.d j d) none [.g (fm.a j a), .g (fm.b j b)] (vldsAddr (fm.a j a) (fm.b j b)) s) s

/-- `VSCAT` (R213, R215). -/
def execVscat (fm : Form) (_z : Bool) (k d a b : Nat) (s : State) : Out :=
  runRep fm (fm.len 22) (fun j _ s =>
    vecStore k (fm.d j d) (some (fm.b j b)) [.g (fm.a j a)] (vgathAddr (fm.a j a)) s) s

/-- `VBCAST`: one access for every active lane of every band (R199, R213, R214). -/
def execVbcast (fm : Form) (z : Bool) (k d a b : Nat) (s : State) : Out :=
  runRep fm (fm.len 18) (fun j k0 s =>
    let d := fm.d j d
    let a := fm.a j a
    let b := fm.b j b
    fromUnit k0 <| vecRun [d] [] false (some d) (fun t => decide (k0 < t.cols)) [.m k, .g a, .g b] (fun t s => do
      let n := t.cols
      let w := laneBits t / 8
      let act := activeLanes s k n
      let out (v : Nat) (m : Nat) : List (List (Option Nat)) :=
        (bandsOf s).map (fun _ => List.replicate k0 none ++ (chosen z act (List.replicate m (v, 0))).drop k0)
      match (List.range n).find? (fun i => decide (k0 ≤ i) && (act[i]?).getD false) with
      | none => .ok (vecWrite t d (out 0 n) s)
      | some i =>
        match loadScalar false .row (rg s a + rg s b * BitVec.ofNat 64 w) w s with
        | .ok (s1, v) => .ok (vecWrite t d (out (natOfBytes v) n) s1)
        | .error (.trap x s1) => .error (.trap { x with unit := i } (commitLanes t d (out 0 i) s1))
        | .error (.wait s1) => .error (.wait s1)) s) s

end Sys2Proof.Machine
end

