-- ==== Sys2Proof/Machine/System.lean ====
section
/-! DEFINITION. Calls, return, and the system registers: reading and writing each of them (R68 to R72, R286 to
R296, R425, R431 to R434). -/

namespace Sys2Proof.Machine

/-! ## Calls and return -/

/-- `SVC` (R294). -/
def execSvc (fm : Form) (imm : Nat) (s : State) : Out :=
  runOne (fm.len 48) (fun s => raise 0x0B imm 0 s) s

/-- `HVC` (R293, R294). -/
def execHvc (fm : Form) (imm : Nat) (s : State) : Out :=
  runOne (fm.len 48) (fun s => do
    let _ ← atLeast s 1
    raise 0x11 imm 0 s) s

/-- Notes the length of a thread's `mvc`, for the firmware that returns past it (R451). -/
def noteCall (len : Nat) (s : State) : State :=
  { s with boot.calls := (s.ctx.prv.gtid, len) :: s.boot.calls.filter (fun x => decide (x.1 ≠ s.ctx.prv.gtid)) }

/-- `MVC` (R293, R294). -/
def execMvc (fm : Form) (imm : Nat) (s : State) : Out :=
  runOne (fm.len 48) (fun s => do
    let _ ← atLeast s 1
    raise 0x12 imm 0 (noteCall (fm.len 48) s)) s

/-- `BKPT` (R294). -/
def execBkpt (fm : Form) (imm : Nat) (s : State) : Out :=
  runOne (fm.len 50) (fun s => raise 0x09 imm 0 s) s

/-- A return retires and takes effect in one step; a STEP trap follows one that retired at user level (R285). -/
def tretTo (s : State) : State :=
  let stepped := s.ctx.prv.status.getLsbD 7 && decide (s.pl = 0)
  let t := if s.pl = 0 then returnFromUser s else returnFrom s.pl s
  let t := { t with ctx.aux.sent := .nothing, ctx.aux.repLeft := 0, core.retired := some s.cyc }
  if stepped then deliver 0x0A 0 0 t.pc t else t

/-- `TRET` (R75, R295). `XSTATE` stays as it stands; a pinned mapping of the monitor ends (R431, R439). -/
def execTret (_fm : Form) (s : State) : Out :=
  if s.pl = 0 then
    if !s.ctx.ubusy then .next (takeTrap none (privTrap 0 s) s)
    else
      match need s [.ctl 0x005, .ctl 0x006] with
      | .error (.trap t s1) => .next (takeTrap none t s1)
      | _ => .next (tretTo s)
  else
    match need s [.ctl 0x100, .ctl (256 * s.pl + 3), .ctl (256 * s.pl + 4)] with
    | .error (.trap t s1) => .next (takeTrap none t s1)
    | _ => .next (tretTo (endOverlap s))

/-! ## Numbers and access -/

/-- User registers (R68). -/
def userRegs : List Nat := [0x001, 0x002, 0x003, 0x004, 0x005, 0x006, 0x007, 0x010, 0x011, 0x012]

/-- Registers a user `SWR` may not write (R68). -/
def userReadOnly : List Nat := [0x003, 0x010, 0x011, 0x012]

/-- Registers above user level (R287, R430, R431, R433, R434). -/
def highRegs : List Nat :=
  [0x100, 0x101, 0x102, 0x103, 0x104, 0x105, 0x106, 0x108, 0x109, 0x10A, 0x10B, 0x10C, 0x10D, 0x10E, 0x10F] ++
  [0x201, 0x202, 0x203, 0x204, 0x205, 0x206, 0x208, 0x209, 0x20A] ++
  (List.range 16).map (· + 0x210) ++ [0x220, 0x221, 0x222, 0x223, 0x228, 0x229] ++
  [0x301, 0x302, 0x303, 0x304, 0x305, 0x306, 0x308, 0x310, 0x311, 0x312, 0x313, 0x314]

/-- Who may access a register (R68, R286). DEDUCED, log 57. -/
def gate (n : Nat) (write : Bool) (s : State) : Except Stop Unit :=
  if n < 0x100 then
    if !userRegs.contains n then raiseIll s
    else if s.pl = 0 && write && userReadOnly.contains n then .error (.trap (privTrap n s) s)
    else .ok ()
  else if s.pl = 0 then .error (.trap (privTrap n s) s)
  else if !highRegs.contains n then raiseIll s
  else if s.pl < n / 256 then .error (.trap (privTrap n s) s)
  else .ok ()

/-! ## Engines and records that selectors name -/

/-- The engine of this cluster that `ENGSEL` names (R288). -/
def selEngine (s : State) : Nat := s.cluster * 4 + bits s.core.engsel 8 2

/-- The entry `ENGSEL` names. -/
def selEntry (s : State) : Nat := bits s.core.engsel 0 5

/-- The engine of this cluster that `RPRSEL` names (R431). -/
def repairEngine (s : State) : Nat := s.cluster * 4 + bits s.core.rprsel 6 2

/-- `RPRDAT` of a repair entry (R431). -/
def repairWord (e : RepairEntry) : Word :=
  BitVec.ofNat 64 (2 ^ 63 + (if e.acc then 2 ^ 14 else 0) + e.slot % 64 * 256 + e.row % 64)

/-- Monitors of a kind on a die (R434). -/
def monitorCount : Nat → Nat
  | 0 => 32
  | 1 => 16
  | _ => 8

/-- `HMDAT`: the reading `HMSEL` selects; invalid beyond the kind's count, before a first refresh and for a die
that is not live (R434). -/
def readMonitor (s : State) : Word :=
  let d := bits s.core.hmsel 14 2
  let k := bits s.core.hmsel 12 2
  let i := bits s.core.hmsel 0 6
  if i ≥ monitorCount k || !dieLive s d then 0
  else ((s.boot.health.find? (fun h => h.1 = d ∧ h.2.1 = k ∧ h.2.2.1 = i)).map (·.2.2.2)).getD 0

/-! ## Reading -/

/-- A register of a trap set by its place in the set (R287). -/
def trapReg (x : TrapSet) : Nat → Word
  | 1 => x.deleg
  | 2 => x.tvec
  | 3 => x.cause
  | 4 => x.epc
  | 5 => x.tval
  | _ => x.scr

/-- Reads a system register (R296). -/
def readSys (n : Nat) (s : State) : Word :=
  match n with
  | 0x001 => s.ctx.ctl.fcsr
  | 0x002 => s.ctx.ctl.tctl
  | 0x003 => s.ctx.ctl.xstate
  | 0x004 => s.ctx.ctl.utvec
  | 0x005 => s.ctx.ctl.ucause
  | 0x006 => s.ctx.ctl.uepc
  | 0x007 => s.ctx.ctl.utval
  | 0x010 => s.ctx.ctl.hbase
  | 0x011 => s.ctx.ctl.hlimit
  | 0x012 => s.ctx.ctl.hoffs
  | 0x100 => s.ctx.prv.status
  | 0x108 => s.ctx.prv.ptbase
  | 0x109 => s.ctx.prv.teamlim
  | 0x10A => s.ctx.prv.watchf
  | 0x10B => BitVec.ofNat 64 (bits s.ctx.prv.gtid 0 48)
  | 0x10C => BitVec.ofNat 64 ((s.coh.gencur[s.die]?).getD 0 % 2 ^ 32)
  | 0x10D => BitVec.ofNat 64 (s.pkg % 256 * 256 + s.cur % 256)
  | 0x208 => s.ctx.prv.partid
  | 0x209 => s.ctx.prv.pwbase
  | 0x20A => s.ctx.prv.pwlimit
  | 0x220 => s.core.engsel
  | 0x221 => engineSlot s (selEngine s) (selEntry s)
  | 0x222 => if selEntry s ≥ 8 then 0 else ((engineAt s (selEngine s)).celshr[selEntry s]?).getD 0
  | 0x223 => if selEntry s ≥ 8 then 0
    else (((s.copy.lockshr[s.cluster]?).getD (Vector.replicate 8 0))[selEntry s]?).getD 0
  | 0x228 => s.core.hmsel
  | 0x229 => readMonitor s
  | 0x308 => s.modes
  | 0x310 => s.boot.bootst
  | 0x311 => s.core.rprsel
  | 0x312 => (((engineAt s (repairEngine s)).repair[bits s.core.rprsel 0 5]?).map repairWord).getD 0
  | 0x314 => s.core.bistsum
  | n =>
    if 0x101 ≤ n ∧ n ≤ 0x106 then trapReg s.ctx.prv.sup (n - 0x100)
    else if 0x201 ≤ n ∧ n ≤ 0x206 then trapReg s.ctx.prv.hyp (n - 0x200)
    else if 0x301 ≤ n ∧ n ≤ 0x306 then trapReg s.ctx.prv.mon (n - 0x300)
    else if 0x210 ≤ n ∧ n ≤ 0x21F then (s.core.slottab[n - 0x210]?).getD 0
    else 0

/-! ## Writing -/

/-- A trap set with one register written under its layout (R288). -/
def setTrapReg (lvl : Nat) (i : Nat) (v : Word) (x : TrapSet) : TrapSet :=
  match i with
  | 1 => { x with deleg := storeDeleg lvl v }
  | 2 => { x with tvec := storeVec v }
  | 3 => { x with cause := storeCause lvl v }
  | 4 => { x with epc := storeVec v }
  | 5 => { x with tval := v }
  | _ => { x with scr := v }

/-- A write of `XSTATE` and of its owner: the state that `TRET` at this level returns to (R335). -/
def writeXstate (v : Word) (s : State) : State :=
  let ppl := bits (s.trapSet s.pl).cause 62 2
  { s with
    ctx.ctl.xstate := storeXstate v
    ctx.aux.resumeAt := vecAddr (s.trapSet s.pl).epc
    ctx.ctl.owner := if ppl = 0 then (if s.ctx.ubusy then 1 else 0) else ppl + 1 }

/-- Sum of the valid shares of an engine, but for one record (R291). -/
def otherShares (e : Engine) (i : Nat) : Nat :=
  (List.range 8).foldl (fun n k =>
    let w := (e.celshr[k]?).getD 0
    if k = i || !w.getLsbD 63 then n else n + bits w 0 9) 0

/-- A write of `CELSHR` (R288, R291). -/
def writeCelshr (v : Word) (s : State) : State :=
  if selEntry s ≥ 8 then s
  else
    let e := engineAt s (selEngine s)
    let w := fields [(63, 1), (32, 12), (0, 9)] v
    let room := 256 - otherShares e (selEntry s)
    let w := if w.getLsbD 63 && decide (bits w 0 9 > room) then putBits w 0 9 room else w
    setEngine (selEngine s) { e with celshr := e.celshr.setIfInBounds (selEntry s) w } s

/-- A write of `LOCKSHR`: at most 64 (R288, R291). DEDUCED, log 21. -/
def writeLockshr (v : Word) (s : State) : State :=
  if selEntry s ≥ 8 then s
  else
    let w := fields [(63, 1), (32, 12), (0, 9)] v
    let w := if bits w 0 9 > 64 then putBits w 0 9 64 else w
    let l := (s.copy.lockshr[s.cluster]?).getD (Vector.replicate 8 0)
    { s with copy.lockshr := s.copy.lockshr.setIfInBounds s.cluster (l.setIfInBounds (selEntry s) w) }

/-- A write of `ENGSLOT`; a quarantined engine ignores it (R288, R384). -/
def writeEngslot (v : Word) (s : State) : State :=
  let e := engineAt s (selEngine s)
  if e.quarantined then s
  else setEngine (selEngine s) { e with slots := e.slots.setIfInBounds (selEntry s) (storeEngslot v) } s

/-- A write of `RPRSEL`: it first frees every name of the context (R431). Slots that another core's pinned range overlaps
before or after it are undefined (R439). -/
def writeRprsel (v : Word) (s : State) : State :=
  let w := fields [(15, 1), (12, 2), (6, 4), (0, 5)] v
  let s := undefRivals s
  undefRivals { s with
    ctx := freeNames s.ctx.aux.gang s.ctx
    core.rprsel := if bits w 8 2 = 3 then putBits w 8 2 0 else w }

/-- The row of a tile band that a repair redirected: undefined until it is written (R432). -/
def scrambleTile (s : State) (row : Nat) (t : Tile) : Tile := { t with rows := t.rows.set row (undefRow s 4096 row) }

/-- The row of an accumulator band that a repair redirected (R432); the cellar counts stay. -/
def scrambleAcc (s : State) (row e : Nat) (a : Acc) : Acc :=
  if row ≥ a.rext then a
  else { a with bands := setPad [] e (setPad [] row (undefCells s 4096 row e a) (a.band e)) a.bands }

/-- Where live state lies in an engine: core, whether lodged, name and band. -/
structure Holder where
  core : Nat
  lodged : Bool
  name : Nat
  band : Nat
deriving DecidableEq, Repr

/-- The context a holder means. -/
def holderCtx (s : State) (h : Holder) : Option Ctx :=
  if h.lodged then (getCore s h.core).lodge else activeOf s h.core

/-- Replaces the context a holder means. -/
def setHolderCtx (h : Holder) (c : Ctx) (s : State) : State :=
  if h.lodged then setCore s h.core { getCore s h.core with lodge := some c } else setActive s h.core c

/-- Live names of a kind that resident contexts hold in an engine (R343). -/
def holders (s : State) (n : Nat) (acc : Bool) : List Holder :=
  (List.range 8).flatMap (fun k =>
    let core := n / 4 * 8 + k
    [false, true].flatMap (fun lodged =>
      match holderCtx s ⟨core, lodged, 0, 0⟩ with
      | none => []
      | some c =>
        let es := (bandEngines s core c.aux.gang).getD []
        (List.range es.length).flatMap (fun e =>
          if es[e]? ≠ some n then []
          else (List.range (if acc then 8 else 16)).filterMap (fun m =>
            if acc then (if (c.acc m).tag = .empty then none else some ⟨core, lodged, m, e⟩)
            else if tileLive (tileBand (c.tile m) e) then some ⟨core, lodged, m, e⟩ else none))))

/-- A holder of a pinned context, and the slot its name has (R431). -/
def pinnedSlot (s : State) (acc : Bool) (h : Holder) : Option Nat :=
  let c := getCore s h.core
  match holderCtx s h with
  | none => none
  | some x =>
    if !h.lodged && c.rprsel.getLsbD 15 && decide (bits x.prv.status 0 2 = 3 ∧ x.aux.gang = 1)
    then some (if acc then 8 * bits c.rprsel 12 2 + h.name else 16 * bits c.rprsel 8 2 + h.name) else none

/-- The redirected row of a holder's name takes an undefined value. -/
def scramble (acc : Bool) (row : Nat) (h : Holder) (s : State) : State :=
  match holderCtx s h with
  | none => s
  | some c =>
    if acc then setHolderCtx h { c with c := c.c.setIfInBounds h.name (scrambleAcc s row h.band (c.acc h.name)) } s
    else setHolderCtx h
      (setTileBand h.name h.band (scrambleTile s row (tileBand (c.tile h.name) h.band)) c) s

/-- A redirection reaches the name whose slot it is: a pinned name by its slot; for names whose slot the core has
chosen, a free value says which of them, if any (R343, R432). -/
def redirectRow (n : Nat) (e : RepairEntry) (s : State) : State :=
  let hs := holders s n e.acc
  let pins := hs.filter (fun h => pinnedSlot s e.acc h = some e.slot)
  let loose := hs.filter (fun h => pinnedSlot s e.acc h = none)
  let s1 := pins.foldl (fun s h => scramble e.acc e.row h s) s
  match loose[Config.freeNat (draw s 2) % (loose.length + 1)]? with
  | some h => scramble e.acc e.row h s1
  | none => s1

/-- A write of `RPRADD` (R432). -/
def writeRpradd (v : Word) (s : State) : State :=
  let n := repairEngine s
  let eng := engineAt s n
  let e : RepairEntry := ⟨v.getLsbD 14, bits v 8 6, bits v 0 6⟩
  if eng.repair.contains e then s
  else if e.slot ≥ (if e.acc then 32 else 48) ∨ (eng.repair.filter (fun x => x.acc = e.acc)).length ≥ 16 then
    { s with core.bistsum := s.core.bistsum ||| 4 }
  else redirectRow n e (setEngine n { eng with repair := eng.repair ++ [e] } s)

/-- A write of `BOOTST`: 6 at stage 5, once every core of a live die is done; roll calls begin at the cycle (R426, R430),
with the k that a multiple of 2^24 passed by then has given (R403). -/
def writeBootst (v : Word) (s : State) : State :=
  if bits v 0 4 = 6 ∧ bits s.boot.bootst 0 4 = 5 ∧ (List.range 4).all (fun d => !dieLive s d || bistDone s d)
  then
    let d := if s.dbg.rollAt / 2 ^ 24 < s.cyc / 2 ^ 24
      then { s.dbg with rollK := s.dbg.rollNext.getD s.dbg.rollK, rollNext := none } else s.dbg
    { s with boot.bootst := putBits s.boot.bootst 0 4 6, dbg := { d with rollAt := s.cyc } }
  else s

/-- A write of `MTVEC` before stage 6 says where the firmware's handler lies (R451). DESIGN CHOICE, log 50. -/
def noteHandler (v : Word) (s : State) : State :=
  if bits s.boot.bootst 0 4 < 6 then { s with boot.fwHandler := some (vecAddr v) } else s

/-- Waits until every earlier store is performed at sys scope; an interrupt waits for the message (R292, R334). -/
def beforeMessage (s : State) : Run :=
  if storesPerformed 4 s then .ok s else waitIn { progress s with ctx.aux.sent := .working }

/-- A write of `IPI` (R292): the message is on its way. DEDUCED, log 67. -/
def writeIpi (v : Word) (s : State) : Run := do
  let s ← beforeMessage s
  .ok { s with sched.ipis := s.sched.ipis ++ [(bits v 0 8, if s.pl ≥ 2 then bits v 16 12 else s.pid)] }

/-- A write of `HOSTIRQ` (R292). -/
def writeHostirq (v : Word) (s : State) : Run := do
  let s ← beforeMessage s
  if v.getLsbD 15 && decide (s.pl ≥ 2) then .ok (sendMsix 0 (bits v 0 11) s)
  else
    match s.host.vfs.find? (fun x => x.pid = s.pid) with
    | none => .ok s
    | some x => .ok (sendMsix x.num (bits v 0 11) s)

/-- Writes a system register that has no behaviour of its own (R288, R296). -/
def writePlain (n : Nat) (v : Word) (s : State) : State :=
  match n with
  | 0x001 => { s with ctx.ctl.fcsr := storeFcsr v }
  | 0x002 => { s with ctx.ctl.tctl := storeTctl (decide (s.pl ≥ 1)) s.ctx.ctl.tctl v }
  | 0x004 => { s with ctx.ctl.utvec := storeVec v }
  | 0x005 => { s with ctx.ctl.ucause := storeUcause v }
  | 0x006 => { s with ctx.ctl.uepc := storeVec v }
  | 0x007 => { s with ctx.ctl.utval := v }
  | 0x010 => { s with ctx.ctl.hbase := storeHeap v }
  | 0x011 => { s with ctx.ctl.hlimit := storeHeap v }
  | 0x012 => { s with ctx.ctl.hoffs := storeHoffs v }
  | 0x100 => { s with ctx.prv.status := storeStatus s.pl s.ctx.prv.status v }
  | 0x108 => { s with ctx.prv.ptbase := storePtbase v }
  | 0x109 => { s with ctx.prv.teamlim := storeTeamlim v }
  | 0x10A => { s with ctx.prv.watchf := storeWatchf v }
  | 0x208 => { s with ctx.prv.partid := storePartid v }
  | 0x209 => { s with ctx.prv.pwbase := storeWindow v }
  | 0x20A => { s with ctx.prv.pwlimit := storeWindow v }
  | 0x220 => { s with core.engsel := storeEngsel v }
  | 0x221 => writeEngslot v s
  | 0x223 => writeLockshr v s
  | 0x228 =>
    let w := fields [(12, 4), (0, 6)] v
    { s with core.hmsel := if bits w 12 2 = 3 then putBits w 12 2 0 else w }
  | 0x302 => noteHandler v { s with ctx.prv.mon := setTrapReg 3 2 v s.ctx.prv.mon }
  | 0x308 => { s with modes := storeModes v }
  | 0x314 => { s with core.bistsum := fields [(16, 16), (0, 3)] v }
  | n =>
    if 0x101 ≤ n ∧ n ≤ 0x106 then { s with ctx.prv.sup := setTrapReg 1 (n - 0x100) v s.ctx.prv.sup }
    else if 0x201 ≤ n ∧ n ≤ 0x206 then { s with ctx.prv.hyp := setTrapReg 2 (n - 0x200) v s.ctx.prv.hyp }
    else if 0x301 ≤ n ∧ n ≤ 0x306 then { s with ctx.prv.mon := setTrapReg 3 (n - 0x300) v s.ctx.prv.mon }
    else if 0x210 ≤ n ∧ n ≤ 0x21F then { s with core.slottab := s.core.slottab.setIfInBounds (n - 0x210) (storeSlottab v) }
    else s

/-- Writes a system register under its access codes (R4, R5, R296). -/
def writeSys (n : Nat) (v : Word) (s : State) : Run :=
  match n with
  | 0x003 => .ok (writeXstate v s)
  | 0x10E => writeIpi v s
  | 0x10F => writeHostirq v s
  | 0x222 => .ok (writeCelshr v s)
  | 0x310 => .ok (writeBootst v s)
  | 0x311 => .ok (writeRprsel v s)
  | 0x313 => .ok (writeRpradd v s)
  | n => .ok (writePlain n v s)

/-- A write makes a poisoned control register good again (R370). -/
def healCtl (n : Nat) (s : State) : State :=
  { s with ctx.aux.poison.ctl := s.ctx.aux.poison.ctl.filter (· ≠ n) }

/-! ## The instructions -/

/-- `SRD` (R296). -/
def execSrd (fm : Form) (d imm : Nat) (s : State) : Out :=
  runOne (fm.len 48) (fun s => do
    let _ ← gate imm false s
    let _ ← need s [.ctl imm]
    .ok (wg s d (readSys imm s))) s

/-- `SWR` (R296). -/
def execSwr (fm : Form) (a imm : Nat) (s : State) : Out :=
  runOne (fm.len 48) (fun s => do
    let _ ← gate imm true s
    let _ ← need s [.g a]
    writeSys imm (rg s a) (healCtl imm s)) s

/-- Who may use `SSET` and `SCLR` on a register (R286, R293). -/
def gateSet (n : Nat) (s : State) : Except Stop Unit := do
  let _ ← gate n true s
  if s.pl = 0 then .error (.trap (privTrap n s) s) else .ok ()

/-- `SSET` (R296). -/
def execSset (fm : Form) (d a imm : Nat) (s : State) : Out :=
  runOne (fm.len 48) (fun s => do
    let _ ← gateSet imm s
    let _ ← need s [.g a, .ctl imm]
    let old := readSys imm s
    let s ← writeSys imm (old ||| rg s a) s
    .ok (wg s d old)) s

/-- `SCLR` (R296). -/
def execSclr (fm : Form) (d a imm : Nat) (s : State) : Out :=
  runOne (fm.len 48) (fun s => do
    let _ ← gateSet imm s
    let _ ← need s [.g a, .ctl imm]
    let old := readSys imm s
    let s ← writeSys imm (old &&& ~~~(rg s a)) s
    .ok (wg s d old)) s

/-! ## Writes as machine steps -/

/-- A write of a register by the active context, where its level permits it. A halted core writes nothing (R302). -/
def writeEvent (n : Nat) (v : Word) (s : State) : Out :=
  if s.core.halted then .next s
  else
    match gate n true s with
    | .error _ => .next s
    | .ok _ => runEvent s (writeSys n v s)

/-- `IPI_WRITE` (R292). -/
def execIpiWrite (v : Word) (s : State) : Out := writeEvent 0x10E v s

/-- `HOSTIRQ_WRITE` (R292). -/
def execHostirqWrite (v : Word) (s : State) : Out := writeEvent 0x10F v s

/-- `XSTATE_WRITE` (R335). -/
def execXstateWrite (v : Word) (s : State) : Out := writeEvent 0x003 v s

/-- `CELSHR_WRITE` (R291). -/
def execCelshrWrite (v : Word) (s : State) : Out := writeEvent 0x222 v s

/-- `RPRSEL_WRITE` (R431). -/
def execRprselWrite (v : Word) (s : State) : Out := writeEvent 0x311 v s

/-- `RPRADD_WRITE` (R432). -/
def execRpraddWrite (v : Word) (s : State) : Out := writeEvent 0x313 v s

/-- `SYSTEM_REGISTER_WRITE` (R296). -/
def execSystemRegisterWrite (n : Nat) (v : Word) (s : State) : Out :=
  if s.core.halted then .next s
  else
    match gate n true s with
    | .error _ => .next s
    | .ok _ => .next (writePlain n v s)

/-! ## Messages -/

/-- A core counts messages for PID 0 and for each PID its slot table names, by KIND 2 or by a KIND 1 context of
that partition (R425). -/
def countsPid (s : State) (core pid : Nat) : Bool :=
  decide (pid = 0) || (getCore s core).slottab.toList.any (fun w =>
    match bits w 62 2 with
    | 2 => decide (bits w 0 12 = pid)
    | 1 => decide (pidOf s (BitVec.ofNat 64 (bits w 0 48)) = some pid)
    | _ => false)

/-- Counts a message at a core, up to 65,535 (R425). -/
def countMessage (core pid : Nat) (s : State) : State :=
  if !countsPid s core pid then s
  else
    let c := getCore s core
    let l := if c.messages.any (fun m => m.1 = pid) then
        c.messages.map (fun m => if m.1 = pid then (m.1, min (m.2 + 1) 65535) else m)
      else c.messages ++ [(pid, 1)]
    setCore s core { c with messages := l }

/-- `IPI_MESSAGE`: a message on its way arrives (R292, R425). -/
def execIpiMessage (core pid : Nat) (s : State) : Out :=
  if s.sched.ipis.contains (core, pid) then
    .next (countMessage core pid { s with sched.ipis := s.sched.ipis.erase (core, pid) })
  else .next s

end Sys2Proof.Machine
end

