-- ==== Sys2Proof/Machine/Copy.lean ====
section
/-! DEFINITION. Copy-engine commands, range locks, completion words and collectives (R217 to R235, R291, R393,
R452). -/

namespace Sys2Proof.Machine

/-! ## The engine's accesses -/

/-- How work of the engine fails: the code, the address and the state it ends with (R230). -/
abbrev EngStop := Nat × Nat × State

/-- Completion code of a translation that failed (R222, R230). -/
def codeOfTrap (t : Trap) : Nat := if t.code = 0x0E then 3 else 2

/-- Translates for the engine: a walk of the tables as they stand (R222). No page is past 2^64 (R452), and the engine
reaches no device memory (R315, R412). -/
def engTranslate (sp : Space) (k : AccKind) (va n : Nat) (s : State) : Except EngStop (State × Nat) :=
  let keep (x : State) : State := { x with core.tlb := s.core.tlb, core.notPresent := s.core.notPresent }
  if va ≥ 2 ^ 64 then .error (2, va, s)
  else match translateIn sp k (BitVec.ofNat 64 va) n { s with core.tlb := [], core.notPresent := [] } with
  | .ok (s1, ph) => if devRefuses s .row ph n then .error (2, va, s) else .ok (keep s1, ph.pa)
  | .error (.trap t s1) => .error (codeOfTrap t, va, keep s1)
  | .error (.wait s1) => .error (2, va, keep s1)

/-- The code of an address whose package or link cannot be reached: LINK or CONTAINED (R230, R413). -/
def deliverCode (pa : Nat) (s : State) : Option Nat :=
  if isHostWin pa && !linkUpAt s pa then some 4
  else if deadHome s pa then some 9 else none

/-- Acknowledgements of the oldest messages to a package arrive, as many as a store needs (R390). -/
def easePair (pa : Nat) (s : State) : State :=
  if !localMem s pa && pairFull s pa then
    ((s.fab.msgs.filter (fun m => m.src = s.pkg ∧ m.dst = ownerOf s pa ∧ m.sentOut)).take 17).foldl passMsg s
  else s

/-- An access of the engine has to wait: another core's persistent request for the line is active (R240), or the package
that owns the page cannot be asked, for want of a route or of room for messages (R390, R417). -/
def engHeld (c : Cmd) (reads : Bool) (pa : Nat) (s : State) : Bool :=
  if localMem s pa then tokensHeld s.coh c.core (lineOf pa)
  else decide (ownerOf s pa ≠ s.pkg) && (pairFull s pa || (reads && !pathUp s.fab (ownerOf s pa)))

/-- Reads bytes of one line at the home, or at the owning package (R222), under a token as any agent of the die does
(R239). Code 0 says that it has to wait. -/
def engRead (c : Cmd) (va n : Nat) (s : State) : Except EngStop (State × List Byte) := do
  let (s, pa) ← engTranslate c.space .load va n s
  match deliverCode pa s with
  | some k => .error (k, va, s)
  | none =>
    let s := easePair pa s
    if engHeld c true pa s then .error (0, va, s)
    else
      let s := if localMem s pa
        then applyWts (c.core / 64) (lineOf pa) { s with coh := readToken c.core (lineOf pa) s.coh }
        else askRemote pa s
      if linePoisoned s (lineOf pa) then .error (3, va, s) else .ok (s, memReadN s.mem pa n)

/-- Bytes of one line that the engine writes, as an ordinary coherent store of the issuing die (R222), in aligned pieces
of 8 bytes on their way to another die (R251). -/
def engPut (c : Cmd) (pa : Nat) (d : List Byte) (s : State) : State :=
  performStoreBy (some c.id) c.core ⟨c.gtid, c.pid, pa, d, 0xFF, false⟩ s

/-- Writes bytes of one line at a physical address; `va` is the address that a failure names. Code 0 says that it has to
wait. -/
def engWriteAt (c : Cmd) (va pa : Nat) (d : List Byte) (s : State) : Except EngStop (State × Unit) :=
  match deliverCode pa s with
  | some k => .error (k, va, s)
  | none =>
    let s := easePair pa s
    if engHeld c false pa s then .error (0, va, s) else .ok (engPut c pa d s, ())

/-- Writes bytes of one line. -/
def engWrite (c : Cmd) (va : Nat) (d : List Byte) (s : State) : Except EngStop (State × Unit) := do
  let (s, pa) ← engTranslate c.space .store va d.length s
  engWriteAt c va pa d s

/-- Work that is left out where it fails, but waits where it has to. -/
def unlessHeld (s : State) : Except EngStop (State × Unit) → Except EngStop (State × Unit)
  | .error (0, va, t) => .error (0, va, t)
  | .error _ => .ok (s, ())
  | .ok x => .ok x

/-- Bytes up to the next line boundary. -/
def toLine (va : Nat) : Nat := 128 - va % 128

/-- Reads a range, line piece by line piece. -/
def readBytes (c : Cmd) : Nat → Nat → Nat → State → Except EngStop (State × List Byte)
  | 0, _, _, s => .ok (s, [])
  | fuel + 1, va, n, s =>
    if n = 0 then .ok (s, [])
    else do
      let k := min n (toLine va)
      let (s, d) ← engRead c va k s
      let (s, r) ← readBytes c fuel (va + k) (n - k) s
      .ok (s, d ++ r)

/-- Copies bytes, each line of the destination by one write (R222, R223, R371). -/
def moveBytes (c : Cmd) : Nat → Nat → Nat → Nat → State → Except EngStop (State × Unit)
  | 0, _, _, _, s => .ok (s, ())
  | fuel + 1, src, dst, n, s =>
    if n = 0 then .ok (s, ())
    else do
      let k := min n (toLine dst)
      let (s, d) ← readBytes c k src k s
      let (s, _) ← engWrite c dst d s
      moveBytes c fuel (src + k) (dst + k) (n - k) s

/-- Writes a function of the offset over a range, line piece by line piece. -/
def writeBytes (c : Cmd) (f : Nat → Byte) (base : Nat) : Nat → Nat → Nat → State → Except EngStop (State × Unit)
  | 0, _, _, s => .ok (s, ())
  | fuel + 1, off, n, s =>
    if n = 0 then .ok (s, ())
    else do
      let k := min n (toLine (base + off))
      let (s, _) ← engWrite c (base + off) ((List.range k).map (fun i => f (off + i))) s
      writeBytes c f base fuel (off + k) (n - k) s

/-- Writes a run of bytes, line piece by line piece. -/
def writeRun (c : Cmd) : Nat → Nat → List Byte → State → Except EngStop (State × Unit)
  | 0, _, _, s => .ok (s, ())
  | fuel + 1, va, d, s =>
    if d = [] then .ok (s, ())
    else do
      let (s, _) ← engWrite c va (d.take (toLine va)) s
      writeRun c fuel (va + toLine va) (d.drop (toLine va)) s

/-- Reads rows of `n` bytes at a list of addresses, one after the other. -/
def readRows (c : Cmd) (n : Nat) : List Nat → State → Except EngStop (State × List Byte)
  | [], s => .ok (s, [])
  | a :: l, s => do
    let (s, d) ← readBytes c n a n s
    let (s, r) ← readRows c n l s
    .ok (s, d ++ r)

/-- Runs a list of pieces of work in order. -/
def engAll : List (State → Except EngStop (State × Unit)) → State → Except EngStop (State × Unit)
  | [], s => .ok (s, ())
  | f :: l, s => do
    let (s, _) ← f s
    engAll l s

/-- Undefined bytes over a range (R7). -/
def writeFree (c : Cmd) (lo n : Nat) (s : State) : Except EngStop (State × Unit) :=
  writeBytes c (fun i => Config.freeByteAt s.free (lo + i)) lo n 0 n s

/-! ## What each command does -/

/-- A range of addresses, from its first byte to past its last. -/
structure Range where
  lo : Int
  hi : Int
deriving DecidableEq, Repr

/-- Two ranges share a byte. -/
def Range.meets (a b : Range) : Bool := decide (a.lo < b.hi ∧ b.lo < a.hi)

/-- The range of n bytes from an address. -/
def rangeAt (a : Word) (n : Nat) : Range := ⟨a.toNat, a.toNat + n⟩

/-- The bounding range of rows (R220). -/
def rowsRange (base stride : Word) (rows n : Nat) : Range :=
  let k := ((rows : Int) - 1) * stride.toInt
  ⟨base.toNat + min 0 k, base.toNat + max 0 k + n⟩

/-- The indices of a gather or scatter as element addresses from a base (R224). -/
def elemAddrs (base : Word) (d : List Byte) (count : Nat) : List Nat :=
  (List.range count).map (fun k => elemAt base (BitVec.ofNat 64 (natOfBytes ((d.drop (8 * k)).take 8))))

/-- The part of a range that lies in another. -/
def Range.within (a b : Range) : Range := ⟨max a.lo b.lo, min a.hi b.hi⟩

/-- Undefined bytes over a range, nothing where it is empty. -/
def freeRange (c : Cmd) (r : Range) (s : State) : Except EngStop (State × Unit) :=
  if r.lo < r.hi then writeFree c r.lo.toNat (r.hi - r.lo).toNat s else .ok (s, ())

/-- The elements of a gather from the `pos`-th byte of its destination on; one whose source overlaps the destination
gives undefined bytes (R224). -/
def gatherElems (c : Cmd) (n : Nat) (dst : Range) : List Nat → Nat → State → Except EngStop (State × List Byte)
  | [], _, s => .ok (s, [])
  | a :: l, pos, s => do
    let (s, x) ← readBytes c n a n s
    let y := if Range.meets ⟨(a : Int), (a : Int) + n⟩ dst
      then (List.range n).map (fun i => Config.freeByteAt s.free (c.desc.dst.toNat + pos + i)) else x
    let (s, r) ← gatherElems c n dst l (pos + n) s
    .ok (s, y ++ r)

/-- `XGATH` (R224): its destination is one run, each aligned 8 bytes of it one write (R222). -/
def runGather (c : Cmd) (s : State) : Except EngStop (State × Unit) := do
  let n := c.desc.len.toNat
  let count := c.desc.p1.toNat
  let (s, d) ← readBytes c (8 * count) c.desc.p0.toNat (8 * count) s
  let (s, x) ← gatherElems c n (rangeAt c.desc.dst (count * n)) (elemAddrs c.desc.src d count) 0 s
  writeRun c (count * n + 1) c.desc.dst.toNat x s

/-- `XCOPY2` (R223). Rows that follow one another without a gap are one run of the destination (R222). -/
def runCopy2 (c : Cmd) (s : State) : Except EngStop (State × Unit) :=
  let n := c.desc.len.toNat
  let src (r : Nat) : Nat := (c.desc.src + BitVec.ofNat 64 r * c.desc.p0).toNat
  let dst (r : Nat) : Nat := (c.desc.dst + BitVec.ofNat 64 r * c.desc.p1).toNat
  let rows := List.range c.desc.rows
  if c.desc.p1.toInt.natAbs = n then do
    let up := decide (0 ≤ c.desc.p1.toInt)
    let (s, x) ← readRows c n ((if up then rows else rows.reverse).map src) s
    writeRun c (c.desc.rows * n + 1) (if up then dst 0 else dst (c.desc.rows - 1)) x s
  else engAll (rows.map (fun r => moveBytes c n (src r) (dst r) n)) s

/-- `XSCAT` (R224): every index is read first; bytes where a scattered element overlaps the index array or the
source are undefined, and so are the elements whose source is overlapped. -/
def runScatter (c : Cmd) (s : State) : Except EngStop (State × Unit) := do
  let n := c.desc.len.toNat
  let count := c.desc.p1.toNat
  let (s, d) ← readBytes c (8 * count) c.desc.p0.toNat (8 * count) s
  let dst := elemAddrs c.desc.dst d count
  let idx := rangeAt c.desc.p0 (8 * count)
  let src := rangeAt c.desc.src (count * n)
  let elem (k : Nat) : Range := ⟨(dst[k]?).getD 0, (dst[k]?).getD 0 + n⟩
  let hit (k : Nat) : Bool :=
    (List.range count).any (fun j => Range.meets (elem j) ⟨c.desc.src.toNat + k * n, c.desc.src.toNat + (k + 1) * n⟩)
  let (s, _) ← engAll ((List.range count).map (fun k s =>
    if hit k then writeFree c ((dst[k]?).getD 0) n s
    else moveBytes c n (c.desc.src.toNat + k * n) ((dst[k]?).getD 0) n s)) s
  engAll ((List.range count).flatMap (fun k =>
    [freeRange c ((elem k).within idx), freeRange c ((elem k).within src)])) s

/-- A line of another die is brought into L2: the die holds a fresh copy (R226, R237, R241). DEDUCED, log 87. -/
def warmLine (core line : Nat) (s : State) : State :=
  let die := core / 64
  if !localMem s (line * 128) || decide (homeDie (line * 128) = die) || (freshCopy s.coh die line).isSome ||
    tokensHeld s.coh core line || deadHome s (line * 128) then s
  else
    let (s, d, p, v) := serveFill die line s
    { s with coh := putCopy ⟨die, line, d, p, generation s.coh die, v⟩ s.coh }

/-- `XWARM` brings its lines into L2, or, in the variant for the last-level cache, into a cache that is part of the home
and no state of its own (R237); it skips the pages that fail to translate (R226). -/
def warmPages (llc : Bool) (c : Cmd) (s : State) : State :=
  let lo := c.desc.src.toNat
  let top := lo + c.desc.len.toNat
  (List.range ((top + 4095) / 4096 - lo / 4096)).foldl (fun s i =>
    let va := max lo ((lo / 4096 + i) * 4096)
    let n := min top ((lo / 4096 + i + 1) * 4096) - va
    match engTranslate c.space .load va 1 s with
    | .ok (s1, pa) =>
      if llc then s1
      else (List.range (lineOf (pa + n - 1) + 1 - lineOf pa)).foldl (fun s j => warmLine c.core (lineOf pa + j) s) s1
    | .error _ => s) s

/-- The work of a command that is no collective (R223 to R226). -/
def runCommand (c : Cmd) (s : State) : Except EngStop (State × Unit) :=
  let n := c.desc.len.toNat
  match c.op with
  | .copy => moveBytes c n c.desc.src.toNat c.desc.dst.toNat n s
  | .copy2 => runCopy2 c s
  | .gather => runGather c s
  | .scatter => runScatter c s
  | .fill => writeBytes c (fun i => BitVec.ofNat 8 (c.desc.p0.toNat / 256 ^ (i % 8))) c.desc.dst.toNat n 0 n s
  | .warm llc => .ok (warmPages llc c s, ())
  | .collective _ => .ok (s, ())

/-! ## Groups -/

/-- The group a collective names: P0 [47:32] (R219). -/
def groupOf (s : State) (d : Desc) : Option Group := s.copy.groups.find? (fun g => g.num = bits d.p0 32 16)

/-- The identifier of a collective (R219). -/
def collId (d : Desc) : Nat := bits d.p0 0 32

/-- The root rank of a collective (R219). -/
def collRoot (d : Desc) : Nat := bits d.p0 48 16

/-- Bytes of an element of a type (R228); of a type above 5, which has no size, 1, so that check 6 answers it. DESIGN CHOICE,
log 111. -/
def elemBytes : Nat → Nat
  | 0 => 4
  | 1 => 8
  | 2 => 2
  | 3 => 2
  | 4 => 4
  | 5 => 8
  | _ => 1

/-- Bytes that rank `r` of `p` reads and writes in a variant (R227). -/
def collBytes (variant p r root n : Nat) : Nat × Nat :=
  match variant with
  | 0 => (n, n)
  | 1 => (n, p * n)
  | 2 => (p * n, n)
  | _ => (if r = root then n else 0, n)

/-- Size of the group and the issuer's rank; 1 and 0 where it is not a member. -/
def collPlace (s : State) (gtid : Word) (d : Desc) : Nat × Nat :=
  match groupOf s d with
  | none => (1, 0)
  | some g => (g.members.length, g.members.findIdx (· = gtid))

/-- Binds a group to members in rank order, or unbinds it; aborts that stood for it end (R393, R418).
DEDUCED, log 44. -/
def bindGroup (num pid : Nat) (members : List Word) (s : State) : State :=
  let others := s.copy.groups.filter (fun g => decide (g.num ≠ num))
  { s with
    copy.groups := if members.isEmpty then others else ⟨num, pid, members⟩ :: others
    copy.aborts := s.copy.aborts.filter (fun a => decide (a.group ≠ num)) }

/-! ## The checks -/

/-- The variant of a collective, 0 otherwise. -/
def CmdOp.variant : CmdOp → Nat
  | .collective v => v
  | _ => 0

/-- The source and destination ranges a descriptor fixes, and its index array (R220, R452). -/
structure CmdRanges where
  src : Option Range
  dst : Option Range
  idx : Option Range
deriving DecidableEq, Repr

/-- The ranges of a command. -/
def cmdRanges (s : State) (gtid : Word) (op : CmdOp) (d : Desc) : CmdRanges :=
  let n := d.len.toNat
  match op with
  | .copy => ⟨some (rangeAt d.src n), some (rangeAt d.dst n), none⟩
  | .copy2 => ⟨some (rowsRange d.src d.p0 d.rows n), some (rowsRange d.dst d.p1 d.rows n), none⟩
  | .gather => ⟨none, some (rangeAt d.dst (d.p1.toNat * n)), some (rangeAt d.p0 (8 * d.p1.toNat))⟩
  | .scatter => ⟨some (rangeAt d.src (d.p1.toNat * n)), none, some (rangeAt d.p0 (8 * d.p1.toNat))⟩
  | .fill => ⟨none, some (rangeAt d.dst n), none⟩
  | .warm _ => ⟨some (rangeAt d.src n), none, none⟩
  | .collective v =>
    let (p, r) := collPlace s gtid d
    let (rd, wr) := collBytes v p r (collRoot d) n
    ⟨some (rangeAt d.src rd), some (rangeAt d.dst wr), none⟩

/-- Check 1: unused and reserved fields are zero (R219, R220). DEDUCED, log 29. -/
def check1 (op : CmdOp) (d : Desc) : Bool :=
  match op with
  | .copy => decide (d.p0 = 0 ∧ d.p1 = 0 ∧ d.rows = 0)
  | .copy2 => true
  | .gather => decide (d.rows = 0)
  | .scatter => decide (d.rows = 0)
  | .fill => decide (d.src = 0 ∧ d.p1 = 0 ∧ d.rows = 0)
  | .warm _ => decide (d.dst = 0 ∧ d.p0 = 0 ∧ d.p1 = 0 ∧ d.rows = 0)
  | .collective _ => decide (d.rows = 0 ∧ d.p1.toNat < 65536)

/-- Check 2: the limits of R219. -/
def check2 (op : CmdOp) (d : Desc) : Bool :=
  let n := d.len.toNat
  match op with
  | .copy | .fill | .warm _ => decide (1 ≤ n ∧ n ≤ 2 ^ 40)
  | .copy2 => decide (1 ≤ n ∧ n ≤ 2 ^ 24 ∧ 1 ≤ d.rows ∧ d.rows ≤ 2 ^ 24)
  | .gather | .scatter => decide (1 ≤ n ∧ n ≤ 2 ^ 16 ∧ 1 ≤ d.p1.toNat ∧ d.p1.toNat ≤ 2 ^ 24)
  | .collective _ => decide (1 ≤ n ∧ n ≤ 2 ^ 32 ∧ n % elemBytes (bits d.p1 0 8) = 0)

/-- Check 3: alignment of CW and of an index array. -/
def check3 (op : CmdOp) (d : Desc) : Bool :=
  decide (bits d.cw 0 3 = 0) &&
  (match op with
   | .gather | .scatter => decide (bits d.p0 0 3 = 0)
   | _ => true)

/-- A range lies below 2^56, or has no byte. -/
def Range.fits (r : Range) : Bool := decide (r.hi ≤ r.lo ∨ (0 ≤ r.lo ∧ r.hi ≤ 2 ^ 56))

/-- Check 4: no range passes 2^56. The completion word is no range (R452): its store is checked at issue (R221). -/
def check4 (s : State) (gtid : Word) (op : CmdOp) (d : Desc) : Bool :=
  let r := cmdRanges s gtid op d
  [r.src, r.dst, r.idx].all (fun x => (x.map Range.fits).getD true)

/-- Two ranges that are both fixed overlap. -/
def overlap : Option Range → Option Range → Bool
  | some a, some b => a.meets b
  | _, _ => false

/-- Check 5: overlaps. -/
def check5 (s : State) (gtid : Word) (op : CmdOp) (d : Desc) : Bool :=
  let r := cmdRanges s gtid op d
  match op with
  | .copy => !overlap r.src r.dst
  | .copy2 => !overlap r.src r.dst && (decide (d.rows ≤ 1) || decide (d.len.toNat ≤ d.p1.toInt.natAbs))
  | .gather => !overlap r.idx r.dst
  | _ => true

/-- Check 6: the group and parameters of a collective. -/
def check6 (s : State) (gtid : Word) (pid : Nat) (op : CmdOp) (d : Desc) : Bool :=
  match op with
  | .collective v =>
    (match groupOf s d with
     | none => false
     | some g => decide (g.pid = pid) && g.members.contains gtid &&
       (if v = 3 then decide (collRoot d < g.members.length) else decide (collRoot d = 0))) &&
    (if v = 0 ∨ v = 2 then decide (bits d.p1 0 8 ≤ 5 ∧ bits d.p1 8 8 ≤ 2) else decide (d.p1 = 0))
  | _ => true

/-- Number of the first check of R220 that fails, or 0. -/
def firstFailing (s : State) (gtid : Word) (pid : Nat) (op : CmdOp) (d : Desc) (reserved : Bool) : Nat :=
  if !(check1 op d && reserved) then 1
  else if !check2 op d then 2
  else if !check3 op d then 3
  else if !check4 s gtid op d then 4
  else if !check5 s gtid op d then 5
  else if !check6 s gtid pid op d then 6
  else 0

/-! ## Locks -/

/-- The locks a command takes (R229), and the ranges for which it waits at issue: `XWARM` takes none and never waits. DESIGN
CHOICE, log 110. -/
def cmdLocks (s : State) (gtid : Word) (op : CmdOp) (d : Desc) : List (Range × LockKind) :=
  let r := cmdRanges s gtid op d
  let rd (x : Option Range) : List (Range × LockKind) := (x.map (fun x => (x, LockKind.read))).toList
  let wr (x : Option Range) : List (Range × LockKind) := (x.map (fun x => (x, LockKind.write))).toList
  match op with
  | .copy | .copy2 | .collective _ => rd r.src ++ wr r.dst
  | .gather => rd r.idx ++ wr r.dst
  | .scatter => rd r.idx ++ rd r.src
  | .fill => wr r.dst
  | .warm _ => []

/-- A new lock has to wait for a lock of the same context (R229). -/
def lockConflict (l : Lock) (r : Range) (k : LockKind) : Bool :=
  decide (l.lo < l.hi ∧ r.lo < r.hi ∧ (l.lo : Int) < r.hi ∧ r.lo < l.hi) && (decide (l.kind = .write) || decide (k = .write))

/-- A partition's cap of lock entries in a cluster (R291). -/
def lockCap (s : State) (cluster pid : Nat) : Nat :=
  match (((s.copy.lockshr[cluster]?).getD (Vector.replicate 8 0)).toList.find?
      (fun w => w.getLsbD 63 && decide (bits w 32 12 = pid))) with
  | some w => bits w 0 9
  | none => 64

/-- A command may issue now: entries, the partition's cap, no conflict, and no command of the context in another
cluster (R221, R234, R291). -/
def canIssue (s : State) (locks : List (Range × LockKind)) : Bool :=
  let g := s.ctx.prv.gtid
  let here := s.copy.locks.filter (fun l => l.cluster = s.cluster)
  decide (here.length + locks.length ≤ 64) &&
  (locks.isEmpty || decide ((here.filter (fun l => l.pid = s.pid)).length + locks.length ≤ lockCap s s.cluster s.pid)) &&
  locks.all (fun x => s.copy.locks.all (fun l => decide (l.gtid ≠ g) || !lockConflict l x.1 x.2)) &&
  s.copy.cmds.all (fun c => decide (c.gtid ≠ g ∨ c.core / 8 = s.cluster))

/-! ## Ending -/

/-- Every earlier store of a thread has been performed, its command's own writes among them (R222, R230). -/
def threadStoresDone (gtid : Word) (s : State) : Bool :=
  s.core.sb.all (fun e => decide (e.gtid ≠ gtid)) &&
  s.others.all (fun c => c.2.sb.all (fun e => decide (e.gtid ≠ gtid))) &&
  s.coh.wts.all (fun w => decide (w.gtid ≠ gtid)) &&
  s.fab.msgs.all (fun m => decide (m.gtid ≠ gtid ∨ m.src ≠ s.pkg))

/-- A code carries an address (R230). -/
def codeAddr (code addr : Nat) : Nat := if code = 2 ∨ code = 3 ∨ code = 4 then addr % 2 ^ 56 else 0

/-- The value of a completion word (R230). -/
def completionWord (code addr : Nat) : Word := BitVec.ofNat 64 (code % 256 + codeAddr code addr * 256)

/-- Writes a completion word, translated when it is written, as every access of the engine is (R222, R298). A word that
does not translate then, or lies in device memory (R315), is not written (DESIGN CHOICE, log 75); one that the host link
cannot carry is reported as any store is (R413). -/
def writeWord (c : Cmd) (v : Word) (s : State) : State :=
  match engTranslate c.space .store c.desc.cw.toNat 8 s with
  | .error _ => s
  | .ok (s1, pa) => engPut c pa (bytesOfWord 8 v) s1

/-- The completion word of a command has to wait, as the engine's other writes do. -/
def wordHeld (c : Cmd) (s : State) : Bool :=
  c.cw.isSome &&
  (match engTranslate c.space .store c.desc.cw.toNat 8 s with
   | .error _ => false
   | .ok (_, pa) => engHeld c false pa s)

/-- A command ends: its locks go, then its completion word is written (R230). -/
def finishCmd (c : Cmd) (code addr : Nat) (s : State) : State :=
  let s1 := { s with
    copy.cmds := s.copy.cmds.filter (fun x => x.id ≠ c.id)
    copy.locks := s.copy.locks.filter (fun l => l.cmd ≠ c.id) }
  if c.cw.isNone then s1 else writeWord c (completionWord code addr) s1

/-- Replaces a command of the same number. -/
def putCmd (c : Cmd) (s : State) : State :=
  { s with copy.cmds := s.copy.cmds.map (fun x => if x.id = c.id then c else x) }

/-- A command takes what it ends with, unless it has failed already: one that has written its results but not ended
is still in flight (R233). CONTAINED takes precedence (R393). -/
def takesOutcome (code : Nat) (c : Cmd) : Bool :=
  decide (code = 9) || (c.outcome.map (fun o => decide (o.1 = 0))).getD true

/-- Gives a command what it ends with. -/
def setOutcome (code addr : Nat) (c : Cmd) : Cmd :=
  if takesOutcome code c then { c with outcome := some (code, addr) } else c

/-- A command is a collective. -/
def Cmd.isColl (c : Cmd) : Bool :=
  match c.op with
  | .collective _ => true
  | _ => false

/-- A command takes part in a collective of a group. -/
def Cmd.joins (c : Cmd) (grp id : Nat) : Bool :=
  c.isColl && decide (bits c.desc.p0 32 16 = grp ∧ collId c.desc = id)

/-- Undefined bytes over the destination of a collective's member (R231): written as its other bytes are, save where they
fail to translate or cannot be delivered. -/
def scrambleDst (c : Cmd) (s : State) : Except EngStop (State × Unit) :=
  let r := ((cmdRanges s c.gtid c.op c.desc).dst).getD ⟨0, 0⟩
  let n := (r.hi - r.lo).toNat
  engAll ((linePieces (n / 128 + 2) r.lo.toNat
    ((List.range n).map (fun i => Config.freeByteAt s.free (r.lo.toNat + i)))).map
      (fun p s => unlessHeld s (engWrite c p.1 p.2 s))) s

/-- The destination of a command that ended so is made undefined, unless a write has to wait. -/
def scrambleCmd (c : Cmd) (s : State) : State :=
  match scrambleDst c s with
  | .ok (s1, _) => putCmd { c with scrambles := false } s1
  | .error _ => s

/-- A collective in flight ends as a whole with an error: its destination bytes are undefined (R231). -/
def failMember (code : Nat) (c : Cmd) (s : State) : State :=
  if takesOutcome code c then putCmd { setOutcome code 0 c with ran := true, scrambles := true } s else s

/-- A member of a collective ends by itself with a code; CONTAINED leaves its destination undefined (R231). -/
def endMember (code addr : Nat) (c : Cmd) (s : State) : State :=
  putCmd { c with outcome := some (code, addr), ran := true, scrambles := decide (code = 9) } s

/-- A command takes part in a collective of a group: it has not ended at issue for an identifier in use (R227). -/
def Cmd.partakes (c : Cmd) (grp id : Nat) : Bool :=
  c.joins grp id && (c.outcome.map (fun o => decide (o.1 ≠ 8))).getD true

/-- A member of a group runs in another package: bits [47:40] of its GTID (R19). DESIGN CHOICE, log 76. -/
def elsewhere (s : State) (gtid : Word) : Bool := decide (bits gtid 40 8 ≠ s.pkg)

/-- The code with which a collective ends for want of a member (R393): its package has been declared dead, or it was
killed, by itself or with its die. -/
def lostCode (s : State) (m : Word) : Option Nat :=
  if s.rel.deadPkgs.contains (bits m 40 8) then some 9 else (s.copy.lost.find? (fun x => x.1 = m)).map (·.2)

/-- An abort of a collective reaches its members in this package (R393): those that have issued end with the code, the
others when they issue, unless they are lost too. Of a collective that has started or ended every member has issued or has
its abort. CONTAINED takes precedence. -/
def abortCollective (grp id code : Nat) (except : Word) (s : State) : State :=
  let all := s.copy.cmds.filter (fun c => c.partakes grp id)
  let mine := all.filter (fun c => decide (c.gtid ≠ except))
  let members := ((s.copy.groups.find? (fun g => g.num = grp)).map (·.members)).getD []
  let waiting := if all.any (·.ran) then []
    else members.filter (fun g => decide (g ≠ except) && mine.all (fun c => decide (c.gtid ≠ g)) &&
      !elsewhere s g && (lostCode s g).isNone)
  let s1 := mine.foldl (fun s c => failMember code c s) s
  let stands := s1.copy.aborts.map (fun a => if code = 9 ∧ a.group = grp ∧ a.id = id then { a with code := 9 } else a)
  { s1 with copy.aborts := stands ++ (if waiting.isEmpty then [] else [⟨grp, id, code, waiting⟩]) }

/-- Packages in which other members of a group run. -/
def memberPkgs (s : State) (grp : Nat) : List Nat :=
  let l := ((s.copy.groups.find? (fun g => g.num = grp)).map (·.members)).getD []
  ((l.filter (elsewhere s)).map (fun m => bits m 40 8)).dedup.filter
    (fun p => s.fab.present.contains p && !s.rel.deadPkgs.contains p)

/-- An abort of a collective reaches every member (R393): those in this package, and in messages those in others. -/
def abortEverywhere (grp id code : Nat) (except : Word) (s : State) : State :=
  let s1 := abortCollective grp id code except s
  tellAborts { s1 with copy.told := s1.copy.told ++ (memberPkgs s grp).map (fun p => (p, grp, id, code, except)) }

/-- The aborts of a lost member's groups that still stand turn to CONTAINED (R393). -/
def raiseAborts (lost : Word → Bool) (s : State) : State :=
  { s with copy.aborts := s.copy.aborts.map (fun a =>
      if s.copy.groups.any (fun g => decide (g.num = a.group) && g.members.any lost) then { a with code := 9 } else a) }

/-- Cancels a command: CANCELLED, and PEER-ABORTED for the other members of a collective (R233), unless it had failed for
all of them or was none. -/
def cancelCmd (c : Cmd) (s : State) : State :=
  let s1 := putCmd { c with outcome := some (5, 0), scrambles := false } s
  if c.isColl && (c.outcome.map (fun o => decide (o.1 = 0))).getD true
  then abortEverywhere (bits c.desc.p0 32 16) (collId c.desc) 6 c.gtid s1 else s1

/-- In-flight commands of a thread. -/
def cmdsOf (s : State) (gtid : Word) : List Cmd := s.copy.cmds.filter (fun c => c.gtid = gtid)

/-- Collectives in flight of groups a thread belongs to: group and identifier. -/
def collsOf (s : State) (gtid : Word) : List (Nat × Nat) :=
  ((s.copy.cmds.filter (fun c => c.isColl && s.copy.groups.any (fun g =>
    decide (g.num = bits c.desc.p0 32 16) && g.members.contains gtid))).map
      (fun c => (bits c.desc.p0 32 16, collId c.desc))).dedup

/-- An abort no longer waits for a member that is lost (R393). -/
def forgetMember (gtid : Word) (s : State) : State :=
  let l := s.copy.aborts.map (fun a => { a with waiting := a.waiting.filter (fun g => decide (g ≠ gtid)) })
  { s with copy.aborts := l.filter (fun a => !a.waiting.isEmpty) }

/-- A command ends for want of its agent: CANCELLED, or CONTAINED where a fence took the agent, with undefined bytes
over the destination of a collective that it contains (R231, R389, R393). -/
def loseCmd (contained : Bool) (c : Cmd) (s : State) : State :=
  putCmd { c with outcome := some (if contained then 9 else 5, 0), scrambles := contained && c.isColl } s

/-- A thread is killed: its commands are cancelled, their locks go, and the collectives of its groups end with the
code: PEER-ABORTED, or CONTAINED where its die was fenced off (R234, R393). -/
def killCmds (gtid : Word) (code : Nat) (s : State) : State :=
  let s1 := (cmdsOf s gtid).foldl (fun s c => loseCmd (decide (code = 9)) c s) s
  let s1 := if code = 9 then raiseAborts (· == gtid) s1 else s1
  let s2 := (collsOf s gtid).foldl (fun s x => abortEverywhere x.1 x.2 code gtid s) s1
  forgetMember gtid { s2 with
    copy.locks := s2.copy.locks.filter (fun l => decide (l.gtid ≠ gtid))
    copy.lost := (gtid, code) :: s2.copy.lost.filter (fun x => decide (x.1 ≠ gtid)) }

/-! ## Collectives -/

/-- Sign-extends an INT32 or INT64 element and wraps a sum. -/
def intComb (n k x y : Nat) : Nat :=
  let a := sext x (8 * n)
  let b := sext y (8 * n)
  ((if k = 0 then a + b else if k = 1 then min a b else max a b) % (2 ^ (8 * n) : Nat)).toNat

/-- One operation of a reduction in an element type: RNE, no DAZ or FTZ (R228). -/
def collComb (ty k x y : Nat) : Nat :=
  let c : FpCtl := ⟨.rne, false, false, false⟩
  let f (e : EFmt) : Nat :=
    if k = 0 then (e.addR c x y).bits else (e.minmaxR c (decide (k = 2)) x y).bits
  match ty with
  | 0 => f .fp32
  | 1 => f .fp64
  | 2 => f .bf16
  | 3 => f .fp16
  | 4 => intComb 4 k x y
  | _ => intComb 8 k x y

/-- One level of the tree of R208 over present elements. -/
def collLevel (ty k : Nat) : List Nat → List Nat
  | x :: y :: l => collComb ty k x y :: collLevel ty k l
  | l => l

/-- The reduction of contributions in rank order (R228). Absent entries pass the other side through, so a level
of an odd number of entries passes its last one on. -/
def collTree (ty k : Nat) : Nat → List Nat → Nat
  | 0, l => l.headD 0
  | n + 1, l => collTree ty k n (collLevel ty k l)

/-- A NaN of a float element type is canonical (R228). -/
def canonElem (ty v : Nat) : Nat :=
  let f (e : EFmt) : Nat := if e.isNan v then e.nanBits else v
  match ty with
  | 0 => f .fp32
  | 1 => f .fp64
  | 2 => f .bf16
  | 3 => f .fp16
  | _ => v

/-- Reduces equally long blocks element by element (R228). -/
def reduceBlocks (ty k : Nat) (n : Nat) (l : List (List Byte)) : List Byte :=
  let z := elemBytes ty
  (List.range (n / z)).flatMap (fun e =>
    bytesOfNat z (canonElem ty (collTree ty k l.length (l.map (fun b => natOfBytes ((b.drop (z * e)).take z))))))

/-- What rank `r` writes, from every rank's contribution (R227). -/
def collResult (v : Nat) (d : Desc) (contrib : List (List Byte)) (r : Nat) : List Byte :=
  let n := d.len.toNat
  let red (l : List (List Byte)) : List Byte := reduceBlocks (bits d.p1 0 8) (bits d.p1 8 8) n l
  match v with
  | 0 => red contrib
  | 1 => contrib.flatten
  | 2 => red (contrib.map (fun b => (b.drop (r * n)).take n))
  | _ => (contrib[collRoot d]?).getD []

/-- The members' commands of a collective in rank order, if every member has issued one; nothing stands for a member of
another package, of which whether it has issued is open. DESIGN CHOICE, log 76. -/
def collCmds (s : State) (grp id : Nat) : Option (List (Option Cmd)) :=
  match s.copy.groups.find? (fun g => g.num = grp) with
  | none => none
  | some g =>
    if g.members.any (elsewhere s) && !Config.freeBool (draw s 44) then none
    else g.members.mapM (fun m =>
      if elsewhere s m then some none
      else (s.copy.cmds.find? (fun c => c.joins grp id && decide (c.gtid = m) && c.outcome.isNone)).map some)

/-- The members carry the same variant, LEN, P1 and root (R227). -/
def collAgree (l : List Cmd) : Bool :=
  match l with
  | [] => true
  | c :: r => r.all (fun x => decide (x.op = c.op ∧ x.desc.len = c.desc.len ∧ x.desc.p1 = c.desc.p1 ∧
      collRoot x.desc = collRoot c.desc))

/-- Bytes a rank contributes. -/
def contribBytes (s : State) (c : Cmd) (r : Nat) : Nat :=
  (collBytes c.op.variant (collPlace s c.gtid c.desc).1 r (collRoot c.desc) c.desc.len.toNat).1

/-- Reads every rank's contribution; the rank at which reading fails, with its code. `like` is a command of the
collective, whose parameters all share; what a member of another package contributes, and whether that is poisoned (R372),
is open (log 76). -/
def readContribs (like : Cmd) : List (Option Cmd) → Nat → State → Except (Nat × Nat × Nat × State) (State × List (List Byte))
  | [], _, s => .ok (s, [])
  | m :: l, r, s => do
    let n := contribBytes s like r
    let (s, d) ← match m with
      | none =>
        if n ≠ 0 ∧ Config.freeBool (draw s (24576 + r)) then .error (r, 3, Config.freeNat (draw s (24576 + r)), s)
        else .ok (s, (List.range n).map (fun i => Config.freeByteAt (draw s (16384 + r)) i))
      | some c =>
        match readBytes c n c.desc.src.toNat n s with
        | .error (code, a, s1) => .error (r, code, a, s1)
        | .ok x => .ok x
    let (s, ds) ← readContribs like l (r + 1) s
    .ok (s, d :: ds)

/-- Writes the result of each rank of this package; a member whose write fails ends with that code, the others as they do
(DESIGN CHOICE, log 93). Nothing where a write has to wait. -/
def writeResults (contrib : List (List Byte)) : List (Option Cmd) → Nat → State → Option State
  | [], _, s => some s
  | none :: l, r, s => writeResults contrib l (r + 1) s
  | some c :: l, r, s =>
    let d := collResult c.op.variant c.desc contrib r
    match writeRun c (d.length + 1) c.desc.dst.toNat d s with
    | .ok (s1, _) => writeResults contrib l (r + 1) (endMember 0 0 c s1)
    | .error (0, _, _) => none
    | .error (code, a, s1) => writeResults contrib l (r + 1) (endMember code a c s1)

/-- A collective whose members have all issued runs: results, mismatch, or a failed contribution (R227, R228, R372), which
ends the other members with PEER-ABORTED (DESIGN CHOICE, log 93). It does nothing while an access has to wait.
Whether the parameters of members in other packages agree is open (log 76). -/
def runCollective (grp id : Nat) (s : State) : State :=
  match collCmds s grp id with
  | none => s
  | some ms =>
    let l := ms.filterMap (fun m => m)
    let agrees := collAgree l && (decide (l.length = ms.length) || Config.freeBool (draw s 45))
    match l with
    | [] => s
    | like :: _ =>
      if !l.all (fun c => threadStoresDone c.gtid s) then s
      else if !agrees then l.foldl (fun s c => failMember 7 c s) s
      else
        match readContribs like ms 0 s with
        | .ok (s1, ds) => (writeResults ds ms 0 s1).getD s
        | .error (r, code, a, s1) =>
          if code = 0 then s
          else if code = 3 then l.foldl (fun s c => putCmd { c with outcome := some (3, a), ran := true } s) s1
          else
            match (ms[r]?).getD none with
            | none => s1
            | some c => abortEverywhere grp id 6 c.gtid (endMember code a c s1)

/-- `COLLECTIVE_START` (R227). -/
def execCollectiveStart (grp cid : Nat) (s : State) : Out := .next (runCollective grp cid s)

/-- `COLLECTIVE_ABORT`: a member of a collective has been lost, which makes it abort (R393), here and where the other
members are. -/
def execCollectiveAbort (grp cid : Nat) (s : State) : Out :=
  match s.copy.groups.find? (fun g => g.num = grp) with
  | none => .next s
  | some g =>
    match g.members.filterMap (fun m => (lostCode s m).map (fun k => (m, k))) with
    | [] => .next s
    | (m, k) :: l =>
      if s.copy.cmds.any (fun c => c.partakes grp cid && decide (c.gtid ≠ m)) || g.members.any (elsewhere s)
      then .next (abortEverywhere grp cid (if l.any (fun x => decide (x.2 = 9)) then 9 else k) m s)
      else .next s

/-! ## Start and end as steps -/

/-- `XDRAIN` class of a destination byte (R232): LOCAL, PKG, DEV, HOST. -/
def classOf (c : Cmd) (s : State) (va : Nat) : Option Nat :=
  match engTranslate c.space .store va 1 s with
  | .error _ => none
  | .ok (_, pa) =>
    if isHostWin pa then some 3 else if !localMem s pa then some 2
    else if homeDie pa = c.core / 64 then some 0 else some 1

/-- The ranges of a command's destination bytes: rows one by one, and the elements of a scatter by the indices it
read (R232). -/
def dstRanges (c : Cmd) (s : State) : List Range :=
  let n := c.desc.len.toNat
  match c.op with
  | .copy2 => (List.range c.desc.rows).map (fun r => rangeAt (c.desc.dst + BitVec.ofNat 64 r * c.desc.p1) n)
  | .scatter =>
    (match readBytes c (8 * c.desc.p1.toNat) c.desc.p0.toNat (8 * c.desc.p1.toNat) s with
     | .ok (_, d) => (elemAddrs c.desc.dst d c.desc.p1.toNat).map (fun a => ⟨a, a + n⟩)
     | .error _ => [])
  | _ => (cmdRanges s c.gtid c.op c.desc).dst.toList

/-- Classes of the pages a command's destination bytes touch. -/
def classesOf (c : Cmd) (s : State) : List Nat :=
  ((dstRanges c s).flatMap (fun r =>
    (keysOf r.lo.toNat (r.hi - r.lo).toNat 12).filterMap (fun k => classOf c s (max r.lo.toNat (k * 4096))))).dedup

/-- A write that was under way is lost: the line is poisoned where its home lives, and it is reported, for a copy
command by the command's code CONTAINED, else by MCHK 4 in the context that stored (R392). -/
def loseWrite (cmd : Option Nat) (die : Nat) (gtid : Word) (pid pa : Nat) (s : State) : State :=
  let s1 := { s with coh := poisonLine (lineOf pa) s.coh }
  match s1.copy.cmds.find? (fun c => decide (cmd = some c.id)) with
  | some c => if c.isColl then failMember 9 c s1 else putCmd (setOutcome 9 0 c) s1
  | none => loseStore die gtid pid pa s1

/-- The bytes that the issuing thread has written where its scatter writes are undefined (R224). -/
def undefineRaced (c : Cmd) (s : State) : Except EngStop (State × Unit) :=
  engAll (c.raced.dedup.map (fun a s => unlessHeld s (engWriteAt c a a [Config.freeByteAt s.free a] s))) s

/-- The engine performs the accesses of a command (R222 to R226), and knows the classes of its destination from then on
(R232). It does nothing while one of them has to wait. -/
def startCmd (c : Cmd) (s : State) : State :=
  let ended (s1 : State) (c1 : Cmd) : State :=
    match undefineRaced c s1 with
    | .ok (s2, _) => putCmd c1 s2
    | .error _ => s
  match runCommand c s with
  | .ok (s1, _) => ended s1 { c with classes := some (classesOf c s), outcome := some (0, 0) }
  | .error (0, _, _) => s
  | .error (code, a, s1) => ended s1 { c with outcome := some (code, a) }

/-- A command's accesses may begin (R222). -/
def canStart (s : State) (c : Cmd) : Bool := c.outcome.isNone && !c.isColl && threadStoresDone c.gtid s

/-- A command may end: its writes have been performed and its word can be written (R230). -/
def canEnd (s : State) (c : Cmd) : Bool := c.outcome.isSome && threadStoresDone c.gtid s && !wordHeld c s

/-- `COPY_COMMAND_START`: the engine performs a command's accesses. DESIGN CHOICE, log 28. -/
def execCopyCommandStart (id : Nat) (s : State) : Out :=
  match s.copy.cmds.find? (fun c => c.id = id) with
  | none => .next s
  | some c => if canStart s c then .next (startCmd c s) else .next s

/-- A command that has an outcome goes on: its destination is made undefined where it must be (R231), and when that has
been performed its locks are released and its completion word is written (R230). -/
def endCmd (c : Cmd) (s : State) : State :=
  match c.outcome with
  | none => s
  | some (code, a) => if c.scrambles then scrambleCmd c s else finishCmd c code a s

/-- `COPY_COMMAND_END`: locks released, completion word written (R230). -/
def execCopyCommandEnd (id : Nat) (s : State) : Out :=
  match s.copy.cmds.find? (fun c => c.id = id) with
  | none => .next s
  | some c => if canEnd s c then .next (endCmd c s) else .next s

/-- The oldest command that can go on: begin, end, or run as a collective. -/
def readyCmd (s : State) : Option Cmd :=
  s.copy.cmds.find? (fun c => canStart s c || canEnd s c ||
    (c.isColl && c.outcome.isNone && (collCmds s (bits c.desc.p0 32 16) (collId c.desc)).isSome &&
      threadStoresDone c.gtid s))

/-- A command goes on by one unit. -/
def stepCmd (c : Cmd) (s : State) : State :=
  if c.outcome.isSome then endCmd c s
  else if c.isColl then runCollective (bits c.desc.p0 32 16) (collId c.desc) s
  else startCmd c s

/-- One unit of the work that instructions waiting for commands wait for: a command goes on, or, where none can, the stores
under way do. -/
def advance (s : State) : State :=
  match readyCmd s with
  | none => progress s
  | some c => if (stepCmd c s).copy.cmds = s.copy.cmds then progress s else stepCmd c s

/-! ## The instructions -/

/-- The fields of a descriptor (R219) and whether its reserved bytes are zero. -/
def readDesc (b : List Byte) : Desc × Bool :=
  (⟨dwordAt b 0, dwordAt b 8, dwordAt b 16, dwordAt b 24, dwordAt b 32, dwordAt b 40, numAt b 48 4⟩,
    (b.drop 52).all (· = 0))

/-- What a collective ends with at issue: an abort that stands for the issuer, or an identifier in use, by a collective
that has started or by a command of the issuer's own (R227, R393). A command that ended so itself uses none. -/
def issueOutcome (s : State) (gtid : Word) (op : CmdOp) (d : Desc) : Option (Nat × Nat) :=
  match op with
  | .collective _ =>
    let grp := bits d.p0 32 16
    let mine := s.copy.aborts.filter (fun a => a.group = grp ∧ a.id = collId d ∧ a.waiting.contains gtid)
    match (mine.find? (fun a => a.code = 9)).or mine.head? with
    | some a => some (a.code, 0)
    | none =>
      if s.copy.cmds.any (fun c => c.partakes grp (collId d) && (c.ran || decide (c.gtid = gtid)))
      then some (8, 0) else none
  | _ => none

/-- An abort has reached a member that has issued (R393). -/
def receiveAbort (gtid : Word) (d : Desc) (s : State) : State :=
  let l := s.copy.aborts.map (fun a =>
    if a.group = bits d.p0 32 16 ∧ a.id = collId d then { a with waiting := a.waiting.filter (fun g => decide (g ≠ gtid)) }
    else a)
  { s with copy.aborts := l.filter (fun a => !a.waiting.isEmpty) }

/-- Registers a command and its locks (R221). The destination of a collective that an abort ends at once is undefined
(R231). -/
def register (op : CmdOp) (d : Desc) (cw : Option (Nat × Bool)) (locks : List (Range × LockKind)) (s : State) : State :=
  let id := s.copy.nextCmd
  let g := s.ctx.prv.gtid
  let o := issueOutcome s g op d
  let s1 := if o.isSome then receiveAbort g d s else s
  let ls := locks.map (fun x => (⟨s.cluster, id, g, s.pid, x.1.lo.toNat, x.1.hi.toNat, x.2⟩ : Lock))
  let c : Cmd := ⟨id, s.cur, g, s.pid, s.ctx.space, op, d, cw, none, o, false, [],
    o.any (fun x => decide (x.1 = 6 ∨ x.1 = 9))⟩
  { s1 with
    copy.nextCmd := id + 1
    copy.locks := s1.copy.locks ++ ls
    copy.cmds := s1.copy.cmds ++ [c] }

/-- The issue store of 1 to CW, checked at execution (R221). DEDUCED, log 27. -/
def issueWord (d : Desc) (s : State) : Except Stop (State × Option Phys) :=
  if d.cw = 0 then .ok (s, none)
  else do
    let (s, ph) ← checkScalar .store .scalar d.cw 8 s
    .ok (s, some ph)

/-- The effect of a command instruction (R220, R221). -/
def command (op : CmdOp) (d a : Nat) (s : State) : Run := do
  let _ ← need s [.g a]
  let (s, b) ← loadRow 64 (rg s a) 64 s
  let (x, res) := readDesc b
  let chk := firstFailing s s.ctx.prv.gtid s.pid op x res
  if chk ≠ 0 then .ok (wg s d (BitVec.ofNat 64 chk))
  else
    let (s, ph) ← issueWord x s
    let locks := cmdLocks s s.ctx.prv.gtid op x
    if !canIssue s locks then waitIn (advance s)
    else
      let s ← match ph with
        | none => .ok s
        | some ph => storePhys ph (bytesOfNat 8 1) 0xFF s
      .ok (wg (register op x (ph.map (fun p => (p.pa, p.dev))) locks s) d 0)

/-- `XCOPY` (R223). -/
def execXcopy (fm : Form) (d a : Nat) (s : State) : Out := runOne (fm.len 28) (command .copy d a) s

/-- `XCOPY2` (R223). -/
def execXcopy2 (fm : Form) (d a : Nat) (s : State) : Out := runOne (fm.len 28) (command .copy2 d a) s

/-- `XGATH` (R224). -/
def execXgath (fm : Form) (d a : Nat) (s : State) : Out := runOne (fm.len 28) (command .gather d a) s

/-- `XSCAT` (R224). -/
def execXscat (fm : Form) (d a : Nat) (s : State) : Out := runOne (fm.len 28) (command .scatter d a) s

/-- `XFILL` (R225). -/
def execXfill (fm : Form) (d a : Nat) (s : State) : Out := runOne (fm.len 28) (command .fill d a) s

/-- `XWARM` (R226). -/
def execXwarm (fm : Form) (llc : Bool) (d a : Nat) (s : State) : Out := runOne (fm.len 28) (command (.warm llc) d a) s

/-- `XCOLL.ar` (R227). -/
def execXcollAr (fm : Form) (d a : Nat) (s : State) : Out := runOne (fm.len 28) (command (.collective 0) d a) s

/-- `XCOLL.ag` (R227). -/
def execXcollAg (fm : Form) (d a : Nat) (s : State) : Out := runOne (fm.len 28) (command (.collective 1) d a) s

/-- `XCOLL.rs` (R227). -/
def execXcollRs (fm : Form) (d a : Nat) (s : State) : Out := runOne (fm.len 28) (command (.collective 2) d a) s

/-- `XCOLL.bc` (R227). -/
def execXcollBc (fm : Form) (d a : Nat) (s : State) : Out := runOne (fm.len 28) (command (.collective 3) d a) s

/-- A command counts in an `XDRAIN` class (R232). -/
def inClass (k : Nat) (c : Cmd) : Bool :=
  match c.op with
  | .warm _ => false
  | .collective _ => decide (k = 2)
  | _ =>
    match c.classes with
    | none => true
    | some l => l.contains k

/-- Class number of `XDRAIN` (R89). -/
def mcNum : Mc → Nat
  | .loc => 0
  | .pkg => 1
  | .dev => 2
  | .host => 3

/-- A write is of a command of a thread that has ended. -/
def ofEnded (s : State) (gtid g : Word) (cmd : Option Nat) : Bool :=
  decide (g = gtid) && cmd.any (fun k => s.copy.cmds.all (fun c => decide (c.id ≠ k)))

/-- The writes of a thread's commands that have ended have been performed everywhere (R262). -/
def endedPerformed (gtid : Word) (s : State) : Bool :=
  s.coh.wts.all (fun w => !ofEnded s gtid w.gtid w.cmd) &&
  s.fab.msgs.all (fun m => decide (m.src ≠ s.pkg) || !ofEnded s gtid m.gtid m.cmd)

/-- One such write gets on. -/
def progressEnded (gtid : Word) (s : State) : State :=
  match s.coh.wts.find? (fun w => ofEnded s gtid w.gtid w.cmd) with
  | some w => if w.applied then ackWt w.die w.line s else applyWt w.die w.line s
  | none => progress s

/-- `XDRAIN` (R232): the accesses of the commands it waits for, their completion words among them, are performed at sys
scope before it retires (R262). -/
def execXdrain (fm : Form) (mc : Mc) (s : State) : Out :=
  runOne (fm.len 28) (fun s =>
    if (cmdsOf s s.ctx.prv.gtid).any (inClass (mcNum mc)) then waitIn (advance s)
    else if !endedPerformed s.ctx.prv.gtid s then waitIn (progressEnded s.ctx.prv.gtid s)
    else if mc = .pkg then clearing s else .ok s) s

/-- `XCANCEL` (R233): once the thread's stores have been performed, each command it names stops and writes
CANCELLED. -/
def execXcancel (fm : Form) (d a : Nat) (s : State) : Out :=
  runOne (fm.len 28) (fun s => do
    let _ ← need s [.g a]
    if !threadStoresDone s.ctx.prv.gtid s then waitIn { progress s with ctx.aux.sent := .working }
    else
      let l := (cmdsOf s s.ctx.prv.gtid).filter (fun c => decide (rg s a = 0 ∨ c.desc.cw = rg s a))
      if l.any (fun c => wordHeld c s) then waitIn { progress s with ctx.aux.sent := .working } else
      let s1 := l.foldl (fun s c => finishCmd c 5 0 (cancelCmd c s)) s
      .ok (wg s1 d (BitVec.ofNat 64 l.length))) s

end Sys2Proof.Machine
end

