-- ==== Sys2Proof/Machine/Threads.lean ====
section
/-! DEFINITION. Teams, their threads and the distributors: launch records, admission and placement, run queues,
chunks, barriers, and the end of a thread (R19 to R34, R76, R149 to R154, R290, R352 to R369). -/

namespace Sys2Proof.Machine

/-! ## Launch records -/

/-- The level descriptors of a record, all eight (R25). -/
def recLevels (b : List Byte) : List Level :=
  (List.range 8).map (fun i =>
    ⟨numAt b (0x40 + 16 * i) 4, numAt b (0x44 + 16 * i) 1, numAt b (0x45 + 16 * i) 1, decide (numAt b (0x46 + 16 * i) 1 ≠ 0)⟩)

/-- Bytes of a record are zero. -/
def zeroBytes (b : List Byte) (off n : Nat) : Bool := ((b.drop off).take n).all (· = 0)

/-- The levels in use. -/
def usedLevels (b : List Byte) : List Level := (recLevels b).take (numAt b 2 1)

/-- Group size at a level: the product of the extents up to it (R25). -/
def spanOf (l : List Level) (i : Nat) : Nat := ((l.take (i + 1)).map (·.extent)).foldl (· * ·) 1

/-- Team size (R27). -/
def teamSize (l : List Level) : Nat := (l.map (·.extent)).foldl (· * ·) 1

/-- The domain a level takes: its own, or that of the nearest enclosing level that has one, or the package (R26). -/
def domainOf (l : List Level) (i : Nat) : Nat :=
  (((l.drop i).find? (fun x => x.domain ≠ 0)).map (·.domain)).getD 4

/-- Packages of the node domain: this one and the others present (R412). -/
def nodePackages (s : State) : Nat := ((s.fab.present.filter (fun p => decide (p ≠ s.pkg))).dedup).length + 1

/-- Resident capacity of an instance of a domain (R25). The system holds at least the node. DEDUCED, log 26. -/
def capacity (s : State) : Nat → Nat
  | 1 => 2
  | 2 => 16
  | 3 => 128
  | 5 => 512 * nodePackages s
  | 6 => 512 * max (nodePackages s) Config.systemPackages
  | _ => 512

/-- The narrowest scope that serves a domain (R26). -/
def scopeFloor (d : Nat) : Nat := d - 2

/-- Neighbouring levels do not narrow outward (R26). -/
def widening : List Level → Bool
  | x :: y :: l => decide (x.domain ≤ y.domain) && widening (y :: l)
  | _ => true

/-- The instance of a domain that a core lies in. -/
def instOf (core : Nat) : Nat → Nat
  | 1 => core
  | 2 => core / 8
  | 3 => core / 64
  | _ => 0

/-- KIND 2 entries of a core's slot table for a partition. -/
def kind2 (s : State) (core pid : Nat) : Nat :=
  ((getCore s core).slottab.toList.filter (fun w => decide (bits w 62 2 = 2 ∧ bits w 0 12 = pid))).length

/-- Banks that the slot tables of the other packages of a node or system domain can make available: a free value within
what they hold (R28). DESIGN CHOICE, log 78. -/
def banksElsewhere (s : State) (d : Nat) : Nat :=
  if d < 5 then 0 else Config.freeNat (draw s 47) % (capacity s d - 512 + 1)

/-- Banks that the entries of an instance can make available (R28). -/
def banksIn (s : State) (pid d i : Nat) : Nat :=
  (coreNumbers.filter (fun c => decide (instOf c d = i))).foldl (fun n c => n + min 2 (kind2 s c pid)) (banksElsewhere s d)

/-- Check 8 of R28. -/
def check8 (s : State) (pid : Nat) (l : List Level) : Bool :=
  if l.any (·.bar) then
    (List.range l.length).all (fun i =>
      !((l[i]?).map (·.bar)).getD false ||
        coreNumbers.any (fun c => decide (spanOf l i ≤ banksIn s pid (domainOf l i) (instOf c (domainOf l i)))))
  else coreNumbers.any (fun c => decide (0 < kind2 s c pid))

/-- Number of the first check of R28 that a record fails, or 0. -/
def launchCheck (s : State) (c : Ctx) (b : List Byte) : Nat :=
  let n := numAt b 2 1
  let l := usedLevels b
  if numAt b 0 2 ≠ 1 ∨ !(zeroBytes b 3 1 && zeroBytes b 5 3 && zeroBytes b 0x2C 4 && zeroBytes b 0x38 8 &&
      zeroBytes b 0xC0 64 && (List.range 8).all (fun i => zeroBytes b (0x47 + 16 * i) 9)) then 1
  else if n = 0 ∨ 8 < n ∨ !zeroBytes b (0x40 + 16 * n) (16 * (8 - n)) then 2
  else if 15 < numAt b 4 1 ∨ !(l.all (fun x => decide (1 ≤ x.extent ∧ x.extent ≤ 65536 ∧ x.domain ≤ 6 ∧ x.scope ≤ 4))) ∨
      !((List.range n).all (fun i => decide (numAt b (0x46 + 16 * i) 1 ≤ 1))) then 3
  else if !widening l ∨ !(l.all (fun x => decide (scopeFloor x.domain ≤ x.scope))) then 4
  else if (List.range n).any (fun i => ((l[i]?).map (·.bar)).getD false && decide (capacity s (domainOf l i) < spanOf l i)) then 5
  else if bits c.prv.teamlim 0 24 < teamSize l then 6
  else if numAt b 8 1 % 2 ≠ 0 ∨ numAt b 0x30 1 % 8 ≠ 0 ∨ numAt b 0x28 4 = 0 ∨ 2 ^ 24 < numAt b 0x28 4 ∨
      2 ^ 48 < numAt b 0x20 8 then 7
  else if !check8 s c.pid l then 8
  else 0

/-- The widest scope among a record's levels (R151). -/
def widestScope (l : List Level) : Nat := l.foldl (fun a x => max a x.scope) 0

/-- Initial context of a spawned thread but for its rank and GTID, in whose place the spawner's stands (R76, R290). -/
def spawnBase (c : Ctx) (b : List Byte) : Ctx :=
  let x := Ctx.reset 0 (dwordAt b 8)
  let t (y : TrapSet) : TrapSet := { TrapSet.reset with deleg := y.deleg, tvec := y.tvec }
  let g := (x.regs.g.setIfInBounds 2 (dwordAt b 0x10)).setIfInBounds 4 (BitVec.ofNat 64 (teamSize (usedLevels b)))
  { x with
    regs := { x.regs with g := g }
    ctl := { x.ctl with
      tctl := putBits x.ctl.tctl 15 1 (bits c.prv.partid 16 1)
      hbase := c.ctl.hbase, hlimit := c.ctl.hlimit, hoffs := c.ctl.hoffs }
    prv := { x.prv with
      status := c.prv.status &&& 0x70, sup := t c.prv.sup, hyp := t c.prv.hyp, mon := t c.prv.mon
      gtid := c.prv.gtid, ptbase := c.prv.ptbase, teamlim := c.prv.teamlim, watchf := c.prv.watchf, partid := c.prv.partid
      pwbase := c.prv.pwbase, pwlimit := c.prv.pwlimit } }

/-- The context of a member as it begins. -/
def memberCtx (t : Team) (m : Member) : Ctx :=
  { t.base with
    regs := { t.base.regs with g := t.base.regs.g.setIfInBounds 3 (BitVec.ofNat 64 m.rank) }
    prv := { t.base.prv with gtid := m.gtid }
    aux := { t.base.aux with area := m.area } }

/-! ## The team table -/

/-- The team of a thread. -/
def teamOf (s : State) (gtid : Word) : Option Team :=
  s.sched.teams.find? (fun t => t.members.any (fun m => decide (m.gtid = gtid)))

/-- Replaces a team of the same number. -/
def putTeam (t : Team) (s : State) : State :=
  { s with sched.teams := s.sched.teams.map (fun x => if x.id = t.id then t else x) }

/-- A member of a team by its GTID. -/
def memberOf (t : Team) (gtid : Word) : Option Member := t.members.find? (fun m => m.gtid = gtid)

/-- Changes the member of a GTID. -/
def onMember (gtid : Word) (f : Member → Member) (t : Team) : Team :=
  { t with members := t.members.map (fun m => if m.gtid = gtid then f m else m) }

/-- A member moves to a life state, unless it has ended, which it stays (R21). -/
def Member.goes (l : Life) (m : Member) : Member := if m.life = .ended then m else { m with life := l }

/-- Changes the member record of a thread, if it belongs to a team. -/
def noteMember (gtid : Word) (f : Member → Member) (s : State) : State :=
  match teamOf s gtid with
  | none => s
  | some t => putTeam (onMember gtid f t) s

/-- The master takes a record: a team with its members, all Pending, which take serial numbers in rank order (R19, R28,
R352). DESIGN CHOICE, log 77. -/
def makeTeam (c : Ctx) (b : List Byte) (donew : Option (Nat × Word)) (id : Nat) (s : State) : State :=
  let l := usedLevels b
  let n := teamSize l
  let t : Team :=
    { id := id, prio := min (numAt b 4 1) (bits c.prv.teamlim 24 4)
      istart := dwordAt b 0x18, icount := numAt b 0x20 8, chunk := numAt b 0x28 4, donew := donew, levels := l
      base := spawnBase c b
      members := (List.range n).map (fun r => ⟨r, gtidOf s (s.sched.serial + r), .pending, List.replicate l.length 0, none, false, none⟩)
      next := 0, handouts := [], reissue := [], killed := false, reissued := false, noted := false, ending := false }
  { s with sched.teams := s.sched.teams ++ [t], sched.serial := s.sched.serial + n }

/-- A number no team of the table has. -/
def freshTeam (s : State) : Nat := s.sched.teams.foldl (fun n t => max n (t.id + 1)) 0

/-- The master takes a `TSPAWN`: a master stands, the package's stage allows it, and the table has room (R150,
R352, R367, R426). -/
def takesSpawn (s : State) : Bool :=
  !s.sched.election && decide (s.sched.teams.length < 1024 ∧ bits s.boot.bootst 0 4 = 6)

/-- A distributor writes a team's completion word, for the team's partition (R34, R289). One that cannot be delivered is
reported to the thread that launched the team (R392, R413). -/
def agentStore (t : Team) (pa : Nat) (d : List Byte) (s : State) : State :=
  if deadHome s pa || (isHostWin pa && !linkUpAt s pa) then loseStore (s.cur / 64) t.base.prv.gtid t.base.pid pa s
  else if localMem s pa then homeWrite pa d 0xFF false false s
  else performStore s.cur ⟨0, t.base.pid, pa, d, 0xFF, false⟩ s

/-- The messages to the package that owns a team's completion word are not too many (R390). -/
def donewRoom (s : State) (t : Team) : Bool := t.donew.all (fun x => decide (ownerOf s x.1 = s.pkg) || !pairFull s x.1)

/-- A completion-word write of a team to another package has not been performed there (R34). -/
def donewPending (s : State) (t : Team) : Bool :=
  match t.donew with
  | none => false
  | some (pa, _) => s.fab.msgs.any (fun m => decide (m.src = s.pkg ∧ m.gtid = 0) && !m.applied &&
      (match m.rq with
       | .write a _ _ => decide (a = pa)
       | _ => false))

/-- The acceptance has been recorded by every live distributor: DONEW = 1 (R34, R353). -/
def recordAcceptance (id : Nat) (s : State) : State :=
  match s.sched.teams.find? (fun t => t.id = id) with
  | none => s
  | some t =>
    let s1 := putTeam { t with noted := true } s
    match t.donew with
    | none => s1
    | some (pa, _) => agentStore t pa (bytesOfNat 8 1) s1

/-! ## Chunks -/

/-- Chunks of a team's index space (R29). -/
def chunkCount (t : Team) : Nat := (t.icount + t.chunk - 1) / t.chunk

/-- First index and length of a chunk (R29). -/
def chunkAt (t : Team) (j : Nat) : Word × Word :=
  (t.istart + BitVec.ofNat 64 (j * t.chunk), BitVec.ofNat 64 (min t.chunk (t.icount - j * t.chunk)))

/-- Hands a thread its next chunk: its previous one is complete; reissued chunks come first (R29, R30, R154,
R369). -/
def giveChunk (gtid : Word) (t : Team) : Team × Word × Word :=
  let h := t.handouts.filter (fun x => decide (x.gtid ≠ gtid))
  match t.reissue with
  | j :: r => ({ t with handouts := h ++ [⟨j, gtid⟩], reissue := r, reissued := true }, chunkAt t j)
  | [] =>
    if t.next < chunkCount t then ({ t with handouts := h ++ [⟨t.next, gtid⟩], next := t.next + 1 }, chunkAt t t.next)
    else ({ t with handouts := h }, t.istart + BitVec.ofNat 64 t.icount, 0)

/-! ## Requests -/

/-- The oldest request that matches, taken out of the list. -/
def takeRequest (p : Request → Bool) (s : State) : Option (Request × State) :=
  match s.sched.requests.find? p with
  | none => none
  | some r => some (r, { s with sched.requests := s.sched.requests.erase r })

/-- A request is a `TSPAWN`'s. -/
def Request.isSpawn : Request → Bool
  | .spawn _ _ _ _ => true
  | _ => false

/-- A request is an acceptance to record. -/
def Request.isAccepted : Request → Bool
  | .accepted _ _ _ => true
  | _ => false

/-- A request is a `TINFO`'s. -/
def Request.isInfo : Request → Bool
  | .info _ _ _ => true
  | _ => false

/-- The master takes the oldest `TSPAWN` request (R352). -/
def serveSpawn (s : State) : State :=
  if !takesSpawn s then s
  else
    match takeRequest Request.isSpawn s with
    | some (.spawn core g b donew, s1) =>
      (match findContext s1 g with
       | none => s1
       | some c =>
         let id := freshTeam s1
         let s2 := makeTeam c b donew id s1
         { s2 with sched.requests := s2.sched.requests ++ [.accepted core g id] })
    | _ => s

/-- The team of an acceptance waits for nothing: it is not recorded yet, or DONEW = 1 has been performed. -/
def acceptable (s : State) (r : Request) : Bool :=
  match r with
  | .accepted _ _ id =>
    (s.sched.teams.find? (fun t => t.id = id)).all (fun t => if t.noted then !donewPending s t else donewRoom s t)
  | _ => false

/-- Every live distributor records the oldest acceptance; its `TSPAWN` is answered once DONEW = 1 has been performed
(R150, R353). -/
def serveAcceptance (s : State) : State :=
  if s.sched.election then s
  else
    match takeRequest (acceptable s) s with
    | some (.accepted c g id, s1) =>
      let s2 := if (s1.sched.teams.find? (fun t => t.id = id)).all (·.noted) then s1 else recordAcceptance id s1
      if (s2.sched.teams.find? (fun t => t.id = id)).any (donewPending s2)
      then { s2 with sched.requests := .accepted c g id :: s2.sched.requests }
      else answerAtomic g (.spawnAnswer 0) s2
    | _ => s

/-- The master answers the oldest `TINFO` request (R154). -/
def serveInfo (s : State) : State :=
  if s.sched.election then s
  else
    match takeRequest Request.isInfo s with
    | some (.info _ g id, s1) =>
      (match s1.sched.teams.find? (fun t => t.id = id) with
       | none => s1
       | some t =>
         let (t1, first, len) := giveChunk g t
         answerAtomic g (.infoAnswer first len) (putTeam t1 s1))
    | _ => s

/-! ## Placement -/

/-- Partitions of the threads that are to have an empty bank of a core: its reserved members and the restores under way
there (R357, R361). -/
def comingTo (s : State) (core : Nat) : List (Option Nat) :=
  ((s.sched.reserved.filter (fun r => decide (r.1 = core))).map (fun r => pidOf s r.2)) ++
  ((s.sched.restores.filter (fun r => decide (r.core = core))).map (fun r => some r.pid))

/-- A core of a live die that has been released takes threads. -/
def takesThreads (s : State) (core : Nat) : Bool := (getCore s core).released && dieLive s (core / 64)

/-- Banks of a core available to a partition (R356). -/
def availBanks (s : State) (core pid : Nat) : Nat :=
  if !takesThreads s core then 0
  else
    let coming := comingTo s core
    let own := (residents s core).filter (fun x => decide (x.pid = pid))
    min (2 - ((residents s core).length + coming.length))
      (kind2 s core pid - (own.length + (coming.filter (· = some pid)).length))

/-- A team with the members whose restores are under way at the cores they are restored to (R26, R361). -/
def seated (s : State) (t : Team) : Team :=
  { t with members := t.members.map (fun m =>
      match s.sched.restores.find? (fun r => r.gtid = m.gtid) with
      | some r => { m with place := some r.core, life := .resident }
      | none => m) }

/-- Placing a member of a rank on a core keeps every group inside one instance of its level's domain (R26). With
`least` = 2, the core stands for its cluster, as the place of a queued member does. -/
def fits (t : Team) (rank core least : Nat) : Bool :=
  (List.range t.levels.length).all (fun i =>
    let d := ((t.levels[i]?).map (·.domain)).getD 0
    let n := spanOf t.levels i
    decide (d = 0) || t.members.all (fun m =>
      decide (m.rank / n ≠ rank / n ∨ m.rank = rank) ||
        (match m.place with
         | none => true
         | some c =>
           let e := max d (if m.life = .queued then 2 else least)
           decide (instOf c e = instOf core e))))

/-- Cores in the order in which members are placed (R357): clusters by decreasing available banks; in each, cores
with both banks first, then second banks. A core with one bank comes between these. DESIGN CHOICE, log 104. -/
def placeOrder (s : State) (pid : Nat) (cores : List Nat) : List Nat :=
  let av (c : Nat) : Nat := availBanks s c pid
  let total (k : Nat) : Nat := (cores.filter (fun c => decide (c / 8 = k))).foldl (fun n c => n + av c) 0
  let clusters := (cores.map (· / 8)).dedup
  let ranked := (List.range 17).flatMap (fun i => clusters.filter (fun k => decide (total k = 16 - i)))
  ranked.flatMap (fun k =>
    let l := cores.filter (fun c => decide (c / 8 = k))
    l.filter (fun c => decide (av c = 2)) ++ l.filter (fun c => decide (av c = 1)) ++ l.filter (fun c => decide (av c = 2)))

/-- Of units that lie at cores, `ratio` of one instance of a domain make a unit of the next level, at one of these
cores. -/
def packUnits (units : List Nat) (d ratio : Nat) : List Nat :=
  ((units.map (fun c => instOf c d)).dedup).flatMap (fun i =>
    let l := units.filter (fun c => decide (instOf c d = i))
    l.take (l.length / ratio))

/-- The levels of a team with a domain up to a level, innermost first: index, domain and how many units of the level below
make one of its groups. A group is placed inside the instance chosen for it, so that the wider levels ask for no room
(R356, R357). -/
def packLevels (l : List Level) (top : Nat) : List (Nat × Nat × Nat) :=
  let own := (List.range (min (top + 1) l.length)).filter (fun i => decide (((l[i]?).map (·.domain)).getD 0 ≠ 0))
  (List.zip own (1 :: own.map (spanOf l))).map (fun x => (x.1, ((l[x.1]?).map (·.domain)).getD 0, spanOf l x.1 / x.2))

/-- A member of a rank begins a group at a level: no other member of it has a place. -/
def beginsGroup (t : Team) (rank i : Nat) : Bool :=
  let n := spanOf t.levels i
  t.members.all (fun m => decide (m.rank / n ≠ rank / n ∨ m.rank = rank ∨ m.place = none))

/-- A core's instances have room for the groups that a member of a rank begins, given the banks left (R26, R357). -/
def roomFor (t : Team) (rank core : Nat) : List (Nat × Nat × Nat) → List Nat → Bool
  | [], _ => true
  | (i, d, ratio) :: ls, units =>
    let up := packUnits units d ratio
    (!beginsGroup t rank i || up.any (fun c => decide (instOf c d = instOf core d))) && roomFor t rank core ls up

/-- Assigns ranks to the first cores of a pool of banks that they fit and whose instances have room for the groups they
begin up to a level (R357). -/
def assignRanks (top : Nat) : List Nat → List Nat → Team → Option (Team × List (Nat × Nat))
  | [], _, t => some (t, [])
  | r :: rs, pool, t =>
    match pool.find? (fun c => fits t r c 1 && roomFor t r c (packLevels t.levels top) pool) with
    | none => none
    | some c =>
      let t1 := { t with members := t.members.map (fun m => if m.rank = r then { m with place := some c } else m) }
      (assignRanks top rs (pool.erase c) t1).map (fun x => (x.1, (r, c) :: x.2))

/-- Free save areas of a partition. -/
def freeAreas (s : State) (pid : Nat) : Nat :=
  match s.sched.sapools.find? (fun x => x.1 = pid) with
  | none => 0
  | some (_, r) => ringFree s r

/-- Takes a save area for a thread (R359). -/
def takeArea (pid : Nat) (s : State) : Option (Nat × State) :=
  match s.sched.sapools.find? (fun x => x.1 = pid) with
  | none => none
  | some (_, r) => ringTake r s

/-- The save area a member has, as one whose place was lost does, or takes (R359, R368). -/
def areaFor (pid : Nat) (m : Member) (s : State) : Option (Nat × State) :=
  match m.area with
  | some a => some (a, s)
  | none => takeArea pid s

/-- A restore applies a listed stop and removes it from the package stop list (R402). -/
def applyStop (c : Ctx) (s : State) : Ctx × State :=
  match s.dbg.stops.find? (fun x => x.1 = c.prv.gtid) with
  | none => (c, s)
  | some x => ({ c with prv.status := putBits c.prv.status 7 1 (if x.2 then 1 else 0) },
      { s with dbg.stops := s.dbg.stops.filter (fun y => decide (y.1 ≠ c.prv.gtid)) })

/-- Puts a context into the lodge of a core. -/
def putLodge (core : Nat) (c : Ctx) (s : State) : State :=
  let r := applyStop c s
  setCore r.2 core { getCore r.2 core with lodge := some r.1 }

/-- A thread has a core of its own from which it counts for the places of its groups, until it leaves it or ends (R21,
R26). -/
def Member.seat (core : Nat) (m : Member) : Member :=
  if m.life = .ended then m else { m with life := .resident, begun := true, place := some core }

/-- What an acquire by a thread that enters a die does, with a clearing or without (R151, R253). -/
def acquireOn (g : Word) (core : Nat) (clears : Bool) (s : State) : State :=
  heardBy g (core / 64) (if clears then clearingNow (core / 64) s else s)

/-- A thread enters the lodge of a core (R357). A thread of a team begins with an acquire at its team's widest scope
(R151); one that resumes on another core than the one it left has acquired at sys scope (R253). A thread that has ended
stays so (R21). What it has passed since a change of code stays passed (R300). -/
def enterBank (resumes : Bool) (core : Nat) (c : Ctx) (s : State) : State :=
  let g := c.prv.gtid
  let saved := s.xlat.saved.find? (fun x => x.gtid = g)
  let moved := resumes && decide (saved.map (·.core) ≠ some core)
  let c1 := { c with aux.passedAt := max c.aux.passedAt ((saved.map (·.passedAt)).getD 0) }
  let s1 := putLodge core c1 { s with xlat.saved := s.xlat.saved.filter (fun x => decide (x.gtid ≠ g)) }
  match teamOf s1 g with
  | none => if moved then acquireOn g core true s1 else s1
  | some t =>
    let begun := ((memberOf t g).map (·.begun)).getD true
    let s2 := putTeam (onMember g (Member.seat core) t) s1
    if begun then (if moved then acquireOn g core true s2 else s2)
    else acquireOn g core (decide (2 ≤ widestScope t.levels)) s2

/-- A member waits for a bank of a core that is reserved for it: it stays Pending until it has it (R21, R357). -/
def reserveBank (core : Nat) (g : Word) (s : State) : State :=
  noteMember g (fun m => { m with place := some core }) { s with sched.reserved := s.sched.reserved ++ [(core, g)] }

/-- Places a Pending member on a core: it takes a save area, which is marked resident (R344, R359). DEDUCED, log 25. -/
def placeMember (id rank core : Nat) (s : State) : State :=
  match s.sched.teams.find? (fun t => t.id = id) with
  | none => s
  | some t =>
    match t.members.find? (fun m => m.rank = rank) with
    | none => s
    | some m =>
      match areaFor t.base.pid m s with
      | none => s
      | some (a, s1) =>
        let m1 := { m with area := some a }
        let s2 := putTeam (onMember m.gtid (fun _ => m1) t) (setAreaFlags a 0x20001 s1)
        if (getCore s2 core).lodge.isNone then enterBank false core (memberCtx t m1) s2 else reserveBank core m.gtid s2

/-- A reserved member enters the lodge of its core once that is empty (R357). -/
def takeReserved (core : Nat) (s : State) : State :=
  match s.sched.reserved.find? (fun r => r.1 = core) with
  | none => s
  | some r =>
    if (getCore s core).lodge.isSome then s
    else
      match teamOf s r.2 with
      | none => { s with sched.reserved := s.sched.reserved.erase r }
      | some t =>
        match memberOf t r.2 with
        | none => { s with sched.reserved := s.sched.reserved.erase r }
        | some m =>
          enterBank false core (memberCtx t m) { s with sched.reserved := s.sched.reserved.erase r }

/-- A member that is neither placed nor has a bank reserved for it. -/
def Member.waits (m : Member) : Bool := decide (m.life = .pending ∧ m.place = none)

/-- The members of a group that are still to be placed. -/
def groupRanks (t : Team) (start span : Nat) : List Nat :=
  (t.members.filter (fun m => decide (start ≤ m.rank ∧ m.rank < start + span) && m.waits)).map (·.rank)

/-- Cores that can take a member of a rank. -/
def candidates (s : State) (t : Team) (rank : Nat) : List Nat :=
  coreNumbers.filter (fun c => decide (0 < availBanks s c t.base.pid) && fits (seated s t) rank c 1)

/-- The instance of a domain with the most available banks, the lowest core on a tie (R356), as its cores. -/
def bestInstance (s : State) (pid d : Nat) (cores : List Nat) : List Nat :=
  let insts := (cores.map (fun c => instOf c d)).dedup
  let total (i : Nat) : Nat := (cores.filter (fun c => decide (instOf c d = i))).foldl (fun n c => n + availBanks s c pid) 0
  let best := insts.foldl (fun (b : Option Nat) i =>
    match b with
    | none => some i
    | some j => if total j < total i then some i else some j) none
  match best with
  | none => []
  | some i => cores.filter (fun c => decide (instOf c d = i))

/-- Assigns a list of ranks, a group of a level, inside the best instance of the level's domain (R356, R357). -/
def assignGroup (s : State) (t : Team) (lvl : Nat) (ranks : List Nat) : Option (List (Nat × Nat)) :=
  match ranks with
  | [] => none
  | r :: _ =>
    let cores := bestInstance s t.base.pid (domainOf t.levels lvl) (candidates s t r)
    if cores.foldl (fun n c => n + availBanks s c t.base.pid) 0 < ranks.length then none
    else (assignRanks lvl ranks (placeOrder s t.base.pid cores) (seated s t)).map (·.2)

/-- The outermost level with a barrier (R356). -/
def barLevel (t : Team) : Option Nat :=
  ((List.range t.levels.length).filter (fun i => ((t.levels[i]?).map (·.bar)).getD false)).getLast?

/-- Teams of a partition whose acceptance has been recorded (R353). -/
def readyTeams (s : State) (pid : Nat) : List Team :=
  s.sched.teams.filter (fun t => decide (t.base.pid = pid) && t.noted)

/-- A Pending group: team, level and first rank. -/
structure PendGroup where
  team : Team
  level : Nat
  start : Nat
deriving DecidableEq, Repr

/-- Pending groups of a partition in order of arrival. -/
def pendGroups (s : State) (pid : Nat) : List PendGroup :=
  (readyTeams s pid).flatMap (fun t =>
    match barLevel t with
    | none => []
    | some i =>
      let n := spanOf t.levels i
      ((List.range (teamSize t.levels / n)).filter (fun k => !(groupRanks t (k * n) n).isEmpty)).map (fun k => ⟨t, i, k * n⟩))

/-- The first group in order of priority, then of arrival (R356). -/
def firstGroup (l : List PendGroup) : Option PendGroup :=
  l.foldl (fun b g =>
    match b with
    | none => some g
    | some x => if x.team.prio < g.team.prio then some g else some x) none

/-- The members of some ranks that have no save area yet. -/
def areasWanted (t : Team) (ranks : List Nat) : Nat :=
  (t.members.filter (fun m => ranks.contains m.rank && m.area.isNone)).length

/-- Admits the first Pending group of a partition, which holds back every later one (R356, R359), also while DONEW = 1 is
still to be performed (R34). -/
def admitGroup (pid : Nat) (s : State) : Option State :=
  match firstGroup (pendGroups s pid) with
  | none => none
  | some g =>
    let ranks := groupRanks g.team g.start (spanOf g.team.levels g.level)
    if donewPending s g.team || decide (freeAreas s pid < areasWanted g.team ranks) then none
    else (assignGroup s g.team g.level ranks).map (fun l =>
      l.foldl (fun s x => placeMember g.team.id x.1 x.2 s) s)

/-! ## Run queues -/

/-- Address of a record of a run queue (R360). -/
def recAddr (q : RunQueue) (i : Nat) : Nat := q.addr + 32 * i

/-- A field of a run-queue record. -/
def recField (s : State) (a off n : Nat) : Nat := natOfBytes (memReadN s.mem (a + off) n)

/-- STATE of a record (R360). -/
def recState (s : State) (a : Nat) : Nat := recField s a 0 1 % 4

/-- Records of a queue in a state, in index order. -/
def recsIn (s : State) (q : RunQueue) (st : Nat) : List Nat :=
  ((List.range q.count).map (recAddr q)).filter (fun a => decide (recState s a = st))

/-- Sets STATE of a record. -/
def setRec (a st : Nat) (s : State) : State := agentWrite a (bytesOfNat 4 st) s

/-- The run queue of a partition on a cluster. -/
def queueOf (s : State) (pid cluster : Nat) : Option RunQueue :=
  s.sched.runqs.find? (fun q => q.pid = pid ∧ q.cluster = cluster)

/-- A member becomes Queued: its context goes to its save area and a record to the queue (R358, R360). -/
def enqueue (id rank : Nat) (q : RunQueue) (s : State) : Option State :=
  match s.sched.teams.find? (fun t => t.id = id), recsIn s q 0 with
  | some t, a :: _ =>
    (match (t.members.find? (fun m => m.rank = rank)).bind (fun m => (areaFor t.base.pid m s).map (fun x => (m, x))) with
     | some (m, area, s1) =>
       let m1 := { m with area := some area, life := .queued, place := some (q.cluster * 8) }
       let s2 := putTeam (onMember m.gtid (fun _ => m1) t) (spillTo (memberCtx t m1) area s1)
       let s3 := agentWrite (a + 8) (bytesOfNat 8 area ++ bytesOfNat 8 (bits m.gtid 0 48) ++ bytesOfNat 8 s.cyc) s2
       some (agentWrite a (bytesOfNat 4 1 ++ bytesOfNat 4 (t.prio % 16)) s3)
     | none => none)
  | _, _ => none

/-- Clusters on which a thread may queue, the fewest queued records first (R358). -/
def queueFor (s : State) (t : Team) (rank : Nat) : Option RunQueue :=
  let qs := (List.range 32).filterMap (fun k =>
    if fits (seated s t) rank (k * 8) 2 then (queueOf s t.base.pid k).filter (fun q => !(recsIn s q 0).isEmpty) else none)
  qs.foldl (fun b q =>
    match b with
    | none => some q
    | some x => if (recsIn s q 1).length < (recsIn s x 1).length then some q else some x) none

/-- Places one thread of a team without a barrier: a bank if there is one, else a run queue (R358). Of several banks it
takes the first in R357's order. DESIGN CHOICE, log 105. -/
def placeOne (t : Team) (rank : Nat) (s : State) : Option State :=
  if freeAreas s t.base.pid < areasWanted t [rank] then none
  else
    match placeOrder s t.base.pid (candidates s t rank) with
    | c :: _ => some (placeMember t.id rank c s)
    | [] => (queueFor s t rank).bind (fun q => enqueue t.id rank q s)

/-- Places the first Pending thread of the partition's teams without a barrier that can be placed. -/
def placeLoose (pid : Nat) (s : State) : Option State :=
  ((readyTeams s pid).filter (fun t => (barLevel t).isNone && !donewPending s t)).findSome? (fun t =>
    match t.members.find? Member.waits with
    | none => none
    | some m => placeOne t m.rank s)

/-- One placement of a partition: its first group, else one loose thread. -/
def admitOne (pid : Nat) (s : State) : Option State :=
  match admitGroup pid s with
  | some s1 => some s1
  | none => placeLoose pid s

/-! ## Barriers -/

/-- Counts an arrival of a member at a level (R31). -/
def countArrival (gtid : Word) (lvl : Nat) (t : Team) : Team :=
  onMember gtid (fun m => { m with arrived := setPad 0 lvl ((m.arrived[lvl]?).getD 0 + 1) m.arrived }) t

/-- A thread's barrier at a level is complete: every member of its group has arrived as often, or has ended
(R31). -/
def barrierDone (t : Team) (gtid : Word) (lvl : Nat) : Bool :=
  match memberOf t gtid with
  | none => true
  | some x =>
    let n := spanOf t.levels lvl
    t.members.all (fun m => decide (m.rank / n ≠ x.rank / n) || decide (m.life = .ended) ||
      decide ((x.arrived[lvl]?).getD 0 ≤ (m.arrived[lvl]?).getD 0))

/-! ## The end of a thread -/

/-- Applies a change with another core as the current one. -/
def onCore (n : Nat) (f : State → State) (s : State) : State := switchTo (f (switchTo s n)) s.cur

/-- Removes a context from whichever bank holds it; where its pinned names overlapped others, these are undefined
(R439). -/
def vacate (gtid : Word) (s : State) : State :=
  coreNumbers.foldl (fun s n =>
    let s1 := match activeOf s n with
      | some c => if c.prv.gtid = gtid then clearActive { onCore n endOverlap s with coh := dropRequest n s.coh } n else s
      | none => s
    match (getCore s1 n).lodge with
    | some c => if c.prv.gtid = gtid then setCore s1 n { getCore s1 n with lodge := none } else s1
    | none => s1) s

/-- A save area is done with: no longer resident, and back in its ring unless poisoned (R359). -/
def releaseArea (pid : Nat) (area : Nat) (pooled : Bool) (s : State) : State :=
  let f := areaFlags s area
  let s1 := setAreaFlags area (f &&& ~~~(1#64 <<< 17)) s
  match s1.sched.sapools.find? (fun x => x.1 = pid) with
  | none => s1
  | some (_, r) => if pooled && !f.getLsbD 18 then ringGive r area s1 else s1

/-- A thread's outstanding chunk: complete, or to be reissued when its die was fenced off (R30, R369). -/
def closeChunks (gtid : Word) (lost : Bool) (t : Team) : Team :=
  let mine := (t.handouts.filter (fun x => decide (x.gtid = gtid))).map (·.chunk)
  let rest := t.handouts.filter (fun x => decide (x.gtid ≠ gtid))
  if lost then { t with handouts := rest, reissue := (t.reissue ++ mine).insertionSort (· ≤ ·) }
  else { t with handouts := rest }

/-- An atomic that a thread has sent and that has not been applied has no effect (R22): a message keeps its number. -/
def forgetAtomics (gtid : Word) (s : State) : State :=
  { s with
    coh.atomics := s.coh.atomics.filter (fun a => decide (a.gtid ≠ gtid))
    fab.msgs := s.fab.msgs.map (fun m =>
      match m.rq with
      | .atomic _ a n _ _ => if m.src = s.pkg ∧ m.gtid = gtid ∧ !m.applied then { m with rq := .read a n } else m
      | _ => m) }

/-- A thread ends (R22): its names, cellar entries, wayside entries and bank are released, an atomic that it has sent and
that has not been applied has no effect, its chunk is complete or
reissued, its save area returns, and every later barrier counts it as arrived. DEDUCED, log 107. -/
def endThread (gtid : Word) (killed lost : Bool) (s : State) : State :=
  let ctx := findContext s gtid
  let t := teamOf s gtid
  let m := t.bind (fun t => memberOf t gtid)
  let s1 := forgetAtomics gtid (vacate gtid (withdrawSpawn gtid s))
  let s2 := { s1 with
    coh.confirms := s1.coh.confirms.filter (fun c => decide (c.gtid ≠ gtid))
    xlat.saved := s1.xlat.saved.filter (fun x => decide (x.gtid ≠ gtid))
    sched.reserved := s1.sched.reserved.filter (fun r => decide (r.2 ≠ gtid))
    sched.requests := s1.sched.requests.filter (fun r =>
      match r with
      | .info _ g _ => decide (g ≠ gtid)
      | _ => true) }
  let s3 := match t with
    | none => s2
    | some t =>
      let t1 := closeChunks gtid lost (onMember gtid (fun m => { m with life := .ended, place := none }) t)
      putTeam { t1 with killed := t1.killed || killed } s2
  let pid := (t.map (fun t => t.base.pid)).getD ((ctx.map Ctx.pid).getD 0)
  let areas := ((m.bind (·.area)).toList ++ (ctx.bind (fun c => c.aux.area)).toList).dedup
  areas.foldl (fun s a => releaseArea pid a (decide (m.bind (·.area) = some a)) s) s3

/-- A run-queue record names a thread (R360). -/
def recNames (s : State) (gtid : Word) (a : Nat) : Bool := decide (recField s a 0x10 6 = bits gtid 0 48)

/-- The records of a thread that is Queued or being restored (R360). -/
def killRecs (gtid : Word) (s : State) : List Nat :=
  (s.sched.runqs.flatMap (fun q => (recsIn s q 1).filter (recNames s gtid))) ++
    ((s.sched.restores.map (·.record)).filter (recNames s gtid))

/-- A thread is killed in any state but Ended (R21, R22): a Queued thread's record leaves state 1, and its restore, if
one is under way, ends. -/
def killThread (gtid : Word) (lost : Bool) (s : State) : State :=
  let s1 := (killRecs gtid s).foldl (fun s a => setRec a 0 s)
    { s with sched.restores := s.sched.restores.filter (fun r => !recNames s gtid r.record) }
  endThread gtid true lost (killCmds gtid (if lost then 9 else 6) s1)

/-- Every thread of a team has ended and their stores have been performed (R34). -/
def teamOver (s : State) (t : Team) : Bool :=
  t.members.all (fun m => decide (m.life = .ended)) && t.members.all (fun m => threadStoresDone m.gtid s)

/-- The final completion word (R34). -/
def finalWord (t : Team) : Nat := if t.killed then (if t.reissued then 0x11 else 0x10) else 0

/-- A team may go on to its end: it is over, and its last completion-word write has been performed (R34). -/
def teamDone (s : State) (t : Team) : Bool := t.noted && teamOver s t && !donewPending s t && donewRoom s t

/-- The final write; once it has been performed, the team's entry is free (R34, R352). -/
def completeTeam (t : Team) (s : State) : State :=
  let free (s : State) : State := { s with sched.teams := s.sched.teams.filter (fun x => decide (x.id ≠ t.id)) }
  match t.donew with
  | none => free s
  | some (pa, _) =>
    if t.ending then free s
    else
      let s1 := agentStore t pa (bytesOfNat 8 (finalWord t)) s
      if donewPending s1 t then putTeam { t with ending := true } s1 else free s1

/-! ## The distributors' own steps -/

/-- The lowest live die. -/
def lowestLive (s : State) : Nat := ((List.range 4).find? (fun d => dieLive s d)).getD 0

/-- A new master under hardware mode: the lowest live die (R367). -/
def electMaster (s : State) : State :=
  if s.sched.election && !s.sched.electHost then
    { s with sched.master := lowestLive s, sched.election := false }
  else s

/-- What the distributors do of their own: elect a master, record an acceptance, take a request, complete a team, or
place a thread; while no master stands, no thread is admitted (R367). -/
def distStep (s : State) : Option State :=
  if s.sched.election && !s.sched.electHost then some (electMaster s)
  else if !s.sched.election && s.sched.requests.any (acceptable s) then some (serveAcceptance s)
  else if takesSpawn s && s.sched.requests.any Request.isSpawn then some (serveSpawn s)
  else if !s.sched.election && s.sched.requests.any Request.isInfo then some (serveInfo s)
  else
    match s.sched.teams.find? (teamDone s), s.sched.reserved.find? (fun r => (getCore s r.1).lodge.isNone) with
    | some t, _ => some (completeTeam t s)
    | none, some r => some (takeReserved r.1 s)
    | none, none => if s.sched.election then none else ((s.sched.teams.map (fun t => t.base.pid)).dedup).findSome? (fun pid => admitOne pid s)

/-- One unit of the work that a waiting instruction may wait for: the package's stores and commands, or else the
distributors. -/
def advanceAll (s : State) : State :=
  if (readyCmd s).isSome || !storesIdle s then advance s else (distStep s).getD s

end Sys2Proof.Machine
end

