-- ==== Sys2Proof/Machine/Team.lean ====
section
/-! DEFINITION. The team instructions and the steps of the distributors (R149 to R154, R352 to R369). -/

namespace Sys2Proof.Machine

/-! ## TSPAWN -/

/-- The record, and the check of DONEW's translation (R150); a device register is no place for a distributor's write
(R412). -/
def readRecord (va : Word) (s : State) : Except Stop (State × List Byte × Option (Nat × Word)) := do
  let (s, b) ← loadRow 256 va 256 s
  let w := dwordAt b 0x30
  if w = 0 then .ok (s, b, none)
  else
    let (s, ph) ← translate .store w 8 s
    if isDevReg ph.pa then raisePage .store (lvlOf s w) 9 w s else .ok (s, b, some (ph.pa, w))

/-- A completion word that a distributor of this package writes itself. -/
def nearDonew (s : State) (donew : Option (Nat × Word)) : Bool :=
  donew.all (fun x => decide (ownerOf s x.1 = s.pkg))

/-- An accepted record, taken and recorded at once, or a request that waits: also where DONEW lies in another package,
as it is to be written before the `TSPAWN` retires (R150, R151, R353). -/
def sendSpawn (b : List Byte) (donew : Option (Nat × Word)) (s : State) : Run :=
  if takesSpawn s && s.sched.requests.isEmpty && nearDonew s donew then
    let id := freshTeam s
    .ok (recordAcceptance id (makeTeam s.ctx b donew id s))
  else
    waitIn { s with
      sched.requests := s.sched.requests ++ [.spawn s.cur s.ctx.prv.gtid b donew]
      ctx.aux.sent := .spawn }

/-- The effect of `TSPAWN` (R28, R149 to R151). -/
def spawn (d a : Nat) (s : State) : Run :=
  match s.ctx.aux.sent with
  | .spawnAnswer n => .ok (wg s d (BitVec.ofNat 64 n))
  | .spawn => waitIn (if storesIdle s then (distStep s).getD s else progress ((distStep s).getD s))
  | _ => do
    let _ ← need s [.g a]
    let (s, b, donew) ← readRecord (rg s a) s
    let n := launchCheck s s.ctx b
    if n ≠ 0 then .ok (wg s d (BitVec.ofNat 64 n))
    else
      let _ ← waysideRule (widestScope (usedLevels b)) s
      let s ← awaitStores (widestScope (usedLevels b)) s
      let s ← sendSpawn b donew s
      .ok (wg s d 0)

/-- `TSPAWN` (R150). -/
def execTspawn (fm : Form) (d a : Nat) (s : State) : Out := runOne (fm.len 9) (spawn d a) s

/-- `SPAWN_REQUEST`: the master takes the oldest request (R352). -/
def execSpawnRequest (s : State) : Out := .next (serveSpawn s)

/-- `ACCEPTANCE_RECORDED`: every live distributor holds the oldest acceptance (R353). -/
def execAcceptanceRecorded (s : State) : Out := .next (serveAcceptance s)

/-! ## TEXIT -/

/-- `TEXIT` (R22, R152): once the thread's commands have ended, it ends. -/
def execTexit (_fm : Form) (s : State) : Out :=
  if (cmdsOf s s.ctx.prv.gtid).isEmpty then
    .next { endThread s.ctx.prv.gtid false false s with core.retired := some s.cyc }
  else .next (advance s)

/-- `TEAM_COMPLETION` (R34). -/
def execTeamCompletion (team : Nat) (s : State) : Out :=
  match s.sched.teams.find? (fun t => t.id = team) with
  | none => .next s
  | some t => if teamDone s t then .next (completeTeam t s) else .next s

/-! ## TBAR -/

/-- The level `TBAR` names, where the thread's team has a barrier there (R31, R149). -/
def barOf (s : State) (n : Nat) : Option (Team × Level) :=
  (teamOf s s.ctx.prv.gtid).bind (fun t => ((t.levels[n]?).filter (·.bar)).map (fun l => (t, l)))

/-- Arrives at a barrier, once every earlier store is performed at its scope (R153). -/
def arrive (t : Team) (n scope : Nat) (s : State) : Run :=
  if s.ctx.aux.arrive.getLsbD n then .ok s
  else do
    let s ← awaitStores scope s
    .ok (putTeam (countArrival s.ctx.prv.gtid n t) { s with ctx.aux.arrive := s.ctx.aux.arrive ||| (1#8 <<< n) })

/-- The effect of `TBAR` (R31, R32, R153). -/
def barrier (n : Nat) (s : State) : Run :=
  match barOf s n with
  | none => raiseIll s
  | some (t, l) => do
    let _ ← waysideRule l.scope s
    let s ← arrive t n l.scope s
    if ((teamOf s s.ctx.prv.gtid).map (fun t => barrierDone t s.ctx.prv.gtid n)).getD true then do
      let s ← acquireAt l.scope s
      .ok { s with ctx.aux.arrive := s.ctx.aux.arrive &&& ~~~(1#8 <<< n) }
    else waitIn (advanceAll s)

/-- `TBAR` (R31, R32, R153). -/
def execTbar (fm : Form) (imm : Nat) (s : State) : Out := runOne (fm.len 9) (barrier imm) s

/-! ## TINFO -/

/-- The effect of `TINFO` (R29, R30, R154). -/
def info (d : Nat) (s : State) : Run :=
  match s.ctx.aux.sent with
  | .infoAnswer first len => .ok (wg (wg s d first) (d + 1) len)
  | .info => waitIn (serveInfo s)
  | _ =>
    match teamOf s s.ctx.prv.gtid with
    | none => raiseIll s
    | some t =>
      if !s.sched.election && s.sched.requests.isEmpty then
        let (t1, first, len) := giveChunk s.ctx.prv.gtid t
        .ok (wg (wg (putTeam t1 s) d first) (d + 1) len)
      else
        waitIn { s with
          sched.requests := s.sched.requests ++ [.info s.cur s.ctx.prv.gtid t.id]
          ctx.aux.sent := .info }

/-- `TINFO` (R154). -/
def execTinfo (fm : Form) (d : Nat) (s : State) : Out := runOne (fm.len 9) (info d) s

/-- `CHUNK_REQUEST`: the master answers the oldest `TINFO` request (R29, R154). -/
def execChunkRequest (s : State) : Out := .next (serveInfo s)

/-! ## Admission and run queues -/

/-- `GROUP_ADMISSION`: the next group, or thread, of a partition is placed (R356 to R358), while a master stands (R367). -/
def execGroupAdmission (pid : Nat) (s : State) : Out := .next (if s.sched.election then s else (admitOne pid s).getD s)

/-- Order of run-queue records (R361): PRIO, then ENQ, then index. -/
def recBefore (s : State) (a b : Nat) : Bool :=
  let pa := recField s a 4 1
  let pb := recField s b 4 1
  let ea := recField s a 0x18 8
  let eb := recField s b 0x18 8
  decide (pb < pa) || (decide (pa = pb) && (decide (ea < eb) || (decide (ea = eb) && decide (a < b))))

/-- The thread of a record (R360). -/
def recGtid (s : State) (a : Nat) : Word := BitVec.ofNat 64 (recField s a 0x10 6)

/-- A queued thread may be restored on a core: the groups it belongs to lie in instances that hold the core (R26). -/
def mayRestore (s : State) (core a : Nat) : Bool :=
  let g := recGtid s a
  match teamOf s g with
  | none => true
  | some t => ((memberOf t g).map (fun m => fits (seated s t) m.rank core 1)).getD true

/-- The record an entry's quantum wants from a queue for a core (R361). -/
def wantedRec (s : State) (q : RunQueue) (core : Nat) (entry : Word) : Option Nat :=
  let l := (recsIn s q 1).filter (fun a => decide (recField s a 5 1 % 2 = 1) || mayRestore s core a)
  if bits entry 62 2 = 1 then l.find? (fun a => decide (recField s a 0x10 6 = bits entry 0 48))
  else l.foldl (fun b a =>
    match b with
    | none => some a
    | some x => if recBefore s a x then some a else some x) none

/-- The queues of a cluster that an entry's partition may have: for KIND 1, any that holds the thread. -/
def entryQueues (s : State) (cluster : Nat) (entry : Word) : List RunQueue :=
  s.sched.runqs.filter (fun q => decide (q.cluster = cluster) &&
    (decide (bits entry 62 2 = 1) || decide (q.pid = bits entry 0 12)))

/-- Begins the restore of a record on a core: it moves to state 2 (R361). -/
def beginRestore (pid core a : Nat) (s : State) : State :=
  let s1 := setRec a 2 s
  { s1 with sched.restores := s1.sched.restores ++ [⟨core, a, recField s a 8 8, pid, recGtid s a⟩] }

/-- Records of a spilled group in state 1, in the queues of a partition (R361). -/
def groupRecs (s : State) (pid grp : Nat) : List Nat :=
  (s.sched.runqs.filter (fun q => q.pid = pid)).flatMap (fun q =>
    (recsIn s q 1).filter (fun a => decide (recField s a 5 1 % 2 = 1 ∧ recField s a 6 2 = grp)))

/-- Ranks of the members of the barrier group a thread belongs to that are neither resident nor ended (R33): after the
fencing of a die, the others may be resident already. -/
def awayGroup (t : Team) (g : Word) : List Nat :=
  let n := spanOf t.levels ((barLevel t).getD 0)
  match memberOf t g with
  | none => []
  | some x =>
    (t.members.filter (fun m => decide (m.rank / n = x.rank / n ∧ m.life ≠ .ended ∧ m.life ≠ .resident))).map (·.rank)

/-- A group of records as a team without levels: their threads in order, as no team of the table says more of them
(R361). DESIGN CHOICE, log 90. -/
def looseTeam (s : State) (pid : Nat) (recs : List Nat) : Team :=
  let c := Ctx.reset 0 0
  { id := 0, prio := 0, istart := 0, icount := 0, chunk := 1, donew := none, levels := []
    base := { c with prv := { c.prv with partid := BitVec.ofNat 64 pid } }
    members := recs.mapIdx (fun i a => ⟨i, recGtid s a, .queued, [], none, true, none⟩)
    next := 0, handouts := [], reissue := [], killed := false, reissued := false, noted := true, ending := false }

/-- The team that a group of records belongs to: that of all its threads, or one of their own. -/
def groupTeam (s : State) (pid : Nat) (recs : List Nat) (g : Word) : Team :=
  match teamOf s g with
  | some t => if recs.all (fun a => (memberOf t (recGtid s a)).isSome) then t else looseTeam s pid recs
  | none => looseTeam s pid recs

/-- Restores a record, or the whole group it belongs to, of which every live member that is not resident has to be
queued (R33, R361). -/
def restoreRec (core : Nat) (q : RunQueue) (a : Nat) (s : State) : State :=
  if recField s a 5 1 % 2 = 0 then beginRestore q.pid core a s
  else
    let recs := groupRecs s q.pid (recField s a 6 2)
    let g := recGtid s a
    let t := groupTeam s q.pid recs g
    let ranks := recs.map (fun r => ((memberOf t (recGtid s r)).map (·.rank)).getD 0)
    if !(awayGroup t g).all ranks.contains then s
    else
      let t1 := { t with members := t.members.map (fun m => if ranks.contains m.rank then { m with place := none } else m) }
      match assignGroup s t1 ((barLevel t).getD 0) ranks with
      | none => s
      | some l => (List.zip recs l).foldl (fun s x => beginRestore q.pid x.2.2 x.1 s) s

/-- A core has an empty bank that no restore and no member is meant for (R361). -/
def bankFree (s : State) (core : Nat) : Bool :=
  takesThreads s core && decide ((residents s core).length + (comingTo s core).length < 2)

/-- `RUN_QUEUE_RESTORE`: half-way through a quantum the distributor looks for a context for the next one (R361). -/
def execRunQueueRestore (core : Nat) (s : State) : Out :=
  let c := getCore s core
  let entry := (c.slottab[(s.cyc / 4096 + 1) % 16]?).getD 0
  if bits entry 62 2 = 0 ∨ !bankFree s core ∨ (residents s core).any (qualifies entry) then .next s
  else
    match (entryQueues s (core / 8) entry).findSome? (fun q => (wantedRec s q core entry).map (fun a => (q, a))) with
    | none => .next s
    | some (q, a) => .next (restoreRec core q a s)

/-- What a distributor's restore comes to: as a `CTXLD`'s, and the flags that stop that stop it too (R304, R351, R361).
A distributor has no level and no registers of its own, so that of an unsealed area every level's fields are restored.
DESIGN CHOICE, log 90. -/
def restoreArea (s : State) (area : Nat) : Restored :=
  let f := areaFlags s area
  if f.getLsbD 17 ∨ f.getLsbD 18 then .bad 0 1
  else if f.getLsbD 19 then restoreUnsealed s (Priv.reset 0) area
  else restoreSealed s area

/-- A restore that fails: state 3, and INT 5 where the partition's setting says (R361). -/
def restoreFails (r : Restore) (s : State) : State :=
  let s1 := setRec r.record 3 s
  match s.xlat.proposals.find? (fun p => p.pid = r.pid) with
  | none => s1
  | some p => pendInt p.core 0x0005 0 s1

/-- `RESTORE_COMPLETE`: the restore on a core ends (R361): Lodged, or state 3 and INT 5. -/
def execRestoreComplete (core : Nat) (s : State) : Out :=
  match s.sched.restores.find? (fun r => r.core = core) with
  | none => .next s
  | some r =>
    if (getCore s core).lodge.isSome then .next s
    else
      let s1 := { s with sched.restores := s.sched.restores.erase r }
      match restoreArea s r.area with
      | .ok c =>
        let f := areaFlags s r.area
        let s2 := setRec r.record 0 (setAreaFlags r.area (f ||| (1#64 <<< 17)) s1)
        .next (enterBank (!f.getLsbD 19) core c (if f.getLsbD 19 then { s2 with sched.serial := s2.sched.serial + 1 } else s2))
      | .bad _ reason =>
        .next (restoreFails r (if bits (areaFlags s r.area) 17 2 ≠ 0 then s1 else markPoisoned r.area reason s1))
      | .outside _ => .next (restoreFails r s1)

/-! ## Elections -/

/-- `MASTER_ELECTION` (R367). -/
def execMasterElection (s : State) : Out := .next (electMaster s)

end Sys2Proof.Machine
end

