-- ==== Sys2Proof/Machine/Lodge.lean ====
section
/-! DEFINITION. The two banks of a core: swaps, the slot table, waiting and halting, loading and spilling contexts,
and the spill engine (R142, R301 to R304, R338 to R344, R355, R357). -/

namespace Sys2Proof.Machine

/-! ## Swaps -/

/-- What an instruction has sent that is answered later even though the context has left the active bank (R339). -/
def Sent.outlives : Sent → Bool
  | .spawn | .spawnAnswer _ | .info | .infoAnswer _ _ | .atomic _ | .atomicAnswer _ _ | .atomicPoison => true
  | _ => false

/-- Unretired work of the active context is squashed (R330, R339): an instruction between two repeats records how many are
left (R87), what it has sent is answered later into the bank, and any other one executes again. DEDUCED, log 64. -/
def squash (s : State) : State :=
  let t := abandon s
  { recordRepeats t with
    ctx.aux.sent := if mustComplete t && Sent.outlives t.ctx.aux.sent then t.ctx.aux.sent else .nothing
    ctx.aux.repLeft := 0 }

/-- The outgoing context as it is kept (R148, R342): PENDING wayside entries become STRUCK. DEDUCED, log 64. -/
def parked (s : State) : Ctx :=
  let c := strikePending (squash s).ctx
  { c with aux.spilled := [], aux.resumeAt := c.regs.pc }

/-- The swap of a core's banks (R303, R342); the active bank may be empty (R357). -/
def swapBanks (s : State) : State :=
  match s.core.lodge with
  | none => { s with core.swapping := false }
  | some c =>
    let s1 := if s.core.act then endOverlap (abandon s) else s
    let out := if s.core.act then some (parked s1) else none
    let confirms := if s.core.act then s1.coh.confirms.filter (fun x => decide (x.gtid ≠ s.ctx.prv.gtid)) else s1.coh.confirms
    let s2 := { s1 with
      ctx := { c with aux.spilled := [] }
      core.act := true
      core.lodge := out
      core.swapping := false
      coh := { dropRequest s.cur s1.coh with confirms := confirms } }
    takeReserved s2.cur s2

/-- `CONTEXT_SWAP`: a swap that the slot table, `YIELD` or `CTXSW` has started ends (R342). Within a partition, an
instruction that completes before an interrupt completes first (R334); to another partition the swap squashes it (R339).
A halted core fetches nothing (R302). DEDUCED, log 22. -/
def execContextSwap (core : Nat) (s : State) : Out :=
  .next (onCore core (fun s =>
    if s.core.swapping && !s.core.halted && !(s.core.act && mustComplete s && !crossing s) then swapBanks s else s) s)

/-- `CTXSW` (R303): the swap follows its retirement. -/
def execCtxsw (fm : Form) (s : State) : Out :=
  runOne (fm.len 50) (fun s => do
    let _ ← atLeast s 1
    match s.core.lodge with
    | none => raiseIll s
    | some c =>
      if s.pl = 1 ∧ c.pid ≠ s.pid then .error (.trap (privTrap 0 s) s)
      else .ok { s with core.swapping := true }) s

/-! ## The core slot table -/

/-- GTID of the lodged context, 0 for none. -/
def lodgedId (s : State) : Word := (s.core.lodge.map (fun c => c.prv.gtid)).getD 0

/-- Notes which context is lodged at the start of a KIND 2 quantum of a partition (R355). -/
def noteLodged (pid : Nat) (g : Word) (s : State) : State :=
  { s with core.lastLodged := (pid, g) :: s.core.lastLodged.filter (fun x => decide (x.1 ≠ pid)) }

/-- A thread of the partition waits for the core's active bank, and its lodge is occupied (R357, R361). -/
def reservedHere (s : State) (pid : Nat) : Bool :=
  !s.core.act && s.core.lodge.isSome && (comingTo s s.cur).contains (some pid)

/-- What a core does at a quantum boundary with its entry (R338, R340, R355, R357). A context that PREEMPT finds with
interrupts masked, at the level PREEMPT routes to, goes on in the quantum; a PREEMPT that has not been taken stays
pending (R283). DEDUCED, log 23. A later one takes its place. DESIGN CHOICE, log 106. At a boundary to another partition the
outgoing context's unretired work is squashed, whether or not the next context is resident (R339). -/
def atBoundary (s : State) : State :=
  let idx := s.cyc / 4096 % 16
  let entry := (s.core.slottab[idx]?).getD 0
  let pid := bits entry 0 12
  let s1 := { s with core.quantum := some (idx, entry), core.minPl := 4, core.lent := none, core.window := false }
  let note (g : Word) (s : State) : State := if bits entry 62 2 = 2 then noteLodged pid g s else s
  let here := s.core.act && qualifies entry s.ctx
  let there := (s.core.lodge.map (qualifies entry)).getD false
  let turn := decide (bits entry 62 2 = 2) && there &&
    decide ((s.core.lastLodged.find? (fun x => x.1 = pid)).map (·.2) = some (lodgedId s))
  let out : Word := if s.core.act then s.ctx.prv.gtid else 0
  if bits entry 62 2 = 0 then s1
  else if bits entry 62 2 = 2 && reservedHere s pid then note 0 { s1 with core.swapping := true }
  else if here && !turn then note (lodgedId s) s1
  else if there then note out { s1 with core.swapping := true }
  else note (lodgedId s) { (if s.core.act && entryDiffers s entry then squash s1 else s1) with
    core.preempt := some (idx, entry)
    core.minPl := if s.core.act then preemptLevel s entry else 4 }

/-- `QUANTUM_BOUNDARY` (R338). A halted core does nothing. -/
def execQuantumBoundary (core : Nat) (s : State) : Out :=
  .next (onCore core (fun s => if s.core.halted then s else atBoundary s) s)

/-- `ISOLATION_WINDOW`: the last 1,088 cycles of a quantum whose successor goes to another partition (R339). -/
def execIsolationWindow (core : Nat) (s : State) : Out :=
  .next (onCore core (fun s =>
    let next := (s.core.slottab[(s.cyc / 4096 + 1) % 16]?).getD 0
    if 3008 ≤ s.cyc % 4096 ∧ bits next 62 2 ≠ 0 ∧ s.core.act ∧ entryDiffers s next
    then { s with core.window := true } else s) s)

/-! ## Waiting and halting -/

/-- `WFI` (R301). -/
def execWfi (fm : Form) (s : State) : Out :=
  runOne (fm.len 49) (fun s => do
    let _ ← atLeast s 1
    if interruptWaits s then .ok s else waitIn (advanceAll s)) s

/-- `HALT` (R302). -/
def execHalt (fm : Form) (s : State) : Out :=
  runOne (fm.len 49) (fun s => do
    let _ ← atLeast s 3
    .ok (haltCore s)) s

/-- `MANAGEMENT_RESTART`: the management interface restarts a halted core (R302). -/
def execManagementRestart (core : Nat) (s : State) : Out :=
  .next (setCore s core { getCore s core with halted := false })

/-! ## Loading and spilling -/

/-- The checks of a save-area address (R289, R304): alignment, then window and presence; device registers and the host
window hold no area (R412, R413). `k` is a load for `CTXLD` and a store for `CTXSP`. DESIGN CHOICE, log 103. -/
def checkArea (k : AccKind) (va : Word) (s : State) : Except Stop Unit :=
  if va.toNat % 4096 ≠ 0 then raiseAccess 0x04 k.bit va s
  else if !step4 s s.ctx.space va.toNat 409600 || decide (2 ^ 52 ≤ va.toNat)
  then raiseAccess 0x05 (pageDetail k.acc 0 4) va s
  else if hbmEnd < offsetOf va.toNat + 409600 then raiseAccess 0x05 (pageDetail k.acc 0 9) va s
  else .ok ()

/-- The PID an area's header names (R346). -/
def areaPid (s : State) (area : Nat) : Nat := natOfBytes (memReadN s.mem (area + 0x10) 2) % 4096

/-- Waits until every earlier store is performed at a scope; the instruction completes before an interrupt
(R334). -/
def settle (scope : Nat) (s : State) : Run :=
  if storesPerformed scope s then .ok s else waitIn { progress s with ctx.aux.sent := .working }

/-- Restores an area into the lodge, or finds it bad (R304, R351), or with an address outside its context's window
(R289). -/
def loadArea (d area : Nat) (s : State) : Run :=
  let f := areaFlags s area
  let r := if f.getLsbD 19 then restoreUnsealed s s.ctx.prv area else restoreSealed s area
  match r with
  | .bad b reason => raise 0x13 b (BitVec.ofNat 64 area) (markPoisoned area reason s)
  | .outside a => raiseAccess 0x05 (pageDetail 0 0 4) (BitVec.ofNat 64 a) s
  | .ok c =>
    let s1 := setAreaFlags area (f ||| (1#64 <<< 17)) s
    let s2 := if f.getLsbD 19 then { s1 with sched.serial := s1.sched.serial + 1 } else s1
    .ok (wg (enterBank (!f.getLsbD 19) s.cur c s2) d 0)

/-- `CTXLD` (R304, R351). DEDUCED, log 24. -/
def execCtxld (fm : Form) (d a : Nat) (s : State) : Out :=
  runOne (fm.len 50) (fun s => do
    let _ ← atLeast s 1
    let _ ← need s [.g a]
    let _ ← checkArea .load (rg s a) s
    let s ← settle 2 s
    let area := (rg s a).toNat
    if s.pl = 1 ∧ areaPid s area ≠ s.pid then .error (.trap (privTrap 0 s) s)
    else if s.core.lodge.isSome then .ok (wg s d 1)
    else if (areaFlags s area).getLsbD 18 then .ok (wg s d 2)
    else if (areaFlags s area).getLsbD 17 then .ok (wg s d 3)
    else loadArea d area s) s

/-- The lodged context as a spill writes it: an extension not read yet is read first (R351). Where that fails, the
number is the poison reason (R346), else 0. -/
def spillable (s : State) (c : Ctx) : Ctx × Nat :=
  match readExtension s c with
  | .ok x => (x, 0)
  | .bad _ _ r => ({ c with aux.extPending := none }, r)
  | .outside _ => ({ c with aux.extPending := none }, 3)

/-- Spills the lodged context and empties the lodge (R304, R344). -/
def spillLodged (area : Nat) (c : Ctx) (s : State) : State :=
  let (x, lost) := spillable s c
  let s1 := spillTo x area s
  let s2 := if lost ≠ 0 then markPoisoned area lost s1 else s1
  noteMember c.prv.gtid (fun m => { m.goes .queued with place := none }) { s2 with core.lodge := none }

/-- Acts on the lodged context as if it were the active one. -/
def onLodged (c : Ctx) (f : State → State) (s : State) : State :=
  let t := f { s with ctx := c, core.act := true, core.lodge := none }
  { t with ctx := s.ctx, core.act := s.core.act, core.lodge := some t.ctx }

/-- An instruction whose answer has come, if it is one that a swap lets be answered later (R339). -/
def runAnswered (s : State) : Option Out :=
  match fetchDecode s with
  | .exec (.amoadd fm o z sc d a b) s => some (execAmoadd fm o z sc d a b s)
  | .exec (.amoand fm o z sc d a b) s => some (execAmoand fm o z sc d a b s)
  | .exec (.amoor fm o z sc d a b) s => some (execAmoor fm o z sc d a b s)
  | .exec (.amoxor fm o z sc d a b) s => some (execAmoxor fm o z sc d a b s)
  | .exec (.amomin fm o z sc d a b) s => some (execAmomin fm o z sc d a b s)
  | .exec (.amomax fm o z sc d a b) s => some (execAmomax fm o z sc d a b s)
  | .exec (.amominu fm o z sc d a b) s => some (execAmominu fm o z sc d a b s)
  | .exec (.amomaxu fm o z sc d a b) s => some (execAmomaxu fm o z sc d a b s)
  | .exec (.amoswap fm o z sc d a b) s => some (execAmoswap fm o z sc d a b s)
  | .exec (.amocas fm o z sc d a b) s => some (execAmocas fm o z sc d a b s)
  | .exec (.amofadd fm o z sc d a b) s => some (execAmofadd fm o z sc d a b s)
  | .exec (.tspawn fm d a) s => some (execTspawn fm d a s)
  | .exec (.tinfo fm d) s => some (execTinfo fm d s)
  | _ => none

/-- The lodged context's instruction that has been answered completes, before its state is written out (R339, R344). -/
def completeAnswered (s : State) : State :=
  match runAnswered s with
  | some (.next t) => t
  | _ => { s with ctx.aux.sent := .nothing }

/-- One unit of what a lodged context's sent access waits for: its answer, then its completion (R344). -/
def settleLodged (c : Ctx) (s : State) : State :=
  match c.aux.sent with
  | .atomic _ => serveAtomicOf c.prv.gtid s
  | .info => serveInfo s
  | .spawn => advanceAll s
  | _ => onLodged c completeAnswered s

/-- `CTXSP` on a context of another partition needs the hypervisor (R304), which comes before what its area raises
(R329). -/
def ownLodged (s : State) : Except Stop Unit :=
  if s.pl = 1 ∧ s.core.lodge.any (fun c => decide (c.pid ≠ s.pid)) then .error (.trap (privTrap 0 s) s) else .ok ()

/-- `CTXSP` (R304, R344): it waits for the answers to what the context has sent, and retires when every write is
performed at sys scope. -/
def execCtxsp (fm : Form) (d a : Nat) (s : State) : Out :=
  runOne (fm.len 50) (fun s => do
    let _ ← atLeast s 1
    let _ ← ownLodged s
    let _ ← need s [.g a]
    let _ ← checkArea .store (rg s a) s
    let s ← settle 4 s
    match s.core.lodge with
    | none => .ok (wg s d 1)
    | some c =>
      if !performedFor c.prv.gtid 4 s then waitIn { progress s with ctx.aux.sent := .working }
      else if c.aux.sent.outlives then waitIn { settleLodged c s with ctx.aux.sent := .working }
      else .ok (wg (spillLodged (rg s a).toNat c s) d 0)) s

/-! ## The spill engine -/

/-- Every retired store of a thread has left its core's store buffer, and what its context has sent has been answered
(R344). -/
def leftBuffer (s : State) (core : Nat) (gtid : Word) : Bool :=
  (getCore s core).sb.all (fun e => decide (e.gtid ≠ gtid)) &&
  (getCore s core).lodge.all (fun c => decide (c.prv.gtid ≠ gtid) || !c.aux.sent.outlives)

/-- A number for the blocks the spill engine writes to a context's own area. -/
def withAreaSeq (c : Ctx) (s : State) : Ctx × State :=
  if c.aux.areaSeq ≠ 0 then (c, s)
  else ({ c with aux.areaSeq := s.sched.spillSeq + 1 }, { s with sched.spillSeq := s.sched.spillSeq + 1 })

/-- The next block of a lodged context that the spill engine has to write (R344). -/
def spillWork (c : Ctx) : Option (Nat × Nat) :=
  match c.aux.area, (List.range 100).find? (fun i => i ≠ 0 ∧ blockLive c i ∧ ¬ c.aux.spilled.contains i) with
  | some area, some i => if c.aux.extPending.isSome then none else some (area, i)
  | _, _ => none

/-- `BACKGROUND_SPILL`: the spill engine writes the next block of a lodged context (R344). -/
def execBackgroundSpill (core : Nat) (s : State) : Out :=
  match (getCore s core).lodge with
  | none => .next s
  | some c =>
    match spillWork c with
    | some (area, i) =>
      if !leftBuffer s core c.prv.gtid then .next s
      else
        let (c1, s1) := withAreaSeq c s
        let s2 := writeBlock c1 area c1.aux.areaSeq i s1
        .next (setCore s2 core { getCore s2 core with lodge := some { c1 with aux.spilled := i :: c1.aux.spilled } })
    | none => .next s

/-- A name has a part in the annex of band 0: an SX7 side-store or cellar entries (R348). -/
def inAnnex (c : Ctx) (n : Nat) : Bool :=
  if n < 16 then (sx7Tiles c 0).contains n else decide (0 < bandEntries (c.acc (n - 16)) 0)

/-- Names of a lodged context that the spill engine may write out of its home engine: live in band 0, and with no part
in an annex that block 3 cannot hold (R343). -/
def evictable (c : Ctx) : List Nat :=
  (List.range 24).filter (fun n =>
    (if n < 16 then tileLive (tileBand (c.tile n) 0) else decide ((c.acc (n - 16)).tag ≠ .empty)) &&
      !c.aux.evicted.contains n && (decide ((annex c 0).length ≤ 4096) || !inAnnex c n))

/-- Blocks that leave with a name. While the extension of a restored context is unread, its area still holds them as
restored (R351). -/
def evictedBlocks (c : Ctx) (n : Nat) : List Nat := if c.aux.extPending.isSome then [] else 2 :: 3 :: blocksOfName n

/-- `LODGED_TILE_EVICTION`: a live name of a lodged context goes to its save area, and its slot is freed (R343). -/
def execLodgedTileEviction (core : Nat) (s : State) : Out :=
  match (getCore s core).lodge with
  | none => .next s
  | some c =>
    match c.aux.area, evictable c with
    | some area, n :: _ =>
      if !leftBuffer s core c.prv.gtid then .next s
      else
        let (c1, s1) := withAreaSeq c s
        let s2 := (evictedBlocks c n).foldl (fun s i => writeBlock c1 area c1.aux.areaSeq i s) s1
        .next (setCore s2 core { getCore s2 core with lodge := some { c1 with aux.evicted := c1.aux.evicted ++ [n] } })
    | _, _ => .next s

/-- `TILE_NAME_RELOAD`: a name of the active context that was written out is loaded back (R343). A name whose
blocks fail stays out, and the tile instruction that needs it traps (R351). -/
def execTileNameReload (s : State) : Out :=
  match s.ctx.aux.evicted with
  | [] => .next s
  | n :: _ =>
    match reloadName s s.ctx n with
    | .ok c => .next { s with ctx := c }
    | .bad _ _ _ => .next s
    | .outside _ => .next s

end Sys2Proof.Machine
end

