-- ==== Sys2Proof/Machine/Residence.lean ====
section
/-! DEFINITION. TLB and cache maintenance, page residence and its services (R297 to R300, R307, R318 to R328,
R250, R451). -/

namespace Sys2Proof.Machine

/-! ## Management services -/

/-- Length in bytes of the chain whose first eight bytes `ir` holds: its prefix words and its base word (R82). -/
def chainBytes (ir : Word) : Nat :=
  let pre (i : Nat) : Bool := decide (bits ir (16 * i + 12) 4 = 15)
  if !pre 0 then 2 else if !pre 1 then 4 else if !pre 2 then 6 else if !pre 3 then 8 else 10

/-- The eight bytes at an address of the active context, as its tables stand; zeros where it does not translate. -/
def chainAt (va : Word) (s : State) : Word :=
  BitVec.ofNat 64 (natOfBytes ((List.range 8).map (fun i =>
    ((physOf s s.ctx.space (va.toNat + i)).map (memRead s.mem)).getD 0)))

/-- Length in bytes of the `mvc` the current thread's call came from (R451): as it was made, or, in a context that came to
the handler otherwise, of the instruction at `MEPC`. -/
def callBytes (s : State) : Nat :=
  ((s.boot.calls.find? (fun x => x.1 = s.ctx.prv.gtid)).map (·.2)).getD (chainBytes (chainAt s.ctx.prv.mon.epc s))

/-- Ends a service: status to `g5`, `MEPC` past the `mvc`, and return (R451), which ends a pinned mapping of the monitor
(R439). -/
def finishService (status : Nat) (s : State) : State :=
  let s0 := if bits s.ctx.prv.mon.cause 62 2 = 3 then s else endOverlap s
  let s1 := wg s0 5 (BitVec.ofNat 64 status)
  returnFrom 3 { s1 with ctx.prv.mon.epc := vecAddr (s1.ctx.prv.mon.epc + BitVec.ofNat 64 (callBytes s)) }

/-- A management service: the firmware serves the call it was entered for (R451), once the caller's stores have been
performed, which it follows in program order (R118), and once it is ready to. `low` is the lowest caller; `body` gives the
status and the state. -/
def serviceWhen (ready : State → Bool) (n low : Nat) (body : State → Nat × State) (s : State) : Out :=
  if !(firmwareCalled s && decide (bits s.ctx.prv.mon.cause 16 16 = n)) then .next s
  else if bits s.ctx.prv.mon.cause 62 2 < low then .next (finishService 3 s)
  else if !storesPerformed 3 s || !ready s then .next (progress s)
  else .next (finishService (body s).1 (body s).2)

/-- A service that waits for nothing else. -/
def service (n low : Nat) (body : State → Nat × State) (s : State) : Out := serviceWhen (fun _ => true) n low body s

/-- An argument register as a number. -/
def arg (s : State) (n : Nat) : Nat := (rg s n).toNat

/-- A power of two between two bounds. -/
def pow2In (n lo hi : Nat) : Bool := decide (lo ≤ n ∧ n ≤ hi ∧ n ≠ 0 ∧ 2 ^ Nat.log2 n = n)

/-- A physical address on a boundary. -/
def aligned (a n : Nat) : Bool := decide (a % n = 0 ∧ a < 2 ^ 52)

/-! ## Removing translations -/

/-- Applies a change to every core of the package. -/
def everyCore (f : CoreSt → CoreSt) (s : State) : State :=
  { s with core := f s.core, others := s.others.map (fun e => (e.1, f e.2)) }

/-- A TLB entry that a removal names (R297). -/
def TlbRemoval.takes (r : TlbRemoval) (t : TlbEntry) : Bool :=
  match r.sel with
  | 0 => decide (t.pid = r.pid ∧ t.asid = r.asid ∧
      r.va.toNat / 2 ^ pageBits t.level t.g64 * 2 ^ pageBits t.level t.g64 = t.vbase)
  | 1 => decide (t.pid = r.pid ∧ t.asid = r.asid)
  | 2 => decide (t.pid = r.pid)
  | _ => true

/-- A not-present result that a removal names (R297). -/
def TlbRemoval.takesNp (r : TlbRemoval) (t : NpEntry) : Bool :=
  match r.sel with
  | 0 => decide (t.pid = r.pid ∧ t.asid = r.asid ∧ r.va.toNat / 2 ^ pageBits t.level false = t.page)
  | 1 => decide (t.pid = r.pid ∧ t.asid = r.asid)
  | 2 => decide (t.pid = r.pid)
  | _ => true

/-- Every write-through in flight is applied and acknowledged. -/
def settleWts (s : State) : State :=
  s.coh.wts.foldl (fun s w => ackWt w.die w.line (applyWt w.die w.line s)) s

/-- Every message of this package that has gone out is applied and acknowledged. -/
def settleMsgs (s : State) : State := s.fab.msgs.foldl passMsg s

/-- Every atomic on its way is performed at its home. -/
def settleAtomics (s : State) : State := s.coh.atomics.foldl (fun s _ => serveAtomicAt 0 s) s

/-- Every access of every core that has been translated is performed (R298), but for stores that have to wait and
messages without a route. -/
def quiesce (s : State) : State :=
  settleAtomics (settleMsgs (settleWts ((s.cur :: s.others.map (·.1)).foldl (fun s n => drainAll n s) s)))

/-- Drops what a removal names from every TLB and not-present cache. -/
def dropEntries (r : TlbRemoval) (s : State) : State :=
  everyCore (fun c =>
    { c with tlb := c.tlb.filter (fun t => !r.takes t), notPresent := c.notPresent.filter (fun t => !r.takesNp t) }) s

/-- No access that has been translated is still to be performed. -/
def quiet (s : State) : Bool :=
  (s.cur :: s.others.map (·.1)).all (fun n => (getCore s n).sb.isEmpty) && s.coh.wts.isEmpty && s.coh.atomics.isEmpty &&
  s.fab.msgs.all (fun m => decide (m.src ≠ s.pkg))

/-- Where a completion word of an address space lies now, once a translation of its page may be gone (R298): none where
its address does not translate any more. DESIGN CHOICE, log 75. -/
def movedDonew (s : State) (sp : Space) (w : Option (Nat × Word)) : Option (Nat × Word) :=
  match w with
  | none => none
  | some (_, va) =>
    match translateIn { sp with user := false } .store va 8 { s with core.tlb := [], core.notPresent := [] } with
    | .ok (_, ph) => if isDevReg ph.pa then none else some (ph.pa, va)
    | .error _ => none

/-- The completion words of teams and of requests that no write is under way to are translated anew (R298). -/
def moveDonews (s : State) : State :=
  { s with
    sched.teams := s.sched.teams.map (fun t =>
      if donewPending s t then t else { t with donew := movedDonew s t.base.space t.donew })
    sched.requests := s.sched.requests.map (fun r =>
      match r with
      | .spawn core g b w =>
        (match findContext s g with
         | none => r
         | some c => .spawn core g b (movedDonew s c.space w))
      | _ => r) }

/-- The oldest removal completes once every access by an entry it names has been performed (R297, R298). -/
def completeRemoval (s : State) : State :=
  match s.xlat.removals with
  | [] => s
  | r :: l =>
    let s1 := quiesce s
    if quiet s1 then moveDonews { dropEntries r s1 with xlat.removals := l } else progress s1

/-- `TLB_REMOVAL_COMPLETE` (R297). -/
def execTlbRemovalComplete (s : State) : Out :=
  .next (completeRemoval s)

/-- The removal that `TLBINV`'s operands name (R297). -/
def removalOf (s : State) (va sel : Word) : TlbRemoval :=
  { sel := bits sel 62 2, va := va, asid := bits sel 0 12
    pid := if s.pl = 1 then s.pid else bits sel 16 12, gtid := s.ctx.prv.gtid }

/-- `TLBINV` (R297). DEDUCED, log 31. -/
def execTlbinv (fm : Form) (a b : Nat) (s : State) : Out :=
  runOne (fm.len 49) (fun s => do
    let _ ← atLeast s 1
    let _ ← need s [.g a, .g b]
    if bits (rg s b) 28 34 ≠ 0 ∨ bits (rg s b) 12 4 ≠ 0 then raiseIll s
    else
      let _ ← atLeast s (if bits (rg s b) 62 2 ≥ 2 then 2 else 1)
      .ok { s with xlat.removals := s.xlat.removals ++ [removalOf s (rg s a) (rg s b)] }) s

/-- A `TLBSYNC` of the active context: its stores to lines it has flushed are visible to fetch by threads that pass an
event of their own, and it has passed one itself (R300). -/
def syncCode (s : State) : State :=
  { s with
    ctx.aux.passedAt := s.cyc
    coh.oldCode := s.coh.oldCode.map (fun o =>
      if o.gtid = s.ctx.prv.gtid ∧ o.flushedAt.isSome then { o with synced := true } else o) }

/-- Empties every not-present cache of the package (R298). -/
def emptyNotPresent (s : State) : State := everyCore (fun c => { c with notPresent := [] }) s

/-- `TLBSYNC` (R298). -/
def execTlbsync (fm : Form) (s : State) : Out :=
  runOne (fm.len 49) (fun s => do
    let _ ← atLeast s 1
    if s.xlat.removals.any (fun r => decide (r.gtid = s.ctx.prv.gtid)) then
      waitIn { completeRemoval s with ctx.aux.sent := .working }
    else
      let s ← settle 2 s
      .ok (syncCode (emptyNotPresent s))) s

/-- `NOT_PRESENT_EXPIRY`: the current core's walker forgets a not-present result (R318). -/
def execNotPresentExpiry (va : Word) (s : State) : Out :=
  .next { s with core.notPresent := s.core.notPresent.filter (fun t => !t.hits s.ctx.space va.toNat) }

/-- `PAGE_WALK`: a walk for an access that may be squashed: it may set A or D and installs what it finds; its fault
is not raised (R314, R316, R318). -/
def execPageWalk (va : Word) (acc : Nat) (s : State) : Out :=
  if !s.core.act then .next s
  else
    let k : AccKind := if acc = 1 then .store else if acc = 2 then .fetch else .load
    match walkFor s.ctx.space k va 1 2 s with
    | .ok (s1, _) => .next s1
    | .error (.trap _ s1) => .next s1
    | .error (.wait s1) => .next s1

/-! ## Cache lines -/

/-- Every copy of a line in the package goes, and every fill of it that is on its way (R299). -/
def dropCopies (line : Nat) (c : Coh) : Coh :=
  { c with
    copies := c.copies.filter (fun x => decide (x.line ≠ line))
    fills := c.fills.filter (fun x => decide (x.line ≠ line)) }

/-- A thread has flushed a line: of the stores it made to code there, none is newer than the flush (R300). -/
def flushCode (gtid : Word) (line cyc : Nat) (c : Coh) : Coh :=
  { c with oldCode := c.oldCode.map (fun o =>
      if o.gtid = gtid ∧ lineOf o.pa = line ∧ o.flushedAt = none then { o with flushedAt := some cyc } else o) }

/-- The line an instruction of R299 names, after its checks and waits; device registers and the host window turn it away
(log 94). DEDUCED, log 32. -/
def cacheLine (fm : Form) (k : AccKind) (a : Nat) (imm : Int) (s : State) :
    Except Stop (State × Nat) := do
  let _ ← atLeast s 1
  let _ ← need s [.g a]
  let (s, ph) ← checkPage k .line (eaImm fm 0 a imm 128 s) 1 s
  let s ← settle 2 s
  .ok (s, lineOf ph.pa)

/-- `CWB` (R299). -/
def execCwb (fm : Form) (a : Nat) (imm : Int) (s : State) : Out :=
  runOne (fm.len 49) (fun s => do
    let (s, line) ← cacheLine fm .load a imm s
    .ok { s with coh := writeBack line s.coh }) s

/-- `CFLUSH` (R299). -/
def execCflush (fm : Form) (a : Nat) (imm : Int) (s : State) : Out :=
  runOne (fm.len 49) (fun s => do
    let (s, line) ← cacheLine fm .load a imm s
    .ok { s with coh := flushCode s.ctx.prv.gtid line s.cyc (dropCopies line (writeBack line s.coh)) }) s

/-- Bytes of a line of which those written since the last write-back are undefined (R299). -/
def undefinedLine (s : State) (line : Nat) : List Byte :=
  let m : BitVec 128 := ((s.coh.dirty.find? (fun e => e.1 = line)).map (·.2)).getD 0
  (List.range 128).map (fun i =>
    if m.getLsbD i then Config.freeByteAt (draw s 0) (line * 128 + i) else memRead s.mem (line * 128 + i))

/-- The bytes of write-throughs to a line that are still under way become undefined: they race (R299). -/
def undefinedRacing (s : State) (line : Nat) (c : Coh) : Coh :=
  { c with wts := c.wts.map (fun w =>
      if w.line = line ∧ ¬ w.applied then
        { w with data := (List.range w.data.length).map (fun i => Config.freeByteAt (draw s 1) (w.pa + i)) }
      else w) }

/-- Copies of a line go and its unwritten-back bytes become undefined (R299). Only memory of the package has
copies. -/
def invalidateLine (line : Nat) (s : State) : State :=
  if !localMem s (line * 128) then s
  else
  let s1 := if s.coh.dirty.any (fun e => decide (e.1 = line))
    then homeWrite (line * 128) (undefinedLine s line) 0xFF false false s else s
  { s1 with coh := undefinedRacing s line (dropCopies line (writeBack line s1.coh)) }

/-- `CINV` (R299). -/
def execCinv (fm : Form) (a : Nat) (imm : Int) (s : State) : Out :=
  runOne (fm.len 49) (fun s => do
    let (s, line) ← cacheLine fm .store a imm s
    .ok (invalidateLine line s)) s

/-! ## Hand-over -/

/-- Bytes of a save area (R346). -/
def areaBytes : Nat := 409600

/-- Save areas that belong to contexts of the package: resident, saved, or members of a team. -/
def knownAreas (s : State) : List Nat :=
  (coreNumbers.flatMap (fun n => (residents s n).filterMap (·.aux.area))) ++
  (s.sched.teams.flatMap (fun t => t.members.filterMap (·.area))) ++ s.xlat.saved.map (·.area)

/-- Address spaces of the contexts of the package: resident, saved, or copied by the members of a team. -/
def knownSpaces (s : State) : List Space :=
  (coreNumbers.flatMap (fun n => (residents s n).map (·.space))) ++ s.xlat.saved.map (·.space) ++
  s.sched.teams.map (fun t => t.base.space)

/-- Bytes [lo, hi) meet a save area. -/
def meetsArea (s : State) (lo hi : Nat) : Bool := (knownAreas s).any (fun a => decide (a < hi ∧ lo < a + areaBytes))

/-- Bytes [lo, hi) of physical memory meet the heap of a context (R311). -/
def meetsHeap (s : State) (lo hi : Nat) : Bool :=
  (knownSpaces s).any (fun sp =>
    decide (sp.hbase < sp.hlimit ∧ (sp.hbase + sp.hoffs) % 2 ^ 52 < hi ∧
      lo < (sp.hbase + sp.hoffs) % 2 ^ 52 + (sp.hlimit - sp.hbase)))

/-- A frame lies among `n` frames from `first`. -/
def inFrames (first n f : Nat) : Bool := decide (first ≤ f ∧ f < first + n)

/-- The frame of a line. -/
def lineFrame (line : Nat) : Nat := line / 32

/-- Steps 1 to 3 of a hand-over of `n` frames to a package (R250): write-throughs are acknowledged, tokens recalled,
copies discarded, the page written back, and ownership moves. -/
def handOver (first n q : Nat) (s : State) : State :=
  let s1 := settleWts s
  let away (line : Nat) : Bool := !inFrames first n (lineFrame line)
  let kept := s1.xlat.owners.filter (fun e => !inFrames first n e.1)
  let moved := if originOf (first * 4096) = q then [] else (List.range n).map (fun i => (first + i, q))
  { s1 with
    coh.copies := s1.coh.copies.filter (fun x => away x.line)
    coh.fills := s1.coh.fills.filter (fun x => away x.line)
    coh.tokens := s1.coh.tokens.filter (fun x => away x.line)
    coh.persistent := s1.coh.persistent.filter (fun x => away x.2.2)
    coh.versions := (leaveDirectory (fun l => !away l) s1.coh).versions
    coh.left := (leaveDirectory (fun l => !away l) s1.coh).left
    coh.dirty := s1.coh.dirty.filter (fun x => away x.1)
    xlat.owners := moved ++ kept
    xlat.handOvers := s1.xlat.handOvers.filter (fun e => !inFrames first n e.1) }

/-- Takes `n` frames of this package's pool (R324). -/
def takeFrames : Nat → State → Option State
  | 0, s => some s
  | n + 1, s =>
    match s.xlat.pool with
    | none => none
    | some r => match ringTake r s with
      | none => none
      | some (_, s1) => takeFrames n s1

/-- Room at the target for `n` frames: its pool (R324); whether another package has room is a free value. -/
def roomAt (q n : Nat) (s : State) : Option State :=
  if q = s.pkg then takeFrames n s
  else if s.fab.present.contains q && Config.freeBool (draw s 40) then some s else none

/-- The leaf that maps an address: first frame and number of frames of its page (R312). -/
def pageOf (s : State) (sp : Space) (va : Nat) : Option (Nat × Nat × Nat) :=
  match walk s sp va with
  | .leaf lvl e _ =>
    let b := pageBits lvl (e.getLsbD 61)
    some (pteAddr e / 2 ^ b * 2 ^ b / 4096, 2 ^ b / 4096, lvl)
  | _ => none

/-- The address lies in the heap of the context (R311). -/
def heapAddr (sp : Space) (va : Nat) : Bool := decide (sp.hbase ≤ va ∧ va < sp.hlimit)

/-- Status of `PGMIG` and its effect (R307). -/
def migrate (q va pa : Nat) (s : State) : Nat × State :=
  match pageOf s s.ctx.space va with
  | none => (3, s)
  | some (first, n, _) =>
    if heapAddr s.ctx.space va || meetsHeap s (first * 4096) ((first + n) * 4096) ||
      meetsArea s (first * 4096) ((first + n) * 4096) || decide (offsetOf pa ≥ hbmEnd) then (3, s)
    else if s.xlat.handOvers.any (fun e => inFrames first n e.1) then (4, s)
    else if (List.range n).all (fun i => decide (ownerOf s ((first + i) * 4096) = q)) then (1, s)
    else
      match roomAt q n s with
      | none => (2, s)
      | some s1 => (0, handOver first n q s1)

/-- `PGMIG` (R307, R250). DEDUCED, log 33. -/
def execPgmig (fm : Form) (d a b : Nat) (s : State) : Out :=
  runOne (fm.len 50) (fun s => do
    let _ ← atLeast s 1
    let _ ← need s [.g a, .g b]
    if bits (rg s b) 8 56 ≠ 0 then raiseIll s
    else
      let (s, ph) ← translate .load (rg s a) 1 s
      let r := migrate (bits (rg s b) 0 8) (rg s a).toNat ph.pa s
      .ok (wg r.2 d (BitVec.ofNat 64 r.1))) s

/-- `HAND_OVER`: a hand-over under way completes (R250, R324). A frame that this package does not own changes hands
between other packages, or comes to this one, which takes a frame of its pool for it and drops the proposal where that is
empty. -/
def execHandOver (frame pkg : Nat) (s : State) : Out :=
  if s.rel.deadPkgs.contains pkg then .next s
  else if s.xlat.handOvers.contains (frame, pkg) then .next (handOver frame 1 pkg s)
  else if ownerOf s (frame * 4096) = s.pkg then .next s
  else if pkg = s.pkg then .next ((takeFrames 1 s).elim s (handOver frame 1 pkg))
  else .next (handOver frame 1 pkg s)

/-! ## Counters and proposals -/

/-- The partition that owns a frame: one whose window holds it (R289, R323). Which one it is where no context of this
package has such a window is not known here. DESIGN CHOICE, log 95. -/
def framePid (s : State) (frame : Nat) : Nat :=
  (((knownSpaces s).find? (fun sp => decide (sp.pid ≠ 0) && inWindow sp (frame * 4096) 4096)).map (·.pid)).getD
    (Config.framePartition frame % 4096)

/-- The setting of PROPOSE for a partition. -/
def proposalOf (s : State) (pid : Nat) : Option Proposal := s.xlat.proposals.find? (fun p => p.pid = pid)

/-- A proposal record (R324). -/
def proposalRecord (s : State) (frame q pid t : Nat) : List Byte :=
  bytesOfNat 8 (frame * 4096) ++ bytesOfNat 1 q ++ bytesOfNat 1 s.pkg ++ bytesOfNat 2 pid ++ bytesOfNat 4 t ++
    bytesOfNat 16 0

/-- Writes a record of `size` bytes to a ring and then advances HEAD; a full ring counts it as dropped (R324). -/
def ringPut (r : Ring) (rec : List Byte) (s : State) : State × Bool :=
  let h := ringHead s r
  if h - ringTail s r ≥ r.count then
    let dropped := natOfBytes (memReadN s.mem (r.addr + 16) 8)
    (agentWrite (r.addr + 16) (bytesOfNat 8 (min (dropped + 1) (2 ^ 64 - 1))) s, false)
  else
    (agentWrite r.addr (bytesOfNat 8 (h + 1))
      (agentWrite (r.addr + 64 + rec.length * (h % r.count)) rec s), true)

/-- A range lock covers bytes of a frame (R324). -/
def frameLocked (s : State) (frame : Nat) : Bool :=
  s.copy.locks.any (fun l =>
    match s.copy.cmds.find? (fun c => c.id = l.cmd) with
    | none => false
    | some c => (List.range ((l.hi + 4095) / 4096 - l.lo / 4096)).any (fun i =>
        decide ((physOf s c.space ((l.lo / 4096 + i) * 4096)).map frameOf = some frame)))

/-- A proposal to move a frame to a package (R324); a frame of a heap is never proposed (R311). -/
def propose (frame q : Nat) (p : Proposal) (s : State) : State :=
  if meetsHeap s (frame * 4096) (frame * 4096 + 4096) then s
  else if s.modes.getLsbD 0 then
    let (s1, put) := ringPut p.ring (proposalRecord s frame q p.pid p.threshold) s
    if put then pendInt p.core 0x0010 p.pid s1 else s1
  else if meetsArea s (frame * 4096) (frame * 4096 + 4096) ||
    frameLocked s frame || s.xlat.handOvers.any (fun e => decide (e.1 = frame)) ||
    (roomAt q 1 s).isNone then s
  else { s with xlat.handOvers := s.xlat.handOvers ++ [(frame, q)] }

/-- Counts a request from another package for a frame owned here (R323). A home die's cache has 8,192 entries. -/
def countRequest (frame q : Nat) (s : State) : State :=
  let n := match s.xlat.counters.find? (fun e => e.1 = frame) with
    | some (_, x, k) => if x = q then k + 1 else 1
    | none => 1
  let p := proposalOf s (framePid s frame)
  let t := (p.map (·.threshold)).getD 0
  let hit := decide (t ≠ 0 ∧ n ≥ t)
  let here (e : Nat × Nat × Nat) : Bool := decide (homeDie (e.1 * 4096) = homeDie (frame * 4096))
  let rest := s.xlat.counters.filter (fun e => decide (e.1 ≠ frame))
  let kept := rest.filter (fun e => !here e) ++ (rest.filter here).take 8191
  let s1 := { s with xlat.counters := (frame, q, if hit then 0 else n) :: kept }
  match p with
  | some p => if hit then propose frame q p s1 else s1
  | none => s1

/-! ## Compression -/

/-- A handle of the zone that no compressed page has; which one is not given. -/
def freshHandle (s : State) : Nat :=
  let used (h : Nat) : Bool := s.xlat.zipped.any (fun z => decide (z.handle = h))
  let h := Config.freeNat (draw s 0) % 2 ^ 40
  if !used h then h else ((List.range (s.xlat.zipped.length + 1)).find? (fun i => !used i)).getD 0

/-- Bytes of the zone in use (R325). -/
def zoneUsed (s : State) : Nat := (s.xlat.zipped.map (fun z => Config.zippedSize z.data)).foldl (· + ·) 0

/-- Bytes of the zone. -/
def zoneSize (s : State) : Nat := (s.xlat.zone.map (·.2)).getD 0

/-- The leaf of a compressed page (R325). -/
def zipLeaf (h : Nat) (e : Word) : Word := (putBits e 12 40 h &&& ~~~1#64) ||| (1#64 <<< 62)

/-- A range lock covers bytes of a page of `n` bytes, through whatever mapping (R307). -/
def pageLocked (s : State) (frame n : Nat) : Bool := (List.range (n / 4096)).any (fun i => frameLocked s (frame / 4096 + i))

/-- A page that is not to be compressed: a large one, one not owned here, or one under a lock (R307). -/
def zipRefused (lvl : Nat) (e : Word) (s : State) : Bool :=
  let frame := pteAddr e / zippedBytes e * zippedBytes e
  decide (lvl ≠ 0 ∨ ownerOf s frame ≠ s.pkg ∨ offsetOf frame ≥ hbmEnd) || pageLocked s frame (zippedBytes e)

/-- Removes a page's translations, as `TLBINV` and `TLBSYNC` do, and compresses it (R307, R325). -/
def compress (va lvl : Nat) (e : Word) (a : Nat) (s : State) : Nat × State :=
  let n := zippedBytes e
  let frame := pteAddr e / n * n
  if zipRefused lvl e s then (3, s)
  else
    let s1 := emptyNotPresent (dropEntries ⟨0, BitVec.ofNat 64 va, s.ctx.space.asid, s.pid, 0⟩ (quiesce s))
    let data := memReadN s1.mem frame n
    if !Config.compressible data then (1, s1)
    else if zoneUsed s1 + Config.zippedSize data > zoneSize s1 then (2, s1)
    else
      let h := freshHandle s1
      let s2 := (pageEntries e a).foldl (fun s a =>
        homeWrite a (bytesOfWord 8 (zipLeaf h (readPte s a))) 0xFF false false s) s1
      let bad := (List.range (n / 128)).filter (fun i => linePoisoned s1 (lineOf frame + i))
      (0, moveDonews { s2 with xlat.zipped := s2.xlat.zipped ++ [⟨h, data, bad⟩] })

/-- `PGCMP` (R307, R325). DEDUCED, log 34. -/
def execPgcmp (fm : Form) (d a : Nat) (s : State) : Out :=
  runOne (fm.len 50) (fun s => do
    let _ ← atLeast s 1
    let _ ← need s [.g a]
    let va := rg s a
    if va.toNat ≥ 2 ^ 56 then raisePage .load 0 7 va s
    else if heapAddr s.ctx.space va.toNat then .ok (wg s d 3)
    else
      match walk s s.ctx.space va.toNat with
      | .poison => raiseAccess 0x0E 2 0 s
      | .stop lvl r => raisePage .load lvl r va s
      | .compressed _ _ _ => .ok (wg s d 4)
      | .leaf lvl e p =>
        if !step4 s s.ctx.space (leafPhys lvl e va.toNat) 1 then raisePage .load lvl 4 va s
        else
          let s ← settle 2 s
          let s ← if zipRefused lvl e s || quiet (quiesce s) then .ok s else waitIn (progress (quiesce s))
          let r := compress va.toNat lvl e p s
          .ok (wg r.2 d (BitVec.ofNat 64 r.1))) s

/-- `PAGE_EXPANSION`: the compression engine expands the page of an address in the active context's tables, in
hardware mode (R326). -/
def execPageExpansion (va : Word) (s : State) : Out :=
  if !s.core.act || s.modes.getLsbD 1 || heapAddr s.ctx.space va.toNat then .next s
  else
    match walk s s.ctx.space va.toNat with
    | .compressed _ e a => .next ((expandPage e a s).getD s)
    | _ => .next s

/-- The active context is about to fetch from a frame through an executable leaf without NAT, so that the frame counts
as mapped executable (R327). -/
def fetchesFrom (s : State) (frame : Nat) : Bool :=
  match translate .fetch s.pc 2 s with
  | .ok (s1, ph) =>
    decide (frameOf ph.pa = frame) && !((fetchLeaf s1 s.pc).map (fun t => t.pte.getLsbD 63)).getD true
  | .error _ => false

/-- `FRAME_TRANSLATION`: the firmware translates a frame in hardware mode, at its first fetch (R96, R327). A halted core
fetches nothing (R302). -/
def execFrameTranslation (frame : Nat) (s : State) : Out :=
  if s.modes.getLsbD 6 || !s.core.act || s.core.halted || !localMem s (frame * 4096) || !fetchesFrom s frame then .next s
  else .next (makeNative frame s)

/-! ## Services -/

/-- Windows and frames that a carve-out must not meet (R328). -/
def meetsGuests (s : State) (lo hi : Nat) : Bool :=
  (knownSpaces s).any (fun sp =>
    decide (sp.pid ≠ 0 ∧ sp.pwbase < sp.pwlimit ∧ sp.pwbase < hi ∧ lo < sp.pwlimit)) ||
  s.xlat.owners.any (fun e => decide (lo ≤ e.1 * 4096 ∧ e.1 * 4096 < hi))

/-- `RDCSIZE` (R328). Bytes that a smaller carve-out gives back read as they stood before they were carved out.
DESIGN CHOICE, log 74. -/
def execRdcsize (s : State) : Out :=
  service 0x40 2 (fun s =>
    let d := arg s 5
    let n := arg s 6
    let hi := s.pkg * 2 ^ 44 + (d + 1) * 0x3000000000
    if d > 3 ∨ n > 16 then (2, s)
    else if n ≠ 0 ∧ meetsGuests s (hi - n * 2 ^ 30) hi then (1, s)
    else
      let shrinks := decide (n < (s.xlat.carve[d]?).getD 0)
      (0, { s with xlat.carve := s.xlat.carve.setIfInBounds d n, coh := if shrinks then dropDie d s.coh else s.coh })) s

/-- `POOL` (R328). -/
def execPool (s : State) : Out :=
  service 0x41 2 (fun s =>
    if !aligned (arg s 5) 4096 || !pow2In (arg s 6) 16 (2 ^ 20) then (2, s)
    else (0, { s with xlat.pool := some ⟨arg s 5, arg s 6⟩ })) s

/-- `ZONE` (R328). -/
def execZone (s : State) : Out :=
  service 0x42 2 (fun s =>
    if !aligned (arg s 5) (2 ^ 21) || !aligned (arg s 6) (2 ^ 21) then (2, s)
    else if s.xlat.zipped ≠ [] then (1, s)
    else (0, { s with xlat.zone := some (arg s 5, arg s 6) })) s

/-- `PROPOSE` (R328). -/
def execPropose (s : State) : Out :=
  service 0x43 2 (fun s =>
    if arg s 5 ≥ 4096 ∨ ¬ aligned (arg s 6) 4096 ∨ ¬ pow2In (arg s 7) 1 (2 ^ 52) then (2, s)
    else
      let p : Proposal := ⟨arg s 5, ⟨arg s 6, arg s 7⟩, bits (rg s 8) 0 16, bits (rg s 8) 16 8⟩
      (0, { s with xlat.proposals := p :: s.xlat.proposals.filter (fun x => decide (x.pid ≠ p.pid)) })) s

/-- `EXPAND` (R328). -/
def execExpand (s : State) : Out :=
  service 0x44 1 (fun s =>
    let sp := s.ctx.space
    if !aligned (arg s 6) 4096 || decide (arg s 5 ≥ 2 ^ 56) then (2, s)
    else if heapAddr sp (arg s 5) then (1, s)
    else
      match walk s sp (arg s 5) with
      | .compressed _ e _ =>
        if !step4 s sp (arg s 6) (zippedBytes e) then (2, s)
        else
          match expandInto e (arg s 6) s with
          | some s1 => (0, s1)
          | none => (1, s)
      | _ => (1, s)) s

end Sys2Proof.Machine
end

