-- ==== Sys2Proof/Machine/Agents.lean ====
section
/-! DEFINITION. Machine steps of the memory system: store buffers, write-throughs, fills, sweeps, tokens,
confirmations, retention and requests from other packages (R145, R239 to R249). -/

namespace Sys2Proof.Machine

/-- `STORE_BUFFER_DRAIN` (R239). DEDUCED, log 60. -/
def execStoreBufferDrain (core : Nat) (s : State) : Out := .next (drainHead core s)

/-- `WRITE_THROUGH` (R242). -/
def execWriteThrough (die line : Nat) (s : State) : Out := .next (applyWt die line s)

/-- `WRITE_THROUGH_ACK` (R242). -/
def execWriteThroughAck (die line : Nat) (s : State) : Out := .next (ackWt die line s)

/-- `FILL_REQUEST`: a die asks for a line that another die of the package homes, and the home serves the fill
(R241, R243). -/
def execFillRequest (die line : Nat) (s : State) : Out :=
  if die > 3 ∨ ¬ localMem s (line * 128) ∨ homeDie (line * 128) = die then .next s
  else
    let stamp := generation s.coh die
    let r := serveFill die line s
    .next { r.1 with coh.fills := r.1.coh.fills ++ [⟨die, line, stamp, r.2, s.pid⟩] }

/-- `FILL_REPLY`: the oldest reply for a line reaches its die and makes a copy, unless the die holds a copy no
older (R241, R245). DEDUCED, log 36. -/
def execFillReply (die line : Nat) (s : State) : Out :=
  match s.coh.fills.find? (fun f => f.die = die ∧ f.line = line) with
  | none => .next s
  | some f =>
    let i := s.coh.fills.findIdx (fun f => f.die = die ∧ f.line = line)
    let rest := s.coh.fills.eraseIdx i
    let x : Copy := ⟨die, line, f.reply.1, f.reply.2.1, f.stamp, f.reply.2.2⟩
    let newer := (copyOf s.coh die line).any (fun y => decide (ageOf s.coh y ≤ ageOf s.coh x))
    let c := if newer then s.coh else putCopy x s.coh
    .next { s with coh := { c with fills := rest } }

/-- `GENERATION_SWEEP_END` (R246). -/
def execGenerationSweepEnd (die : Nat) (s : State) : Out :=
  if (s.coh.sweeping[die]?).getD false then .next { s with coh := endSweep die s.coh } else .next s

/-- `PERSISTENT_REQUEST`: a core's request enters its die's table; an active request holds every token (R240). -/
def execPersistentRequest (core line : Nat) (s : State) : Out :=
  let die := core / 64
  if core ≥ 256 ∨ s.coh.persistent.any (fun e => decide (e.1 = die ∧ e.2.1 = core)) then .next s
  else
    let c := { s.coh with persistent := s.coh.persistent ++ [(die, core, line)] }
    .next { s with coh := if activePersistent c die line = some core then serveRequest die line c else c }

/-- `CONFIRMATION_REQUEST` (R248). -/
def execConfirmationRequest (gtid line : Nat) (s : State) : Out :=
  .next (serveConfirm (BitVec.ofNat 64 gtid) line s)

/-- `WAYSIDE_ANSWER` (R145). -/
def execWaysideAnswer (gtid line : Nat) (s : State) : Out := .next (answerWayside (BitVec.ofNat 64 gtid) line s)

/-- `WAYSIDE_TIMEOUT` (R145). -/
def execWaysideTimeout (gtid line : Nat) (s : State) : Out := .next (timeoutWayside (BitVec.ofNat 64 gtid) line s)

/-- `RETENTION_ENTRY` (R247). -/
def execRetentionEntry (die slice : Nat) (s : State) : Out :=
  .next { s with coh.retained := ⟨die, slice, (s.coh.gencur[die]?).getD 0⟩ ::
    s.coh.retained.filter (fun r => decide (¬ (r.die = die ∧ r.slice = slice))) }

/-- `RETENTION_EXIT`: after 2^15 or more clearings the remote lines go (R247). Which lines lie in a slice is not
given: every copy of the die goes, with the fills on their way. DEDUCED, log 36. -/
def execRetentionExit (die slice : Nat) (s : State) : Out :=
  match s.coh.retained.find? (fun r => r.die = die ∧ r.slice = slice) with
  | none => .next s
  | some r =>
    let rest := s.coh.retained.filter (fun r => decide (¬ (r.die = die ∧ r.slice = slice)))
    let passed := ((s.coh.gencur[die]?).getD 0 + 2 ^ 32 - r.count) % 2 ^ 32
    let s1 := { s with coh.retained := rest }
    .next (if passed ≥ 2 ^ 15 then { s1 with coh := dropDie die s1.coh } else s1)

/-- A request is well formed: within a line; an atomic of 4 or 8 aligned bytes; a field of 2 or 4 bits; a group's list
within its limits (R418). -/
def reqOk (rq : RemoteReq) : Bool :=
  let (a, n) := reqRange rq
  (match rq with
   | .bind g p l => decide (g ≤ 65535 ∧ p ≤ 4095 ∧ l.length ≤ 4096)
   | .abort g _ k _ => decide (g ≤ 65535 ∧ (k = 6 ∨ k = 9))
   | _ => decide (1 ≤ n ∧ a % 128 + n ≤ 128)) &&
  (match rq with
   | .read _ _ | .bind _ _ _ | .abort _ _ _ _ => true
   | .write _ n _ => decide (n ≤ 8)
   | .atomic op a n _ _ => decide (op ≤ 10 ∧ (n = 4 ∨ n = 8) ∧ a % n = 0)
   | .subByte _ w _ => decide (w = 2 ∨ w = 4))

/-- The device registers or the host link of this package serve a request of another package: an aligned 8-byte
access to a register, and what R413 allows of the host window (R412, R413). -/
def deviceRequest (rq : RemoteReq) (s : State) : State :=
  match rq with
  | .read _ _ | .bind _ _ _ | .abort _ _ _ _ => s
  | .write a n v =>
    if isDevReg a then (if n = 8 ∧ a % 8 = 0 then devWrite (offsetOf a - hbmEnd) v s else s)
    else if hostLinkUp s then homeWrite a (bytesOfNat n v.toNat) 0xFF false false s
    else s
  | .atomic op a _ _ _ =>
    if isDevReg a || !hostLinkUp s || !(s.host.cxl || [0, 8, 9].contains op) then s else applyRemote 0 rq false false s
  | .subByte f w _ =>
    if isDevReg (f / (8 / w)) || !hostLinkUp s || !s.host.cxl then s else applyRemote 0 rq false false s

/-- What a read of a device register returns; other reads return the bytes at the address. -/
def deviceReply (rq : RemoteReq) (s : State) : List Byte × Bool :=
  match rq with
  | .read a n =>
    if isDevReg a then (bytesOfWord n (devRead s (offsetOf a - hbmEnd)), poisonedDoorbell s (offsetOf a - hbmEnd))
    else replyTo rq s
  | _ => replyTo rq s

/-- Notes that a request of another package has been applied, and keeps the reply (R390). -/
def noteApplied (pkg seq : Nat) (d : List Byte × Bool) (s : State) : State :=
  keepReply pkg seq d { s with fab := recordSeq pkg s.pkg seq s.fab }

/-- A request for a page that another package owns by now is forwarded to it, and answered when it has been applied there
(R250, R322). It waits while the messages to the owner are too many (R390). -/
def forwardRequest (pkg : Nat) (x : SentReq) (pa : Nat) (s : State) : State :=
  if pairFull s pa then s
  else sendMsgFor (some (pkg, x.seq)) none (ownerOf s pa) 0 0 x.req x.poison x.full
    { s with fab := recordSeq pkg s.pkg x.seq s.fab }

/-- `REMOTE_PACKAGE_REQUEST`: applied once, by its sequence number (R390); performed where this package owns the page,
and counted (R249, R323), or by the device it names (R412), or forwarded; a group's list is recorded (R418), and an abort
reaches the members here (R393). One that carries an old incarnation is stale (R391), and a home on a die that has been
fenced off serves none (R389). -/
def execRemotePackageRequest (pkg : Nat) (x : SentReq) (s : State) : Out :=
  let (a, n) := reqRange x.req
  let done (d : List Byte × Bool) (t : State) : State := noteApplied pkg x.seq d t
  if pkg = s.pkg ∨ ¬ reqOk x.req then .next s
  else if x.inc ≠ incOf s (.package pkg) ∨ s.rel.deadPkgs.contains pkg then .next (dropStale (.package pkg) (reqLine x.req) s)
  else if !(seenOf s.fab pkg s.pkg).fresh x.seq then .next s
  else
    match x.req with
    | .bind g p l => .next (done ([], false) (bindGroup g p l s))
    | .abort g i k m => .next (done ([], false) (abortCollective g i k m s))
    | rq =>
      if offsetOf a ≥ hbmEnd then
        .next (if originOf a = s.pkg ∧ reachable s a then done (deviceReply rq s) (deviceRequest rq s) else s)
      else if inCarve s a n || (localMem s a && deadHome s a) then .next s
      else if localMem s a then
        .next (countRequest (frameOf a) pkg (done (replyTo rq s) (applyRemote 0 rq x.poison x.full s)))
      else .next (forwardRequest pkg x a s)

end Sys2Proof.Machine
end

