-- ==== Sys2Proof/Machine/Debug.lean ====
section
/-! DEFINITION. The watch filter, `DUMP`, stops that follow a task, and the roll call (R305, R306, R395 to R411,
R420). -/

namespace Sys2Proof.Machine

/-! ## The watch filter -/

/-- The aligned units of `u` bytes that lie wholly in a range, as first and count, and the ranges that remain
(R397). -/
def carveUnits (u : Nat) (seg : Nat × Nat) : (Nat × Nat) × List (Nat × Nat) :=
  let a := (seg.1 + u - 1) / u
  let b := seg.2 / u
  if a < b then ((a, b - a), [(seg.1, a * u), (b * u, seg.2)]) else ((a, 0), [seg])

/-- Runs of units of one level that a split takes out of ranges, and the ranges that remain. -/
def splitLevel (on : Bool) (u : Nat) (segs : List (Nat × Nat)) : List (Nat × Nat) × List (Nat × Nat) :=
  let segs := segs.filter (fun x => decide (x.1 < x.2))
  if on then (segs.map (fun x => (carveUnits u x).1), segs.flatMap (fun x => (carveUnits u x).2)) else ([], segs)

/-- Granules that meet ranges, as first and count. -/
def granules (segs : List (Nat × Nat)) : List (Nat × Nat) :=
  (segs.filter (fun x => decide (x.1 < x.2))).map (fun x => (x.1 / 64, (x.2 + 63) / 64 - x.1 / 64))

/-- Insertions of a split into the 2 MiB level, the 4 KiB level and the base filter (R397). -/
structure Split where
  regions : List (Nat × Nat)
  pages : List (Nat × Nat)
  grains : List (Nat × Nat)
deriving DecidableEq, Repr

/-- The split of [lo, hi) under `WATCHF`. -/
def splitRange (watchf : Word) (lo hi : Nat) : Split :=
  let r := splitLevel (watchf.getLsbD 2) (2 ^ 21) [(lo, min hi (2 ^ 56))]
  let p := splitLevel (watchf.getLsbD 1) 4096 r.2
  ⟨r.1, p.1, granules p.2⟩

/-- Units in runs. -/
def unitCount (l : List (Nat × Nat)) : Nat := l.foldl (fun n x => n + x.2) 0

/-- Insertions a split needs. -/
def Split.count (x : Split) : Nat := unitCount x.regions + unitCount x.pages + unitCount x.grains

/-- Inserts the keys of runs into a level of 2^b bits (R396). -/
def insertRuns {w : Nat} (b : Nat) (l : List (Nat × Nat)) (f : BitVec w) : BitVec w :=
  l.foldl (fun f r => (List.range r.2).foldl (fun f i =>
    (watchHash (r.1 + i) b).foldl (fun f h => f ||| (1#w <<< h)) f) f) f

/-- The filter with a split inserted. -/
def insertSplit (x : Split) (w : Watch) : Watch :=
  { base := insertRuns 12 x.grains w.base, s4k := insertRuns 11 x.pages w.s4k, s2m := insertRuns 11 x.regions w.s2m }

/-- `WPINS` (R305, R397). -/
def execWpins (fm : Form) (a b : Nat) (s : State) : Out :=
  runOne (fm.len 50) (fun s => do
    let _ ← atLeast s 1
    let _ ← need s [.g a, .g b]
    let x := splitRange s.ctx.prv.watchf (rg s a).toNat ((rg s a).toNat + (rg s b).toNat)
    if x.count > 65536 then raiseIll s
    else .ok { s with ctx.aux.watch := insertSplit x s.ctx.aux.watch }) s

/-- `WPCLR` (R305, R397). -/
def execWpclr (fm : Form) (s : State) : Out :=
  runOne (fm.len 50) (fun s => do
    let _ ← atLeast s 1
    .ok { s with ctx.aux.watch := ⟨0, 0, 0⟩ }) s

/-! ## The image of a context -/

/-- Elements of a file whose poison bits are set are zero. -/
def cleanFile {n w k : Nat} (bad : BitVec k) (v : Vector (BitVec w) n) : Vector (BitVec w) n :=
  Vector.ofFn (fun i => if bad.getLsbD i.val then 0 else v[i])

/-- A tile band with its poisoned rows at zero, their side-store rows with them (R370, R409). -/
def cleanTile (t : Tile) : Tile :=
  { t with
    rows := t.bad.foldl (fun l r => l.set r 0) t.rows
    side := t.side.map (fun x => { x with rows := t.bad.foldl (fun l r => l.set r 0) x.rows })
    bad := [] }

/-- An accumulator with its poisoned rows and cells at zero. -/
def cleanAcc (a : Acc) : Acc :=
  let bs := a.badCells.foldl (fun bs b => bs.modify b.1 (fun rows => rows.modify b.2.1 (fun r => r.set b.2.2 0))) a.bands
  { a with
    bands := a.bad.foldl (fun bs b => bs.modify b.1 (fun rows => rows.set b.2 [])) bs
    bad := []
    badCells := [] }

/-- Control registers of block 1 that are poisoned, at zero. -/
def cleanCtl (bad : List Nat) (x : Ctl) : Ctl :=
  let z (n : Nat) (v : Word) : Word := if bad.contains n then 0 else v
  { x with
    fcsr := z 0x001 x.fcsr, tctl := z 0x002 x.tctl, xstate := z 0x003 x.xstate, utvec := z 0x004 x.utvec
    ucause := z 0x005 x.ucause, uepc := z 0x006 x.uepc, utval := z 0x007 x.utval, hbase := z 0x010 x.hbase
    hlimit := z 0x011 x.hlimit, hoffs := z 0x012 x.hoffs }

/-- A trap set with its poisoned registers at zero. -/
def cleanTrapSet (bad : List Nat) (lvl : Nat) (x : TrapSet) : TrapSet :=
  let z (n : Nat) (v : Word) : Word := if bad.contains (256 * lvl + n) then 0 else v
  { deleg := z 1 x.deleg, tvec := z 2 x.tvec, cause := z 3 x.cause, epc := z 4 x.epc, tval := z 5 x.tval, scr := z 6 x.scr }

/-- Privileged registers as a dump shows them: those of levels above the issuer's and poisoned ones at zero
(R409). -/
def dumpPriv (pl : Nat) (bad : List Nat) (x : Priv) : Priv :=
  let z (n : Nat) (v : Word) : Word := if n / 256 > pl ∨ bad.contains n then 0 else v
  { x with
    status := fields [(0, 2), (4, pl), (7, 1)] (z 0x100 x.status), ptbase := z 0x108 x.ptbase, teamlim := z 0x109 x.teamlim, watchf := z 0x10A x.watchf
    partid := z 0x208 x.partid, pwbase := z 0x209 x.pwbase, pwlimit := z 0x20A x.pwlimit
    sup := if pl < 1 then TrapSet.reset else cleanTrapSet bad 1 x.sup
    hyp := if pl < 2 then TrapSet.reset else cleanTrapSet bad 2 x.hyp
    mon := if pl < 3 then TrapSet.reset else cleanTrapSet bad 3 x.mon }

/-- A context as a dump at a level shows it (R409). -/
def dumpCtx (pl : Nat) (c : Ctx) : Ctx :=
  let p := c.aux.poison
  { c with
    regs := { c.regs with
      g := cleanFile p.g c.regs.g, f := cleanFile p.f c.regs.f, m := cleanFile p.m c.regs.m
      p := Vector.ofFn (fun i => !p.p.getLsbD i.val && c.regs.p[i]) }
    ctl := cleanCtl p.ctl c.ctl
    prv := dumpPriv pl p.ctl c.prv
    t := c.t.map (fun t => t.map cleanTile)
    c := c.c.map cleanAcc }

/-- Some state of a context is poisoned. -/
def anyPoison (c : Ctx) : Bool :=
  let p := c.aux.poison
  decide (p.g ≠ 0 ∨ p.f ≠ 0 ∨ p.p ≠ 0 ∨ p.m ≠ 0 ∨ p.ctl ≠ []) ||
  c.t.toList.any (fun t => t.any (fun b => !b.bad.isEmpty)) || c.c.toList.any (fun a => !a.bad.isEmpty || !a.badCells.isEmpty)

/-- Bytes up to a multiple of 8. -/
def padTo8 (l : List Byte) : List Byte := l ++ List.replicate ((8 - l.length % 8) % 8) 0

/-- The section of a band of the extension stream (R350). -/
def bandSection (c : Ctx) (e : Nat) : List Byte :=
  bandHead c e ++
  (List.range 16).flatMap (fun n => let t := tileBand (c.tile n) e; if tileLive t then savedTile t else []) ++
  (List.range 8).flatMap (fun n => let a := c.acc n; if a.tag = .empty then [] else savedAcc a.tag (a.band e)) ++
  annex c e

/-- The body of an image (R410). -/
def imageBody (c : Ctx) : List Byte :=
  block1 c ++ block2 c ++ padTo8 (annex c 0) ++
  (List.range 16).flatMap (fun n =>
    let t := tileBand (c.tile n) 0
    (List.range t.rows.length).flatMap (savedRow t)) ++
  (List.range 8).flatMap (fun n =>
    let a := c.acc n
    if a.tag = .empty then [] else (savedAcc a.tag (a.band 0)).take (512 * a.rext)) ++
  (List.range (c.aux.gang - 1)).flatMap (fun e => bandSection c (e + 1))

/-- An image's header (R410). -/
def imageHeader (flags : Nat) (c : Ctx) (required written cycle : Nat) : List Byte :=
  bytesOfNat 8 flags ++ bytesOfNat 8 (bits c.prv.gtid 0 48) ++ bytesOfNat 8 c.pid ++ bytesOfNat 8 required ++
  bytesOfNat 8 written ++ bytesOfNat 8 cycle ++ bytesOfNat 16 0

/-- FLAGS of a header that is complete (R410). -/
def imageFlags (trunc poison : Bool) : Nat :=
  0x10001 + (if trunc then 2 ^ 17 else 0) + (if poison then 2 ^ 18 else 0)

/-! ## DUMP -/

/-- Checks one write of a dump in the order of R111; the watch filter does not apply (R398, R409). -/
def dumpCheck (va : Word) (n : Nat) (s : State) : Except Stop (State × Phys) := do
  if va.toNat % 8 ≠ 0 then raiseAccess 0x04 1 va s
  else
    let (s, ph) ← checkPage .store .scalar va n s
    if locked s .store va.toNat n then raiseAccess 0x08 1 va s else .ok (s, ph)

/-- Checks the writes of a dump in order, up to the first that fails: the pieces before it, and its address. A write
that has to wait makes the dump wait. -/
def dumpPieces : List (Word × List Byte) → State → Except Stop (State × List (Nat × List Byte) × Option Word)
  | [], s => .ok (s, [], none)
  | (va, d) :: l, s =>
    match dumpCheck va d.length s with
    | .error (.wait s1) => waitIn s1
    | .error (.trap _ s1) => .ok (s1, [], some va)
    | .ok (s1, ph) =>
      match dumpPieces l s1 with
      | .error e => .error e
      | .ok (s2, r, f) => .ok (s2, (ph.pa, d) :: r, f)

/-- The 8-byte writes of bytes from an address up; an image may end with one of 4 bytes, as its annexes may. -/
def dwordWrites (va : Word) (d : List Byte) : List (Word × List Byte) :=
  (List.range ((d.length + 7) / 8)).map (fun i => (va + BitVec.ofNat 64 (8 * i), (d.drop (8 * i)).take 8))

/-- The writes of a dump in order: body, header, FLAGS last (R409). -/
def dumpWrites (va : Word) (header body : List Byte) : List (Word × List Byte) :=
  dwordWrites (va + 64) body ++ dwordWrites (va + 8) (header.drop 8) ++ [(va, header.take 8)]

/-- The writes of a dump into a buffer of `n` bytes (R410, R411). -/
def dumpPlan (pl cycle : Nat) (lost : Bool) (va : Word) (n : Nat) (c : Ctx) : List (Word × List Byte) :=
  let body := imageBody (dumpCtx pl c)
  let required := 64 + body.length
  if n < 64 then []
  else
    let trunc := decide (n < required)
    let room := if trunc then (n - 64) / 8 * 8 else body.length
    dumpWrites va (imageHeader (imageFlags trunc (lost || anyPoison c)) c required room cycle) (body.take room)

/-- `DUMP` (R306, R409 to R411). -/
def execDump (fm : Form) (d a b : Nat) (s : State) : Out :=
  runOne (fm.len 50) (fun s => do
    let _ ← atLeast s 1
    let _ ← need s [.g a, .g b]
    match s.core.lodge with
    | none => .ok (wg (wg s d 0) (d + 1) 0)
    | some c =>
      if s.pl = 1 ∧ c.pid ≠ s.pid then .error (.trap (privTrap 0 s) s)
      else
        let x := spillable s c
        let (s1, pieces, fault) ← dumpPieces (dumpPlan s.pl s.cyc (decide (x.2 ≠ 0)) (rg s a) (rg s b).toNat x.1) s
        let s2 ← storePieces pieces s1
        .ok (wg (wg s2 d (BitVec.ofNat 64 (pieces.foldl (fun n p => n + p.2.length) 0))) (d + 1) (fault.getD 0))) s

/-! ## Byte rings -/

/-- Writes bytes into the data area of a ring of R405, wrapping at its end. -/
def ringData (r : Ring) (at_ : Nat) (d : List Byte) (s : State) : State :=
  let o := at_ % r.count
  let n := r.count - o
  let s1 := agentWrite (r.addr + 4096 + o) (d.take n) s
  if d.length ≤ n then s1 else agentWrite (r.addr + 4096) (d.drop n) s1

/-- Bytes fit in a ring of R405. -/
def ringFits (r : Ring) (n : Nat) (s : State) : Bool :=
  decide (n ≤ r.count - (ringHead s r - ringTail s r))

/-- Writes a whole record and then advances HEAD by its length (R405). -/
def ringAppend (r : Ring) (d : List Byte) (s : State) : State :=
  let h := ringHead s r
  agentWrite r.addr (bytesOfNat 8 ((h + d.length) % 2 ^ 64)) (ringData r h d s)

/-- Counts an entry that does not fit in LOST, which saturates (R405, R420). -/
def ringLose (r : Ring) (s : State) : State :=
  let n := natOfBytes (memReadN s.mem (r.addr + 16) 8)
  agentWrite (r.addr + 16) (bytesOfNat 8 (min (n + 1) (2 ^ 64 - 1))) s

/-! ## Dumps of contained contexts -/

/-- A notice of the dump ring (R420). -/
def dumpNotice (c : Ctx) (area : Nat) : List Byte :=
  bytesOfNat 8 2 ++ bytesOfNat 8 (bits c.prv.gtid 0 48) ++ bytesOfNat 8 c.pid ++ bytesOfNat 8 area ++ bytesOfNat 32 0

/-- An entry goes to the dump ring, and INT 8 to the core NOTIFY names (R420). -/
def dumpEntry (d : List Byte) (s : State) : State :=
  match s.host.dumpRing with
  | none => s
  | some r =>
    if ringFits r d.length s then pendInt s.host.notifyCore 0x0008 0 (ringAppend r d s) else ringLose r s

/-- What is kept of a context that containment kills while its state can be read (R420): its image, or, in
host-assisted mode, an unsealed area and a notice. -/
def dumpContained (c : Ctx) (s : State) : State :=
  let x := spillable s c
  if !s.modes.getLsbD 5 then
    let body := imageBody (dumpCtx 3 x.1)
    let flags := imageFlags false (decide (x.2 ≠ 0) || anyPoison x.1)
    dumpEntry (imageHeader flags x.1 (64 + body.length) body.length s.cyc ++ body) s
  else
    match takeArea c.pid s with
    | none => s
    | some (area, s1) =>
      let s2 := spillTo x.1 area s1
      dumpEntry (dumpNotice x.1 area) (setAreaFlags area (areaFlags s2 area ||| (1#64 <<< 19)) s2)

/-- `THREAD_KILL` (R21, R22), by privileged software or by a containment action. DEDUCED, log 41. -/
def execThreadKill (gtid : Nat) (contained : Bool) (s : State) : Out :=
  let g := BitVec.ofNat 64 gtid
  if (findContext s g).isSome || !(killRecs g s).isEmpty || ((teamOf s g).bind (fun t => memberOf t g)).any (fun m => decide (m.life ≠ .ended))
  then
    let s1 := match findContext s g with
      | some c => if contained then dumpContained c s else s
      | none => s
    .next (killThread g false s1)
  else .next s

end Sys2Proof.Machine
end

