-- ==== Sys2Proof/Machine/Rollcall.lean ====
section
/-! DEFINITION. Stops that follow a task and the roll call (R401 to R408). -/

namespace Sys2Proof.Machine

/-! ## Stops -/

/-- Records of a partition's run queues that name a thread and have not been freed (R360). -/
def queuedRecs (s : State) (pid : Nat) (gtid : Word) : List Nat :=
  (s.sched.runqs.filter (fun q => decide (q.pid = pid))).flatMap (fun q =>
    ((List.range q.count).map (recAddr q)).filter (fun a =>
      decide (recState s a ≠ 0 ∧ recField s a 0x10 6 = bits gtid 0 48)))

/-- A thread that has not ended exists in the caller's partition (R401). -/
def stopTarget (s : State) (gtid : Word) : Bool :=
  !hasEnded s gtid &&
  (match pidOf s gtid with
   | some p => decide (p = s.pid)
   | none => !(queuedRecs s s.pid gtid).isEmpty ||
     s.xlat.saved.any (fun x => decide (x.gtid = gtid ∧ x.space.pid = s.pid)))

/-- Sets or clears `STATUS.STEP` (R401). -/
def setStep (on : Bool) (c : Ctx) : Ctx := { c with prv.status := putBits c.prv.status 7 1 (if on then 1 else 0) }

/-- `DBGSTOP` (R401, R402). DEDUCED, log 38. -/
def execDbgstop (s : State) : Out :=
  service 0x58 1 (fun s =>
    let g := rg s 5
    let on := decide (arg s 6 = 1)
    if arg s 6 > 1 ∨ g.toNat ≥ 2 ^ 48 ∨ ¬ stopTarget s g then (2, s)
    else if (findContext s g).isSome then (0, onContext g (setStep on) s)
    else
      let rest := s.dbg.stops.filter (fun x => decide (x.1 ≠ g))
      if rest.length ≥ 64 then (1, s) else (0, { s with dbg.stops := rest ++ [(g, on)] })) s

/-! ## Run states -/

/-- The ordering of an atomic. -/
def orderOf : Instr → Option (Order × Scope)
  | .amoadd _ o _ sc _ _ _ => some (o, sc)
  | .amoand _ o _ sc _ _ _ => some (o, sc)
  | .amoor _ o _ sc _ _ _ => some (o, sc)
  | .amoxor _ o _ sc _ _ _ => some (o, sc)
  | .amomin _ o _ sc _ _ _ => some (o, sc)
  | .amomax _ o _ sc _ _ _ => some (o, sc)
  | .amominu _ o _ sc _ _ _ => some (o, sc)
  | .amomaxu _ o _ sc _ _ _ => some (o, sc)
  | .amoswap _ o _ sc _ _ _ => some (o, sc)
  | .amocas _ o _ sc _ _ _ => some (o, sc)
  | .amofadd _ o _ sc _ _ _ => some (o, sc)
  | _ => none

/-- The instruction is a release that R147 may hold back. -/
def mayRelease (s : State) (i : Instr) : Bool :=
  match i with
  | .stl _ sc _ _ _ _ => decide (2 ≤ sc.code)
  | .fence _ k sc => decide ((k = .release ∨ k = .sc) ∧ 2 ≤ sc.code)
  | .tbar _ n => (barOf s n).any (fun x => decide (2 ≤ x.2.scope))
  | .tspawn _ _ a =>
    match readRecord (rg s a) s with
    | .ok (_, b, _) => decide (2 ≤ widestScope (usedLevels b))
    | .error _ => false
  | i =>
    match orderOf i with
    | some (o, sc) => decide ((o = .rel ∨ o = .ar) ∧ 2 ≤ sc.code)
    | none => false

/-- The oldest instruction of the current core: the one at its program counter. -/
def oldest (s : State) : Option Instr :=
  match fetchDecode s with
  | .exec i _ => some i
  | .idle _ => none

/-- The oldest instruction is a tile or vector instruction (pages 16 to 25). -/
def onEngine (i : Instr) : Bool := (i.enc).any (fun e => decide (16 ≤ e.page ∧ e.page ≤ 25))

/-- A tile or vector instruction waits for an engine cycle or a gang, not on memory (R404). -/
def waitsOnEngine (s : State) : Instr → Bool
  | .tsync _ => false
  | .tgang _ _ => true
  | i => onEngine i && (s.ctx.aux.regang.isSome ||
      !(myEngines s).all (fun n => hasSlot s n s.cur (decide (s.ctx.aux.gang > 1))))

/-- Run-state code of the current core (R404). -/
def runState (s : State) : Nat :=
  let i := oldest s
  let idle := !s.core.act || s.core.quantum.any (fun q => decide (bits q.2 62 2 = 0)) ||
    (match i with | some (.wfi _) => true | _ => false)
  if s.core.swapping || (!s.core.act && s.core.lodge.any (fun c => (spillWork c).isSome)) then 7
  else if idle then 0
  else if s.pl ≥ 1 ∨ s.ctx.ubusy then 6
  else if s.core.retired.any (fun c => decide (s.cyc ≤ c + 64)) then 1
  else if (match s.ctx.aux.sent with | .stall _ _ _ _ => true | _ => false) then 5
  else if (match i with | some (.chkw _ _) => true | _ => false) || (waysidePending s.ctx && i.any (mayRelease s)) then 4
  else if i.any (waitsOnEngine s) then 3
  else 2

/-- What a core latches: run state, GTID and program counter; an idle core reports 0 and 0 (R403, R404). -/
def latch (s : State) (core : Nat) : Nat × Word × Word :=
  let s1 := switchTo s core
  let st := runState s1
  if st = 0 ∨ ¬ s1.core.act then (st, 0, 0) else (st, BitVec.ofNat 64 (bits s1.ctx.prv.gtid 0 48), s1.pc)

/-! ## Records -/

/-- Word 0 of a record (R406). -/
def rollWord (kind die k len tick : Nat) : Nat :=
  kind * 2 ^ 60 + die * 2 ^ 58 + k * 2 ^ 53 + len % 8192 * 2 ^ 40 + tick % 2 ^ 40

/-- PC form and bytes of an entry: the smallest that holds the difference (R406, R407). -/
def pcForm (full : Bool) (old new : Word) : Nat × List Byte :=
  let d : Int := ((new.toNat : Int) - old.toNat) / 2
  if full then (3, bytesOfNat 7 (new.toNat / 2 % 2 ^ 55))
  else if new = old then (0, [])
  else if -32768 ≤ d ∧ d < 32768 then (1, bytesOfNat 2 (ofInt d).toNat)
  else if -2147483648 ≤ d ∧ d < 2147483648 then (2, bytesOfNat 4 (ofInt d).toNat)
  else (3, bytesOfNat 7 (new.toNat / 2 % 2 ^ 55))

/-- An entry of a record (R406). -/
def rollEntry (full : Bool) (old new : Nat × Word × Word) : List Byte :=
  let g := full || decide (old.2.1 ≠ new.2.1)
  let (pf, pc) := pcForm full old.2.2 new.2.2
  [BitVec.ofNat 8 (new.1 * 32 + (if g then 16 else 0) + pf * 4)] ++
    (if g then bytesOfNat 6 new.2.1.toNat else []) ++ pc

/-- A delta or resync record of a die (R406, R407). -/
def rollRecord (full : Bool) (die k cyc : Nat) (old new : List (Nat × Word × Word)) : List Byte :=
  let o (i : Nat) : Nat × Word × Word := (old[i]?).getD (0, 0, 0)
  let n (i : Nat) : Nat × Word × Word := (new[i]?).getD (0, 0, 0)
  let l := (List.range 64).filter (fun i => full || decide (o i ≠ n i))
  let mask := l.foldl (fun m i => m + 2 ^ i) 0
  let body := padTo8 (l.flatMap (fun i => rollEntry full (o i) (n i)))
  bytesOfNat 8 (rollWord (if full then 2 else 1) die k (2 + body.length / 8) (cyc / 2 ^ k)) ++ bytesOfNat 8 mask ++ body

/-- A lost record (R406, R407). -/
def lostRecord (die k cyc lost : Nat) : List Byte :=
  bytesOfNat 8 (rollWord 3 die k 2 (cyc / 2 ^ k)) ++ bytesOfNat 8 lost

/-- A die's trace unit writes the record of a roll call, or drops it and counts it (R405, R407). -/
def rollDie (die : Nat) (new : List (Nat × Word × Word)) (s : State) : State :=
  let r : Ring := ⟨s.dbg.rollRing, s.dbg.rollSize⟩
  let d := (s.dbg.roll[die]?).getD ⟨[], 0, 0⟩
  let full := decide (d.count = 0 ∨ d.lost ≠ 0 ∨ (d.count + 1) % 256 = 0)
  let first := if d.lost = 0 then [] else lostRecord die s.dbg.rollK s.cyc d.lost
  let rec' := rollRecord full die s.dbg.rollK s.cyc d.last new
  if ringFits r (first.length + rec'.length) s then
    let s1 := if first.isEmpty then s else ringAppend r first s
    let s2 := ringAppend r rec' s1
    let n := d.count + (if first.isEmpty then 1 else 2)
    { s2 with dbg.roll := s2.dbg.roll.setIfInBounds die ⟨new, n, 0⟩ }
  else
    let s1 := ringLose r s
    { s1 with dbg.roll := s1.dbg.roll.setIfInBounds die { d with lost := d.lost + 1 } }

/-- The next multiple of `n` after a cycle. -/
def multipleAfter (n c : Nat) : Nat := (c / n + 1) * n

/-- The cycle of a change of k that is due (R403). -/
def periodDue (s : State) : Option Nat :=
  let m := multipleAfter (2 ^ 24) s.dbg.rollAt
  if s.dbg.rollNext.isSome && decide (m ≤ s.cyc) then some m else none

/-- The cycle of a roll call that is due, before a change of k at that cycle (R403); before stage 6 the roll call is off
(R426). -/
def rollDue (s : State) : Option Nat :=
  let m := multipleAfter (2 ^ s.dbg.rollK) s.dbg.rollAt
  if s.dbg.rollK ≠ 0 && decide (bits s.boot.bootst 0 4 = 6 ∧ m ≤ s.cyc) && (periodDue s).all (fun c => decide (m < c)) then some m else none

/-- The roll call of a cycle: every core of every live die in the mask latches, and the trace units write (R403,
R405). Time stands as it does (R408). -/
def rollCallAt (m : Nat) (s : State) : State :=
  let s1 := { s with cyc := m }
  let dies := (List.range 4).filter (fun d => decide (s.dbg.rollMask / 2 ^ d % 2 = 1) && dieLive s d)
  let latched := dies.map (fun d => (d, (List.range 64).map (fun i => latch s1 (d * 64 + i))))
  let s2 := latched.foldl (fun s x => rollDie x.1 x.2 s) s1
  { s2 with cyc := s.cyc, dbg.rollAt := m }

/-- `ROLL_CALL`: the roll call that is due takes place (R403). DEDUCED, log 65. -/
def execRollCall (s : State) : Out :=
  match rollDue s with
  | none => .next s
  | some m => .next (rollCallAt m s)

/-- A new k takes effect at a cycle (R403). -/
def changePeriod (m : Nat) (s : State) : State :=
  { s with dbg.rollK := s.dbg.rollNext.getD s.dbg.rollK, dbg.rollNext := none, dbg.rollAt := m - 1 }

/-- `ROLLCALL_PERIOD_CHANGE`: a new k takes effect at a multiple of 2^24 cycles (R403). -/
def execRollcallPeriodChange (s : State) : Out :=
  match periodDue s with
  | some m => .next (changePeriod m s)
  | none => .next s

/-- The ring of a roll call meets the window of a partition other than PID 0 (R405). -/
def ringInWindow (s : State) (lo hi : Nat) : Bool :=
  (knownSpaces s).any (fun sp => decide (sp.pid ≠ 0 ∧ sp.pwbase < sp.pwlimit ∧ sp.pwbase < hi ∧ lo < sp.pwlimit))

/-- Every roll call and change of k up to the current cycle takes place (R403). -/
def catchUp : Nat → State → State
  | 0, s => s
  | n + 1, s =>
    match rollDue s, periodDue s with
    | some m, _ => catchUp n (rollCallAt m s)
    | none, some m => catchUp n (changePeriod m s)
    | none, none => s

/-- `ROLLCALL` (R401, R403, R405): the new k takes effect at the next multiple of 2^24, and the first record from now on is
a resync record (R407). -/
def execRollcall (s : State) : Out :=
  service 0x59 2 (fun s =>
    let k := arg s 5
    let s := catchUp (s.cyc - s.dbg.rollAt + 2) s
    if k = 0 then
      (0, { s with
        dbg.rollNext := some 0
        dbg.rollAt := s.cyc
        dbg.roll := s.dbg.roll.map (fun d => { d with last := [], count := 0 }) })
    else if k < 10 ∨ 24 < k ∨ 15 < arg s 6 ∨ ¬ aligned (arg s 7) 4096 ∨ ¬ pow2In (arg s 8) (2 ^ 16) (2 ^ 30) then (2, s)
    else if ringInWindow s (arg s 7) (arg s 7 + 4096 + arg s 8) then (1, s)
    else
      (0, { s with
        dbg.rollNext := some k
        dbg.rollAt := s.cyc
        dbg.rollMask := arg s 6
        dbg.rollRing := arg s 7
        dbg.rollSize := arg s 8
        dbg.roll := Vector.replicate 4 ⟨[], 0, 0⟩ })) s

end Sys2Proof.Machine
end

