-- ==== Sys2Proof/Machine/Tmma.lean ====
section
/-! DEFINITION. `TMMA`: operands, steps, carries and the cellar, the array's checksums and retirement (R14, R54 to
R57, R169 to R182, R193, R374 to R378). -/

namespace Sys2Proof.Machine

/-! ## Formats of a pair -/

/-- Format of an operand element. -/
inductive AFmt where
  | float (f : EFmt)
  | int8
  | int4
  | sx (k : SxK)
deriving DecidableEq, Repr

/-- Formats of A and B of a pair (R89, R169). -/
def pairFmts : Pair → AFmt × AFmt
  | .fp64 => (.float .fp64, .float .fp64)
  | .fp32 => (.float .fp32, .float .fp32)
  | .bf16 => (.float .bf16, .float .bf16)
  | .fp16 => (.float .fp16, .float .fp16)
  | .e4m3 => (.float .e4m3, .float .e4m3)
  | .e5m2 => (.float .e5m2, .float .e5m2)
  | .int8 => (.int8, .int8)
  | .int4 => (.int4, .int4)
  | .sx7 => (.sx .sx7, .sx .sx7)
  | .sx4 => (.sx .sx4, .sx .sx4)
  | .sx2 => (.sx .sx2, .sx .sx2)
  | .e4m3e5m2 => (.float .e4m3, .float .e5m2)
  | .e5m2e4m3 => (.float .e5m2, .float .e4m3)
  | .sx4sx7 => (.sx .sx4, .sx .sx7)

/-- Elements of a slab (R14). -/
def AFmt.slab : AFmt → Nat
  | .float f => 1024 / f.bits
  | .int8 => 128
  | .int4 => 256
  | .sx k => 16 * k.blocks

/-- Tag a pair accumulates into (R170). -/
def pairTag : Pair → Tag
  | .fp64 => .fp64
  | .int8 => .int
  | .int4 => .int
  | _ => .fp32

/-- Rows and columns of a step (R174). -/
def stepSize : Pair → Nat
  | .fp64 => 8
  | .fp32 => 8
  | _ => 16

/-- Tiles of a B group (R169). -/
def groupSize (wide : Bool) : Nat := if wide then 6 else 2

/-! ## Elements -/

/-- Elements of a tile row in an integer format (R40). -/
def intElems (f : AFmt) (row : Nat) : List Int :=
  match f with
  | .int4 => (List.range 256).map (fun x => sext (bitsOf row (4 * x) 4) 4)
  | _ => (List.range 128).map (fun x => sext (bitsOf row (8 * x) 8) 8)

/-- Elements of a tile row in a float or SX format, after DAZ (R37, R41, R50). -/
def floatElems (f : AFmt) (c : FpCtl) (row side : Nat) : List FVal :=
  match f with
  | .float e => (List.range (1024 / e.bits)).map (fun x => e.source c (bitsOf row (x * e.bits) e.bits))
  | .sx k => (List.range (16 * k.blocks)).map (sxElem k row side)
  | _ => []

/-- Side-store row `i` of a tile band; exponent 0 and micro bits 0 without one (R65). -/
def Tile.sideRow (t : Tile) (i : Nat) : Nat := ((t.side.bind (fun x => x.rows[i]?)).getD 0).toNat

/-- The down-converter into a float format (R54): RNE, saturating. -/
def chainFloat (f : EFmt) (c : FpCtl) (v : FVal) : FVal × Nat :=
  match v with
  | .inf n => (f.value (f.signBit n + f.maxFinite), flagNV)
  | v =>
    let r := f.ofVal { c with rm := .rne } v
    if r.flags &&& flagOF ≠ 0 then (f.value (f.signBit v.neg + f.maxFinite), r.flags)
    else (f.source c r.bits, r.flags)

/-- Values of a block in an SX format after conversion by RNE (R45, R54). -/
def chainBlock (k : SxK) (l : List FVal) : List FVal × Nat :=
  let b := sxBlock k.mbits .rne false 0 0 l
  ((List.range 16).map (sxElem k b.payload (b.e + b.mu * 256)), b.flags)

/-- Value of column `q` of row `i` of the chained source; zero beyond its extent (R172). -/
def chainCell (c : FpCtl) (a : Acc) (e i q : Nat) : FVal × Nat :=
  if q < a.cext then readCell c a.tag (cellAt (a.band e) i q) else (.fin false 0 0, 0)

/-- Row `i` of the chained source in a float or SX format: `n` elements, with the flags raised (R172). An SX2 slab takes
all 256 columns that a BF16 or FP16 source may have. DESIGN CHOICE, log 89. -/
def chainFloats (f : AFmt) (c : FpCtl) (a : Acc) (e i n : Nat) : List FVal × Nat :=
  let src := (List.range n).map (chainCell c a e i)
  let f0 := src.foldl (fun x v => x ||| v.2) 0
  let vals := src.map (·.1)
  match f with
  | .float g =>
    let l := vals.map (chainFloat g c)
    (l.map (·.1), l.foldl (fun x v => x ||| v.2) f0)
  | .sx k =>
    let l := (List.range (n / 16)).map (fun b => chainBlock k ((vals.drop (16 * b)).take 16))
    (l.flatMap (·.1), l.foldl (fun x v => x ||| v.2) f0)
  | _ => ([], f0)

/-- Row `i` of the chained source in an integer format (R54): folded, saturated with NV. -/
def chainInts (f : AFmt) (c : FpCtl) (a : Acc) (e i n : Nat) : List Int × Nat :=
  let l := (List.range n).map (fun q =>
    let (v, fl) := chainCell c a e i q
    let (x, sat) := saturate (if f = AFmt.int4 then 4 else 8) v.dy.m
    (x, fl ||| flagIf sat flagNV))
  (l.map (·.1), l.foldl (fun x v => x ||| v.2) 0)

/-! ## Shape -/

/-- Controls of a recorded `TMMA` (R52). -/
def opCtl (o : TmmaOp) : FpCtl := ⟨.rne, o.tctl.getLsbD 12, o.tctl.getLsbD 13, o.tctl.getLsbD 14⟩

/-- M (R169, R172). -/
def opRows (o : TmmaOp) : Nat :=
  match o.chained with
  | some x => x.rext
  | none => o.a.foldl (fun m t => t.foldl (fun m b => max m b.rows.length) m) 0

/-- N_j of a B group, band 0: its highest tile with rows, and that tile's row count (R169). -/
def groupCols (g : List Tile) : Nat :=
  (List.range g.length).foldl (fun n h =>
    match g[h]? with
    | some t => if t.rows.isEmpty then n else 64 * h + t.rows.length
    | none => n) 0

/-- N (R169). -/
def tilesCols (b : List (List Tile)) : Nat := b.foldl (fun n g => max n (groupCols g)) 0

/-- Columns that N places into destination `x` of the instruction (R169). -/
def destCols (tag : Tag) (n x : Nat) : Nat := min tag.cols (n - x * tag.cols)

/-- Destinations that count for the tag check, the tag taken and the row extent: those N reaches, and the first
one always. DESIGN CHOICE (log 82). -/
def destCount (tag : Tag) (n : Nat) : Nat := max 1 ((n + tag.cols - 1) / tag.cols)

/-- B row `q` of a group: row q mod 64 of its tile ⌊q / 64⌋ (R169). -/
def groupRow (g : List Tile) (q : Nat) : Nat × Nat :=
  match g[q / 64]? with
  | some t => ((t.row (q % 64)).toNat, t.sideRow (q % 64))
  | none => (0, 0)

/-! ## Steps -/

/-- Sum of products in the 72-bit window, or exact (R55, R56). -/
def windowSum (win : Bool) (ps : List Dy) : Dy :=
  let nz := ps.filter (fun p => p.m ≠ 0)
  match nz with
  | [] => ⟨0, 0⟩
  | p :: l =>
    let emax := l.foldl (fun a x => max a (topExp x.m.natAbs x.e)) (topExp p.m.natAbs p.e)
    let t := emax - 72
    nz.foldl (fun a x =>
      a.add (if win && decide (x.e < t) then
        let q : Int := (x.m.natAbs / 2 ^ (t - x.e).toNat : Nat)
        ⟨if x.m < 0 then -q else q, t⟩ else x)) ⟨0, t⟩

/-- One step of a float cell (R55, R56): `win` for every format but FP64. A zero result is −0 where acc is −0 and
no term, a product times the scale, is nonzero with sign +, also where every term is +0; an infinite scale times a sum that is 0 in the window is
a generated NaN. DESIGN CHOICE (log 81). -/
def floatStep (f : EFmt) (win : Bool) (c : FpCtl) (s : FVal) (acc : Nat) (a b : List FVal) : FRes :=
  let av := f.source c acc
  if av.isNan || s.isNan || a.any FVal.isNan || b.any FVal.isNan then
    f.nan (av.signalling || s.signalling || a.any FVal.signalling || b.any FVal.signalling)
  else
    let ps := List.zipWith mulVal a b
    let infs := (ps.filter (fun p => match p with | .inf _ => true | _ => false)).map FVal.neg
    let sum := windowSum win (ps.map FVal.dy)
    let (gen, infs) : Bool × List Bool := match s with
      | .inf n =>
        if infs ≠ [] then (false, infs.map (· != n))
        else if sum.m = 0 then (true, []) else (false, [decide (sum.m < 0) != n])
      | s => if s.isZero then (decide (infs ≠ []), []) else (false, infs.map (· != s.neg))
    let infs := match av with
      | .inf n => n :: infs
      | _ => infs
    if ps.any FVal.isNan || gen || (infs.any id && infs.any (!·)) then f.nan true
    else
      match infs with
      | n :: _ => f.infinity n
      | [] =>
        let r := av.dy.add (sum.mul s.dy)
        if r.m = 0 then
          let plus := ps.any (fun p => decide (p.dy.m ≠ 0) && !(p.neg != s.neg)) && !s.isZero
          f.zero (av.isZero && av.neg && !plus)
        else f.roundDy { c with rm := .rne } r

/-- A float cell through its slabs in order: bits and flags (R171). -/
def floatCell (f : EFmt) (win : Bool) (c : FpCtl) (s : FVal) :
    List (List FVal × List FVal) → Nat → Nat → Nat × Nat
  | [], acc, fl => (acc, fl)
  | (a, b) :: l, acc, fl =>
    let r := floatStep f win c s acc a b
    floatCell f win c s l r.bits (fl ||| r.flags)

/-- What an INT cell has come to within one instruction (R177): acc24, net carries and the most they were. -/
structure IntRun where
  y : Int
  carry : Int
  peak : Nat
deriving DecidableEq, Repr

/-- One slab of an INT cell: the new state, and whether it takes a further entry (R57, R177). -/
def intStep (r : IntRun) (dot : Int) : IntRun × Bool :=
  let y := r.y + dot
  if intMin 24 ≤ y ∧ y ≤ intMax 24 then ({ r with y := y }, false)
  else
    let c : Int := if y > 0 then 1 else -1
    let n := r.carry + c
    (⟨y - c * 2 ^ 24, n, max r.peak n.natAbs⟩,
      decide (n.natAbs > r.peak ∧ (n.natAbs + 126) / 127 > (r.peak + 126) / 127))

/-- An INT cell through its slabs: folded value, and for each slab whether it takes an entry (R178). -/
def intCell (dots : List Int) (old : Word) : Word × List Bool :=
  let (r, ev) := dots.foldl (fun (p : IntRun × List Bool) dot =>
    let (r, b) := intStep p.1 dot
    (r, p.2 ++ [b])) (⟨acc24 old, 0, 0⟩, [])
  (ofInt (r.y + (r.carry + cellCount old) * 2 ^ 24), ev)

/-- Exact sum of products of integers (R57). -/
def dot (a b : List Int) : Int := (List.zipWith (· * ·) a b).foldl (· + ·) 0

/-! ## A whole instruction -/

/-- Cells of one destination band: rows by columns. -/
abbrev Cells := List (List Word)

/-- What the array computes: for each destination its bands of cells, the flags, for each band the steps that take
entries, in their order, with the accumulator of each (R174, R180), and for each destination and band the cells whose rounding raised OF
(R376). -/
structure TmmaOut where
  cells : List (List Cells)
  flags : Nat
  takes : List (List (Nat × Nat))
  ofCells : List (List (List (Nat × Nat)))
deriving DecidableEq, Repr

/-- The A operand of band `e` in a float or SX format: slab, row, elements, and flags (R169, R172). -/
def opAFloat (o : TmmaOp) (e : Nat) : List (List (List FVal)) × Nat :=
  let f := (pairFmts o.pair).1
  let c := opCtl o
  match o.chained with
  | some x =>
    let rows := (List.range (opRows o)).map (fun i => chainFloats f c x e i (o.k * f.slab))
    ((List.range o.k).map (fun j => rows.map (fun r => (r.1.drop (j * f.slab)).take f.slab)),
      rows.foldl (fun y r => y ||| r.2) 0)
  | none =>
    (o.a.map (fun t => (List.range (opRows o)).map (fun i =>
      let b := tileBand t e
      floatElems f c (b.row i).toNat (b.sideRow i))), 0)

/-- The A operand of band `e` in an integer format. -/
def opAInt (o : TmmaOp) (e : Nat) : List (List (List Int)) × Nat :=
  let f := (pairFmts o.pair).1
  match o.chained with
  | some x =>
    let rows := (List.range (opRows o)).map (fun i => chainInts f (opCtl o) x e i (o.k * f.slab))
    ((List.range o.k).map (fun j => rows.map (fun r => (r.1.drop (j * f.slab)).take f.slab)),
      rows.foldl (fun y r => y ||| r.2) 0)
  | none =>
    (o.a.map (fun t => (List.range (opRows o)).map (fun i => intElems f ((tileBand t e).row i).toNat)), 0)

/-- The B operand in a float or SX format: slab, row, elements; every band takes it from band 0 (R169). -/
def opBFloat (o : TmmaOp) : List (List (List FVal)) :=
  o.b.map (fun g => (List.range (tilesCols o.b)).map (fun q =>
    let r := groupRow g q
    floatElems (pairFmts o.pair).2 (opCtl o) r.1 r.2))

/-- The B operand in an integer format. -/
def opBInt (o : TmmaOp) : List (List (List Int)) :=
  o.b.map (fun g => (List.range (tilesCols o.b)).map (fun q => intElems (pairFmts o.pair).2 (groupRow g q).1))

/-- Old value of a destination cell (R170). -/
def oldCell (o : TmmaOp) (x e i q : Nat) : Word := cellAt (((o.old[x]?).getD Acc.empty).band e) i q

/-- The tensor scale as a value (R171). -/
def opScale (o : TmmaOp) : FVal := EFmt.fp32.source (opCtl o) o.scale

/-- Row `i` of slab `j`. -/
def slabRow {α : Type} (m : List (List (List α))) (j i : Nat) : List α := (((m[j]?).getD [])[i]?).getD []

/-- A float or SX `TMMA` (R171). -/
def runFloat (o : TmmaOp) : TmmaOut :=
  let tag := pairTag o.pair
  let f : EFmt := if tag = .fp64 then .fp64 else .fp32
  let c := opCtl o
  let s := opScale o
  let m := opRows o
  let n := tilesCols o.b
  let bs := opBFloat o
  let as := (List.range o.gang).map (opAFloat o)
  let out := (List.range (destCount tag n)).map (fun x =>
    (List.range o.gang).map (fun e =>
      let a := ((as[e]?).map (·.1)).getD []
      (List.range m).map (fun i => (List.range (destCols tag n x)).map (fun q =>
        floatCell f (f != .fp64) c s
          ((List.range o.k).map (fun j => (slabRow a j i, slabRow bs j (x * tag.cols + q))))
          (oldCell o x e i q).toNat 0))))
  { cells := out.map (fun x => x.map (fun e => e.map (fun r => r.map (fun p => BitVec.ofNat 64 p.1))))
    flags := out.foldl (fun z x => x.foldl (fun z e => e.foldl (fun z r => r.foldl (fun z p => z ||| p.2) z) z) z)
      (as.foldl (fun z a => z ||| a.2) 0)
    takes := []
    ofCells := out.map (fun x => x.map (fun e => (List.range e.length).flatMap (fun i =>
      let r := (e[i]?).getD []
      ((List.range r.length).filter (fun q => ((r[q]?).map (fun p => decide (p.2 &&& flagOF ≠ 0))).getD false)).map
        (fun q => (i, q))))) }

/-- Results of INT cells of a band, with the slabs at which each takes an entry. -/
abbrev IntOut := List (List (Word × List Bool))

/-- The entries taken in a band, each with its step and its accumulator: slabs in their order (R171), and within a slab row blocks, then
column blocks, then the cells of a block, an order the spec does not give. DESIGN CHOICE (log 84). `outs` lists the
band's results for each destination. -/
def takesOf (o : TmmaOp) (outs : List IntOut) : List (Nat × Nat) :=
  let r := stepSize o.pair
  let rb := (opRows o + r - 1) / r
  let cb := (tilesCols o.b + r - 1) / r
  let tag := pairTag o.pair
  (List.range o.k).flatMap (fun j =>
    (List.range rb).flatMap (fun bi =>
      (List.range cb).flatMap (fun bq =>
        let x := bq * r / tag.cols
        (List.range r).flatMap (fun di => (List.range r).flatMap (fun dq =>
          match (((outs[x]?).getD [])[bi * r + di]?).bind (fun row => row[bq * r + dq - x * tag.cols]?) with
          | some (_, ev) => if (ev[j]?).getD false then [((j * rb + bi) * cb + bq, o.dest + x)] else []
          | none => [])))))

/-- An INT8 or INT4 `TMMA` (R57, R171, R177). -/
def runInt (o : TmmaOp) : TmmaOut :=
  let tag := pairTag o.pair
  let m := opRows o
  let n := tilesCols o.b
  let bs := opBInt o
  let as := (List.range o.gang).map (opAInt o)
  let out : List (List IntOut) := (List.range (destCount tag n)).map (fun x =>
    (List.range o.gang).map (fun e =>
      let a := ((as[e]?).map (·.1)).getD []
      (List.range m).map (fun i => (List.range (destCols tag n x)).map (fun q =>
        intCell ((List.range o.k).map (fun j => dot (slabRow a j i) (slabRow bs j (x * tag.cols + q))))
          (oldCell o x e i q)))))
  { cells := out.map (fun x => x.map (fun e => e.map (fun r => r.map (·.1))))
    flags := as.foldl (fun z a => z ||| a.2) 0
    takes := (List.range o.gang).map (fun e => takesOf o (out.map (fun x => (x[e]?).getD [])))
    ofCells := [] }

/-- What the array computes for an instruction (R171). -/
def runTmmaOp (o : TmmaOp) : TmmaOut := if pairTag o.pair = .int then runInt o else runFloat o

/-! ## Checksums -/

/-- Value of a cell for the checks: folded for INT, after the DAZ of the controls otherwise (R374). -/
def checkVal (c : FpCtl) (tag : Tag) (v : Word) : FVal :=
  match tagFmt tag with
  | some f => f.source c v.toNat
  | none => .fin (decide (v.toInt < 0)) v.toInt.natAbs 0

/-- A NaN or an infinity. -/
def FVal.special : FVal → Bool
  | .fin _ _ _ => false
  | _ => true

/-- |x|. -/
def Dy.abs (x : Dy) : Dy := ⟨x.m.natAbs, x.e⟩

/-- Exact sum. -/
def Dy.sum (l : List Dy) : Dy := l.foldl Dy.add ⟨0, 0⟩

/-- The checks of one destination band (R374 to R376): rows, columns, K-count, old values, A and B values of the
columns of this destination, scale, unit u as 2^-n and λ, and the cells whose rounding raised OF. -/
structure CheckIn where
  m : Nat
  n : Nat
  k : Nat
  int : Bool
  u : Int
  lam : Dy
  old : List (List FVal)
  a : List (List (List FVal))
  b : List (List (List FVal))
  s : FVal
  ofCells : List (Nat × Nat)
deriving DecidableEq, Repr

/-- Σ_k a × b over the slabs of a row of A and summed B values, in Dy. -/
def dotDy (xs ys : List Dy) : Dy := Dy.sum (List.zipWith Dy.mul xs ys)

/-- Column sums of rows of values: element-wise sum, of magnitudes where `ab`. -/
def sumRows (ab : Bool) (rows : List (List FVal)) : List Dy :=
  match rows with
  | [] => []
  | r :: l => l.foldl (fun acc x => List.zipWith Dy.add acc (x.map (fun v => if ab then v.dy.abs else v.dy)))
      (r.map (fun v => if ab then v.dy.abs else v.dy))

/-- Σ over slabs of the dot product of two rows of values. -/
def slabDots (k : Nat) (x y : Nat → List Dy) : Dy :=
  Dy.sum ((List.range k).map (fun j => dotDy (x j) (y j)))

/-- E and G of row `i` (R374, R375). -/
def rowPrediction (t : CheckIn) (i : Nat) : Dy × Dy :=
  let o := (t.old[i]?).getD []
  let d (ab : Bool) := slabDots t.k (fun j => (slabRow t.a j i).map (fun v => if ab then v.dy.abs else v.dy))
    (fun j => sumRows ab ((t.b[j]?).getD []))
  ((Dy.sum (o.map FVal.dy)).add (t.s.dy.mul (d false)), (Dy.sum (o.map (fun v => v.dy.abs))).add (t.s.dy.abs.mul (d true)))

/-- E and G of column `q` (R374, R375). -/
def colPrediction (t : CheckIn) (q : Nat) : Dy × Dy :=
  let o := t.old.map (fun r => (r[q]?).getD (.fin false 0 0))
  let d (ab : Bool) := slabDots t.k (fun j => sumRows ab ((t.a[j]?).getD []))
    (fun j => (slabRow t.b j q).map (fun v => if ab then v.dy.abs else v.dy))
  ((Dy.sum (o.map FVal.dy)).add (t.s.dy.mul (d false)), (Dy.sum (o.map (fun v => v.dy.abs))).add (t.s.dy.abs.mul (d true)))

/-- A sum differs from its prediction: at all for INT, by more than τ otherwise (R374, R375). `other` is N for a
row and M for a column. -/
def mismatch (t : CheckIn) (other : Nat) (e g sum : Dy) : Bool :=
  let diff := (sum.add ⟨-e.m, e.e⟩).abs
  if t.int then decide (diff.m ≠ 0)
  else
    let tau := (g.mul ⟨(t.k + 2 : Nat), t.u⟩).add (t.lam.mul ⟨(other * t.k : Nat), 0⟩)
    tau.lt diff

/-- Row `i` is excluded (R376). -/
def rowExcluded (t : CheckIn) (new : List (List FVal)) (i : Nat) : Bool :=
  t.s.special || ((t.old[i]?).getD []).any FVal.special || ((new[i]?).getD []).any FVal.special ||
  (List.range t.k).any (fun j => (slabRow t.a j i).any FVal.special) || t.ofCells.any (fun x => x.1 = i)

/-- Column `q` is excluded (R376). -/
def colExcluded (t : CheckIn) (new : List (List FVal)) (q : Nat) : Bool :=
  t.s.special || (t.old ++ new).any (fun r => ((r[q]?).map FVal.special).getD false) ||
  (List.range t.k).any (fun j => (slabRow t.b j q).any FVal.special) || t.ofCells.any (fun x => x.2 = q)

/-- Column `q` of rows of values. -/
def colVals (new : List (List FVal)) (q : Nat) : List Dy := new.map (fun r => ((r[q]?).map FVal.dy).getD ⟨0, 0⟩)

/-- Rows that are checked and mismatch. -/
def badRows (t : CheckIn) (new : List (List FVal)) : List Nat :=
  (List.range t.m).filter (fun i => !rowExcluded t new i &&
    (let (e, g) := rowPrediction t i; mismatch t t.n e g (Dy.sum (((new[i]?).getD []).map FVal.dy))))

/-- Columns that are checked and mismatch. -/
def badCols (t : CheckIn) (new : List (List FVal)) : List Nat :=
  (List.range t.n).filter (fun q => !colExcluded t new q &&
    (let (e, g) := colPrediction t q; mismatch t t.m e g (Dy.sum (colVals new q))))

/-- Some row or column is excluded. -/
def someExcluded (t : CheckIn) (new : List (List FVal)) : Bool :=
  (List.range t.m).any (rowExcluded t new) || (List.range t.n).any (colExcluded t new)

/-- Values of the operands of a destination band for the checks; `out` is what the array computes without a fault. -/
def checkIn (o : TmmaOp) (out : TmmaOut) (x e : Nat) : CheckIn :=
  let tag := pairTag o.pair
  let c := opCtl o
  let n := destCols tag (tilesCols o.b) x
  let ints (l : List (List (List Int))) : List (List (List FVal)) :=
    l.map (fun j => j.map (fun r => r.map (fun v => .fin (decide (v < 0)) v.natAbs 0)))
  let a := if tag = .int then ints (opAInt o e).1 else (opAFloat o e).1
  let b := if tag = .int then ints (opBInt o) else opBFloat o
  { m := opRows o, n := n, k := o.k, int := decide (tag = .int)
    u := if tag = .fp64 then -52 else -23
    lam := if tag = .fp64 then ⟨0, 0⟩ else ⟨1, -126⟩
    old := (List.range (opRows o)).map (fun i => (List.range n).map (fun q => checkVal c tag (oldCell o x e i q)))
    a := a, b := b.map (fun j => (j.drop (x * tag.cols)).take n), s := opScale o
    ofCells := ((out.ofCells[x]?).getD [])[e]?.getD [] }

/-- Value of a new cell, which is no source that DAZ acts on (R50, R374). -/
def newVal (o : TmmaOp) (v : Word) : FVal := checkVal { opCtl o with daz := false } (pairTag o.pair) v

/-- Values of new cells. -/
def newVals (o : TmmaOp) (cells : Cells) : List (List FVal) := cells.map (fun r => r.map (newVal o))

/-- `cell_value` (R377): a cell from an exact value, which is an integer for an INT cell. -/
def cellValue (o : TmmaOp) (v : Dy) : Word :=
  match tagFmt (pairTag o.pair) with
  | some f => BitVec.ofNat 64 (if v.m = 0 then 0 else (f.roundDy { opCtl o with rm := .rne } v).bits)
  | none => ofInt (v.m * 2 ^ v.e.toNat / 2 ^ (-v.e).toNat)

/-- One cell of a matrix replaced. -/
def setCell (i q : Nat) (v : Word) (cells : Cells) : Cells := cells.set i (((cells[i]?).getD []).set q v)

/-- `service_check` (R377) of one destination band: corrected cells and the number of corrections, or nothing
where it raises EMC. -/
def serviceCheck (o : TmmaOp) (t : CheckIn) (cells : Cells) : Option (Cells × Nat) :=
  match badRows t (newVals o cells), badCols t (newVals o cells) with
  | [], [] => some (cells, 0)
  | [i], [q] =>
    let rest := ((List.range t.n).filter (· ≠ q)).map (fun q2 => (newVal o (cellAt cells i q2)).dy)
    let e := (rowPrediction t i).1
    let v := e.add ⟨-(Dy.sum rest).m, (Dy.sum rest).e⟩
    let c1 := setCell i q (cellValue o v) cells
    if (badRows t (newVals o c1)).contains i || (badCols t (newVals o c1)).contains q then none else some (c1, 1)
  | _, _ => none

/-! ## Faults of the array -/

/-- Faults of an engine that hit a cell of destination `x` band of a run (R377). -/
def hits (o : TmmaOp) (x : Nat) (f : ArrayFault) : Bool :=
  decide (f.acc = o.dest + x ∧ f.row < opRows o ∧ f.col < destCols (pairTag o.pair) (tilesCols o.b) x)

/-- Bits of a cell flipped. -/
def flipBits (tag : Tag) (flip v : Word) : Word :=
  match tag with
  | .int => ofInt (sext ((v.toNat % 2 ^ 24) ^^^ (flip.toNat % 2 ^ 24)) 24 + cellCount v * 2 ^ 24)
  | .fp64 => v ^^^ flip
  | _ => v ^^^ (flip &&& 0xFFFFFFFF)

/-- Cells of a destination band as a run on an engine with faults writes them. DEDUCED, log 54. -/
def applyFaults (o : TmmaOp) (x : Nat) (fs : List ArrayFault) (cells : Cells) : Cells :=
  (fs.filter (hits o x)).foldl (fun c f => setCell f.row f.col (flipBits (pairTag o.pair) f.flip (cellAt c f.row f.col)) c) cells

/-- Faults left after a run: one that hits a limited number of runs wears off. -/
def wornFaults (fs : List ArrayFault) : List ArrayFault :=
  fs.filterMap (fun f =>
    match f.runs with
    | none => some f
    | some n => if n ≤ 1 then none else some { f with runs := some (n - 1) })

/-- Faults of the engines of the bands. -/
def bandFaults (s : State) (e : Nat) : List ArrayFault :=
  match (myEngines s)[e]? with
  | some n => (engineAt s n).faults
  | none => []

/-- The run has used the engines: their limited faults have worn. -/
def wearEngines (s : State) : State :=
  (myEngines s).foldl (fun s n => setEngine n { engineAt s n with faults := wornFaults (engineAt s n).faults } s) s

/-- No fault of any engine hits the instruction. -/
def faultFree (s : State) (o : TmmaOp) (out : TmmaOut) : Bool :=
  (List.range o.gang).all (fun e => (List.range out.cells.length).all (fun x => !(bandFaults s e).any (hits o x)))

/-- Cells as the engines' faults leave them. -/
def faulted (s : State) (o : TmmaOp) (out : TmmaOut) : List (List Cells) :=
  (List.range out.cells.length).map (fun x =>
    (List.range o.gang).map (fun e =>
      applyFaults o x (bandFaults s e) ((((out.cells[x]?).getD [])[e]?).getD [])))

/-- `service_check` of every destination and band: cells and corrections, or EMC. -/
def checkAll (o : TmmaOp) (out : TmmaOut) (cells : List (List Cells)) : Option (List (List Cells) × Nat) :=
  (List.range cells.length).foldl (fun r x =>
    (List.range o.gang).foldl (fun r e =>
      match r with
      | none => none
      | some (cs, n) =>
        let xs := (cs[x]?).getD []
        match serviceCheck o (checkIn o out x e) ((xs[e]?).getD []) with
        | none => none
        | some (c, k) => some (cs.set x (xs.set e c), n + k)) r) (some (cells, 0))

/-- Every check of every destination and band passes. -/
def allPass (o : TmmaOp) (out : TmmaOut) (cells : List (List Cells)) : Bool :=
  (List.range cells.length).all (fun x => (List.range o.gang).all (fun e =>
    let v := newVals o ((((cells[x]?).getD [])[e]?).getD [])
    (badRows (checkIn o out x e) v).isEmpty && (badCols (checkIn o out x e) v).isEmpty))

/-- A row or column of some destination and band is excluded (R376). -/
def uncheckedOut (o : TmmaOp) (out : TmmaOut) (cells : List (List Cells)) : Bool :=
  pairTag o.pair != .int &&
  (List.range cells.length).any (fun x => (List.range o.gang).any (fun e =>
    someExcluded (checkIn o out x e) (newVals o ((((cells[x]?).getD [])[e]?).getD []))))

/-! ## Retirement -/

/-- New cells laid over an accumulator band (R170). -/
def overlay (b cells : Cells) : Cells :=
  (List.range (max b.length cells.length)).map (fun i =>
    let r := (b[i]?).getD []
    let c := (cells[i]?).getD []
    c ++ r.drop c.length)

/-- A destination after the instruction: tag, extent, cells (R170). -/
def retireAcc (o : TmmaOp) (x : Nat) (a : Acc) (cells : List Cells) : Acc :=
  let tag := pairTag o.pair
  { tag := tag, rext := max a.rext (opRows o), cext := max a.cext (destCols tag (tilesCols o.b) x)
    bands := (List.range o.gang).map (fun e => overlay (a.band e) ((cells[e]?).getD []))
    bad := a.bad
    badCells := a.badCells }

/-- Bytes of a cell in the signature: INT cells as their 64-bit folded value (R381). -/
def sigCell (tag : Tag) (v : Word) : List Byte := if tag = .int then bytesOfWord 8 v else bytesOfWord tag.cellBytes v

/-- The signature of a result (R381). -/
def signature (o : TmmaOp) (cells : List (List Cells)) (flags : Nat) (unck : Bool) : Word :=
  BitVec.ofNat 64 (natOfBytes ((sm3 (
    cells.flatMap (fun x => x.flatMap (fun e => e.flatMap (fun r => r.flatMap (sigCell (pairTag o.pair))))) ++
    [BitVec.ofNat 8 (flags % 32), if unck then 1 else 0])).take 8))

/-- Audit records of a die's forester that have not ended. -/
def auditsOf (s : State) (die : Nat) : List AuditRec := s.rel.audits.filter (fun r => r.die = die)

/-- The forester samples a retired `TMMA` (R379, R380): a full buffer skips and logs the sample. -/
def sampleAudit (o : TmmaOp) (sig : Word) (s : State) : State :=
  if bits s.boot.bootst 0 4 ≠ 6 || !Config.sampled s.free ((s.rel.auditK[s.die]?).getD 12) then s
  else if (auditsOf s s.die).length ≥ 32 then logEvent 3 s.die s.pid 0 1 s
  else
    { s with
      rel.audits := s.rel.audits ++ [⟨s.rel.auditSeq, s.ctx.prv.gtid, s.pid, s.pc, s.die, o,
        ((myEngines s)[0]?).getD 0, none, none, [sig], 0, false⟩]
      rel.auditSeq := s.rel.auditSeq + 1 }

/-- A `TMMA` retires (R159, R170, R192, R193): destinations, flags, counts, the forester. -/
def retireTmma (o : TmmaOp) (out : TmmaOut) (cells : List (List Cells)) (fixes : Nat) (s : State) : State :=
  let s1 := (List.range cells.length).foldl (fun s x =>
    putAcc (o.dest + x) (retireAcc o x (s.ctx.acc (o.dest + x)) ((cells[x]?).getD [])) s) s
  let unck := uncheckedOut o out cells
  let s2 := orFlags out.flags { s1 with
    ctx.aux.corrections := BitVec.ofNat 64 (min (s1.ctx.aux.corrections.toNat + fixes) (2 ^ 64 - 1))
    ctx.aux.unchecked := s1.ctx.aux.unchecked || unck }
  sampleAudit o (signature o cells out.flags unck) s2

/-! ## Cellar -/

/-- The step at which a band cannot place a carry, and the accumulator (R180). -/
def bandStuck (takes : List (Nat × Nat)) (free : Nat) : Option (Nat × Nat) := takes[free]?

/-- Where a `TMMA` cannot place a carry (R180): the first step at which a band's engine has no entry left, the lowest
accumulator there, and the entries that the earlier steps have taken in each band, which go through the steps together.
`free` lists the entries that each band can take. -/
def stuckAt (takes : List (List (Nat × Nat))) (free : List Nat) : Option (Nat × List Nat) :=
  let l := (List.zipWith bandStuck takes free).filterMap (fun x => x)
  match l with
  | [] => none
  | p :: l =>
    let t := l.foldl (fun t x => min t x.1) p.1
    let acc := ((p :: l).filter (fun x => decide (x.1 = t))).foldl (fun a x => min a x.2) 7
    some (acc, takes.map (fun b => (b.filter (fun x => decide (x.1 < t))).length))

/-- Entries that the `TMMA` at hand can take in the engine of each band: those free in the share, and those it holds
already in a stall (R180, R181). An older drain has retired by then, so that its entries are free (R268). DESIGN CHOICE,
log 112. -/
def freeByBand (s : State) : List Nat :=
  let l := myEngines s
  (List.range l.length).map (fun e =>
    let n := (l[e]?).getD 0
    cellarShare s s.pid n - (entriesInUse s s.pid n - s.ctx.aux.sent.heldIn e))

/-- Entries that corrected cells need beyond the share: each band's engine must hold those of the new
destinations (R377). -/
def correctionFits (s : State) (o : TmmaOp) (cells : List (List Cells)) : Bool :=
  pairTag o.pair != .int ||
  (List.range o.gang).all (fun e =>
    match (myEngines s)[e]? with
    | none => true
    | some n =>
      let tot (f : Nat → Acc) : Nat := (List.range cells.length).foldl (fun k x => k + bandEntries (f x) e) 0
      let after := tot (fun x => retireAcc o x (s.ctx.acc (o.dest + x)) ((cells[x]?).getD []))
      let before := tot (fun x => s.ctx.acc (o.dest + x))
      decide (after ≤ before + entriesFree s s.pid n))

/-- Cycles of cellar stall an execution has had so far (R180). -/
def stallUsed (s : State) : Nat :=
  match s.ctx.aux.sent with
  | .stall _ since used _ => used + (s.cyc - since)
  | .resumed used _ => used
  | .retry used => used
  | _ => 0

/-- Runs of the `TMMA` at hand that have mismatched (R378). -/
def runsSoFar (s : State) : Nat := if s.ctx.aux.sent = .nothing then 0 else s.ctx.aux.runs

/-- A carry finds the share full (R180): CARRY at once under TRAP, else a stall of at most 4,096 cycles, in which the
entries of the steps before stay taken. -/
def cellarFull (x : Nat) (held : List Nat) (s : State) : Run :=
  if s.ctx.ctl.tctl.getLsbD 16 then raise 0x0D (x % 8) 0 s
  else if stallUsed s ≥ 4096 then raise 0x0D (8 + x % 8) 0 s
  else waitIn (progress { s with ctx.aux.sent := .stall x s.cyc (stallUsed s) held, ctx.aux.runs := runsSoFar s })

/-- A run in test mode (R378): without a mismatch it gives the result; with one, the instruction runs again in its next
turn, which a pending interrupt comes before, or raises EMC once the count of further runs is used up. -/
def testRun (o : TmmaOp) (out : TmmaOut) (s : State) : Run :=
  let cells := faulted s o out
  let n := runsSoFar s
  if allPass o out cells then .ok (retireTmma o out cells 0 (wearEngines s))
  else if n < (s.rel.retry[s.die]?).getD 3 then
    waitIn (wearEngines { s with ctx.aux.sent := .retry (stallUsed s), ctx.aux.runs := n + 1 })
  else raise 0x0E 1 0 (wearEngines s)

/-- The checks of a run, and retirement (R377, R378). They are exact for integers, so that only a run that a fault hits
can fail them; a floating-point run may fail them without a fault where the tolerance has no room for underflow. -/
def checkedRetire (o : TmmaOp) (out : TmmaOut) (s : State) : Run :=
  if pairTag o.pair = .int && faultFree s o out then .ok (retireTmma o out out.cells 0 (wearEngines s))
  else if s.ctx.ctl.tctl.getLsbD 15 then testRun o out s
  else
    match checkAll o out (faulted s o out) with
    | none => raise 0x0E 1 0 (wearEngines s)
    | some (cells, n) =>
      if n ≠ 0 && !correctionFits s o cells then raise 0x0E 1 0 (wearEngines s)
      else .ok (retireTmma o out cells n (wearEngines s))

/-! ## The instruction -/

/-- Slabs a chained source of a tag gives a pair; 0 where the table of R172 has no row. -/
def chainSlabs (p : Pair) (t : Tag) : Nat :=
  let fl := t == .fp32 || t == .bf16 || t == .fp16
  match p with
  | .fp64 => if t = .fp64 then 4 else 0
  | .fp32 => if fl then 4 else 0
  | .bf16 | .fp16 => if fl then 2 else 0
  | .int8 | .int4 => if t = .int ∨ t = .i32 then 1 else 0
  | _ => if fl then 1 else 0

/-- The operands of a `TMMA` as they stand (R169). -/
def tmmaOp (pr : Pair) (wide chained : Bool) (k fs d a b : Nat) (s : State) : TmmaOp :=
  let g := groupSize wide
  let bt := (List.range k).map (fun j => (List.range g).map (fun h => tileBand (seenTile s (b + g * j + h)) 0))
  let tag := pairTag pr
  { pair := pr, wide := wide, k := k, gang := s.ctx.aux.gang, dest := d, tctl := s.ctx.ctl.tctl
    scale := if fs = 0 then 0x3F800000 else (rf s fs).toNat % 2 ^ 32
    chained := if chained then some (seenAcc s a) else none
    a := if chained then [] else (List.range k).map (fun j => seenTile s (a + j))
    b := bt
    old := (List.range (destCount tag (tilesCols bt))).map (fun x => seenAcc s (d + x)) }

/-- The ILL checks of R173. -/
def tmmaIll (o : TmmaOp) (a b : Nat) : Bool :=
  let tag := pairTag o.pair
  (o.chained.isNone && decide (a + o.k > 16)) || decide (b + groupSize o.wide * o.k > 16) ||
  (o.wide && decide (o.dest > 5)) ||
  decide (tilesCols o.b > (if o.wide then 3 else 1) * tag.cols) ||
  o.old.any (fun x => x.tag != .empty && x.tag != tag) ||
  (match o.chained with
   | none => false
   | some x => decide (o.k > chainSlabs o.pair x.tag))

/-- A poisoned slot row or cellar cell is among the operands (R372). -/
def tmmaPoisoned (o : TmmaOp) : Bool :=
  o.a.any (fun t => t.any (fun b => !b.bad.isEmpty)) || o.b.any (fun g => g.any (fun b => !b.bad.isEmpty)) ||
  o.old.any (fun x => x.bad.any (fun r => decide (r.2 < opRows o))) ||
  (List.zip (List.range o.old.length) o.old).any (fun x => x.2.badCells.any (fun r =>
    decide (r.2.1 < opRows o ∧ r.2.2 < destCols (pairTag o.pair) (tilesCols o.b) x.1))) ||
  (match o.chained with
   | none => false
   | some x => x.poisoned)

/-- Names that a `TMMA` reads and writes: A, B and the destinations (R169, R171, R172). -/
def tmmaNames (wide chained : Bool) (tag : Tag) (o : TmmaOp) (a b : Nat) : List Nat :=
  (if chained then [16 + a] else (List.range o.k).map (a + ·)) ++ (List.range (groupSize wide * o.k)).map (b + ·) ++
  (List.range (destCount tag (tilesCols o.b))).map (16 + o.dest + ·)

/-- The effect of a `TMMA` (R159 to R180). -/
def tmmaBody (pr : Pair) (wide chained : Bool) (k fs d a b : Nat) (s : State) : Run := do
  let _ ← inService s
  if tmmaIll (tmmaOp pr wide chained k fs d a b s) a b then raiseIll s
  else
    let _ ← need s ((if fs = 0 then [] else [Src.f fs]) ++ [.ctl 0x002])
    let s ← granted (tmmaNames wide chained (pairTag pr) (tmmaOp pr wide chained k fs d a b s) a b) s
    let o := tmmaOp pr wide chained k fs d a b s
    if tmmaPoisoned o then raise 0x0E 2 0 s
    else
      match s.ctx.aux.sent with
      | .timedOut y => raise 0x0D (8 + y % 8) 0 s
      | _ =>
        let out := runTmmaOp o
        match stuckAt out.takes (freeByBand s) with
        | some (x, held) => cellarFull x held s
        | none => checkedRetire o out s

/-- `TMMA` (R171). -/
def execTmma (fm : Form) (pr : Pair) (wide : Bool) (k fs d a b : Nat) (s : State) : Out :=
  runRep fm (fm.len 24) (fun j _ s => tmmaBody pr wide false k fs (fm.d j d) (fm.a j a) (fm.b j b) s) s

/-- The chained `TMMA` (R172). -/
def execTmmaChained (fm : Form) (pr : Pair) (wide : Bool) (k fs d a b : Nat) (s : State) : Out :=
  runRep fm (fm.len 25) (fun j _ s => tmmaBody pr wide true k fs (fm.d j d) (fm.a j a) (fm.b j b) s) s

/-- The `TMMA` at the program counter executes again. -/
def runTmmaAtPc (s : State) : Out :=
  match fetchDecode s with
  | .exec (.tmma fm pr wide k fs d a b) s1 => execTmma fm pr wide k fs d a b s1
  | .exec (.tmmaChained fm pr wide k fs d a b) s1 => execTmmaChained fm pr wide k fs d a b s1
  | _ => .next s

/-- `TMMA_COMPLETE`: a `TMMA` that holds the array again after a stall finishes its steps (R161, R180). -/
def execTmmaComplete (s : State) : Out :=
  match s.ctx.aux.sent with
  | .resumed _ _ => runTmmaAtPc s
  | _ => .next s

/-- The stalled `TMMA` gets beyond the step at which it has stopped: executed again it does not stall, or it stalls with
more entries taken. -/
def stallEnds (s : State) : Bool :=
  match runTmmaAtPc s with
  | .next t =>
    (match t.ctx.aux.sent, s.ctx.aux.sent with
     | .stall _ _ _ l, .stall _ _ _ held => decide (held.sum < l.sum)
     | _, _ => true)
  | _ => true

/-- `CELLAR_STALL_RESUME`: freed entries let the stalled `TMMA` of the active context go on (R180). DEDUCED, log 55. -/
def execCellarStallResume (s : State) : Out :=
  match s.ctx.aux.sent with
  | .stall _ _ _ held => if stallEnds s then .next { s with ctx.aux.sent := .resumed (stallUsed s) held } else .next s
  | _ => .next s

/-- `CELLAR_STALL_TIMEOUT`: the stalls of one execution have reached 4,096 cycles: CARRY with DETAIL [3] = 1
(R180). -/
def execCellarStallTimeout (s : State) : Out :=
  match s.ctx.aux.sent with
  | .stall x _ _ _ => runTmmaAtPc { s with ctx.aux.sent := .timedOut x }
  | _ => .next s

end Sys2Proof.Machine
end

