-- ==== Sys2Proof/Machine/Containment.lean ====
section
/-! DEFINITION. Errors, the forester, quarantine, fenced dies and dead agents (R367 to R373, R379 to R394). -/

namespace Sys2Proof.Machine

/-! ## Asynchronous causes -/

/-- An AUDIT becomes pending in a context; a second one only sets DETAIL [8] (R383). -/
def pendAudit (code : Nat) (pc : Word) (c : Ctx) : Ctx :=
  if c.prv.pending.getLsbD 0x0F then { c with prv.auditDetail := c.prv.auditDetail ||| 0x100 }
  else { c with
    prv.pending := c.prv.pending ||| (1#64 <<< 0x0F), prv.auditDetail := BitVec.ofNat 64 code, prv.auditTval := pc }

/-- An AUDIT for the context of a GTID, held while the context is not resident; a context that has ended gets none
(R332, R383). -/
def reportAudit (code : Nat) (gtid pc : Word) (s : State) : State :=
  if (findContext s gtid).isSome then onContext gtid (pendAudit code pc) s
  else if hasEnded s gtid then s
  else { s with rel.held := s.rel.held ++ [(gtid, 0x0F, code, pc)] }

/-- The active context takes over the causes that waited for it (R332). -/
def absorbHeld (s : State) : State :=
  let mine := s.rel.held.filter (fun h => decide (h.1 = s.ctx.prv.gtid))
  if mine.isEmpty || !s.core.act then s
  else
    let ctx := mine.foldl (fun c h =>
      if h.2.1 = 0x0F then pendAudit h.2.2.1 h.2.2.2 c else pendMchk h.2.2.1 c) s.ctx
    { s with ctx := ctx, rel.held := s.rel.held.filter (fun h => decide (h.1 ≠ s.ctx.prv.gtid)) }

/-! ## Quarantine -/

/-- An instruction that waits on an engine is squashed (R384). -/
def Sent.onEngine : Sent → Bool
  | .gang _ _ => true
  | .gangGranted _ => true
  | .stall _ _ _ _ => true
  | .resumed _ _ => true
  | .retry _ => true
  | .timedOut _ => true
  | _ => false

/-- A context loses the names it holds on an engine: those not written out to its save area, and its gang; MCHK 3
is held pending where a name was live (R384). -/
def loseNames (c : Ctx) : Ctx :=
  let out (n : Nat) : Bool := decide (c.aux.gang = 1) && c.aux.evicted.contains n
  let live := (List.range 24).any (fun n => !out n && nameLive c n) || decide (c.aux.gang ≠ 1)
  let c1 := { c with
    t := Vector.ofFn (fun i => if out i.val then c.t[i] else noTile 1)
    c := Vector.ofFn (fun i => if out (16 + i.val) then c.c[i] else Acc.empty)
    aux.gang := 1
    aux.regang := none
    aux.sent := if c.aux.sent.onEngine then .nothing else c.aux.sent }
  if live then pendMchk 0x0003 c1 else c1

/-- A context on a core has an engine among those of its bands. -/
def usesEngine (s : State) (core n : Nat) (c : Ctx) : Bool :=
  ((bandEngines s core c.aux.gang).getD []).contains n

/-- The pinned names of the cores of an engine's cluster that overlap others are undefined (R439). -/
def undefCluster (n : Nat) (s : State) : State :=
  (List.range 8).foldl (fun s i => undefNames (n / 4 * 8 + i) s) s

/-- An engine is in service again: home engines move, and with them the overlaps of pinned names (R343, R439). -/
def restoreEngine (n : Nat) (s : State) : State :=
  let s1 := undefCluster n s
  undefCluster n (setEngine n { engineAt s1 n with quarantined := false } s1)

/-- An engine is taken out of service, and the contexts that hold names on it lose them (R384). -/
def quarantine (n : Nat) (s : State) : State :=
  if (engineAt s n).quarantined then s
  else
    let hit := (List.range 8).flatMap (fun i =>
      ((residents s (n / 4 * 8 + i)).filter (usesEngine s (n / 4 * 8 + i) n)).map (fun c => c.prv.gtid))
    let s1 := hit.foldl (fun s g => onContext g loseNames s) s
    undefCluster n (setEngine n { engineAt s1 n with quarantined := true } s1)

/-- `QUARANTINE` (R384, R385). -/
def execQuarantine (s : State) : Out :=
  service 0x54 2 (fun s =>
    let n := arg s 5
    if n > 127 ∨ arg s 6 > 1 then (2, s)
    else if arg s 6 = 1 then (0, quarantine n s)
    else if bits s.ctx.prv.mon.cause 62 2 < 3 then (3, s)
    else (0, restoreEngine n s)) s

/-! ## The forester -/

/-- The record of a number in an audit buffer. -/
def auditAt (s : State) (n : Nat) : Option AuditRec := s.rel.audits.find? (fun r => r.seq = n)

/-- Replaces a record of the same number. -/
def putAudit (r : AuditRec) (s : State) : State :=
  { s with rel.audits := s.rel.audits.map (fun x => if x.seq = r.seq then r else x) }

/-- A record leaves the audit buffer. -/
def dropAudit (n : Nat) (s : State) : State :=
  { s with rel.audits := s.rel.audits.filter (fun x => decide (x.seq ≠ n)) }

/-- Cluster of an engine. -/
def clusterOf (eng : Nat) : Nat := eng / 4

/-- Cells of a run of a recorded instruction on one engine, with the engine's faults. -/
def replayCells (s : State) (eng : Nat) (o : TmmaOp) (out : TmmaOut) : List (List Cells) :=
  (List.range out.cells.length).map (fun x =>
    (List.range o.gang).map (fun e =>
      applyFaults o x (engineAt s eng).faults ((((out.cells[x]?).getD [])[e]?).getD [])))

/-- The signature of a run on an engine (R381, R382), which wears the faults that hit a limited number of runs. -/
def replayOn (eng : Nat) (o : TmmaOp) (s : State) : Word × State :=
  let out := runTmmaOp o
  let cells := replayCells s eng o out
  (signature o cells out.flags (uncheckedOut o out cells),
    setEngine eng { engineAt s eng with faults := wornFaults (engineAt s eng).faults } s)

/-- An engine may replay a record: in service, on another cluster of the record's die, or of another die if none
there is (R382). -/
def mayReplay (s : State) (r : AuditRec) (eng : Nat) : Bool :=
  let ok (n : Nat) : Bool := !(engineAt s n).quarantined && decide (clusterOf n ≠ clusterOf r.orig) && dieLive s (n / 32)
  decide (eng < 128) && ok eng &&
  (decide (eng / 32 = r.die) || !(List.range 32).any (fun i => ok (r.die * 32 + i)))

/-- An engine may run the tie-break: in service, on a cluster different from both (R383). -/
def mayBreak (s : State) (r : AuditRec) (eng : Nat) : Bool :=
  decide (eng < 128) && !(engineAt s eng).quarantined && dieLive s (eng / 32) &&
  decide (clusterOf eng ≠ clusterOf r.orig) && decide (some (clusterOf eng) ≠ r.replay.map clusterOf)

/-- The core that takes INTs of the forester and the distributors for a partition (R359, R361, R387). -/
def proposeCore (s : State) (pid : Nat) : Option Nat := (proposalOf s pid).map (·.core)

/-- Marks an engine suspect and logs it (R383). -/
def suspectEngine (n pid : Nat) (s : State) : State :=
  logEvent 5 (n / 32) pid 0 1 (setEngine n { engineAt s n with suspect := true } s)

/-- A report: it replaces an unread one of the same number. -/
def putReport (r : AuditRec) (s : State) : State :=
  if s.rel.reports.any (fun x => decide (x.seq = r.seq)) then
    { s with rel.reports := s.rel.reports.map (fun x => if x.seq = r.seq then r else x) }
  else { s with rel.reports := s.rel.reports ++ [r] }

/-- Applies a row of R383 to a record and ends its audit. DEDUCED, log 39. -/
def settleAudit (code : Nat) (r : AuditRec) (s : State) : State :=
  let s1 := putReport { r with outcome := code } (dropAudit r.seq s)
  match code with
  | 1 => reportAudit 1 r.gtid r.pc (suspectEngine r.orig r.pid s1)
  | 2 =>
    let s2 := ([r.orig] ++ r.replay.toList ++ r.third.toList).foldl (fun s n => quarantine n s) s1
    reportAudit 2 r.gtid r.pc s2
  | _ =>
    match r.replay with
    | some n => suspectEngine n r.pid s1
    | none => s1

/-- The outcome of a tie-break (R383). -/
def auditOutcome (r : AuditRec) (sig : Word) : Nat :=
  if r.sigs[1]? = some sig then 1 else if r.sigs[0]? = some sig then 3 else 2

/-- `AUDIT_REPLAY`: a replay completes (R382, R383); with `MODES.AUDIT` a mismatch is reported and waits for
AUDITRULE (R387). -/
def execAuditReplay (rec eng : Nat) (s : State) : Out :=
  match auditAt s rec with
  | none => .next s
  | some r =>
    if r.replay.isSome || !mayReplay s r eng then .next s
    else
      let (sig, s1) := replayOn eng r.op s
      if r.sigs[0]? = some sig then .next (dropAudit rec s1)
      else
        let r1 := { r with replay := some eng, sigs := r.sigs.take 1 ++ [sig] }
        if !s.modes.getLsbD 4 then .next (putAudit r1 s1)
        else
          let r2 := { r1 with reported := true }
          let s2 := putReport r2 (putAudit r2 s1)
          match proposeCore s2 r.pid with
          | some core => .next (pendInt core 0x0006 0 s2)
          | none => .next s2

/-- `AUDIT_TIE_BREAK` (R383). -/
def execAuditTieBreak (rec eng : Nat) (s : State) : Out :=
  match auditAt s rec with
  | none => .next s
  | some r =>
    if r.replay.isNone || r.reported || !mayBreak s r eng then .next s
    else
      let (sig, s1) := replayOn eng r.op s
      .next (settleAudit (auditOutcome r sig) { r with third := some eng, sigs := r.sigs.take 2 ++ [sig] } s1)

/-- `AUDIT_TIMEOUT`: a record whose audit has not ended is dropped with outcome 5; one that waits for AUDITRULE is
not counted (R382). -/
def execAuditTimeout (rec : Nat) (s : State) : Out :=
  match auditAt s rec with
  | none => .next s
  | some r => if r.reported then .next s else .next (logEvent 4 r.die r.pid 0 1 (dropAudit rec s))

/-- `AUDITCFG` (R385). -/
def execAuditcfg (s : State) : Out :=
  service 0x50 2 (fun s =>
    if arg s 5 > 3 ∨ arg s 6 < 4 ∨ 20 < arg s 6 ∨ 15 < arg s 7 then (2, s)
    else
      (0, { s with
        rel.auditK := s.rel.auditK.setIfInBounds (arg s 5) (arg s 6)
        rel.retry := s.rel.retry.setIfInBounds (arg s 5) (arg s 7) })) s

/-- A report record (R386). -/
def reportBytes (r : AuditRec) : List Byte :=
  bytesOfNat 8 r.seq ++ bytesOfNat 8 (bits r.gtid 0 48) ++ bytesOfWord 8 r.pc ++ bytesOfNat 2 r.pid ++
  bytesOfNat 1 r.outcome ++ bytesOfNat 1 0 ++ bytesOfNat 2 r.orig ++ bytesOfNat 2 (r.replay.getD 0xFFFF) ++
  bytesOfNat 2 (r.third.getD 0xFFFF) ++ bytesOfNat 6 0 ++
  (List.range 3).flatMap (fun i => bytesOfWord 8 ((r.sigs[i]?).getD 0))

/-- Bytes of a buffer that a service names lie in memory of the caller's window (R289, R385). DEDUCED, log 35. -/
def bufferOk (s : State) (a n : Nat) : Bool :=
  decide (a + n ≤ 2 ^ 52 ∧ offsetOf a + n ≤ hbmEnd) && step4 s s.ctx.space a n

/-- `AUDITLOG` (R385, R386). -/
def execAuditlog (s : State) : Out :=
  service 0x51 2 (fun s =>
    if !bufferOk s (arg s 5) 64 then (2, s)
    else
      match s.rel.reports with
      | [] => (1, s)
      | r :: l => (0, agentWrite (arg s 5) (reportBytes r) { s with rel.reports := l })) s

/-- `AUDITRUN` (R385, R387): replays a waiting record on an engine; the signature goes to `g6`. -/
def execAuditrun (s : State) : Out :=
  service 0x52 2 (fun s =>
    match auditAt s (arg s 5) with
    | none => (2, s)
    | some r =>
      if !r.reported || decide (arg s 6 > 127) then (2, s)
      else if !mayBreak s r (arg s 6) then (1, s)
      else
        let (sig, s1) := replayOn (arg s 6) r.op s
        (0, wg (putAudit { r with third := some (arg s 6), sigs := r.sigs.take 2 ++ [sig] } s1) 6 sig)) s

/-- `AUDITRULE` (R385, R387). -/
def execAuditrule (s : State) : Out :=
  service 0x53 2 (fun s =>
    match auditAt s (arg s 5) with
    | none => (2, s)
    | some r =>
      if !r.reported || decide (arg s 6 = 0 ∨ 3 < arg s 6) then (2, s) else (0, settleAudit (arg s 6) r s)) s

/-! ## Fenced dies -/

/-- Thread identifiers of the contexts resident on a die. -/
def threadsOn (s : State) (die : Nat) : List Word :=
  (coreNumbers.filter (fun c => decide (c / 64 = die))).flatMap (fun c => (residents s c).map (fun x => x.prv.gtid))

/-- Stores of a fenced-off die that were retired each reached memory or did not (R394): a free value says which; a
lost one is logged. -/
def scatterStores (die : Nat) (s : State) : State :=
  let entries := (s.cur :: s.others.map (·.1)).filter (fun n => decide (n / 64 = die)) |>.flatMap (fun n =>
    (getCore s n).sb.map (fun e => (n, e)))
  let s1 := (s.cur :: s.others.map (·.1)).foldl (fun s n =>
    if n / 64 = die then setCore s n { getCore s n with sb := [] } else s) s
  let s2 := (List.zip (List.range entries.length) entries).foldl (fun s x =>
    if Config.freeBool (draw s (2048 + x.1)) && !(!localMem s x.2.2.pa && pairFull s x.2.2.pa) then performStore x.2.1 x.2.2 s
    else logEvent 8 die x.2.2.pid x.2.2.pa 1 s) s1
  let mine := s2.coh.wts.filter (fun w => decide (w.die = die))
  let s3 := (List.zip (List.range mine.length) mine).foldl (fun s x =>
    if x.2.applied then s
    else if Config.freeBool (draw s (8192 + x.1)) then applyWt die x.2.line s
    else
      let i := s.coh.wts.findIdx (fun w => w.die = die ∧ w.line = x.2.line ∧ ¬ w.applied)
      logEvent 8 die x.2.pid x.2.pa 1 { s with coh.wts := s.coh.wts.eraseIdx i }) s2
  { s3 with coh.wts := s3.coh.wts.filter (fun w => decide (w.die ≠ die)) }

/-- Lines homed on live dies for which a die held tokens, a copy, a persistent request or an unanswered request
(R391). -/
def heldBy (s : State) (die : Nat) : List Nat :=
  let lines :=
    ((s.coh.tokens.filter (fun t => decide (t.die = die))).map (·.line)) ++
    ((s.coh.copies.filter (fun x => decide (x.die = die))).map (·.line)) ++
    ((s.coh.persistent.filter (fun x => decide (x.1 = die))).map (·.2.2)) ++
    ((s.coh.wts.filter (fun x => decide (x.die = die))).map (·.line)) ++
    ((s.coh.fills.filter (fun x => decide (x.die = die))).map (·.line)) ++
    ((s.coh.confirms.filter (fun x => decide (x.die = die))).map (·.line)) ++
    ((s.coh.atomics.filter (fun x => decide (x.die = die))).map (fun q => lineOf q.pa))
  (lines.filter (fun l => localMem s (l * 128) && decide (homeDie (l * 128) ≠ die))).dedup

/-- The directory scrub: the recorded incarnation moves on and lines are poisoned (R391). -/
def scrub (ag : Agent) (lines : List Nat) (s : State) : State :=
  let n := (incOf s ag + 1) % 65536
  { s with
    rel.incarnation := (agentKey ag, n) :: s.rel.incarnation.filter (fun e => decide (e.1 ≠ agentKey ag))
    rel.scrubbed := lines.map (fun l => (agentKey ag, l)) ++ s.rel.scrubbed.filter (fun e => decide (e.1 ≠ agentKey ag))
    coh := lines.foldl (fun c l => poisonLine l c) s.coh }

/-- What a die held in the coherence tables goes with it. -/
def forgetDie (die : Nat) (c : Coh) : Coh :=
  { c with
    tokens := c.tokens.filter (fun t => decide (t.die ≠ die))
    copies := c.copies.filter (fun x => decide (x.die ≠ die))
    persistent := c.persistent.filter (fun x => decide (x.1 ≠ die))
    fills := c.fills.filter (fun x => decide (x.die ≠ die))
    confirms := c.confirms.filter (fun x => decide (x.die ≠ die))
    atomics := c.atomics.filter (fun x => decide (x.die ≠ die))
    retained := c.retained.filter (fun x => decide (x.die ≠ die)) }

/-- Work that live agents had outstanding with homes that no longer answer ends (R392): write-throughs not yet
acknowledged are lost, wayside entries struck, atomics return poison. -/
def endOutstanding (dead : State → Nat → Bool) (s : State) : State :=
  let lost := s.coh.wts.filter (fun w => dead s w.pa)
  let s1 := { s with coh.wts := s.coh.wts.filter (fun w => !dead s w.pa) }
  let s2 := lost.foldl (fun s w => loseWrite w.cmd w.die w.gtid w.pid w.pa s) s1
  let s3 := (s2.coh.confirms.filter (fun c => dead s2 (c.line * 128))).foldl (fun s c => timeoutWayside c.gtid c.line s) s2
  let s4 := (s3.coh.atomics.filter (fun q => dead s3 q.pa)).foldl (fun s q => answerAtomic q.gtid .atomicPoison s) s3
  { s4 with coh.atomics := s4.coh.atomics.filter (fun q => !dead s4 q.pa) }

/-- The distributor of a fenced-off die leaves the election; where it was the master, an election begins, in
host-assisted mode with INT 7 (R367, R389). -/
def loseMaster (die : Nat) (s : State) : State :=
  if s.sched.master ≠ die ∨ s.sched.election then s
  else
    let host := s.modes.getLsbD 2
    let s1 := { s with sched.election := true, sched.electHost := host }
    if !host then s1
    else
      let core := if s.host.notifyCore / 64 = die then lowestLive s * 64 else s.host.notifyCore
      pendInt core 0x0007 0 s1

/-- Restores under way on a die end, and with them those of the groups they belong to, which are restored only as a
whole (R33): their records are queued again. -/
def dropRestores (die : Nat) (s : State) : State :=
  let group (r : Restore) : Option (Nat × Nat) :=
    if recField s r.record 5 1 % 2 = 1 then some (r.pid, recField s r.record 6 2) else none
  let mine := s.sched.restores.filter (fun r => decide (r.core / 64 = die))
  let drops (r : Restore) : Bool :=
    decide (r.core / 64 = die) || ((group r).isSome && mine.any (fun x => decide (group x = group r)))
  let s1 := (s.sched.restores.filter drops).foldl (fun s r => setRec r.record 1 s) s
  { s1 with sched.restores := s1.sched.restores.filter (fun r => !drops r) }

/-- Commands of a fenced-off die's engines end with CONTAINED, and so do the other members of their collectives
(R389, R393). -/
def containCmds (die : Nat) (s : State) : State :=
  (s.copy.cmds.filter (fun c => decide (c.core / 64 = die))).foldl (fun s c =>
    let s1 := loseCmd true c s
    if c.isColl then abortEverywhere (bits c.desc.p0 32 16) (collId c.desc) 9 c.gtid s1 else s1) s

/-- A member for which a bank of a die was reserved waits for a place again (R368). -/
def dropReserved (die : Nat) (s : State) : State :=
  (s.sched.reserved.filter (fun r => decide (r.1 / 64 = die))).foldl (fun s r =>
    noteMember r.2 (fun m => { m with place := none }) { s with sched.reserved := s.sched.reserved.erase r }) s

/-- A die is fenced off (R367, R368, R389, R391, R392). DEDUCED, log 40. -/
def fenceDie (die : Nat) (s : State) : State :=
  if die > 3 ∨ (s.rel.fenced[die]?).getD true then s
  else
    let lines := heldBy s die
    let s1 := dropReserved die <| dropRestores die (containCmds die ((threadsOn s die).foldl (fun s g => killThread g true s) s))
    let s2 := scatterStores die s1
    let s3 := { s2 with
      rel.fenced := s2.rel.fenced.setIfInBounds die true
      boot.bootst := putBits s2.boot.bootst (4 + die) 1 0 }
    let s4 := endOutstanding (fun s pa => deadHome s pa) s3
    loseMaster die (scrub (.die die) lines { s4 with coh := forgetDie die s4.coh })

/-- `DIE_FENCE` (R389). -/
def execDieFence (die : Nat) (s : State) : Out := .next (fenceDie die s)

/-! ## Dead packages -/

/-- A message is a write. -/
def msgWrites (m : Msg) : Bool :=
  match m.rq with
  | .write _ _ _ => true
  | .subByte _ _ _ => true
  | _ => false

/-- A message is an atomic of a thread of this package that has not been answered. -/
def msgAsks (m : Msg) : Bool :=
  match m.rq with
  | .atomic _ _ _ _ _ => !m.applied && m.fwd.isNone
  | _ => false

/-- Address a message concerns. -/
def msgAddr (m : Msg) : Nat := (reqRange m.rq).1

/-- Collectives in flight with a member in a package: group and identifier (R393). -/
def collsWith (s : State) (p : Nat) : List (Nat × Nat) :=
  ((s.copy.cmds.filter (fun c => c.isColl && s.copy.groups.any (fun g =>
    decide (g.num = bits c.desc.p0 32 16) && g.members.any (fun m => decide (bits m 40 8 = p))))).map
      (fun c => (bits c.desc.p0 32 16, collId c.desc))).dedup

/-- A package is declared dead (R391 to R393): writes to it not yet acknowledged are lost, atomics sent to it return poison,
hand-overs to it poison their pages, and the collectives with its contexts end with CONTAINED. -/
def loseAgent (p : Nat) (s : State) : State :=
  let frames := (s.xlat.handOvers.filter (fun e => decide (e.2 = p))).map (·.1)
  let lines := frames.flatMap (fun f => (List.range 32).map (fun i => f * 32 + i))
  let lost := s.fab.msgs.filter (fun m => decide (m.src = s.pkg ∧ m.dst = p) && msgWrites m)
  let s1 := scrub (.package p) lines s
  let s2 := { s1 with
    rel.deadPkgs := p :: s1.rel.deadPkgs
    xlat.handOvers := s1.xlat.handOvers.filter (fun e => decide (e.2 ≠ p))
    copy.told := s1.copy.told.filter (fun x => decide (x.1 ≠ p))
    fab.msgs := s1.fab.msgs.filter (fun m => decide (m.dst ≠ p)) }
  let s3 := lost.foldl (fun s m => loseWrite m.cmd s.die m.gtid m.pid (msgAddr m) s) s2
  let asked := s.fab.msgs.filter (fun m => decide (m.src = s.pkg ∧ m.dst = p) && msgAsks m)
  let s3 := asked.foldl (fun s m => answerAtomic m.gtid .atomicPoison s) s3
  let s4 := (collsWith s3 p).foldl (fun s x => abortCollective x.1 x.2 9 0 s)
    (raiseAborts (fun m => decide (bits m 40 8 = p)) s3)
  endOutstanding (fun s pa => decide (ownerOf s pa = p)) s4

/-- `AGENT_DECLARED_DEAD` (R391, R392). -/
def execAgentDeclaredDead (ag : Agent) (s : State) : Out :=
  match ag with
  | .die d => .next (fenceDie d s)
  | .package p =>
    if p = s.pkg ∨ ¬ s.fab.present.contains p ∨ s.rel.deadPkgs.contains p ∨ s.fab.repairing then .next s else .next (loseAgent p s)

/-- `STALE_MESSAGE`: a message with an old incarnation is dropped and logged, and its line poisoned if the scrub did
not poison it; the sender, a die, fences itself off. Of this package itself: another one has told it that it is stale,
and it fences itself off (R391). -/
def execStaleMessage (ag : Agent) (line inc : Nat) (s : State) : Out :=
  if ag = .package s.pkg then .next ((List.range 4).foldl (fun s d => fenceDie d s) s)
  else if inc ≥ incOf s ag then .next s
  else
    match ag with
    | .die d => .next (fenceDie d (dropStale ag line s))
    | .package _ => .next (dropStale ag line s)

/-! ## Errors -/

/-- Poisons a register of a context (R370). Files: 0 `g`, 1 `f`, 2 `p`, 3 `m`, 4 control registers by number. -/
def poisonReg (file idx : Nat) (c : Ctx) : Ctx :=
  match file with
  | 0 => if idx = 0 then c else { c with aux.poison.g := c.aux.poison.g ||| (1#64 <<< idx) }
  | 1 => { c with aux.poison.f := c.aux.poison.f ||| (1#64 <<< idx) }
  | 2 => if idx = 0 then c else { c with aux.poison.p := c.aux.poison.p ||| (1#8 <<< idx) }
  | 3 => if idx = 0 then c else { c with aux.poison.m := c.aux.poison.m ||| (1#8 <<< idx) }
  | _ => if c.aux.poison.ctl.contains idx then c else { c with aux.poison.ctl := idx :: c.aux.poison.ctl }

/-- Poisons a row of a name of a context (R370). -/
def poisonName (acc : Bool) (name band row : Nat) (c : Ctx) : Ctx :=
  if acc then
    let a := c.acc name
    if a.tag = .empty ∨ row ≥ a.rext ∨ band ≥ c.aux.gang then c
    else { c with c := c.c.setIfInBounds name { a with bad := (band, row) :: a.bad } }
  else
    let t := tileBand (c.tile name) band
    if row ≥ t.rows.length then c else setTileBand name band { t with bad := row :: t.bad } c

/-- Poisons a cell of an accumulator by its cellar entry; a cell without one has nothing to err (R178, R370). -/
def poisonCell (name band row col : Nat) (c : Ctx) : Ctx :=
  let a := c.acc name
  if a.tag ≠ .int ∨ row ≥ a.rext ∨ col ≥ a.cext ∨ band ≥ c.aux.gang ∨ cellEntries (cellAt (a.band band) row col) = 0 then c
  else { c with c := c.c.setIfInBounds name { a with badCells := (band, row, col) :: a.badCells } }

/-- The context in a bank of a core: the active one, or the lodged one. -/
def bankOf (s : State) (core : Nat) (lodged : Bool) : Option Ctx :=
  if lodged then (getCore s core).lodge else activeOf s core

/-- An uncorrectable error in the context of a bank: it is changed, and the log names its partition (R388). -/
def bankError (core : Nat) (lodged : Bool) (f : Ctx → Ctx) (s : State) : State :=
  match bankOf s core lodged with
  | none => logEvent 2 (core / 64) 0 0 1 s
  | some c =>
    logEvent 2 (core / 64) c.pid 0 1
      (if lodged then setCore s core { getCore s core with lodge := some (f c) } else setActive s core (f c))

/-- `ECC_ERROR` (R370, R371, R388, R389). A pinned slot is read without correction and poisons nothing (R431). -/
def execEccError (site : EccSite) (s : State) : Out :=
  match site with
  | .corrected die => .next (logEvent 1 die 0 0 1 s)
  | .memory line =>
    if !localMem s (line * 128) then .next s
    else .next (logEvent 2 (homeDie (line * 128)) 0 (line * 128) 1 { s with coh := poisonLine line s.coh })
  | .copy die line => .next { s with coh := dropCopy die line s.coh }
  | .storeBuffer core idx =>
    let c := getCore s core
    .next (logEvent 2 (core / 64) (((c.sb[idx]?).map (·.pid)).getD 0) 0 1
      (setCore s core { c with sb := c.sb.modify idx (fun e => { e with poison := true }) }))
  | .register core lodged file idx => .next (bankError core lodged (poisonReg file idx) s)
  | .slotRow core lodged acc name band row => .next (bankError core lodged (poisonName acc name band row) s)
  | .cellar core lodged name band row col => .next (bankError core lodged (poisonCell name band row col) s)
  | .defectRow eng acc slot row spare mask stuck =>
    .next (setEngine eng
      { engineAt s eng with rowFaults := (engineAt s eng).rowFaults ++ [⟨acc, slot, row, spare, mask, stuck⟩] } s)
  | .defectCell eng acc row col flip runs =>
    .next (setEngine eng { engineAt s eng with faults := (engineAt s eng).faults ++ [⟨acc, row, col, flip, runs⟩] } s)
  | .unattributable die => .next (logEvent 2 die 0 0 1 (fenceDie die s))

/-! ## Scheduling services -/

/-- `RUNQ` (R359). -/
def execRunq (s : State) : Out :=
  service 0x48 2 (fun s =>
    let pid := arg s 5
    let k := arg s 6
    if pid > 4095 ∨ k > 31 ∨ ¬ aligned (arg s 7) 4096 ∨ ¬ pow2In (arg s 8) 16 65536 then (2, s)
    else if (queueOf s pid k).any (fun q => !(recsIn s q 1).isEmpty) then (1, s)
    else
      let rest := s.sched.runqs.filter (fun q => decide (¬ (q.pid = pid ∧ q.cluster = k)))
      (0, { s with sched.runqs := rest ++ [⟨pid, k, arg s 7, arg s 8⟩] })) s

/-- `SAPOOL` (R359). -/
def execSapool (s : State) : Out :=
  service 0x49 2 (fun s =>
    if arg s 5 > 4095 ∨ ¬ aligned (arg s 6) 4096 ∨ ¬ pow2In (arg s 7) 16 (2 ^ 20) then (2, s)
    else
      let rest := s.sched.sapools.filter (fun x => decide (x.1 ≠ arg s 5))
      (0, { s with sched.sapools := rest ++ [(arg s 5, ⟨arg s 6, arg s 7⟩)] })) s

/-- `ELECT` (R359, R367), of an election that has begun in host-assisted mode (R420). -/
def execElect (s : State) : Out :=
  service 0x4A 2 (fun s =>
    if arg s 5 > 3 then (2, s)
    else if !dieLive s (arg s 5) || !s.sched.electHost || !s.sched.election then (1, s)
    else (0, { s with sched.master := arg s 5, sched.election := false })) s

end Sys2Proof.Machine
end

