-- ==== Sys2Proof/Machine/Fabric.lean ====
section
/-! DEFINITION. Messages between packages, links and routes, collective groups, and the fabric and host services
(R390, R412, R416 to R419). -/

namespace Sys2Proof.Machine

/-! ## Messages -/

/-- A message of an ordered pair of packages with a sequence number. -/
def msgOf (s : State) (src dst seq : Nat) : Option Msg :=
  s.fab.msgs.find? (fun m => m.src = src ∧ m.dst = dst ∧ m.seq = seq)

/-- `FABRIC_MESSAGE`: a message that has gone out arrives and is applied, once (R390). -/
def execFabricMessage (src dst seq : Nat) (s : State) : Out :=
  .next (if (msgOf s src dst seq).any (fun m => m.sentOut && !msgBehind s m) then applyMsg src dst seq s else s)

/-- `FABRIC_ACK`: the acknowledgement of an applied message reaches its source; or a source acknowledges the reply it
has received from this package (R390). One from a package that has been declared dead is stale (R391). -/
def execFabricAck (src dst seq : Nat) (s : State) : Out :=
  let sender := if dst = s.pkg then src else dst
  let s1 := ackMsg src dst seq s
  .next (if s.rel.deadPkgs.contains sender then dropStale (.package sender) none s
    else if dst = s.pkg then { s1 with fab.replies := s1.fab.replies.filter (fun r => decide (¬ (r.src = src ∧ r.seq = seq))) }
    else s1)

/-- `FABRIC_RESEND`: a message not acknowledged goes out again over any route; a copy already applied is not applied
again (R390). -/
def execFabricResend (src dst seq : Nat) (s : State) : Out :=
  .next (if pathUp s.fab dst then
    { s with fab.msgs := s.fab.msgs.map (fun m =>
        if m.src = src ∧ m.dst = dst ∧ m.seq = seq then { m with sentOut := true } else m) }
  else s)

/-! ## Links and routes -/

/-- Messages not applied yet whose way out is gone wait at their source (R417). -/
def holdMsgs (s : State) : State :=
  { s with fab.msgs := s.fab.msgs.map (fun m =>
      if m.src = s.pkg ∧ !m.applied ∧ !pathUp s.fab m.dst then { m with sentOut := false } else m) }

/-- A port goes down and route repair begins, in the mode that `MODES.ROUTE` selects then (R370, R417, R420). -/
def takeDown (port : Nat) (s : State) : State :=
  let assisted := if s.fab.repairing then s.fab.repairHost else s.modes.getLsbD 3
  let s1 := holdMsgs { s with
    fab.linksUp := s.fab.linksUp &&& ~~~(1#18 <<< port)
    fab.repairing := true
    fab.repairHost := assisted }
  if assisted then pendInt s.host.notifyCore 0x0004 0 s1 else s1

/-- `LINK_DOWN` (R370, R417). -/
def execLinkDown (port : Nat) (s : State) : Out :=
  .next (if s.fab.linksUp.getLsbD port then takeDown port s else s)

/-- `ROUTE_REPAIR`: the management firmware's repair, in hardware mode (R417). -/
def execRouteRepair (s : State) : Out :=
  .next (if s.fab.repairing && !s.fab.repairHost then repairRoutes s else s)

/-- `ROUTESET` (R417, R419). It ends a repair that has begun in host-assisted mode (R420). -/
def execRouteset (s : State) : Out :=
  service 0x61 2 (fun s =>
    let dst := arg s 5
    let port := arg s 6
    if dst = 256 then (0, if s.fab.repairHost then releaseMsgs { s with fab.repairing := false } else s)
    else if dst > 255 ∨ port > 17 then (2, s)
    else if !s.fab.linksUp.getLsbD port then (1, s)
    else (0, releaseMsgs { s with
      fab.routes := (dst, port) :: s.fab.routes.filter (fun r => decide (r.1 ≠ dst)) })) s

/-! ## Groups -/

/-- A GTID is a context of a partition. Of a GTID of another package a free value says so (log 44). -/
def memberOk (s : State) (pid : Nat) (gtid : Word) : Bool :=
  let pkg := bits gtid 40 8
  decide (bits gtid 48 16 = 0) &&
  (if pkg = s.pkg then decide (pidOf s gtid = some pid)
    else s.fab.present.contains pkg && (Config.freeByteAt (draw s 57) gtid.toNat).getLsbD 0)

/-- The packages of a group's members other than this one. -/
def groupPackages (s : State) (num : Nat) : List Nat :=
  ((s.copy.groups.filter (fun g => decide (g.num = num))).flatMap (fun g =>
    (g.members.map (fun m => bits m 40 8)).filter (fun p => decide (p ≠ s.pkg)))).dedup

/-- A collective of a group is in flight: here, or, as a free value says, at members of other packages (log 44). -/
def groupBusy (s : State) (num : Nat) : Bool :=
  s.copy.cmds.any (fun c => c.isColl && decide (bits c.desc.p0 32 16 = num)) ||
  (!(groupPackages s num).isEmpty && Config.freeBool (draw s 56))

/-- GTIDs of the list at an address. -/
def readGtids (s : State) (a n : Nat) : List Word :=
  (List.range n).map (fun i => BitVec.ofNat 64 (natOfBytes (memReadN s.mem (a + 8 * i) 8)))

/-- The partition that a call of `GROUPBIND` binds for (R419). -/
def bindPid (s : State) : Nat := if bits s.ctx.prv.mon.cause 62 2 ≥ 2 then arg s 6 else s.pid

/-- The list of a call of `GROUPBIND` is well formed and lies in the caller's window (R419). -/
def bindListOk (s : State) : Bool :=
  !decide (arg s 5 > 65535 ∨ arg s 8 > 4096 ∨ bindPid s > 4095) && (decide (arg s 8 = 0) || bufferOk s (arg s 7) (8 * arg s 8))

/-- The packages that a call of `GROUPBIND` copies the list to: those of the new members and of the old ones. -/
def bindPackages (s : State) : List Nat :=
  (((readGtids s (arg s 7) (arg s 8)).map (fun m => bits m 40 8)).filter (fun p => decide (p ≠ s.pkg)) ++
    groupPackages s (arg s 5)).dedup

/-- Every package that holds a member can be told (R417, R418). -/
def bindReady (s : State) : Bool := !bindListOk s || (bindPackages s).all (pathUp s.fab)

/-- `GROUPBIND` (R418, R419): it returns when every package that holds a member has recorded the list. -/
def execGroupbind (s : State) : Out :=
  serviceWhen bindReady 0x60 1 (fun s =>
    let members := readGtids s (arg s 7) (arg s 8)
    if !bindListOk s || !members.all (memberOk s (bindPid s)) then (2, s)
    else if groupBusy s (arg s 5) then (1, s)
    else (0, (bindPackages s).foldl (fun t p => askPackage p t) (bindGroup (arg s 5) (bindPid s) members s))) s

/-! ## Host services -/

/-- `NOTIFY` (R419, R420). -/
def execNotify (s : State) : Out :=
  service 0x62 2 (fun s =>
    if arg s 5 > 255 then (2, s)
    else if arg s 6 = 0 then (0, { s with host.notifyCore := arg s 5, host.dumpRing := none })
    else if !aligned (arg s 6) 4096 || !pow2In (arg s 7) (2 ^ 20) (2 ^ 34) then (2, s)
    else (0, { s with host.notifyCore := arg s 5, host.dumpRing := some ⟨arg s 6, arg s 7⟩ })) s

/-- A range lies inside the window of a partition, as one of its contexts gives it (R289). -/
def insideWindow (s : State) (pid a n : Nat) : Bool :=
  (knownSpaces s).any (fun sp => decide (sp.pid = pid) && step4 s sp a n)

/-- `HOSTVF` (R416, R419, R421). -/
def execHostvf (s : State) : Out :=
  service 0x63 2 (fun s =>
    let v := arg s 5
    let pid := arg s 6
    let others := s.host.vfs.filter (fun x => decide (x.num ≠ v))
    if v = 0 ∨ v > 64 ∨ pid > 4095 then (2, s)
    else if pid = 0 then (0, { s with host.vfs := others })
    else if arg s 8 > 255 ∨ ¬ aligned (arg s 7) 65536 ∨ ¬ insideWindow s pid (arg s 7) 65536 then (2, s)
    else if (vfOf s v).any (fun x => decide (x.pid ≠ pid)) then (1, s)
    else (0, { s with host.vfs := ⟨v, pid, arg s 7, arg s 8⟩ :: others })) s

/-- `HOSTWIN` (R419). -/
def execHostwin (s : State) : Out :=
  service 0x64 2 (fun s =>
    let base := arg s 5
    let n := arg s 6 * 2 ^ 30
    if arg s 6 = 0 then (0, { s with host.window := none })
    else if !pow2In (arg s 6) 1 512 || !aligned base (2 ^ 30) || decide (originOf base ≠ s.pkg) ||
      decide (offsetOf base + n > hbmEnd) then (2, s)
    else if inCarve s base n then (1, s)
    else (0, { s with host.window := some (base, n) })) s

end Sys2Proof.Machine
end

