-- ==== Sys2Proof/Machine/HostLink.lean ====
section
/-! DEFINITION. The host: its link, its accesses to memory, registers and doorbell pages, and the firmware mailbox
(R413 to R416, R421 to R423, R429). -/

namespace Sys2Proof.Machine

/-! ## The link -/

/-- `HOST_LINK_TRAINING` (R421, R422): 4, 8 or 16 lanes at 32, 64 or 128 GT/s. -/
def execHostLinkTraining (cxl : Bool) (rate width : Nat) (s : State) : Out :=
  .next (if [4, 8, 16].contains width && [32, 64, 128].contains rate then
    { s with host.trained := true, host.failed := false, host.cxl := cxl, host.rate := rate, host.width := width }
  else s)

/-- `HOST_LINK_FAILURE` (R413). -/
def execHostLinkFailure (s : State) : Out :=
  .next (if s.host.trained then { s with host.failed := true } else s)

/-- What a host read returns; `none` is a completion without data. -/
def answerHost (d : Option (List Byte)) (s : State) : State := { s with host.answer := d }

/-! ## Memory -/

/-- Bytes a host request asks for: VF, address and length. -/
def hostRange : HostReq → Option Nat × Nat × Nat
  | .read vf a n => (vf, a, n)
  | .write vf a d => (vf, a, d.length)
  | .atomic vf _ a n _ _ => (vf, a, n)
  | .memRead a n => (none, a, n)
  | .memWrite a d => (none, a, d.length)
  | .decoder _ a _ => (none, a, 0)

/-- A decoder of CXL.mem that is closed, or lies in this package's HBM, of which the two reach 512 GiB at most (R422).
DESIGN CHOICE, log 86. -/
def decoderOk (s : State) (k base size : Nat) : Bool :=
  let rest := ((s.host.decoders.filter (fun d => decide (d.1 ≠ k))).map (fun d => d.2.2)).sum
  decide (k < 2) && (decide (size = 0) ||
    decide (originOf base = s.pkg ∧ offsetOf base + size ≤ hbmEnd ∧ size + rest ≤ 512 * 2 ^ 30))

/-- The host sets a decoder of CXL.mem (R422). DESIGN CHOICE, log 86. -/
def setDecoder (k base size : Nat) (s : State) : State :=
  if !decoderOk s k base size then s
  else
    { s with host.decoders :=
        (if size = 0 then [] else [(k, base, size)]) ++ s.host.decoders.filter (fun d => decide (d.1 ≠ k)) }

/-- The physical address that an access through CXL.mem reaches: in a decoder, over a link that trained as CXL, and no
carve-out (R16, R422). -/
def memPlace (s : State) (a n : Nat) : Option Nat :=
  if s.host.cxl && s.host.decoders.any (fun d => decide (d.2.1 ≤ a ∧ a + n ≤ d.2.1 + d.2.2)) && !inCarve s a n
  then some a else none

/-- The host holds a copy of a line (R422). -/
def holdLine (line : Nat) (s : State) : State :=
  { s with coh.hostLines := line :: s.coh.hostLines.filter (· ≠ line) }

/-- The physical address a host access reaches through the BAR2 window (R419, R423). A carve-out is no memory (R16, R308).
A VF has no window onto memory, only its doorbell page (R421). -/
def barPlace (s : State) (vf : Option Nat) (a n : Nat) : Option Nat :=
  match vf, s.host.window with
  | none, some (base, size) => if a + n ≤ size && !inCarve s (base + a) n then some (base + a) else none
  | _, _ => none

/-- The physical address of a host access (R422, R423). -/
def hostPlace (s : State) (rq : HostReq) : Option Nat :=
  match rq with
  | .memRead a n => memPlace s a n
  | .memWrite a d => memPlace s a d.length
  | .decoder _ _ _ => none
  | .read vf a n => barPlace s vf a n
  | .write vf a d => barPlace s vf a d.length
  | .atomic vf _ a n _ _ => barPlace s vf a n

/-- `AMOADD`, `AMOSWAP` or `AMOCAS`: the AtomicOps a completer supports (R421). -/
def hostAmo (kind : Nat) : Option Nat :=
  match kind with
  | 0 => some 0
  | 1 => some 8
  | 2 => some 9
  | _ => none

/-- A host access at a physical address: it is performed at the line's home, as an access of a sys-scope agent
(R423); through CXL.mem the host keeps a copy of the line (R422). A home that serves no request gives no data and takes
none (R392). DEDUCED, log 45. -/
def hostAccess (rq : HostReq) (pa : Nat) (s : State) : State :=
  let n := (hostRange rq).2.2
  match rq with
  | .read _ _ _ =>
    answerHost (if linePoisoned s (lineOf pa) then none else some (memReadN s.mem pa n)) s
  | .write _ _ d =>
    if deadHome s pa then s else homeWrite pa d 0xFF false (decide (n = 128)) s
  | .atomic _ kind _ _ v cmp =>
    match hostAmo kind with
    | none => answerHost none s
    | some op =>
      if linePoisoned s (lineOf pa) then answerHost none s
      else
        let r := amoAt 0 (AmoOp.ofCode op) pa n v cmp s
        answerHost (some (bytesOfWord n r.2.1)) r.1
  | .memRead _ _ =>
    if linePoisoned s (lineOf pa) then answerHost none s
    else holdLine (lineOf pa) (answerHost (some (memReadN s.mem pa n)) s)
  | .memWrite _ d =>
    if deadHome s pa then s else holdLine (lineOf pa) (homeWrite pa d 0xFF false (decide (n = 128)) s)
  | .decoder _ _ _ => s

/-- A host request that is one access: within a line; an AtomicOp of 4 or 8 aligned bytes (R421). -/
def hostReqOk (rq : HostReq) : Bool :=
  let (_, a, n) := hostRange rq
  match rq with
  | .decoder _ _ _ => true
  | .atomic _ _ _ _ _ _ => decide (1 ≤ n ∧ a % 128 + n ≤ 128) && decide ((n = 4 ∨ n = 8) ∧ a % n = 0)
  | _ => decide (1 ≤ n ∧ a % 128 + n ≤ 128)

/-- `HOST_MEMORY_ACCESS` (R419, R421 to R423): beyond the window it completes as Unsupported Request. -/
def execHostMemoryAccess (rq : HostReq) (s : State) : Out :=
  .next (if !hostLinkUp s || !hostReqOk rq then s
    else
      match rq with
      | .decoder k base size => if s.host.cxl then setDecoder k base size s else s
      | _ =>
        match hostPlace s rq with
        | none => answerHost none s
        | some pa => hostAccess rq pa s)

/-! ## Doorbells -/

/-- A naturally aligned access of 4 or 8 bytes (R414). -/
def regAccessOk (off n : Nat) : Bool := decide ((n = 4 ∨ n = 8) ∧ off % n = 0)

/-- Replaces `n` bytes of an 8-byte register at a byte offset within it. -/
def mergeHalf (old : Word) (off n : Nat) (v : Word) : Word := putBits old (8 * (off % 8)) (8 * n) v.toNat

/-- A doorbell word of a bound VF lies in the window of the VF's partition (R423). -/
def doorbellOk (s : State) (x : Vf) (off n : Nat) : Bool := insideWindow s x.pid (x.area + off) n

/-- A host write to the doorbell page of a bound VF (R416). -/
def pageWrite (x : Vf) (off n : Nat) (v : Word) (s : State) : State :=
  if off < 0xF000 then
    (if deadHome s (x.area + off) || !doorbellOk s x off n then s else ringDoorbell x off (bytesOfWord n v) s)
  else if off < 0xF100 then
    let o := (off - 0xF000) / 8 * 8
    writeMsix x.num o (mergeHalf (readMsix s.host x.num o) off n v) s
  else s

/-- The 8 bytes that the page of a bound VF reads as at an aligned offset (R416). -/
def pageRead (s : State) (x : Vf) (off : Nat) : Word :=
  if off < 0xF000 then BitVec.ofNat 64 (natOfBytes (memReadN s.mem (x.area + off) 8))
  else if off < 0xF100 then readMsix s.host x.num (off - 0xF000)
  else if off = 0xF800 then readPending s.host x.num 0
  else 0

/-- The bytes a host read of `n` bytes takes of an 8-byte register. -/
def halfOf (v : Word) (off n : Nat) : List Byte := ((bytesOfWord 8 v).drop (off % 8)).take n

/-- What a host read of the page of a bound VF returns (R416, R423). -/
def pageAnswer (s : State) (x : Vf) (off n : Nat) : Option (List Byte) :=
  if off < 0xF000 && (linePoisoned s (lineOf (x.area + off)) || !doorbellOk s x off n) then none
  else some (halfOf (pageRead s x (off / 8 * 8)) off n)

/-- `DOORBELL_WRITE`: a host write through a VF's BAR0 (R416). -/
def execDoorbellWrite (vf off n : Nat) (v : Word) (s : State) : Out :=
  .next (if !hostLinkUp s || !regAccessOk off n || decide (off ≥ 0x10000) then s
    else
      match vfOf s vf with
      | none => s
      | some x => pageWrite x off n v s)

/-- `DOORBELL_READ`: a host read through a VF's BAR0 (R416). -/
def execDoorbellRead (vf off n : Nat) (s : State) : Out :=
  .next (if !hostLinkUp s || decide (off ≥ 0x10000) then s
    else if !regAccessOk off n then answerHost none s
    else
      match vfOf s vf with
      | none => answerHost none s
      | some x =>
        answerHost (pageAnswer s x off n) s)

/-! ## Registers -/

/-- A write to `MBDOOR`: BUSY is set and the command submitted; ignored while BUSY is 1 (R415). -/
def ringMailbox (s : State) : State :=
  if s.host.mbstat.getLsbD 63 then s
  else { s with host.mbstat := s.host.mbstat ||| 0x8000000000000000, host.mbPending := true }

/-- `MBDOOR` (R415). -/
def execMbdoor (s : State) : Out := .next (if hostLinkUp s then ringMailbox s else s)

/-- The VF whose page a device-register offset lies in, and the offset in the page (R414). -/
def vfPage (off : Nat) : Option (Nat × Nat) :=
  if 0x100000 ≤ off ∧ off < 0x500000 then some ((off - 0x100000) / 0x10000 + 1, off % 0x10000) else none

/-- A host write through BAR0 of PF0 (R414, R415). -/
def hostRegWrite (off n : Nat) (v : Word) (s : State) : State :=
  let o := off / 8 * 8
  match vfPage off with
  | some (num, po) =>
    match vfOf s num with
    | none => s
    | some x => pageWrite x po n v s
  | none =>
    if o = 0x1000 then { s with host.mbcmd := mergeHalf s.host.mbcmd off n v &&& 0xFFFF }
    else if 0x1008 ≤ o ∧ o < 0x1048 then
      let i := (o - 0x1008) / 8
      { s with host.mbarg := s.host.mbarg.setIfInBounds i (mergeHalf ((s.host.mbarg[i]?).getD 0) off n v) }
    else if o = 0x1048 then ringMailbox s
    else if 0x10000 ≤ o ∧ o < 0x18000 then
      writeMsix 0 (o - 0x10000) (mergeHalf (readMsix s.host 0 (o - 0x10000)) off n v) s
    else s

/-- A host read through BAR0 of PF0 (R414 to R416); the page of a VF that is not bound answers with Unsupported
Request. -/
def hostRegRead (off n : Nat) (s : State) : Option (List Byte) :=
  match vfPage off with
  | some (num, po) => (vfOf s num).bind (fun x => pageAnswer s x po n)
  | none => some (halfOf (devRead s (off / 8 * 8)) off n)

/-- `HOST_REGISTER_ACCESS` (R414): any access but a naturally aligned one of 4 or 8 bytes, or one beyond BAR0, completes
as Unsupported Request. -/
def execHostRegisterAccess (wr : Bool) (off n : Nat) (v : Word) (s : State) : Out :=
  .next (if !hostLinkUp s then s
    else if !regAccessOk off n || decide (off ≥ 0x4000000) then (if wr then s else answerHost none s)
    else if wr then hostRegWrite off n v s
    else answerHost (hostRegRead off n s) s)

/-! ## The mailbox -/

/-- The command submitted. -/
def mbCommand (s : State) : Nat := bits s.host.mbcmd 0 16

/-- A mailbox argument. -/
def mbArg (s : State) (i : Nat) : Nat := ((s.host.mbarg[i]?).getD 0).toNat

/-- Writes a mailbox argument. -/
def setMbArg (i v : Nat) (s : State) : State :=
  { s with host.mbarg := s.host.mbarg.setIfInBounds i (BitVec.ofNat 64 v) }

/-- A command ends: BUSY 0 with its status, and vector 0 of PF0 (R415). -/
def endMailbox (status : Nat) (s : State) : State :=
  writeMbstat (BitVec.ofNat 64 status) { s with host.mbPending := false }

/-- A command of the mailbox waits for the firmware. -/
def mailboxAt (s : State) (cmd : Nat) : Bool := s.host.mbPending && decide (mbCommand s = cmd)

/-- Physical address of host memory, in the host window of this package (R412). -/
def hostPa (s : State) (a : Nat) : Nat := s.pkg * 2 ^ 44 + hostBase + a

/-- Host memory that an argument names can be reached: in the window, over a working link (R413). -/
def hostBufOk (s : State) (a n : Nat) : Bool := hostLinkUp s && decide (a + n ≤ 0xF0000000000)

/-- Serves a mailbox command: `body` gives the status and the state. DEDUCED, log 46. -/
def mailbox (cmd : Nat) (body : State → Nat × State) (s : State) : Out :=
  .next (if mailboxAt s cmd then endMailbox (body s).1 (body s).2 else s)

/-- `IDCERT` (R415). -/
def execIdcert (s : State) : Out :=
  mailbox 1 (fun s =>
    let n := Config.certificate.length
    if mbArg s 1 < n then (2, setMbArg 0 n s)
    else if !hostBufOk s (mbArg s 0) n then (2, s)
    else (0, setMbArg 0 n (agentWrite (hostPa s (mbArg s 0)) Config.certificate s))) s

/-- A 256-bit value as the 32 bytes of a digest, most significant first. -/
def digestBytes (v : BitVec 256) : List Byte := (bytesOfNat 32 v.toNat).reverse

/-- The value of 32 digest bytes. -/
def digestValue (d : List Byte) : BitVec 256 := BitVec.ofNat 256 (natOfBytes d.reverse)

/-- Bytes 0x000 to 0x12F of a quote (R429). -/
def quoteBody (s : State) (mask : Nat) (nonce : List Byte) : List Byte :=
  bytesOfNat 8 1 ++ bytesOfNat 8 (mask % 256) ++ nonce ++
  (List.range 8).flatMap (fun i =>
    if mask.testBit i then digestBytes ((s.boot.measure[i]?).getD 0) else List.replicate 32 0)

/-- A quote: its body, and r and s of the device identity key over the SM3 of the body (R429). -/
def quoteBytes (s : State) (mask : Nat) (nonce : List Byte) : List Byte :=
  let body := quoteBody s mask nonce
  let sig := Config.sm2Sign (digestValue (sm3 body))
  body ++ (bytesOfNat 64 sig.toNat).reverse

/-- `QUOTE` of the mailbox (R415, R429). -/
def execMailboxQuote (s : State) : Out :=
  mailbox 2 (fun s =>
    if !hostBufOk s (mbArg s 0) 32 || !hostBufOk s (mbArg s 1) 384 then (2, s)
    else (0, agentWrite (hostPa s (mbArg s 1))
      (quoteBytes s (mbArg s 2 % 256) (memReadN s.mem (hostPa s (mbArg s 0)) 32)) s)) s

/-- A management-log record as its 32 bytes (R415). -/
def logBytes (r : LogRec) : List Byte :=
  bytesOfWord 8 r.cycle ++ bytesOfNat 2 r.code ++ bytesOfNat 1 r.die ++ bytesOfNat 1 0 ++ bytesOfNat 2 r.pid ++
  bytesOfNat 2 0 ++ bytesOfNat 8 r.addr ++ bytesOfNat 8 r.count

/-- `LOGREAD` (R415). -/
def execLogread (s : State) : Out :=
  mailbox 3 (fun s =>
    let l := (s.rel.log.drop s.rel.logRead).take (mbArg s 1 / 32)
    let n := 32 * l.length
    if mbArg s 1 % 32 ≠ 0 ∨ ¬ hostBufOk s (mbArg s 0) n then (2, s)
    else (0, setMbArg 0 n (agentWrite (hostPa s (mbArg s 0)) (l.flatMap logBytes)
      { s with rel.logRead := s.rel.logRead + l.length }))) s

/-- `BISTREAD` (R415, R433). -/
def execBistread (s : State) : Out :=
  mailbox 4 (fun s =>
    if !hostBufOk s (mbArg s 0) 2048 then (2, s)
    else (0, agentWrite (hostPa s (mbArg s 0))
      (coreNumbers.flatMap (fun n => bytesOfWord 8 (getCore s n).bistsum)) s)) s

/-- `FORWARDED_MAILBOX_COMMAND`: INT 3 at the core NOTIFY names; BUSY stays set (R415). -/
def execForwardedMailboxCommand (s : State) : Out :=
  .next (if s.host.mbPending && decide (mbCommand s ≥ 0x8000) then
    pendInt s.host.notifyCore 0x0003 0 { s with host.mbPending := false }
  else s)

/-- `UNKNOWN_MAILBOX_COMMAND` (R415). -/
def execUnknownMailboxCommand (s : State) : Out :=
  .next (if s.host.mbPending && decide (mbCommand s = 0 ∨ (4 < mbCommand s ∧ mbCommand s < 0x8000)) then
    endMailbox 0xFFFF s
  else s)

/-- `MBSTAT_WRITE` (R415): a write of the device side. -/
def execMbstatWrite (v : Word) (s : State) : Out := .next (writeMbstat v s)

/-! ## Attestation services -/

/-- Extends a measurement register: M := SM3(M ∥ digest) (R429). -/
def extendMeasure (i : Nat) (digest : List Byte) (s : State) : State :=
  let old := digestBytes ((s.boot.measure[i]?).getD 0)
  { s with boot.measure := s.boot.measure.setIfInBounds i (digestValue (sm3 (old ++ digest))) }

/-- `EXTEND` (R429). -/
def execExtend (s : State) : Out :=
  service 0x68 2 (fun s =>
    if arg s 5 < 4 ∨ 7 < arg s 5 ∨ ¬ bufferOk s (arg s 6) 32 then (2, s)
    else (0, extendMeasure (arg s 5) (memReadN s.mem (arg s 6) 32) s)) s

/-- `QUOTE` (R429). -/
def execQuote (s : State) : Out :=
  service 0x69 2 (fun s =>
    if !bufferOk s (arg s 5) 32 || !bufferOk s (arg s 6) 384 then (2, s)
    else (0, agentWrite (arg s 6) (quoteBytes s (bits (rg s 7) 0 8) (memReadN s.mem (arg s 5) 32)) s)) s

end Sys2Proof.Machine
end

