-- ==== Sys2Proof/Machine/Boot.lean ====
section
/-! DEFINITION. The reset sequence, its training outcomes, and the health monitors (R15, R426 to R435). -/

namespace Sys2Proof.Machine

/-- `BOOTST.STAGE` (R430). -/
def stage (s : State) : Nat := bits s.boot.bootst 0 4

/-- Moves to a stage (R426). -/
def toStage (n : Nat) (s : State) : State := { s with boot.bootst := putBits s.boot.bootst 0 4 n }

/-- A stage fails: the package stays in it (R426). -/
def failStage (s : State) : State := { s with boot.stuck := true }

/-- The package waits to leave a stage. -/
def atStage (s : State) (n : Nat) : Bool := decide (stage s = n) && !s.boot.stuck

/-! ## Reset -/

/-- Repair entries of every engine, as the management interface's repair record keeps them (R432). -/
def repairRecord (s : State) : List (Nat × RepairEntry) :=
  (List.range 128).flatMap (fun n => (engineAt s n).repair.map (fun e => (n, e)))

/-- Package reset (R6, R426). Memory, the management log, the repair record (which the engines' tables hold again from the
end of stage 4), the node's time base and what the host has been sent outlast it. DEDUCED, log 47. -/
def resetPackage (s : State) : State :=
  { State.reset with
    turns := s.turns
    free := s.free
    ns := s.ns
    mem := s.mem
    rel.log := s.rel.log
    rel.logRead := s.rel.logRead
    host.sentMsix := s.host.sentMsix
    boot.boots := s.boot.boots + 1
    boot.record := if stage s < 5 then s.boot.record else repairRecord s }

/-- `PACKAGE_RESET` (R426). -/
def execPackageReset (s : State) : Out := .next (resetPackage s)

/-! ## Stages 0 to 4 -/

/-- `POWER_ON_STABLE` (R426). -/
def execPowerOnStable (s : State) : Out := .next (if atStage s 0 then toStage 1 s else s)

/-- The boot chain is measured into registers 0 to 3 (R429). -/
def measureChain (s : State) : State :=
  (List.range 4).foldl (fun s i => extendMeasure i (digestBytes (Config.imageDigest i)) s) s

/-- `ROOT_CHECK`: the boot chain verifies, or the package stays at stage 1 (R426, R428, R429). From stage 2 on the
package number is valid (R414). DEDUCED, log 48. -/
def execRootCheck (ok : Bool) (s : State) : Out :=
  .next (if !atStage s 1 then s
    else if !ok then failStage s
    else
      let s1 := measureChain s
      toStage 2 { s1 with pkg := Config.packageNumber % 256, fab.present := Config.packagesPresent })

/-- Links of a mask that failed, of four. -/
def failedLinks (ok : Nat) : Nat := ((List.range 4).filter (fun d => !ok.testBit d)).length

/-- Outcomes of the die links: live dies, and dies fenced off from the start (R389, R430). -/
def setDieLinks (ddok ccok : Nat) (s : State) : State :=
  let w := putBits (putBits s.boot.bootst 48 4 ddok) 52 4 ccok
  let s1 := { s with
    boot.bootst := putBits w 4 4 ccok
    rel.live := Vector.ofFn (fun d => ccok.testBit d.val)
    rel.fenced := Vector.ofFn (fun d => !ccok.testBit d.val)
    fab.linksUp := Config.portsUp }
  { s1 with sched.master := lowestLive s1 }

/-- `DIE_LINK_TRAINING`: with two or more compute–compute links failed the package stays at stage 2 (R426, R430). -/
def execDieLinkTraining (ddok ccok : Nat) (s : State) : Out :=
  .next (if !atStage s 2 then s
    else
      let s1 := setDieLinks (ddok % 16) (ccok % 16) s
      if failedLinks (ddok % 16) ≥ 2 then failStage s1 else toStage 3 s1)

/-- `HBM_TRAINING`: every line of a failed stack is poisoned (R426, R430). -/
def execHbmTraining (ok : Nat) (s : State) : Out :=
  .next (if !atStage s 3 then s
    else
      let bad := (List.range 12).filter (fun i => !ok.testBit i)
      toStage 4 { s with
        boot.bootst := putBits s.boot.bootst 36 12 ok
        coh.badStacks := bad.map (fun i => s.pkg * 256 + i)
        coh.healed := [] })

/-- The context a core starts with (R427), under a GTID of its own (log 3). -/
def bootContext (s : State) (n : Nat) : Ctx :=
  let c := Ctx.reset (BitVec.ofNat 64 (s.pkg * 2 ^ 40 + n + 1)) s.boot.fwEntry
  { c with ctl.tctl := c.ctl.tctl ||| 0x8000 }

/-- A core of a live die starts (R427). -/
def releaseCore (s : State) (n : Nat) : State :=
  setActive (setCore s n { getCore s n with released := true, lodge := none }) n (bootContext s n)

/-- The firmware writes the repair record again (R432). -/
def restoreRecord (s : State) : State :=
  s.boot.record.foldl (fun s x =>
    let g := engineAt s x.1
    if g.repair.contains x.2 then s else setEngine x.1 { g with repair := g.repair ++ [x.2] } s) s

/-- `CORE_RELEASE` (R426, R427). -/
def execCoreRelease (s : State) : Out :=
  .next (if !atStage s 4 then s
    else
      let s1 := (coreNumbers.filter (fun n => dieLive s (n / 64))).foldl releaseCore (restoreRecord s)
      toStage 5 { s1 with sched.serial := max s1.sched.serial 256 })

/-- The firmware quarantines the home engine of a core that ends its self-test with FAIL and OVF, before stage 6
(R433). -/
def quarantineFailed (s : State) : State :=
  if stage s ≠ 5 then s
  else (s.cur :: s.others.map (·.1)).foldl (fun s n =>
    if bits (getCore s n).bistsum 0 3 = 7 then quarantine (rawHome n) s else s) s

/-- `BOOTST_WRITE` (R296). Before the firmware writes stage 6 it quarantines engines (R433). -/
def execBootstWrite (v : Word) (s : State) : Out :=
  writeEvent 0x310 v (if bits v 0 4 = 6 ∧ s.pl = 3 ∧ !s.core.halted then quarantineFailed s else s)

/-! ## Health -/

/-- ALARM of a reading: a temperature of 105 °C or more, a voltage as given; a ring has no limit (R435).
DEDUCED, log 49. -/
def alarmOf (kind value : Nat) (given : Bool) : Bool :=
  match kind with
  | 0 => decide (1680 ≤ sext (value % 2 ^ 32) 32)
  | 1 => given
  | _ => false

/-- `HEALTH_MONITOR_REFRESH` (R434, R435). -/
def execHealthMonitorRefresh (die kind idx value : Nat) (alarm : Bool) (s : State) : Out :=
  .next (if die > 3 ∨ kind > 2 ∨ idx ≥ monitorCount kind then s
    else
      let w := BitVec.ofNat 64 (2 ^ 63 + (if alarmOf kind value alarm then 2 ^ 62 else 0) + value % 2 ^ 32)
      { s with boot.health := (die, kind, idx, w) ::
          s.boot.health.filter (fun h => decide (¬ (h.1 = die ∧ h.2.1 = kind ∧ h.2.2.1 = idx))) })

/-- A temperature of a die reads 125 °C or more (R435). -/
def tooHot (s : State) (die : Nat) : Bool :=
  s.boot.health.any (fun h => decide (h.1 = die ∧ h.2.1 = 0 ∧ 2000 ≤ sext (bits h.2.2.2 0 32) 32))

/-- `THERMAL_RESET`: the log, then package reset (R435). -/
def execThermalReset (die : Nat) (s : State) : Out :=
  .next (if tooHot s die then resetPackage (logEvent 7 die 0 0 1 s) else s)

/-- `GOVERNOR_CLOCK_CHANGE`: only elapsed time changes (R15). -/
def execGovernorClockChange (s : State) : Out := .next s

end Sys2Proof.Machine
end

