-- ==== Sys2Proof/Machine/Sync.lean ====
section
/-! DEFINITION. Waiting, yielding, the thread's number and the counts of time (R141, R142, R155, R156). -/

namespace Sys2Proof.Machine

/-- `WAITNE` (R141): every read is made at the home, and the die's copy of the line goes, so that no later read of the
thread finds an older value (R245); while the value equals `g_b` it waits. -/
def execWaitne (fm : Form) (d a b : Nat) (s : State) : Out :=
  runOne (fm.len 9) (fun s => do
    let _ ← need s [.g a, .g b]
    let (s1, ph) ← checkScalar .load .scalar (rg s a) 8 s
    let (s1, v) ← loadPhys true ph 8 (if localMem s1 ph.pa then { s1 with coh := dropCopy s.die (lineOf ph.pa) s1.coh } else s1)
    if loadedU v = rg s b then waitIn (advanceAll s1) else .ok (wg s1 d (loadedU v))) s

/-- The quantum at hand is one of a partition's: it is never lent to another (R338). -/
def quantumOf (s : State) (pid : Nat) : Bool :=
  s.core.quantum.all (fun q =>
    match bits q.2 62 2 with
    | 1 => decide (pidOf s (BitVec.ofNat 64 (bits q.2 0 48)) = some pid)
    | _ => decide (bits q.2 0 12 = pid))

/-- The lodged context takes an offer of the quantum: it is of the active context's partition, the quantum is one of that
partition's, and it is ready, which a free value says (R142, R338). -/
def takesOffer (s : State) : Bool :=
  match s.core.lodge with
  | none => false
  | some c => decide (c.pid = s.pid) && quantumOf s c.pid && Config.freeBool (draw s 3)

/-- The rest of the quantum goes to the lodged context (R142). -/
def lendQuantum (s : State) : State :=
  { s with core.swapping := true, core.lent := s.core.lodge.map (fun c => c.prv.gtid) }

/-- `YIELD` (R142): where the offer is taken, the swap follows its retirement. -/
def execYield (fm : Form) (s : State) : Out :=
  runOne (fm.len 9) (fun s =>
    if takesOffer s then .ok (lendQuantum s) else .ok s) s

/-- `GTIDRD` (R155). -/
def execGtidrd (fm : Form) (d : Nat) (s : State) : Out :=
  runOne (fm.len 9) (fun s => .ok (wg s d (BitVec.ofNat 64 (bits s.ctx.prv.gtid 0 48)))) s

/-- `RDCYC` (R156). -/
def execRdcyc (fm : Form) (d : Nat) (s : State) : Out :=
  runOne (fm.len 9) (fun s => .ok (wg s d (BitVec.ofNat 64 s.cyc))) s

/-- `RDTIME` (R156). -/
def execRdtime (fm : Form) (d : Nat) (s : State) : Out :=
  runOne (fm.len 9) (fun s => .ok (wg s d (BitVec.ofNat 64 s.ns))) s

end Sys2Proof.Machine
end

