-- ==== Sys2Proof/Machine/Dispatch.lean ====
section
/-! DEFINITION. One arm for each constructor of `Instr`. -/

namespace Sys2Proof.Machine

def exec (i : Instr) (s : State) : Host.Outcome State Fault Refusal :=
  match i with
  | .addP0 fm d a b => Sys2Proof.Machine.execAddP0 fm d a b s
  | .subP0 fm d a b => Sys2Proof.Machine.execSubP0 fm d a b s
  | .addiP0 fm d a imm => Sys2Proof.Machine.execAddiP0 fm d a imm s
  | .andiP0 fm d a imm => Sys2Proof.Machine.execAndiP0 fm d a imm s
  | .shliP0 fm d a imm => Sys2Proof.Machine.execShliP0 fm d a imm s
  | .movP0 fm d a => Sys2Proof.Machine.execMovP0 fm d a s
  | .liP0 fm d imm => Sys2Proof.Machine.execLiP0 fm d imm s
  | .ldP0 fm d a imm => Sys2Proof.Machine.execLdP0 fm d a imm s
  | .stP0 fm d a imm => Sys2Proof.Machine.execStP0 fm d a imm s
  | .fldP0 fm d a imm => Sys2Proof.Machine.execFldP0 fm d a imm s
  | .brP0 fm imm => Sys2Proof.Machine.execBrP0 fm imm s
  | .brcP0 fm d imm => Sys2Proof.Machine.execBrcP0 fm d imm s
  | .jalP0 fm d imm => Sys2Proof.Machine.execJalP0 fm d imm s
  | .jalrP0 fm d a imm => Sys2Proof.Machine.execJalrP0 fm d a imm s
  | .add fm w d a b => Sys2Proof.Machine.execAdd fm w d a b s
  | .sub fm w d a b => Sys2Proof.Machine.execSub fm w d a b s
  | .mul fm w d a b => Sys2Proof.Machine.execMul fm w d a b s
  | .mulh fm w d a b => Sys2Proof.Machine.execMulh fm w d a b s
  | .mulhu fm w d a b => Sys2Proof.Machine.execMulhu fm w d a b s
  | .div fm w d a b => Sys2Proof.Machine.execDiv fm w d a b s
  | .divu fm w d a b => Sys2Proof.Machine.execDivu fm w d a b s
  | .rem fm w d a b => Sys2Proof.Machine.execRem fm w d a b s
  | .remu fm w d a b => Sys2Proof.Machine.execRemu fm w d a b s
  | .min fm w d a b => Sys2Proof.Machine.execMin fm w d a b s
  | .max fm w d a b => Sys2Proof.Machine.execMax fm w d a b s
  | .minu fm w d a b => Sys2Proof.Machine.execMinu fm w d a b s
  | .maxu fm w d a b => Sys2Proof.Machine.execMaxu fm w d a b s
  | .addi fm w d a imm => Sys2Proof.Machine.execAddi fm w d a imm s
  | .and fm w d a b => Sys2Proof.Machine.execAnd fm w d a b s
  | .andi fm w d a imm => Sys2Proof.Machine.execAndi fm w d a imm s
  | .andn fm w d a b => Sys2Proof.Machine.execAndn fm w d a b s
  | .or fm w d a b => Sys2Proof.Machine.execOr fm w d a b s
  | .ori fm w d a imm => Sys2Proof.Machine.execOri fm w d a imm s
  | .xor fm w d a b => Sys2Proof.Machine.execXor fm w d a b s
  | .xori fm w d a imm => Sys2Proof.Machine.execXori fm w d a imm s
  | .shl fm w d a b => Sys2Proof.Machine.execShl fm w d a b s
  | .shli fm w d a imm => Sys2Proof.Machine.execShli fm w d a imm s
  | .shr fm w d a b => Sys2Proof.Machine.execShr fm w d a b s
  | .shri fm w d a imm => Sys2Proof.Machine.execShri fm w d a imm s
  | .sra fm w d a b => Sys2Proof.Machine.execSra fm w d a b s
  | .srai fm w d a imm => Sys2Proof.Machine.execSrai fm w d a imm s
  | .rotr fm w d a b => Sys2Proof.Machine.execRotr fm w d a b s
  | .rotri fm w d a imm => Sys2Proof.Machine.execRotri fm w d a imm s
  | .clz fm w d a => Sys2Proof.Machine.execClz fm w d a s
  | .ctz fm w d a => Sys2Proof.Machine.execCtz fm w d a s
  | .popc fm w d a => Sys2Proof.Machine.execPopc fm w d a s
  | .rev8 fm w d a => Sys2Proof.Machine.execRev8 fm w d a s
  | .sext fm x d a => Sys2Proof.Machine.execSext fm x d a s
  | .zext fm x d a => Sys2Proof.Machine.execZext fm x d a s
  | .bfx fm w d a imm => Sys2Proof.Machine.execBfx fm w d a imm s
  | .bfi fm w d a imm => Sys2Proof.Machine.execBfi fm w d a imm s
  | .lea fm d a imm => Sys2Proof.Machine.execLea fm d a imm s
  | .li fm d imm => Sys2Proof.Machine.execLi fm d imm s
  | .mov fm d a => Sys2Proof.Machine.execMov fm d a s
  | .sel fm k d a b => Sys2Proof.Machine.execSel fm k d a b s
  | .cmp fm c d a b => Sys2Proof.Machine.execCmp fm c d a b s
  | .cmpi fm c d a imm => Sys2Proof.Machine.execCmpi fm c d a imm s
  | .pand fm d a b => Sys2Proof.Machine.execPand fm d a b s
  | .por fm d a b => Sys2Proof.Machine.execPor fm d a b s
  | .pxor fm d a b => Sys2Proof.Machine.execPxor fm d a b s
  | .pnot fm d a => Sys2Proof.Machine.execPnot fm d a s
  | .pmov fm d a => Sys2Proof.Machine.execPmov fm d a s
  | .br fm imm => Sys2Proof.Machine.execBr fm imm s
  | .brc fm d imm => Sys2Proof.Machine.execBrc fm d imm s
  | .jal fm d imm => Sys2Proof.Machine.execJal fm d imm s
  | .jalr fm d a imm => Sys2Proof.Machine.execJalr fm d a imm s
  | .ld fm z d a imm => Sys2Proof.Machine.execLd fm z d a imm s
  | .ldz fm z d a imm => Sys2Proof.Machine.execLdz fm z d a imm s
  | .st fm z d a imm => Sys2Proof.Machine.execSt fm z d a imm s
  | .ldx fm z d a b => Sys2Proof.Machine.execLdx fm z d a b s
  | .stx fm z d a b => Sys2Proof.Machine.execStx fm z d a b s
  | .ldp fm z d a imm => Sys2Proof.Machine.execLdp fm z d a imm s
  | .stp fm z d a imm => Sys2Proof.Machine.execStp fm z d a imm s
  | .lda fm sc z d a imm => Sys2Proof.Machine.execLda fm sc z d a imm s
  | .stl fm sc z d a imm => Sys2Proof.Machine.execStl fm sc z d a imm s
  | .fld fm z d a imm => Sys2Proof.Machine.execFld fm z d a imm s
  | .fst fm z d a imm => Sys2Proof.Machine.execFst fm z d a imm s
  | .pref fm lv a imm => Sys2Proof.Machine.execPref fm lv a imm s
  | .sbst fm sb d a imm => Sys2Proof.Machine.execSbst fm sb d a imm s
  | .ldw fm z d a imm => Sys2Proof.Machine.execLdw fm z d a imm s
  | .chkw fm imm => Sys2Proof.Machine.execChkw fm imm s
  | .amoadd fm o z sc d a b => Sys2Proof.Machine.execAmoadd fm o z sc d a b s
  | .amoand fm o z sc d a b => Sys2Proof.Machine.execAmoand fm o z sc d a b s
  | .amoor fm o z sc d a b => Sys2Proof.Machine.execAmoor fm o z sc d a b s
  | .amoxor fm o z sc d a b => Sys2Proof.Machine.execAmoxor fm o z sc d a b s
  | .amomin fm o z sc d a b => Sys2Proof.Machine.execAmomin fm o z sc d a b s
  | .amomax fm o z sc d a b => Sys2Proof.Machine.execAmomax fm o z sc d a b s
  | .amominu fm o z sc d a b => Sys2Proof.Machine.execAmominu fm o z sc d a b s
  | .amomaxu fm o z sc d a b => Sys2Proof.Machine.execAmomaxu fm o z sc d a b s
  | .amoswap fm o z sc d a b => Sys2Proof.Machine.execAmoswap fm o z sc d a b s
  | .amocas fm o z sc d a b => Sys2Proof.Machine.execAmocas fm o z sc d a b s
  | .amofadd fm o z sc d a b => Sys2Proof.Machine.execAmofadd fm o z sc d a b s
  | .fence fm k sc => Sys2Proof.Machine.execFence fm k sc s
  | .waitne fm d a b => Sys2Proof.Machine.execWaitne fm d a b s
  | .yield fm => Sys2Proof.Machine.execYield fm s
  | .tspawn fm d a => Sys2Proof.Machine.execTspawn fm d a s
  | .texit fm => Sys2Proof.Machine.execTexit fm s
  | .tbar fm imm => Sys2Proof.Machine.execTbar fm imm s
  | .tinfo fm d => Sys2Proof.Machine.execTinfo fm d s
  | .gtidrd fm d => Sys2Proof.Machine.execGtidrd fm d s
  | .rdcyc fm d => Sys2Proof.Machine.execRdcyc fm d s
  | .rdtime fm d => Sys2Proof.Machine.execRdtime fm d s
  | .fadd fm f rx d a b => Sys2Proof.Machine.execFadd fm f rx d a b s
  | .fsub fm f rx d a b => Sys2Proof.Machine.execFsub fm f rx d a b s
  | .fmul fm f rx d a b => Sys2Proof.Machine.execFmul fm f rx d a b s
  | .fdiv fm f rx d a b => Sys2Proof.Machine.execFdiv fm f rx d a b s
  | .fsqrt fm f rx d a => Sys2Proof.Machine.execFsqrt fm f rx d a s
  | .fma fm f rx d a b => Sys2Proof.Machine.execFma fm f rx d a b s
  | .fms fm f rx d a b => Sys2Proof.Machine.execFms fm f rx d a b s
  | .fnma fm f rx d a b => Sys2Proof.Machine.execFnma fm f rx d a b s
  | .fmin fm f rx d a b => Sys2Proof.Machine.execFmin fm f rx d a b s
  | .fmax fm f rx d a b => Sys2Proof.Machine.execFmax fm f rx d a b s
  | .fabs fm f rx d a => Sys2Proof.Machine.execFabs fm f rx d a s
  | .fneg fm f rx d a => Sys2Proof.Machine.execFneg fm f rx d a s
  | .fsgnj fm f rx d a b => Sys2Proof.Machine.execFsgnj fm f rx d a b s
  | .fcmp fm c f rx d a b => Sys2Proof.Machine.execFcmp fm c f rx d a b s
  | .fclass fm f rx d a => Sys2Proof.Machine.execFclass fm f rx d a s
  | .fcvt fm df sf rx d a => Sys2Proof.Machine.execFcvt fm df sf rx d a s
  | .fcvti fm iw f rx d a => Sys2Proof.Machine.execFcvti fm iw f rx d a s
  | .icvtf fm iw f rx d a => Sys2Proof.Machine.execIcvtf fm iw f rx d a s
  | .fmvg fm d a => Sys2Proof.Machine.execFmvg fm d a s
  | .gmvf fm d a => Sys2Proof.Machine.execGmvf fm d a s
  | .frcpa fm f rx d a => Sys2Proof.Machine.execFrcpa fm f rx d a s
  | .frsqa fm f rx d a => Sys2Proof.Machine.execFrsqa fm f rx d a s
  | .vwin fm d a => Sys2Proof.Machine.execVwin fm d a s
  | .vadd fm z k d a b => Sys2Proof.Machine.execVadd fm z k d a b s
  | .vsub fm z k d a b => Sys2Proof.Machine.execVsub fm z k d a b s
  | .vmul fm z k d a b => Sys2Proof.Machine.execVmul fm z k d a b s
  | .vfma fm z k d a b => Sys2Proof.Machine.execVfma fm z k d a b s
  | .vfms fm z k d a b => Sys2Proof.Machine.execVfms fm z k d a b s
  | .vmin fm z k d a b => Sys2Proof.Machine.execVmin fm z k d a b s
  | .vmax fm z k d a b => Sys2Proof.Machine.execVmax fm z k d a b s
  | .vabs fm z k d a => Sys2Proof.Machine.execVabs fm z k d a s
  | .vneg fm z k d a => Sys2Proof.Machine.execVneg fm z k d a s
  | .vand fm z k d a b => Sys2Proof.Machine.execVand fm z k d a b s
  | .vor fm z k d a b => Sys2Proof.Machine.execVor fm z k d a b s
  | .vxor fm z k d a b => Sys2Proof.Machine.execVxor fm z k d a b s
  | .vshl fm z k d a b => Sys2Proof.Machine.execVshl fm z k d a b s
  | .vshr fm z k d a b => Sys2Proof.Machine.execVshr fm z k d a b s
  | .vcvt fm hi tg d a b => Sys2Proof.Machine.execVcvt fm hi tg d a b s
  | .vbcast fm z k d a b => Sys2Proof.Machine.execVbcast fm z k d a b s
  | .vbcl fm z k d a b => Sys2Proof.Machine.execVbcl fm z k d a b s
  | .vperm fm z k d a b => Sys2Proof.Machine.execVperm fm z k d a b s
  | .vrot fm z k d a b => Sys2Proof.Machine.execVrot fm z k d a b s
  | .vred fm op d a b => Sys2Proof.Machine.execVred fm op d a b s
  | .vscan fm z op d a b => Sys2Proof.Machine.execVscan fm z op d a b s
  | .vcmp fm u c d a b => Sys2Proof.Machine.execVcmp fm u c d a b s
  | .vmerge fm inv k d a b => Sys2Proof.Machine.execVmerge fm inv k d a b s
  | .vmlog fm op d a b => Sys2Proof.Machine.execVmlog fm op d a b s
  | .vmpopc fm d a => Sys2Proof.Machine.execVmpopc fm d a s
  | .vrcpa fm z k d a => Sys2Proof.Machine.execVrcpa fm z k d a s
  | .vrsqa fm z k d a => Sys2Proof.Machine.execVrsqa fm z k d a s
  | .vexp2a fm z k d a => Sys2Proof.Machine.execVexp2a fm z k d a s
  | .vlog2a fm z k d a => Sys2Proof.Machine.execVlog2a fm z k d a s
  | .vld fm z k d a imm => Sys2Proof.Machine.execVld fm z k d a imm s
  | .vst fm z k d a imm => Sys2Proof.Machine.execVst fm z k d a imm s
  | .vlds fm z k d a b => Sys2Proof.Machine.execVlds fm z k d a b s
  | .vsts fm z k d a b => Sys2Proof.Machine.execVsts fm z k d a b s
  | .vgath fm z k d a b => Sys2Proof.Machine.execVgath fm z k d a b s
  | .vscat fm z k d a b => Sys2Proof.Machine.execVscat fm z k d a b s
  | .vmovg fm z k d a b => Sys2Proof.Machine.execVmovg fm z k d a b s
  | .vmovf fm z k d a b => Sys2Proof.Machine.execVmovf fm z k d a b s
  | .vmov fm z k d a => Sys2Proof.Machine.execVmov fm z k d a s
  | .tmma fm pr wide k fs d a b => Sys2Proof.Machine.execTmma fm pr wide k fs d a b s
  | .tmmaChained fm pr wide k fs d a b => Sys2Proof.Machine.execTmmaChained fm pr wide k fs d a b s
  | .tld fm b0 rows bytes d a b => Sys2Proof.Machine.execTld fm b0 rows bytes d a b s
  | .tlds fm b0 sx rows d a b => Sys2Proof.Machine.execTlds fm b0 sx rows d a b s
  | .tsto fm rows bytes d a b => Sys2Proof.Machine.execTsto fm rows bytes d a b s
  | .tzero fm tgt d => Sys2Proof.Machine.execTzero fm tgt d s
  | .tmov fm mk d a => Sys2Proof.Machine.execTmov fm mk d a s
  | .tgang fm imm => Sys2Proof.Machine.execTgang fm imm s
  | .tdrain fm o free fs d a b => Sys2Proof.Machine.execTdrain fm o free fs d a b s
  | .tdraint fm o o2 free fs ft d a b => Sys2Proof.Machine.execTdraint fm o o2 free fs ft d a b s
  | .tfree fm acc d a => Sys2Proof.Machine.execTfree fm acc d a s
  | .tsync fm => Sys2Proof.Machine.execTsync fm s
  | .tctlSeed fm d => Sys2Proof.Machine.execTctlSeed fm d s
  | .tctlRd fm d => Sys2Proof.Machine.execTctlRd fm d s
  | .tctlClr fm => Sys2Proof.Machine.execTctlClr fm s
  | .tqryRows fm d a => Sys2Proof.Machine.execTqryRows fm d a s
  | .tqryAcc fm d a => Sys2Proof.Machine.execTqryAcc fm d a s
  | .tqryCell fm d a => Sys2Proof.Machine.execTqryCell fm d a s
  | .tqryFree fm d => Sys2Proof.Machine.execTqryFree fm d s
  | .tqryGang fm d => Sys2Proof.Machine.execTqryGang fm d s
  | .tqryCorr fm d => Sys2Proof.Machine.execTqryCorr fm d s
  | .tqryUnck fm d => Sys2Proof.Machine.execTqryUnck fm d s
  | .xcopy fm d a => Sys2Proof.Machine.execXcopy fm d a s
  | .xcopy2 fm d a => Sys2Proof.Machine.execXcopy2 fm d a s
  | .xgath fm d a => Sys2Proof.Machine.execXgath fm d a s
  | .xscat fm d a => Sys2Proof.Machine.execXscat fm d a s
  | .xfill fm d a => Sys2Proof.Machine.execXfill fm d a s
  | .xwarm fm llc d a => Sys2Proof.Machine.execXwarm fm llc d a s
  | .xcollAr fm d a => Sys2Proof.Machine.execXcollAr fm d a s
  | .xcollAg fm d a => Sys2Proof.Machine.execXcollAg fm d a s
  | .xcollRs fm d a => Sys2Proof.Machine.execXcollRs fm d a s
  | .xcollBc fm d a => Sys2Proof.Machine.execXcollBc fm d a s
  | .xdrain fm mc => Sys2Proof.Machine.execXdrain fm mc s
  | .xcancel fm d a => Sys2Proof.Machine.execXcancel fm d a s
  | .svc fm imm => Sys2Proof.Machine.execSvc fm imm s
  | .hvc fm imm => Sys2Proof.Machine.execHvc fm imm s
  | .mvc fm imm => Sys2Proof.Machine.execMvc fm imm s
  | .tret fm => Sys2Proof.Machine.execTret fm s
  | .srd fm d imm => Sys2Proof.Machine.execSrd fm d imm s
  | .swr fm a imm => Sys2Proof.Machine.execSwr fm a imm s
  | .sset fm d a imm => Sys2Proof.Machine.execSset fm d a imm s
  | .sclr fm d a imm => Sys2Proof.Machine.execSclr fm d a imm s
  | .tlbinv fm a b => Sys2Proof.Machine.execTlbinv fm a b s
  | .tlbsync fm => Sys2Proof.Machine.execTlbsync fm s
  | .cflush fm a imm => Sys2Proof.Machine.execCflush fm a imm s
  | .cinv fm a imm => Sys2Proof.Machine.execCinv fm a imm s
  | .cwb fm a imm => Sys2Proof.Machine.execCwb fm a imm s
  | .wfi fm => Sys2Proof.Machine.execWfi fm s
  | .halt fm => Sys2Proof.Machine.execHalt fm s
  | .ctxsw fm => Sys2Proof.Machine.execCtxsw fm s
  | .ctxld fm d a => Sys2Proof.Machine.execCtxld fm d a s
  | .ctxsp fm d a => Sys2Proof.Machine.execCtxsp fm d a s
  | .wpins fm a b => Sys2Proof.Machine.execWpins fm a b s
  | .wpclr fm => Sys2Proof.Machine.execWpclr fm s
  | .bkpt fm imm => Sys2Proof.Machine.execBkpt fm imm s
  | .dump fm d a b => Sys2Proof.Machine.execDump fm d a b s
  | .pgmig fm d a b => Sys2Proof.Machine.execPgmig fm d a b s
  | .pgcmp fm d a => Sys2Proof.Machine.execPgcmp fm d a s
  | .instructionFetchFault ff => Sys2Proof.Machine.execInstructionFetchFault ff s
  | .contextSwap core => Sys2Proof.Machine.execContextSwap core s
  | .ipiMessage core pid => Sys2Proof.Machine.execIpiMessage core pid s
  | .rootCheck ok => Sys2Proof.Machine.execRootCheck ok s
  | .dieLinkTraining ddok ccok => Sys2Proof.Machine.execDieLinkTraining ddok ccok s
  | .hbmTraining ok => Sys2Proof.Machine.execHbmTraining ok s
  | .copyCommandStart id => Sys2Proof.Machine.execCopyCommandStart id s
  | .copyCommandEnd id => Sys2Proof.Machine.execCopyCommandEnd id s
  | .hostMemoryAccess rq => Sys2Proof.Machine.execHostMemoryAccess rq s
  | .hostRegisterAccess wr off n v => Sys2Proof.Machine.execHostRegisterAccess wr off n v s
  | .fillRequest die line => Sys2Proof.Machine.execFillRequest die line s
  | .fillReply die line => Sys2Proof.Machine.execFillReply die line s
  | .writeThrough die line => Sys2Proof.Machine.execWriteThrough die line s
  | .writeThroughAck die line => Sys2Proof.Machine.execWriteThroughAck die line s
  | .fabricMessage src dst seq => Sys2Proof.Machine.execFabricMessage src dst seq s
  | .fabricAck src dst seq => Sys2Proof.Machine.execFabricAck src dst seq s
  | .quantumBoundary core => Sys2Proof.Machine.execQuantumBoundary core s
  | .storeBufferDrain core => Sys2Proof.Machine.execStoreBufferDrain core s
  | .eccError site => Sys2Proof.Machine.execEccError site s
  | .generationSweepEnd die => Sys2Proof.Machine.execGenerationSweepEnd die s
  | .cellarStallResume => Sys2Proof.Machine.execCellarStallResume s
  | .cellarStallTimeout => Sys2Proof.Machine.execCellarStallTimeout s
  | .tmmaComplete => Sys2Proof.Machine.execTmmaComplete s
  | .auditReplay rec eng => Sys2Proof.Machine.execAuditReplay rec eng s
  | .auditTieBreak rec eng => Sys2Proof.Machine.execAuditTieBreak rec eng s
  | .auditTimeout rec => Sys2Proof.Machine.execAuditTimeout rec s
  | .gangGrant => Sys2Proof.Machine.execGangGrant s
  | .persistentRequest core line => Sys2Proof.Machine.execPersistentRequest core line s
  | .confirmationRequest gtid line => Sys2Proof.Machine.execConfirmationRequest gtid line s
  | .waysideAnswer gtid line => Sys2Proof.Machine.execWaysideAnswer gtid line s
  | .waysideTimeout gtid line => Sys2Proof.Machine.execWaysideTimeout gtid line s
  | .retentionExit die slice => Sys2Proof.Machine.execRetentionExit die slice s
  | .remotePackageRequest pkg rq => Sys2Proof.Machine.execRemotePackageRequest pkg rq s
  | .handOver frame pkg => Sys2Proof.Machine.execHandOver frame pkg s
  | .pageWalk va acc => Sys2Proof.Machine.execPageWalk va acc s
  | .notPresentExpiry va => Sys2Proof.Machine.execNotPresentExpiry va s
  | .pageExpansion va => Sys2Proof.Machine.execPageExpansion va s
  | .frameTranslation frame => Sys2Proof.Machine.execFrameTranslation frame s
  | .isolationWindow core => Sys2Proof.Machine.execIsolationWindow core s
  | .backgroundSpill core => Sys2Proof.Machine.execBackgroundSpill core s
  | .lodgedTileEviction core => Sys2Proof.Machine.execLodgedTileEviction core s
  | .tileNameReload => Sys2Proof.Machine.execTileNameReload s
  | .interruptEntry => Sys2Proof.Machine.execInterruptEntry s
  | .asyncCauseDelivery => Sys2Proof.Machine.execAsyncCauseDelivery s
  | .ipiWrite v => Sys2Proof.Machine.execIpiWrite v s
  | .hostirqWrite v => Sys2Proof.Machine.execHostirqWrite v s
  | .xstateWrite v => Sys2Proof.Machine.execXstateWrite v s
  | .celshrWrite v => Sys2Proof.Machine.execCelshrWrite v s
  | .rprselWrite v => Sys2Proof.Machine.execRprselWrite v s
  | .rpraddWrite v => Sys2Proof.Machine.execRpraddWrite v s
  | .bootstWrite v => Sys2Proof.Machine.execBootstWrite v s
  | .systemRegisterWrite n v => Sys2Proof.Machine.execSystemRegisterWrite n v s
  | .spawnRequest => Sys2Proof.Machine.execSpawnRequest s
  | .acceptanceRecorded => Sys2Proof.Machine.execAcceptanceRecorded s
  | .chunkRequest => Sys2Proof.Machine.execChunkRequest s
  | .groupAdmission pid => Sys2Proof.Machine.execGroupAdmission pid s
  | .runQueueRestore core => Sys2Proof.Machine.execRunQueueRestore core s
  | .restoreComplete core => Sys2Proof.Machine.execRestoreComplete core s
  | .teamCompletion team => Sys2Proof.Machine.execTeamCompletion team s
  | .threadKill gtid contained => Sys2Proof.Machine.execThreadKill gtid contained s
  | .masterElection => Sys2Proof.Machine.execMasterElection s
  | .dieFence die => Sys2Proof.Machine.execDieFence die s
  | .agentDeclaredDead ag => Sys2Proof.Machine.execAgentDeclaredDead ag s
  | .staleMessage ag line inc => Sys2Proof.Machine.execStaleMessage ag line inc s
  | .fabricResend src dst seq => Sys2Proof.Machine.execFabricResend src dst seq s
  | .linkDown port => Sys2Proof.Machine.execLinkDown port s
  | .routeRepair => Sys2Proof.Machine.execRouteRepair s
  | .collectiveStart grp cid => Sys2Proof.Machine.execCollectiveStart grp cid s
  | .collectiveAbort grp cid => Sys2Proof.Machine.execCollectiveAbort grp cid s
  | .rollCall => Sys2Proof.Machine.execRollCall s
  | .rollcallPeriodChange => Sys2Proof.Machine.execRollcallPeriodChange s
  | .packageReset => Sys2Proof.Machine.execPackageReset s
  | .powerOnStable => Sys2Proof.Machine.execPowerOnStable s
  | .coreRelease => Sys2Proof.Machine.execCoreRelease s
  | .healthMonitorRefresh die kind idx value alarm => Sys2Proof.Machine.execHealthMonitorRefresh die kind idx value alarm s
  | .thermalReset die => Sys2Proof.Machine.execThermalReset die s
  | .governorClockChange => Sys2Proof.Machine.execGovernorClockChange s
  | .hostLinkTraining cxl rate width => Sys2Proof.Machine.execHostLinkTraining cxl rate width s
  | .doorbellWrite vf off n v => Sys2Proof.Machine.execDoorbellWrite vf off n v s
  | .doorbellRead vf off n => Sys2Proof.Machine.execDoorbellRead vf off n s
  | .mbdoor => Sys2Proof.Machine.execMbdoor s
  | .idcert => Sys2Proof.Machine.execIdcert s
  | .mailboxQuote => Sys2Proof.Machine.execMailboxQuote s
  | .logread => Sys2Proof.Machine.execLogread s
  | .bistread => Sys2Proof.Machine.execBistread s
  | .forwardedMailboxCommand => Sys2Proof.Machine.execForwardedMailboxCommand s
  | .unknownMailboxCommand => Sys2Proof.Machine.execUnknownMailboxCommand s
  | .mbstatWrite v => Sys2Proof.Machine.execMbstatWrite v s
  | .rdcsize => Sys2Proof.Machine.execRdcsize s
  | .pool => Sys2Proof.Machine.execPool s
  | .zone => Sys2Proof.Machine.execZone s
  | .propose => Sys2Proof.Machine.execPropose s
  | .expand => Sys2Proof.Machine.execExpand s
  | .runq => Sys2Proof.Machine.execRunq s
  | .sapool => Sys2Proof.Machine.execSapool s
  | .elect => Sys2Proof.Machine.execElect s
  | .auditcfg => Sys2Proof.Machine.execAuditcfg s
  | .auditlog => Sys2Proof.Machine.execAuditlog s
  | .auditrun => Sys2Proof.Machine.execAuditrun s
  | .auditrule => Sys2Proof.Machine.execAuditrule s
  | .quarantine => Sys2Proof.Machine.execQuarantine s
  | .dbgstop => Sys2Proof.Machine.execDbgstop s
  | .rollcall => Sys2Proof.Machine.execRollcall s
  | .groupbind => Sys2Proof.Machine.execGroupbind s
  | .routeset => Sys2Proof.Machine.execRouteset s
  | .notify => Sys2Proof.Machine.execNotify s
  | .hostvf => Sys2Proof.Machine.execHostvf s
  | .hostwin => Sys2Proof.Machine.execHostwin s
  | .extend => Sys2Proof.Machine.execExtend s
  | .quote => Sys2Proof.Machine.execQuote s
  | .illegalInstruction => Sys2Proof.Machine.execIllegalInstruction s
  | .atomicAtHome die line => Sys2Proof.Machine.execAtomicAtHome die line s
  | .tlbRemovalComplete => Sys2Proof.Machine.execTlbRemovalComplete s
  | .retentionEntry die slice => Sys2Proof.Machine.execRetentionEntry die slice s
  | .hostLinkFailure => Sys2Proof.Machine.execHostLinkFailure s
  | .managementRestart core => Sys2Proof.Machine.execManagementRestart core s

end Sys2Proof.Machine
end

