-- ==== Sys2Proof/Machine/Place.lean ====
section
/-! DEFINITION. Placing an instruction where the next step fetches (log 8): what a loader, the boot stages and
the operating system would have set up for the program counter's page. -/

namespace Sys2Proof.Machine

/-- Physical address the page of the program counter is placed at. -/
def placeBase (s : State) : Nat := s.pc.toNat / 2 ^ 21 * 2 ^ 21 % 2 ^ 30

/-- A leaf that maps a 2 MiB page for fetches, loads and stores of levels above user, in native form. -/
def placeLeaf (s : State) : Word :=
  BitVec.ofNat 64 (2 ^ 63 + placeBase s + (if s.pl = 0 then 0x20 else 0) + 0xDF)

/-- The core has been released and issues, and nothing else is due first. -/
def readyCore (s : State) : State :=
  { s with
    turns := [.run s.cur]
    core.released := true
    core.halted := false
    core.act := true
    core.swapping := false
    core.preempt := none
    core.quantum := none
    core.ints := []
    core.messages := []
    core.notPresent := []
    core.window := false
    rel.held := s.rel.held.filter (fun h => decide (h.1 ≠ s.ctx.prv.gtid))
    boot.fwHandler := if firmwareCalled s then none else s.boot.fwHandler
    dbg.rollK := 0
    dbg.rollNext := none
    ctx.prv.pending := 0
    ctx.aux.sent := .nothing
    ctx.aux.repLeft := 0
    boot.bootst := if bits s.boot.bootst 0 4 < 4 then putBits s.boot.bootst 0 4 6 else s.boot.bootst }

/-- The words of a row of the opcode table, and zeros after them, at the program counter. -/
def placeWord (s : State) (nbits w : Nat) : State :=
  let s1 := readyCore s
  { s1 with
    core.tlb := ⟨s.pid, bits s.ctx.prv.ptbase 52 12, 1, false, s.pc.toNat / 2 ^ 21 * 2 ^ 21, placeLeaf s, 0⟩ ::
      s.core.tlb
    mem := memWriteN s.mem (placeBase s + s.pc.toNat % 2 ^ 21) ((tableWords nbits w).flatMap hwordBytes) }

end Sys2Proof.Machine
end

