-- ==== Sys2Proof/Machine/Turn.lean ====
section
/-! DEFINITION. Whose turn it is, and what takes place in a step. -/

namespace Sys2Proof.Machine

/-- Instructions that a core does not start at the end of a quantum whose successor goes to another partition
(R339). -/
def heldByWindow : Instr → Bool
  | .tmma _ _ _ _ _ _ _ _ => true
  | .tmmaChained _ _ _ _ _ _ _ _ => true
  | .tinfo _ _ => true
  | .pgmig _ _ _ _ => true
  | .ctxld _ _ _ => true
  | .ctxsp _ _ _ => true
  | _ => false

/-- An instruction is not started in the isolation window where R339 holds it back. -/
def embargo (s : State) : Choice → Choice
  | .exec i s1 => if s.core.window && heldByWindow i then .idle (progress s) else .exec i s1
  | .idle s1 => .idle s1

/-- A core that does not run lets its stores drain; with none left, it has no access for which a persistent request
could wait (R240, R302). -/
def restTurn (s : State) : State :=
  progress (if s.core.sb = [] then { s with coh := dropRequest s.cur s.coh } else s)

/-- What the current core does next: asynchronous causes, interrupts, a firmware service, or its next
instruction (R329, R330). A core that issues nothing lets pending work go on. DESIGN CHOICE, log 6. -/
def coreTurn (s : State) : Choice :=
  if !coreRuns s then .idle (restTurn s)
  else if s.core.act && mustComplete s && !crossing s then fetchDecode s
  else if s.core.swapping then .exec (.contextSwap s.cur) s
  else if !(mayIssue s || preemptReady s) then .idle (progress s)
  else if mchkPending s || auditPending s then .exec .asyncCauseDelivery s
  else if (preemptReady s || (mayIssue s && intReady s)) && atWfi s then fetchDecode s
  else if preemptReady s then .exec .interruptEntry s
  else if !mayIssue s then .idle (progress s)
  else if intReady s then .exec .interruptEntry s
  else if firmwareCalled s then
    (match serviceInstr (bits s.ctx.prv.mon.cause 16 16) with
     | some i => .exec i s
     | none => .idle (finishService 2 s))
  else embargo s (fetchDecode s)

/-- The boot stage's own event (R426): outcomes of stages 1 to 3 come from free values unless a turn gives
them. DESIGN CHOICE, log 8. -/
def bootTurn (s : State) : Option Instr :=
  if s.boot.stuck then none
  else
    match stage s with
    | 0 => some .powerOnStable
    | 1 => some (.rootCheck (Config.freeBool (draw s 0)))
    | 2 => some (.dieLinkTraining (Config.freeNat (draw s 0) % 16) (Config.freeNat (draw s 1) % 16))
    | 3 => some (.hbmTraining (Config.freeNat (draw s 0) % 4096))
    | 4 => some .coreRelease
    | _ => none

/-- Time passes and the next free value is due (R3, R156). DESIGN CHOICE, log 7. -/
def tick (s : State) : State :=
  { s with
    cyc := s.cyc + 1 + Config.elapsedCycles s.free
    ns := s.ns + Config.elapsedNs s.free
    free := s.free + 1 }

/-- The current core's turn: causes held for its context reach it first (R332), and the firmware has done what R433
asks of it. -/
def ownTurn (s : State) : Choice := coreTurn (absorbHeld (quarantineFailed s))

/-- What goes on by itself: a boot stage's event, a message between cores, the distributors' work, or else the current
core. -/
def untold (s : State) : Choice :=
  match bootTurn s with
  | some i => .exec i s
  | none =>
    match s.sched.ipis with
    | m :: _ => .exec (.ipiMessage m.1 m.2) s
    | [] =>
      match distStep s with
      | some s1 => .idle s1
      | none => ownTurn s

/-- A roll call or a change of its period whose cycle has come takes place before anything else, and takes no time
(R403, R408). -/
def traceDue (s : State) : Option Instr :=
  if (rollDue s).isSome then some .rollCall
  else if (periodDue s).isSome then some .rollcallPeriodChange else none

/-- Whose turn it is and what takes place. DESIGN CHOICE, log 10. -/
def choose (s : State) : Choice :=
  match s.turns with
  | .event i :: r => .exec i { s with turns := r }
  | .run c :: r => ownTurn (switchTo { s with turns := r } c)
  | [] => untold s

end Sys2Proof.Machine
end

