-- ==== Sys2Proof/Machine/Step.lean ====
section
/-! DEFINITION. One step of the machine. -/

namespace Sys2Proof.Machine

/-- One step: what the trace units owe takes place, or time passes, and what is chosen takes place. -/
def step (s : State) : Host.Outcome State Fault Refusal :=
  match traceDue s with
  | some i => exec i s
  | none =>
    match choose (tick s) with
    | .exec i s' => exec i s'
    | .idle s' => .next s'

/-- The state with an instruction of the opcode table's numbering placed where the next step fetches. -/
def State.withFetchWord (s : State) (nbits w : Nat) : State := placeWord s nbits w

end Sys2Proof.Machine
end

