-- ==== Sys2Proof/Safety.lean ====
section
/-! DEFINITION. What a state that a run can reach satisfies, and the terms that statements about the machine are made
in. -/

namespace Sys2Proof.Machine

/-! ## Reachable states -/

/-- Memory is in its canonical form. -/
def State.memOk (s : State) : Prop := Memory.wf s.mem = true

/-! ## Instructions that complete -/

/-- None of the registers an instruction reads is poisoned (R370). -/
def clean (s : State) (l : List Src) : Bool := !l.any (poisonedSrc s)

/-- Repeat `j` of an instruction has completed: the next one follows, or the instruction retires (R87). -/
def completes (fm : Form) (len j : Nat) (s : State) : State :=
  if j + 1 < fm.count then { s with ctx.aux.repLeft := fm.count - j - 1, ctx.aux.sent := .nothing }
  else retire len s

/-- A result of an operand width as it is written: 32 bits are sign-extended (R99). -/
def narrow (w : Width) (x : Word) : Word :=
  match w with
  | .w64 => x
  | .w32 => (x.setWidth 32).signExtend 64

/-- An operation on words of the operand width, its result sign-extended (R99). -/
def atWidth (w : Width) (f : (n : Nat) → BitVec n → BitVec n → BitVec n) (x y : Word) : Word :=
  match w with
  | .w64 => f 64 x y
  | .w32 => (f 32 (x.setWidth 32) (y.setWidth 32)).signExtend 64

/-- An operation on one word of the operand width. -/
def atWidth1 (w : Width) (f : (n : Nat) → BitVec n → BitVec n) (x : Word) : Word :=
  match w with
  | .w64 => f 64 x
  | .w32 => (f 32 (x.setWidth 32)).signExtend 64

/-- The result of an instruction that is not repeatable. -/
def retires (len : Nat) (s : State) : Out := .next (retire len s)

/-! ## Accesses that pass their checks -/

/-- The `n` bytes at `va` pass the checks of R111 for an access and lie at `pa` within one line of HBM. `s1` is the
state the translation leaves. -/
def reaches (k : AccKind) (va : Word) (n : Nat) (s s1 : State) (pa : Nat) : Prop :=
  va.toNat % n = 0 ∧ translate k va n s = .ok (s1, ⟨pa, false⟩) ∧ offsetOf pa < hbmEnd ∧ pa % 128 + n ≤ 128 ∧
  locked s1 k va.toNat n = false ∧ watched s1 va.toNat n = false

/-- A load of `n` bytes at `va` passes its checks and reads the bytes `v`, none of them poisoned; bytes that race with
the context's own gather or scatter are free (R224). -/
def readable (va : Word) (n : Nat) (s s1 : State) (v : List Byte) : Prop :=
  v.length = n ∧ ∃ s0 pa d, reaches .load va n s s0 pa ∧ loadLine false pa n s0 = .ok (s1, d, false) ∧
    v = raceBytes s1 pa d

/-- As `readable`, for a load that reads at the home. -/
def readableAtHome (va : Word) (n : Nat) (s s1 : State) (v : List Byte) : Prop :=
  v.length = n ∧ ∃ s0 pa d, reaches .load va n s s0 pa ∧ loadLine true pa n s0 = .ok (s1, d, false) ∧
    v = raceBytes s1 pa d

/-- A little-endian value of `n` bytes, sign-extended. -/
def signedValue (n : Nat) (v : List Byte) : Word := (BitVec.ofNat (8 * n) (natOfBytes v)).signExtend 64

/-- A little-endian value of `n` bytes, zero-extended. -/
def unsignedValue (n : Nat) (v : List Byte) : Word := (BitVec.ofNat (8 * n) (natOfBytes v)).setWidth 64

/-- A store of bytes at a physical address, the newest in the store buffer. -/
def buffered (pa : Nat) (data : List Byte) (mask : Byte) (s : State) : State :=
  { s with core.sb := s.core.sb ++ [⟨s.ctx.prv.gtid, s.pid, pa, data, mask, false⟩] }

/-- A store of the context's bytes enters the store buffer; bytes that race with its own gather or scatter are free
(R224). -/
def stored (pa : Nat) (data : List Byte) (mask : Byte) (s : State) : State :=
  noteRaces pa data.length (buffered pa (raceBytes s pa data) mask s)

/-! ## Ordering -/

/-- No wayside entry holds back an ordering instruction of this scope (R147). -/
def waysideClear (scope : Nat) (s : State) : Prop :=
  scope < 2 ∨ (waysidePending s.ctx = false ∧ waysideStruck s.ctx = [])

/-- A release at this scope has nothing to wait for (R114, R147). -/
def releasable (scope : Nat) (s : State) : Prop :=
  scope < 2 ∨ (waysideClear scope s ∧ storesPerformed scope s = true)

/-- What the acquire side of an ordering instruction leaves: from pkg scope on its die has one clearing more (R244),
which no sweep holds (R246); at every scope what other threads have stored before counts as read (R257). -/
def acquired (scope : Nat) (s t : State) : Prop :=
  (scope < 2 ∧ t = heardAll s) ∨
  (2 ≤ scope ∧ clearingHeld s.coh s.die = false ∧
    t = { heardAll s with coh := bumpGeneration s.die (heardAll s).coh })

/-! ## Tile and vector work -/

/-- The context's engines are in service, no tile state is left unread in its save area, a restored context has its gang
again, and each engine has a cycle for the core (R175, R341, R343, R351, R384). -/
def tileReady (s : State) : Prop :=
  inService s = .ok () ∧ s.ctx.aux.evicted = [] ∧ s.ctx.aux.extPending = none ∧ s.ctx.aux.regang = none ∧
  (myEngines s).all (fun n => hasSlot s n s.cur (decide (s.ctx.aux.gang > 1))) = true

/-- A vector instruction on lanes of type `t` may run: `typed` and `wide` are its operands in their order, `dest` its
destination, `rows` the rows it reads and `src` its scalar and mask registers (R197, R202). -/
def vecRuns (s : State) (t : Tag) (typed wide : List Nat) (loose : Bool) (dest : Option Nat) (rows : List Nat)
    (src : List Src) : Prop :=
  tileReady s ∧ laneType s typed wide loose = some t ∧
  (∀ d, dest = some d → (s.ctx.acc (windowAcc s d)).tag ≠ .int) ∧
  clean s (src ++ [.ctl 0x002, .ctl 0x001]) = true ∧
  ∀ e, e < s.ctx.aux.gang → ∀ f ∈ rows, rowBad s f e = false

/-- Flags that the lanes of every band raise, of lanes that the mask makes active (R201). -/
def rowFlags (act : List Bool) (rs : List (List Lane)) : Nat := rs.foldl (fun f r => f ||| laneFlags act r) 0

/-! ## Rounding, in terms of exact numbers -/

/-- A finite value as a rational number. -/
def FVal.rat : FVal → ℚ
  | .fin n m e => (if n then -(m : ℚ) else m) * 2 ^ e
  | _ => 0

/-- The number that magnitude bits stand for in a format. -/
def EFmt.magRat (f : EFmt) (mg : Nat) : ℚ := (f.value mg).rat

/-- The next number above that of magnitude bits, for the largest finite one as if the format had a wider range. -/
def EFmt.above (f : EFmt) (mg : Nat) : ℚ :=
  if mg < f.maxFinite then f.magRat (mg + 1) else 2 * f.magRat mg - f.magRat (mg - 1)

/-- A mode rounds magnitudes of a sign toward zero (R46). -/
def towardZero (rm : Rm) (neg : Bool) : Bool :=
  match rm with
  | .rtz => true
  | .rdn => !neg
  | .rup => neg
  | _ => false

/-- A mode rounds magnitudes of a sign away from zero (R46). -/
def awayFromZero (rm : Rm) (neg : Bool) : Bool :=
  match rm with
  | .rdn => neg
  | .rup => !neg
  | _ => false

/-- A magnitude goes at least to `hi`, the neighbour of `lo` above it, when a mode rounds it (R46). `cmp` compares a
number with the magnitude; `odd` says that the last bit of `lo` is 1. -/
def roundsUp (rm : Rm) (neg odd : Bool) (cmp : ℚ → Ordering) (lo hi : ℚ) : Prop :=
  if towardZero rm neg then cmp hi ≠ .gt
  else if awayFromZero rm neg then cmp lo = .lt
  else cmp ((lo + hi) / 2) = .lt ∨ (cmp ((lo + hi) / 2) = .eq ∧ (rm = .rmm ∨ odd = true))

/-- `r` is the correct rounding into a format of the nonzero number of sign `neg` whose magnitude `cmp` compares numbers
with, and has its flags (R46, R47, R48, R51): an overflow, where the magnitude rounds beyond the largest finite one; a
zero, where it is tiny and FTZ is on; and else the encoding that it rounds to. -/
def EFmt.rounds (f : EFmt) (c : FpCtl) (neg : Bool) (cmp : ℚ → Ordering) (r : FRes) : Prop :=
  let up (mg : Nat) : Prop := roundsUp c.rm neg (decide (mg % 2 = 1)) cmp (f.magRat mg) (f.above mg)
  let tiny : Prop := ¬ roundsUp c.rm neg true cmp (2 ^ f.emin - 2 ^ (f.emin - 1 - f.fbits)) (2 ^ f.emin)
  (up f.maxFinite → r.flags = 5 ∧ r.bits =
    if towardZero c.rm neg then f.signBit neg + f.maxFinite
    else if f.ieee then f.signBit neg + f.infBits
    else if c.e4nan then f.nanBits else f.signBit neg + f.maxFinite) ∧
  (¬ up f.maxFinite → tiny → c.ftz = true → f ≠ .fp64 → r = ⟨f.signBit neg, 3⟩) ∧
  (¬ up f.maxFinite → ¬ (tiny ∧ c.ftz = true ∧ f ≠ .fp64) →
    ∃ mg, mg ≤ f.maxFinite ∧ r.bits = f.signBit neg + mg ∧ (mg = 0 ∨ up (mg - 1)) ∧ ¬ up mg ∧
      (cmp (f.magRat mg) = .eq → r.flags = 0) ∧
      (cmp (f.magRat mg) ≠ .eq → (tiny → r.flags = 3) ∧ (¬ tiny → r.flags = 1)))

/-- As `EFmt.rounds`, of a rational number that is not zero. -/
def EFmt.roundsRat (f : EFmt) (c : FpCtl) (x : ℚ) (r : FRes) : Prop :=
  x ≠ 0 → f.rounds c (decide (x < 0)) (fun q => compare q |x|) r

/-- A mode rounds a number to an integer (R46, R53). -/
def roundsInt (rm : Rm) (x : ℚ) (i : Int) : Prop :=
  match rm with
  | .rtz => i = if x < 0 then ⌈x⌉ else ⌊x⌋
  | .rdn => i = ⌊x⌋
  | .rup => i = ⌈x⌉
  | .rne => |x - i| ≤ 1 / 2 ∧ (|x - i| = 1 / 2 → i % 2 = 0)
  | .rmm => |x - i| ≤ 1 / 2 ∧ (|x - i| = 1 / 2 → |x| ≤ |(i : ℚ)|)

/-! ## Traps -/

/-- `t` is `s` after entry to level 1, 2 or 3 with a cause, its DETAIL and TVAL (R284): the level's trap registers hold
what they save, its IE is clear, the level is the new one, the pc is at its handler; every other trap register, IE bit,
general register, mask, tile, accumulator and control register, and memory, are as they were. -/
def entered (lvl code detail : Nat) (tval : Word) (s t : State) : Prop :=
  t.pc = vecAddr (s.trapSet lvl).tvec ∧ t.pl = lvl ∧ t.ie lvl = false ∧
  t.trapSet lvl = { s.trapSet lvl with
    cause := BitVec.ofNat 64 (s.pl * 2 ^ 62 + (if s.ie lvl then 2 ^ 61 else 0) + detail % 65536 * 65536 + code)
    epc := vecAddr s.pc, tval := tval } ∧
  (∀ l, 1 ≤ l → l ≤ 3 → l ≠ lvl → t.trapSet l = s.trapSet l ∧ t.ie l = s.ie l) ∧
  { t.ctx.regs with pc := s.pc } = s.ctx.regs ∧ t.ctx.ctl = s.ctx.ctl ∧ t.ctx.t = s.ctx.t ∧ t.ctx.c = s.ctx.c ∧
  t.core = s.core ∧ t.mem = s.mem

/-- Level 1, 2 or 3 has a handler (R282). -/
def hasHandler (lvl : Nat) (s : State) : Prop := vecBase (s.trapSet lvl).tvec ≠ 0

/-- A write to a register leaves the bits of a mask of the value written, and reads back so. -/
def maskOf (fields : List (Nat × Nat)) : Word :=
  fields.foldl (fun m f => m ||| (BitVec.ofNat 64 (2 ^ f.2 - 1) <<< f.1)) 0

/-! ## Frames -/

/-- What `s` and `t` have in common when nothing but the general registers `gs`, the float registers `fs`, the
predicates `ps`, the masks `ms`, the accumulators `cs` and the `FCSR` bits of a mask has been written, apart from the
program counter, the progress fields of R71, and what taking a trap writes: `STATUS`, and cause, saved program counter
and value of each level. -/
def keeps (gs fs ps ms cs : List Nat) (flags : Word) (s t : State) : Prop :=
  (∀ n, n ∉ gs → rg t n = rg s n) ∧ (∀ n, n ∉ fs → rf t n = rf s n) ∧ (∀ n, n ∉ ps → rp t n = rp s n) ∧
  (∀ n, n ∉ ms → rm t n = rm s n) ∧ (∀ n, n ∉ cs → t.ctx.acc n = s.ctx.acc n) ∧ t.ctx.t = s.ctx.t ∧
  t.ctx.ctl.fcsr &&& ~~~flags = s.ctx.ctl.fcsr &&& ~~~flags ∧
  t.ctx.ctl.tctl = s.ctx.ctl.tctl ∧ t.ctx.ctl.utvec = s.ctx.ctl.utvec ∧ t.ctx.ctl.hbase = s.ctx.ctl.hbase ∧
  t.ctx.ctl.hlimit = s.ctx.ctl.hlimit ∧ t.ctx.ctl.hoffs = s.ctx.ctl.hoffs ∧ t.ctx.ctl.lfsr = s.ctx.ctl.lfsr ∧
  (∀ l, (t.trapSet l).deleg = (s.trapSet l).deleg ∧ (t.trapSet l).tvec = (s.trapSet l).tvec ∧
    (t.trapSet l).scr = (s.trapSet l).scr) ∧
  { t.ctx.prv with status := 0, sup := .reset, hyp := .reset, mon := .reset } =
    { s.ctx.prv with status := 0, sup := .reset, hyp := .reset, mon := .reset } ∧
  ∀ a, memRead t.mem a = memRead s.mem a

/-- No trap has been taken: `STATUS` and every saved cause, program counter and value are as they were. -/
def stays (s t : State) : Prop :=
  t.ctx.prv = s.ctx.prv ∧ t.ctx.ctl.ucause = s.ctx.ctl.ucause ∧ t.ctx.ctl.uepc = s.ctx.ctl.uepc ∧
  t.ctx.ctl.utval = s.ctx.ctl.utval ∧ t.core.halted = s.core.halted

/-- `t` follows a trap that the instruction at the program counter raised, its context and core as they were. -/
def trapsFrom (s t : State) : Prop :=
  ∃ rep x s1, s1.ctx = s.ctx ∧ s1.core = s.core ∧ t = takeTrap rep x s1

/-- A STEP follows an instruction that retires (R285). -/
def singleSteps (s : State) : Prop := s.ctx.prv.status.getLsbD 7 = true ∧ s.pl = 0

/-- The destination of the repeat at hand; none where the instruction does not start (R87, R336). -/
def destOf (fm : Form) (s : State) (d : Nat) : List Nat :=
  match startAt fm s with
  | some (j, _) => [fm.d j d]
  | none => []

/-- In every next state an instruction has written no more than `gs`, `fs`, `ps`, `ms`, `cs` and the `FCSR` bits of a
mask, stored nothing, and taken no trap but one it raises, or STEP. -/
def framedBy (i : Instr) (gs fs ps ms cs : List Nat) (flags : Word) (s : State) : Prop :=
  ∀ t, exec i s = .next t →
    keeps gs fs ps ms cs flags s t ∧ t.core.sb = s.core.sb ∧ (stays s t ∨ trapsFrom s t ∨ singleSteps s)

/-- The frame of an instruction that writes no mask and no accumulator. -/
def framed (i : Instr) (gs fs ps : List Nat) (flags : Word) (s : State) : Prop := framedBy i gs fs ps [] [] flags s

/-- As `framed`, for an instruction that stores bytes, under a mask of bits, at a physical address: its store is the
newest of the core's buffer, or it has stored nothing. -/
def storeFramed (i : Instr) (pa : Nat) (data : List Byte) (mask : Byte) (s : State) : Prop :=
  ∀ t, exec i s = .next t →
    keeps [] [] [] [] [] 0 s t ∧ (stays s t ∨ trapsFrom s t ∨ singleSteps s) ∧
    (t.core.sb = s.core.sb ∨ t.core.sb = s.core.sb ++ [⟨s.ctx.prv.gtid, s.pid, pa, data, mask, false⟩])

/-! ## Steps -/

/-- The current core's turn is next, in the state `s0`: no roll call is due, and a turn says so, or there is no turn,
event or message due. -/
def takesTurn (s s0 : State) : Prop :=
  traceDue s = none ∧ ((∃ r, s.turns = .run s.cur :: r ∧ s0 = { tick s with turns := r }) ∨
  (s.turns = [] ∧ bootTurn (tick s) = none ∧ s.sched.ipis = [] ∧ distStep (tick s) = none ∧ s0 = tick s))

/-- Nothing comes before the current core's next instruction: it has been released and runs, no cause is held or
pending for its context, no interrupt is ready, no service of the firmware is due, and its quantum lets it issue. -/
def issues (s : State) : Prop :=
  stage s ≠ 5 ∧ s.rel.held.all (fun h => decide (h.1 ≠ s.ctx.prv.gtid)) = true ∧ coreRuns s = true ∧
  s.core.act = true ∧ s.core.swapping = false ∧ s.ctx.aux.sent = .nothing ∧ mayIssue s = true ∧
  mchkPending s = false ∧ auditPending s = false ∧ s.core.preempt = none ∧ intReady s = false ∧
  firmwareCalled s = false ∧ s.core.window = false

end Sys2Proof.Machine
end

