-- ==== Sys2Proof/Certificates/Slice0/Obligations.lean ====
section
/-! DEFINITION. The statements of this model. -/

section

open Sys2Proof Sys2Proof.Machine

/-! ## Integer instructions -/

/-- Integer arithmetic at the operand width: `ADD`, `SUB`, `MUL` and `ADDI`, and their forms on page 0, wrap; `MULH` and
`MULHU` give the high half of the product; division truncates and never traps, a quotient by zero being all ones and a
remainder by zero the dividend; `MIN`, `MAX`, `MINU` and `MAXU` give the lesser or greater operand (R100). -/
def Obligations.ArithmeticResults : Prop :=
  (∀ (fm : Form) (w : Width) (d a b : Nat) (imm : Int) (s : State) (j k : Nat),
     startAt fm s = some (j, k) →
     (clean s [.g (fm.a j a), .g (fm.b j b)] = true →
       exec (.addP0 fm d a b) s = .next (completes fm (fm.len 0) j
         (wg s (fm.d j d) (rg s (fm.a j a) + rg s (fm.b j b)))) ∧
       exec (.subP0 fm d a b) s = .next (completes fm (fm.len 0) j
         (wg s (fm.d j d) (rg s (fm.a j a) - rg s (fm.b j b)))) ∧
       exec (.add fm w d a b) s = .next (completes fm (fm.len 1) j
         (wg s (fm.d j d) (narrow w (rg s (fm.a j a) + rg s (fm.b j b))))) ∧
       exec (.sub fm w d a b) s = .next (completes fm (fm.len 1) j
         (wg s (fm.d j d) (narrow w (rg s (fm.a j a) - rg s (fm.b j b))))) ∧
       exec (.mul fm w d a b) s = .next (completes fm (fm.len 1) j
         (wg s (fm.d j d) (narrow w (rg s (fm.a j a) * rg s (fm.b j b)))))) ∧
     (clean s [.g (fm.a j a)] = true →
       exec (.addiP0 fm d a imm) s = .next (completes fm (fm.len 0) j
         (wg s (fm.d j d) (rg s (fm.a j a) + BitVec.ofInt 64 (fm.i j imm)))) ∧
       exec (.addi fm w d a imm) s = .next (completes fm (fm.len 1) j
         (wg s (fm.d j d) (narrow w (rg s (fm.a j a) + BitVec.ofInt 64 (fm.i j imm))))))) ∧
  ((∀ (fm : Form) (w : Width) (d a b : Nat) (s : State) (j k : Nat),
      startAt fm s = some (j, k) → clean s [.g (fm.a j a), .g (fm.b j b)] = true →
      let gives (f : (n : Nat) → BitVec n → BitVec n → BitVec n) : Host.Outcome State Fault Refusal :=
        .next (completes fm (fm.len 1) j
          (wg s (fm.d j d) (atWidth w f (rg s (fm.a j a)) (rg s (fm.b j b)))))
      exec (.mulh fm w d a b) s =
        gives (fun n x y => (x.signExtend (2 * n) * y.signExtend (2 * n)).extractLsb' n n) ∧
      exec (.mulhu fm w d a b) s =
        gives (fun n x y => (x.setWidth (2 * n) * y.setWidth (2 * n)).extractLsb' n n) ∧
      exec (.div fm w d a b) s = gives (fun n x y => if y = 0 then BitVec.allOnes n else x.sdiv y) ∧
      exec (.divu fm w d a b) s = gives (fun n x y => if y = 0 then BitVec.allOnes n else x / y) ∧
      exec (.rem fm w d a b) s = gives (fun _ x y => if y = 0 then x else x.srem y) ∧
      exec (.remu fm w d a b) s = gives (fun _ x y => if y = 0 then x else x % y)) ∧
   (∀ (fm : Form) (w : Width) (d a b : Nat) (s : State) (j k : Nat),
      startAt fm s = some (j, k) → clean s [.g (fm.a j a), .g (fm.b j b)] = true →
      let gives (f : (n : Nat) → BitVec n → BitVec n → BitVec n) : Host.Outcome State Fault Refusal :=
        .next (completes fm (fm.len 1) j
          (wg s (fm.d j d) (atWidth w f (rg s (fm.a j a)) (rg s (fm.b j b)))))
      exec (.min fm w d a b) s = gives (fun _ x y => if x.slt y then x else y) ∧
      exec (.max fm w d a b) s = gives (fun _ x y => if x.slt y then y else x) ∧
      exec (.minu fm w d a b) s = gives (fun _ x y => if x.ult y then x else y) ∧
      exec (.maxu fm w d a b) s = gives (fun _ x y => if x.ult y then y else x)))

/-- The logical instructions, bit by bit, an immediate sign-extended; shifts and rotates, a register form by its operand
modulo the width, an immediate form by its immediate, which R98 keeps below the width (R101). -/
def Obligations.LogicAndShiftResults : Prop :=
  (∀ (fm : Form) (w : Width) (d a b : Nat) (imm : Int) (s : State) (j k : Nat),
     startAt fm s = some (j, k) →
     (clean s [.g (fm.a j a), .g (fm.b j b)] = true →
       exec (.and fm w d a b) s = .next (completes fm (fm.len 2) j
         (wg s (fm.d j d) (narrow w (rg s (fm.a j a) &&& rg s (fm.b j b))))) ∧
       exec (.andn fm w d a b) s = .next (completes fm (fm.len 2) j
         (wg s (fm.d j d) (narrow w (rg s (fm.a j a) &&& ~~~rg s (fm.b j b))))) ∧
       exec (.or fm w d a b) s = .next (completes fm (fm.len 2) j
         (wg s (fm.d j d) (narrow w (rg s (fm.a j a) ||| rg s (fm.b j b))))) ∧
       exec (.xor fm w d a b) s = .next (completes fm (fm.len 2) j
         (wg s (fm.d j d) (narrow w (rg s (fm.a j a) ^^^ rg s (fm.b j b)))))) ∧
     (clean s [.g (fm.a j a)] = true →
       exec (.andiP0 fm d a imm) s = .next (completes fm (fm.len 0) j
         (wg s (fm.d j d) (rg s (fm.a j a) &&& BitVec.ofInt 64 (fm.i j imm)))) ∧
       exec (.andi fm w d a imm) s = .next (completes fm (fm.len 2) j
         (wg s (fm.d j d) (narrow w (rg s (fm.a j a) &&& BitVec.ofInt 64 (fm.i j imm))))) ∧
       exec (.ori fm w d a imm) s = .next (completes fm (fm.len 2) j
         (wg s (fm.d j d) (narrow w (rg s (fm.a j a) ||| BitVec.ofInt 64 (fm.i j imm))))) ∧
       exec (.xori fm w d a imm) s = .next (completes fm (fm.len 2) j
         (wg s (fm.d j d) (narrow w (rg s (fm.a j a) ^^^ BitVec.ofInt 64 (fm.i j imm))))))) ∧
  (∀ (fm : Form) (w : Width) (d a b imm : Nat) (s : State) (j k : Nat),
     startAt fm s = some (j, k) →
     (clean s [.g (fm.a j a), .g (fm.b j b)] = true →
       let gives (f : (n : Nat) → BitVec n → BitVec n → BitVec n) : Host.Outcome State Fault Refusal :=
         .next (completes fm (fm.len 2) j
           (wg s (fm.d j d) (atWidth w f (rg s (fm.a j a)) (rg s (fm.b j b)))))
       exec (.shl fm w d a b) s = gives (fun n x y => x <<< (y.toNat % n)) ∧
       exec (.shr fm w d a b) s = gives (fun n x y => x >>> (y.toNat % n)) ∧
       exec (.sra fm w d a b) s = gives (fun n x y => x.sshiftRight (y.toNat % n)) ∧
       exec (.rotr fm w d a b) s = gives (fun n x y => x.rotateRight (y.toNat % n))) ∧
     (clean s [.g (fm.a j a)] = true → fm.u j imm < w.bits →
       let gives (p : Nat) (f : (n : Nat) → BitVec n → BitVec n) : Host.Outcome State Fault Refusal :=
         .next (completes fm (fm.len p) j (wg s (fm.d j d) (atWidth1 w f (rg s (fm.a j a)))))
       exec (.shli fm w d a imm) s = gives 2 (fun _ x => x <<< fm.u j imm) ∧
       exec (.shri fm w d a imm) s = gives 2 (fun _ x => x >>> fm.u j imm) ∧
       exec (.srai fm w d a imm) s = gives 2 (fun _ x => x.sshiftRight (fm.u j imm)) ∧
       exec (.rotri fm w d a imm) s = gives 3 (fun _ x => x.rotateRight (fm.u j imm))) ∧
     (clean s [.g (fm.a j a)] = true → fm.u j imm < 64 →
       exec (.shliP0 fm d a imm) s = .next (completes fm (fm.len 0) j
         (wg s (fm.d j d) (rg s (fm.a j a) <<< fm.u j imm)))))

/-- Counting, byte reversal, extension and bit fields; a field lies within the operand width (R98, R102). -/
def Obligations.BitFieldResults : Prop :=
  ∀ (fm : Form) (w : Width) (e : Ex) (d a imm : Nat) (s : State) (j k : Nat),
    startAt fm s = some (j, k) → clean s [.g (fm.a j a)] = true →
    let x := rg s (fm.a j a)
    let pos := fm.u j imm % 64
    let wid := fm.u j imm / 64 + 1
    let gives (v : Word) : Host.Outcome State Fault Refusal :=
      .next (completes fm (fm.len 3) j (wg s (fm.d j d) v))
    exec (.clz fm w d a) s = gives (atWidth1 w (fun _ x => x.clz) x) ∧
    exec (.ctz fm w d a) s = gives (atWidth1 w (fun _ x => x.ctz) x) ∧
    exec (.popc fm w d a) s = gives (atWidth1 w (fun _ x => x.cpop) x) ∧
    (∃ y, exec (.rev8 fm w d a) s = gives (narrow w y) ∧
      ∀ i, i < w.bits / 8 → y.extractLsb' (8 * i) 8 = x.extractLsb' (w.bits - 8 - 8 * i) 8) ∧
    exec (.sext fm e d a) s = gives ((x.setWidth e.bits).signExtend 64) ∧
    exec (.zext fm e d a) s = gives ((x.setWidth e.bits).setWidth 64) ∧
    (pos + wid ≤ w.bits →
      exec (.bfx fm w d a imm) s = gives (narrow w ((x.extractLsb' pos wid).setWidth 64)) ∧
      (clean s [.g (fm.d j d)] = true → ∃ y,
        exec (.bfi fm w d a imm) s = gives (narrow w y) ∧
        ∀ i, i < w.bits →
          y.getLsbD i = if pos ≤ i ∧ i < pos + wid then x.getLsbD (i - pos) else (rg s (fm.d j d)).getLsbD i))

/-- Moves: `MOV`, `LI`, `SEL`, and `LEA`, relative to the base word where field a is 0 (R80, R103). -/
def Obligations.MoveResults : Prop :=
  ∀ (fm : Form) (d a b p : Nat) (imm : Int) (s : State) (j k : Nat),
    startAt fm s = some (j, k) →
    let gives (page : Nat) (v : Word) : Host.Outcome State Fault Refusal :=
      .next (completes fm (fm.len page) j (wg s (fm.d j d) v))
    exec (.liP0 fm d imm) s = gives 0 (BitVec.ofInt 64 (fm.i j imm)) ∧
    exec (.li fm d imm) s = gives 3 (BitVec.ofInt 64 (fm.i j imm)) ∧
    (clean s [.g (fm.a j a)] = true →
      exec (.movP0 fm d a) s = gives 0 (rg s (fm.a j a)) ∧
      exec (.mov fm d a) s = gives 3 (rg s (fm.a j a)) ∧
      exec (.lea fm d a imm) s = gives 3
        (if fm.a j a = 0 then s.pc + BitVec.ofNat 64 (fm.len 3) - 2 + 2 * BitVec.ofInt 64 (fm.i j imm)
         else rg s (fm.a j a) + BitVec.ofInt 64 (fm.i j imm))) ∧
    (clean s [.p p, .g (fm.a j a), .g (fm.b j b)] = true →
      exec (.sel fm p d a b) s = gives 3 (if rp s p then rg s (fm.a j a) else rg s (fm.b j b)))

/-- Comparisons and predicate operations write one predicate (R104, R105). -/
def Obligations.PredicateResults : Prop :=
  ∀ (fm : Form) (c : Cc) (d a b : Nat) (imm : Int) (s : State) (j k : Nat),
    startAt fm s = some (j, k) →
    let holds (x y : Word) : Bool :=
      match c with
      | .eq => x == y
      | .ne => x != y
      | .lt => x.slt y
      | .ge => !x.slt y
      | .ltu => x.ult y
      | .geu => !x.ult y
    let retires (v : Bool) : Host.Outcome State Fault Refusal := .next (retire (fm.len 4) (wp s d v))
    (clean s [.g (fm.a j a), .g (fm.b j b)] = true →
      exec (.cmp fm c d a b) s = .next (completes fm (fm.len 4) j
        (wp s (fm.d j d) (holds (rg s (fm.a j a)) (rg s (fm.b j b)))))) ∧
    (clean s [.g (fm.a j a)] = true →
      exec (.cmpi fm c d a imm) s = .next (completes fm (fm.len 4) j
        (wp s (fm.d j d) (holds (rg s (fm.a j a)) (BitVec.ofInt 64 (fm.i j imm)))))) ∧
    (clean s [.p a, .p b] = true →
      exec (.pand fm d a b) s = retires (rp s a && rp s b) ∧
      exec (.por fm d a b) s = retires (rp s a || rp s b) ∧
      exec (.pxor fm d a b) s = retires (rp s a ^^ rp s b)) ∧
    (clean s [.p a] = true → exec (.pnot fm d a) s = retires (!rp s a)) ∧
    (clean s [.g a] = true → exec (.pmov fm d a) s = retires (rg s a != 0))

/-! ## Control transfers -/

/-- Branches and jumps go to the target the rules give, write the link, and retire; `JALR` to an odd address takes
ALIGN with nothing written (R80, R106, R107). -/
def Obligations.TransferResults : Prop :=
  ∀ (fm : Form) (d a : Nat) (imm : Int) (s : State),
    let target (page : Nat) : Word := s.pc + BitVec.ofNat 64 (fm.len page) - 2 + 2 * BitVec.ofInt 64 imm
    let after (page : Nat) : Word := s.pc + BitVec.ofNat 64 (fm.len page)
    exec (.brP0 fm imm) s = .next (retireTo (target 0) s) ∧
    exec (.br fm imm) s = .next (retireTo (target 4) s) ∧
    exec (.jalP0 fm d imm) s = .next (retireTo (target 0) (wg s d (after 0))) ∧
    exec (.jal fm d imm) s = .next (retireTo (target 4) (wg s d (after 4))) ∧
    (clean s [.p d] = true →
      exec (.brcP0 fm d imm) s = .next (retireTo (if rp s d then target 0 else after 0) s) ∧
      exec (.brc fm d imm) s = .next (retireTo (if rp s d then target 4 else after 4) s)) ∧
    (clean s [.g a] = true →
      let t := rg s a + BitVec.ofInt 64 imm
      (t.getLsbD 0 = false →
        exec (.jalrP0 fm d a imm) s = .next (retireTo t (wg s d (after 0))) ∧
        exec (.jalr fm d a imm) s = .next (retireTo t (wg s d (after 4)))) ∧
      (t.getLsbD 0 = true →
        exec (.jalrP0 fm d a imm) s = .next (takeTrap none ⟨0x04, 0, t, true, 0⟩ s) ∧
        exec (.jalr fm d a imm) s = .next (takeTrap none ⟨0x04, 0, t, true, 0⟩ s)))

/-! ## Scalar memory -/

/-- Scalar loads whose access passes its checks: the loaded bytes are little-endian, sign-extended by `LD`, `LDX` and
`LDP`, zero-extended by `LDZ` and `FLD` (R109, R112, R113, R115). -/
def Obligations.LoadResults : Prop :=
  ∀ (fm : Form) (z : Sz) (e : Ex) (f : Fs) (w : Wd) (d a b : Nat) (imm : Int) (s s1 : State) (v : List Byte)
    (j k : Nat),
    startAt fm s = some (j, k) → clean s [.g (fm.a j a)] = true →
    let at_ (unit : Nat) : Word := rg s (fm.a j a) + BitVec.ofInt 64 (fm.i j imm * unit)
    let gives (page : Nat) (t : State) : Out := .next (completes fm (fm.len page) j t)
    (readable (at_ 8) 8 s s1 v →
      exec (.ldP0 fm d a imm) s = gives 0 (wg s1 (fm.d j d) (signedValue 8 v)) ∧
      exec (.fldP0 fm d a imm) s = gives 0 (wf s1 (fm.d j d) (unsignedValue 8 v))) ∧
    (readable (at_ z.bytes) z.bytes s s1 v →
      exec (.ld fm z d a imm) s = gives 5 (wg s1 (fm.d j d) (signedValue z.bytes v))) ∧
    (readable (at_ e.bytes) e.bytes s s1 v →
      exec (.ldz fm e d a imm) s = gives 5 (wg s1 (fm.d j d) (unsignedValue e.bytes v))) ∧
    (readable (at_ f.bytes) f.bytes s s1 v →
      exec (.fld fm f d a imm) s = gives 6 (wf s1 (fm.d j d) (unsignedValue f.bytes v))) ∧
    (readable (at_ (2 * w.bytes)) (2 * w.bytes) s s1 v →
      exec (.ldp fm w d a imm) s = gives 5 (wg (wg s1 (fm.d j d) (signedValue w.bytes (v.take w.bytes)))
        (fm.d j d + 1) (signedValue w.bytes (v.drop w.bytes)))) ∧
    (clean s [.g (fm.b j b)] = true →
      readable (rg s (fm.a j a) + rg s (fm.b j b) * BitVec.ofNat 64 z.bytes) z.bytes s s1 v →
      exec (.ldx fm z d a b) s = gives 5 (wg s1 (fm.d j d) (signedValue z.bytes v)))

/-- Where a load's bytes come from when no store of the core's buffer meets them, no other core's persistent request is
active for the line, and no message to another package that counts for the thread is still to write them: the home, for a line of the core's own die; a fresh copy, for a line of another die; or else a
fill from the home, after the die's own earlier stores to the line. A load reads the newest store of its own context
that covers it, whatever it would read without that store (R118, R239, R240, R241, R243, R255). -/
def Obligations.LoadSources : Prop :=
  ∀ (pa n : Nat) (s : State),
    localMem s pa = true → tokensHeld s.coh s.cur (lineOf pa) = false → 0 < n → pa % 128 + n ≤ 128 →
    s.core.sb.any (fun e => e.meets pa n) = false → msgsPast s.ctx.prv.gtid pa n s = true →
    (homeDie pa = s.die → linePoisoned s (lineOf pa) = false →
      loadLine false pa n s =
        .ok (heard pa n { s with coh := readToken s.cur (lineOf pa) s.coh }, memReadN s.mem pa n, false)) ∧
    (homeDie pa ≠ s.die → ∀ x, freshCopy s.coh s.die (lineOf pa) = some x → x.poison = false →
      ∃ s1, loadLine false pa n s = .ok (s1, (x.data.drop (pa % 128)).take n, false) ∧ s1.mem = s.mem) ∧
    (homeDie pa ≠ s.die → freshCopy s.coh s.die (lineOf pa) = none →
      ∃ s1, loadLine false pa n s = .ok (s1, memReadN s1.mem pa n, linePoisoned s1 (lineOf pa)) ∧
        (s.coh.wts = [] → s1.mem = s.mem) ∧
        ∃ x, freshCopy s1.coh s.die (lineOf pa) = some x ∧ x.data = memReadN s1.mem (lineOf pa * 128) 128) ∧
    (∀ (s0 s1 : State) (pa' : Nat) (data v : List Byte),
      loadLine false pa n s0 = .ok (s1, v, false) → v.length = n → pa' ≤ pa → pa + n ≤ pa' + data.length →
      ∃ s2, loadLine false pa n (buffered pa' data 0xFF s0) = .ok (s2, (data.drop (pa - pa')).take n, false))

/-- Scalar stores whose access passes its checks enter the store buffer with the bytes they store, little-endian, at
their address; `SBST` with the bits of one field. The oldest store leaves a core's buffer: where its home is the core's
own die its bytes, and no others, change in memory, under the mask of bits it writes; it stays while another core's
persistent request is active for its line, or a message that counts for its thread is still to write its bytes; an empty
buffer has nothing to drain (R109, R112, R113, R115, R117, R239, R240, R255). -/
def Obligations.StoreResults : Prop :=
  (∀ (fm : Form) (z : Sz) (f : Fs) (w : Wd) (sb : Sb) (d a b : Nat) (imm : Int) (s s1 : State) (pa : Nat) (j k : Nat),
     startAt fm s = some (j, k) → s1.core.sb.length < 96 →
     let at_ (unit : Nat) : Word := rg s (fm.a j a) + BitVec.ofInt 64 (fm.i j imm * unit)
     let gives (page : Nat) (data : List Byte) : Out :=
       .next (completes fm (fm.len page) j (stored pa data 0xFF s1))
     let gd := rg s (fm.d j d)
     (clean s [.g (fm.a j a), .g (fm.d j d)] = true →
       (reaches .store (at_ 8) 8 s s1 pa → exec (.stP0 fm d a imm) s = gives 0 (bytesOfWord 8 gd)) ∧
       (reaches .store (at_ z.bytes) z.bytes s s1 pa →
         exec (.st fm z d a imm) s = gives 5 (bytesOfWord z.bytes gd)) ∧
       (clean s [.g (fm.b j b)] = true →
         reaches .store (rg s (fm.a j a) + rg s (fm.b j b) * BitVec.ofNat 64 z.bytes) z.bytes s s1 pa →
         exec (.stx fm z d a b) s = gives 5 (bytesOfWord z.bytes gd)) ∧
       (clean s [.g (fm.d j d + 1)] = true → reaches .store (at_ (2 * w.bytes)) (2 * w.bytes) s s1 pa →
         exec (.stp fm w d a imm) s =
           gives 5 (bytesOfWord w.bytes gd ++ bytesOfWord w.bytes (rg s (fm.d j d + 1))))) ∧
     (clean s [.g (fm.a j a), .f (fm.d j d)] = true → reaches .store (at_ f.bytes) f.bytes s s1 pa →
       exec (.fst fm f d a imm) s = gives 6 (bytesOfWord f.bytes (rf s (fm.d j d)))) ∧
     (clean s [.g a, .g d] = true →
       let field := (rg s a + BitVec.ofInt 64 imm).toNat
       let per := 8 / sb.bits
       let low := sb.bits * (field % per)
       reaches .store (BitVec.ofNat 64 (field / per)) 1 s s1 pa →
       exec (.sbst fm sb d a imm) s = retires (fm.len 6)
         (stored pa [BitVec.ofNat 8 ((rg s d).toNat % 2 ^ sb.bits * 2 ^ low)]
           (BitVec.ofNat 8 ((2 ^ sb.bits - 1) * 2 ^ low)) s1))) ∧
  (∀ (core : Nat) (s : State),
     ((getCore s core).sb = [] → exec (.storeBufferDrain core) s = .next s) ∧
     (∀ e r, (getCore s core).sb = e :: r → localMem s e.pa = true →
       tokensHeld s.coh core (lineOf e.pa) = true ∨ msgsPast e.gtid e.pa e.data.length s = false →
       exec (.storeBufferDrain core) s = .next s) ∧
     (∀ e r, (getCore s core).sb = e :: r → s.memOk → localMem s e.pa = true → homeDie e.pa = core / 64 →
       tokensHeld s.coh core (lineOf e.pa) = false → msgsPast e.gtid e.pa e.data.length s = true →
       deadHome s e.pa = false →
       ∃ t, exec (.storeBufferDrain core) s = .next t ∧ (getCore t core).sb = r ∧ t.ctx = s.ctx ∧
         (∀ i b, e.data[i]? = some b →
           memRead t.mem (e.pa + i) = (memRead s.mem (e.pa + i) &&& ~~~e.mask) ||| (b &&& e.mask)) ∧
         (∀ x, x < e.pa ∨ e.pa + e.data.length ≤ x → memRead t.mem x = memRead s.mem x)))

/-- A misaligned scalar access, in each form that can be misaligned, takes ALIGN with its address in TVAL and no register
or byte written, before any other check of the access; DETAIL is 1 for a store or an atomic (R110, R111, R331). -/
def Obligations.MisalignedAccessesTrap : Prop :=
  ∀ (fm : Form) (z : Sz) (e : Ex) (f : Fs) (w : Wd) (o : Order) (sc : Scope) (d a b : Nat) (imm : Int) (s : State)
    (j k : Nat), startAt fm s = some (j, k) →
    let at_ (unit : Nat) : Word := rg s (fm.a j a) + BitVec.ofInt 64 (fm.i j imm * unit)
    let idx : Word := rg s (fm.a j a) + rg s (fm.b j b) * BitVec.ofNat 64 z.bytes
    let left : Option Nat := if fm.rep.isSome then some (fm.count - j) else none
    let aligns (n store : Nat) (va : Word) (i : Instr) : Prop :=
      va.toNat % n ≠ 0 → exec i s = .next (takeTrap left ⟨0x04, store, va, true, 0⟩ s)
    let alignsOne (n store : Nat) (va : Word) (i : Instr) : Prop :=
      va.toNat % n ≠ 0 → exec i s = .next (takeTrap none ⟨0x04, store, va, true, 0⟩ s)
    (clean s [.g (fm.a j a)] = true →
      aligns 8 0 (at_ 8) (.ldP0 fm d a imm) ∧ aligns 8 0 (at_ 8) (.fldP0 fm d a imm) ∧
      aligns z.bytes 0 (at_ z.bytes) (.ld fm z d a imm) ∧ aligns e.bytes 0 (at_ e.bytes) (.ldz fm e d a imm) ∧
      aligns f.bytes 0 (at_ f.bytes) (.fld fm f d a imm) ∧
      aligns (2 * w.bytes) 0 (at_ (2 * w.bytes)) (.ldp fm w d a imm) ∧
      (clean s [.g (fm.b j b)] = true → aligns z.bytes 0 idx (.ldx fm z d a b))) ∧
    (clean s [.g (fm.a j a), .f (fm.d j d)] = true → aligns f.bytes 1 (at_ f.bytes) (.fst fm f d a imm)) ∧
    (clean s [.g (fm.a j a), .g (fm.d j d)] = true →
      aligns 8 1 (at_ 8) (.stP0 fm d a imm) ∧ aligns z.bytes 1 (at_ z.bytes) (.st fm z d a imm) ∧
      (clean s [.g (fm.d j d + 1)] = true → aligns (2 * w.bytes) 1 (at_ (2 * w.bytes)) (.stp fm w d a imm)) ∧
      (clean s [.g (fm.b j b)] = true → aligns z.bytes 1 idx (.stx fm z d a b))) ∧
    (clean s [.g a] = true →
      let va := rg s a + BitVec.ofInt 64 (imm * w.bytes)
      alignsOne w.bytes 0 va (.lda fm sc w d a imm) ∧ alignsOne w.bytes 0 va (.ldw fm w d a imm) ∧
      (clean s [.g d] = true → alignsOne w.bytes 1 va (.stl fm sc w d a imm)) ∧
      (clean s [.g b] = true → alignsOne 8 0 (rg s a) (.waitne fm d a b))) ∧
    (clean s [.g a, .g b] = true → s.ctx.aux.sent = .nothing →
      (∀ i ∈ [Instr.amoadd fm o w sc d a b, .amoand fm o w sc d a b, .amoor fm o w sc d a b, .amoxor fm o w sc d a b,
          .amomin fm o w sc d a b, .amomax fm o w sc d a b, .amominu fm o w sc d a b, .amomaxu fm o w sc d a b,
          .amoswap fm o w sc d a b], alignsOne w.bytes 1 (rg s a) i) ∧
      (clean s [.g d] = true → alignsOne w.bytes 1 (rg s a) (.amocas fm o w sc d a b))) ∧
    (clean s [.g a, .f b] = true → s.ctx.aux.sent = .nothing → alignsOne w.bytes 1 (rg s a) (.amofadd fm o w sc d a b))

/-! ## Ordering, time and the wayside table -/

/-- `FENCE`, `LDA`, `STL` and `WAITNE`: an acquire at pkg scope or wider clears the die once, a release waits for the
wayside table and for every earlier store, and what must not wait completes at once; a `WAITNE` reads at the home, and
the die's copy of the line is gone. That `FENCE.sc` waits for the messages to other packages at every scope (log 102),
and that an acquire counts what others have stored before as read (log 100), are the model's choices (R114, R139, R141,
R147, R244). -/
def Obligations.OrderingResults : Prop :=
  ∀ (fm : Form) (sc : Scope) (w : Wd) (d a b : Nat) (imm : Int) (s : State),
    exec (.fence fm .load sc) s = retires (fm.len 9) s ∧
    (sc.code < 2 ∨ storesPerformed sc.code s = true →
      exec (.fence fm .store sc) s = retires (fm.len 9) s) ∧
    (∀ t, acquired sc.code s t → exec (.fence fm .acquire sc) s = retires (fm.len 9) t) ∧
    (releasable sc.code s → exec (.fence fm .release sc) s = retires (fm.len 9) s) ∧
    (∀ t, waysideClear sc.code s → storesPerformed sc.code s = true → msgsDone s.ctx.prv.gtid s = true →
      acquired sc.code s t →
      exec (.fence fm .sc sc) s = retires (fm.len 9) t) ∧
    (clean s [.g a] = true →
      ∀ s1 t v, (if sc.code < 2 then readable (rg s a + BitVec.ofInt 64 (imm * w.bytes)) w.bytes s s1 v
          else readableAtHome (rg s a + BitVec.ofInt 64 (imm * w.bytes)) w.bytes s s1 v) →
        acquired sc.code s1 t →
        exec (.lda fm sc w d a imm) s = retires (fm.len 6) (wg t d (signedValue w.bytes v))) ∧
    (clean s [.g a, .g d] = true →
      ∀ s1 pa, reaches .store (rg s a + BitVec.ofInt 64 (imm * w.bytes)) w.bytes s s1 pa →
        releasable sc.code s1 → s1.core.sb.length < 96 →
        exec (.stl fm sc w d a imm) s = retires (fm.len 6) (stored pa (bytesOfWord w.bytes (rg s d)) 0xFF s1)) ∧
    (clean s [.g a, .g b] = true →
      ∀ s0 s1 pa v, reaches .load (rg s a) 8 s s0 pa → v.length = 8 →
        loadLine true pa 8 (if localMem s0 pa then { s0 with coh := dropCopy s.die (lineOf pa) s0.coh } else s0) =
          .ok (s1, v, false) →
        let x := unsignedValue 8 (raceBytes s1 pa v)
        exec (.waitne fm d a b) s =
          if x = rg s b then .next (advanceAll s1) else retires (fm.len 9) (wg s1 d x))

/-- `LDW` of a line that the die has a copy of, whatever its age below 2^15, reads the copy and notes the line and its
version, PENDING, in the wayside table, unless an entry of both is there; any other `LDW` is a load. `CHKW` without
PENDING entries empties the table and goes to its target if one was struck, to the next instruction if none was. A
release or full fence at pkg scope or wider with struck entries raises STRIKE: DETAIL counts them, TVAL is the least of
their addresses (R73, R143, R144, R146, R147). -/
def Obligations.WaysideResults : Prop :=
  ∀ (fm : Form) (w : Wd) (d a : Nat) (imm : Int) (s : State),
    let va := rg s a + BitVec.ofInt 64 (imm * w.bytes)
    (clean s [.g a] = true → ∀ s1 pa, reaches .load va w.bytes s s1 pa →
      (∀ x, waysideCopy pa w.bytes s1 = some x → tokensHeld s1.coh s1.cur x.line = false → x.poison = false →
        msgsPast s1.ctx.prv.gtid pa w.bytes s1 = true → x.data.length = 128 →
        ∃ t, exec (.ldw fm w d a imm) s =
            retires (fm.len 7) (wg t d (signedValue w.bytes (raceBytes t pa ((x.data.drop (pa % 128)).take w.bytes)))) ∧
          t.ctx.aux.wayside = (if s1.ctx.aux.wayside.any (fun y => y.line = x.line ∧ y.version = x.version)
            then s1.ctx.aux.wayside else s1.ctx.aux.wayside ++ [⟨va, x.line, x.version, .pending⟩]) ∧
          { t.ctx with aux.wayside := s1.ctx.aux.wayside } = s1.ctx ∧ t.core = s1.core ∧
          (s1.coh.wts = [] → t.mem = s1.mem)) ∧
      (waysideCopy pa w.bytes s1 = none → ∀ t v, loadLine false pa w.bytes s1 = .ok (t, v, false) →
        v.length = w.bytes →
        exec (.ldw fm w d a imm) s = retires (fm.len 7) (wg t d (signedValue w.bytes (raceBytes t pa v))))) ∧
    (waysidePending s.ctx = false →
      exec (.chkw fm imm) s = .next (retireTo
        (if waysideStruck s.ctx = [] then s.pc + BitVec.ofNat 64 (fm.len 7)
         else s.pc + BitVec.ofNat 64 (fm.len 7) - 2 + 2 * BitVec.ofInt 64 imm)
        { s with
          ctx.aux.wayside := []
          coh.confirms := s.coh.confirms.filter (fun c => c.gtid ≠ s.ctx.prv.gtid) })) ∧
    (∀ sc : Scope, 2 ≤ sc.code → waysidePending s.ctx = false → waysideStruck s.ctx ≠ [] →
      ∃ x, x ∈ (waysideStruck s.ctx).map (·.va) ∧
        (∀ y ∈ (waysideStruck s.ctx).map (·.va), x.toNat ≤ y.toNat) ∧
        exec (.fence fm .release sc) s =
          .next (takeTrap none ⟨0x10, (waysideStruck s.ctx).length, x, false, 0⟩ s) ∧
        exec (.fence fm .sc sc) s =
          .next (takeTrap none ⟨0x10, (waysideStruck s.ctx).length, x, false, 0⟩ s))

/-- `PREF` always completes, whatever its address or register holds, and writes no register; `YIELD` offers the quantum
to a lodged context of the same partition; `GTIDRD`, `RDCYC` and `RDTIME` read the thread's number and the counts (R116,
R142, R155, R156). -/
def Obligations.HintsAndCounts : Prop :=
  ∀ (fm : Form) (lv : Pf) (d a : Nat) (imm : Int) (s : State) (j k : Nat),
    (startAt fm s = some (j, k) →
      ∃ t, exec (.pref fm lv a imm) s = .next (completes fm (fm.len 6) j t) ∧ t.ctx = s.ctx ∧
        t.core.sb = s.core.sb) ∧
    (s.core.lodge = none → exec (.yield fm) s = retires (fm.len 9) s) ∧
    (∀ c, s.core.lodge = some c →
      ∃ taken : Bool, (taken = true → c.pid = s.pid) ∧
        exec (.yield fm) s = retires (fm.len 9)
          (if taken then { s with core.swapping := true, core.lent := some c.prv.gtid } else s)) ∧
    exec (.gtidrd fm d) s = retires (fm.len 9) (wg s d (s.ctx.prv.gtid &&& 0xFFFFFFFFFFFF)) ∧
    exec (.rdcyc fm d) s = retires (fm.len 9) (wg s d (BitVec.ofNat 64 s.cyc)) ∧
    exec (.rdtime fm d) s = retires (fm.len 9) (wg s d (BitVec.ofNat 64 s.ns))

/-! ## Atomics -/

/-- An atomic on a line of the core's own die, with nothing to wait for: the home reads, changes and writes in one
step, the destination takes the old value, sign-extended; `AMOCAS` writes where the old value equals its destination
register; `AMOFADD` adds in FP32 or FP64, rounding to nearest. What an acquire counts as read is the model's choice
(log 100) (R135 to R138). -/
def Obligations.AtomicResults : Prop :=
  ∀ (fm : Form) (o : Order) (w : Wd) (sc : Scope) (d a b : Nat) (s s1 : State) (pa : Nat),
    s.ctx.aux.sent = .nothing → reaches .atomic (rg s a) w.bytes s s1 pa →
    (o = .rel ∨ o = .ar → releasable sc.code s1) → s1.core.sb = [] →
    localMem s1 pa = true → tokensHeld s1.coh s1.cur (lineOf pa) = false →
    msgsPast s1.ctx.prv.gtid pa w.bytes s1 = true → homeDie pa = s1.die →
    linePoisoned s1 (lineOf pa) = false → (∀ c ∈ s1.copy.cmds, c.gtid = s1.ctx.prv.gtid → elemBase c = none) →
    let n := 8 * w.bytes
    let old := natOfBytes (memReadN s1.mem pa w.bytes)
    let x : BitVec n := BitVec.ofNat n old
    let owns := { s1 with coh := gatherTokens s1.cur (lineOf pa) s1.coh }
    let stores (r : BitVec n) : State :=
      storeWrite s1.ctx.prv.gtid pa (bytesOfNat w.bytes r.toNat) 0xFF false false owns
    let after (t : State) (fl : Nat) (u : State) : Prop :=
      if o = .acq ∨ o = .ar then acquired sc.code { t with ctx.aux.sent := .atomicAnswer (BitVec.ofNat 64 old) fl } u
      else u = { t with ctx.aux.sent := .atomicAnswer (BitVec.ofNat 64 old) fl }
    (clean s [.g a, .g b] = true →
      let y : BitVec n := (rg s b).setWidth n
      let gives (r : BitVec n) (i : Instr) : Prop :=
        ∀ u, after (stores r) 0 u → exec i s = retires (fm.len 8) (wg u d (x.signExtend 64))
      gives (x + y) (.amoadd fm o w sc d a b) ∧
      gives (x &&& y) (.amoand fm o w sc d a b) ∧
      gives (x ||| y) (.amoor fm o w sc d a b) ∧
      gives (x ^^^ y) (.amoxor fm o w sc d a b) ∧
      gives (if y.slt x then y else x) (.amomin fm o w sc d a b) ∧
      gives (if x.slt y then y else x) (.amomax fm o w sc d a b) ∧
      gives (if y.ult x then y else x) (.amominu fm o w sc d a b) ∧
      gives (if x.ult y then y else x) (.amomaxu fm o w sc d a b) ∧
      gives y (.amoswap fm o w sc d a b) ∧
      (clean s [.g d] = true →
        ∀ u, after (if x = (rg s d).setWidth n then stores y else owns) 0 u →
          exec (.amocas fm o w sc d a b) s = retires (fm.len 8) (wg u d (x.signExtend 64)))) ∧
    (clean s [.g a, .f b] = true →
      let r := (amoFmt w.bytes).addR ⟨.rne, false, false, false⟩ old ((rf s b).toNat % 2 ^ n)
      ∀ u, after (stores (BitVec.ofNat n r.bits)) r.flags u →
        exec (.amofadd fm o w sc d a b) s = retires (fm.len 8) (orFlags r.flags (wf u d (BitVec.ofNat 64 old))))

/-! ## Threads -/

/-- `TSPAWN` writes the number of the first check its record fails, or 0 where every distributor records its acceptance
at once, and makes a team of as many Pending threads as the record's extents give, with 1 in its completion word; one
that had to wait takes its answer. `TINFO` hands out the next chunk, or the answer it has waited for; `TBAR` completes
where every other thread of the group has arrived, and raises ILL at a level without a barrier; `TEXIT` ends the thread.
What the acquire of a `TBAR` counts as read is the model's choice (log 100) (R22, R27 to R32, R34, R150 to R154). -/
def Obligations.ThreadInstructionResults : Prop :=
  ∀ (fm : Form) (d a n : Nat) (s : State),
    (s.ctx.aux.sent = .nothing → clean s [.g a] = true → ∀ s1 b donew, readRecord (rg s a) s = .ok (s1, b, donew) →
      (launchCheck s1 s1.ctx b ≠ 0 →
        exec (.tspawn fm d a) s = retires (fm.len 9) (wg s1 d (BitVec.ofNat 64 (launchCheck s1 s1.ctx b)))) ∧
      (launchCheck s1 s1.ctx b = 0 → waysideClear (widestScope (usedLevels b)) s1 →
        storesPerformed (widestScope (usedLevels b)) s1 = true → takesSpawn s1 = true →
        s1.sched.requests = [] → nearDonew s1 donew = true →
        ∃ t, exec (.tspawn fm d a) s = retires (fm.len 9) (wg t d 0) ∧
          (∃ tm ∈ t.sched.teams, tm.levels = usedLevels b ∧ tm.donew = donew ∧ tm.noted = true ∧
            tm.members.length = ((usedLevels b).map (·.extent)).foldl (· * ·) 1 ∧
            ∀ m ∈ tm.members, m.life = .pending) ∧
          ∀ pa w, donew = some (pa, w) → s1.memOk → localMem s1 pa = true → deadHome s1 pa = false →
            memReadN t.mem pa 8 = bytesOfNat 8 1)) ∧
    (∀ k, s.ctx.aux.sent = .spawnAnswer k →
      exec (.tspawn fm d a) s = retires (fm.len 9) (wg s d (BitVec.ofNat 64 k))) ∧
    (cmdsOf s s.ctx.prv.gtid = [] → s.cur < 256 →
      ∃ t, exec (.texit fm) s = .next t ∧ t.core.act = false ∧
        ∀ tm, teamOf s s.ctx.prv.gtid = some tm → tm.noted = true →
          ∃ tm' ∈ t.sched.teams, tm'.id = tm.id ∧ ∀ m ∈ tm'.members, m.gtid = s.ctx.prv.gtid → m.life = .ended) ∧
    (barOf s n = none → exec (.tbar fm n) s = .next (takeTrap none (illTrap s) s)) ∧
    (∀ tm l, barOf s n = some (tm, l) → waysideClear l.scope s → storesPerformed l.scope s = true →
      s.ctx.aux.arrive.getLsbD n = false →
      let s1 := putTeam (countArrival s.ctx.prv.gtid n tm) { s with ctx.aux.arrive := s.ctx.aux.arrive ||| (1#8 <<< n) }
      ∀ tm1 t, teamOf s1 s.ctx.prv.gtid = some tm1 → barrierDone tm1 s.ctx.prv.gtid n = true → acquired l.scope s1 t →
        exec (.tbar fm n) s = retires (fm.len 9) { t with ctx.aux.arrive := t.ctx.aux.arrive &&& ~~~(1#8 <<< n) }) ∧
    (∀ first len, s.ctx.aux.sent = .infoAnswer first len →
      exec (.tinfo fm d) s = retires (fm.len 9) (wg (wg s d first) (d + 1) len)) ∧
    (s.ctx.aux.sent = .nothing →
      (teamOf s s.ctx.prv.gtid = none → exec (.tinfo fm d) s = .next (takeTrap none (illTrap s) s)) ∧
      (∀ tm, teamOf s s.ctx.prv.gtid = some tm → s.sched.election = false → s.sched.requests = [] →
        tm.reissue = [] → 0 < tm.chunk →
        ∃ t, t.ctx = s.ctx ∧ t.mem = s.mem ∧ exec (.tinfo fm d) s = retires (fm.len 9)
          (if tm.next * tm.chunk < tm.icount then
            wg (wg t d (tm.istart + BitVec.ofNat 64 (tm.next * tm.chunk))) (d + 1)
              (BitVec.ofNat 64 (min tm.chunk (tm.icount - tm.next * tm.chunk)))
           else wg (wg t d (tm.istart + BitVec.ofNat 64 tm.icount)) (d + 1) 0)))

/-! ## Scalar floating point -/

/-- Arithmetic, minimum, maximum and approximations, on operands after DAZ, with the controls of the instruction and
`FCSR`. Where no enabled flag is among those the operation raises, the instruction completes: the destination takes the
result, zero above its format, and `FCSR.FLAGS` the flags. Where one is, FPE, whose DETAIL names the trapped and the
raised flags, and nothing is written (R49, R122, R124). -/
def Obligations.FpArithmeticResults : Prop :=
  ∀ (fm : Form) (f : Fmt) (rx d a b : Nat) (s : State) (j k : Nat),
    startAt fm s = some (j, k) → clean s [.f (fm.a j a), .ctl 0x001] = true →
    let x := rfn f s (fm.a j a)
    let y := rfn f s (fm.b j b)
    let z := rfn f s (fm.d j d)
    let c := fcsrCtl rx s
    let gives (page : Nat) (i : Instr) (r : FRes) : Prop :=
      let trapped := r.flags &&& bits s.ctx.ctl.fcsr 16 5
      (trapped = 0 →
        exec i s = .next (completes fm (fm.len page) j (orFlags r.flags (wf s (fm.d j d) (BitVec.ofNat 64 r.bits))))) ∧
      (trapped ≠ 0 →
        exec i s = .next (takeTrap (if fm.rep.isSome then some (fm.count - j) else none)
          ⟨0x0C, trapped + 32 * (r.flags % 32), 0, false, 0⟩ s))
    gives 10 (.fsqrt fm f rx d a) ((fmtE f).sqrtR c x) ∧
    gives 12 (.frcpa fm f rx d a) ((fmtE f).rcpR c x) ∧
    gives 12 (.frsqa fm f rx d a) ((fmtE f).rsqR c x) ∧
    (clean s [.f (fm.b j b)] = true →
      gives 10 (.fadd fm f rx d a b) ((fmtE f).addR c x y) ∧
      gives 10 (.fsub fm f rx d a b) ((fmtE f).subR c x y) ∧
      gives 10 (.fmul fm f rx d a b) ((fmtE f).mulR c x y) ∧
      gives 10 (.fdiv fm f rx d a b) ((fmtE f).divR c x y) ∧
      gives 10 (.fmin fm f rx d a b) ((fmtE f).minmaxR c false x y) ∧
      gives 10 (.fmax fm f rx d a b) ((fmtE f).minmaxR c true x y) ∧
      (clean s [.f (fm.d j d)] = true →
        gives 10 (.fma fm f rx d a b) ((fmtE f).fmaR c false false x y z) ∧
        gives 10 (.fms fm f rx d a b) ((fmtE f).fmaR c false true x y z) ∧
        gives 10 (.fnma fm f rx d a b) ((fmtE f).fmaR c true false x y z)))

/-- Operands and results of the formats, as values after DAZ. Finite results: the exact sum, difference, product,
quotient, root or fused product, and a converted value or integer, is rounded once, correctly for the mode, with its
flags, its overflow and FTZ; an exact zero sum has the sign of IEEE 754, and one infinite operand gives an infinity or,
as divisor, a zero. Special operands of arithmetic: a NaN operand gives the canonical NaN, with
NV only for a signalling one; ∞ − ∞, 0 × ∞, 0 / 0, ∞ / ∞ and the root of a negative number give it with NV, a fused
product 0 × ∞ even beside a quiet NaN; a finite nonzero number over zero is ∞ of the product of the signs, with DZ;
√(−0) is −0. Minimum and maximum return the operand that is no NaN. Approximations: ±0 gives ±∞ with DZ, ±∞ and negative
numbers what R61 lists (R46 to R48, R50, R51, R53, R61, R125, R126, R130). -/
def Obligations.FpOperandResults : Prop :=
  (∀ (f g : EFmt) (c : FpCtl) (a b d : Nat) (i : Int),
    let x := f.source c a
    let y := f.source c b
    let z := f.source c d
    let finite (v : FVal) : Prop := ∃ n m e, v = .fin n m e
    let sign (p : Bool) (v : ℚ) : ℚ := if p then -v else v
    (finite x → finite y →
      f.roundsRat c (x.rat + y.rat) (f.addR c a b) ∧ f.roundsRat c (x.rat - y.rat) (f.subR c a b) ∧
      f.roundsRat c (x.rat * y.rat) (f.mulR c a b) ∧
      (y.isZero = false → f.roundsRat c (x.rat / y.rat) (f.divR c a b)) ∧
      (x.rat + y.rat = 0 → f.addR c a b = ⟨f.signBit
        (if x.isZero && y.isZero && x.neg == y.neg then x.neg else decide (c.rm = .rdn)), 0⟩) ∧
      (x.rat * y.rat = 0 → f.mulR c a b = ⟨f.signBit (x.neg != y.neg), 0⟩) ∧
      (x.isZero = true → y.isZero = false → f.divR c a b = ⟨f.signBit (x.neg != y.neg), 0⟩)) ∧
    (finite x → 0 < x.rat → f.rounds c false (fun q => compare (q * q) x.rat) (f.sqrtR c a)) ∧
    (finite x → finite y → finite z → ∀ np nd,
      f.roundsRat c (sign np (x.rat * y.rat) + sign nd z.rat) (f.fmaR c np nd a b d) ∧
      (sign np (x.rat * y.rat) + sign nd z.rat = 0 →
        let n := (x.neg != y.neg) != np
        f.fmaR c np nd a b d = ⟨f.signBit
          (if (x.isZero || y.isZero) && z.isZero && n == (z.neg != nd) then n else decide (c.rm = .rdn)), 0⟩)) ∧
    (finite x → g.roundsRat c x.rat (g.ofVal c x) ∧ (x.isZero = true → g.ofVal c x = ⟨g.signBit x.neg, 0⟩)) ∧
    (∀ n, x = .inf n → g.ieee = true → g.ofVal c x = ⟨g.signBit n + g.infBits, 0⟩) ∧
    (∀ q, x = .nan q → g.ofVal c x = ⟨g.nanBits, if q then 16 else 0⟩) ∧
    g.roundsRat c i (g.ofInt c i) ∧ (i = 0 → g.ofInt c i = ⟨0, 0⟩) ∧
    (∀ n, x = .inf n → finite y → f.addR c a b = ⟨f.signBit n + f.infBits, 0⟩ ∧
      f.subR c a b = ⟨f.signBit n + f.infBits, 0⟩ ∧ f.divR c a b = ⟨f.signBit (n != y.neg) + f.infBits, 0⟩ ∧
      f.divR c b a = ⟨f.signBit (n != y.neg), 0⟩ ∧
      (y.isZero = false → f.mulR c a b = ⟨f.signBit (n != y.neg) + f.infBits, 0⟩))) ∧
  (∀ (fmt : Fmt) (c : FpCtl) (a b d : Nat),
    let f := fmtE fmt
    let x := f.source c a
    let y := f.source c b
    let z := f.source c d
    let nan (nv : Bool) : FRes := ⟨f.nanBits, if nv then 16 else 0⟩
    let isInf (v : FVal) : Bool := decide (v = .inf true ∨ v = .inf false)
    let badProduct : Bool := (x.isZero && isInf y) || (isInf x && y.isZero)
    (x.isNan || y.isNan →
      f.addR c a b = nan (x.signalling || y.signalling) ∧ f.subR c a b = nan (x.signalling || y.signalling) ∧
      f.mulR c a b = nan (x.signalling || y.signalling) ∧ f.divR c a b = nan (x.signalling || y.signalling)) ∧
    (∀ q, x = .nan q → f.sqrtR c a = nan q ∧ f.rcpR c a = nan q ∧ f.rsqR c a = nan q) ∧
    (x.isNan || y.isNan || z.isNan || badProduct → ∀ np nd,
      f.fmaR c np nd a b d = nan (x.signalling || y.signalling || z.signalling || badProduct)) ∧
    (∀ n m np nd, isInf x || isInf y → x.isNan = false → y.isNan = false → badProduct = false → z = .inf m →
      n = (x.neg ^^ y.neg ^^ np) → n ≠ (m ^^ nd) → f.fmaR c np nd a b d = nan true) ∧
    (∀ n, x = .inf n → y = .inf (!n) → f.addR c a b = nan true) ∧
    (∀ n, x = .inf n → y = .inf n → f.subR c a b = nan true) ∧
    (∀ n m, x = .inf n → y = .inf m → f.divR c a b = nan true) ∧
    (badProduct = true → f.mulR c a b = nan true) ∧
    (x.isZero = true → y.isZero = true → f.divR c a b = nan true) ∧
    (∀ n m e, m ≠ 0 → x = .fin n m e → y.isZero = true → f.divR c a b = ⟨f.signBit (n != y.neg) + f.infBits, 8⟩) ∧
    (∀ m e, m ≠ 0 → x = .fin true m e → f.sqrtR c a = nan true ∧ f.rsqR c a = nan true) ∧
    (x = .inf true → f.sqrtR c a = nan true ∧ f.rsqR c a = nan true ∧ f.rcpR c a = ⟨f.signBit true, 0⟩) ∧
    (x = .inf false → f.sqrtR c a = ⟨f.infBits, 0⟩ ∧ f.rsqR c a = ⟨0, 0⟩ ∧ f.rcpR c a = ⟨0, 0⟩) ∧
    (x.isZero = true → f.sqrtR c a = ⟨f.signBit x.neg, 0⟩ ∧ f.rcpR c a = ⟨f.signBit x.neg + f.infBits, 8⟩ ∧
      f.rsqR c a = ⟨f.signBit x.neg + f.infBits, 8⟩) ∧
    (∀ mx, (x.isNan = true → y.isNan = false → f.minmaxR c mx a b = ⟨f.dazBits c.daz b, if x.signalling then 16 else 0⟩) ∧
      (x.isNan = false → y.isNan = true → f.minmaxR c mx a b = ⟨f.dazBits c.daz a, if y.signalling then 16 else 0⟩) ∧
      (x.isNan = true → y.isNan = true → f.minmaxR c mx a b = nan (x.signalling || y.signalling))))

/-- Sign operations, moves and classes work on bits: no flag, no canonical NaN, no DAZ; a result is zero above its
format; `FCLASS` sets exactly one of ten bits (R127, R129, R131). -/
def Obligations.FpBitResults : Prop :=
  ∀ (fm : Form) (f : Fmt) (rx d a b : Nat) (s : State) (j k : Nat),
    startAt fm s = some (j, k) →
    let n := (fmtE f).bits
    let x : BitVec n := (rf s (fm.a j a)).setWidth n
    let y : BitVec n := (rf s (fm.b j b)).setWidth n
    let sign : BitVec n := 1#n <<< (n - 1)
    let gives (v : BitVec n) : Out := .next (completes fm (fm.len 10) j (wf s (fm.d j d) (v.setWidth 64)))
    (clean s [.f (fm.a j a)] = true →
      exec (.fabs fm f rx d a) s = gives (x &&& ~~~sign) ∧
      exec (.fneg fm f rx d a) s = gives (x ^^^ sign)) ∧
    (clean s [.f (fm.a j a), .f (fm.b j b)] = true →
      exec (.fsgnj fm f rx d a b) s = gives ((y &&& sign) ||| (x &&& ~~~sign))) ∧
    (clean s [.f a] = true →
      exec (.fmvg fm d a) s = retires (fm.len 11) (wg s d (rf s a)) ∧
      ∃ c, c < 10 ∧ exec (.fclass fm f rx d a) s = retires (fm.len 11) (wg s d (1#64 <<< c)) ∧
        (match (fmtE f).value (rfn f s a) with
         | .nan q => c = if q then 8 else 9
         | .inf q => c = if q then 0 else 7
         | .fin q 0 _ => c = if q then 3 else 4
         | .fin q (_ + 1) _ => if (fmtE f).subnormal (rfn f s a) then c = (if q then 2 else 5)
             else c = (if q then 1 else 6))) ∧
    (clean s [.g a] = true → exec (.gmvf fm d a) s = retires (fm.len 11) (wf s d (rg s a)))

/-- Comparisons and conversions: where no flag that is raised is enabled, the instruction completes with the predicate
or number of R128 and R130 and `FCSR.FLAGS` takes the flags; where one is, FPE with nothing written. A finite number
becomes the integer that the mode rounds it to, NX where that changes it, or the nearest limit with NV alone; an
infinity gives the limit of its sign and a NaN the largest integer, each with NV (R46, R53, R124, R128, R130). -/
def Obligations.FpCompareAndConvertResults : Prop :=
  ∀ (fm : Form) (cc : Fcc) (f df : Fmt) (iw : IW) (rx d a b : Nat) (s : State),
    clean s [.ctl 0x001] = true →
    let c := fcsrCtl rx s
    let gives (i : Instr) (flags : Nat) (t : State) : Prop :=
      let trapped := flags &&& bits s.ctx.ctl.fcsr 16 5
      (trapped = 0 → exec i s = retires (fm.len 11) (orFlags flags t)) ∧
      (trapped ≠ 0 → exec i s = .next (takeTrap none ⟨0x0C, trapped + 32 * (flags % 32), 0, false, 0⟩ s))
    (clean s [.f a, .f b] = true →
      let x := (fmtE f).source (fcsrCtl 0 s) (rfn f s a)
      let y := (fmtE f).source (fcsrCtl 0 s) (rfn f s b)
      let anyNan := x.isNan || y.isNan
      let signals := x.signalling || y.signalling
      gives (.fcmp fm cc f rx d a b)
        (match cc with
         | .eq | .un => if signals then 16 else 0
         | .lt | .le => if anyNan then 16 else 0)
        (wp s d
          (match cc with
           | .eq => !anyNan && !x.lt y && !y.lt x
           | .lt => !anyNan && x.lt y
           | .le => !anyNan && !y.lt x
           | .un => anyNan))) ∧
    (clean s [.f a] = true →
      let x := (fmtE f).source c (rfn f s a)
      let r := (fmtE df).ofVal c x
      let q := toIntR (match iw with | .int64 => 64 | .int32 => 32) c.rm x
      gives (.fcvt fm df f rx d a) r.flags (wf s d (BitVec.ofNat 64 r.bits)) ∧
      gives (.fcvti fm iw f rx d a) q.2 (wg s d (BitVec.ofInt 64 q.1)) ∧
      (let lim : Int := match iw with | .int64 => 2 ^ 63 | .int32 => 2 ^ 31
       (x.isNan = true → q = (lim - 1, 16)) ∧
       (∀ n, x = .inf n → q = (if n then -lim else lim - 1, 16)) ∧
       (∀ n m e, x = .fin n m e → ∃ i, roundsInt c.rm x.rat i ∧
         q = (if i < -lim then (-lim, 16) else if lim ≤ i then (lim - 1, 16)
           else (i, if (i : ℚ) = x.rat then 0 else 1))))) ∧
    (clean s [.g a] = true →
      let i := match iw with | .int64 => (rg s a).toInt | .int32 => ((rg s a).setWidth 32).toInt
      let r := (fmtE f).ofInt c i
      gives (.icvtf fm iw f rx d a) r.flags (wf s d (BitVec.ofNat 64 r.bits)))

/-! ## Vector instructions -/

/-- What a vector row write leaves: in each band the lanes of the row that are written take their values and the others
keep theirs, the accumulator has the lane type and reaches the row, and every other accumulator and every other row
within the extent is as it was. Arithmetic: each lane is computed on its own, float lanes by the scalar rules, I32 lanes
modulo 2^32; an inactive lane merges or becomes zero, and the flags of active lanes are sticky. That `VAND`, `VOR` and
`VXOR` raise NV for an integer cell that saturates is the model's choice (log 85) (R198 to R201, R204, R205, R211). -/
def Obligations.VectorArithmeticResults : Prop :=
  (∀ (t : Tag) (f : Nat) (outs : List (List (Option Nat))) (s : State),
     let x := windowAcc s f
     let r := f % 64
     let a := s.ctx.acc x
     let b := (vecWrite t f outs s).ctx.acc x
     b.tag = (if a.tag = .empty then t else a.tag) ∧ b.rext = max a.rext (r + 1) ∧ b.cext = t.cols ∧
     (∀ n, n ≠ x → (vecWrite t f outs s).ctx.acc n = s.ctx.acc n) ∧
     (∀ e o, e < s.ctx.aux.gang → outs[e]? = some o → ∀ i, i < t.cols →
       cellAt (b.band e) r i =
         match (o[i]?).getD none with
         | some v => BitVec.ofNat 64 v
         | none => if r < a.rext ∧ i < a.cext then cellAt (a.band e) r i else 0) ∧
     (∀ e p i, e < s.ctx.aux.gang → p ≠ r → p < a.rext → i < a.cext → cellAt (b.band e) p i = cellAt (a.band e) p i)) ∧
  (∀ (fm : Form) (z : Bool) (k d a b : Nat) (t : Tag) (s : State) (j m : Nat),
     startAt fm s = some (j, m) →
     let D := fm.d j d
     let A := laneRow s t.cols (fm.a j a)
     let B := laneRow s t.cols (fm.b j b)
     let C := laneRow s t.cols D
     let act := activeLanes s k t.cols
     let c := fcsrCtl 0 s
     let gives (page : Nat) (row : Nat → List Lane) (i : Instr) : Prop :=
       let rs := (List.range s.ctx.aux.gang).map row
       rowFlags act rs &&& bits s.ctx.ctl.fcsr 16 5 = 0 →
       exec i s = .next (completes fm (fm.len page) j
         (orFlags (rowFlags act rs) (vecWrite t D (rs.map (chosen z act)) s)))
     let two (ff : EFmt → Nat → Nat → FRes) (fi : BitVec 32 → BitVec 32 → BitVec 32) (e : Nat) : List Lane :=
       List.zipWith (fun x y =>
         match tagFmt t with
         | some f => ((ff f x.1 y.1).bits, (ff f x.1 y.1).flags ||| x.2 ||| y.2)
         | none => ((fi (BitVec.ofNat 32 x.1) (BitVec.ofNat 32 y.1)).toNat, x.2 ||| y.2)) (A e) (B e)
     let three (sub : Bool) (e : Nat) : List Lane :=
       List.zipWith (fun (p : Lane × Lane) w =>
         match tagFmt t with
         | some f =>
           let r := f.fmaR c false sub p.1.1 p.2.1 w.1
           (r.bits, r.flags ||| p.1.2 ||| p.2.2 ||| w.2)
         | none =>
           let q := BitVec.ofNat 32 p.1.1 * BitVec.ofNat 32 p.2.1
           let v := BitVec.ofNat 32 w.1
           ((if sub then q - v else q + v).toNat, p.1.2 ||| p.2.2 ||| w.2)) (List.zip (A e) (B e)) (C e)
     let one (ff : EFmt → Nat → Lane) (fi : BitVec 32 → BitVec 32) (e : Nat) : List Lane :=
       (A e).map (fun x =>
         match tagFmt t with
         | some f => ((ff f x.1).1, (ff f x.1).2 ||| x.2)
         | none => ((fi (BitVec.ofNat 32 x.1)).toNat, x.2))
     let bitwise (f : Nat → Nat → Nat) (e : Nat) : List Lane :=
       List.zipWith (fun x y => (f x.1 y.1, x.2 ||| y.2)) (A e) (B e)
     (vecRuns s t [D, fm.a j a, fm.b j b] [] false (some D) [fm.a j a, fm.b j b] [.m k] →
       gives 16 (two (fun f => f.addR c) (· + ·)) (.vadd fm z k d a b) ∧
       gives 16 (two (fun f => f.subR c) (· - ·)) (.vsub fm z k d a b) ∧
       gives 16 (two (fun f => f.mulR c) (· * ·)) (.vmul fm z k d a b) ∧
       gives 16 (two (fun f => f.minmaxR c false) (fun x y => if x.slt y then x else y)) (.vmin fm z k d a b) ∧
       gives 16 (two (fun f => f.minmaxR c true) (fun x y => if x.slt y then y else x)) (.vmax fm z k d a b) ∧
       ((∀ e, e < s.ctx.aux.gang → rowBad s D e = false) →
         gives 16 (three false) (.vfma fm z k d a b) ∧ gives 16 (three true) (.vfms fm z k d a b)) ∧
       (t = .i32 →
         gives 17 (two (fun _ _ _ => ⟨0, 0⟩) (fun x y => x <<< (y.toNat % 32))) (.vshl fm z k d a b) ∧
         gives 17 (two (fun _ _ _ => ⟨0, 0⟩) (fun x y => x.sshiftRight (y.toNat % 32))) (.vshr fm z k d a b))) ∧
     (vecRuns s t [D, fm.a j a, fm.b j b] [] true (some D) [fm.a j a, fm.b j b] [.m k] →
       gives 17 (bitwise (· &&& ·)) (.vand fm z k d a b) ∧
       gives 17 (bitwise (· ||| ·)) (.vor fm z k d a b) ∧
       gives 17 (bitwise (· ^^^ ·)) (.vxor fm z k d a b)) ∧
     (vecRuns s t [D, fm.a j a] [] false (some D) [fm.a j a] [.m k] →
       gives 16 (one (fun f x => (f.mag x, 0)) (fun x => if x.msb then -x else x)) (.vabs fm z k d a) ∧
       gives 16 (one (fun f x => (f.signBit (!f.neg x) + f.mag x, 0)) (fun x => -x)) (.vneg fm z k d a) ∧
       ((tagFmt t).isSome = true →
         gives 21 (one (fun f x => ((f.rcpR c x).bits, (f.rcpR c x).flags)) id) (.vrcpa fm z k d a) ∧
         gives 21 (one (fun f x => ((f.rsqR c x).bits, (f.rsqR c x).flags)) id) (.vrsqa fm z k d a) ∧
         gives 21 (one (fun f x => ((f.exp2R c x).bits, (f.exp2R c x).flags)) id) (.vexp2a fm z k d a) ∧
         gives 21 (one (fun f x => ((f.log2R c x).bits, (f.log2R c x).flags)) id) (.vlog2a fm z k d a))))

/-- Lane movement, conversion, reduction and scan: copies, broadcasts, permutes, rotates, merges; `VRED` writes its
result to every lane; a conversion writes the lanes that have a source. The flags of `VMERGE`, those of its lanes, are
the model's choice (log 85) (R206 to R208, R210). -/
def Obligations.VectorMovementResults : Prop :=
  ∀ (fm : Form) (z hi inv : Bool) (op : Rop) (tg : Tag) (k d a b : Nat) (t : Tag) (s : State) (j m : Nat),
    startAt fm s = some (j, m) →
    let D := fm.d j d
    let n := t.cols
    let A := laneRow s n (fm.a j a)
    let B := laneRow s n (fm.b j b)
    let gb := (rg s (fm.b j b)).toNat
    let bands := List.range s.ctx.aux.gang
    let act := activeLanes s k n
    let all := List.replicate n true
    let at_ (l : List Lane) (i : Nat) : Lane := (l[i]?).getD (0, 0)
    let gives (page : Nat) (zero : Bool) (on : List Bool) (row : Nat → List Lane) (i : Instr) : Prop :=
      let rs := bands.map row
      rowFlags on rs &&& bits s.ctx.ctl.fcsr 16 5 = 0 →
      exec i s = .next (completes fm (fm.len page) j
        (orFlags (rowFlags on rs) (vecWrite t D (rs.map (chosen zero on)) s)))
    (vecRuns s t [D, fm.a j a] [] false (some D) [fm.a j a] [.m k] →
      gives 23 z act A (.vmov fm z k d a)) ∧
    (vecRuns s t [D, fm.a j a] [] false (some D) [fm.a j a] [.m k, .g (fm.b j b)] →
      gives 18 z act (fun e => List.replicate n (at_ (A e) (gb % n))) (.vbcl fm z k d a b) ∧
      gives 18 z act (fun e => (A e).drop (gb % n) ++ (A e).take (gb % n)) (.vrot fm z k d a b)) ∧
    (vecRuns s t [D, fm.a j a] [fm.b j b] false (some D) [fm.a j a, fm.b j b] [.m k] →
      gives 18 z act (fun e => (B e).map (fun y => ((at_ (A e) (y.1 % n)).1, (at_ (A e) (y.1 % n)).2 ||| y.2)))
        (.vperm fm z k d a b)) ∧
    (vecRuns s t [D, fm.a j a, fm.b j b] [] false (some D) [fm.a j a, fm.b j b] [.m k] →
      gives 20 false all
        (fun e => List.zipWith (fun (p : Lane × Lane) (g : Bool) => if g ^^ inv then p.1 else p.2) (List.zip (A e) (B e)) act)
        (.vmerge fm inv k d a b)) ∧
    (vecRuns s t [D, fm.a j a] [] false (some D) [fm.a j a] [.m (fm.b j b)] →
      let on := activeLanes s (fm.b j b) n
      gives 19 false all (fun e => redRow op t (fcsrCtl 0 s) on (A e)) (.vred fm op d a b) ∧
      (let rs := bands.map (fun e => scanRow op t (fcsrCtl 0 s) z on (A e))
       let fl := rs.foldl (fun f r => f ||| r.2) 0
       fl &&& bits s.ctx.ctl.fcsr 16 5 = 0 →
       exec (.vscan fm z op d a b) s = .next (completes fm (fm.len 19) j
         (orFlags fl (vecWrite t D (rs.map (·.1)) s))))) ∧
    (tileReady s → clean s [.m (fm.b j b), .ctl 0x002, .ctl 0x001] = true →
      (∀ e, e < s.ctx.aux.gang → rowBad s (fm.a j a) e = false) →
      let st := laneTag s (fm.a j a)
      convertOk st tg (s.ctx.acc (windowAcc s D)).tag hi = true →
      let on := activeLanes s (fm.b j b) tg.cols
      let rs := bands.map (fun e => List.zipWith (fun g (x : Option Lane) => if g then x else none) on
        (convertRow (fcsrCtl 0 s) st tg hi (laneRow s st.cols (fm.a j a) e)))
      let fl := rs.foldl (fun f l => l.foldl (fun f x => f ||| (x.map (·.2)).getD 0) f) 0
      fl &&& bits s.ctx.ctl.fcsr 16 5 = 0 →
      exec (.vcvt fm hi tg d a b) s = .next (completes fm (fm.len 17) j
        (orFlags fl (vecWrite tg D (rs.map (fun l => l.map (fun x => x.map (·.1)))) s))))

/-- Windows, comparisons, masks and moves to scalar registers: `VWIN` sets both windows; `VCMP` writes one mask bit for
each lane it compares and clears the others; `VMLOG` and `VMPOPC` work on masks; `VMOVG` and `VMOVF` take one lane of
band 0, sign-extended from I32 into a `g` register (R203, R209, R210, R212). -/
def Obligations.VectorMaskResults : Prop :=
  ∀ (fm : Form) (z u : Bool) (cc : Vcc) (op : Mop) (k d a b : Nat) (t : Tag) (s : State) (j m : Nat),
    startAt fm s = some (j, m) →
    let c := fcsrCtl 0 s
    let enabled := bits s.ctx.ctl.fcsr 16 5
    (inService s = .ok () →
      exec (.vwin fm d a) s = retires (fm.len 16)
        { s with ctx.ctl.tctl := putBits (putBits s.ctx.ctl.tctl 24 3 d) 27 3 a } ∧
      (clean s [.m a] = true → exec (.vmpopc fm d a) s = retires (fm.len 20) (wg s d ((rm s a).cpop.setWidth 64))) ∧
      (clean s [.m a, .m b] = true → exec (.vmlog fm op d a b) s = retires (fm.len 20) (wm s d
        (match op with
         | .and => rm s a &&& rm s b
         | .or => rm s a ||| rm s b
         | .xor => rm s a ^^^ rm s b
         | .andn => rm s a &&& ~~~rm s b)))) ∧
    (vecRuns s t [fm.a j a, fm.b j b] [] false none [] [] → cmpOk u cc t = true →
      rowBad s (fm.a j a) 0 = false → rowBad s (fm.b j b) 0 = false →
      let r := List.zipWith (laneCmp cc u t c) (cmpLanes t u (laneRow s t.cols (fm.a j a) 0))
        (cmpLanes t u (laneRow s t.cols (fm.b j b) 0))
      let fl := r.foldl (fun f x => f ||| x.2) 0
      fl &&& enabled = 0 →
      ∃ v : BitVec 128, exec (.vcmp fm u cc d a b) s =
          .next (completes fm (fm.len 20) j (orFlags fl (wm s (fm.d j d) v))) ∧
        ∀ i, i < 128 → v.getLsbD i = ((r[i]?).map (·.1)).getD false) ∧
    (vecRuns s t [fm.a j a] [] false none [] [.m k, .g (fm.b j b)] → rowBad s (fm.a j a) 0 = false →
      let q := (rg s (fm.b j b)).toNat % t.cols
      let x : Lane := if ((activeLanes s k t.cols)[q]?).getD false
        then ((laneRow s t.cols (fm.a j a) 0)[q]?).getD (0, 0) else (0, 0)
      x.2 &&& enabled = 0 →
      let keeps := !((activeLanes s k t.cols)[q]?).getD false && !z
      exec (.vmovg fm z k d a b) s = .next (completes fm (fm.len 23) j
        (if keeps then s else orFlags x.2 (wg s (fm.d j d)
          (if t = .i32 then (BitVec.ofNat 32 x.1).signExtend 64 else BitVec.ofNat 64 x.1)))) ∧
      exec (.vmovf fm z k d a b) s = .next (completes fm (fm.len 23) j
        (if keeps then s else orFlags x.2 (wf s (fm.d j d) (BitVec.ofNat 64 x.1)))))

/-- Vector memory accesses of band 0: lane i lies at g_a + 512 × immediate + i × width, at g_a + i × g_b, or at g_a plus
its sign-extended offset lane. A load whose active lanes can all be read writes its row; a store whose active lanes all
pass their checks stores their little-endian bytes (R199, R213 to R215). -/
def Obligations.VectorMemoryResults : Prop :=
  ∀ (fm : Form) (z : Bool) (k d a b : Nat) (imm : Int) (t : Tag) (s s1 s2 : State) (out : List (Option Nat))
    (ps : List (Nat × List Byte)) (v : List Byte) (j k0 : Nat),
    startAt fm s = some (j, k0) →
    let D := fm.d j d
    let w := laneBits t / 8
    let act := activeLanes s k t.cols
    let enabled := bits s.ctx.ctl.fcsr 16 5
    let row := laneRow s t.cols D 0
    let offs := laneRow s t.cols (fm.b j b) 0
    let unit (i : Nat) : Word := rg s (fm.a j a) + BitVec.ofInt 64 (fm.i j imm * 512) + BitVec.ofNat 64 (i * w)
    let strided (i : Nat) : Word := rg s (fm.a j a) + BitVec.ofNat 64 i * rg s (fm.b j b)
    let indexed (i : Nat) : Word :=
      rg s (fm.a j a) + BitVec.ofInt 64 (sext ((offs[i]?).getD (0, 0)).1 (laneBits t))
    let loads (addr : Nat → Word) (fl : Nat) (i : Instr) : Prop :=
      k0 < t.cols → fl &&& enabled = 0 →
      loadLanes addr w z (fun o s => commitLanes t D [o] s) (act.drop k0) k0 (List.replicate k0 none) s = .ok (s1, out) →
      exec i s = .next (completes fm (fm.len 22) j (orFlags fl (vecWrite t D [out] s1)))
    let stores (addr : Nat → Word) (fl : Nat) (i : Instr) : Prop :=
      fl &&& enabled = 0 → rowBad s D 0 = false →
      checkLanes addr w (List.zip act row) 0 s = .ok (s1, ps) →
      storePieces ps s1 = .ok s2 →
      exec i s = .next (completes fm (fm.len 22) j (orFlags fl s2))
    (vecRuns s t [D] [] false (some D) [] [.m k, .g (fm.a j a)] → loads unit 0 (.vld fm z k d a imm)) ∧
    (vecRuns s t [D] [] false (some D) [] [.m k, .g (fm.a j a), .g (fm.b j b)] →
      loads strided 0 (.vlds fm z k d a b)) ∧
    (vecRuns s t [D] [fm.b j b] false (some D) [] [.m k, .g (fm.a j a)] → rowBad s (fm.b j b) 0 = false →
      loads indexed (laneFlags act offs) (.vgath fm z k d a b)) ∧
    (vecRuns s t [D] [] false none [] [.m k, .g (fm.a j a)] →
      stores unit (laneFlags act row) (.vst fm z k d a imm)) ∧
    (vecRuns s t [D] [] false none [] [.m k, .g (fm.a j a), .g (fm.b j b)] →
      stores strided (laneFlags act row) (.vsts fm z k d a b)) ∧
    (vecRuns s t [D] [fm.b j b] false none [] [.m k, .g (fm.a j a)] → rowBad s (fm.b j b) 0 = false →
      stores indexed (laneFlags act row ||| laneFlags act offs) (.vscat fm z k d a b)) ∧
    (vecRuns s t [D] [] false (some D) [] [.m k, .g (fm.a j a), .g (fm.b j b)] → k0 < t.cols →
      let spread (x : Nat) (u : State) : State :=
        vecWrite t D (List.replicate s.ctx.aux.gang (List.replicate k0 none ++
          (chosen z act (List.replicate t.cols (x, 0))).drop k0)) u
      ((∃ i : Nat, k0 ≤ i ∧ i < t.cols ∧ act[i]? = some true) →
        loadScalar false .row (rg s (fm.a j a) + rg s (fm.b j b) * BitVec.ofNat 64 w) w s = .ok (s1, v) →
        exec (.vbcast fm z k d a b) s = .next (completes fm (fm.len 18) j (spread (natOfBytes v) s1))) ∧
      ((∀ i : Nat, k0 ≤ i → i < t.cols → act[i]? = some false) →
        exec (.vbcast fm z k d a b) s = .next (completes fm (fm.len 18) j (spread 0 s))))

/-! ## Tile instructions -/

/-- `TLD` and `TLDS` whose rows can all be read, row i at base + i × stride: the name holds the rows from the first one
not yet loaded on, each zero-extended, in band order, with their side-store rows for `TLDS` (R163 to R165, R168). -/
def Obligations.TileLoadResults : Prop :=
  ∀ (fm : Form) (b0 : Bool) (sx : SxK) (rows bytes d a b : Nat) (s : State) (σ : Nat → State) (v : Nat → List Byte)
    (x : Nat → LoadedRow) (j k : Nat),
    startAt fm s = some (j, k) → tileReady s → σ k = s → clean s [.g (fm.a j a), .g (fm.b j b)] = true →
    let A := fm.a j a
    let B := fm.b j b
    let total := if b0 then rows else rows * s.ctx.aux.gang
    k < total →
    ((∀ i, k ≤ i → i < total →
        loadRow 8 (rg s A + BitVec.ofNat 64 i * rg s B) bytes (σ i) = .ok (σ (i + 1), v i)) →
      ∃ T, exec (.tld fm b0 rows bytes d a b) s =
          .next (completes fm (fm.len 24) j (putTile (fm.d j d) T (σ total))) ∧ T.length = s.ctx.aux.gang ∧
        ∀ e i, e < s.ctx.aux.gang → i < rows → k ≤ e * rows + i → e * rows + i < total →
          (tileBand T e).rows.length = rows ∧ (tileBand T e).side = none ∧
          (tileBand T e).row i = rowOfBytes (v (e * rows + i))) ∧
    (clean s [.g (A + 1), .g (B + 1)] = true →
      (∀ i, k ≤ i → i < total →
        loadSxRow sx (rg s A + BitVec.ofNat 64 i * rg s (A + 1)) (rg s B + BitVec.ofNat 64 i * rg s (B + 1)) i (σ i) =
          .ok (σ (i + 1), x i)) →
      ∃ T, exec (.tlds fm b0 sx rows d a b) s =
          .next (completes fm (fm.len 24) j (putTile (fm.d j d) T (σ total))) ∧ T.length = s.ctx.aux.gang ∧
        ∀ e i, e < s.ctx.aux.gang → i < rows → k ≤ e * rows + i → e * rows + i < total →
          (tileBand T e).rows.length = rows ∧ (tileBand T e).row i = (x (e * rows + i)).row ∧
          ∃ y, (tileBand T e).side = some y ∧ y.kind = sx ∧ y.rows[i]? = some (x (e * rows + i)).side)

/-- `TSTO`, `TDRAIN` and `TDRAINT` whose rows pass every check before a byte is written: a tile's rows go to base +
i × stride; a drain writes the accumulator's rows in its output format, ORs its flags, advances the LFSR and, with
FREE, empties the accumulator; a tag that does not accept the format raises ILL. A drain's rows, in a format other than
SX and without stochastic rounding, counted across the bands: row i at base + i × stride, its elements packed
little-endian, each the cell times the scale, converted with the controls of `TCTL`; the columns as rows in the
transposed copy (R166, R168, R183 to R186). -/
def Obligations.TileStoreResults : Prop :=
  ∀ (fm : Form) (rows bytes fs ft d a b : Nat) (o o2 : OFmt) (free : Bool) (s s1 : State) (j k : Nat),
    startAt fm s = some (j, k) →
    let A := fm.a j a
    let B := fm.b j b
    let D := fm.d j d
    let tag := (s.ctx.acc D).tag
    let ill : Out := .next (takeTrap (if fm.rep.isSome then some (fm.count - j) else none) (illTrap s) s)
    let drained (x : List OutRow × Nat × BitVec 32) : State :=
      let t := orFlags x.2.1 { s1 with ctx.ctl.lfsr := x.2.2 }
      if free then putAcc D Acc.empty t else t
    (tileReady s → clean s [.g A, .g B] = true →
      (∀ e r, e < s.ctx.aux.gang → r < rows → (tileBand (seenTile s D) e).bad.contains r = false) →
      blockStore ((List.range (rows * s.ctx.aux.gang)).map (fun i =>
        ⟨rg s A + BitVec.ofNat 64 i * rg s B,
          (bytesOfRow ((tileBand (seenTile s D) (i / rows)).row (i % rows))).take bytes, 8, false⟩)) s = .ok s1 →
      exec (.tsto fm rows bytes d a b) s = .next (completes fm (fm.len 24) j s1)) ∧
    (inService s = .ok () → accepts tag o = false → exec (.tdrain fm o free fs d a b) s = ill) ∧
    (inService s = .ok () → (accepts tag o = false ∨ accepts tag o2 = false) →
      exec (.tdraint fm o o2 free fs ft d a b) s = ill) ∧
    (tileReady s → accepts tag o = true →
      clean s ([.g A, .g B, .ctl 0x002] ++ (if fs = 0 then [] else [.f fs])) = true →
      (o.isSx = true → clean s [.g (A + 1), .g (B + 1)] = true) →
      let x := drainRows s (seenAcc s D) o none fs 0 (rg s A) (rg s B) (rg s (A + 1)) (rg s (B + 1))
      blockStore x.1 s = .ok s1 →
      exec (.tdrain fm o free fs d a b) s = .next (completes fm (fm.len 24) j (drained x))) ∧
    (tileReady s → accepts tag o = true → accepts tag o2 = true →
      clean s ([.g A, .g B, .g (A + 1), .g (B + 1), .ctl 0x002] ++ (if fs = 0 then [] else [.f fs]) ++
        (if ft = 0 then [] else [.f ft])) = true →
      let x := drainRows s (seenAcc s D) o (some o2) fs ft (rg s A) (rg s B) (rg s (A + 1)) (rg s (B + 1))
      blockStore x.1 s = .ok s1 →
      exec (.tdraint fm o o2 free fs ft d a b) s = .next (completes fm (fm.len 24) j (drained x))) ∧
    (∀ (c : Acc) (va st va1 st1 : Word), c.tag ≠ .empty → o.isSx = false → o2.isSx = false →
      bits s.ctx.ctl.tctl 17 3 ≠ 5 →
      let n := c.bands.length * c.rext
      let elem (o : OFmt) (fs i q : Nat) : List Byte :=
        let v := (readCell (tileCtl s) c.tag (cellAt (c.band (i / c.rext)) (i % c.rext) q)).1
        let v := if fs = 0 then v else mulVal v (EFmt.fp32.source (tileCtl s) ((rf s fs).toNat % 2 ^ 32))
        match outKind o with
        | .float f => bytesOfNat (f.bits / 8) (f.ofVal (tileCtl s) v).bits
        | .int w => bytesOfNat (w / 8) ((toIntR w (tileCtl s).rm v).1 % 2 ^ w).toNat
        | .sx _ => []
      let direct (x : List OutRow) : Prop := ∀ i, i < n → ∃ p, x[i]? = some p ∧
        p.va = va + BitVec.ofNat 64 i * st ∧ p.data = (List.range c.cext).flatMap (elem o fs i)
      (let x := drainRows s c o none fs 0 va st va1 st1
       x.1.length = n ∧ x.2.2 = s.ctx.ctl.lfsr ∧ direct x.1) ∧
      (let x := drainRows s c o (some o2) fs ft va st va1 st1
       x.1.length = n + c.cext ∧ x.2.2 = s.ctx.ctl.lfsr ∧ direct x.1 ∧
       ∀ q, q < c.cext → ∃ p, x.1[n + q]? = some p ∧ p.va = va1 + BitVec.ofNat 64 q * st1 ∧
         p.data = (List.range n).flatMap (fun i => elem o2 ft i q)))

/-- Clearing, moving and freeing names, gangs, control and queries. `TZERO` gives a tile no rows and an accumulator a
tag with every cell zero; `TMOV` copies, converting an INT accumulator to I32; `TGANG` frees every name and sets the
gang size once every engine accepts; `TFREE` empties a run of names; `TCTL` seeds and reads the LFSR, zero seeding 1;
`TQRY.free` gives the least number of entries free in the engines of the gang. That `TSYNC` and `TCTL` wait for no gang
and no extension of a restored context is the model's choice (log 83) (R58, R175, R187 to R192). -/
def Obligations.TileNameResults : Prop :=
  ∀ (fm : Form) (tag : Tag) (d a g : Nat) (s : State) (j k : Nat),
    startAt fm s = some (j, k) → inService s = .ok () → s.ctx.aux.evicted = [] → s.ctx.aux.extPending = none →
    s.ctx.aux.regang = none → pinned s = none →
    let D := fm.d j d
    let A := fm.a j a
    let src := s.ctx.acc A
    let gives (t : State) : Out := .next (completes fm (fm.len 24) j t)
    let moves (dt : Tag) : State :=
      if src.tag = .empty then putAcc D Acc.empty s
      else if src.tag = dt then putAcc D src s
      else orFlags (convertAcc (tileCtl s) src dt).2 (putAcc D (convertAcc (tileCtl s) src dt).1 s)
    exec (.tzero fm .tile d) s = gives (putTile D (List.replicate s.ctx.aux.gang Tile.empty) s) ∧
    exec (.tzero fm (.acc tag) d) s = gives (putAcc D
      (if tag = .empty then Acc.empty else ⟨tag, 64, tag.cols, List.replicate s.ctx.aux.gang [], [], []⟩) s) ∧
    ((s.ctx.tile A).all (fun b => b.bad.isEmpty) = true →
      exec (.tmov fm .tile d a) s = gives (putTile D (s.ctx.tile A) s)) ∧
    (src.poisoned = false →
      (src.tag = .empty ∨ src.cext ≤ (if src.tag = .int then Tag.i32 else src.tag).cols →
        exec (.tmov fm .acc d a) s = gives (moves (if src.tag = .int then .i32 else src.tag))) ∧
      (src.tag = .empty ∨ src.cext ≤ tag.cols → clean s [.ctl 0x002] = true →
        exec (.tmov fm (.convert tag) d a) s = gives (moves tag))) ∧
    (D ≤ A → ∃ t u, exec (.tfree fm true d a) s = gives t ∧ exec (.tfree fm false d a) s = gives u ∧
      (∀ n, n < 8 → t.ctx.acc n = if D ≤ n ∧ n ≤ A then Acc.empty else s.ctx.acc n) ∧ t.ctx.t = s.ctx.t ∧
      (∀ n, n < 16 → u.ctx.tile n =
        if D ≤ n ∧ n ≤ A then List.replicate s.ctx.aux.gang Tile.empty else s.ctx.tile n) ∧ u.ctx.c = s.ctx.c) ∧
    ((g = 1 ∨ g = 2 ∨ g = 4) → (∀ n ∈ gangOf s g, (engineAt s n).quarantined = false) →
      gangAccepted s g = true → ∃ t, exec (.tgang fm g) s = retires (fm.len 24) t ∧ t.ctx.aux.gang = g ∧
        (∀ n, n < 16 → t.ctx.tile n = List.replicate g Tile.empty) ∧ (∀ n, n < 8 → t.ctx.acc n = Acc.empty)) ∧
    (storesPerformed 2 s = true → exec (.tsync fm) s = retires (fm.len 24) s) ∧
    (clean s [.g d] = true → exec (.tctlSeed fm d) s = retires (fm.len 24)
      { s with ctx.ctl.lfsr := if (rg s d).setWidth 32 = 0#32 then 1 else (rg s d).setWidth 32 }) ∧
    exec (.tctlRd fm d) s = retires (fm.len 24) (wg s d (s.ctx.ctl.lfsr.setWidth 64)) ∧
    exec (.tctlClr fm) s = retires (fm.len 24) { s with ctx.aux.corrections := 0, ctx.aux.unchecked := false } ∧
    exec (.tqryRows fm d a) s =
      retires (fm.len 24) (wg s d (BitVec.ofNat 64 (tileBand (s.ctx.tile a) 0).rows.length)) ∧
    exec (.tqryAcc fm d a) s = retires (fm.len 24) (wg s d (BitVec.ofNat 64
      ((s.ctx.acc a).tag.code + (s.ctx.acc a).rext * 2 ^ 8 + (s.ctx.acc a).cext * 2 ^ 16))) ∧
    exec (.tqryCell fm d a) s = retires (fm.len 24) (wg s d (BitVec.ofNat 64 (accEntries (s.ctx.acc a)))) ∧
    exec (.tqryGang fm d) s = retires (fm.len 24) (wg s d (BitVec.ofNat 64 s.ctx.aux.gang)) ∧
    exec (.tqryCorr fm d) s = retires (fm.len 24) (wg s d s.ctx.aux.corrections) ∧
    exec (.tqryUnck fm d) s = retires (fm.len 24) (wg s d (if s.ctx.aux.unchecked then 1 else 0)) ∧
    ∃ n, n ≤ 256 ∧ exec (.tqryFree fm d) s = retires (fm.len 24) (wg s d (BitVec.ofNat 64 n)) ∧
      (∀ e ∈ myEngines s, n ≤ entriesFree s s.pid e) ∧ (n = 256 ∨ ∃ e ∈ myEngines s, n = entriesFree s s.pid e)

/-- A `TMMA` that passes its checks, finds room in the cellar and meets no fault of the array writes what the array
computes; a carry without room raises CARRY at once under TRAP, its DETAIL the accumulator, and a stall that has reached
its limit raises CARRY with DETAIL [3] set. An INT8 or INT4 `TMMA` is exact: each cell's folded value grows by the sum
over the slabs of the products of its A row and its B row, whatever carries it takes. A cell of any other pair goes
through the slabs in order, step by step. A step of finite values adds the sum of the products times the scale to the
cell and rounds once, to nearest: the sum of FP32 steps is taken in the 72-bit window, that of FP64 steps exactly; a NaN
gives the canonical NaN. The order of carries within a slab (log 84), the entries a stalled `TMMA` has taken (log 12)
and the checks of a floating-point run that no fault hits (log 54) are the model's choices; the sign of a zero where acc
is −0 is left out (log 81) (R55 to R57, R159, R170, R171, R177, R180, R377). -/
def Obligations.TmmaResults : Prop :=
  (∀ (fm : Form) (pr : Pair) (wide : Bool) (n fs d a b : Nat) (s : State) (j k : Nat),
     startAt fm s = some (j, k) → tileReady s → clean s ((if fs = 0 then [] else [.f fs]) ++ [.ctl 0x002]) = true →
     let op (chained : Bool) : TmmaOp := tmmaOp pr wide chained n fs (fm.d j d) (fm.a j a) (fm.b j b) s
     let i (chained : Bool) : Instr :=
       if chained then .tmmaChained fm pr wide n fs d a b else .tmma fm pr wide n fs d a b
     let page (chained : Bool) : Nat := if chained then 25 else 24
     ∀ chained : Bool, tmmaIll (op chained) (fm.a j a) (fm.b j b) = false → tmmaPoisoned (op chained) = false →
       ((∀ y, s.ctx.aux.sent ≠ .timedOut y) → stuckAt (runTmmaOp (op chained)).takes (freeByBand s) = none →
         faultFree s (op chained) (runTmmaOp (op chained)) = true →
         (pairTag pr = .int ∨
           allPass (op chained) (runTmmaOp (op chained)) (runTmmaOp (op chained)).cells = true) →
         exec (i chained) s = .next (completes fm (fm.len (page chained)) j
           (retireTmma (op chained) (runTmmaOp (op chained)) (runTmmaOp (op chained)).cells 0 (wearEngines s)))) ∧
       ((∀ y, s.ctx.aux.sent ≠ .timedOut y) → s.ctx.ctl.tctl.getLsbD 16 = true →
         ∀ x held, stuckAt (runTmmaOp (op chained)).takes (freeByBand s) = some (x, held) →
         exec (i chained) s = .next (takeTrap (if fm.rep.isSome then some (fm.count - j) else none)
           ⟨0x0D, x % 8, 0, false, 0⟩ s)) ∧
       (∀ y, s.ctx.aux.sent = .timedOut y →
         exec (i chained) s = .next (takeTrap (if fm.rep.isSome then some (fm.count - j) else none)
           ⟨0x0D, 8 + y % 8, 0, false, 0⟩ s))) ∧
  (∀ (o : TmmaOp) (x e i q : Nat),
     pairTag o.pair = .int → x < destCount .int (tilesCols o.b) → e < o.gang → i < opRows o →
     q < destCols .int (tilesCols o.b) x →
     cellAt (((((runTmmaOp o).cells[x]?).getD [])[e]?).getD []) i q =
       oldCell o x e i q + BitVec.ofInt 64 ((List.range o.k).map (fun j =>
         (List.zipWith (· * ·) (slabRow (opAInt o e).1 j i) (slabRow (opBInt o) j (x * 128 + q))).sum)).sum) ∧
  (∀ (o : TmmaOp) (x e i q : Nat),
     let tag := pairTag o.pair
     let f : EFmt := if tag = .fp64 then .fp64 else .fp32
     tag ≠ .int → x < destCount tag (tilesCols o.b) → e < o.gang → i < opRows o →
     q < destCols tag (tilesCols o.b) x →
     cellAt (((((runTmmaOp o).cells[x]?).getD [])[e]?).getD []) i q =
       BitVec.ofNat 64 ((List.range o.k).foldl (fun acc j =>
         (floatStep f (decide (f = .fp32)) (opCtl o) (opScale o) acc
           (slabRow (opAFloat o e).1 j i) (slabRow (opBFloat o) j (x * tag.cols + q))).bits) (oldCell o x e i q).toNat)) ∧
  (∀ (win : Bool) (c : FpCtl) (v : FVal) (acc : Nat) (a b : List FVal),
     let f : EFmt := if win then .fp32 else .fp64
     let x := f.source c acc
     let all := x :: v :: (a ++ b)
     let r := floatStep f win c v acc a b
     (all.any FVal.isNan = true → r = ⟨f.nanBits, if all.any FVal.signalling then 16 else 0⟩) ∧
     ((∀ y ∈ all, ∃ n m e, y = .fin n m e) → a.length = b.length →
       let ps := List.zipWith (fun y z => y.rat * z.rat) a b
       ∀ emax : Int, ((∀ p ∈ ps, |p| < 2 ^ (emax + 1)) ∧ (∃ p ∈ ps, 2 ^ emax ≤ |p|)) ∨ (∀ p ∈ ps, p = 0) →
       let t : ℚ := 2 ^ (emax - 72)
       let sum : ℚ := if win then (ps.map (fun p => (if p < 0 then -1 else 1) * t * (⌊|p| / t⌋ : ℚ))).sum else ps.sum
       let y := x.rat + sum * v.rat
       f.roundsRat { c with rm := .rne } y r ∧
       (y = 0 → (x.isZero && x.neg) = false → r = ⟨0, 0⟩)))

/-! ## Copy engine -/

/-- A command instruction reads its 64-byte descriptor; it writes the number of the first check that fails, or 0 and the
command is in flight with its range locks, its completion word, where it has one, set to 1. `XDRAIN` completes when no
command of its class is in flight and the writes of those that have ended are performed, class pkg with a clearing; `XCANCEL` cancels the thread's commands with a
completion-word address, or all of them, and counts them (R219 to R221, R229, R232, R233, R262). -/
def Obligations.CopyCommandResults : Prop :=
  (∀ (fm : Form) (llc : Bool) (d a : Nat) (s s1 : State) (bytes : List Byte),
     clean s [.g a] = true → loadRow 64 (rg s a) 64 s = .ok (s1, bytes) →
     ∀ op i, (op, i) ∈ [(CmdOp.copy, Instr.xcopy fm d a), (.copy2, .xcopy2 fm d a), (.gather, .xgath fm d a),
         (.scatter, .xscat fm d a), (.fill, .xfill fm d a), (.warm llc, .xwarm fm llc d a),
         (.collective 0, .xcollAr fm d a), (.collective 1, .xcollAg fm d a), (.collective 2, .xcollRs fm d a),
         (.collective 3, .xcollBc fm d a)] →
       let x := (readDesc bytes).1
       let chk := firstFailing s1 s1.ctx.prv.gtid s1.pid op x (readDesc bytes).2
       (chk ≠ 0 → exec i s = retires (fm.len 28) (wg s1 d (BitVec.ofNat 64 chk))) ∧
       (∀ s2 pa, chk = 0 →
         (x.cw = 0 ∧ s2 = s1) ∨ (x.cw ≠ 0 ∧ reaches .store x.cw 8 s1 s2 pa ∧ s2.core.sb.length < 96) →
         canIssue s2 (cmdLocks s2 s2.ctx.prv.gtid op x) = true →
         let s3 := if x.cw = 0 then s2 else stored pa (bytesOfNat 8 1) 0xFF s2
         ∃ t, exec i s = retires (fm.len 28) (wg t d 0) ∧ t.core.sb = s3.core.sb ∧
           (∃ c, t.copy.cmds = s3.copy.cmds ++ [c] ∧ c.op = op ∧ c.desc = x ∧ c.gtid = s2.ctx.prv.gtid ∧
             c.core = s2.cur) ∧
           ∀ r ∈ cmdLocks s2 s2.ctx.prv.gtid op x, t.copy.locks.any (fun l =>
             l.gtid = s2.ctx.prv.gtid ∧ l.lo = r.1.lo.toNat ∧ l.hi = r.1.hi.toNat ∧ l.kind = r.2) = true)) ∧
  (∀ (fm : Form) (mc : Mc) (d a : Nat) (s : State),
     ((cmdsOf s s.ctx.prv.gtid).any (inClass (match mc with | .loc => 0 | .pkg => 1 | .dev => 2 | .host => 3)) = false →
       endedPerformed s.ctx.prv.gtid s = true →
       (mc ≠ .pkg → exec (.xdrain fm mc) s = retires (fm.len 28) s) ∧
       (mc = .pkg → clearingHeld s.coh s.die = false →
         exec (.xdrain fm mc) s = retires (fm.len 28) { s with coh := bumpGeneration s.die s.coh })) ∧
     (clean s [.g a] = true → threadStoresDone s.ctx.prv.gtid s = true →
       let l := (cmdsOf s s.ctx.prv.gtid).filter (fun c => decide (rg s a = 0 ∨ c.desc.cw = rg s a))
       l.any (fun c => wordHeld c s) = false →
       ∃ t, exec (.xcancel fm d a) s = retires (fm.len 28) (wg t d (BitVec.ofNat 64 l.length)) ∧
         ∀ c ∈ t.copy.cmds, ∀ y ∈ l, c.id ≠ y.id))

/-- The steps of a command in flight: at its start the engine performs its accesses and it has an outcome, a fill within
one line writing the bytes of P0 in turn, a warming of another die's line leaving a fresh copy, unless one of them has to
wait; one whose destination is to be undefined goes on once it is; at its end the command and its locks are gone and its
completion word, where that translates then, holds its code; no step of a command that does not exist or may not go on
changes anything. The events of tile work: a gang whose engines have all accepted is
granted, one of which some have keeps their acceptances, a stalled `TMMA` goes on where the free entries let it get
beyond the step at which it stopped, as they do where every carry finds room, and one that resumes or times out runs
again at the program counter; each changes nothing where no such instruction waits. The model's choices: a transfer's
accesses are one step (log 28), the copy that a warming leaves is on the issuing die and fresh (log 87), a stall ends as
said (logs 12 and 55), and the completion word's address is translated at the end (log 75) (R161, R180, R222, R225,
R226, R229, R230, R365). -/
def Obligations.EngineEvents : Prop :=
  (∀ (n : Nat) (s : State),
     (s.copy.cmds.find? (fun c => c.id = n) = none →
       exec (.copyCommandStart n) s = .next s ∧ exec (.copyCommandEnd n) s = .next s) ∧
     (∀ c, s.copy.cmds.find? (fun c => c.id = n) = some c →
       (canStart s c = false → exec (.copyCommandStart n) s = .next s) ∧
       (canEnd s c = false → exec (.copyCommandEnd n) s = .next s) ∧
       (canStart s c = true →
         ∃ t, exec (.copyCommandStart n) s = .next t ∧
           ((∀ a u, runCommand c s ≠ .error (0, a, u)) →
             (c.raced ≠ [] ∧ t = s) ∨
               (t.copy.cmds.any (fun y => decide (y.id = n) && y.outcome.isSome)) = true) ∧
           ((∃ a u, runCommand c s = .error (0, a, u)) → t = s) ∧
           ∀ pa s1, c.op = .fill → c.raced = [] → s.memOk → 0 < c.desc.len.toNat →
             c.desc.dst.toNat % 128 + c.desc.len.toNat ≤ 128 → c.desc.dst.toNat + c.desc.len.toNat < 2 ^ 64 →
             engTranslate c.space .store c.desc.dst.toNat c.desc.len.toNat s = .ok (s1, pa) → s1.mem = s.mem →
             deliverCode pa s1 = none → isHostWin pa = false → localMem s1 pa = true → homeDie pa = c.core / 64 →
             tokensHeld s1.coh c.core (lineOf pa) = false →
             ∀ i, i < c.desc.len.toNat →
               memRead t.mem (pa + i) = BitVec.ofNat 8 (c.desc.p0.toNat / 256 ^ (i % 8))) ∧
       (canStart s c = true → ∀ pa s1, c.op = .warm false → c.raced = [] → 0 < c.desc.len.toNat →
         c.desc.src.toNat % 128 + c.desc.len.toNat ≤ 128 →
         engTranslate c.space .load c.desc.src.toNat 1 s = .ok (s1, pa) → pa % 128 = c.desc.src.toNat % 128 →
         localMem s1 (lineOf pa * 128) = true → homeDie (lineOf pa * 128) ≠ c.core / 64 →
         tokensHeld s1.coh c.core (lineOf pa) = false → deadHome s1 (lineOf pa * 128) = false →
         ∃ t x, exec (.copyCommandStart n) s = .next t ∧ freshCopy t.coh (c.core / 64) (lineOf pa) = some x) ∧
       (c.scrambles = true → canEnd s c = true → ∃ t, exec (.copyCommandEnd n) s = .next t ∧
         ((∃ a u, scrambleDst c s = .error (a, u)) → t = s) ∧
         ∀ s1, scrambleDst c s = .ok (s1, ()) → t.mem = s1.mem ∧
           t.copy.cmds = s1.copy.cmds.map (fun y => if y.id = c.id then { c with scrambles := false } else y)) ∧
       (∀ code addr, c.outcome = some (code, addr) → c.scrambles = false → canEnd s c = true →
         ∃ t, exec (.copyCommandEnd n) s = .next t ∧
           (∀ y ∈ t.copy.cmds, y.id ≠ n) ∧ (∀ l ∈ t.copy.locks, l.cmd ≠ n) ∧
           (∀ s1 pa, c.cw.isSome = true →
             engTranslate c.space .store c.desc.cw.toNat 8
               { s with
                 copy.cmds := s.copy.cmds.filter (fun x => x.id ≠ c.id)
                 copy.locks := s.copy.locks.filter (fun l => l.cmd ≠ c.id) } = .ok (s1, pa) →
             s1.memOk → deadHome s1 pa = false → localMem s1 pa = true → homeDie pa = c.core / 64 →
             memReadN t.mem pa 8 = bytesOfNat 8 (code % 256 +
               (if code = 2 ∨ code = 3 ∨ code = 4 then addr % 2 ^ 56 else 0) * 256))))) ∧
  (∀ (s : State),
     (∀ g l, s.ctx.aux.sent = .gang g l →
       exec .gangGrant s = .next
         { s with ctx.aux.sent := if gangAccepted s g then .gangGranted g else .gang g (acceptances s g l) }) ∧
     (∀ x since used held, s.ctx.aux.sent = .stall x since used held →
       let resumes : Prop := exec .cellarStallResume s =
         .next { s with ctx.aux.sent := .resumed (used + (s.cyc - since)) held }
       (∀ fm pr wide n fs d a b s1 j k,
         fetchDecode s = .exec (.tmma fm pr wide n fs d a b) s1 → s1.ctx.aux.sent = s.ctx.aux.sent →
         startAt fm s1 = some (j, k) → tileReady s1 →
         clean s1 ((if fs = 0 then [] else [.f fs]) ++ [.ctl 0x002]) = true →
         let o := tmmaOp pr wide false n fs (fm.d j d) (fm.a j a) (fm.b j b) s1
         pairTag pr = .int → tmmaIll o (fm.a j a) (fm.b j b) = false → tmmaPoisoned o = false →
         stuckAt (runTmmaOp o).takes (freeByBand s1) = none → faultFree s1 o (runTmmaOp o) = true → resumes) ∧
       (stallEnds s = true → resumes) ∧ (stallEnds s = false → exec .cellarStallResume s = .next s) ∧
       ∃ t, exec .cellarStallTimeout s = .next t ∧
         ∀ fm pr wide n fs d a b s1,
           fetchDecode { s with ctx.aux.sent := .timedOut x } = .exec (.tmma fm pr wide n fs d a b) s1 →
           exec (.tmma fm pr wide n fs d a b) s1 = .next t) ∧
     (∀ used held, s.ctx.aux.sent = .resumed used held →
       ∃ t, exec .tmmaComplete s = .next t ∧
         ∀ fm pr wide n fs d a b s1, fetchDecode s = .exec (.tmma fm pr wide n fs d a b) s1 →
           exec (.tmma fm pr wide n fs d a b) s1 = .next t) ∧
     (s.ctx.aux.sent = .nothing →
       exec .gangGrant s = .next s ∧ exec .cellarStallResume s = .next s ∧
       exec .cellarStallTimeout s = .next s ∧ exec .tmmaComplete s = .next s))

/-! ## Calls, traps and returns -/

/-- `SVC`, `HVC`, `MVC` and `BKPT` enter the handler of their level, or of the level they run at where that is higher,
with their immediate as DETAIL; an undelegated `BKPT` goes to the monitor; a delegated one, to the user handler where it
is ready; a level without a handler is passed over, and without a monitor handler the core halts (R74, R282, R284,
R293, R294). -/
def Obligations.CallsEnterHandlers : Prop :=
  ∀ (fm : Form) (imm : Nat) (s : State),
    (hasHandler (max 1 s.pl) s →
      ∃ t, exec (.svc fm imm) s = .next t ∧ entered (max 1 s.pl) 0x0B imm 0 s t) ∧
    (1 ≤ s.pl → hasHandler (max 2 s.pl) s →
      ∃ t, exec (.hvc fm imm) s = .next t ∧ entered (max 2 s.pl) 0x11 imm 0 s t) ∧
    (1 ≤ s.pl → hasHandler 3 s → ∃ t, exec (.mvc fm imm) s = .next t ∧ entered 3 0x12 imm 0 s t) ∧
    (s.ctx.prv.mon.deleg.getLsbD 9 = false → hasHandler 3 s →
      ∃ t, exec (.bkpt fm imm) s = .next t ∧ entered 3 0x09 imm 0 s t) ∧
    (s.pl = 0 → s.ctx.prv.mon.deleg.getLsbD 9 = true → s.ctx.prv.hyp.deleg.getLsbD 9 = true →
      s.ctx.prv.sup.deleg.getLsbD 9 = true → vecBase s.ctx.ctl.utvec ≠ 0 → s.ctx.ubusy = false →
      ∃ t, exec (.bkpt fm imm) s = .next t ∧ t.pl = 0 ∧ t.pc = vecAddr s.ctx.ctl.utvec ∧
        t.ctx.ctl.uepc = vecAddr s.pc ∧ t.ctx.ctl.utval = 0 ∧
        t.ctx.ctl.ucause = BitVec.ofNat 64 (2 ^ 63 + imm % 65536 * 65536 + 0x09)) ∧
    (s.pl ≤ 1 → ¬ hasHandler 1 s → hasHandler 2 s →
      ∃ t, exec (.svc fm imm) s = .next t ∧ entered 2 0x0B imm 0 s t) ∧
    (1 ≤ s.pl → ¬ hasHandler 3 s → ∃ t, exec (.mvc fm imm) s = .next t ∧ t.core.halted = true ∧ t.pc = s.pc)

/-- `TRET` returns from level 1 to 3 in one step: IE of the level and the level itself come back from CAUSE, the pc from
EPC, and the thread's other trap, control and general registers, and memory, stay as they are; at user level it ends a
user handler, and raises PRIV where none runs (R75, R295). -/
def Obligations.TretReturns : Prop :=
  ∀ (fm : Form) (s : State),
    (1 ≤ s.pl → clean s [.ctl 0x100, .ctl (256 * s.pl + 3), .ctl (256 * s.pl + 4)] = true →
      ∃ t, exec (.tret fm) s = .next t ∧ t.pl = bits (s.trapSet s.pl).cause 62 2 ∧
        t.ie s.pl = (s.trapSet s.pl).cause.getLsbD 61 ∧ t.pc = vecAddr (s.trapSet s.pl).epc ∧
        (∀ l, 1 ≤ l → l ≤ 3 → t.trapSet l = s.trapSet l ∧ (l ≠ s.pl → t.ie l = s.ie l)) ∧
        t.ctx.ctl = s.ctx.ctl ∧ { t.ctx.regs with pc := s.pc } = s.ctx.regs ∧ t.mem = s.mem) ∧
    (s.pl = 0 → s.ctx.ubusy = true → s.ctx.prv.status.getLsbD 7 = false →
      clean s [.ctl 0x005, .ctl 0x006] = true →
      ∃ t, exec (.tret fm) s = .next t ∧ t.ctx.ubusy = false ∧ t.pc = vecAddr s.ctx.ctl.uepc ∧ t.pl = 0 ∧
        t.ctx.ctl.xstate = s.ctx.ctl.xstate) ∧
    (s.pl = 0 → s.ctx.ubusy = false → exec (.tret fm) s = .next (takeTrap none ⟨0x03, 0, s.ctx.aux.ir, false, 0⟩ s))

/-- An instruction above the level it needs takes PRIV with nothing done; DETAIL is the register's number for `SRD`,
`SWR`, `SSET` and `SCLR` (R280, R286, R293, R331). -/
def Obligations.PrivilegeTraps : Prop :=
  ∀ (fm : Form) (d a b n : Nat) (imm : Int) (s : State),
    let privs (detail : Nat) (i : Instr) : Prop :=
      exec i s = .next (takeTrap none ⟨0x03, detail, s.ctx.aux.ir, false, 0⟩ s)
    (s.pl = 0 →
      privs 0 (.hvc fm n) ∧ privs 0 (.mvc fm n) ∧ privs 0 (.tlbinv fm a b) ∧ privs 0 (.tlbsync fm) ∧
      privs 0 (.cflush fm a imm) ∧ privs 0 (.cinv fm a imm) ∧ privs 0 (.cwb fm a imm) ∧ privs 0 (.wfi fm) ∧
      privs 0 (.ctxsw fm) ∧ privs 0 (.ctxld fm d a) ∧ privs 0 (.ctxsp fm d a) ∧ privs 0 (.wpins fm a b) ∧
      privs 0 (.wpclr fm) ∧ privs 0 (.dump fm d a b) ∧ privs 0 (.pgmig fm d a b) ∧ privs 0 (.pgcmp fm d a) ∧
      (0x100 ≤ n → privs n (.srd fm d n) ∧ privs n (.swr fm a n) ∧ privs n (.sset fm d a n) ∧
        privs n (.sclr fm d a n)) ∧
      (n ∈ [0x003, 0x010, 0x011, 0x012] → privs n (.swr fm a n)) ∧
      (n ∈ userRegs → privs n (.sset fm d a n) ∧ privs n (.sclr fm d a n))) ∧
    (s.pl < 3 → privs 0 (.halt fm)) ∧
    (1 ≤ s.pl → n ∈ highRegs → s.pl < n / 256 →
      privs n (.srd fm d n) ∧ privs n (.swr fm a n) ∧ privs n (.sset fm d a n) ∧ privs n (.sclr fm d a n))

/-! ## System registers -/

/-- `SRD` reads a register; `SWR` leaves in it the bits its layout has of the value written, in which reserved and
read-only bits keep what they hold; `SSET` and `SCLR` set and clear bits and give the old value. `FCSR.RM` takes no code
without a mode, `TCTL.DRM` none above 5, user software does not change CKMODE, and a write of `STATUS` changes neither
the level nor an IE above the writer's reach (R4, R69, R70, R288, R296). -/
def Obligations.SystemRegisterAccess : Prop :=
  (∀ (fm : Form) (d a n : Nat) (s : State),
     let layouts : List (Nat × List (Nat × Nat)) :=
       [(0x004, [(1, 55)]), (0x005, [(63, 1), (16, 16), (0, 8)]), (0x006, [(1, 55)]), (0x007, [(0, 64)]),
        (0x010, [(16, 40)]), (0x011, [(16, 40)]), (0x012, [(16, 36)]),
        (0x102, [(1, 55)]), (0x104, [(1, 55)]), (0x105, [(0, 64)]), (0x106, [(0, 64)]), (0x108, [(12, 52)]),
        (0x109, [(0, 28)]), (0x10A, [(0, 3)]), (0x202, [(1, 55)]), (0x204, [(1, 55)]), (0x205, [(0, 64)]),
        (0x206, [(0, 64)]), (0x208, [(16, 1), (0, 12)]), (0x209, [(12, 40)]), (0x20A, [(12, 40)]),
        (0x220, [(8, 2), (0, 5)]), (0x302, [(1, 55)]), (0x304, [(1, 55)]), (0x305, [(0, 64)]), (0x306, [(0, 64)]),
        (0x308, [(0, 7)])]
     (n ∈ userRegs ++ highRegs → (n < 0x100 ∨ 1 ≤ s.pl) → n / 256 ≤ s.pl → clean s [.ctl n] = true →
       exec (.srd fm d n) s = retires (fm.len 48) (wg s d (readSys n s))) ∧
     (∀ x, (n, x) ∈ layouts → 1 ≤ s.pl → n / 256 ≤ s.pl → clean s [.g a] = true →
       (∃ t, exec (.swr fm a n) s = retires (fm.len 48) t ∧ readSys n t = rg s a &&& maskOf x ∧
         ∀ m, m ∈ layouts.map (·.1) → m ≠ n → readSys m t = readSys m s) ∧
       (clean s [.ctl n] = true → ∃ t u,
         exec (.sset fm d a n) s = retires (fm.len 48) (wg t d (readSys n s)) ∧
         readSys n t = (readSys n s ||| rg s a) &&& maskOf x ∧
         exec (.sclr fm d a n) s = retires (fm.len 48) (wg u d (readSys n s)) ∧
         readSys n u = (readSys n s &&& ~~~rg s a) &&& maskOf x)) ∧
     (s.pl = 0 → clean s [.g a] = true → n ∈ [0x004, 0x006] →
       ∃ t, exec (.swr fm a n) s = retires (fm.len 48) t ∧ readSys n t = rg s a &&& maskOf [(1, 55)])) ∧
  (∀ (fm : Form) (a : Nat) (s : State), clean s [.g a] = true →
     (∃ t, exec (.swr fm a 0x001) s = retires (fm.len 48) t ∧ bits t.ctx.ctl.fcsr 5 3 < 5 ∧
       t.ctx.ctl.fcsr &&& maskOf [(16, 8), (0, 5)] = rg s a &&& maskOf [(16, 8), (0, 5)] ∧
       (bits (rg s a) 5 3 < 5 → bits t.ctx.ctl.fcsr 5 3 = bits (rg s a) 5 3)) ∧
     (∃ t, exec (.swr fm a 0x002) s = retires (fm.len 48) t ∧ bits t.ctx.ctl.tctl 17 3 < 6 ∧
       t.ctx.ctl.tctl.getLsbD 15 = (if s.pl = 0 then s.ctx.ctl.tctl.getLsbD 15 else (rg s a).getLsbD 15)) ∧
     (1 ≤ s.pl → ∃ t, exec (.swr fm a 0x100) s = retires (fm.len 48) t ∧ t.pl = s.pl ∧
       t.ie 1 = (rg s a).getLsbD 4 ∧
       t.ie 2 = (if 2 ≤ s.pl then (rg s a).getLsbD 5 else s.ie 2) ∧
       t.ie 3 = (if 3 ≤ s.pl then (rg s a).getLsbD 6 else s.ie 3)))

/-- Register writes with an effect beyond the register. A message leaves once every earlier store is performed, with
the writer's PID below hypervisor level; an MSI-X vector that is not masked is sent; `XSTATE` takes its fields; a valid
cellar share is stored as written, or as 256 less the others where the sum would be above 256; `RPRSEL` frees the
context's names; `RPRADD` appends a repair or sets OVF; `BOOTST` goes from 5 to 6 only once every live core is
tested; a halted core writes nothing (R291, R292, R302, R335, R426, R431, R432). -/
def Obligations.RegisterWriteEvents : Prop :=
  ∀ (n : Nat) (v : Word) (s : State),
    (s.core.halted = true → ∀ i ∈ [Instr.ipiWrite v, .hostirqWrite v, .xstateWrite v, .celshrWrite v, .rprselWrite v,
      .rpraddWrite v, .bootstWrite v, .systemRegisterWrite n v], exec i s = .next s) ∧
    (s.core.halted = false →
    (1 ≤ s.pl → storesPerformed 4 s = true →
      exec (.ipiWrite v) s = .next { s with sched.ipis :=
        s.sched.ipis ++ [(bits v 0 8, if 2 ≤ s.pl then bits v 16 12 else s.pid)] } ∧
      ∃ t, exec (.hostirqWrite v) s = .next t ∧ t.ctx = s.ctx ∧ t.mem = s.mem ∧
        (2 ≤ s.pl → v.getLsbD 15 = true → (msixVector s.host 0 (bits v 0 11)).data.getLsbD 32 = false →
          t.host.sentMsix = s.host.sentMsix ++ [(0, bits v 0 11)])) ∧
    (1 ≤ s.pl → ∃ t, exec (.xstateWrite v) s = .next t ∧
      t.ctx.ctl.xstate = v &&& maskOf [(19, 5), (8, 8), (0, 7)] ∧ t.ctx.regs = s.ctx.regs) ∧
    (2 ≤ s.pl → s.cur < 256 → selEntry s < 8 →
      ∃ t, exec (.celshrWrite v) s = .next t ∧
        (let w := ((engineAt t (selEngine s)).celshr[selEntry s]?).getD 0
         let others := ((List.range 8).map (fun k =>
           let x := ((engineAt s (selEngine s)).celshr[k]?).getD 0
           if k ≠ selEntry s ∧ x.getLsbD 63 = true then bits x 0 9 else 0)).sum
         bits w 32 12 = bits v 32 12 ∧ w.getLsbD 63 = v.getLsbD 63 ∧
         bits w 0 9 = (if v.getLsbD 63 = true ∧ 256 < bits v 0 9 + others then 256 - others else bits v 0 9))) ∧
    (3 ≤ s.pl → ∃ t, exec (.rprselWrite v) s = .next t ∧ t.ctx = freeNames s.ctx.aux.gang s.ctx ∧
      t.core.rprsel.getLsbD 15 = v.getLsbD 15 ∧ bits t.core.rprsel 8 2 < 3) ∧
    (3 ≤ s.pl → s.cur < 256 →
      let e : RepairEntry := ⟨v.getLsbD 14, bits v 8 6, bits v 0 6⟩
      let old := (engineAt s (repairEngine s)).repair
      ∃ t, exec (.rpraddWrite v) s = .next t ∧
        (e ∈ old → t = s) ∧
        (e ∉ old → e.slot < (if e.acc then 32 else 48) → (old.filter (fun x => x.acc = e.acc)).length < 16 →
          (engineAt t (repairEngine s)).repair = old ++ [e]) ∧
        (e ∉ old → ((if e.acc then 32 else 48) ≤ e.slot ∨ 16 ≤ (old.filter (fun x => x.acc = e.acc)).length) →
          t = { s with core.bistsum := s.core.bistsum ||| 4 })) ∧
    (3 ≤ s.pl → ∃ t, exec (.bootstWrite v) s = .next t ∧
      bits t.boot.bootst 0 4 =
        (if bits v 0 4 = 6 ∧ bits s.boot.bootst 0 4 = 5 ∧ (List.range 4).all (fun d => !dieLive s d || bistDone s d) = true
         then 6 else bits s.boot.bootst 0 4)) ∧
    (3 ≤ s.pl → n ∈ [0x101, 0x201, 0x301, 0x209, 0x220, 0x308] →
      ∃ t, exec (.systemRegisterWrite n v) s = .next t ∧ t.ctx.regs = s.ctx.regs ∧ t.mem = s.mem ∧
        (n = 0x209 → t.ctx.prv.pwbase = v &&& maskOf [(12, 40)]) ∧ (n = 0x308 → t.modes = v &&& 0x7F)) ∧
    (s.pl = 0 → 0x100 ≤ n → exec (.systemRegisterWrite n v) s = .next s))

/-! ## Translation and cache maintenance -/

/-- Translation of an access. An address with bits [63:56] set raises PAGE with reason 7. A heap address goes to the sum
with HOFFS; reason 2 for a fetch, 4 outside the window or in a carve-out, 8 where the bytes are no memory that the
package owns. Elsewhere a TLB entry that permits the access gives the address without a walk, a not-present result that
is remembered raises reason 1, and a walk goes down the tables from the root, each entry a leaf, a pointer, a
compressed page or a reason to stop. A walk that finds a leaf which permits the access installs it, with A set, and D for
a write, at the entry's home; one that does not raises reason 1 (and remembers it), 2, 3, 4, 5 or 9, or EMC at a poisoned
entry. `PAGE_WALK` leaves what such a walk leaves. DETAIL is the kind of access, the level and the reason. `TLBINV` notes
a removal, which completes later and takes the entries it names from every core; `TLBSYNC`, with none of the thread's
removals under way and its stores performed, empties the not-present caches; a not-present result may be forgotten. That
step 4 comes before A and D are set, and reason 9 of a table, are the model's reading (logs 52, 56) (R297, R298, R309 to
R319). -/
def Obligations.TranslationResults : Prop :=
  (∀ (k : AccKind) (va : Word) (n acc : Nat) (s : State),
    let sp := s.ctx.space
    let heap : Prop := sp.hbase ≤ va.toNat ∧ va.toNat < sp.hlimit
    let page (k : AccKind) (lvl reason : Nat) : Trap :=
      ⟨0x05, (match k with | .load => 0 | .store | .atomic => 1 | .fetch => 2) * 256 + lvl * 64 + reason, va, true, 0⟩
    let allows (k : AccKind) (e : Word) : Bool :=
      let r := e.getLsbD 2
      let w := e.getLsbD 3
      let x := e.getLsbD 4
      let u := e.getLsbD 5
      (match k with | .load => r | .store => w | .atomic => r && w | .fetch => x) &&
        (if s.pl = 0 then u else !(decide (k = .fetch) && u))
    let writes (k : AccKind) : Bool := decide (k = .store ∨ k = .atomic)
    let place (lvl : Nat) (e : Word) : Nat :=
      let size := 2 ^ pageBits lvl (e.getLsbD 61)
      pteAddr e / size * size + va.toNat % size
    let walks (k : AccKind) (n : Nat) (u : State) (out : Except Stop (State × Phys)) : Prop :=
      (∀ lvl r, walk u sp va.toNat = .stop lvl r → out = .error (.trap (page k lvl r)
        (if r = 1 then
          { u with core.notPresent := ⟨sp.pid, sp.asid, lvl, va.toNat / 2 ^ pageBits lvl false⟩ :: u.core.notPresent }
         else u))) ∧
      (walk u sp va.toNat = .poison → out = .error (.trap ⟨0x0E, 2, 0, true, 0⟩ u)) ∧
      (∀ lvl e a, walk u sp va.toNat = .compressed lvl e a →
        u.modes.getLsbD 1 = true ∨ expandPage e a u = none → out = .error (.trap (page k lvl 5) u)) ∧
      (∀ lvl e a, walk u sp va.toNat = .leaf lvl e a →
        (allows k e = false → out = .error (.trap (page k lvl 2) u)) ∧
        (allows k e = true → step4 u sp (place lvl e) n = false → out = .error (.trap (page k lvl 4) u)) ∧
        (allows k e = true → step4 u sp (place lvl e) n = true →
          let size := 2 ^ pageBits lvl (e.getLsbD 61)
          let on : Word := (if e.getLsbD 6 then 0 else 0x40) ||| (if writes k && !e.getLsbD 7 then 0x80 else 0)
          ∃ t, out = .ok (t, ⟨place lvl e, decide (bits e 8 2 = 1)⟩) ∧ t.ctx = u.ctx ∧ t.core.sb = u.core.sb ∧
            t.core.tlb.find? (fun x => x.hits sp va.toNat) =
              some ⟨sp.pid, sp.asid, lvl, e.getLsbD 61, va.toNat / size * size, e ||| on, a⟩ ∧
            (on = 0 → t.mem = u.mem) ∧
            (u.memOk → readPte t a = readPte u a ||| on ∧ ∀ x, x < a ∨ a + 8 ≤ x → memRead t.mem x = memRead u.mem x)))
    (2 ^ 56 ≤ va.toNat → translate k va n s = .error (.trap (page k 0 7) s)) ∧
    (va.toNat < 2 ^ 56 → heap →
      let pa := (va.toNat + sp.hoffs) % 2 ^ 52
      let owned := decide (originOf pa = s.pkg ∧ offsetOf pa < hbmEnd ∧ ownerOf s pa = s.pkg)
      translate k va n s =
        if k = .fetch then .error (.trap (page k 0 2) s)
        else if step4 s sp pa n = false then .error (.trap (page k 0 4) s)
        else if owned = false then .error (.trap (page k 0 8) s) else .ok (s, ⟨pa, false⟩)) ∧
    (va.toNat < 2 ^ 56 → ¬ heap →
      let dropped := { s with core.tlb := s.core.tlb.filter (fun x => ¬ x.hits sp va.toNat) }
      let forgets (u : State) : Prop :=
        (∀ x, u.core.notPresent.find? (fun x => x.hits sp va.toNat) = some x →
          translate k va n s = .error (.trap (page k x.level 1) u)) ∧
        (u.core.notPresent.find? (fun x => x.hits sp va.toNat) = none → walks k n u (translate k va n s))
      (s.core.tlb.find? (fun x => x.hits sp va.toNat) = none → forgets s) ∧
      (∀ x, s.core.tlb.find? (fun x => x.hits sp va.toNat) = some x →
        (allows k x.pte = false → forgets dropped) ∧
        (allows k x.pte = true → writes k = true → x.pte.getLsbD 7 = false → walks k n dropped (translate k va n s)) ∧
        (allows k x.pte = true → (writes k = true → x.pte.getLsbD 7 = true) →
          translate k va n s =
            if step4 s sp (place x.level x.pte) n = true
            then .ok (s, ⟨place x.level x.pte, decide (bits x.pte 8 2 = 1)⟩)
            else .error (.trap (page k x.level 4) s)))) ∧
    (s.core.act = false → exec (.pageWalk va acc) s = .next s) ∧
    (s.core.act = true → ∃ out, walks (if acc = 1 then .store else if acc = 2 then .fetch else .load) 1 s out ∧
      exec (.pageWalk va acc) s =
        .next (match out with | .ok (t, _) => t | .error (.trap _ t) => t | .error (.wait t) => t))) ∧
  (∀ (s : State) (sp : Space) (va tbl l : Nat),
    walk s sp va = (if sp.root % 65536 ≠ 0 then .stop 3 3 else walkFrom s sp va 4 sp.root) ∧
    (let held := inWindow sp tbl (if l ≥ 2 then 65536 else 4096) && !inCarve s tbl 8 && reachable s tbl
     let index := match l with
       | 0 => va / 2 ^ 12 % 2 ^ 9
       | 1 => va / 2 ^ 21 % 2 ^ 9
       | 2 => va / 2 ^ 30 % 2 ^ 13
       | _ => va / 2 ^ 43 % 2 ^ 13
     let a := tbl + 8 * index
     let e := readPte s a
     let group (i : Nat) : Word := readPte s (tbl + 8 * (index / 16 * 16 + i))
     (held = false → walkFrom s sp va (l + 1) tbl = .stop l 4) ∧
     (held = true → isDevReg tbl = true →
       walkFrom s sp va (l + 1) tbl = .stop l (if sp.pid = 0 then 9 else 4)) ∧
     (held = true → isHostWin tbl = true → walkFrom s sp va (l + 1) tbl = .stop l 9) ∧
     (held = true → offsetOf tbl < hbmEnd → l ≤ 3 →
       (l = 0 → (∀ i, i < 16 → (group i).getLsbD 61 = false) ∨
         (∀ i, i < 16 → group i &&& ~~~0xC0#64 = group 0 &&& ~~~0xC0#64)) →
       walkFrom s sp va (l + 1) tbl =
         if linePoisoned s (lineOf a) = true then .poison
         else if e.getLsbD 0 = false then (if e.getLsbD 62 = true ∧ l ≤ 1 then .compressed l e a else .stop l 1)
         else if e.getLsbD 1 = true then
           (if l = 3 ∨ (e.getLsbD 3 = true ∧ e.getLsbD 2 = false) ∨ pteAddr e % 2 ^ pageBits l (e.getLsbD 61) ≠ 0 ∨
               (e.getLsbD 61 = true ∧ l ≠ 0) ∨ e.getLsbD 60 = true ∨ bits e 10 2 ≠ 0 ∨ 2 ≤ bits e 8 2
            then .stop l 3 else .leaf l e a)
         else if l = 0 ∨ bits e 60 4 ≠ 0 ∨ bits e 2 10 ≠ 0 ∨ (l = 3 ∧ bits e 12 4 ≠ 0) then .stop l 3
         else walkFrom s sp va l (bits e 12 40 * 4096)))) ∧
  (∀ (fm : Form) (a b : Nat) (va : Word) (s : State),
    (1 ≤ s.pl → clean s [.g a, .g b] = true → bits (rg s b) 28 34 = 0 → bits (rg s b) 12 4 = 0 →
      (2 ≤ bits (rg s b) 62 2 → 2 ≤ s.pl) →
      exec (.tlbinv fm a b) s = retires (fm.len 49) { s with xlat.removals := s.xlat.removals ++
        [⟨bits (rg s b) 62 2, rg s a, bits (rg s b) 0 12, if s.pl = 1 then s.pid else bits (rg s b) 16 12,
          s.ctx.prv.gtid⟩] }) ∧
    (1 ≤ s.pl → s.xlat.removals.any (fun r => decide (r.gtid = s.ctx.prv.gtid)) = false → storesPerformed 2 s = true →
      ∃ t, exec (.tlbsync fm) s = retires (fm.len 49) t ∧ t.core.notPresent = [] ∧
        (∀ x ∈ t.others, x.2.notPresent = []) ∧ t.ctx = { s.ctx with aux.passedAt := s.cyc } ∧ t.mem = s.mem ∧
        t.core.tlb = s.core.tlb) ∧
    (s.xlat.removals = [] → exec .tlbRemovalComplete s = .next s) ∧
    (∀ r l, s.xlat.removals = r :: l → quiet (quiesce s) = true →
      ∃ t, exec .tlbRemovalComplete s = .next t ∧ t.xlat.removals = l ∧
        (∀ e ∈ t.core.tlb, r.takes e = false) ∧ (∀ e ∈ t.core.notPresent, r.takesNp e = false) ∧
        (∀ x ∈ t.others, ∀ e ∈ x.2.tlb, r.takes e = false)) ∧
    (∃ t, exec (.notPresentExpiry va) s = .next t ∧ t.ctx = s.ctx ∧ t.mem = s.mem ∧
      ∀ e, e ∈ t.core.notPresent ↔ e ∈ s.core.notPresent ∧ e.hits s.ctx.space va.toNat = false))

/-- `CWB`, `CFLUSH` and `CINV` on a line, once earlier stores are performed: a write-back leaves nothing of the line
unwritten, a flush also no copy in the package and none on its way, an invalidation the same and no byte changed but
those written since the last write-back. Of device registers and the host window each raises PAGE with reason 9, which
is the model's reading (log 94) (R299, R412, R413). -/
def Obligations.CacheLineResults : Prop :=
  ∀ (fm : Form) (a : Nat) (imm : Int) (s s1 : State) (pa : Nat),
    1 ≤ s.pl → clean s [.g a] = true →
    let va := rg s a + BitVec.ofInt 64 (imm * 128)
    let line := lineOf pa
    let refused (acc : Nat) (i : Instr) : Prop :=
      exec i s = .next (takeTrap none ⟨0x05, acc * 256 + lvlOf s1 va * 64 + 9, va, true, 0⟩ s1)
    (isDevReg pa = true ∨ isHostWin pa = true →
      (translate .load va 1 s = .ok (s1, ⟨pa, false⟩) → refused 0 (.cwb fm a imm) ∧ refused 0 (.cflush fm a imm)) ∧
      (translate .store va 1 s = .ok (s1, ⟨pa, false⟩) → refused 1 (.cinv fm a imm))) ∧
    (offsetOf pa < hbmEnd → storesPerformed 2 s1 = true →
    (translate .load va 1 s = .ok (s1, ⟨pa, false⟩) →
      (∃ t, exec (.cwb fm a imm) s = retires (fm.len 49) t ∧ t.mem = s1.mem ∧
        (∀ e ∈ t.coh.dirty, e.1 ≠ line) ∧ t.coh.copies = s1.coh.copies) ∧
      ∃ t, exec (.cflush fm a imm) s = retires (fm.len 49) t ∧ t.mem = s1.mem ∧
        (∀ e ∈ t.coh.dirty, e.1 ≠ line) ∧ (∀ x ∈ t.coh.copies, x.line ≠ line) ∧ ∀ x ∈ t.coh.fills, x.line ≠ line) ∧
    (translate .store va 1 s = .ok (s1, ⟨pa, false⟩) → s1.memOk → localMem s1 (line * 128) = true →
      ∃ t, exec (.cinv fm a imm) s = retires (fm.len 49) t ∧ (∀ x ∈ t.coh.copies, x.line ≠ line) ∧
        (∀ x ∈ t.coh.fills, x.line ≠ line) ∧
        (∀ x, lineOf x ≠ line → memRead t.mem x = memRead s1.mem x) ∧
        (∀ i, i < 128 → (((s1.coh.dirty.find? (fun (e : Nat × BitVec 128) => e.1 = line)).map Prod.snd).getD 0).getLsbD i = false →
          memRead t.mem (line * 128 + i) = memRead s1.mem (line * 128 + i))))

/-! ## Waiting, halting, contexts -/

/-- `WFI` completes where an interrupt is pending, and else waits; `HALT` stops the core until the management interface
restarts it; `CTXSW` raises ILL with an empty lodge, and otherwise a swap follows in which the banks change places; the
values of names in pinned slots that overlap another core's are not this statement's; a halted core swaps nothing (R301
to R303, R342). -/
def Obligations.WaitHaltAndSwap : Prop :=
  ∀ (fm : Form) (s : State) (core : Nat),
    (1 ≤ s.pl → interruptWaits s = true → exec (.wfi fm) s = retires (fm.len 49) s) ∧
    (1 ≤ s.pl → interruptWaits s = false → exec (.wfi fm) s = .next (advanceAll s)) ∧
    (3 ≤ s.pl → exec (.halt fm) s = retires (fm.len 49) { s with core.halted := true }) ∧
    (∃ t, exec (.managementRestart core) s = .next t ∧ (getCore t core).halted = false ∧ t.ctx = s.ctx ∧ t.mem = s.mem) ∧
    (1 ≤ s.pl → s.core.lodge = none → exec (.ctxsw fm) s = .next (takeTrap none (illTrap s) s)) ∧
    (∀ c, 1 ≤ s.pl → s.core.lodge = some c → (s.pl = 1 → c.pid = s.pid) →
      exec (.ctxsw fm) s = retires (fm.len 50) { s with core.swapping := true }) ∧
    (s.core.halted = true → exec (.contextSwap s.cur) s = .next s) ∧
    (∀ c, s.core.halted = false → s.core.swapping = true → s.core.act = true → s.core.lodge = some c →
      s.ctx.aux.sent = .nothing →
      s.ctx.aux.repLeft = 0 → pinRivals s s.cur false = [] → pinRivals s s.cur true = [] →
      ∃ t, exec (.contextSwap s.cur) s = .next t ∧ t.core.swapping = false ∧ t.core.act = true ∧
        t.ctx.regs = c.regs ∧ t.ctx.prv = c.prv ∧ t.ctx.t = c.t ∧ t.ctx.c = c.c ∧
        ∃ c', t.core.lodge = some c' ∧ c'.regs = s.ctx.regs ∧ c'.prv = s.ctx.prv ∧ c'.t = s.ctx.t ∧ c'.c = s.ctx.c ∧
          waysidePending c' = false) ∧
    (s.core.swapping = false → exec (.contextSwap s.cur) s = .next s)

/-- `CTXLD` and `CTXSP` with an aligned area in the window, once earlier stores are performed: status 1 where the lodge
is occupied, or empty, 2 for a poisoned and 3 for a resident area; an intact area's context enters the lodge, a spill
of a context that waits for no answer empties it, and either leaves the issuer's registers but for the status; `CTXSP` of
another partition's context below the hypervisor raises PRIV, whatever its area (R304, R329, R344). -/
def Obligations.ContextLoadAndSpill : Prop :=
  ∀ (fm : Form) (d a : Nat) (s : State),
    1 ≤ s.pl → clean s [.g a] = true →
    let area := (rg s a).toNat
    (∀ c, s.pl = 1 → s.core.lodge = some c → c.pid ≠ s.pid →
      exec (.ctxsp fm d a) s = .next (takeTrap none ⟨0x03, 0, s.ctx.aux.ir, false, 0⟩ s)) ∧
    (checkArea .load (rg s a) s = .ok () → storesPerformed 2 s = true → (s.pl = 1 → areaPid s area = s.pid) →
      (s.core.lodge.isSome = true → exec (.ctxld fm d a) s = retires (fm.len 50) (wg s d 1)) ∧
      (s.core.lodge = none → (areaFlags s area).getLsbD 18 = true →
        exec (.ctxld fm d a) s = retires (fm.len 50) (wg s d 2)) ∧
      (s.core.lodge = none → (areaFlags s area).getLsbD 18 = false → (areaFlags s area).getLsbD 17 = true →
        exec (.ctxld fm d a) s = retires (fm.len 50) (wg s d 3)) ∧
      (∀ c, s.core.lodge = none → (areaFlags s area).getLsbD 18 = false → (areaFlags s area).getLsbD 17 = false →
        (if (areaFlags s area).getLsbD 19 then restoreUnsealed s s.ctx.prv area else restoreSealed s area) = .ok c →
        ∃ t c', exec (.ctxld fm d a) s = retires (fm.len 50) (wg t d 0) ∧ t.core.lodge = some c' ∧ c'.regs = c.regs ∧
          t.ctx.regs = s.ctx.regs)) ∧
    (checkArea .store (rg s a) s = .ok () → storesPerformed 4 s = true →
      (s.core.lodge = none → exec (.ctxsp fm d a) s = retires (fm.len 50) (wg s d 1)) ∧
      (∀ c, s.core.lodge = some c → (s.pl = 1 → c.pid = s.pid) → performedFor c.prv.gtid 4 s = true →
        c.aux.sent.outlives = false →
        ∃ t, exec (.ctxsp fm d a) s = retires (fm.len 50) (wg t d 0) ∧ t.core.lodge = none ∧
          t.ctx.regs = s.ctx.regs))

/-! ## Watching, dumping, moving and compressing pages -/

/-- `WPINS` makes the filter mark every byte of its range and unmarks none, and raises ILL beyond 65,536 insertions;
`WPCLR` leaves nothing marked; `DUMP` writes nothing with an empty lodge or a buffer below 64 bytes, and else the writes
of its image up to the first that faults, whose address it gives. `PGMIG` and `PGCMP` give the status of the first
condition that holds; a page that migrates has its new owner and no copy in the package; a page that compresses leaves
its bytes in the zone, and `PGCMP` with a status below 3 no translation in the core's TLB. The order of `PGMIG`'s
statuses and its answer for a device page are the model's choice (log 33), and so is what it keeps of a compressed page
(log 34) (R305 to R307, R396 to R398, R409). -/
def Obligations.WatchAndPageResults : Prop :=
  ∀ (fm : Form) (d a b : Nat) (s : State),
    1 ≤ s.pl →
    (clean s [.g a, .g b] = true →
      let lo := (rg s a).toNat
      let hi := lo + (rg s b).toNat
      ((splitRange s.ctx.prv.watchf lo hi).count ≤ 65536 →
        ∃ t, exec (.wpins fm a b) s = retires (fm.len 50) t ∧ t.ctx.regs = s.ctx.regs ∧ t.mem = s.mem ∧
          (∀ va n, watched s va n = true → watched t va n = true) ∧
          (s.ctx.prv.watchf.getLsbD 0 = true → ∀ va, lo ≤ va → va < hi → va < 2 ^ 56 → watched t va 1 = true)) ∧
      (65536 < (splitRange s.ctx.prv.watchf lo hi).count →
        exec (.wpins fm a b) s = .next (takeTrap none (illTrap s) s))) ∧
    (∃ t, exec (.wpclr fm) s = retires (fm.len 50) t ∧ t.ctx.regs = s.ctx.regs ∧ t.mem = s.mem ∧
      ∀ va n, watched t va n = false) ∧
    (clean s [.g a, .g b] = true →
      (s.core.lodge = none → exec (.dump fm d a b) s = retires (fm.len 50) (wg (wg s d 0) (d + 1) 0)) ∧
      (∀ c, s.core.lodge = some c → (s.pl = 1 → c.pid = s.pid) → (rg s b).toNat < 64 → s.core.sb.length < 96 →
        exec (.dump fm d a b) s = retires (fm.len 50) (wg (wg s d 0) (d + 1) 0)) ∧
      (∀ c s1 s2 pieces fault, s.core.lodge = some c → (s.pl = 1 → c.pid = s.pid) →
        dumpPieces (dumpPlan s.pl s.cyc (decide ((spillable s c).2 ≠ 0)) (rg s a) (rg s b).toNat (spillable s c).1) s =
          .ok (s1, pieces, fault) → storePieces pieces s1 = .ok s2 →
        exec (.dump fm d a b) s = retires (fm.len 50)
          (wg (wg s2 d (BitVec.ofNat 64 (pieces.map (fun p => p.2.length)).sum)) (d + 1) (fault.getD 0)))) ∧
    (clean s [.g a, .g b] = true → bits (rg s b) 8 56 = 0 →
      ∀ s1 ph, translate .load (rg s a) 1 s = .ok (s1, ph) →
      let q := bits (rg s b) 0 8
      let va := (rg s a).toNat
      ∃ t st, exec (.pgmig fm d a b) s = retires (fm.len 50) (wg t d (BitVec.ofNat 64 st)) ∧
        (heapAddr s1.ctx.space va = true → st = 3 ∧ t = s1) ∧
        ∀ first n lvl, pageOf s1 s1.ctx.space va = some (first, n, lvl) → heapAddr s1.ctx.space va = false →
          let fixed := meetsHeap s1 (first * 4096) ((first + n) * 4096) ||
            meetsArea s1 (first * 4096) ((first + n) * 4096) || decide (hbmEnd ≤ offsetOf ph.pa)
          let moving := s1.xlat.handOvers.any (fun e => inFrames first n e.1)
          let there := (List.range n).all (fun i => decide (ownerOf s1 ((first + i) * 4096) = q))
          (fixed = true → st = 3 ∧ t = s1) ∧
          (fixed = false → moving = true → st = 4 ∧ t = s1) ∧
          (fixed = false → moving = false → there = true → st = 1 ∧ t = s1) ∧
          (fixed = false → moving = false → there = false → roomAt q n s1 = none → st = 2 ∧ t = s1) ∧
          (∀ s2, fixed = false → moving = false → there = false → roomAt q n s1 = some s2 →
            st = 0 ∧ (∀ i, i < n → ownerOf t ((first + i) * 4096) = q) ∧
            ∀ x ∈ t.coh.copies, inFrames first n (lineFrame x.line) = false)) ∧
    (clean s [.g a] = true → (rg s a).toNat < 2 ^ 56 →
      let va := (rg s a).toNat
      (heapAddr s.ctx.space va = true → exec (.pgcmp fm d a) s = retires (fm.len 50) (wg s d 3)) ∧
      (heapAddr s.ctx.space va = false → ∀ lvl e p,
        (walk s s.ctx.space va = .compressed lvl e p → exec (.pgcmp fm d a) s = retires (fm.len 50) (wg s d 4)) ∧
        (walk s s.ctx.space va = .leaf lvl e p → step4 s s.ctx.space (leafPhys lvl e va) 1 = true →
          storesPerformed 2 s = true →
          let n := zippedBytes e
          let frame := pteAddr e / n * n
          let fixed := decide (lvl ≠ 0 ∨ ownerOf s frame ≠ s.pkg ∨ hbmEnd ≤ offsetOf frame) || pageLocked s frame n
          let data := memReadN (quiesce s).mem frame n
          let full := decide (zoneSize s < zoneUsed s + Config.zippedSize data)
          (fixed = true → exec (.pgcmp fm d a) s = retires (fm.len 50) (wg s d 3)) ∧
          (fixed = false → quiet (quiesce s) = true →
            ∃ t st, exec (.pgcmp fm d a) s = retires (fm.len 50) (wg t d (BitVec.ofNat 64 st)) ∧
              (∀ x ∈ t.core.tlb, x.hits s.ctx.space va = false) ∧
              (Config.compressible data = false → st = 1 ∧ t.xlat.zipped = s.xlat.zipped) ∧
              (Config.compressible data = true → full = true → st = 2 ∧ t.xlat.zipped = s.xlat.zipped) ∧
              (Config.compressible data = true → full = false → st = 0 ∧
                ∃ z, t.xlat.zipped = s.xlat.zipped ++ [z] ∧ z.data = data)))))

/-! ## Steps of the memory system -/

/-- The steps between a write and its home, between a fill and its copy, and of tokens, confirmations, retention and
remote requests: each does what its rule says where it may take place, and nothing where it may not; a request of
another package is applied once, and forwarded where another package owns its page by now; a home on a die that has been
fenced off serves none; a message that carries an
old incarnation, or comes from a dead package, has no effect but its log record and poison. That an exit from retention
takes every copy of the die and every fill on its way to it, and that a reply makes no copy where the die holds one no
older, are the model's choices (log 36) (R138, R145, R240 to R250, R389 to R391). -/
def Obligations.MemorySystemEvents : Prop :=
  ∀ (die line : Nat) (s : State),
    (s.coh.wts.find? (fun w => w.die = die ∧ w.line = line ∧ ¬ w.applied) = none →
      exec (.writeThrough die line) s = .next s) ∧
    (∀ w, s.coh.wts.find? (fun w => w.die = die ∧ w.line = line ∧ ¬ w.applied) = some w →
      w.inc ≠ incOf s (.die die) →
      ∃ t, exec (.writeThrough die line) s = .next t ∧ t.mem = s.mem ∧ t.coh.wts.length + 1 = s.coh.wts.length ∧
        t.rel.log = s.rel.log ++ [⟨BitVec.ofNat 64 s.cyc, 6, die, 0, line * 128, 1⟩]) ∧
    (∀ w, s.coh.wts.find? (fun w => w.die = die ∧ w.line = line ∧ ¬ w.applied) = some w → s.memOk →
      w.inc = incOf s (.die die) →
      ∃ t, exec (.writeThrough die line) s = .next t ∧ t.ctx = s.ctx ∧
        (∀ i x, w.data[i]? = some x →
          memRead t.mem (w.pa + i) = (memRead s.mem (w.pa + i) &&& ~~~w.mask) ||| (x &&& w.mask)) ∧
        ∀ x, x < w.pa ∨ w.pa + w.data.length ≤ x → memRead t.mem x = memRead s.mem x) ∧
    (∀ w, s.coh.wts.find? (fun w => w.die = die ∧ w.line = line ∧ w.applied) = some w →
      ∃ t, exec (.writeThroughAck die line) s = .next t ∧ t.ctx = s.ctx ∧ t.mem = s.mem ∧
        t.coh.wts.length + 1 = s.coh.wts.length ∧
        ∀ x ∈ t.coh.copies, x.die = die → x.line = line → x.version = w.ver) ∧
    (die ≤ 3 → localMem s (line * 128) = true → homeDie (line * 128) ≠ die →
      ∃ t f v, exec (.fillRequest die line) s = .next t ∧ t.coh.fills = s.coh.fills ++ [f] ∧ f.die = die ∧
        f.line = line ∧ f.stamp = generation s.coh die ∧
        f.reply = (memReadN t.mem (line * 128) 128, linePoisoned t line, v)) ∧
    (∀ f d p v, s.coh.fills.find? (fun f => f.die = die ∧ f.line = line) = some f → f.reply = (d, p, v) →
      ∃ t, exec (.fillReply die line) s = .next t ∧ t.mem = s.mem ∧ t.coh.fills.length + 1 = s.coh.fills.length ∧
        (copyOf s.coh die line = none → ⟨die, line, d, p, f.stamp, v⟩ ∈ t.coh.copies) ∧
        (∀ y, copyOf s.coh die line = some y → ageOf s.coh y = 0 → t.coh.copies = s.coh.copies)) ∧
    ((s.coh.sweeping[die]?).getD false = true →
      ∃ t, exec (.generationSweepEnd die) s = .next t ∧ (t.coh.sweeping[die]?).getD false = false ∧
        ∀ x ∈ t.coh.copies, x.die = die → ageOf s.coh x < 2 ^ 14) ∧
    ((s.coh.sweeping[die]?).getD false = false → exec (.generationSweepEnd die) s = .next s) ∧
    (∀ core, core < 256 →
      (s.coh.persistent.any (fun e => decide (e.1 = core / 64 ∧ e.2.1 = core)) = true →
        exec (.persistentRequest core line) s = .next s) ∧
      (s.coh.persistent.any (fun e => decide (e.1 = core / 64 ∧ e.2.1 = core)) = false →
      ∃ t, exec (.persistentRequest core line) s = .next t ∧
        t.coh.persistent = s.coh.persistent ++ [(core / 64, core, line)] ∧
        (activePersistent s.coh (core / 64) line = none → ∀ x ∈ t.coh.tokens, x.die = core / 64 → x.line = line →
          x.core = core ∧ x.n = 128) ∧
        (activePersistent s.coh (core / 64) line ≠ none → t.coh.tokens = s.coh.tokens))) ∧
    (∃ t, exec (.retentionEntry die line) s = .next t ∧ t.coh.copies = s.coh.copies ∧
      ⟨die, line, (s.coh.gencur[die]?).getD 0⟩ ∈ t.coh.retained) ∧
    (∀ r, s.coh.retained.find? (fun r => r.die = die ∧ r.slice = line) = some r →
      let passed := ((s.coh.gencur[die]?).getD 0 + 2 ^ 32 - r.count) % 2 ^ 32
      ∃ t, exec (.retentionExit die line) s = .next t ∧ t.mem = s.mem ∧
        (passed < 2 ^ 15 → t.coh.copies = s.coh.copies) ∧
        (2 ^ 15 ≤ passed → (∀ x ∈ t.coh.copies, x.die ≠ die) ∧ ∀ x ∈ t.coh.fills, x.die ≠ die)) ∧
    (∀ gtid c, s.coh.confirms.find? (fun c => c.gtid = BitVec.ofNat 64 gtid ∧ c.line = line ∧ c.answer = none) = some c →
      ∃ t, exec (.confirmationRequest gtid line) s = .next t ∧ t.ctx = s.ctx ∧ t.mem = s.mem ∧
        { c with answer := some (c.version.isSome && decide (versionOf s.coh line = c.version)) } ∈ t.coh.confirms) ∧
    (∀ gtid c, s.coh.confirms.find? (fun c => c.gtid = BitVec.ofNat 64 gtid ∧ c.line = line ∧ c.answer.isSome) = some c →
      s.ctx.prv.gtid = BitVec.ofNat 64 gtid → s.core.act = true →
      ∃ t, exec (.waysideAnswer gtid line) s = .next t ∧ t.mem = s.mem ∧
        ∀ (i : Nat) (w : Wayside), s.ctx.aux.wayside[i]? = some w →
          t.ctx.aux.wayside[i]? = some (if w.line = line ∧ w.version = c.version ∧ w.state = .pending then
            { w with state := if c.answer = some true then .confirmed else .struck } else w)) ∧
    (∀ gtid c, s.coh.confirms.find? (fun c => c.gtid = BitVec.ofNat 64 gtid ∧ c.line = line) = some c →
      s.ctx.prv.gtid = BitVec.ofNat 64 gtid → s.core.act = true →
      ∃ t, exec (.waysideTimeout gtid line) s = .next t ∧ t.mem = s.mem ∧
        ∀ (i : Nat) (w : Wayside), s.ctx.aux.wayside[i]? = some w →
          t.ctx.aux.wayside[i]? = some (if w.line = line ∧ w.version = c.version ∧ w.state = .pending then
            { w with state := .struck } else w)) ∧
    (∀ pkg seq a n (v : Word) inc poison full, pkg ≠ s.pkg → 1 ≤ n → n ≤ 8 → a % 128 + n ≤ 128 →
      let seen := seenOf s.fab pkg s.pkg
      let ev : Instr := .remotePackageRequest pkg ⟨seq, .write a n v, inc, poison, full⟩
      let first := lineOf a * 128
      (inc ≠ incOf s (.package pkg) ∨ s.rel.deadPkgs.contains pkg = true →
        ∃ t, exec ev s = .next t ∧ t.mem = s.mem ∧
          t.rel.log = s.rel.log ++ [⟨BitVec.ofNat 64 s.cyc, 6, homeDie first, 0, first, 1⟩] ∧
          (localMem s first = true → (agentKey (.package pkg), lineOf a) ∉ s.rel.scrubbed →
            poisonedLine t.coh (lineOf a) = true)) ∧
      (inc = incOf s (.package pkg) → s.rel.deadPkgs.contains pkg = false → seen.fresh seq = false →
        exec ev s = .next s) ∧
      (inc = incOf s (.package pkg) → s.rel.deadPkgs.contains pkg = false → seen.fresh seq = true →
        offsetOf a < hbmEnd →
        (inCarve s a n = true ∨ (localMem s a = true ∧ deadHome s a = true) → exec ev s = .next s) ∧
        (inCarve s a n = false → localMem s a = true → deadHome s a = false → s.memOk → s.xlat.proposals = [] →
          ∃ t, exec ev s = .next t ∧ t.ctx = s.ctx ∧ memReadN t.mem a n = bytesOfNat n v.toNat ∧
            (poison = true → poisonedLine t.coh (lineOf a) = true) ∧
            (∀ x, x < a ∨ a + n ≤ x → memRead t.mem x = memRead s.mem x) ∧
            (∃ e ∈ t.xlat.counters, e.1 = frameOf a ∧ e.2.1 = pkg) ∧
            (seen.above.length ≤ 65536 → exec ev t = .next t)) ∧
        (inCarve s a n = false → localMem s a = false →
          (pairFull s a = true → exec ev s = .next s) ∧
          (pairFull s a = false →
            ∃ t m, exec ev s = .next t ∧ t.mem = s.mem ∧ t.fab.msgs = s.fab.msgs ++ [m] ∧ m.dst = ownerOf s a ∧
              m.rq = .write a n v ∧ m.poison = poison ∧ m.fwd = some (pkg, seq))))) ∧
    (∀ q, s.coh.atomics.find? (fun q => q.die = die ∧ lineOf q.pa = line) = some q → s.memOk → s.coh.wts = [] →
      localMem s q.pa = true → s.ctx.prv.gtid = q.gtid → s.core.act = true →
      ∃ t, exec (.atomicAtHome die line) s = .next t ∧ t.coh.atomics.length + 1 = s.coh.atomics.length ∧
        (linePoisoned s (lineOf q.pa) = true → t.mem = s.mem ∧ t.ctx.aux.sent = .atomicPoison) ∧
        (linePoisoned s (lineOf q.pa) = false →
          (∃ fl, t.ctx.aux.sent = .atomicAnswer (BitVec.ofNat 64 (natOfBytes (memReadN s.mem q.pa q.size))) fl) ∧
          (∀ x, x < q.pa ∨ q.pa + q.size ≤ x → memRead t.mem x = memRead s.mem x) ∧
          (AmoOp.ofCode q.op = .swap → memReadN t.mem q.pa q.size = bytesOfNat q.size q.src.toNat)))

/-! ## Management services -/

/-- A management service runs where the monitor's handler was entered by `MVC` with its number, and nowhere else; a
caller below its lowest level gets status 3 and nothing else changes. A service waits for the caller's earlier stores,
`GROUPBIND` also for a route to each package that is to record its list. A service that ends leaves its status in `g5`
and execution goes on after the `mvc`, at the caller's level. That a service is one step is the model's choice (log 50)
(R118, R328, R418, R451). -/
def Obligations.ServiceCalls : Prop :=
  ∀ (s : State),
    let services : List (Instr × Nat × Nat) :=
      [(.rdcsize, 0x40, 2), (.pool, 0x41, 2), (.zone, 0x42, 2), (.propose, 0x43, 2), (.expand, 0x44, 1),
       (.runq, 0x48, 2), (.sapool, 0x49, 2), (.elect, 0x4A, 2), (.auditcfg, 0x50, 2), (.auditlog, 0x51, 2),
       (.auditrun, 0x52, 2), (.auditrule, 0x53, 2), (.quarantine, 0x54, 2), (.dbgstop, 0x58, 1),
       (.rollcall, 0x59, 2), (.groupbind, 0x60, 1), (.routeset, 0x61, 2), (.notify, 0x62, 2), (.hostvf, 0x63, 2),
       (.hostwin, 0x64, 2), (.extend, 0x68, 2), (.quote, 0x69, 2)]
    let cause := s.ctx.prv.mon.cause
    (∀ x ∈ services,
      (firmwareCalled s = false ∨ bits cause 16 16 ≠ x.2.1 → exec x.1 s = .next s) ∧
      (firmwareCalled s = true → bits cause 16 16 = x.2.1 →
        (bits cause 62 2 < x.2.2 → exec x.1 s = .next (finishService 3 s)) ∧
        (x.2.2 ≤ bits cause 62 2 → storesPerformed 3 s = false ∨ (x.2.1 = 0x60 ∧ bindReady s = false) →
          exec x.1 s = .next (progress s)) ∧
        (x.2.2 ≤ bits cause 62 2 → storesPerformed 3 s = true → (x.2.1 = 0x60 → bindReady s = true) →
          ∃ st t, exec x.1 s = .next (finishService st t) ∧ st ≤ 3 ∧
          t.pc = s.pc ∧ t.ctx.prv.mon.epc = s.ctx.prv.mon.epc ∧ t.pl = s.pl))) ∧
    (∀ st t, finishService st s = t →
      rg t 5 = BitVec.ofNat 64 st ∧ t.pc = vecAddr (s.ctx.prv.mon.epc + BitVec.ofNat 64 (callBytes s)) ∧
      t.pl = bits cause 62 2 ∧ t.ie 3 = cause.getLsbD 61 ∧ (∀ n, n ≠ 5 → rg t n = rg s n) ∧ t.mem = s.mem)

/-- What each service does for a caller it accepts whose stores have been performed, `g5` to `g8` its arguments: status
2 for an argument out of its range, 1 where what it asks for is refused, and 0 with its effect; a supervisor may call
`EXPAND`, `DBGSTOP` and `GROUPBIND`, for its own partition. The model's choices: the addresses that `EXTEND`, `QUOTE`,
`AUDITLOG` and `GROUPBIND` take are physical and status 2 comes before 1 (log 35), `ROLLCALL` answers 1 for a ring in a
window (log 38), `ROUTESET` of 256 outside a repair in host-assisted mode answers 0 (log 42), what other packages hold of
a group's members (log 44), and a service is one step (log 50) (R328, R359, R385 to R387, R401 to R405, R417 to R420,
R429). -/
def Obligations.ServiceEffects : Prop :=
  ∀ (s : State), firmwareCalled s = true → 1 ≤ bits s.ctx.prv.mon.cause 62 2 → storesPerformed 3 s = true →
    let a := arg s 5
    let b := arg s 6
    let c := arg s 7
    let d := arg s 8
    let gives (i : Instr) (n st : Nat) (t : State) : Prop :=
      bits s.ctx.prv.mon.cause 16 16 = n → exec i s = .next (finishService st t)
    let hi := s.pkg * 2 ^ 44 + (a + 1) * 0x3000000000
    (aligned b 4096 = false ∨ 2 ^ 56 ≤ a → gives .expand 0x44 2 s) ∧
    (aligned b 4096 = true → a < 2 ^ 56 → heapAddr s.ctx.space a = true → gives .expand 0x44 1 s) ∧
    (aligned b 4096 = true → a < 2 ^ 56 → heapAddr s.ctx.space a = false →
      ∀ lvl e p, walk s s.ctx.space a = .compressed lvl e p →
        (step4 s s.ctx.space b (zippedBytes e) = false → gives .expand 0x44 2 s) ∧
        (step4 s s.ctx.space b (zippedBytes e) = true →
          (expandInto e b s = none → gives .expand 0x44 1 s) ∧
          (∀ t, expandInto e b s = some t → gives .expand 0x44 0 t))) ∧
    (stopTarget s (rg s 5) = false ∨ 1 < b → gives .dbgstop 0x58 2 s) ∧
    (a < 2 ^ 48 → b ≤ 1 → stopTarget s (rg s 5) = true →
      (s.ctx.prv.gtid = rg s 5 → s.core.act = true → s.cur < 256 →
        ∃ t, gives .dbgstop 0x58 0 t ∧ t.ctx.prv.status.getLsbD 7 = decide (b = 1)) ∧
      ((findContext s (rg s 5)).isSome = false →
        let rest := s.dbg.stops.filter (fun x => decide (x.1 ≠ rg s 5))
        (64 ≤ rest.length → gives .dbgstop 0x58 1 s) ∧
        (rest.length < 64 → gives .dbgstop 0x58 0 { s with dbg.stops := rest ++ [(rg s 5, decide (b = 1))] }))) ∧
    (let pid := if bits s.ctx.prv.mon.cause 62 2 = 1 then s.pid else b
     a ≤ 65535 → d ≤ 4096 → pid ≤ 4095 → (d = 0 ∨ bufferOk s c (8 * d) = true) → bindReady s = true →
      ((readGtids s c d).all (memberOk s pid) = false → gives .groupbind 0x60 2 s) ∧
      ((readGtids s c d).all (memberOk s pid) = true →
        (groupBusy s a = true → gives .groupbind 0x60 1 s) ∧
        (groupBusy s a = false → ∃ t, gives .groupbind 0x60 0 t ∧
          t.copy.groups.find? (fun g => g.num = a) = (if d = 0 then none else some ⟨a, pid, readGtids s c d⟩)))) ∧
    (2 ≤ bits s.ctx.prv.mon.cause 62 2 →
    (3 < a ∨ 16 < b → gives .rdcsize 0x40 2 s) ∧
    (a ≤ 3 → b ≤ 16 → b ≠ 0 → meetsGuests s (hi - b * 2 ^ 30) hi = true → gives .rdcsize 0x40 1 s) ∧
    (a ≤ 3 → b ≤ 16 → (b = 0 ∨ meetsGuests s (hi - b * 2 ^ 30) hi = false) →
      ∃ t, gives .rdcsize 0x40 0 t ∧ t.xlat.carve[a]? = some b ∧ t.mem = s.mem) ∧
    gives .pool 0x41 (if aligned a 4096 && pow2In b 16 (2 ^ 20) then 0 else 2)
      (if aligned a 4096 && pow2In b 16 (2 ^ 20) then { s with xlat.pool := some ⟨a, b⟩ } else s) ∧
    (aligned a (2 ^ 21) = true → aligned b (2 ^ 21) = true →
      (s.xlat.zipped ≠ [] → gives .zone 0x42 1 s) ∧
      (s.xlat.zipped = [] → gives .zone 0x42 0 { s with xlat.zone := some (a, b) })) ∧
    (a < 4096 → aligned b 4096 = true → pow2In c 1 (2 ^ 52) = true →
      ∃ t, gives .propose 0x43 0 t ∧ proposalOf t a = some ⟨a, ⟨b, c⟩, bits (rg s 8) 0 16, bits (rg s 8) 16 8⟩) ∧
    (a ≤ 4095 → b ≤ 31 → aligned c 4096 = true → pow2In d 16 65536 = true →
      ((queueOf s a b).any (fun q => !(recsIn s q 1).isEmpty) = true → gives .runq 0x48 1 s) ∧
      ((queueOf s a b).any (fun q => !(recsIn s q 1).isEmpty) = false →
        ∃ t, gives .runq 0x48 0 t ∧ queueOf t a b = some ⟨a, b, c, d⟩)) ∧
    (a ≤ 4095 → aligned b 4096 = true → pow2In c 16 (2 ^ 20) = true →
      ∃ t, gives .sapool 0x49 0 t ∧ t.sched.sapools.find? (fun x => x.1 = a) = some (a, ⟨b, c⟩)) ∧
    (a ≤ 3 → (dieLive s a && s.sched.electHost && s.sched.election) = true →
      gives .elect 0x4A 0 { s with sched.master := a, sched.election := false }) ∧
    (a ≤ 3 → (dieLive s a && s.sched.electHost && s.sched.election) = false → gives .elect 0x4A 1 s) ∧
    (a ≤ 3 → 4 ≤ b → b ≤ 20 → c ≤ 15 →
      ∃ t, gives .auditcfg 0x50 0 t ∧ t.rel.auditK[a]? = some b ∧ t.rel.retry[a]? = some c) ∧
    (bufferOk s a 64 = true →
      (s.rel.reports = [] → gives .auditlog 0x51 1 s) ∧
      (∀ r l, s.rel.reports = r :: l →
        ∃ t, gives .auditlog 0x51 0 t ∧ t.rel.reports = l ∧ (s.memOk → memReadN t.mem a 64 = reportBytes r))) ∧
    (auditAt s a = none → gives .auditrun 0x52 2 s ∧ gives .auditrule 0x53 2 s) ∧
    (∀ r, auditAt s a = some r → r.reported = true →
      (b ≤ 127 → mayBreak s r b = false → gives .auditrun 0x52 1 s) ∧
      (b ≤ 127 → mayBreak s r b = true → ∃ t, gives .auditrun 0x52 0 t ∧ rg t 6 = (replayOn b r.op s).1) ∧
      (1 ≤ b → b ≤ 3 → gives .auditrule 0x53 0 (settleAudit b r s))) ∧
    (127 < a ∨ 1 < b → gives .quarantine 0x54 2 s) ∧
    (a ≤ 127 → b = 1 → ∃ t, gives .quarantine 0x54 0 t ∧ (engineAt t a).quarantined = true) ∧
    (a ≤ 127 → b = 0 → bits s.ctx.prv.mon.cause 62 2 = 2 → gives .quarantine 0x54 3 s) ∧
    (a ≤ 127 → b = 0 → bits s.ctx.prv.mon.cause 62 2 = 3 →
      ∃ t, gives .quarantine 0x54 0 t ∧ (engineAt t a).quarantined = false) ∧
    (let u := catchUp (s.cyc - s.dbg.rollAt + 2) s
     (rollDue s = none → periodDue s = none → u = s) ∧
     (a = 0 → ∃ t, gives .rollcall 0x59 0 t ∧ t.dbg.rollNext = some 0 ∧ t.dbg.rollK = u.dbg.rollK ∧
       ∀ (i : Nat) x, t.dbg.roll[i]? = some x → x.count = 0 ∧ x.last = []) ∧
     (10 ≤ a → a ≤ 24 → b ≤ 15 → aligned c 4096 = true → pow2In d (2 ^ 16) (2 ^ 30) = true →
      (ringInWindow u c (c + 4096 + d) = true → gives .rollcall 0x59 1 u) ∧
      (ringInWindow u c (c + 4096 + d) = false → ∃ t, gives .rollcall 0x59 0 t ∧ t.dbg.rollNext = some a ∧
        t.dbg.rollMask = b ∧ t.dbg.rollRing = c ∧ t.dbg.rollSize = d))) ∧
    (a = 256 → s.fab.repairHost = true → ∃ t, gives .routeset 0x61 0 t ∧ t.fab.repairing = false) ∧
    (a = 256 → s.fab.repairHost = false → gives .routeset 0x61 0 s) ∧
    (a ≤ 255 → b ≤ 17 →
      (s.fab.linksUp.getLsbD b = false → gives .routeset 0x61 1 s) ∧
      (s.fab.linksUp.getLsbD b = true → ∃ t, gives .routeset 0x61 0 t ∧ t.fab.routes.find? (fun r => r.1 = a) = some (a, b))) ∧
    (a ≤ 255 → b = 0 → gives .notify 0x62 0 { s with host.notifyCore := a, host.dumpRing := none }) ∧
    (a ≤ 255 → b ≠ 0 → aligned b 4096 = true → pow2In c (2 ^ 20) (2 ^ 34) = true →
      gives .notify 0x62 0 { s with host.notifyCore := a, host.dumpRing := some ⟨b, c⟩ }) ∧
    (1 ≤ a → a ≤ 64 → 1 ≤ b → b ≤ 4095 → d ≤ 255 → aligned c 65536 = true → insideWindow s b c 65536 = true →
      ((vfOf s a).any (fun x => decide (x.pid ≠ b)) = true → gives .hostvf 0x63 1 s) ∧
      ((vfOf s a).any (fun x => decide (x.pid ≠ b)) = false → ∃ t, gives .hostvf 0x63 0 t ∧ vfOf t a = some ⟨a, b, c, d⟩)) ∧
    (b = 0 → gives .hostwin 0x64 0 { s with host.window := none }) ∧
    (pow2In b 1 512 = true → aligned a (2 ^ 30) = true → originOf a = s.pkg → offsetOf a + b * 2 ^ 30 ≤ hbmEnd →
      (inCarve s a (b * 2 ^ 30) = true → gives .hostwin 0x64 1 s) ∧
      (inCarve s a (b * 2 ^ 30) = false → gives .hostwin 0x64 0 { s with host.window := some (a, b * 2 ^ 30) })) ∧
    (4 ≤ a → a ≤ 7 → bufferOk s b 32 = true →
      ∃ t, gives .extend 0x68 0 t ∧ t.mem = s.mem ∧ ∀ m, s.boot.measure[a]? = some m →
        t.boot.measure[a]? = some (digestValue (sm3 (digestBytes m ++ memReadN s.mem b 32)))) ∧
    (bufferOk s a 32 = true → bufferOk s b 384 = true →
      ∃ t, gives .quote 0x69 0 t ∧ (s.memOk →
        memReadN t.mem b 368 = quoteBytes s (c % 256) (memReadN s.mem a 32))))

/-! ## Interrupts, asynchronous causes and faults of the fetch -/

/-- An asynchronous cause, MCHK before AUDIT, enters the level it routes to and is no longer pending, with the repeats
left recorded; then PREEMPT, then INT, where pending and enabled; a fault of the fetch enters with its detail and
address, the sixteenth refault of a PAGE as TRANS; words that are no instruction raise ILL; a fetch that fails between
two repeats leaves the number of those left in REP; a message that arrives is counted once; a `WFI` that may be executed
retires before an interrupt is taken; a halted core takes and fetches nothing (R87, R88, R283, R284, R301, R302, R321,
R329 to R333, R340, R425). -/
def Obligations.TrapEventResults : Prop :=
  ∀ (s : State),
    let goes (code : Nat) (l : Nat) : Prop := l = route s code s.pl ∧ 1 ≤ l ∧ hasHandler l s
    (s.core.halted = true → exec .asyncCauseDelivery s = .next s ∧ exec .interruptEntry s = .next s) ∧
    (s.core.halted = false → s.ctx.aux.repLeft = 0 →
      (∀ l, mchkPending s = true → goes 0x13 l →
        ∃ t, exec .asyncCauseDelivery s = .next t ∧ entered l 0x13 s.ctx.prv.mchkDetail.toNat 0 s t ∧
          mchkPending t = false ∧ auditPending t = auditPending s) ∧
      (∀ l, mchkPending s = false → auditPending s = true → goes 0x0F l →
        ∃ t, exec .asyncCauseDelivery s = .next t ∧
          entered l 0x0F s.ctx.prv.auditDetail.toNat s.ctx.prv.auditTval s t ∧ auditPending t = false)) ∧
    (s.core.halted = false → mchkPending s = true → s.ctx.aux.repLeft ≠ 0 → s.ctx.aux.repLeft < 128 →
      ∃ t, exec .asyncCauseDelivery s = .next t ∧ t.ctx.ctl.rep = s.ctx.aux.repLeft ∧ t.ctx.ctl.owner = s.ctx.level) ∧
    (mchkPending s = false → auditPending s = false → exec .asyncCauseDelivery s = .next s) ∧
    (preemptReady s = true ∨ intReady s = true → atWfi s = true → exec .interruptEntry s = .next s) ∧
    (s.core.halted = false → atWfi s = false → s.ctx.aux.sent = .nothing → s.ctx.aux.repLeft = 0 →
      (∀ idx entry, s.core.preempt = some (idx, entry) → preemptReady s = true → 1 ≤ preemptLevel s entry →
        hasHandler (preemptLevel s entry) s →
        ∃ t, exec .interruptEntry s = .next t ∧
          entered (preemptLevel s entry) 0x15 idx (BitVec.ofNat 64 (bits entry 0 48)) s { t with core := s.core } ∧
          t.core = { s.core with preempt := none, minPl := preemptLevel s entry }) ∧
      (∀ l, preemptReady s = false → intReady s = true → goes 0x14 l →
        ∃ x ∈ intsFor s, ∃ t, exec .interruptEntry s = .next t ∧ entered l 0x14 x.2.1 0 s { t with core := s.core } ∧
          t.core.preempt = s.core.preempt ∧
          (x.1 = false → ∀ i ∈ t.core.ints, ¬ (i.detail = x.2.1 ∧ i.pid = x.2.2)) ∧
          (x.1 = true → t.core.ints = s.core.ints))) ∧
    (preemptReady s = false → intReady s = false → exec .interruptEntry s = .next s) ∧
    (s.core.halted = true → exec .illegalInstruction s = .next s ∧ ∀ f, exec (.instructionFetchFault f) s = .next s) ∧
    (s.core.halted = false → s.ctx.aux.repLeft ≠ 0 → s.ctx.aux.repLeft < 128 →
      let left (i : Instr) : Prop := ∃ t, exec i s = .next t ∧ bits t.ctx.ctl.xstate 0 7 = s.ctx.aux.repLeft ∧
        bits t.ctx.ctl.xstate 8 8 = 0
      left .illegalInstruction ∧ left (.instructionFetchFault .entry) ∧ left (.instructionFetchFault .poison) ∧
      ∀ detail va, left (.instructionFetchFault (.page detail va))) ∧
    (s.core.halted = false → s.ctx.aux.repLeft = 0 →
    (∀ l, goes 0x0E l → ∃ t, exec (.instructionFetchFault .entry) s = .next t ∧ entered l 0x0E 2 0 s t) ∧
    (∀ l, goes 0x13 l → ∃ t, exec (.instructionFetchFault .poison) s = .next t ∧ entered l 0x13 1 0 s t) ∧
    (∀ detail va l, rfcSeen s = 0 → s.ctx.ctl.lastValid = false → goes 0x05 l →
      ∃ t, exec (.instructionFetchFault (.page detail va)) s = .next t ∧
        entered l 0x05 detail va s { t with ctx.ctl := s.ctx.ctl } ∧
        t.ctx.ctl.lastValid = true ∧ t.ctx.ctl.lastVa = va ∧ t.ctx.ctl.lastPc = s.pc) ∧
    (∀ detail va l, rfcSeen s = 15 → s.ctx.ctl.lastPc = s.pc → s.ctx.ctl.lastVa = va → goes 0x06 l →
      ∃ t, exec (.instructionFetchFault (.page detail va)) s = .next t ∧
        entered l 0x06 detail va s { t with ctx.ctl := s.ctx.ctl }) ∧
    (∀ l, goes 0x01 l → ∃ t, exec .illegalInstruction s = .next t ∧ entered l 0x01 0 s.ctx.aux.ir s t)) ∧
    (∀ core pid, s.sched.ipis.contains (core, pid) = true →
      let n := (((getCore s core).messages.find? (fun m => m.1 = pid)).map (·.2)).getD 0
      ∃ t, exec (.ipiMessage core pid) s = .next t ∧ t.sched.ipis = s.sched.ipis.erase (core, pid) ∧ t.ctx = s.ctx ∧
        (countsPid s core pid = true →
          (getCore t core).messages.find? (fun m => m.1 = pid) = some (pid, min (n + 1) 65535)) ∧
        (countsPid s core pid = false → (getCore t core).messages = (getCore s core).messages)) ∧
    (∀ core pid, s.sched.ipis.contains (core, pid) = false → exec (.ipiMessage core pid) s = .next s)

/-! ## Scheduling -/

/-- What a core does at a quantum boundary: nothing for an entry of KIND 0; for KIND 1 it keeps the thread, swaps it in
or makes PREEMPT pending; for KIND 2 also where the lodged context was lodged before, so that the two take turns; a
PREEMPT that has not been taken stays pending. PREEMPT to another partition squashes what the context has not retired;
of the context nothing else changes. That a context which PREEMPT finds with interrupts masked goes on in the
quantum (log 23), and that a later PREEMPT takes an earlier one's place (log 106), are the model's choices. The isolation window opens in a quantum's last 1,088 cycles before another
partition's. A halted core does nothing (R283, R302, R338 to R340, R355). -/
def Obligations.QuantumBoundaries : Prop :=
  ∀ (core : Nat) (s : State),
    (∀ u, exec (.quantumBoundary core) (switchTo s core) = .next u →
      exec (.quantumBoundary core) s = .next (switchTo u s.cur)) ∧
    (∀ u, exec (.isolationWindow core) (switchTo s core) = .next u →
      exec (.isolationWindow core) s = .next (switchTo u s.cur)) ∧
    (s.core.halted = true → exec (.quantumBoundary s.cur) s = .next s) ∧
    (s.core.halted = false →
      let idx := s.cyc / 4096 % 16
      let entry := (s.core.slottab[idx]?).getD 0
      let kind := bits entry 62 2
      let pid := bits entry 0 12
      let here := s.core.act && qualifies entry s.ctx
      let there := (s.core.lodge.map (qualifies entry)).getD false
      let turn := decide ((s.core.lastLodged.find? (fun x => x.1 = pid)).map (·.2) = some (lodgedId s))
      let left := s.core.preempt
      ∃ t, exec (.quantumBoundary s.cur) s = .next t ∧ t.mem = s.mem ∧
        t.ctx = (if kind ≠ 0 ∧ here = false ∧ there = false ∧ s.core.act = true ∧ entryDiffers s entry = true
          then (squash s).ctx else s.ctx) ∧
        t.core.quantum = some (idx, entry) ∧ t.core.window = false ∧
        t.core.lent = none ∧
        (kind = 0 → t.core.swapping = s.core.swapping ∧ t.core.preempt = left) ∧
        (kind = 1 ∨ kind = 2 →
          (here = true → there = false → t.core.swapping = s.core.swapping ∧ t.core.preempt = left) ∧
          (here = false → there = true → t.core.swapping = true ∧ t.core.preempt = left)) ∧
        (kind = 1 → here = true → t.core.swapping = s.core.swapping ∧ t.core.preempt = left) ∧
        (kind = 2 → here = true → there = true →
          t.core.preempt = left ∧ t.core.swapping = (s.core.swapping || turn)) ∧
        (here = false → there = false → kind = 1 ∨ kind = 2 → (kind = 2 → reservedHere s pid = false) →
          t.core.preempt = some (idx, entry) ∧
            (s.core.act = true → t.core.minPl = preemptLevel s entry))) ∧
    (let next := (s.core.slottab[(s.cyc / 4096 + 1) % 16]?).getD 0
     exec (.isolationWindow s.cur) s = .next
       (if 3008 ≤ s.cyc % 4096 ∧ bits next 62 2 ≠ 0 ∧ s.core.act = true ∧ entryDiffers s next = true
        then { s with core.window := true } else s))

/-- The distributors and the spill engine: requests are taken, recorded and answered by the master. The first group of a
partition is placed where its save areas suffice and one instance has the banks, each member in a lodge, or with a bank
reserved where that is occupied; where it is not, or DONEW = 1 is still to be performed, and every team has a barrier,
nothing is placed; nor is it in an election. A record that a quantum wants is restored into the lodge; a team that is over leaves its completion word; a
thread that is killed is in no bank and Ended; the lowest live die becomes master. That an area taken for a member is
marked resident at once is the model's reading (log 25) (R21, R22, R34, R343, R344, R352 to R361, R367). -/
def Obligations.DistributorEvents : Prop :=
  ∀ (core id : Nat) (g : Word) (s : State),
    (∀ b donew c, takesSpawn s = true → s.sched.requests.find? Request.isSpawn = some (.spawn core g b donew) →
      findContext s g = some c →
      ∃ t, exec .spawnRequest s = .next t ∧ ∃ tm ∈ t.sched.teams, .accepted core g tm.id ∈ t.sched.requests ∧
        tm.donew = donew ∧ tm.noted = false ∧ tm.members.length = teamSize (usedLevels b) ∧
        ∀ m ∈ tm.members, m.life = .pending) ∧
    (takesSpawn s = false → exec .spawnRequest s = .next s) ∧
    (∀ tm, s.sched.election = false → s.sched.requests.find? (acceptable s) = some (.accepted core g id) →
      s.sched.teams.find? (fun t => t.id = id) = some tm → tm.noted = false → nearDonew s tm.donew = true →
      donewPending s tm = false → s.ctx.prv.gtid = g → s.core.act = true →
      ∃ t, exec .acceptanceRecorded s = .next t ∧ t.ctx.aux.sent = .spawnAnswer 0 ∧
        (∃ tm' ∈ t.sched.teams, tm'.id = id ∧ tm'.noted = true) ∧
        ∀ pa va, tm.donew = some (pa, va) → s.memOk → localMem s pa = true → deadHome s pa = false →
          memReadN t.mem pa 8 = bytesOfNat 8 1) ∧
    (s.sched.election = true → exec .chunkRequest s = .next s ∧ exec .acceptanceRecorded s = .next s) ∧
    (∀ tm, s.sched.election = false → s.sched.requests.find? Request.isInfo = some (.info core g id) →
      s.sched.teams.find? (fun t => t.id = id) = some tm → s.ctx.prv.gtid = g → s.core.act = true →
      ∃ t, exec .chunkRequest s = .next t ∧
        t.ctx.aux.sent = .infoAnswer (giveChunk g tm).2.1 (giveChunk g tm).2.2) ∧
    (∀ pid, (∃ t, exec (.groupAdmission pid) s = .next t ∧ t.ctx = s.ctx ∧
        t.sched.teams.length = s.sched.teams.length) ∧
      (s.sched.election = true ∨
        (freeAreas s pid = 0 ∧ ∀ x ∈ readyTeams s pid, ∀ m ∈ x.members, m.area = none) →
        exec (.groupAdmission pid) s = .next s) ∧
      ∀ x, firstGroup (pendGroups s pid) = some x →
        let span := spanOf x.team.levels x.level
        let ranks := (x.team.members.filter (fun m => decide (x.start ≤ m.rank ∧ m.rank < x.start + span) &&
          decide (m.life = .pending ∧ m.place = none))).map (·.rank)
        let banks := bestInstance s x.team.base.pid (domainOf x.team.levels x.level)
          (candidates s x.team ((ranks[0]?).getD 0))
        let free := (banks.map (fun c => availBanks s c x.team.base.pid)).sum
        (donewPending s x.team = true ∨ freeAreas s pid < areasWanted x.team ranks ∨ free < ranks.length →
          (∀ y ∈ readyTeams s pid, (barLevel y).isSome = true) →
          exec (.groupAdmission pid) s = .next s) ∧
        (s.sched.election = false → donewPending s x.team = false → areasWanted x.team ranks ≤ freeAreas s pid →
          (∀ l, assignGroup s x.team x.level ranks = some l →
            l.map Prod.fst = ranks ∧ (∀ e ∈ l, e.2 ∈ banks) ∧
            (∀ c ∈ banks, (l.filter (fun e => decide (e.2 = c))).length ≤ availBanks s c x.team.base.pid) ∧
            exec (.groupAdmission pid) s = .next (l.foldl (fun s e => placeMember x.team.id e.1 e.2 s) s)) ∧
          (x.team.levels.length = 1 → ranks.length = span → s.sched.restores = [] → ranks.length ≤ free →
            (assignGroup s x.team x.level ranks).isSome = true))) ∧
    (∀ rank tm m area u, s.sched.teams.find? (fun t => t.id = id) = some tm →
      tm.members.find? (fun m => m.rank = rank) = some m → m.life = .pending → m.area = none → core < 256 →
      takeArea tm.base.pid s = some (area, u) →
      let t := placeMember id rank core s
      (∃ tm' ∈ t.sched.teams, tm'.id = id ∧ ∃ m' ∈ tm'.members, m'.gtid = m.gtid ∧ m'.area = some area) ∧
      ((getCore s core).lodge = none → ∃ c, (getCore t core).lodge = some c ∧ c.prv.gtid = m.gtid ∧
        c.aux.area = some area ∧
        c.regs = { tm.base.regs with g := tm.base.regs.g.setIfInBounds 3 (BitVec.ofNat 64 m.rank) }) ∧
      ((getCore s core).lodge.isSome = true → (getCore t core).lodge = (getCore s core).lodge ∧
        (core, m.gtid) ∈ t.sched.reserved)) ∧
    (let entry := ((getCore s core).slottab[(s.cyc / 4096 + 1) % 16]?).getD 0
     (bits entry 62 2 = 0 ∨ bankFree s core = false ∨ (residents s core).any (qualifies entry) = true →
        exec (.runQueueRestore core) s = .next s) ∧
     (∀ q a, bits entry 62 2 ≠ 0 → bankFree s core = true → (residents s core).any (qualifies entry) = false →
        (entryQueues s (core / 8) entry).findSome? (fun q => (wantedRec s q core entry).map (fun a => (q, a))) =
          some (q, a) → recField s a 5 1 % 2 = 0 →
        ∃ t, exec (.runQueueRestore core) s = .next t ∧
          t.sched.restores = s.sched.restores ++ [⟨core, a, recField s a 8 8, q.pid, recGtid s a⟩] ∧ (s.memOk → recState t a = 2))) ∧
    (∀ r, s.sched.restores.find? (fun r => r.core = core) = some r → (getCore s core).lodge = none →
      ∃ t, exec (.restoreComplete core) s = .next t ∧ t.sched.restores = s.sched.restores.erase r ∧
        (∀ c, restoreArea s r.area = .ok c → ∃ c', (getCore t core).lodge = some c' ∧ c'.regs = c.regs) ∧
        (∀ b reason, restoreArea s r.area = .bad b reason → (getCore t core).lodge = none) ∧
        (∀ a, restoreArea s r.area = .outside a → (getCore t core).lodge = none)) ∧
    (s.sched.restores.find? (fun r => r.core = core) = none → exec (.restoreComplete core) s = .next s) ∧
    (∀ tm, s.sched.teams.find? (fun t => t.id = id) = some tm →
      (teamDone s tm = false → exec (.teamCompletion id) s = .next s) ∧
      (teamDone s tm = true → nearDonew s tm.donew = true → tm.ending = false →
        ∃ t, exec (.teamCompletion id) s = .next t ∧ (∀ x ∈ t.sched.teams, x.id ≠ id) ∧
        ∀ pa va, tm.donew = some (pa, va) → s.memOk → localMem s pa = true → deadHome s pa = false →
          memReadN t.mem pa 8 = bytesOfNat 8 (if tm.killed then (if tm.reissued then 0x11 else 0x10) else 0))) ∧
    ((findContext s (BitVec.ofNat 64 id)).isSome = true →
      ∃ t, exec (.threadKill id false) s = .next t ∧ findContext t (BitVec.ofNat 64 id) = none ∧
        ∀ tm, teamOf s (BitVec.ofNat 64 id) = some tm → tm.noted = true →
          ∃ tm' ∈ t.sched.teams, tm'.id = tm.id ∧ tm'.killed = true ∧
          ∀ m ∈ tm'.members, m.gtid = BitVec.ofNat 64 id → m.life = .ended) ∧
    (exec .masterElection s = .next (if s.sched.election && !s.sched.electHost
      then { s with sched.master := lowestLive s, sched.election := false } else s)) ∧
    (∀ c, (getCore s core).lodge = some c →
      (∀ area i, c.aux.area = some area →
        (List.range 100).find? (fun i => i ≠ 0 ∧ blockLive c i ∧ ¬ c.aux.spilled.contains i) = some i →
        leftBuffer s core c.prv.gtid = true → c.aux.extPending = none →
        ∃ t c', exec (.backgroundSpill core) s = .next t ∧ (getCore t core).lodge = some c' ∧ c'.regs = c.regs ∧
          c'.aux.spilled = i :: c.aux.spilled) ∧
      (∀ area n l, c.aux.area = some area → evictable c = n :: l → leftBuffer s core c.prv.gtid = true →
        ∃ t c', exec (.lodgedTileEviction core) s = .next t ∧ (getCore t core).lodge = some c' ∧ c'.regs = c.regs ∧
          c'.aux.evicted = c.aux.evicted ++ [n])) ∧
    ((getCore s core).lodge = none →
      exec (.backgroundSpill core) s = .next s ∧ exec (.lodgedTileEviction core) s = .next s) ∧
    (s.ctx.aux.evicted = [] → exec .tileNameReload s = .next s) ∧
    (∀ n l c, s.ctx.aux.evicted = n :: l → reloadName s s.ctx n = .ok c →
      exec .tileNameReload s = .next { s with ctx := c } ∧ c.regs = s.ctx.regs ∧ n ∉ c.aux.evicted)

/-- Pages: expansion gives a compressed page a frame and frees its handle; a frame that the current context is about to
fetch from, and no other, is translated once into native form, its poisoned lines staying so; and a hand-over that
completes leaves the new owner and no copy, but goes to no dead package, and one to this package needs a frame of its
pool; the host-assisted modes leave the first two to software, and a halted core fetches from no frame (R96, R250, R302,
R324, R326, R327). -/
def Obligations.PageEvents : Prop :=
  ∀ (va : Word) (frame pkg : Nat) (s : State),
    (s.core.act = false ∨ s.modes.getLsbD 1 = true → exec (.pageExpansion va) s = .next s) ∧
    (∀ lvl e a t, s.core.act = true → s.modes.getLsbD 1 = false → heapAddr s.ctx.space va.toNat = false →
      walk s s.ctx.space va.toNat = .compressed lvl e a → expandPage e a s = some t →
      exec (.pageExpansion va) s = .next t ∧ ∀ z ∈ t.xlat.zipped, z.handle ≠ bits e 12 40) ∧
    (s.modes.getLsbD 6 = true ∨ s.core.halted = true ∨ fetchesFrom s frame = false → exec (.frameTranslation frame) s = .next s) ∧
    (s.modes.getLsbD 6 = false → s.core.act = true → s.core.halted = false → localMem s (frame * 4096) = true → fetchesFrom s frame = true →
      let d := translateFrame (memReadN s.mem (frame * 4096) 4096)
      ∃ t, exec (.frameTranslation frame) s = .next t ∧ frame ∈ t.xlat.native ∧
        (frame ∈ s.xlat.native → t = s) ∧
        (frame ∉ s.xlat.native → s.memOk → memReadN t.mem (frame * 4096) d.length = d) ∧
        (frame ∉ s.xlat.native → ∀ l, lineFrame l = frame → linePoisoned s l = true → poisonedLine t.coh l = true)) ∧
    (s.rel.deadPkgs.contains pkg = true → exec (.handOver frame pkg) s = .next s) ∧
    (s.rel.deadPkgs.contains pkg = false →
      (s.xlat.handOvers.contains (frame, pkg) = true ∨
        (ownerOf s (frame * 4096) ≠ s.pkg ∧ (pkg ≠ s.pkg ∨ (takeFrames 1 s).isSome = true))) →
      ∃ t, exec (.handOver frame pkg) s = .next t ∧ ownerOf t (frame * 4096) = pkg ∧ t.ctx = s.ctx ∧
        (∀ x ∈ t.coh.copies, lineFrame x.line ≠ frame) ∧ ∀ e ∈ t.xlat.handOvers, e.1 ≠ frame) ∧
    (s.xlat.handOvers.contains (frame, pkg) = false →
      ownerOf s (frame * 4096) = s.pkg ∨ (pkg = s.pkg ∧ (takeFrames 1 s).isSome = false) →
      exec (.handOver frame pkg) s = .next s)

/-! ## Errors, audits and fenced dies -/

/-- Errors poison what they strike, and where nothing can be named the die is fenced off; a replay that agrees ends an
audit, one that does not waits for a tie-break or for AUDITRULE; the tie-break makes the minority suspect, or takes all
three engines out of service. A die that is fenced off is no longer live, holds nothing in the coherence tables, and
every line it held is poisoned (R367, R370, R371, R382, R383, R387 to R392). -/
def Obligations.ErrorAndAuditEvents : Prop :=
  ∀ (die line core idx num eng : Nat) (s : State),
    exec (.eccError (.corrected die)) s = .next (logEvent 1 die 0 0 1 s) ∧
    (localMem s (line * 128) = false → exec (.eccError (.memory line)) s = .next s) ∧
    (localMem s (line * 128) = true → ∃ t, exec (.eccError (.memory line)) s = .next t ∧ poisonedLine t.coh line = true ∧
      t.mem = s.mem) ∧
    (∃ t, exec (.eccError (.copy die line)) s = .next t ∧ copyOf t.coh die line = none ∧ t.mem = s.mem) ∧
    (∀ e, (getCore s core).sb[idx]? = some e →
      ∃ t, exec (.eccError (.storeBuffer core idx)) s = .next t ∧
        (getCore t core).sb[idx]? = some { e with poison := true }) ∧
    (s.core.act = true → idx < 64 →
      (∃ t, exec (.eccError (.register s.cur false 0 idx)) s = .next t ∧ poisonedSrc t (.g idx) = decide (idx ≠ 0) ∧
        t.ctx.regs = s.ctx.regs) ∧
      (∃ t, exec (.eccError (.register s.cur false 1 idx)) s = .next t ∧ poisonedSrc t (.f idx) = true ∧
        t.ctx.regs = s.ctx.regs) ∧
      ∃ t, exec (.eccError (.register s.cur false 4 idx)) s = .next t ∧ poisonedSrc t (.ctl idx) = true) ∧
    (∀ c, (getCore s core).lodge = some c → idx < 64 → ∃ t c', exec (.eccError (.register core true 1 idx)) s = .next t ∧
      (getCore t core).lodge = some c' ∧ c'.aux.poison.f.getLsbD idx = true ∧ c'.regs = c.regs) ∧
    (s.core.act = true → ∀ name band row col,
      (row < (tileBand (s.ctx.tile name) band).rows.length →
        ∃ t, exec (.eccError (.slotRow s.cur false false name band row)) s = .next t ∧
          row ∈ (tileBand (t.ctx.tile name) band).bad) ∧
      ((s.ctx.acc name).tag ≠ .empty → row < (s.ctx.acc name).rext → band < s.ctx.aux.gang →
        ∃ t, exec (.eccError (.slotRow s.cur false true name band row)) s = .next t ∧
          (band, row) ∈ (t.ctx.acc name).bad) ∧
      ((s.ctx.acc name).tag = .int → row < (s.ctx.acc name).rext → col < (s.ctx.acc name).cext → band < s.ctx.aux.gang →
        cellEntries (cellAt ((s.ctx.acc name).band band) row col) ≠ 0 →
        ∃ t, exec (.eccError (.cellar s.cur false name band row col)) s = .next t ∧
          (band, row, col) ∈ (t.ctx.acc name).badCells)) ∧
    (eng < 128 → ∀ acc slot row spare mask stuck,
      ∃ t, exec (.eccError (.defectRow eng acc slot row spare mask stuck)) s = .next t ∧
      ⟨acc, slot, row, spare, mask, stuck⟩ ∈ (engineAt t eng).rowFaults) ∧
    (eng < 128 → ∀ acc row col flip runs, ∃ t, exec (.eccError (.defectCell eng acc row col flip runs)) s = .next t ∧
      ⟨acc, row, col, flip, runs⟩ ∈ (engineAt t eng).faults) ∧
    exec (.eccError (.unattributable die)) s = .next (logEvent 2 die 0 0 1 (fenceDie die s)) ∧
    (auditAt s num = none → exec (.auditReplay num eng) s = .next s ∧ exec (.auditTieBreak num eng) s = .next s ∧
      exec (.auditTimeout num) s = .next s) ∧
    (∀ r, auditAt s num = some r →
      (r.replay.isSome = true ∨ mayReplay s r eng = false → exec (.auditReplay num eng) s = .next s) ∧
      (r.replay = none → mayReplay s r eng = true →
        let sig := (replayOn eng r.op s).1
        ∃ t, exec (.auditReplay num eng) s = .next t ∧
          (r.sigs[0]? = some sig → auditAt t num = none) ∧
          (r.sigs[0]? ≠ some sig → ∃ r', auditAt t num = some r' ∧ r'.replay = some eng ∧ r'.orig = r.orig ∧
            r'.reported = (r.reported || s.modes.getLsbD 4) ∧
            (s.modes.getLsbD 4 = true → t.rel.reports.any (fun x => decide (x.seq = num)) = true))) ∧
      (r.replay = none ∨ r.reported = true ∨ mayBreak s r eng = false → exec (.auditTieBreak num eng) s = .next s) ∧
      (∀ n, r.replay = some n → r.reported = false → mayBreak s r eng = true → r.orig < 128 → n < 128 →
        let sig := (replayOn eng r.op s).1
        ∃ t, exec (.auditTieBreak num eng) s = .next t ∧ auditAt t num = none ∧
          (r.sigs[1]? = some sig → (engineAt t r.orig).suspect = true) ∧
          (r.sigs[1]? ≠ some sig → r.sigs[0]? = some sig → (engineAt t n).suspect = true) ∧
          (r.sigs[1]? ≠ some sig → r.sigs[0]? ≠ some sig →
            ∀ m ∈ [r.orig, n, eng], (engineAt t m).quarantined = true)) ∧
      (r.reported = true → exec (.auditTimeout num) s = .next s) ∧
      (r.reported = false → ∃ t, exec (.auditTimeout num) s = .next t ∧ auditAt t num = none ∧
        t.rel.log = s.rel.log ++ [⟨BitVec.ofNat 64 s.cyc, 4, r.die, r.pid, 0, 1⟩])) ∧
    (3 < die ∨ (s.rel.fenced[die]?).getD true = true → exec (.dieFence die) s = .next s) ∧
    (die ≤ 3 → s.rel.fenced[die]? = some false →
      ∃ t, exec (.dieFence die) s = .next t ∧ dieLive t die = false ∧ t.boot.bootst.getLsbD (4 + die) = false ∧
        (∀ x ∈ t.coh.copies, x.die ≠ die) ∧ (∀ x ∈ t.coh.tokens, x.die ≠ die) ∧
        (∀ l ∈ heldBy s die, poisonedLine t.coh l = true) ∧
        incOf t (.die die) = (incOf s (.die die) + 1) % 65536) ∧
    exec (.agentDeclaredDead (.die die)) s = exec (.dieFence die) s ∧
    (∀ pkg, (pkg = s.pkg ∨ s.fab.present.contains pkg = false ∨ s.rel.deadPkgs.contains pkg = true ∨
        s.fab.repairing = true → exec (.agentDeclaredDead (.package pkg)) s = .next s) ∧
      (pkg ≠ s.pkg → s.fab.present.contains pkg = true → s.rel.deadPkgs.contains pkg = false →
        s.fab.repairing = false →
        ∃ t, exec (.agentDeclaredDead (.package pkg)) s = .next t ∧ pkg ∈ t.rel.deadPkgs ∧
          (∀ m ∈ t.fab.msgs, m.dst ≠ pkg) ∧ (∀ e ∈ t.xlat.handOvers, e.2 ≠ pkg) ∧
          incOf t (.package pkg) = (incOf s (.package pkg) + 1) % 65536)) ∧
    (∀ ag inc, ag ≠ .package s.pkg → incOf s ag ≤ inc → exec (.staleMessage ag line inc) s = .next s) ∧
    (∀ inc, ∃ t, exec (.staleMessage (.package s.pkg) line inc) s = .next t ∧ ∀ d, d < 4 → dieLive t d = false) ∧
    (∀ pkg inc, pkg ≠ s.pkg → inc < incOf s (.package pkg) → ∃ t, exec (.staleMessage (.package pkg) line inc) s = .next t ∧
      t.rel.log = s.rel.log ++ [⟨BitVec.ofNat 64 s.cyc, 6, homeDie (line * 128), 0, line * 128, 1⟩] ∧
      (localMem s (line * 128) = true → (agentKey (.package pkg), line) ∉ s.rel.scrubbed →
        poisonedLine t.coh line = true)) ∧
    (∀ inc, inc < incOf s (.die die) → ∃ t, exec (.staleMessage (.die die) line inc) s = .next t ∧
      dieLive t die = false)

/-! ## Packages, links and collectives -/

/-- A message between packages is applied once however often it is sent, and is kept until it is acknowledged, by a package
that has not been declared dead; without
a way out it waits; a port that goes down begins the repair of routes, after which every package present is reached over
a port that is up, the lowest such port being the model's choice (log 98). A message waits for an earlier one of its
thread to the same bytes; an atomic's thread has its answer. A collective whose members have all issued ends each of them
with a code, 7 where they disagree, unless a write has to wait; a member that is lost aborts the others (R227, R255, R390,
R391, R393, R417). -/
def Obligations.FabricAndCollectiveEvents : Prop :=
  ∀ (src dst seq port : Nat) (s : State),
    (∀ m, msgOf s src dst seq = some m →
      (m.sentOut = false ∨ m.applied = true ∨ (seenOf s.fab src dst).fresh seq = false ∨ msgBehind s m = true →
        exec (.fabricMessage src dst seq) s = .next s) ∧
      (m.sentOut = true → m.applied = false → (seenOf s.fab src dst).fresh seq = true → msgBehind s m = false →
        ∃ t, exec (.fabricMessage src dst seq) s = .next t ∧
          ((∀ op a n v cmp, m.rq ≠ .atomic op a n v cmp) → t.ctx = s.ctx) ∧
          (∀ op a n v cmp, m.rq = .atomic op a n v cmp → m.fwd = none → s.ctx.prv.gtid = m.gtid → s.core.act = true →
            (linePoisoned s (lineOf a) = true → t.ctx.aux.sent = .atomicPoison ∧ t.mem = s.mem) ∧
            (linePoisoned s (lineOf a) = false →
              ∃ fl, t.ctx.aux.sent = .atomicAnswer (BitVec.ofNat 64 (natOfBytes (memReadN s.mem a n))) fl)) ∧
          msgOf t src dst seq = some { m with applied := true } ∧ t.fab.msgs.length = s.fab.msgs.length ∧
          exec (.fabricMessage src dst seq) t = .next t ∧
          ∀ a n v, m.rq = .write a n v → s.memOk → memReadN t.mem a n = bytesOfNat n v.toNat ∧
            ∀ x, x < a ∨ a + n ≤ x → memRead t.mem x = memRead s.mem x)) ∧
    (msgOf s src dst seq = none → exec (.fabricMessage src dst seq) s = .next s) ∧
    (let dead := s.rel.deadPkgs.contains (if dst = s.pkg then src else dst)
     ∃ t, exec (.fabricAck src dst seq) s = .next t ∧ t.mem = s.mem ∧ t.ctx = s.ctx ∧
      (dead = true → t.fab = s.fab ∧ t.coh = s.coh ∧ t.rel.log.length = s.rel.log.length + 1) ∧
      (dead = false →
        ∀ m, m ∈ t.fab.msgs ↔ m ∈ s.fab.msgs ∧ ¬ (m.src = src ∧ m.dst = dst ∧ m.seq = seq ∧ m.applied = true))) ∧
    (pathUp s.fab dst = false → exec (.fabricResend src dst seq) s = .next s) ∧
    (pathUp s.fab dst = true → ∃ t, exec (.fabricResend src dst seq) s = .next t ∧ t.mem = s.mem ∧
      ∀ m ∈ t.fab.msgs, m.src = src → m.dst = dst → m.seq = seq → m.sentOut = true) ∧
    (s.fab.linksUp.getLsbD port = false → exec (.linkDown port) s = .next s) ∧
    (s.fab.linksUp.getLsbD port = true → ∃ t, exec (.linkDown port) s = .next t ∧ t.fab.repairing = true ∧
      (∀ q, t.fab.linksUp.getLsbD q = (s.fab.linksUp.getLsbD q && decide (q ≠ port))) ∧
      ∀ m ∈ t.fab.msgs, m.src = s.pkg → m.applied = false → pathUp t.fab m.dst = false → m.sentOut = false) ∧
    (s.fab.repairing = false ∨ s.fab.repairHost = true → exec .routeRepair s = .next s) ∧
    (s.fab.repairing = true → s.fab.repairHost = false → ∃ t, exec .routeRepair s = .next t ∧
      t.fab.repairing = false ∧
      ∀ up, (List.range 18).find? s.fab.linksUp.getLsbD = some up → ∀ d ∈ s.fab.present,
        t.fab.routes.find? (fun r => r.1 = d) = some (d, up)) ∧
    (∀ grp cid,
      (collCmds s grp cid = none → exec (.collectiveStart grp cid) s = .next s) ∧
      (∀ ms, collCmds s grp cid = some ms →
        let l := ms.filterMap (fun m => m)
        l.all (fun c => threadStoresDone c.gtid s) = true →
        (collAgree l = false → ∃ t, exec (.collectiveStart grp cid) s = .next t ∧
          ∀ c ∈ l, t.copy.cmds.any (fun y => decide (y.id = c.id ∧ y.outcome = some (7, 0))) = true) ∧
        (∀ like rest s1 ds, l = like :: rest → l.length = ms.length → collAgree l = true →
          readContribs like ms 0 s = .ok (s1, ds) →
          ((writeResults ds ms 0 s1).isSome = false → exec (.collectiveStart grp cid) s = .next s) ∧
          ((writeResults ds ms 0 s1).isSome = true → ∃ t, exec (.collectiveStart grp cid) s = .next t ∧
            ∀ c ∈ l, t.copy.cmds.any (fun y => decide (y.id = c.id) && y.outcome.isSome) = true))) ∧
      (s.copy.groups.find? (fun g => g.num = grp) = none → exec (.collectiveAbort grp cid) s = .next s) ∧
      (∀ g m k r, s.copy.groups.find? (fun g => g.num = grp) = some g →
        g.members.filterMap (fun m => (lostCode s m).map (fun k => (m, k))) = (m, k) :: r →
        ∃ t, exec (.collectiveAbort grp cid) s = .next t ∧
          ∀ c ∈ s.copy.cmds, c.joins grp cid = true → c.gtid ≠ m →
            t.copy.cmds.any (fun y => decide (y.id = c.id) && y.outcome.isSome) = true))

/-! ## The host -/

/-- Host accesses: over a link that works, a read gives the bytes at the home, a write changes those bytes and no
others, an AtomicOp gives the old value; what reaches nothing, or a carve-out, is answered without data. Through a
decoder of CXL.mem the host keeps a copy of the line it reads, until the line is written. A VF reaches no memory but
through its doorbell page. Device registers, doorbell pages and the mailbox: a command that ends clears BUSY, leaves its
status and sends vector 0 of PF0. The model's choices: the link's rates and widths, and an answer without data where an
access reaches nothing (log 45), the width of a command and its statuses (log 46), and the decoders of CXL.mem and the
host's copy (log 86) (R413 to R416, R419, R421 to R423, R429). -/
def Obligations.HostEvents : Prop :=
  ∀ (vf off n : Nat) (v : Word) (s : State),
    (∀ cxl rate width, exec (.hostLinkTraining cxl rate width) s = .next
      (if [4, 8, 16].contains width && [32, 64, 128].contains rate then
        { s with host.trained := true, host.failed := false, host.cxl := cxl, host.rate := rate, host.width := width }
       else s)) ∧
    (∃ t, exec .hostLinkFailure s = .next t ∧ hostLinkUp t = false ∧ t.mem = s.mem ∧ t.ctx = s.ctx) ∧
    (hostLinkUp s = false → ∀ rq wr,
      exec (.hostMemoryAccess rq) s = .next s ∧ exec (.hostRegisterAccess wr off n v) s = .next s ∧
      exec (.doorbellWrite vf off n v) s = .next s ∧ exec (.doorbellRead vf off n) s = .next s ∧
      exec .mbdoor s = .next s) ∧
    (hostLinkUp s = true →
      (∀ base size, s.host.window = some (base, size) → 1 ≤ n → off % 128 + n ≤ 128 →
        (size < off + n → exec (.hostMemoryAccess (.read none off n)) s = .next { s with host.answer := none }) ∧
        (inCarve s (base + off) n = true → off + n ≤ size →
          exec (.hostMemoryAccess (.read none off n)) s = .next { s with host.answer := none }) ∧
        (off + n ≤ size → inCarve s (base + off) n = false → linePoisoned s (lineOf (base + off)) = false →
          exec (.hostMemoryAccess (.read none off n)) s =
            .next { s with host.answer := some (memReadN s.mem (base + off) n) } ∧
          (∀ d, d.length = n → deadHome s (base + off) = false → s.memOk →
            ∃ t, exec (.hostMemoryAccess (.write none off d)) s = .next t ∧ memReadN t.mem (base + off) n = d ∧
              ∀ x, x < base + off ∨ base + off + n ≤ x → memRead t.mem x = memRead s.mem x) ∧
          (∀ cmp, n = 4 ∨ n = 8 → off % n = 0 → s.memOk →
            let old := natOfBytes (memReadN s.mem (base + off) n)
            ∃ t, exec (.hostMemoryAccess (.atomic none 0 off n v cmp)) s = .next t ∧
              t.host.answer = some (memReadN s.mem (base + off) n) ∧
              memReadN t.mem (base + off) n = bytesOfNat n ((old + v.toNat) % 2 ^ (8 * n))))) ∧
      (1 ≤ n → off % 128 + n ≤ 128 →
        exec (.hostMemoryAccess (.read (some vf) off n)) s = .next { s with host.answer := none } ∧
        ∀ d, d.length = n →
          exec (.hostMemoryAccess (.write (some vf) off d)) s = .next { s with host.answer := none }) ∧
      (s.host.window = none → 1 ≤ n → off % 128 + n ≤ 128 →
        exec (.hostMemoryAccess (.read none off n)) s = .next { s with host.answer := none }) ∧
      (∀ k base size, s.host.cxl = true →
        (decoderOk s k base size = false → exec (.hostMemoryAccess (.decoder k base size)) s = .next s) ∧
        (decoderOk s k base size = true → ∃ t, exec (.hostMemoryAccess (.decoder k base size)) s = .next t ∧
          (∀ d ∈ t.host.decoders, d.1 = k → size ≠ 0 ∧ d = (k, base, size)) ∧
          (size ≠ 0 → ∀ a d, base ≤ a → a + n ≤ base + size → 1 ≤ n → a % 128 + n ≤ 128 → inCarve s a n = false →
            linePoisoned s (lineOf a) = false → d.length = n → deadHome s a = false → s.memOk →
            ∃ u w, exec (.hostMemoryAccess (.memRead a n)) t = .next u ∧
              u.host.answer = some (memReadN s.mem a n) ∧ lineOf a ∈ u.coh.hostLines ∧ u.mem = s.mem ∧
              exec (.hostMemoryAccess (.memWrite a d)) t = .next w ∧ memReadN w.mem a n = d))) ∧
      (∀ pa d m p f, lineOf pa ∉ (homeWrite pa d m p f s).coh.hostLines) ∧
      (regAccessOk off n = false → ∃ t, exec (.hostRegisterAccess false off n v) s = .next t ∧ t.host.answer = none ∧
        exec (.hostRegisterAccess true off n v) s = .next s) ∧
      exec (.hostRegisterAccess false 0x008 8 v) s = .next { s with host.answer := some (bytesOfWord 8 s.boot.bootst) } ∧
      exec (.hostRegisterAccess true 0x008 8 v) s = .next s ∧
      exec (.hostRegisterAccess true 0x1000 8 v) s = .next { s with host.mbcmd := v &&& 0xFFFF } ∧
      (∀ i, i < 8 → ∃ t, exec (.hostRegisterAccess true (0x1008 + 8 * i) 8 v) s = .next t ∧ t.host.mbarg[i]? = some v) ∧
      exec (.hostRegisterAccess true 0x1048 8 v) s = exec .mbdoor s ∧
      exec .mbdoor s = .next (if s.host.mbstat.getLsbD 63 then s else
        { s with host.mbstat := s.host.mbstat ||| 0x8000000000000000, host.mbPending := true }) ∧
      (regAccessOk off n = true → off < 0xF000 →
        (vfOf s vf = none → exec (.doorbellWrite vf off n v) s = .next s ∧
          exec (.doorbellRead vf off n) s = .next { s with host.answer := none }) ∧
        (∀ x, vfOf s vf = some x → doorbellOk s x off n = false →
          exec (.doorbellWrite vf off n v) s = .next s ∧
          exec (.doorbellRead vf off n) s = .next { s with host.answer := none }) ∧
        (∀ x, vfOf s vf = some x → linePoisoned s (lineOf (x.area + off)) = false → doorbellOk s x off n = true →
          exec (.doorbellRead vf off n) s = .next { s with host.answer := some (memReadN s.mem (x.area + off) n) } ∧
          (deadHome s (x.area + off) = false → s.memOk →
            ∃ t, exec (.doorbellWrite vf off n v) s = .next t ∧ memReadN t.mem (x.area + off) n = bytesOfWord n v ∧
              (off < 8 → (getCore t x.core).ints.any (fun i => decide (i.detail = 2 ∧ i.pid = x.pid)) = true) ∧
              (8 ≤ off → getCore t x.core = getCore s x.core))))) ∧
    (∀ x ∈ ([(.idcert, 1), (.mailboxQuote, 2), (.logread, 3), (.bistread, 4)] : List (Instr × Nat)),
      (mailboxAt s x.2 = false → exec x.1 s = .next s) ∧
      (mailboxAt s x.2 = true → ∃ t st, exec x.1 s = .next t ∧ t.host.mbPending = false ∧ (st = 0 ∨ st = 2) ∧
        t.host.mbstat = BitVec.ofNat 64 st ∧
        (s.host.mbstat.getLsbD 63 = true → (msixVector s.host 0 0).data.getLsbD 32 = false →
          t.host.sentMsix = s.host.sentMsix ++ [(0, 0)]))) ∧
    (s.memOk →
      (mailboxAt s 1 = true → Config.certificate.length ≤ mbArg s 1 →
        hostBufOk s (mbArg s 0) Config.certificate.length = true →
        ∃ t, exec .idcert s = .next t ∧ t.host.mbstat = 0 ∧
          memReadN t.mem (hostPa s (mbArg s 0)) Config.certificate.length = Config.certificate) ∧
      (mailboxAt s 2 = true → hostBufOk s (mbArg s 0) 32 = true → hostBufOk s (mbArg s 1) 384 = true →
        let d := quoteBytes s (mbArg s 2 % 256) (memReadN s.mem (hostPa s (mbArg s 0)) 32)
        ∃ t, exec .mailboxQuote s = .next t ∧ t.host.mbstat = 0 ∧ memReadN t.mem (hostPa s (mbArg s 1)) d.length = d) ∧
      (mailboxAt s 3 = true → mbArg s 1 % 32 = 0 →
        let l := (s.rel.log.drop s.rel.logRead).take (mbArg s 1 / 32)
        hostBufOk s (mbArg s 0) (32 * l.length) = true →
        ∃ t, exec .logread s = .next t ∧ t.host.mbstat = 0 ∧ t.rel.logRead = s.rel.logRead + l.length ∧
          memReadN t.mem (hostPa s (mbArg s 0)) (l.flatMap logBytes).length = l.flatMap logBytes) ∧
      (mailboxAt s 4 = true → hostBufOk s (mbArg s 0) 2048 = true →
        ∃ t, exec .bistread s = .next t ∧ t.host.mbstat = 0 ∧ ∀ c, c < 256 →
          memReadN t.mem (hostPa s (mbArg s 0) + 8 * c) 8 = bytesOfWord 8 (getCore s c).bistsum)) ∧
    (s.host.mbPending = false → exec .forwardedMailboxCommand s = .next s ∧ exec .unknownMailboxCommand s = .next s) ∧
    (s.host.mbPending = true →
      (0x8000 ≤ mbCommand s → ∃ t, exec .forwardedMailboxCommand s = .next t ∧ t.host.mbstat = s.host.mbstat ∧
        (getCore t s.host.notifyCore).ints.any (fun i => decide (i.detail = 3 ∧ i.pid = 0)) = true) ∧
      (mbCommand s = 0 ∨ (4 < mbCommand s ∧ mbCommand s < 0x8000) →
        ∃ t, exec .unknownMailboxCommand s = .next t ∧ t.host.mbstat = 0xFFFF ∧ t.host.mbPending = false)) ∧
    (∃ t, exec (.mbstatWrite v) s = .next t ∧ t.host.mbstat = v &&& 0x800000000000FFFF ∧ t.ctx = s.ctx ∧ t.mem = s.mem)

/-! ## Reset, health and the roll call -/

/-- The reset sequence: each stage moves on once its own event has taken place, a boot chain that does not verify or
two or more failed links leave the package where it is, a failed stack's lines are poisoned, and at stage 4 every core
of a live die starts at the firmware's entry at monitor level. A reset leaves memory and the management log. A monitor
shows its last reading; a die at 125 °C resets the package, with the log; the governor changes only elapsed time. A roll
call takes place at a multiple of its period, and writes a record for every live die of its mask or counts it. What a
reset leaves and counts (log 47), and that all four measurements and the package's number are taken at the check of the
root (log 48), are the model's choices (R15, R403, R405, R407, R426 to R430, R434, R435). -/
def Obligations.BootAndMonitorEvents : Prop :=
  ∀ (ok : Bool) (a b : Nat) (s : State),
    (∃ t, exec .packageReset s = .next t ∧ stage t = 0 ∧ t.mem = s.mem ∧ t.rel.log = s.rel.log ∧
      t.boot.boots = s.boot.boots + 1 ∧ t.ctx = State.reset.ctx ∧ t.core = State.reset.core ∧ t.others = [] ∧ t.pkg = 0) ∧
    (exec .powerOnStable s = .next (if atStage s 0 then toStage 1 s else s)) ∧
    (atStage s 1 = false → exec (.rootCheck ok) s = .next s) ∧
    (atStage s 1 = true → exec (.rootCheck false) s = .next { s with boot.stuck := true } ∧
      ∃ t, exec (.rootCheck true) s = .next t ∧ stage t = 2 ∧ t.boot.stuck = false ∧
        t.pkg = Config.packageNumber % 256 ∧
        ∀ i m, s.boot.measure[i]? = some m →
          t.boot.measure[i]? = some (if i < 4 then
            digestValue (sm3 (digestBytes m ++ digestBytes (Config.imageDigest i))) else m)) ∧
    (atStage s 2 = false → exec (.dieLinkTraining a b) s = .next s) ∧
    (atStage s 2 = true → ∃ t, exec (.dieLinkTraining a b) s = .next t ∧
      bits t.boot.bootst 48 4 = a % 16 ∧ bits t.boot.bootst 52 4 = b % 16 ∧ bits t.boot.bootst 4 4 = b % 16 ∧
      (∀ d, d < 4 → dieLive t d = b.testBit d) ∧
      (2 ≤ ((List.range 4).filter (fun d => !a.testBit d)).length → stage t = 2 ∧ t.boot.stuck = true) ∧
      (((List.range 4).filter (fun d => !a.testBit d)).length < 2 → stage t = 3 ∧ t.boot.stuck = false)) ∧
    (atStage s 3 = false → exec (.hbmTraining a) s = .next s) ∧
    (atStage s 3 = true → ∃ t, exec (.hbmTraining a) s = .next t ∧ stage t = 4 ∧ bits t.boot.bootst 36 12 = a % 4096 ∧
      ∀ i line, i < 12 → a.testBit i = false → stackOf line = s.pkg * 256 + i → poisonedLine t.coh line = true) ∧
    (atStage s 4 = false → exec .coreRelease s = .next s) ∧
    (atStage s 4 = true → ∃ t, exec .coreRelease s = .next t ∧ stage t = 5 ∧ t.mem = s.mem ∧
      ∀ n, n < 256 → dieLive s (n / 64) = true → (getCore t n).released = true ∧ (getCore t n).lodge = none ∧
        ∃ c, activeOf t n = some c ∧ c.regs.pc = s.boot.fwEntry ∧ bits c.prv.status 0 2 = 3) ∧
    (∀ kind idx value alarm,
      (3 < a ∨ 2 < kind ∨ monitorCount kind ≤ idx →
        exec (.healthMonitorRefresh a kind idx value alarm) s = .next s) ∧
      (a ≤ 3 → kind ≤ 2 → idx < monitorCount kind →
        ∃ t w, exec (.healthMonitorRefresh a kind idx value alarm) s = .next t ∧
          t.boot.health.find? (fun h => h.1 = a ∧ h.2.1 = kind ∧ h.2.2.1 = idx) = some (a, kind, idx, w) ∧
          w.getLsbD 63 = true ∧ bits w 0 32 = value % 2 ^ 32 ∧
          (kind = 0 → w.getLsbD 62 = decide (1680 ≤ sext (value % 2 ^ 32) 32)))) ∧
    (tooHot s a = false → exec (.thermalReset a) s = .next s) ∧
    (tooHot s a = true → ∃ t, exec (.thermalReset a) s = .next t ∧ stage t = 0 ∧ t.mem = s.mem ∧
      t.rel.log = s.rel.log ++ [⟨BitVec.ofNat 64 s.cyc, 7, a, 0, 0, 1⟩]) ∧
    exec .governorClockChange s = .next s ∧
    (rollDue s = none → exec .rollCall s = .next s) ∧ (s.dbg.rollK = 0 → rollDue s = none) ∧
    (∀ m, rollDue s = some m → m % 2 ^ s.dbg.rollK = 0 ∧ s.dbg.rollAt < m ∧ m ≤ s.cyc ∧
      ∃ t, exec .rollCall s = .next t ∧ t.ctx = s.ctx ∧ t.cyc = s.cyc ∧ t.dbg.rollAt = m ∧
      ∀ d x, s.dbg.roll[d]? = some x →
        ∃ y, t.dbg.roll[d]? = some y ∧
          ((s.dbg.rollMask.testBit d && dieLive s d) = false → y = x) ∧
          ((s.dbg.rollMask.testBit d && dieLive s d) = true →
            (y.lost = 0 ∧ x.count < y.count) ∨ (y.lost = x.lost + 1 ∧ y.count = x.count))) ∧
    (s.dbg.rollNext = none ∨ periodDue s = none → exec .rollcallPeriodChange s = .next s) ∧
    (∀ k m, s.dbg.rollNext = some k → periodDue s = some m → m % 2 ^ 24 = 0 ∧ m ≤ s.cyc ∧
      ∃ t, exec .rollcallPeriodChange s = .next t ∧ t.dbg.rollK = k ∧ t.dbg.rollNext = none ∧
        t.dbg.rollAt + 1 = m ∧ t.cyc = s.cyc ∧ t.ctx = s.ctx)

/-! ## Frames -/

/-- Frames of the integer, move, compare, predicate, branch, counter and floating-point instructions: in every next
state, every register but the destination, every bit of `FCSR` but the FLAGS a floating-point instruction raises, every
other special register, every trap register outside a trap, and all of memory are as they were; a branch writes no
register (R49, R62 to R64, R99 to R107, R120 to R132). -/
def Obligations.ScalarFrames : Prop :=
  (∀ (fm : Form) (w : Width) (e : Ex) (c : Cc) (d a b n : Nat) (imm : Int) (s : State),
     (let G (i : Instr) : Prop := framed i (destOf fm s d) [] [] 0 s
      G (.addP0 fm d a b) ∧ G (.subP0 fm d a b) ∧ G (.addiP0 fm d a imm) ∧ G (.andiP0 fm d a imm) ∧
      G (.shliP0 fm d a n) ∧ G (.movP0 fm d a) ∧ G (.liP0 fm d imm) ∧ G (.li fm d imm) ∧ G (.add fm w d a b) ∧
      G (.sub fm w d a b) ∧ G (.mul fm w d a b) ∧ G (.mulh fm w d a b) ∧ G (.mulhu fm w d a b) ∧ G (.div fm w d a b) ∧
      G (.divu fm w d a b) ∧ G (.rem fm w d a b) ∧ G (.remu fm w d a b) ∧ G (.min fm w d a b) ∧ G (.max fm w d a b) ∧
      G (.minu fm w d a b) ∧ G (.maxu fm w d a b) ∧ G (.and fm w d a b) ∧ G (.andn fm w d a b) ∧ G (.or fm w d a b) ∧
      G (.xor fm w d a b) ∧ G (.shl fm w d a b) ∧ G (.shr fm w d a b) ∧ G (.sra fm w d a b) ∧ G (.rotr fm w d a b) ∧
      G (.addi fm w d a imm) ∧ G (.andi fm w d a imm) ∧ G (.ori fm w d a imm) ∧ G (.xori fm w d a imm) ∧
      G (.shli fm w d a n) ∧ G (.shri fm w d a n) ∧ G (.srai fm w d a n) ∧ G (.rotri fm w d a n) ∧
      G (.bfx fm w d a n) ∧ G (.bfi fm w d a n) ∧ G (.clz fm w d a) ∧ G (.ctz fm w d a) ∧ G (.popc fm w d a) ∧
      G (.rev8 fm w d a) ∧ G (.sext fm e d a) ∧ G (.zext fm e d a) ∧ G (.lea fm d a imm) ∧ G (.mov fm d a) ∧
      G (.sel fm n d a b)) ∧
     (let P (i : Instr) : Prop := framed i [] [] (destOf fm s d) 0 s
      let F (i : Instr) (gs ps : List Nat) : Prop := framed i gs [] ps 0 s
      P (.cmp fm c d a b) ∧ P (.cmpi fm c d a imm) ∧ F (.pand fm d a b) [] [d] ∧ F (.por fm d a b) [] [d] ∧
      F (.pxor fm d a b) [] [d] ∧ F (.pnot fm d a) [] [d] ∧ F (.pmov fm d a) [] [d] ∧ F (.brP0 fm imm) [] [] ∧
      F (.br fm imm) [] [] ∧ F (.brcP0 fm d imm) [] [] ∧ F (.brc fm d imm) [] [] ∧ F (.jalP0 fm d imm) [d] [] ∧
      F (.jal fm d imm) [d] [] ∧ F (.jalrP0 fm d a imm) [d] [] ∧ F (.jalr fm d a imm) [d] [] ∧
      F (.gtidrd fm d) [d] [] ∧ F (.rdcyc fm d) [d] [] ∧ F (.rdtime fm d) [d] [])) ∧
  (∀ (fm : Form) (f f2 : Fmt) (iw : IW) (c : Fcc) (rx d a b : Nat) (s : State),
     let R (i : Instr) : Prop := framed i [] (destOf fm s d) [] 0x1F s
     let F (i : Instr) (gs fs ps : List Nat) : Prop := framed i gs fs ps 0x1F s
     R (.fadd fm f rx d a b) ∧ R (.fsub fm f rx d a b) ∧ R (.fmul fm f rx d a b) ∧ R (.fdiv fm f rx d a b) ∧
     R (.fma fm f rx d a b) ∧ R (.fms fm f rx d a b) ∧ R (.fnma fm f rx d a b) ∧ R (.fmin fm f rx d a b) ∧
     R (.fmax fm f rx d a b) ∧ R (.fsqrt fm f rx d a) ∧ R (.frcpa fm f rx d a) ∧ R (.frsqa fm f rx d a) ∧
     R (.fabs fm f rx d a) ∧ R (.fneg fm f rx d a) ∧ R (.fsgnj fm f rx d a b) ∧ F (.fcvt fm f f2 rx d a) [] [d] [] ∧
     F (.icvtf fm iw f rx d a) [] [d] [] ∧ F (.gmvf fm d a) [] [d] [] ∧ F (.fcvti fm iw f rx d a) [d] [] [] ∧
     F (.fclass fm f rx d a) [d] [] [] ∧ F (.fmvg fm d a) [d] [] [] ∧ F (.fcmp fm c f rx d a b) [] [] [d])

/-- Frames of the vector instructions that access no memory, where the engines are in service and have a cycle for the
core: in every next state, every accumulator but the one the destination's window names, every other register, every bit
of `FCSR` but FLAGS, every other special register, every trap register outside a trap, and all of memory are as they
were; a comparison writes a mask, a count or a lane moved out a scalar register, and none of them an accumulator (R49,
R64, R67, R199, R203 to R212). -/
def Obligations.VectorFrames : Prop :=
  ∀ (fm : Form) (z : Bool) (k d a b : Nat) (tg : Tag) (op : Rop) (mop : Mop) (c : Vcc) (s : State),
    tileReady s →
    let dj := destOf fm s d
    let V (i : Instr) : Prop := framedBy i [] [] [] [] (dj.map (windowAcc s)) 0x1F s
    let W (i : Instr) (gs fs ms : List Nat) : Prop := framedBy i gs fs [] ms [] 0x1F s
    V (.vadd fm z k d a b) ∧ V (.vsub fm z k d a b) ∧ V (.vmul fm z k d a b) ∧ V (.vfma fm z k d a b) ∧
    V (.vfms fm z k d a b) ∧ V (.vmin fm z k d a b) ∧ V (.vmax fm z k d a b) ∧ V (.vand fm z k d a b) ∧
    V (.vor fm z k d a b) ∧ V (.vxor fm z k d a b) ∧ V (.vshl fm z k d a b) ∧ V (.vshr fm z k d a b) ∧
    V (.vbcl fm z k d a b) ∧ V (.vperm fm z k d a b) ∧ V (.vrot fm z k d a b) ∧ V (.vabs fm z k d a) ∧
    V (.vneg fm z k d a) ∧ V (.vmov fm z k d a) ∧ V (.vrcpa fm z k d a) ∧ V (.vrsqa fm z k d a) ∧
    V (.vexp2a fm z k d a) ∧ V (.vlog2a fm z k d a) ∧ V (.vcvt fm z tg d a b) ∧ V (.vred fm op d a b) ∧
    V (.vscan fm z op d a b) ∧ V (.vmerge fm z k d a b) ∧ W (.vcmp fm z c d a b) [] [] dj ∧
    W (.vmlog fm mop d a b) [] [] [d] ∧ W (.vmpopc fm d a) [d] [] [] ∧ W (.vmovg fm z k d a b) dj [] [] ∧
    W (.vmovf fm z k d a b) [] dj []

/-- Frames of the scalar loads and stores whose address translates to HBM, in a package where no earlier store is under
way: a load leaves every byte of memory and every register but its destination as it was; a store leaves every byte of
memory and every register, and its own bytes (free where they race with the context's own gather or scatter), at its own
address, are all that the core's store buffer may have gained (R109, R112, R113, R115, R117, R224, R239). -/
def Obligations.MemoryFrames : Prop :=
  ∀ (fm : Form) (z : Sz) (e : Ex) (f : Fs) (w : Wd) (sb : Sb) (d a b : Nat) (imm : Int) (s : State) (pa j k : Nat),
    startAt fm s = some (j, k) → s.core.sb = [] → s.coh.wts = [] → s.fab.msgs = [] → offsetOf pa < hbmEnd →
    let at_ (unit : Nat) : Word := rg s (fm.a j a) + BitVec.ofInt 64 (fm.i j imm * unit)
    let idx : Word := rg s (fm.a j a) + rg s (fm.b j b) * BitVec.ofNat 64 z.bytes
    let loads (va : Word) (n : Nat) (gs fs : List Nat) (i : Instr) : Prop :=
      translate .load va n s = .ok (s, ⟨pa, false⟩) → framed i gs fs [] 0 s
    let stores (va : Word) (data : List Byte) (i : Instr) : Prop :=
      translate .store va data.length s = .ok (s, ⟨pa, false⟩) → pa % 128 + data.length ≤ 128 →
        storeFramed i pa (raceBytes s pa data) 0xFF s
    let dj := fm.d j d
    loads (at_ 8) 8 [dj] [] (.ldP0 fm d a imm) ∧ loads (at_ 8) 8 [] [dj] (.fldP0 fm d a imm) ∧
    loads (at_ z.bytes) z.bytes [dj] [] (.ld fm z d a imm) ∧
    loads (at_ e.bytes) e.bytes [dj] [] (.ldz fm e d a imm) ∧
    loads (at_ f.bytes) f.bytes [] [dj] (.fld fm f d a imm) ∧
    loads (at_ (2 * w.bytes)) (2 * w.bytes) [dj, dj + 1] [] (.ldp fm w d a imm) ∧
    loads idx z.bytes [dj] [] (.ldx fm z d a b) ∧
    stores (at_ 8) (bytesOfWord 8 (rg s dj)) (.stP0 fm d a imm) ∧
    stores (at_ z.bytes) (bytesOfWord z.bytes (rg s dj)) (.st fm z d a imm) ∧
    stores idx (bytesOfWord z.bytes (rg s dj)) (.stx fm z d a b) ∧
    stores (at_ (2 * w.bytes)) (bytesOfWord w.bytes (rg s dj) ++ bytesOfWord w.bytes (rg s (dj + 1)))
      (.stp fm w d a imm) ∧
    stores (at_ f.bytes) (bytesOfWord f.bytes (rf s dj)) (.fst fm f d a imm) ∧
    (let field := (rg s a + BitVec.ofInt 64 imm).toNat
     let per := 8 / sb.bits
     let low := sb.bits * (field % per)
     translate .store (BitVec.ofNat 64 (field / per)) 1 s = .ok (s, ⟨pa, false⟩) →
       storeFramed (.sbst fm sb d a imm) pa (raceBytes s pa [BitVec.ofNat 8 ((rg s d).toNat % 2 ^ sb.bits * 2 ^ low)])
         (BitVec.ofNat 8 ((2 ^ sb.bits - 1) * 2 ^ low)) s)

/-! ## Registers and reset -/

/-- `g0` reads as zero and discards a write; `p0` reads as true and `m0` as all ones, and discard a write. Any other
register, and every `f` register, reads as it was written, and the others of its file as before (R62 to R64). -/
def Obligations.HardWiredRegisters : Prop :=
  ∀ (s : State) (v : Word) (b : Bool) (x : BitVec 128),
    rg s 0 = 0 ∧ wg s 0 v = s ∧ rp s 0 = true ∧ wp s 0 b = s ∧ rm s 0 = BitVec.allOnes 128 ∧ wm s 0 x = s ∧
    (∀ n, 0 < n → n < 64 → rg (wg s n v) n = v ∧ ∀ k, k ≠ n → rg (wg s n v) k = rg s k) ∧
    (∀ n, n < 64 → rf (wf s n v) n = v ∧ ∀ k, k ≠ n → rf (wf s n v) k = rf s k) ∧
    (∀ n, 0 < n → n < 8 → rp (wp s n b) n = b ∧ ∀ k, k ≠ n → rp (wp s n b) k = rp s k) ∧
    (∀ n, 0 < n → n < 8 → rm (wm s n x) n = x ∧ ∀ k, k ≠ n → rm (wm s n x) k = rm s k)

/-- Reset: boot stage 0, no core released and no link up; measurement registers 0; `STATUS` with PL 3 and all else 0,
`TEAMLIM.PRIOMAX` 15, `TCTL.WINB` 1 and `FCSR`, `XSTATE` and the trap registers 0; k is 12 and the retry count 3, the
carve-out of each die 8 GiB, and die 0 the master distributor. Memory is in its canonical form, with nothing listed; the
values the spec does not state, such as general registers at 0, are this model's (its log names them). -/
def Obligations.ResetState : Prop :=
  State.reset.memOk ∧ State.reset.mem = [] ∧ stage State.reset = 0 ∧
  (∀ n, n < 256 → (getCore State.reset n).released = false) ∧ State.reset.fab.linksUp = 0 ∧
  (∀ n, n < 8 → State.reset.boot.measure[n]? = some 0) ∧
  State.reset.ctx.prv.status = 3 ∧ State.reset.ctx.prv.teamlim = 0xF000000 ∧
  State.reset.ctx.ctl.tctl = 0x8000000 ∧ State.reset.ctx.ctl.fcsr = 0 ∧ State.reset.ctx.ctl.xstate = 0 ∧
  (∀ l, State.reset.trapSet l = .reset) ∧ State.reset.ctx.ctl.utvec = 0 ∧ State.reset.ctx.ctl.ucause = 0 ∧
  (∀ n, n < 64 → rg State.reset n = 0 ∧ rf State.reset n = 0) ∧
  (∀ n, n < 4 → State.reset.rel.auditK[n]? = some 12 ∧ State.reset.rel.retry[n]? = some 3 ∧
    State.reset.xlat.carve[n]? = some 8) ∧
  State.reset.sched.master = 0

/-! ## Whole machine -/

/-- Memory stays in its canonical form: every step from a state whose memory has it leaves memory that has it. The form
is this model's own. -/
def Obligations.StepKeepsMemoryForm : Prop :=
  ∀ s t : State, s.memOk → step s = .next t → t.memOk

/-- Every instruction and every event of the opcode table, in every state, answers a next state: traps are entries to
their handler, waits are states in which the instruction executes again, and nothing ends a run. -/
def Obligations.EveryInstructionAnswersAState : Prop :=
  ∀ (i : Instr) (s : State), ∃ t, exec i s = .next t

/-- A step runs the decoded instruction. When the current core's turn is next and nothing comes before its next
instruction, the words fetched at the program counter decide: the instruction they decode to is executed, in the state
the fetch leaves; words that are no instruction raise ILL; and a word that cannot be fetched raises the fault of the
fetch. A halfword is the two bytes of memory, low byte first, at the address its translation gives, for a page in native
form whose line is not poisoned, where no store it need not see yet has gone to it (R88, R300, R317, R329). -/
def Obligations.StepRunsDecodedInstruction : Prop :=
  (∀ s s0 : State, takesTurn s s0 → issues s →
    (∀ s1 ws, fetchChain 5 s.pc s0 = .ok (s1, ws) →
      let s2 := { s1 with ctx.aux.ir := irOf ws }
      (∀ i, decode ws = .ok i → step s = exec i s2) ∧
      (∀ r, decode ws = .error r → step s = .next (takeTrap none (illTrap s2) s2))) ∧
    (∀ x s1, fetchChain 5 s.pc s0 = .error (.trap x s1) →
      step s = exec (.instructionFetchFault (fetchFaultOf x)) s1)) ∧
  (∀ (s : State) (va : Word) (pa : Nat) (x : TlbEntry),
    translate .fetch va 2 s = .ok (s, ⟨pa, false⟩) → fetchLeaf s va = some x → x.pte.getLsbD 63 = true →
    isDevReg pa = false → isHostWin pa = false → linePoisoned s (lineOf pa) = false → oldHalves s pa = [] →
    fetchHword va s = .ok (s, hwordOf (memRead s.mem pa) (memRead s.mem (pa + 1))))

/-! ## Encoding -/

/-- Every well-formed instruction of the table that has an encoding is what its encoded words decode to, with every
operand, prefix and repeat count. -/
def Obligations.DecodeInvertsEncode : Prop :=
  ∀ i : Instr, i.wellFormed = true → i.enc.isSome = true → decode (encode i) = .ok i

/-- Words written out from the encoding tables decode to the instructions they stand for: of the integer, branch,
memory, thread, floating-point and system families. -/
def Obligations.DecodedWords : Prop :=
  let fm : Form := ⟨none, false, 0⟩
  let nx : Form := ⟨none, false, 1⟩
  decode [0x6403] = .ok (.liP0 fm 4 3) ∧ decode [0x0776] = .ok (.addP0 fm 7 7 6) ∧
  decode [0x244F] = .ok (.addiP0 fm 4 4 (-1)) ∧ decode [0xB1E9] = .ok (.brcP0 fm 1 (-23)) ∧
  decode [0xF841, 0x1140] = .ok (.cmpi fm .ne 1 4 0) ∧ decode [0xF852, 0x0650] = .ok (.ld fm .word 6 5 0) ∧
  decode [0xF890, 0x4000] = .ok (.texit fm) ∧ decode [0xF8A0, 0x5312] = .ok (.fma fm .fp64 0 3 1 2) ∧
  decode [0xF8B4, 0x2630] = .ok (.fcvt fm .fp32 .fp64 0 6 3) ∧
  decode [0xF8B4, 0xF00C, 0x3740] = .ok (.fcvti nx .int32 .fp64 12 7 4) ∧
  decode [0xFB00, 0xF006, 0x2000] = .ok (.mvc nx 0x60) ∧ decode [0xFB00, 0xF031, 0x5063] = .ok (.swr nx 6 0x313) ∧
  decode [0xFB00, 0xF031, 0x4500] = .ok (.srd nx 5 0x310)

end
end

