-- ==== Sys2Proof/Laws/State.lean ====
section
/-! SUPPORT. What each update of the state leaves as it was, one conjunct for each field; a simp lemma is made of every
conjunct. -/

namespace Sys2Proof.Machine

/-- What a write of a `g` register leaves. -/
@[simp] theorem wg_frame (s : State) (n : Nat) (v : Word) :
    (wg s n v).cur = s.cur ∧ (wg s n v).core = s.core ∧ (wg s n v).others = s.others ∧ (wg s n v).turns = s.turns ∧
    (wg s n v).cyc = s.cyc ∧ (wg s n v).ns = s.ns ∧ (wg s n v).free = s.free ∧ (wg s n v).modes = s.modes ∧
    (wg s n v).pkg = s.pkg ∧ (wg s n v).mem = s.mem ∧ (wg s n v).coh = s.coh ∧ (wg s n v).xlat = s.xlat ∧
    (wg s n v).eng = s.eng ∧ (wg s n v).copy = s.copy ∧ (wg s n v).sched = s.sched ∧ (wg s n v).rel = s.rel ∧
    (wg s n v).fab = s.fab ∧ (wg s n v).host = s.host ∧ (wg s n v).boot = s.boot ∧ (wg s n v).dbg = s.dbg ∧
    (wg s n v).ctx.regs.f = s.ctx.regs.f ∧ (wg s n v).ctx.regs.p = s.ctx.regs.p ∧
    (wg s n v).ctx.regs.m = s.ctx.regs.m ∧ (wg s n v).ctx.regs.pc = s.ctx.regs.pc ∧ (wg s n v).ctx.ctl = s.ctx.ctl ∧
    (wg s n v).ctx.prv = s.ctx.prv ∧ (wg s n v).ctx.t = s.ctx.t ∧ (wg s n v).ctx.c = s.ctx.c ∧
    (wg s n v).ctx.aux.wayside = s.ctx.aux.wayside ∧ (wg s n v).ctx.aux.watch = s.ctx.aux.watch ∧
    (wg s n v).ctx.aux.gang = s.ctx.aux.gang ∧ (wg s n v).ctx.aux.arrive = s.ctx.aux.arrive ∧
    (wg s n v).ctx.aux.area = s.ctx.aux.area ∧ (wg s n v).ctx.aux.sent = s.ctx.aux.sent ∧
    (wg s n v).ctx.aux.repLeft = s.ctx.aux.repLeft ∧ (wg s n v).ctx.aux.ir = s.ctx.aux.ir := by
  unfold wg healG; repeat' split
  all_goals and_intros <;> rfl

/-- What a write of a `f` register leaves. -/
@[simp] theorem wf_frame (s : State) (n : Nat) (v : Word) :
    (wf s n v).cur = s.cur ∧ (wf s n v).core = s.core ∧ (wf s n v).others = s.others ∧ (wf s n v).turns = s.turns ∧
    (wf s n v).cyc = s.cyc ∧ (wf s n v).ns = s.ns ∧ (wf s n v).free = s.free ∧ (wf s n v).modes = s.modes ∧
    (wf s n v).pkg = s.pkg ∧ (wf s n v).mem = s.mem ∧ (wf s n v).coh = s.coh ∧ (wf s n v).xlat = s.xlat ∧
    (wf s n v).eng = s.eng ∧ (wf s n v).copy = s.copy ∧ (wf s n v).sched = s.sched ∧ (wf s n v).rel = s.rel ∧
    (wf s n v).fab = s.fab ∧ (wf s n v).host = s.host ∧ (wf s n v).boot = s.boot ∧ (wf s n v).dbg = s.dbg ∧
    (wf s n v).ctx.regs.g = s.ctx.regs.g ∧ (wf s n v).ctx.regs.p = s.ctx.regs.p ∧
    (wf s n v).ctx.regs.m = s.ctx.regs.m ∧ (wf s n v).ctx.regs.pc = s.ctx.regs.pc ∧ (wf s n v).ctx.ctl = s.ctx.ctl ∧
    (wf s n v).ctx.prv = s.ctx.prv ∧ (wf s n v).ctx.t = s.ctx.t ∧ (wf s n v).ctx.c = s.ctx.c ∧
    (wf s n v).ctx.aux.wayside = s.ctx.aux.wayside ∧ (wf s n v).ctx.aux.watch = s.ctx.aux.watch ∧
    (wf s n v).ctx.aux.gang = s.ctx.aux.gang ∧ (wf s n v).ctx.aux.arrive = s.ctx.aux.arrive ∧
    (wf s n v).ctx.aux.area = s.ctx.aux.area ∧ (wf s n v).ctx.aux.sent = s.ctx.aux.sent ∧
    (wf s n v).ctx.aux.repLeft = s.ctx.aux.repLeft ∧ (wf s n v).ctx.aux.ir = s.ctx.aux.ir := by
  unfold wf healF; repeat' split
  all_goals and_intros <;> rfl

/-- What a write of a `p` register leaves. -/
@[simp] theorem wp_frame (s : State) (n : Nat) (v : Bool) :
    (wp s n v).cur = s.cur ∧ (wp s n v).core = s.core ∧ (wp s n v).others = s.others ∧ (wp s n v).turns = s.turns ∧
    (wp s n v).cyc = s.cyc ∧ (wp s n v).ns = s.ns ∧ (wp s n v).free = s.free ∧ (wp s n v).modes = s.modes ∧
    (wp s n v).pkg = s.pkg ∧ (wp s n v).mem = s.mem ∧ (wp s n v).coh = s.coh ∧ (wp s n v).xlat = s.xlat ∧
    (wp s n v).eng = s.eng ∧ (wp s n v).copy = s.copy ∧ (wp s n v).sched = s.sched ∧ (wp s n v).rel = s.rel ∧
    (wp s n v).fab = s.fab ∧ (wp s n v).host = s.host ∧ (wp s n v).boot = s.boot ∧ (wp s n v).dbg = s.dbg ∧
    (wp s n v).ctx.regs.g = s.ctx.regs.g ∧ (wp s n v).ctx.regs.f = s.ctx.regs.f ∧
    (wp s n v).ctx.regs.m = s.ctx.regs.m ∧ (wp s n v).ctx.regs.pc = s.ctx.regs.pc ∧ (wp s n v).ctx.ctl = s.ctx.ctl ∧
    (wp s n v).ctx.prv = s.ctx.prv ∧ (wp s n v).ctx.t = s.ctx.t ∧ (wp s n v).ctx.c = s.ctx.c ∧
    (wp s n v).ctx.aux.wayside = s.ctx.aux.wayside ∧ (wp s n v).ctx.aux.watch = s.ctx.aux.watch ∧
    (wp s n v).ctx.aux.gang = s.ctx.aux.gang ∧ (wp s n v).ctx.aux.arrive = s.ctx.aux.arrive ∧
    (wp s n v).ctx.aux.area = s.ctx.aux.area ∧ (wp s n v).ctx.aux.sent = s.ctx.aux.sent ∧
    (wp s n v).ctx.aux.repLeft = s.ctx.aux.repLeft ∧ (wp s n v).ctx.aux.ir = s.ctx.aux.ir := by
  unfold wp healP; repeat' split
  all_goals and_intros <;> rfl

/-- What a write of a `m` register leaves. -/
@[simp] theorem wm_frame (s : State) (n : Nat) (v : BitVec 128) :
    (wm s n v).cur = s.cur ∧ (wm s n v).core = s.core ∧ (wm s n v).others = s.others ∧ (wm s n v).turns = s.turns ∧
    (wm s n v).cyc = s.cyc ∧ (wm s n v).ns = s.ns ∧ (wm s n v).free = s.free ∧ (wm s n v).modes = s.modes ∧
    (wm s n v).pkg = s.pkg ∧ (wm s n v).mem = s.mem ∧ (wm s n v).coh = s.coh ∧ (wm s n v).xlat = s.xlat ∧
    (wm s n v).eng = s.eng ∧ (wm s n v).copy = s.copy ∧ (wm s n v).sched = s.sched ∧ (wm s n v).rel = s.rel ∧
    (wm s n v).fab = s.fab ∧ (wm s n v).host = s.host ∧ (wm s n v).boot = s.boot ∧ (wm s n v).dbg = s.dbg ∧
    (wm s n v).ctx.regs.g = s.ctx.regs.g ∧ (wm s n v).ctx.regs.f = s.ctx.regs.f ∧
    (wm s n v).ctx.regs.p = s.ctx.regs.p ∧ (wm s n v).ctx.regs.pc = s.ctx.regs.pc ∧ (wm s n v).ctx.ctl = s.ctx.ctl ∧
    (wm s n v).ctx.prv = s.ctx.prv ∧ (wm s n v).ctx.t = s.ctx.t ∧ (wm s n v).ctx.c = s.ctx.c ∧
    (wm s n v).ctx.aux.wayside = s.ctx.aux.wayside ∧ (wm s n v).ctx.aux.watch = s.ctx.aux.watch ∧
    (wm s n v).ctx.aux.gang = s.ctx.aux.gang ∧ (wm s n v).ctx.aux.arrive = s.ctx.aux.arrive ∧
    (wm s n v).ctx.aux.area = s.ctx.aux.area ∧ (wm s n v).ctx.aux.sent = s.ctx.aux.sent ∧
    (wm s n v).ctx.aux.repLeft = s.ctx.aux.repLeft ∧ (wm s n v).ctx.aux.ir = s.ctx.aux.ir := by
  unfold wm healM; repeat' split
  all_goals and_intros <;> rfl

/-- What a write of the program counter leaves. -/
@[simp] theorem setPc_frame (s : State) (v : Word) :
    (s.setPc v).cur = s.cur ∧ (s.setPc v).core = s.core ∧ (s.setPc v).others = s.others ∧
    (s.setPc v).turns = s.turns ∧ (s.setPc v).cyc = s.cyc ∧ (s.setPc v).ns = s.ns ∧ (s.setPc v).free = s.free ∧
    (s.setPc v).modes = s.modes ∧ (s.setPc v).pkg = s.pkg ∧ (s.setPc v).mem = s.mem ∧ (s.setPc v).coh = s.coh ∧
    (s.setPc v).xlat = s.xlat ∧ (s.setPc v).eng = s.eng ∧ (s.setPc v).copy = s.copy ∧ (s.setPc v).sched = s.sched ∧
    (s.setPc v).rel = s.rel ∧ (s.setPc v).fab = s.fab ∧ (s.setPc v).host = s.host ∧ (s.setPc v).boot = s.boot ∧
    (s.setPc v).dbg = s.dbg ∧ (s.setPc v).ctx.ctl = s.ctx.ctl ∧ (s.setPc v).ctx.prv = s.ctx.prv ∧
    (s.setPc v).ctx.t = s.ctx.t ∧ (s.setPc v).ctx.c = s.ctx.c ∧ (s.setPc v).ctx.aux = s.ctx.aux ∧
    (s.setPc v).ctx.regs.g = s.ctx.regs.g ∧ (s.setPc v).ctx.regs.f = s.ctx.regs.f ∧
    (s.setPc v).ctx.regs.p = s.ctx.regs.p ∧ (s.setPc v).ctx.regs.m = s.ctx.regs.m := by
  obtain ⟨_, ⟨⟨_, _, _, _, _⟩, _, _, _, _, _⟩, _, _, _, _, _, _, _, _, _, _, _, _, _, _, _, _, _, _, _⟩ := s
  and_intros <;> rfl

/-- What a write of `XSTATE` leaves. -/
@[simp] theorem setXstate_frame (x : Word) (s : State) :
    (setXstate x s).cur = s.cur ∧ (setXstate x s).core = s.core ∧ (setXstate x s).others = s.others ∧
    (setXstate x s).turns = s.turns ∧ (setXstate x s).cyc = s.cyc ∧ (setXstate x s).ns = s.ns ∧
    (setXstate x s).free = s.free ∧ (setXstate x s).modes = s.modes ∧ (setXstate x s).pkg = s.pkg ∧
    (setXstate x s).mem = s.mem ∧ (setXstate x s).coh = s.coh ∧ (setXstate x s).xlat = s.xlat ∧
    (setXstate x s).eng = s.eng ∧ (setXstate x s).copy = s.copy ∧ (setXstate x s).sched = s.sched ∧
    (setXstate x s).rel = s.rel ∧ (setXstate x s).fab = s.fab ∧ (setXstate x s).host = s.host ∧
    (setXstate x s).boot = s.boot ∧ (setXstate x s).dbg = s.dbg ∧ (setXstate x s).ctx.regs = s.ctx.regs ∧
    (setXstate x s).ctx.prv = s.ctx.prv ∧ (setXstate x s).ctx.t = s.ctx.t ∧ (setXstate x s).ctx.c = s.ctx.c ∧
    (setXstate x s).ctx.aux = s.ctx.aux := by
  obtain ⟨_, ⟨⟨_, _, _, _, _⟩, _, _, _, _, _⟩, _, _, _, _, _, _, _, _, _, _, _, _, _, _, _, _, _, _, _⟩ := s
  and_intros <;> rfl

/-- What a write of the progress fields leaves. -/
@[simp] theorem setProgress_frame (a b c : Nat) (s : State) :
    (setProgress a b c s).cur = s.cur ∧ (setProgress a b c s).core = s.core ∧
    (setProgress a b c s).others = s.others ∧ (setProgress a b c s).turns = s.turns ∧
    (setProgress a b c s).cyc = s.cyc ∧ (setProgress a b c s).ns = s.ns ∧ (setProgress a b c s).free = s.free ∧
    (setProgress a b c s).modes = s.modes ∧ (setProgress a b c s).pkg = s.pkg ∧ (setProgress a b c s).mem = s.mem ∧
    (setProgress a b c s).coh = s.coh ∧ (setProgress a b c s).xlat = s.xlat ∧ (setProgress a b c s).eng = s.eng ∧
    (setProgress a b c s).copy = s.copy ∧ (setProgress a b c s).sched = s.sched ∧ (setProgress a b c s).rel = s.rel ∧
    (setProgress a b c s).fab = s.fab ∧ (setProgress a b c s).host = s.host ∧ (setProgress a b c s).boot = s.boot ∧
    (setProgress a b c s).dbg = s.dbg ∧ (setProgress a b c s).ctx.regs = s.ctx.regs ∧
    (setProgress a b c s).ctx.prv = s.ctx.prv ∧ (setProgress a b c s).ctx.t = s.ctx.t ∧
    (setProgress a b c s).ctx.c = s.ctx.c ∧ (setProgress a b c s).ctx.aux = s.ctx.aux := by
  unfold setProgress; exact setXstate_frame _ _

/-- What noting a fault address leaves. -/
@[simp] theorem noteFault_frame (v : Word) (s : State) :
    (noteFault v s).cur = s.cur ∧ (noteFault v s).core = s.core ∧ (noteFault v s).others = s.others ∧
    (noteFault v s).turns = s.turns ∧ (noteFault v s).cyc = s.cyc ∧ (noteFault v s).ns = s.ns ∧
    (noteFault v s).free = s.free ∧ (noteFault v s).modes = s.modes ∧ (noteFault v s).pkg = s.pkg ∧
    (noteFault v s).mem = s.mem ∧ (noteFault v s).coh = s.coh ∧ (noteFault v s).xlat = s.xlat ∧
    (noteFault v s).eng = s.eng ∧ (noteFault v s).copy = s.copy ∧ (noteFault v s).sched = s.sched ∧
    (noteFault v s).rel = s.rel ∧ (noteFault v s).fab = s.fab ∧ (noteFault v s).host = s.host ∧
    (noteFault v s).boot = s.boot ∧ (noteFault v s).dbg = s.dbg ∧ (noteFault v s).ctx.regs = s.ctx.regs ∧
    (noteFault v s).ctx.prv = s.ctx.prv ∧ (noteFault v s).ctx.t = s.ctx.t ∧ (noteFault v s).ctx.c = s.ctx.c ∧
    (noteFault v s).ctx.aux = s.ctx.aux := by
  obtain ⟨_, ⟨⟨_, _, _, _, _⟩, _, _, _, _, _⟩, _, _, _, _, _, _, _, _, _, _, _, _, _, _, _, _, _, _, _⟩ := s
  and_intros <;> rfl

/-- What delivery to a user handler leaves. -/
@[simp] theorem enterUser_frame (c d : Nat) (v pc : Word) (s : State) :
    (enterUser c d v pc s).cur = s.cur ∧ (enterUser c d v pc s).core = s.core ∧
    (enterUser c d v pc s).others = s.others ∧ (enterUser c d v pc s).turns = s.turns ∧
    (enterUser c d v pc s).cyc = s.cyc ∧ (enterUser c d v pc s).ns = s.ns ∧ (enterUser c d v pc s).free = s.free ∧
    (enterUser c d v pc s).modes = s.modes ∧ (enterUser c d v pc s).pkg = s.pkg ∧
    (enterUser c d v pc s).mem = s.mem ∧ (enterUser c d v pc s).coh = s.coh ∧ (enterUser c d v pc s).xlat = s.xlat ∧
    (enterUser c d v pc s).eng = s.eng ∧ (enterUser c d v pc s).copy = s.copy ∧
    (enterUser c d v pc s).sched = s.sched ∧ (enterUser c d v pc s).rel = s.rel ∧
    (enterUser c d v pc s).fab = s.fab ∧ (enterUser c d v pc s).host = s.host ∧
    (enterUser c d v pc s).boot = s.boot ∧ (enterUser c d v pc s).dbg = s.dbg := by
  simp only [enterUser, and_self]

/-- What delivery to a user handler leaves of the context. -/
@[simp] theorem enterUser_ctx (c d : Nat) (v pc : Word) (s : State) :
    (enterUser c d v pc s).ctx.prv = s.ctx.prv ∧ (enterUser c d v pc s).ctx.t = s.ctx.t ∧
    (enterUser c d v pc s).ctx.c = s.ctx.c ∧ (enterUser c d v pc s).ctx.aux = s.ctx.aux ∧
    (enterUser c d v pc s).ctx.regs.g = s.ctx.regs.g ∧ (enterUser c d v pc s).ctx.regs.f = s.ctx.regs.f ∧
    (enterUser c d v pc s).ctx.regs.p = s.ctx.regs.p ∧ (enterUser c d v pc s).ctx.regs.m = s.ctx.regs.m := by
  simp only [enterUser, and_self]

/-- What a halt leaves. -/
@[simp] theorem haltCore_frame (s : State) :
    (haltCore s).cur = s.cur ∧ (haltCore s).others = s.others ∧ (haltCore s).turns = s.turns ∧
    (haltCore s).cyc = s.cyc ∧ (haltCore s).ns = s.ns ∧ (haltCore s).free = s.free ∧ (haltCore s).modes = s.modes ∧
    (haltCore s).pkg = s.pkg ∧ (haltCore s).mem = s.mem ∧ (haltCore s).coh = s.coh ∧ (haltCore s).xlat = s.xlat ∧
    (haltCore s).eng = s.eng ∧ (haltCore s).copy = s.copy ∧ (haltCore s).sched = s.sched ∧ (haltCore s).rel = s.rel ∧
    (haltCore s).fab = s.fab ∧ (haltCore s).host = s.host ∧ (haltCore s).boot = s.boot ∧ (haltCore s).dbg = s.dbg ∧
    (haltCore s).ctx = s.ctx := by
  obtain ⟨_, ⟨⟨_, _, _, _, _⟩, _, _, _, _, _⟩, _, _, _, _, _, _, _, _, _, _, _, _, _, _, _, _, _, _, _⟩ := s
  and_intros <;> rfl

/-- What a write of `STATUS` leaves. -/
@[simp] theorem setStatus_frame (s : State) (w : Word) :
    (s.setStatus w).cur = s.cur ∧ (s.setStatus w).core = s.core ∧ (s.setStatus w).others = s.others ∧
    (s.setStatus w).turns = s.turns ∧ (s.setStatus w).cyc = s.cyc ∧ (s.setStatus w).ns = s.ns ∧
    (s.setStatus w).free = s.free ∧ (s.setStatus w).modes = s.modes ∧ (s.setStatus w).pkg = s.pkg ∧
    (s.setStatus w).mem = s.mem ∧ (s.setStatus w).coh = s.coh ∧ (s.setStatus w).xlat = s.xlat ∧
    (s.setStatus w).eng = s.eng ∧ (s.setStatus w).copy = s.copy ∧ (s.setStatus w).sched = s.sched ∧
    (s.setStatus w).rel = s.rel ∧ (s.setStatus w).fab = s.fab ∧ (s.setStatus w).host = s.host ∧
    (s.setStatus w).boot = s.boot ∧ (s.setStatus w).dbg = s.dbg ∧ (s.setStatus w).ctx.regs = s.ctx.regs ∧
    (s.setStatus w).ctx.ctl = s.ctx.ctl ∧ (s.setStatus w).ctx.t = s.ctx.t ∧ (s.setStatus w).ctx.c = s.ctx.c ∧
    (s.setStatus w).ctx.aux = s.ctx.aux ∧ (s.setStatus w).ctx.prv.sup = s.ctx.prv.sup ∧
    (s.setStatus w).ctx.prv.hyp = s.ctx.prv.hyp ∧ (s.setStatus w).ctx.prv.mon = s.ctx.prv.mon := by
  obtain ⟨_, ⟨⟨_, _, _, _, _⟩, _, _, _, _, _⟩, _, _, _, _, _, _, _, _, _, _, _, _, _, _, _, _, _, _, _⟩ := s
  and_intros <;> rfl

/-- What a return from a trap leaves. -/
@[simp] theorem returnFrom_frame (l : Nat) (s : State) :
    (returnFrom l s).cur = s.cur ∧ (returnFrom l s).core = s.core ∧ (returnFrom l s).others = s.others ∧
    (returnFrom l s).turns = s.turns ∧ (returnFrom l s).cyc = s.cyc ∧ (returnFrom l s).ns = s.ns ∧
    (returnFrom l s).free = s.free ∧ (returnFrom l s).modes = s.modes ∧ (returnFrom l s).pkg = s.pkg ∧
    (returnFrom l s).mem = s.mem ∧ (returnFrom l s).coh = s.coh ∧ (returnFrom l s).xlat = s.xlat ∧
    (returnFrom l s).eng = s.eng ∧ (returnFrom l s).copy = s.copy ∧ (returnFrom l s).sched = s.sched ∧
    (returnFrom l s).rel = s.rel ∧ (returnFrom l s).fab = s.fab ∧ (returnFrom l s).host = s.host ∧
    (returnFrom l s).boot = s.boot ∧ (returnFrom l s).dbg = s.dbg ∧ (returnFrom l s).ctx.ctl = s.ctx.ctl ∧
    (returnFrom l s).ctx.t = s.ctx.t ∧ (returnFrom l s).ctx.c = s.ctx.c ∧ (returnFrom l s).ctx.aux =
      { s.ctx.aux with resumeAt := vecAddr (s.trapSet l).epc, passedAt := s.cyc } ∧
    (returnFrom l s).ctx.regs.g = s.ctx.regs.g ∧ (returnFrom l s).ctx.regs.f = s.ctx.regs.f ∧
    (returnFrom l s).ctx.regs.p = s.ctx.regs.p ∧ (returnFrom l s).ctx.regs.m = s.ctx.regs.m := by
  simp only [returnFrom, setPc_frame, setStatus_frame, and_self]

/-- What a return of a user handler leaves. -/
@[simp] theorem returnFromUser_frame (s : State) :
    (returnFromUser s).cur = s.cur ∧ (returnFromUser s).core = s.core ∧ (returnFromUser s).others = s.others ∧
    (returnFromUser s).turns = s.turns ∧ (returnFromUser s).cyc = s.cyc ∧ (returnFromUser s).ns = s.ns ∧
    (returnFromUser s).free = s.free ∧ (returnFromUser s).modes = s.modes ∧ (returnFromUser s).pkg = s.pkg ∧
    (returnFromUser s).mem = s.mem ∧ (returnFromUser s).coh = s.coh ∧ (returnFromUser s).xlat = s.xlat ∧
    (returnFromUser s).eng = s.eng ∧ (returnFromUser s).copy = s.copy ∧ (returnFromUser s).sched = s.sched ∧
    (returnFromUser s).rel = s.rel ∧ (returnFromUser s).fab = s.fab ∧ (returnFromUser s).host = s.host ∧
    (returnFromUser s).boot = s.boot ∧ (returnFromUser s).dbg = s.dbg ∧ (returnFromUser s).ctx.prv = s.ctx.prv ∧
    (returnFromUser s).ctx.t = s.ctx.t ∧ (returnFromUser s).ctx.c = s.ctx.c ∧
    (returnFromUser s).ctx.aux =
      { s.ctx.aux with resumeAt := vecAddr s.ctx.ctl.uepc, passedAt := s.cyc } ∧ (returnFromUser s).ctx.regs.g = s.ctx.regs.g ∧
    (returnFromUser s).ctx.regs.f = s.ctx.regs.f ∧ (returnFromUser s).ctx.regs.p = s.ctx.regs.p ∧
    (returnFromUser s).ctx.regs.m = s.ctx.regs.m := by
  obtain ⟨_, ⟨⟨_, _, _, _, _⟩, _, _, _, _, _⟩, _, _, _, _, _, _, _, _, _, _, _, _, _, _, _, _, _, _, _⟩ := s
  and_intros <;> rfl

/-- What clearing the progress fields leaves. -/
@[simp] theorem clearProgress_frame (s : State) :
    (clearProgress s).cur = s.cur ∧ (clearProgress s).others = s.others ∧ (clearProgress s).turns = s.turns ∧
    (clearProgress s).cyc = s.cyc ∧ (clearProgress s).ns = s.ns ∧ (clearProgress s).free = s.free ∧
    (clearProgress s).modes = s.modes ∧ (clearProgress s).pkg = s.pkg ∧ (clearProgress s).mem = s.mem ∧
    (clearProgress s).coh = s.coh ∧ (clearProgress s).xlat = s.xlat ∧ (clearProgress s).eng = s.eng ∧
    (clearProgress s).copy = s.copy ∧ (clearProgress s).sched = s.sched ∧ (clearProgress s).rel = s.rel ∧
    (clearProgress s).fab = s.fab ∧ (clearProgress s).host = s.host ∧ (clearProgress s).boot = s.boot ∧
    (clearProgress s).dbg = s.dbg ∧ (clearProgress s).ctx.regs = s.ctx.regs ∧ (clearProgress s).ctx.prv = s.ctx.prv ∧
    (clearProgress s).ctx.t = s.ctx.t ∧ (clearProgress s).ctx.c = s.ctx.c := by
  obtain ⟨_, ⟨⟨_, _, _, _, _⟩, _, _, _, _, _⟩, _, _, _, _, _, _, _, _, _, _, _, _, _, _, _, _, _, _, _⟩ := s
  and_intros <;> rfl

/-- What raising sticky flags leaves. -/
@[simp] theorem orFlags_frame (n : Nat) (s : State) :
    (orFlags n s).cur = s.cur ∧ (orFlags n s).core = s.core ∧ (orFlags n s).others = s.others ∧
    (orFlags n s).turns = s.turns ∧ (orFlags n s).cyc = s.cyc ∧ (orFlags n s).ns = s.ns ∧
    (orFlags n s).free = s.free ∧ (orFlags n s).modes = s.modes ∧ (orFlags n s).pkg = s.pkg ∧
    (orFlags n s).mem = s.mem ∧ (orFlags n s).coh = s.coh ∧ (orFlags n s).xlat = s.xlat ∧ (orFlags n s).eng = s.eng ∧
    (orFlags n s).copy = s.copy ∧ (orFlags n s).sched = s.sched ∧ (orFlags n s).rel = s.rel ∧
    (orFlags n s).fab = s.fab ∧ (orFlags n s).host = s.host ∧ (orFlags n s).boot = s.boot ∧
    (orFlags n s).dbg = s.dbg ∧ (orFlags n s).ctx.regs = s.ctx.regs ∧ (orFlags n s).ctx.prv = s.ctx.prv ∧
    (orFlags n s).ctx.t = s.ctx.t ∧ (orFlags n s).ctx.c = s.ctx.c ∧ (orFlags n s).ctx.aux = s.ctx.aux := by
  obtain ⟨_, ⟨⟨_, _, _, _, _⟩, _, _, _, _, _⟩, _, _, _, _, _, _, _, _, _, _, _, _, _, _, _, _, _, _, _⟩ := s
  and_intros <;> rfl

/-- What a write of a tile name leaves. -/
@[simp] theorem putTile_frame (n : Nat) (t : List Tile) (s : State) :
    (putTile n t s).cur = s.cur ∧ (putTile n t s).core = s.core ∧ (putTile n t s).others = s.others ∧
    (putTile n t s).turns = s.turns ∧ (putTile n t s).cyc = s.cyc ∧ (putTile n t s).ns = s.ns ∧
    (putTile n t s).free = s.free ∧ (putTile n t s).modes = s.modes ∧ (putTile n t s).pkg = s.pkg ∧
    (putTile n t s).mem = s.mem ∧ (putTile n t s).coh = s.coh ∧ (putTile n t s).xlat = s.xlat ∧
    (putTile n t s).eng = s.eng ∧ (putTile n t s).copy = s.copy ∧ (putTile n t s).sched = s.sched ∧
    (putTile n t s).rel = s.rel ∧ (putTile n t s).fab = s.fab ∧ (putTile n t s).host = s.host ∧
    (putTile n t s).boot = s.boot ∧ (putTile n t s).dbg = s.dbg ∧ (putTile n t s).ctx.regs = s.ctx.regs ∧
    (putTile n t s).ctx.ctl = s.ctx.ctl ∧ (putTile n t s).ctx.prv = s.ctx.prv ∧ (putTile n t s).ctx.c = s.ctx.c := by
  obtain ⟨_, ⟨⟨_, _, _, _, _⟩, _, _, _, _, _⟩, _, _, _, _, _, _, _, _, _, _, _, _, _, _, _, _, _, _, _⟩ := s
  and_intros <;> rfl

/-- What a write of an accumulator name leaves. -/
@[simp] theorem putAcc_frame (n : Nat) (a : Acc) (s : State) :
    (putAcc n a s).cur = s.cur ∧ (putAcc n a s).core = s.core ∧ (putAcc n a s).others = s.others ∧
    (putAcc n a s).turns = s.turns ∧ (putAcc n a s).cyc = s.cyc ∧ (putAcc n a s).ns = s.ns ∧
    (putAcc n a s).free = s.free ∧ (putAcc n a s).modes = s.modes ∧ (putAcc n a s).pkg = s.pkg ∧
    (putAcc n a s).mem = s.mem ∧ (putAcc n a s).coh = s.coh ∧ (putAcc n a s).xlat = s.xlat ∧
    (putAcc n a s).eng = s.eng ∧ (putAcc n a s).copy = s.copy ∧ (putAcc n a s).sched = s.sched ∧
    (putAcc n a s).rel = s.rel ∧ (putAcc n a s).fab = s.fab ∧ (putAcc n a s).host = s.host ∧
    (putAcc n a s).boot = s.boot ∧ (putAcc n a s).dbg = s.dbg ∧ (putAcc n a s).ctx.regs = s.ctx.regs ∧
    (putAcc n a s).ctx.ctl = s.ctx.ctl ∧ (putAcc n a s).ctx.prv = s.ctx.prv ∧ (putAcc n a s).ctx.t = s.ctx.t := by
  obtain ⟨_, ⟨⟨_, _, _, _, _⟩, _, _, _, _, _⟩, _, _, _, _, _, _, _, _, _, _, _, _, _, _, _, _, _, _, _⟩ := s
  and_intros <;> rfl

/-- What a write at a home leaves. -/
@[simp] theorem homeWrite_frame (pa : Nat) (d : List Byte) (m : Byte) (p f : Bool) (s : State) :
    (homeWrite pa d m p f s).cur = s.cur ∧ (homeWrite pa d m p f s).core = s.core ∧
    (homeWrite pa d m p f s).others = s.others ∧ (homeWrite pa d m p f s).turns = s.turns ∧
    (homeWrite pa d m p f s).cyc = s.cyc ∧ (homeWrite pa d m p f s).ns = s.ns ∧
    (homeWrite pa d m p f s).free = s.free ∧ (homeWrite pa d m p f s).modes = s.modes ∧
    (homeWrite pa d m p f s).pkg = s.pkg ∧ (homeWrite pa d m p f s).xlat = s.xlat ∧
    (homeWrite pa d m p f s).eng = s.eng ∧ (homeWrite pa d m p f s).copy = s.copy ∧
    (homeWrite pa d m p f s).sched = s.sched ∧ (homeWrite pa d m p f s).rel = s.rel ∧
    (homeWrite pa d m p f s).fab = s.fab ∧ (homeWrite pa d m p f s).host = s.host ∧
    (homeWrite pa d m p f s).boot = s.boot ∧ (homeWrite pa d m p f s).dbg = s.dbg ∧
    (homeWrite pa d m p f s).ctx = s.ctx := by
  obtain ⟨_, ⟨⟨_, _, _, _, _⟩, _, _, _, _, _⟩, _, _, _, _, _, _, _, _, _, _, _, _, _, _, _, _, _, _, _⟩ := s
  and_intros <;> rfl

/-- What the passing of time leaves. -/
@[simp] theorem tick_frame (s : State) :
    (tick s).cur = s.cur ∧ (tick s).core = s.core ∧ (tick s).others = s.others ∧ (tick s).turns = s.turns ∧
    (tick s).modes = s.modes ∧ (tick s).pkg = s.pkg ∧ (tick s).mem = s.mem ∧ (tick s).coh = s.coh ∧
    (tick s).xlat = s.xlat ∧ (tick s).eng = s.eng ∧ (tick s).copy = s.copy ∧ (tick s).sched = s.sched ∧
    (tick s).rel = s.rel ∧ (tick s).fab = s.fab ∧ (tick s).host = s.host ∧ (tick s).boot = s.boot ∧
    (tick s).dbg = s.dbg ∧ (tick s).ctx = s.ctx := by
  obtain ⟨_, ⟨⟨_, _, _, _, _⟩, _, _, _, _, _⟩, _, _, _, _, _, _, _, _, _, _, _, _, _, _, _, _, _, _, _⟩ := s
  and_intros <;> rfl

/-- What a halt leaves of the core. -/
@[simp] theorem haltCore_core (s : State) :
    (haltCore s).core.sb = s.core.sb ∧ (haltCore s).core.tlb = s.core.tlb := ⟨rfl, rfl⟩

/-- What clearing the progress fields leaves of the core. -/
@[simp] theorem clearProgress_core (s : State) :
    (clearProgress s).core.sb = s.core.sb ∧ (clearProgress s).core.tlb = s.core.tlb ∧
    (clearProgress s).core.halted = s.core.halted := ⟨rfl, rfl, rfl⟩

/-- What a write of a level's trap registers leaves. -/
@[simp] theorem setTrapSet_frame (s : State) (l : Nat) (x : TrapSet) :
    (s.setTrapSet l x).cur = s.cur ∧ (s.setTrapSet l x).core = s.core ∧ (s.setTrapSet l x).others = s.others ∧
    (s.setTrapSet l x).turns = s.turns ∧ (s.setTrapSet l x).cyc = s.cyc ∧ (s.setTrapSet l x).ns = s.ns ∧
    (s.setTrapSet l x).free = s.free ∧ (s.setTrapSet l x).modes = s.modes ∧ (s.setTrapSet l x).pkg = s.pkg ∧
    (s.setTrapSet l x).mem = s.mem ∧ (s.setTrapSet l x).coh = s.coh ∧ (s.setTrapSet l x).xlat = s.xlat ∧
    (s.setTrapSet l x).eng = s.eng ∧ (s.setTrapSet l x).copy = s.copy ∧ (s.setTrapSet l x).sched = s.sched ∧
    (s.setTrapSet l x).rel = s.rel ∧ (s.setTrapSet l x).fab = s.fab ∧ (s.setTrapSet l x).host = s.host ∧
    (s.setTrapSet l x).boot = s.boot ∧ (s.setTrapSet l x).dbg = s.dbg ∧ (s.setTrapSet l x).ctx.regs = s.ctx.regs ∧
    (s.setTrapSet l x).ctx.ctl = s.ctx.ctl ∧ (s.setTrapSet l x).ctx.t = s.ctx.t ∧
    (s.setTrapSet l x).ctx.c = s.ctx.c ∧ (s.setTrapSet l x).ctx.aux = s.ctx.aux ∧
    (s.setTrapSet l x).ctx.prv.status = s.ctx.prv.status ∧ (s.setTrapSet l x).ctx.prv.partid = s.ctx.prv.partid ∧
    (s.setTrapSet l x).ctx.prv.gtid = s.ctx.prv.gtid := by
  obtain ⟨_, ⟨⟨_, _, _, _, _⟩, _, _, _, _, _⟩, _, _, _, _, _, _, _, _, _, _, _, _, _, _, _, _, _, _, _⟩ := s
  unfold State.setTrapSet; split <;> and_intros <;> rfl

/-- What entry to level 1 to 3 leaves. -/
@[simp] theorem enter_frame (l c d : Nat) (v pc : Word) (s : State) :
    (enter l c d v pc s).cur = s.cur ∧ (enter l c d v pc s).core = s.core ∧ (enter l c d v pc s).others = s.others ∧
    (enter l c d v pc s).turns = s.turns ∧ (enter l c d v pc s).cyc = s.cyc ∧ (enter l c d v pc s).ns = s.ns ∧
    (enter l c d v pc s).free = s.free ∧ (enter l c d v pc s).modes = s.modes ∧ (enter l c d v pc s).pkg = s.pkg ∧
    (enter l c d v pc s).mem = s.mem ∧ (enter l c d v pc s).coh = s.coh ∧ (enter l c d v pc s).xlat = s.xlat ∧
    (enter l c d v pc s).eng = s.eng ∧ (enter l c d v pc s).copy = s.copy ∧ (enter l c d v pc s).sched = s.sched ∧
    (enter l c d v pc s).rel = s.rel ∧ (enter l c d v pc s).fab = s.fab ∧ (enter l c d v pc s).host = s.host ∧
    (enter l c d v pc s).boot = s.boot ∧ (enter l c d v pc s).dbg = s.dbg ∧
    (enter l c d v pc s).ctx.regs.g = s.ctx.regs.g ∧ (enter l c d v pc s).ctx.regs.f = s.ctx.regs.f ∧
    (enter l c d v pc s).ctx.regs.p = s.ctx.regs.p ∧ (enter l c d v pc s).ctx.regs.m = s.ctx.regs.m ∧
    (enter l c d v pc s).ctx.ctl = s.ctx.ctl ∧ (enter l c d v pc s).ctx.t = s.ctx.t ∧
    (enter l c d v pc s).ctx.c = s.ctx.c ∧ (enter l c d v pc s).ctx.aux = s.ctx.aux := by
  simp only [enter, setPc_frame, setStatus_frame, setTrapSet_frame, and_self]

/-- What a trap leaves, wherever it goes. -/
@[simp] theorem deliver_frame (c d : Nat) (v pc : Word) (s : State) :
    (deliver c d v pc s).cur = s.cur ∧ (deliver c d v pc s).others = s.others ∧
    (deliver c d v pc s).turns = s.turns ∧ (deliver c d v pc s).cyc = s.cyc ∧ (deliver c d v pc s).ns = s.ns ∧
    (deliver c d v pc s).free = s.free ∧ (deliver c d v pc s).modes = s.modes ∧ (deliver c d v pc s).pkg = s.pkg ∧
    (deliver c d v pc s).mem = s.mem ∧ (deliver c d v pc s).coh = s.coh ∧ (deliver c d v pc s).xlat = s.xlat ∧
    (deliver c d v pc s).eng = s.eng ∧ (deliver c d v pc s).copy = s.copy ∧ (deliver c d v pc s).sched = s.sched ∧
    (deliver c d v pc s).rel = s.rel ∧ (deliver c d v pc s).fab = s.fab ∧ (deliver c d v pc s).host = s.host ∧
    (deliver c d v pc s).boot = s.boot ∧ (deliver c d v pc s).dbg = s.dbg ∧
    (deliver c d v pc s).ctx.regs.g = s.ctx.regs.g ∧ (deliver c d v pc s).ctx.regs.f = s.ctx.regs.f ∧
    (deliver c d v pc s).ctx.regs.p = s.ctx.regs.p ∧ (deliver c d v pc s).ctx.regs.m = s.ctx.regs.m ∧
    (deliver c d v pc s).ctx.t = s.ctx.t ∧ (deliver c d v pc s).ctx.c = s.ctx.c ∧
    (deliver c d v pc s).core.sb = s.core.sb ∧ (deliver c d v pc s).core.tlb = s.core.tlb := by
  unfold deliver; dsimp only; repeat' split
  · simp only [enterUser_frame, enterUser_ctx, and_self]
  · simp only [haltCore_frame, haltCore_core, and_self]
  · simp only [enter_frame, and_self]

/-- What recording progress leaves. -/
@[simp] theorem recordProgress_frame (r : Option Nat) (n : Nat) (t : Trap) (s : State) :
    (recordProgress r n t s).cur = s.cur ∧ (recordProgress r n t s).core = s.core ∧
    (recordProgress r n t s).others = s.others ∧ (recordProgress r n t s).turns = s.turns ∧
    (recordProgress r n t s).cyc = s.cyc ∧ (recordProgress r n t s).ns = s.ns ∧
    (recordProgress r n t s).free = s.free ∧ (recordProgress r n t s).modes = s.modes ∧
    (recordProgress r n t s).pkg = s.pkg ∧ (recordProgress r n t s).mem = s.mem ∧
    (recordProgress r n t s).coh = s.coh ∧ (recordProgress r n t s).xlat = s.xlat ∧
    (recordProgress r n t s).eng = s.eng ∧ (recordProgress r n t s).copy = s.copy ∧
    (recordProgress r n t s).sched = s.sched ∧ (recordProgress r n t s).rel = s.rel ∧
    (recordProgress r n t s).fab = s.fab ∧ (recordProgress r n t s).host = s.host ∧
    (recordProgress r n t s).boot = s.boot ∧ (recordProgress r n t s).dbg = s.dbg ∧
    (recordProgress r n t s).ctx.regs = s.ctx.regs ∧ (recordProgress r n t s).ctx.prv = s.ctx.prv ∧
    (recordProgress r n t s).ctx.t = s.ctx.t ∧ (recordProgress r n t s).ctx.c = s.ctx.c ∧
    (recordProgress r n t s).ctx.aux = s.ctx.aux := by
  unfold recordProgress; repeat' split
  all_goals simp

/-- What a trap of an instruction leaves. -/
@[simp] theorem takeTrap_frame (r : Option Nat) (t : Trap) (s : State) :
    (takeTrap r t s).cur = s.cur ∧ (takeTrap r t s).others = s.others ∧ (takeTrap r t s).turns = s.turns ∧
    (takeTrap r t s).cyc = s.cyc ∧ (takeTrap r t s).ns = s.ns ∧ (takeTrap r t s).free = s.free ∧
    (takeTrap r t s).modes = s.modes ∧ (takeTrap r t s).pkg = s.pkg ∧ (takeTrap r t s).mem = s.mem ∧
    (takeTrap r t s).coh = s.coh ∧ (takeTrap r t s).xlat = s.xlat ∧ (takeTrap r t s).eng = s.eng ∧
    (takeTrap r t s).copy = s.copy ∧ (takeTrap r t s).sched = s.sched ∧ (takeTrap r t s).rel = s.rel ∧
    (takeTrap r t s).fab = s.fab ∧ (takeTrap r t s).host = s.host ∧ (takeTrap r t s).boot = s.boot ∧
    (takeTrap r t s).dbg = s.dbg ∧ (takeTrap r t s).ctx.regs.g = s.ctx.regs.g ∧
    (takeTrap r t s).ctx.regs.f = s.ctx.regs.f ∧ (takeTrap r t s).ctx.regs.p = s.ctx.regs.p ∧
    (takeTrap r t s).ctx.regs.m = s.ctx.regs.m ∧ (takeTrap r t s).ctx.t = s.ctx.t ∧
    (takeTrap r t s).ctx.c = s.ctx.c ∧ (takeTrap r t s).core.sb = s.core.sb ∧
    (takeTrap r t s).core.tlb = s.core.tlb := by
  unfold takeTrap; split <;> simp

/-- What retirement leaves, whether or not STEP follows. -/
@[simp] theorem retireTo_frame (v : Word) (s : State) :
    (retireTo v s).cur = s.cur ∧ (retireTo v s).others = s.others ∧ (retireTo v s).turns = s.turns ∧
    (retireTo v s).cyc = s.cyc ∧ (retireTo v s).ns = s.ns ∧ (retireTo v s).free = s.free ∧
    (retireTo v s).modes = s.modes ∧ (retireTo v s).pkg = s.pkg ∧ (retireTo v s).mem = s.mem ∧
    (retireTo v s).coh = s.coh ∧ (retireTo v s).xlat = s.xlat ∧ (retireTo v s).eng = s.eng ∧
    (retireTo v s).copy = s.copy ∧ (retireTo v s).sched = s.sched ∧ (retireTo v s).rel = s.rel ∧
    (retireTo v s).fab = s.fab ∧ (retireTo v s).host = s.host ∧ (retireTo v s).boot = s.boot ∧
    (retireTo v s).dbg = s.dbg ∧ (retireTo v s).ctx.regs.g = s.ctx.regs.g ∧
    (retireTo v s).ctx.regs.f = s.ctx.regs.f ∧ (retireTo v s).ctx.regs.p = s.ctx.regs.p ∧
    (retireTo v s).ctx.regs.m = s.ctx.regs.m ∧ (retireTo v s).ctx.t = s.ctx.t ∧ (retireTo v s).ctx.c = s.ctx.c ∧
    (retireTo v s).core.sb = s.core.sb ∧ (retireTo v s).core.tlb = s.core.tlb := by
  unfold retireTo; dsimp only
  split <;> simp only [deliver_frame, setPc_frame, clearProgress_frame, clearProgress_core, and_self]

/-- As `retireTo_frame`. -/
@[simp] theorem retire_frame (n : Nat) (s : State) :
    (retire n s).cur = s.cur ∧ (retire n s).others = s.others ∧ (retire n s).turns = s.turns ∧
    (retire n s).cyc = s.cyc ∧ (retire n s).ns = s.ns ∧ (retire n s).free = s.free ∧ (retire n s).modes = s.modes ∧
    (retire n s).pkg = s.pkg ∧ (retire n s).mem = s.mem ∧ (retire n s).coh = s.coh ∧ (retire n s).xlat = s.xlat ∧
    (retire n s).eng = s.eng ∧ (retire n s).copy = s.copy ∧ (retire n s).sched = s.sched ∧ (retire n s).rel = s.rel ∧
    (retire n s).fab = s.fab ∧ (retire n s).host = s.host ∧ (retire n s).boot = s.boot ∧ (retire n s).dbg = s.dbg ∧
    (retire n s).ctx.regs.g = s.ctx.regs.g ∧ (retire n s).ctx.regs.f = s.ctx.regs.f ∧
    (retire n s).ctx.regs.p = s.ctx.regs.p ∧ (retire n s).ctx.regs.m = s.ctx.regs.m ∧ (retire n s).ctx.t = s.ctx.t ∧
    (retire n s).ctx.c = s.ctx.c ∧ (retire n s).core.sb = s.core.sb ∧ (retire n s).core.tlb = s.core.tlb := by
  simp [retire]

/-- What completing a repeat leaves. -/
@[simp] theorem completes_frame (fm : Form) (len j : Nat) (s : State) :
    (completes fm len j s).cur = s.cur ∧ (completes fm len j s).others = s.others ∧
    (completes fm len j s).turns = s.turns ∧ (completes fm len j s).cyc = s.cyc ∧ (completes fm len j s).ns = s.ns ∧
    (completes fm len j s).free = s.free ∧ (completes fm len j s).modes = s.modes ∧
    (completes fm len j s).pkg = s.pkg ∧ (completes fm len j s).mem = s.mem ∧ (completes fm len j s).coh = s.coh ∧
    (completes fm len j s).xlat = s.xlat ∧ (completes fm len j s).eng = s.eng ∧
    (completes fm len j s).copy = s.copy ∧ (completes fm len j s).sched = s.sched ∧
    (completes fm len j s).rel = s.rel ∧ (completes fm len j s).fab = s.fab ∧ (completes fm len j s).host = s.host ∧
    (completes fm len j s).boot = s.boot ∧ (completes fm len j s).dbg = s.dbg ∧
    (completes fm len j s).ctx.regs.g = s.ctx.regs.g ∧ (completes fm len j s).ctx.regs.f = s.ctx.regs.f ∧
    (completes fm len j s).ctx.regs.p = s.ctx.regs.p ∧ (completes fm len j s).ctx.regs.m = s.ctx.regs.m ∧
    (completes fm len j s).ctx.t = s.ctx.t ∧ (completes fm len j s).ctx.c = s.ctx.c ∧
    (completes fm len j s).core.sb = s.core.sb ∧ (completes fm len j s).core.tlb = s.core.tlb := by
  unfold completes; split <;> simp

end Sys2Proof.Machine
end

