-- ==== Sys2Proof/Laws/Run.lean ====
section
/-! SUPPORT. What running an instruction does: each way it can end, once for each shared operation, and the frames
that taking a trap and retiring leave. -/

namespace Sys2Proof.Machine

/-! ## Sources -/

theorem need_ok {s : State} {l : List Src} (h : clean s l = true) : need s l = .ok () := by
  unfold clean at h; unfold need; split
  · simp_all
  · rfl

theorem need_poison {s : State} {l : List Src} (h : clean s l = false) : need s l = raise 0x13 0x0002 0 s := by
  unfold clean at h; unfold need; split
  · rfl
  · simp_all

/-- `need` succeeds or raises MCHK in the state it was given. -/
theorem need_cases (s : State) (l : List Src) : need s l = .ok () ∨ need s l = raise 0x13 0x0002 0 s := by
  unfold need; split
  · exact .inr rfl
  · exact .inl rfl

/-! ## How an instruction ends -/

theorem runRep_ok {fm : Form} {len j k : Nat} {body : Nat → Nat → State → Run} {s t : State}
    (h : startAt fm s = some (j, k)) (hb : body j k s = .ok t) :
    runRep fm len body s = .next (completes fm len j t) := by
  unfold runRep completes; rw [h]; simp only [afterRepeat, hb]; split <;> rfl

theorem runRep_trap {fm : Form} {len j k : Nat} {body : Nat → Nat → State → Run} {s t : State} {x : Trap}
    (h : startAt fm s = some (j, k)) (hb : body j k s = .error (.trap x t)) :
    runRep fm len body s =
      .next (takeTrap (if fm.rep.isSome then some (fm.count - j) else none) x t) := by
  unfold runRep; rw [h]; simp only [afterRepeat, hb]

theorem runRep_wait {fm : Form} {len j k : Nat} {body : Nat → Nat → State → Run} {s t : State}
    (h : startAt fm s = some (j, k)) (hb : body j k s = .error (.wait t)) : runRep fm len body s = .next t := by
  unfold runRep; rw [h]; simp only [afterRepeat, hb]

theorem runRep_none {fm : Form} {len : Nat} {body : Nat → Nat → State → Run} {s : State}
    (h : startAt fm s = none) : runRep fm len body s = .next (takeTrap none (illTrap s) s) := by
  unfold runRep; rw [h]

theorem runOne_ok {len : Nat} {body : State → Run} {s t : State} (hb : body s = .ok t) :
    runOne len body s = retires len t := by
  unfold runOne retires; rw [hb]

theorem runOne_trap {len : Nat} {body : State → Run} {s t : State} {x : Trap} (hb : body s = .error (.trap x t)) :
    runOne len body s = .next (takeTrap none x t) := by
  unfold runOne; rw [hb]

theorem runTo_ok {body : State → RunV Word} {s t : State} {v : Word} (hb : body s = .ok (t, v)) :
    runTo body s = .next (retireTo v t) := by
  unfold runTo; rw [hb]

theorem runTo_trap {body : State → RunV Word} {s t : State} {x : Trap} (hb : body s = .error (.trap x t)) :
    runTo body s = .next (takeTrap none x t) := by
  unfold runTo; rw [hb]

theorem runRep_next (fm : Form) (len : Nat) (body : Nat → Nat → State → Run) (s : State) :
    ∃ t, runRep fm len body s = .next t := by
  unfold runRep afterRepeat; repeat' split
  all_goals exact ⟨_, rfl⟩

theorem runOne_next (len : Nat) (body : State → Run) (s : State) : ∃ t, runOne len body s = .next t := by
  unfold runOne; split <;> exact ⟨_, rfl⟩

theorem runTo_next (body : State → RunV Word) (s : State) : ∃ t, runTo body s = .next t := by
  unfold runTo; split <;> exact ⟨_, rfl⟩

theorem runEvent_next (s : State) (r : Run) : ∃ t, runEvent s r = .next t := by
  unfold runEvent; split <;> exact ⟨_, rfl⟩

/-! ## Effects on registers -/

theorem aluR_ok {fm : Form} {d a b j k : Nat} {f : Word → Word → Word} {s : State}
    (h : clean s [.g (fm.a j a), .g (fm.b j b)] = true) :
    aluR fm d a b f j k s = .ok (wg s (fm.d j d) (f (rg s (fm.a j a)) (rg s (fm.b j b)))) := by
  simp only [aluR, need_ok h]; rfl

theorem aluU_ok {fm : Form} {d a j k : Nat} {f : Word → Word} {s : State} (h : clean s [.g (fm.a j a)] = true) :
    aluU fm d a f j k s = .ok (wg s (fm.d j d) (f (rg s (fm.a j a)))) := by
  simp only [aluU, need_ok h]; rfl

theorem aluI_ok {fm : Form} {d a j k : Nat} {imm : Int} {f : Word → Word → Word} {s : State}
    (h : clean s [.g (fm.a j a)] = true) :
    aluI fm d a imm f j k s = .ok (wg s (fm.d j d) (f (rg s (fm.a j a)) (ofInt (fm.i j imm)))) := by
  simp only [aluI, need_ok h]; rfl

theorem aluN_ok {fm : Form} {d a imm j k : Nat} {f : Word → Nat → Word} {s : State}
    (h : clean s [.g (fm.a j a)] = true) :
    aluN fm d a imm f j k s = .ok (wg s (fm.d j d) (f (rg s (fm.a j a)) (fm.u j imm))) := by
  simp only [aluN, need_ok h]; rfl

/-- With no enabled flag among those raised, the result and the sticky flags are written (R124). -/
theorem fpRetire_ok {raised : Nat} {write : State → State} {s : State} (h : raised &&& trapEnables s = 0) :
    fpRetire raised write s = .ok (orFlags raised (write s)) := by
  unfold fpRetire; rw [if_neg (by simpa using h)]

theorem fpRetire_trap {raised : Nat} {write : State → State} {s : State} (h : raised &&& trapEnables s ≠ 0) :
    fpRetire raised write s = raise 0x0C ((raised &&& trapEnables s) + 32 * (raised % 32)) 0 s := by
  unfold fpRetire; rw [if_pos h]

/-! ## Frames -/

/-- The parts of the privileged registers that no trap writes. -/
def Priv.still (p : Priv) : Priv := { p with status := 0, sup := .reset, hyp := .reset, mon := .reset }

theorem setTrapSet_same (s : State) (l : Nat) (x : TrapSet) (h : 1 ≤ l ∧ l ≤ 3) : (s.setTrapSet l x).trapSet l = x := by
  obtain ⟨h1, h3⟩ := h
  interval_cases l <;> rfl

theorem setTrapSet_still (s : State) (l : Nat) (x : TrapSet) :
    (s.setTrapSet l x).ctx.prv.still = s.ctx.prv.still := by
  unfold State.setTrapSet; split <;> rfl

theorem setTrapSet_kept (s : State) (l : Nat) (c e v : Word) (n : Nat) :
    let t := s.setTrapSet l { s.trapSet l with cause := c, epc := e, tval := v }
    (t.trapSet n).deleg = (s.trapSet n).deleg ∧ (t.trapSet n).tvec = (s.trapSet n).tvec ∧
      (t.trapSet n).scr = (s.trapSet n).scr := by
  rcases l with _ | _ | _ | l <;> rcases n with _ | _ | _ | n <;> exact ⟨rfl, rfl, rfl⟩

theorem enter_prv (l c d : Nat) (v pc : Word) (s : State) :
    (enter l c d v pc s).ctx.prv.still = s.ctx.prv.still ∧
    ∀ n, ((enter l c d v pc s).trapSet n).deleg = (s.trapSet n).deleg ∧
      ((enter l c d v pc s).trapSet n).tvec = (s.trapSet n).tvec ∧
      ((enter l c d v pc s).trapSet n).scr = (s.trapSet n).scr :=
  ⟨setTrapSet_still s l _, setTrapSet_kept s l _ _ _⟩

theorem deliver_prv (c d : Nat) (v pc : Word) (s : State) :
    (deliver c d v pc s).ctx.prv.still = s.ctx.prv.still ∧
    ∀ n, ((deliver c d v pc s).trapSet n).deleg = (s.trapSet n).deleg ∧
      ((deliver c d v pc s).trapSet n).tvec = (s.trapSet n).tvec ∧
      ((deliver c d v pc s).trapSet n).scr = (s.trapSet n).scr := by
  unfold deliver; dsimp only; repeat' split
  · exact ⟨rfl, fun n => by unfold State.trapSet; split <;> exact ⟨rfl, rfl, rfl⟩⟩
  · exact ⟨rfl, fun n => by unfold State.trapSet; split <;> exact ⟨rfl, rfl, rfl⟩⟩
  · exact enter_prv _ _ _ _ _ _

end Sys2Proof.Machine
end

