-- ==== Sys2Proof/Laws/Frames.lean ====
section
/-! SUPPORT. Frames of the shared operations: what a trap and retirement keep, and the frame of an instruction from the
frame of its effect. -/

namespace Sys2Proof.Machine

theorem keeps_refl (gs fs ps ms cs : List Nat) (fl : Word) (s : State) : keeps gs fs ps ms cs fl s s := by
  unfold keeps; and_intros <;> intros <;> first | rfl | exact ⟨rfl, rfl, rfl⟩

theorem keeps_trans {gs fs ps ms cs : List Nat} {fl : Word} {s t u : State} (h : keeps gs fs ps ms cs fl s t)
    (k : keeps gs fs ps ms cs fl t u) : keeps gs fs ps ms cs fl s u := by
  obtain ⟨h1, h2, h3, h4, h5, h6, h7, h8, h9, h10, h11, h12, h13, h14, h15, h16⟩ := h
  obtain ⟨k1, k2, k3, k4, k5, k6, k7, k8, k9, k10, k11, k12, k13, k14, k15, k16⟩ := k
  exact ⟨fun n hn => (k1 n hn).trans (h1 n hn), fun n hn => (k2 n hn).trans (h2 n hn),
    fun n hn => (k3 n hn).trans (h3 n hn), fun n hn => (k4 n hn).trans (h4 n hn),
    fun n hn => (k5 n hn).trans (h5 n hn), k6.trans h6, k7.trans h7, k8.trans h8, k9.trans h9, k10.trans h10,
    k11.trans h11, k12.trans h12, k13.trans h13,
    fun l => ⟨(k14 l).1.trans (h14 l).1, (k14 l).2.1.trans (h14 l).2.1, (k14 l).2.2.trans (h14 l).2.2⟩,
    k15.trans h15, fun a => (k16 a).trans (h16 a)⟩

/-- The parts of a context's user control registers that no trap and no retirement writes. -/
def Ctl.still (c : Ctl) : Ctl :=
  { c with xstate := 0, owner := 0, ucause := 0, uepc := 0, utval := 0, lastValid := false, lastPc := 0, lastVa := 0 }

/-- Nothing but what `keeps` leaves out has changed. -/
def sameButTraps (s t : State) : Prop :=
  t.ctx.regs.g = s.ctx.regs.g ∧ t.ctx.regs.f = s.ctx.regs.f ∧ t.ctx.regs.p = s.ctx.regs.p ∧
  t.ctx.regs.m = s.ctx.regs.m ∧ t.ctx.c = s.ctx.c ∧ t.ctx.t = s.ctx.t ∧ t.ctx.ctl.still = s.ctx.ctl.still ∧
  (∀ n, (t.trapSet n).deleg = (s.trapSet n).deleg ∧ (t.trapSet n).tvec = (s.trapSet n).tvec ∧
    (t.trapSet n).scr = (s.trapSet n).scr) ∧
  t.ctx.prv.still = s.ctx.prv.still ∧ t.mem = s.mem

theorem sameButTraps_trans {s t u : State} (h : sameButTraps s t) (k : sameButTraps t u) : sameButTraps s u := by
  obtain ⟨h1, h2, h3, h4, h5, h6, h7, h8, h9, h10⟩ := h
  obtain ⟨k1, k2, k3, k4, k5, k6, k7, k8, k9, k10⟩ := k
  exact ⟨k1.trans h1, k2.trans h2, k3.trans h3, k4.trans h4, k5.trans h5, k6.trans h6, k7.trans h7,
    fun n => ⟨(k8 n).1.trans (h8 n).1, (k8 n).2.1.trans (h8 n).2.1, (k8 n).2.2.trans (h8 n).2.2⟩,
    k9.trans h9, k10.trans h10⟩

theorem keeps_of_same {s t : State} (gs fs ps ms cs : List Nat) (fl : Word) (h : sameButTraps s t) :
    keeps gs fs ps ms cs fl s t := by
  obtain ⟨hg, hf, hp, hm, hc, ht, hk, hl, hv, hmem⟩ := h
  simp only [Ctl.still, Ctl.mk.injEq] at hk
  refine ⟨fun n _ => by simp [rg, hg], fun n _ => by simp [rf, hf], fun n _ => by simp [rp, hp],
    fun n _ => by simp [rm, hm], fun n _ => by simp [Ctx.acc, hc], ht, by rw [hk.1], hk.2.1, ?_, ?_, ?_, ?_, ?_, hl,
    hv, fun a => by rw [hmem]⟩ <;> simp_all

/-! ## Traps and retirement -/

theorem setXstate_same (x : Word) (s : State) : sameButTraps s (setXstate x s) :=
  ⟨rfl, rfl, rfl, rfl, rfl, rfl, rfl, fun _ => ⟨rfl, rfl, rfl⟩, rfl, rfl⟩

theorem sameButTraps_refl (s : State) : sameButTraps s s :=
  ⟨rfl, rfl, rfl, rfl, rfl, rfl, rfl, fun _ => ⟨rfl, rfl, rfl⟩, rfl, rfl⟩

theorem recordProgress_same (r : Option Nat) (n : Nat) (t : Trap) (s : State) :
    sameButTraps s (recordProgress r n t s) := by
  unfold recordProgress setProgress; repeat' split
  all_goals first | exact setXstate_same _ _ | exact sameButTraps_refl _

theorem deliver_ctl (c d : Nat) (v pc : Word) (s : State) :
    (deliver c d v pc s).ctx.ctl.still = s.ctx.ctl.still := by
  unfold deliver; dsimp only; repeat' split
  · rfl
  · rfl
  · simp only [enter_frame]

theorem deliver_same (c d : Nat) (v pc : Word) (s : State) : sameButTraps s (deliver c d v pc s) :=
  ⟨by simp, by simp, by simp, by simp, by simp, by simp, deliver_ctl _ _ _ _ _, (deliver_prv _ _ _ _ _).2,
    (deliver_prv _ _ _ _ _).1, by simp⟩

theorem noteFault_same (v : Word) (s : State) : sameButTraps s (noteFault v s) :=
  ⟨rfl, rfl, rfl, rfl, rfl, rfl, rfl, fun _ => ⟨rfl, rfl, rfl⟩, rfl, rfl⟩

/-- A trap of an instruction writes nothing but the progress fields and what entry to its level writes. -/
theorem takeTrap_same (r : Option Nat) (t : Trap) (s : State) : sameButTraps s (takeTrap r t s) := by
  unfold takeTrap; split
  · exact sameButTraps_trans (sameButTraps_trans (recordProgress_same _ _ _ _) (noteFault_same _ _))
      (deliver_same _ _ _ _ _)
  · exact sameButTraps_trans (recordProgress_same _ _ _ _) (deliver_same _ _ _ _ _)

theorem clearProgress_same (v : Word) (s : State) : sameButTraps s ((clearProgress s).setPc v) :=
  ⟨rfl, rfl, rfl, rfl, rfl, rfl, rfl, fun _ => ⟨rfl, rfl, rfl⟩, rfl, rfl⟩

/-- Retirement writes nothing but the progress fields, the program counter and what a STEP writes. -/
theorem retireTo_same (v : Word) (s : State) : sameButTraps s (retireTo v s) := by
  unfold retireTo; dsimp only; split
  · exact sameButTraps_trans (clearProgress_same _ _) (deliver_same _ _ _ _ _)
  · exact clearProgress_same _ _

theorem retireTo_stays (v : Word) (s : State) : stays s (retireTo v s) ∨ singleSteps s := by
  unfold retireTo; dsimp only; split
  · rename_i h; simp only [Bool.and_eq_true, decide_eq_true_eq] at h; exact .inr h
  · exact .inl ⟨rfl, rfl, rfl, rfl, rfl⟩

theorem completes_same (fm : Form) (len j : Nat) (s : State) : sameButTraps s (completes fm len j s) := by
  unfold completes; split
  · exact ⟨rfl, rfl, rfl, rfl, rfl, rfl, rfl, fun _ => ⟨rfl, rfl, rfl⟩, rfl, rfl⟩
  · exact retireTo_same _ _

theorem completes_stays (fm : Form) (len j : Nat) (s : State) : stays s (completes fm len j s) ∨ singleSteps s := by
  unfold completes; split
  · exact .inl ⟨rfl, rfl, rfl, rfl, rfl⟩
  · exact retireTo_stays _ _

/-! ## From the effect to the instruction -/

/-- An effect that keeps what `keeps` says, stores nothing and takes no trap, or raises a trap in the state it was
given. -/
def quietly (gs fs ps ms cs : List Nat) (fl : Word) (s : State) (r : Run) : Prop :=
  (∃ t, r = .ok t ∧ keeps gs fs ps ms cs fl s t ∧ t.core.sb = s.core.sb ∧ stays s t) ∨
  ∃ x, r = .error (.trap x s)

theorem stays_trans {s t u : State} (h : stays s t) (k : stays t u) : stays s u :=
  ⟨k.1.trans h.1, k.2.1.trans h.2.1, k.2.2.1.trans h.2.2.1, k.2.2.2.1.trans h.2.2.2.1, k.2.2.2.2.trans h.2.2.2.2⟩

theorem singleSteps_of_stays {s t : State} (h : stays s t) (k : singleSteps t) : singleSteps s := by
  unfold singleSteps State.pl at *; rwa [h.1] at k

theorem takeTrap_framed (gs fs ps ms cs : List Nat) (fl : Word) (r : Option Nat) (x : Trap) (s : State) :
    keeps gs fs ps ms cs fl s (takeTrap r x s) ∧ (takeTrap r x s).core.sb = s.core.sb ∧
      (stays s (takeTrap r x s) ∨ trapsFrom s (takeTrap r x s) ∨ singleSteps s) :=
  ⟨keeps_of_same _ _ _ _ _ _ (takeTrap_same _ _ _), by simp, .inr (.inl ⟨r, x, s, rfl, rfl, rfl⟩)⟩

theorem runRep_framed {i : Instr} {fm : Form} {len : Nat} {body : Nat → Nat → State → Run} {s : State}
    {gs fs ps ms cs : List Nat} {fl : Word} (hx : exec i s = runRep fm len body s)
    (hb : ∀ j k, startAt fm s = some (j, k) → quietly gs fs ps ms cs fl s (body j k s)) :
    framedBy i gs fs ps ms cs fl s := by
  intro u hu
  rw [hx] at hu
  cases hs : startAt fm s with
  | none => rw [runRep_none hs] at hu; cases hu; exact takeTrap_framed ..
  | some jk =>
    obtain ⟨t, ht, hk, hsb, hst⟩ | ⟨x, ht⟩ := hb jk.1 jk.2 hs
    · rw [runRep_ok hs ht] at hu; cases hu
      refine ⟨keeps_trans hk (keeps_of_same _ _ _ _ _ _ (completes_same _ _ _ _)), by simp [hsb], ?_⟩
      exact (completes_stays fm len jk.1 t).imp (stays_trans hst) (fun h => .inr (singleSteps_of_stays hst h))
    · rw [runRep_trap hs ht] at hu; cases hu; exact takeTrap_framed ..

theorem runTo_framed {i : Instr} {body : State → RunV Word} {s : State} {gs fs ps ms cs : List Nat} {fl : Word}
    (hx : exec i s = runTo body s)
    (hb : (∃ t v, body s = .ok (t, v) ∧ keeps gs fs ps ms cs fl s t ∧ t.core.sb = s.core.sb ∧ stays s t) ∨
      ∃ x, body s = .error (.trap x s)) : framedBy i gs fs ps ms cs fl s := by
  intro u hu
  rw [hx] at hu
  obtain ⟨t, v, ht, hk, hsb, hst⟩ | ⟨x, ht⟩ := hb
  · rw [runTo_ok ht] at hu; cases hu
    refine ⟨keeps_trans hk (keeps_of_same _ _ _ _ _ _ (retireTo_same _ _)), by simp [hsb], ?_⟩
    exact (retireTo_stays v t).imp (stays_trans hst) (fun h => .inr (singleSteps_of_stays hst h))
  · rw [runTo_trap ht] at hu; cases hu; exact takeTrap_framed ..

theorem runOne_framed {i : Instr} {len : Nat} {body : State → Run} {s : State} {gs fs ps ms cs : List Nat} {fl : Word}
    (hx : exec i s = runOne len body s) (hb : quietly gs fs ps ms cs fl s (body s)) :
    framedBy i gs fs ps ms cs fl s := by
  intro u hu
  rw [hx] at hu
  obtain ⟨t, ht, hk, hsb, hst⟩ | ⟨x, ht⟩ := hb
  · rw [runOne_ok ht] at hu; cases hu
    refine ⟨keeps_trans hk (keeps_of_same _ _ _ _ _ _ (retireTo_same _ _)), by simp [hsb], ?_⟩
    exact (retireTo_stays _ t).imp (stays_trans hst) (fun h => .inr (singleSteps_of_stays hst h))
  · rw [runOne_trap ht] at hu; cases hu; exact takeTrap_framed ..

end Sys2Proof.Machine
end

