-- ==== Sys2Proof/Laws/Memory.lean ====
section
/-! SUPPORT. Memory: every operation keeps the canonical form; a read after a write gives what was written, and every
other address reads as before. -/

namespace Sys2Proof.Machine

/-! ## The canonical form -/

theorem wf_cons (k : Nat) (v : Byte) (l : List Host.Cell) :
    Memory.wf ((k, v) :: l) = true ↔
      v ≠ unlistedByte ∧ (∀ p, l.head? = some p → k < p.1) ∧ Memory.wf l = true := by
  cases l with
  | nil => simp [Memory.wf]
  | cons p l => obtain ⟨k', v'⟩ := p; simp [Memory.wf, and_assoc]

theorem memWrite_head (l : List Host.Cell) (a x : Nat) (b : Byte) (hl : ∀ p, l.head? = some p → x < p.1)
    (ha : x < a) (hw : Memory.wf l = true) : ∀ p, (memWrite l a b).head? = some p → x < p.1 := by
  cases l with
  | nil => unfold memWrite; split <;> simp_all
  | cons c l =>
    obtain ⟨k, v⟩ := c
    have hk := (wf_cons k v l).1 hw
    have hx : x < k := hl (k, v) rfl
    unfold memWrite
    intro p
    repeat' split
    all_goals first
      | (intro h; simp at h; subst h; assumption)
      | (intro h; exact lt_trans hx (hk.2.1 p h))

theorem memWrite_wf (l : List Host.Cell) (a : Nat) (b : Byte) (h : Memory.wf l = true) :
    Memory.wf (memWrite l a b) = true := by
  induction l with
  | nil => unfold memWrite; split <;> simp_all [Memory.wf]
  | cons c l ih =>
    obtain ⟨k, v⟩ := c
    have hk := (wf_cons k v l).1 h
    unfold memWrite
    split
    · split
      · exact h
      · exact (wf_cons _ _ _).2 ⟨‹_›, by simpa using ‹a < k›, h⟩
    · split
      · split
        · exact hk.2.2
        · subst_vars; exact (wf_cons _ _ _).2 ⟨‹_›, hk.2.1, hk.2.2⟩
      · exact (wf_cons _ _ _).2 ⟨hk.1, memWrite_head l a k b hk.2.1 (by omega) hk.2.2, ih hk.2.2⟩

theorem memWriteMasked_wf (m : Byte) (d : List Byte) (l : List Host.Cell) (a : Nat) (h : Memory.wf l = true) :
    Memory.wf (memWriteMasked m l a d) = true := by
  induction d generalizing l a with
  | nil => exact h
  | cons b d ih => exact ih _ _ (memWrite_wf _ _ _ h)

theorem memWriteN_wf (d : List Byte) (l : List Host.Cell) (a : Nat) (h : Memory.wf l = true) :
    Memory.wf (memWriteN l a d) = true := by
  induction d generalizing l a with
  | nil => exact h
  | cons b d ih => exact ih _ _ (memWrite_wf _ _ _ h)

/-! ## Reads after writes -/

theorem memRead_below (l : List Host.Cell) (a : Nat) (h : Memory.wf l = true)
    (hl : ∀ p, l.head? = some p → a < p.1) : memRead l a = unlistedByte := by
  induction l with
  | nil => rfl
  | cons c l ih =>
    obtain ⟨k, v⟩ := c
    have hk := (wf_cons k v l).1 h
    have hx : a < k := hl (k, v) rfl
    rw [memRead, if_neg (by omega)]
    exact ih hk.2.2 (fun p hp => lt_trans hx (hk.2.1 p hp))

/-- The byte written is read back. -/
theorem memRead_memWrite_same (l : List Host.Cell) (a : Nat) (b : Byte) (h : Memory.wf l = true) :
    memRead (memWrite l a b) a = b := by
  induction l with
  | nil => unfold memWrite; split <;> simp_all [memRead]
  | cons c l ih =>
    obtain ⟨k, v⟩ := c
    have hk := (wf_cons k v l).1 h
    unfold memWrite
    split
    · split
      · rw [memRead_below _ _ h (by simpa using ‹a < k›)]; exact ‹b = unlistedByte›.symm
      · simp [memRead]
    · split
      · split
        · subst_vars; exact memRead_below _ _ hk.2.2 hk.2.1
        · simp [memRead]
      · rw [memRead, if_neg (by omega)]; exact ih hk.2.2

/-- Every other address reads as before. -/
theorem memRead_memWrite_other (l : List Host.Cell) (a x : Nat) (b : Byte) (hx : x ≠ a) :
    memRead (memWrite l a b) x = memRead l x := by
  induction l with
  | nil => unfold memWrite; split <;> simp [memRead, Ne.symm hx]
  | cons c l ih =>
    obtain ⟨k, v⟩ := c
    unfold memWrite
    repeat' split
    all_goals subst_vars
    all_goals simp [memRead, Ne.symm hx, *]

/-- Addresses outside the bytes of a masked write read as before. -/
theorem memRead_masked_other (m : Byte) (d : List Byte) (l : List Host.Cell) (a x : Nat)
    (hx : x < a ∨ a + d.length ≤ x) : memRead (memWriteMasked m l a d) x = memRead l x := by
  induction d generalizing l a with
  | nil => rfl
  | cons b d ih =>
    simp only [List.length_cons] at hx
    rw [memWriteMasked, ih _ _ (by omega), memRead_memWrite_other _ _ _ _ (by omega)]

/-- Each byte of a masked write takes the bits of the mask. -/
theorem memRead_masked (m : Byte) (d : List Byte) (l : List Host.Cell) (a i : Nat) (b : Byte)
    (h : Memory.wf l = true) (hi : d[i]? = some b) :
    memRead (memWriteMasked m l a d) (a + i) = (memRead l (a + i) &&& ~~~m) ||| (b &&& m) := by
  induction d generalizing l a i with
  | nil => simp at hi
  | cons c d ih =>
    cases i with
    | zero =>
      simp only [List.getElem?_cons_zero, Option.some.injEq] at hi
      subst hi
      rw [memWriteMasked, memRead_masked_other _ _ _ _ _ (by omega), Nat.add_zero, memRead_memWrite_same _ _ _ h]
    | succ i =>
      simp only [List.getElem?_cons_succ] at hi
      have := ih (memWrite l a ((memRead l a &&& ~~~m) ||| (c &&& m))) (a + 1) i (memWrite_wf _ _ _ h) hi
      rw [memWriteMasked, show a + (i + 1) = a + 1 + i by omega, this, memRead_memWrite_other _ _ _ _ (by omega)]

/-! ## The state's memory -/

theorem reset_memOk : State.reset.memOk := rfl

theorem homeWrite_memOk (pa : Nat) (d : List Byte) (m : Byte) (p f : Bool) (s : State) (h : s.memOk) :
    (homeWrite pa d m p f s).memOk := memWriteMasked_wf _ _ _ _ h

theorem homeWrite_mem (pa : Nat) (d : List Byte) (m : Byte) (p f : Bool) (s : State) :
    (homeWrite pa d m p f s).mem = memWriteMasked m s.mem pa d := rfl

/-- An update that leaves memory keeps its form. -/
theorem memOk_of_mem {s t : State} (h : t.mem = s.mem) (hs : s.memOk) : t.memOk := by
  unfold State.memOk at *; rwa [h]

theorem takeTrap_memOk (r : Option Nat) (t : Trap) (s : State) (h : s.memOk) : (takeTrap r t s).memOk :=
  memOk_of_mem (by simp) h

theorem retireTo_memOk (v : Word) (s : State) (h : s.memOk) : (retireTo v s).memOk := memOk_of_mem (by simp) h

theorem retire_memOk (n : Nat) (s : State) (h : s.memOk) : (retire n s).memOk := memOk_of_mem (by simp) h

end Sys2Proof.Machine
end

