-- ==== Sys2Proof/Tests/Slice0.lean ====
section
/-! SUPPORT. This model's own tests: ill-formed terms that are refused, words written out from the encoding tables, single
steps on small states, and for each statement that has hypotheses a state that meets them. -/

namespace Sys2Proof.Tests

open Sys2Proof.Machine

set_option Elab.async false

/-! ## Small states -/

/-- No prefix but `PFX.P`. -/
def fm : Form := ⟨none, false, 0⟩

/-- The second of two repeats is due. -/
def fm2 : Form := ⟨some ⟨2, 15⟩, false, 0⟩

/-- A released core that holds a context at a level. -/
def atLevel (pl : Nat) : State :=
  { State.reset with ctx.prv.status := BitVec.ofNat 64 pl, core.released := true, core.act := true }

/-- As `atLevel`, with a heap that maps the first 64 KiB to themselves. -/
def mapped (pl : Nat) : State := { atLevel pl with ctx.ctl.hlimit := 0x10000, ctx.prv.pwlimit := 0x100000 }

/-- An instruction answers a next state of which a test holds. -/
def runs (i : Instr) (s : State) (f : State → Bool) : Bool :=
  match exec i s with
  | .next t => f t
  | _ => false

/-- `g6` and `g7` hold two values. -/
def two (x y : Word) (s : State) : State := wg (wg s 6 x) 7 y

/-- As `two`, for `f6` and `f7`. -/
def twoF (x y : Word) (s : State) : State := wf (wf s 6 x) 7 y

/-! ## Terms that are not well formed, one for each check -/

theorem test_wf_good : (Instr.add fm .w64 5 6 7).wellFormed = true := by decide
theorem test_wf_field_without_g : (Instr.add fm .w64 16 6 7).wellFormed = false := by decide
theorem test_wf_field_limit : (Instr.add ⟨none, true, 0⟩ .w64 64 6 7).wellFormed = false := by decide
theorem test_wf_predicate_limit : (Instr.cmp fm .eq 8 6 7).wellFormed = false := by decide
theorem test_wf_immediate_range : (Instr.addi fm .w64 5 6 8).wellFormed = false := by decide
theorem test_wf_immediate_low : (Instr.addi fm .w64 5 6 (-9)).wellFormed = false := by decide
theorem test_wf_shift_bound : (Instr.shli ⟨none, false, 1⟩ .w32 5 6 32).wellFormed = false := by decide
theorem test_wf_no_immediate : (Instr.add ⟨none, false, 1⟩ .w64 5 6 7).wellFormed = false := by decide
theorem test_wf_prefix_count : (Instr.addi ⟨none, true, 3⟩ .w64 5 6 7).wellFormed = false := by decide
theorem test_wf_g_on_brc : (Instr.brc ⟨none, true, 0⟩ 3 4).wellFormed = false := by decide
theorem test_wf_g_on_j : (Instr.br ⟨none, true, 0⟩ 4).wellFormed = false := by decide
theorem test_wf_repeatable : (Instr.jal ⟨some ⟨2, 0⟩, false, 0⟩ 1 4).wellFormed = false := by decide
theorem test_wf_repeat_count : (Instr.add ⟨some ⟨65, 0⟩, false, 0⟩ .w64 5 6 7).wellFormed = false := by decide
theorem test_wf_repeat_step : (Instr.add ⟨some ⟨64, 8⟩, false, 0⟩ .w64 5 6 7).wellFormed = false := by decide
theorem test_wf_repeat_immediate : (Instr.addi ⟨some ⟨9, 1⟩, false, 0⟩ .w64 5 6 0).wellFormed = false := by decide
theorem test_wf_reserved : (Instr.mvc ⟨none, false, 1⟩ 4096).wellFormed = false := by decide


/-! ## Words written out from the encoding tables (R78 to R91, R194 to R196)

Each word is `major, d, a, b` in hexadecimal; the prefixes are `PFX.P` (0xF800 + 16 × page + variant), `PFX.X`
(0xF000 + payload), `PFX.N` and `PFX.G`. -/

/-- One `PFX.X` word. -/
def nx : Form := ⟨none, false, 1⟩

/-- R91 page 0: major 6 is `LI`, major 0 `ADD`, 2 `ADDI`, 0xB `BRC`. -/
theorem test_decode_page0 : decode [0x6403] = .ok (.liP0 fm 4 3) ∧ decode [0x0776] = .ok (.addP0 fm 7 7 6) ∧
    decode [0x244F] = .ok (.addiP0 fm 4 4 (-1)) ∧ decode [0xB1E9] = .ok (.brcP0 fm 1 (-23)) := by decide +kernel

/-- Pages 5, 8 and 9: scalar memory, atomics, ordering. -/
theorem test_decode_memory : decode [0xF852, 0x0650] = .ok (.ld fm .word 6 5 0) ∧
    decode [0xF88D, 0x0567] = .ok (.amoadd fm .ar .dbl .sys 5 6 7) ∧
    decode [0xF891, 0x0002] = .ok (.fence fm .store .pkg) ∧ decode [0xF890, 0x4000] = .ok (.texit fm) := by
  decide +kernel

/-- Page 7: the wayside table. -/
theorem test_decode_wayside : decode [0xF873, 0x0560] = .ok (.ldw fm .dbl 5 6 0) ∧
    decode [0xF870, 0x1004] = .ok (.chkw fm 4) := by decide +kernel

/-- Pages 10 and 11: floating point; a second `PFX.X` word gives the high bits of an immediate. -/
theorem test_decode_float : decode [0xF8A0, 0x5312] = .ok (.fma fm .fp64 0 3 1 2) ∧
    decode [0xF8B4, 0x2630] = .ok (.fcvt fm .fp32 .fp64 0 6 3) ∧
    decode [0xF8B4, 0xF00C, 0x3740] = .ok (.fcvti nx .int32 .fp64 12 7 4) := by decide +kernel

/-- Pages 16 to 22: vectors; variant bits 3 and 2:0 are Z and the mask. -/
theorem test_decode_vector : decode [0xF90A, 0x1567] = .ok (.vadd fm true 2 5 6 7) ∧
    decode [0xF960, 0x0561] = .ok (.vld fm false 0 5 6 1) ∧
    decode [0xF949, 0x0267] = .ok (.vcmp fm true .ne 2 6 7) := by decide +kernel

/-- Page 24: tiles. -/
theorem test_decode_tile : decode [0xF981, 0x0123] = .ok (.tmma fm .fp32 false 1 0 1 2 3) ∧
    decode [0xF980, 0x7000] = .ok (.tdrain fm .fp32 false 0 0 0 0) := by decide +kernel

/-- Page 28: copy commands. -/
theorem test_decode_copy : decode [0xF9C0, 0x0560] = .ok (.xcopy fm 5 6) := by decide +kernel

/-- Pages 48 to 50: system instructions. -/
theorem test_decode_system : decode [0xFB00, 0xF006, 0x2000] = .ok (.mvc nx 0x60) ∧
    decode [0xFB00, 0xF031, 0x5063] = .ok (.swr nx 6 0x313) ∧ decode [0xFB10, 0x0067] = .ok (.tlbinv fm 6 7) ∧
    decode [0xFB20, 0x1560] = .ok (.ctxld fm 5 6) ∧ decode [0xFB20, 0x3067] = .ok (.wpins fm 6 7) := by
  decide +kernel


/-! ### Every encoded row

For each row of the table that has bits, in its order: the words made of its page, variant, major and register fields,
with `d` 5, `a` 6, `b` 7, immediate 1, and each variant's code 0 or its first legal one (R89 to R91, R136, R164). -/

/-- The words decode to the instruction. -/
def reads (x : List HWord × Instr) : Bool := decide (decode x.1 = .ok x.2)

theorem test_decode_rows_1 : [
    ([0x0567], Instr.addP0 fm 5 6 7), ([0x1567], Instr.subP0 fm 5 6 7), ([0x2561], Instr.addiP0 fm 5 6 1),
    ([0x3561], Instr.andiP0 fm 5 6 1), ([0x4561], Instr.shliP0 fm 5 6 1), ([0x5560], Instr.movP0 fm 5 6),
    ([0x6501], Instr.liP0 fm 5 1), ([0x7561], Instr.ldP0 fm 5 6 1), ([0x8561], Instr.stP0 fm 5 6 1),
    ([0x9561], Instr.fldP0 fm 5 6 1), ([0xA001], Instr.brP0 fm 1), ([0xB501], Instr.brcP0 fm 5 1),
    ([0xC501], Instr.jalP0 fm 5 1), ([0xD561], Instr.jalrP0 fm 5 6 1), ([0xF810, 0x0567], Instr.add fm .w64 5 6 7),
    ([0xF810, 0x1567], Instr.sub fm .w64 5 6 7), ([0xF810, 0x2567], Instr.mul fm .w64 5 6 7),
    ([0xF810, 0x3567], Instr.mulh fm .w64 5 6 7), ([0xF810, 0x4567], Instr.mulhu fm .w64 5 6 7)].all reads = true := by decide +kernel

theorem test_decode_rows_2 : [
    ([0xF810, 0x5567], Instr.div fm .w64 5 6 7), ([0xF810, 0x6567], Instr.divu fm .w64 5 6 7),
    ([0xF810, 0x7567], Instr.rem fm .w64 5 6 7), ([0xF810, 0x8567], Instr.remu fm .w64 5 6 7),
    ([0xF810, 0x9567], Instr.min fm .w64 5 6 7), ([0xF810, 0xA567], Instr.max fm .w64 5 6 7),
    ([0xF810, 0xB567], Instr.minu fm .w64 5 6 7), ([0xF810, 0xC567], Instr.maxu fm .w64 5 6 7),
    ([0xF810, 0xD561], Instr.addi fm .w64 5 6 1), ([0xF820, 0x0567], Instr.and fm .w64 5 6 7),
    ([0xF820, 0x1561], Instr.andi fm .w64 5 6 1), ([0xF820, 0x2567], Instr.andn fm .w64 5 6 7),
    ([0xF820, 0x3567], Instr.or fm .w64 5 6 7), ([0xF820, 0x4561], Instr.ori fm .w64 5 6 1),
    ([0xF820, 0x5567], Instr.xor fm .w64 5 6 7), ([0xF820, 0x6561], Instr.xori fm .w64 5 6 1),
    ([0xF820, 0x7567], Instr.shl fm .w64 5 6 7), ([0xF820, 0x8561], Instr.shli fm .w64 5 6 1),
    ([0xF820, 0x9567], Instr.shr fm .w64 5 6 7)].all reads = true := by decide +kernel

theorem test_decode_rows_3 : [
    ([0xF820, 0xA561], Instr.shri fm .w64 5 6 1), ([0xF820, 0xB567], Instr.sra fm .w64 5 6 7),
    ([0xF820, 0xC561], Instr.srai fm .w64 5 6 1), ([0xF820, 0xD567], Instr.rotr fm .w64 5 6 7),
    ([0xF830, 0x0561], Instr.rotri fm .w64 5 6 1), ([0xF830, 0x1560], Instr.clz fm .w64 5 6),
    ([0xF830, 0x2560], Instr.ctz fm .w64 5 6), ([0xF830, 0x3560], Instr.popc fm .w64 5 6),
    ([0xF830, 0x4560], Instr.rev8 fm .w64 5 6), ([0xF830, 0x5560], Instr.sext fm .byte 5 6),
    ([0xF830, 0x6560], Instr.zext fm .byte 5 6), ([0xF830, 0x7561], Instr.bfx fm .w64 5 6 1),
    ([0xF830, 0x8561], Instr.bfi fm .w64 5 6 1), ([0xF830, 0x9561], Instr.lea fm 5 6 1),
    ([0xF830, 0xA501], Instr.li fm 5 1), ([0xF830, 0xB560], Instr.mov fm 5 6),
    ([0xF830, 0xC567], Instr.sel fm 0 5 6 7), ([0xF840, 0x0567], Instr.cmp fm .eq 5 6 7),
    ([0xF840, 0x1561], Instr.cmpi fm .eq 5 6 1)].all reads = true := by decide +kernel

theorem test_decode_rows_4 : [
    ([0xF840, 0x2567], Instr.pand fm 5 6 7), ([0xF840, 0x3567], Instr.por fm 5 6 7),
    ([0xF840, 0x4567], Instr.pxor fm 5 6 7), ([0xF840, 0x5560], Instr.pnot fm 5 6),
    ([0xF840, 0x6560], Instr.pmov fm 5 6), ([0xF840, 0x7001], Instr.br fm 1), ([0xF840, 0x8501], Instr.brc fm 5 1),
    ([0xF840, 0x9501], Instr.jal fm 5 1), ([0xF840, 0xA561], Instr.jalr fm 5 6 1),
    ([0xF850, 0x0561], Instr.ld fm .byte 5 6 1), ([0xF850, 0x1561], Instr.ldz fm .byte 5 6 1),
    ([0xF850, 0x2561], Instr.st fm .byte 5 6 1), ([0xF850, 0x3567], Instr.ldx fm .byte 5 6 7),
    ([0xF850, 0x4567], Instr.stx fm .byte 5 6 7), ([0xF852, 0x5561], Instr.ldp fm .word 5 6 1),
    ([0xF852, 0x6561], Instr.stp fm .word 5 6 1), ([0xF860, 0x0561], Instr.lda fm .cluster .word 5 6 1),
    ([0xF860, 0x1561], Instr.stl fm .cluster .word 5 6 1), ([0xF861, 0x2561], Instr.fld fm .half 5 6 1)].all reads = true := by decide +kernel

theorem test_decode_rows_5 : [
    ([0xF861, 0x3561], Instr.fst fm .half 5 6 1), ([0xF860, 0x4061], Instr.pref fm .l1 6 1),
    ([0xF860, 0x5561], Instr.sbst fm .two 5 6 1), ([0xF872, 0x0561], Instr.ldw fm .word 5 6 1),
    ([0xF870, 0x1001], Instr.chkw fm 1), ([0xF880, 0x0567], Instr.amoadd fm .relaxed .word .sys 5 6 7),
    ([0xF880, 0x1567], Instr.amoand fm .relaxed .word .sys 5 6 7),
    ([0xF880, 0x2567], Instr.amoor fm .relaxed .word .sys 5 6 7),
    ([0xF880, 0x3567], Instr.amoxor fm .relaxed .word .sys 5 6 7),
    ([0xF880, 0x4567], Instr.amomin fm .relaxed .word .sys 5 6 7),
    ([0xF880, 0x5567], Instr.amomax fm .relaxed .word .sys 5 6 7),
    ([0xF880, 0x6567], Instr.amominu fm .relaxed .word .sys 5 6 7),
    ([0xF880, 0x7567], Instr.amomaxu fm .relaxed .word .sys 5 6 7),
    ([0xF880, 0x8567], Instr.amoswap fm .relaxed .word .sys 5 6 7),
    ([0xF880, 0x9567], Instr.amocas fm .relaxed .word .sys 5 6 7),
    ([0xF880, 0xA567], Instr.amofadd fm .relaxed .word .sys 5 6 7), ([0xF890, 0x0001], Instr.fence fm .load .die),
    ([0xF890, 0x1567], Instr.waitne fm 5 6 7), ([0xF890, 0x2000], Instr.yield fm)].all reads = true := by decide +kernel

theorem test_decode_rows_6 : [
    ([0xF890, 0x3560], Instr.tspawn fm 5 6), ([0xF890, 0x4000], Instr.texit fm),
    ([0xF890, 0x5001], Instr.tbar fm 1), ([0xF890, 0x6500], Instr.tinfo fm 5),
    ([0xF890, 0x7500], Instr.gtidrd fm 5), ([0xF890, 0x8500], Instr.rdcyc fm 5),
    ([0xF890, 0x9500], Instr.rdtime fm 5), ([0xF8A0, 0x0567], Instr.fadd fm .fp64 0 5 6 7),
    ([0xF8A0, 0x1567], Instr.fsub fm .fp64 0 5 6 7), ([0xF8A0, 0x2567], Instr.fmul fm .fp64 0 5 6 7),
    ([0xF8A0, 0x3567], Instr.fdiv fm .fp64 0 5 6 7), ([0xF8A0, 0x4560], Instr.fsqrt fm .fp64 0 5 6),
    ([0xF8A0, 0x5567], Instr.fma fm .fp64 0 5 6 7), ([0xF8A0, 0x6567], Instr.fms fm .fp64 0 5 6 7),
    ([0xF8A0, 0x7567], Instr.fnma fm .fp64 0 5 6 7), ([0xF8A0, 0x8567], Instr.fmin fm .fp64 0 5 6 7),
    ([0xF8A0, 0x9567], Instr.fmax fm .fp64 0 5 6 7), ([0xF8A0, 0xA560], Instr.fabs fm .fp64 0 5 6),
    ([0xF8A0, 0xB560], Instr.fneg fm .fp64 0 5 6)].all reads = true := by decide +kernel

theorem test_decode_rows_7 : [
    ([0xF8A0, 0xC567], Instr.fsgnj fm .fp64 0 5 6 7), ([0xF8B0, 0x0567], Instr.fcmp fm .eq .fp64 0 5 6 7),
    ([0xF8B0, 0x1560], Instr.fclass fm .fp64 0 5 6), ([0xF8B4, 0x2560], Instr.fcvt fm .fp32 .fp64 0 5 6),
    ([0xF8B0, 0x3560], Instr.fcvti fm .int64 .fp64 0 5 6), ([0xF8B0, 0x4560], Instr.icvtf fm .int64 .fp64 0 5 6),
    ([0xF8B0, 0x5560], Instr.fmvg fm 5 6), ([0xF8B0, 0x6560], Instr.gmvf fm 5 6),
    ([0xF8C0, 0x0560], Instr.frcpa fm .fp64 0 5 6), ([0xF8C0, 0x1560], Instr.frsqa fm .fp64 0 5 6),
    ([0xF900, 0x0560], Instr.vwin fm 5 6), ([0xF900, 0x1567], Instr.vadd fm false 0 5 6 7),
    ([0xF900, 0x2567], Instr.vsub fm false 0 5 6 7), ([0xF900, 0x3567], Instr.vmul fm false 0 5 6 7),
    ([0xF900, 0x4567], Instr.vfma fm false 0 5 6 7), ([0xF900, 0x5567], Instr.vfms fm false 0 5 6 7),
    ([0xF900, 0x6567], Instr.vmin fm false 0 5 6 7), ([0xF900, 0x7567], Instr.vmax fm false 0 5 6 7),
    ([0xF900, 0x8560], Instr.vabs fm false 0 5 6)].all reads = true := by decide +kernel

theorem test_decode_rows_8 : [
    ([0xF900, 0x9560], Instr.vneg fm false 0 5 6), ([0xF910, 0x0567], Instr.vand fm false 0 5 6 7),
    ([0xF910, 0x1567], Instr.vor fm false 0 5 6 7), ([0xF910, 0x2567], Instr.vxor fm false 0 5 6 7),
    ([0xF910, 0x3567], Instr.vshl fm false 0 5 6 7), ([0xF910, 0x4567], Instr.vshr fm false 0 5 6 7),
    ([0xF911, 0x5567], Instr.vcvt fm false .fp32 5 6 7), ([0xF920, 0x0567], Instr.vbcast fm false 0 5 6 7),
    ([0xF920, 0x1567], Instr.vbcl fm false 0 5 6 7), ([0xF920, 0x2567], Instr.vperm fm false 0 5 6 7),
    ([0xF920, 0x3567], Instr.vrot fm false 0 5 6 7), ([0xF930, 0x0567], Instr.vred fm .add 5 6 7),
    ([0xF930, 0x1567], Instr.vscan fm false .add 5 6 7), ([0xF940, 0x0567], Instr.vcmp fm false .eq 5 6 7),
    ([0xF940, 0x1567], Instr.vmerge fm false 0 5 6 7), ([0xF940, 0x2567], Instr.vmlog fm .and 5 6 7),
    ([0xF940, 0x3560], Instr.vmpopc fm 5 6), ([0xF950, 0x0560], Instr.vrcpa fm false 0 5 6),
    ([0xF950, 0x1560], Instr.vrsqa fm false 0 5 6)].all reads = true := by decide +kernel

theorem test_decode_rows_9 : [
    ([0xF950, 0x2560], Instr.vexp2a fm false 0 5 6), ([0xF950, 0x3560], Instr.vlog2a fm false 0 5 6),
    ([0xF960, 0x0561], Instr.vld fm false 0 5 6 1), ([0xF960, 0x1561], Instr.vst fm false 0 5 6 1),
    ([0xF960, 0x2567], Instr.vlds fm false 0 5 6 7), ([0xF960, 0x3567], Instr.vsts fm false 0 5 6 7),
    ([0xF960, 0x4567], Instr.vgath fm false 0 5 6 7), ([0xF960, 0x5567], Instr.vscat fm false 0 5 6 7),
    ([0xF970, 0x0567], Instr.vmovg fm false 0 5 6 7), ([0xF970, 0x1567], Instr.vmovf fm false 0 5 6 7),
    ([0xF970, 0x2560], Instr.vmov fm false 0 5 6), ([0xF980, 0x0567], Instr.tmma fm .fp64 false 1 0 5 6 7),
    ([0xF990, 0x0567], Instr.tmmaChained fm .fp64 false 1 0 5 6 7),
    ([0xF980, 0x1567], Instr.tld fm false 64 128 5 6 7), ([0xF980, 0x2567], Instr.tlds fm false .sx7 64 5 6 7),
    ([0xF980, 0x3567], Instr.tsto fm 64 128 5 6 7), ([0xF980, 0x4500], Instr.tzero fm .tile 5),
    ([0xF980, 0x5560], Instr.tmov fm .tile 5 6), ([0xF980, 0x6001], Instr.tgang fm 1)].all reads = true := by decide +kernel

theorem test_decode_rows_10 : [
    ([0xF980, 0x7567], Instr.tdrain fm .fp32 false 0 5 6 7),
    ([0xF980, 0x8567], Instr.tdraint fm .fp32 .fp32 false 0 0 5 6 7), ([0xF980, 0x9560], Instr.tfree fm false 5 6),
    ([0xF980, 0xA000], Instr.tsync fm), ([0xF980, 0xB500], Instr.tctlSeed fm 5),
    ([0xF980, 0xB501], Instr.tctlRd fm 5), ([0xF980, 0xB002], Instr.tctlClr fm),
    ([0xF980, 0xC560], Instr.tqryRows fm 5 6), ([0xF981, 0xC560], Instr.tqryAcc fm 5 6),
    ([0xF982, 0xC560], Instr.tqryCell fm 5 6), ([0xF983, 0xC500], Instr.tqryFree fm 5),
    ([0xF984, 0xC500], Instr.tqryGang fm 5), ([0xF985, 0xC500], Instr.tqryCorr fm 5),
    ([0xF986, 0xC500], Instr.tqryUnck fm 5), ([0xF9C0, 0x0560], Instr.xcopy fm 5 6),
    ([0xF9C0, 0x1560], Instr.xcopy2 fm 5 6), ([0xF9C0, 0x2560], Instr.xgath fm 5 6),
    ([0xF9C0, 0x3560], Instr.xscat fm 5 6), ([0xF9C0, 0x4560], Instr.xfill fm 5 6)].all reads = true := by decide +kernel

theorem test_decode_rows_11 : [
    ([0xF9C0, 0x5560], Instr.xwarm fm false 5 6), ([0xF9C0, 0x6560], Instr.xcollAr fm 5 6),
    ([0xF9C1, 0x6560], Instr.xcollAg fm 5 6), ([0xF9C2, 0x6560], Instr.xcollRs fm 5 6),
    ([0xF9C3, 0x6560], Instr.xcollBc fm 5 6), ([0xF9C0, 0x7000], Instr.xdrain fm .loc),
    ([0xF9C0, 0x8560], Instr.xcancel fm 5 6), ([0xFB00, 0x0001], Instr.svc fm 1),
    ([0xFB00, 0x1001], Instr.hvc fm 1), ([0xFB00, 0x2001], Instr.mvc fm 1), ([0xFB00, 0x3000], Instr.tret fm),
    ([0xFB00, 0x4501], Instr.srd fm 5 1), ([0xFB00, 0x5061], Instr.swr fm 6 1),
    ([0xFB00, 0x6561], Instr.sset fm 5 6 1), ([0xFB00, 0x7561], Instr.sclr fm 5 6 1),
    ([0xFB10, 0x0067], Instr.tlbinv fm 6 7), ([0xFB10, 0x1000], Instr.tlbsync fm),
    ([0xFB10, 0x2061], Instr.cflush fm 6 1), ([0xFB10, 0x3061], Instr.cinv fm 6 1)].all reads = true := by decide +kernel

theorem test_decode_rows_12 : [
    ([0xFB10, 0x4061], Instr.cwb fm 6 1), ([0xFB10, 0x5000], Instr.wfi fm), ([0xFB10, 0x6000], Instr.halt fm),
    ([0xFB20, 0x0000], Instr.ctxsw fm), ([0xFB20, 0x1560], Instr.ctxld fm 5 6),
    ([0xFB20, 0x2560], Instr.ctxsp fm 5 6), ([0xFB20, 0x3067], Instr.wpins fm 6 7),
    ([0xFB20, 0x4000], Instr.wpclr fm), ([0xFB20, 0x5001], Instr.bkpt fm 1),
    ([0xFB20, 0x6567], Instr.dump fm 5 6 7), ([0xFB20, 0x7567], Instr.pgmig fm 5 6 7),
    ([0xFB20, 0x8560], Instr.pgcmp fm 5 6)].all reads = true := by decide +kernel

/-- Words that R88 gives ILL. -/
theorem test_decode_rejects : decode [0xE000] = .error .majorE ∧ decode [0xF800, 0x0000] = .error .pageZero ∧
    decode [] = .error .noBaseWord := by decide +kernel

/-- The three worked examples of R83 and R87: `addi g5, g5, -200`, and the repeated `vadd`. -/
theorem test_decode_examples : decode [0xF3F3, 0x2558] = .ok (.addiP0 nx 5 5 (-200)) ∧
    decode [0xFFFE, 0xF900, 0xF404, 0x1000] = .ok (.vadd ⟨some ⟨64, 14⟩, true, 0⟩ false 0 0 0 0x40) := by
  decide +kernel

/-- R90 pages 1 to 4, 6, 18 to 25, 28 and 49: page and variant in `PFX.P`, then major and registers. -/
theorem test_decode_pages : decode [0xF811, 0x0567] = .ok (.add fm .w32 5 6 7) ∧
    decode [0xF820, 0xD567] = .ok (.rotr fm .w64 5 6 7) ∧ decode [0xF831, 0x4560] = .ok (.rev8 fm .w32 5 6) ∧
    decode [0xF840, 0x6120] = .ok (.pmov fm 1 2) ∧ decode [0xF863, 0x2561] = .ok (.fld fm .dbl 5 6 1) ∧
    decode [0xF880, 0xF000, 0x8567] = .ok (.amoswap nx .relaxed .word .cluster 5 6 7) ∧
    decode [0xF8C1, 0x1560] = .ok (.frsqa fm .fp32 0 5 6) ∧ decode [0xF92A, 0x3567] = .ok (.vrot fm true 2 5 6 7) ∧
    decode [0xF952, 0x2560] = .ok (.vexp2a fm false 2 5 6) ∧ decode [0xF970, 0x0567] = .ok (.vmovg fm false 0 5 6 7) ∧
    decode [0xF996, 0x0123] = .ok (.tmmaChained fm .int8 false 1 0 1 2 3) ∧
    decode [0xF9C3, 0x7000] = .ok (.xdrain fm .host) ∧ decode [0xFB10, 0x6000] = .ok (.halt fm) := by decide +kernel

/-! ## Single steps: expected values from the rules -/

/-- R100, R99: addition wraps; a 32-bit result is sign-extended. -/
theorem test_add_wraps : runs (.add fm .w64 5 6 7) (two (-1) 2 (atLevel 0)) (fun t => rg t 5 == 1) = true ∧
    runs (.add fm .w32 5 6 7) (two 0x7FFFFFFF 1 (atLevel 0)) (fun t => rg t 5 == 0xFFFFFFFF80000000) = true := by
  decide +kernel

/-- R100: the quotient by zero is all ones, the remainder the dividend; the least number over −1 is itself. -/
theorem test_div_corners : runs (.div fm .w64 5 6 7) (two 9 0 (atLevel 0)) (fun t => rg t 5 == -1) = true ∧
    runs (.remu fm .w64 5 6 7) (two 9 0 (atLevel 0)) (fun t => rg t 5 == 9) = true ∧
    runs (.div fm .w64 5 6 7) (two 0x8000000000000000 (-1) (atLevel 0)) (fun t => rg t 5 == 0x8000000000000000) = true :=
  by decide +kernel

/-- R101: a register shift takes its operand modulo the width. -/
theorem test_shift_modulo : runs (.shl fm .w32 5 6 7) (two 1 33 (atLevel 0)) (fun t => rg t 5 == 2) = true ∧
    runs (.sra fm .w64 5 6 7) (two (-8) 65 (atLevel 0)) (fun t => rg t 5 == -4) = true := by decide +kernel

/-- R102: `BFI` of eight bits at position 12 leaves the rest of its destination; `BFX` takes them back. -/
theorem test_bit_fields :
    runs (.bfi fm .w64 5 6 (7 * 64 + 12)) (wg (two 0xAB 0 (atLevel 0)) 5 0xFFFFFFFF)
      (fun t => rg t 5 == 0xFFFABFFF) = true ∧
    runs (.bfx fm .w64 5 6 (7 * 64 + 12)) (two 0xFFFABFFF 0 (atLevel 0)) (fun t => rg t 5 == 0xAB) = true := by
  decide +kernel

/-- R102: byte reversal of a word, its result sign-extended; a count of zeros of zero is the width. -/
theorem test_rev8_clz : runs (.rev8 fm .w32 5 6) (two 0x11223380 0 (atLevel 0)) (fun t => rg t 5 == 0xFFFFFFFF80332211) = true ∧
    runs (.clz fm .w32 5 6) (two 0 0 (atLevel 0)) (fun t => rg t 5 == 32) = true := by decide +kernel

/-- R62: a write to `g0` is discarded. -/
theorem test_g0 : runs (.add fm .w64 0 6 7) (two 1 2 (atLevel 0)) (fun t => rg t 0 == 0) = true := by decide +kernel

/-- R86: the second repeat of a stepped `ADD` works on the next registers. -/
theorem test_repeat : runs (.add ⟨some ⟨2, 14⟩, false, 0⟩ .w64 5 6 7) (two 1 2 (atLevel 0))
    (fun t => rg t 5 == 3 && t.ctx.aux.repLeft == 1 && t.pc == (atLevel 0).pc) = true := by decide +kernel

/-- R80, R106: a branch counts halfwords from its base word. -/
theorem test_branch : runs (.brcP0 fm 0 (-23)) ((atLevel 0).setPc 0x100) (fun t => t.pc == 0xD2) = true ∧
    runs (.jal nx 1 4) ((atLevel 0).setPc 0x100) (fun t => t.pc == 0x10C && rg t 1 == 0x106) = true := by decide +kernel

/-- R107: `JALR` to an odd address traps and writes no link. -/
theorem test_jalr_odd : runs (.jalr fm 1 6 1) (two 0x100 0 (atLevel 0)) (fun t => rg t 1 == 0 && !(t.pc == 0x101)) = true := by
  decide +kernel

/-- R104: signed and unsigned comparisons differ; R64: `p0` stays true. -/
theorem test_compare : runs (.cmp fm .lt 1 6 7) (two (-1) 1 (atLevel 0)) (fun t => rp t 1) = true ∧
    runs (.cmp fm .ltu 1 6 7) (two (-1) 1 (atLevel 0)) (fun t => !rp t 1) = true ∧
    runs (.cmp fm .ne 0 6 7) (two 1 1 (atLevel 0)) (fun t => rp t 0) = true := by decide +kernel

/-- R112: a store waits in its buffer, little-endian; a load of its own context sees it (R118). -/
theorem test_store_load :
    runs (.st fm .half 6 7 0) (two 0x1234 0x40 (mapped 0)) (fun t => t.mem == [] &&
      runs (.ld fm .half 5 7 0) t (fun u => rg u 5 == 0x1234) &&
      runs (.ld fm .byte 5 7 1) t (fun u => rg u 5 == 0x12) &&
      runs (.storeBufferDrain 0) t (fun u => memRead u.mem 0x40 == 0x34 && memRead u.mem 0x41 == 0x12)) = true := by
  decide +kernel

/-- R110: a misaligned load traps with nothing written. -/
theorem test_misaligned : runs (.ld fm .word 5 7 0) (wg (two 0 0x42 (mapped 0)) 5 9) (fun t => rg t 5 == 9) = true := by
  decide +kernel

/-- R136: the old value, sign-extended, and the sum at the home. -/
theorem test_amoadd : runs (.amoadd fm .relaxed .word .sys 5 7 6) (two 0xFFFFFFFF 0x40 (mapped 0))
    (fun t => rg t 5 == 0 && memReadN t.mem 0x40 5 == [0xFF, 0xFF, 0xFF, 0xFF, 0]) = true := by decide +kernel

/-- R122, R125: 1 / 0 is ∞ with DZ; 0 / 0 the canonical NaN with NV. -/
theorem test_fdiv : runs (.fdiv fm .fp64 0 5 6 7) (twoF 0x3FF0000000000000 0 (atLevel 0))
    (fun t => rf t 5 == 0x7FF0000000000000 && t.ctx.ctl.fcsr == 8) = true ∧
    runs (.fdiv fm .fp64 0 5 6 7) (twoF 0 0 (atLevel 0))
      (fun t => rf t 5 == 0x7FF8000000000000 && t.ctx.ctl.fcsr == 16) = true := by decide +kernel

/-- 1 + 2 = 3; 1/3 rounds with NX (R45, R49). -/
theorem test_fadd : runs (.fadd fm .fp64 0 5 6 7) (twoF 0x3FF0000000000000 0x4000000000000000 (atLevel 0))
    (fun t => rf t 5 == 0x4008000000000000 && t.ctx.ctl.fcsr == 0) = true ∧
    runs (.fdiv fm .fp32 0 5 6 7) (twoF 0x3F800000 0x40400000 (atLevel 0))
      (fun t => rf t 5 == 0x3EAAAAAB && t.ctx.ctl.fcsr == 1) = true := by decide +kernel

/-- R130: a conversion out of range saturates with NV. -/
theorem test_fcvti : runs (.fcvti fm .int32 .fp64 0 5 6) (twoF 0x41E0000000000000 0 (atLevel 0))
    (fun t => rg t 5 == 0x7FFFFFFF && t.ctx.ctl.fcsr == 16) = true := by decide +kernel

/-- R293: a call enters the supervisor's handler; its immediate is DETAIL (R284). -/
theorem test_svc : runs (.svc fm 5) { (atLevel 0).setPc 0x100 with ctx.prv.sup.tvec := 0x4000 }
    (fun t => t.pc == 0x4000 && t.pl == 1 && t.ctx.prv.sup.epc == 0x100 && t.ctx.prv.sup.cause == 0x5000B) = true := by
  decide +kernel

/-- R295: the return. -/
theorem test_tret : runs (.tret fm) { atLevel 1 with ctx.prv.sup.epc := 0x100, ctx.prv.sup.cause := 0x2000000000000000 }
    (fun t => t.pc == 0x100 && t.pl == 0 && t.ie 1) = true := by decide +kernel

/-- R280: `HALT` below the monitor's level takes PRIV at the monitor. -/
theorem test_halt_priv : runs (.halt fm) { atLevel 1 with ctx.prv.mon.tvec := 0x8000 }
    (fun t => t.pc == 0x8000 && t.pl == 3 && !t.core.halted) = true := by decide +kernel

/-- R94: the two worked examples of portable words, `ld.w g6, g5, 0` and the repeated `vadd`; and `addi g5, g5, -200`. -/
theorem test_portable : nativeOf [0x1408000C14000000, 0x4043FE0002000000, 0x0080000A1407FF38] =
    [0, 0, 0xF852, 0x0650, 0xFFFE, 0xF900, 0xF404, 0x1000, 0, 0, 0xF3F3, 0x2558] := by decide +kernel

/-- R58: a seed of zero is taken as 1. -/
theorem test_tctl_seed : runs (.tctlSeed fm 6) (two 0 0 (atLevel 0)) (fun t => t.ctx.ctl.lfsr == 1) = true := by
  decide +kernel

/-! ## States that meet the hypotheses of the statements

Each theorem gives, clause by clause, states and operands that meet all hypotheses of the statement it names. -/

/-- One repeat of two is left. -/
def second : State := { atLevel 0 with ctx.aux.repLeft := 1 }

/-- The last sixteen bytes of line 0, through the heap. -/
def heap : State := two 0x70 0x70 (mapped 0)

/-- What a load through `heap` leaves. -/
def heapRead : State := { heap with coh := readToken 0 0 heap.coh }

/-- As `heap`, homed on die 1. -/
def far : State := { heap with ctx.ctl.hoffs := 0x3000000000 }

/-- A copy of line 0 of die 1, of one clearing's age. -/
def farCopy (stamp : Nat) : Copy := ⟨0, 0x60000000, List.replicate 128 7, false, stamp, some 3⟩

/-- A store before them in the buffer. -/
def oneStore : SbEntry := ⟨1, 0, 0x70, [1, 2, 3, 4], 0xFF, false⟩

theorem witness_ArithmeticResults : startAt fm (atLevel 0) = some (0, 0) ∧ startAt fm2 second = some (1, 0) ∧
    clean second [.g (fm2.a 1 62), .g (fm2.b 1 62)] = true ∧ clean second [.g (fm2.a 1 62)] = true := by decide +kernel

theorem witness_LogicAndShiftResults : startAt fm2 second = some (1, 0) ∧
    clean second [.g (fm2.a 1 62), .g (fm2.b 1 62)] = true ∧ clean second [.g (fm2.a 1 62)] = true ∧
    fm2.u 1 30 < Width.w32.bits ∧ fm2.u 1 62 < Width.w64.bits ∧ fm2.u 1 62 < 64 := by decide +kernel

theorem witness_BitFieldResults : startAt fm second = some (0, 0) ∧ clean second [.g (fm.a 0 63)] = true ∧
    fm.u 0 1984 % 64 + (fm.u 0 1984 / 64 + 1) ≤ Width.w32.bits ∧ clean second [.g (fm.d 0 63)] = true := by
  decide +kernel

theorem witness_MoveResults : startAt fm (atLevel 0) = some (0, 0) ∧ clean (atLevel 0) [.g (fm.a 0 0)] = true ∧
    clean (atLevel 0) [.g (fm.a 0 63)] = true ∧ clean (atLevel 0) [.p 7, .g (fm.a 0 6), .g (fm.b 0 7)] = true := by
  decide +kernel

theorem witness_PredicateResults : startAt fm (atLevel 0) = some (0, 0) ∧
    clean (atLevel 0) [.g (fm.a 0 6), .g (fm.b 0 7)] = true ∧ clean (atLevel 0) [.g (fm.a 0 6)] = true ∧
    clean (atLevel 0) [.p 0, .p 7] = true ∧ clean (atLevel 0) [.p 7] = true ∧ clean (atLevel 0) [.g 6] = true := by
  decide +kernel

theorem witness_TransferResults : clean heap [.p 0] = true ∧ clean heap [.p 7] = true ∧ clean heap [.g 6] = true ∧
    (rg heap 6 + BitVec.ofInt 64 0).getLsbD 0 = false ∧ (rg heap 6 + BitVec.ofInt 64 (-1)).getLsbD 0 = true := by
  decide +kernel

/-- The loads of the last bytes of a line. -/
theorem reads_heap (n : Nat) (h : n = 1 ∨ n = 2 ∨ n = 4 ∨ n = 8 ∨ n = 16) :
    readable 0x70 n heap heapRead (List.replicate n 0) := by
  rcases h with rfl | rfl | rfl | rfl | rfl <;>
    exact ⟨rfl, heap, 0x70, _, ⟨by decide +kernel, rfl, by decide +kernel⟩, rfl, rfl⟩

theorem witness_LoadResults : startAt fm heap = some (0, 0) ∧ clean heap [.g (fm.a 0 6)] = true ∧
    clean heap [.g (fm.b 0 5)] = true ∧
    readable (rg heap 6 + BitVec.ofInt 64 (fm.i 0 0 * 8)) 8 heap heapRead (List.replicate 8 0) ∧
    readable (rg heap 6 + BitVec.ofInt 64 (fm.i 0 0 * Sz.half.bytes)) 2 heap heapRead (List.replicate 2 0) ∧
    readable (rg heap 6 + BitVec.ofInt 64 (fm.i 0 0 * Ex.byte.bytes)) 1 heap heapRead (List.replicate 1 0) ∧
    readable (rg heap 6 + BitVec.ofInt 64 (fm.i 0 0 * Fs.word.bytes)) 4 heap heapRead (List.replicate 4 0) ∧
    readable (rg heap 6 + BitVec.ofInt 64 (fm.i 0 0 * (2 * Wd.dbl.bytes))) 16 heap heapRead (List.replicate 16 0) ∧
    readable (rg heap 6 + rg heap 5 * BitVec.ofNat 64 Sz.dbl.bytes) 8 heap heapRead (List.replicate 8 0) :=
  ⟨by decide +kernel, by decide +kernel, by decide +kernel, reads_heap 8 (by decide), reads_heap 2 (by decide),
    reads_heap 1 (by decide), reads_heap 4 (by decide), reads_heap 16 (by decide), reads_heap 8 (by decide)⟩

/-- Four conjuncts decided together. -/
theorem fourAnd {a b c d r : Prop} (h : a ∧ b ∧ c ∧ d) (hr : r) : a ∧ b ∧ c ∧ d ∧ r :=
  ⟨h.1, h.2.1, h.2.2.1, h.2.2.2, hr⟩

/-- Eight conjuncts decided together. -/
theorem eightAnd {a b c d e f g i r : Prop} (h : a ∧ b ∧ c ∧ d ∧ e ∧ f ∧ g ∧ i) (hr : r) :
    a ∧ b ∧ c ∧ d ∧ e ∧ f ∧ g ∧ i ∧ r :=
  fourAnd ⟨h.1, h.2.1, h.2.2.1, h.2.2.2.1⟩ (fourAnd h.2.2.2.2 hr)

theorem witness_LoadSources : localMem heap 0x70 = true ∧ tokensHeld heap.coh heap.cur (lineOf 0x70) = false ∧
    tokensHeld far.coh far.cur (lineOf 0x3000000070) = false ∧ 0 < 16 ∧ 0x70 % 128 + 16 ≤ 128 ∧
    (heap.core.sb.any (fun e => e.meets 0x70 16) = false ∧ msgsPast heap.ctx.prv.gtid 0x70 16 heap = true ∧
      msgsPast far.ctx.prv.gtid 0x3000000070 16 far = true) ∧ homeDie 0x70 = heap.die ∧
    linePoisoned heap (lineOf 0x70) = false ∧
    localMem far 0x3000000070 = true ∧ homeDie 0x3000000070 ≠ far.die ∧
    freshCopy far.coh far.die (lineOf 0x3000000070) = none ∧ far.coh.wts = [] ∧
    freshCopy { far.coh with copies := [farCopy 0] } 0 (lineOf 0x3000000070) = some (farCopy 0) ∧
    (farCopy 0).poison = false ∧
    loadLine false 0x70 8 heap = .ok (heapRead, List.replicate 8 0, false) ∧ 0x70 ≤ 0x70 ∧ 0x70 + 8 ≤ 0x70 + 8 :=
  eightAnd (by decide +kernel) <| fourAnd (by decide +kernel) <|
    ⟨by decide +kernel, by decide +kernel, rfl, by decide, by decide⟩

/-- The stores of the last bytes of a line. -/
theorem stores_heap (n : Nat) (h : n = 1 ∨ n = 2 ∨ n = 4 ∨ n = 8 ∨ n = 16) :
    reaches .store 0x70 n heap heap 0x70 := by
  rcases h with rfl | rfl | rfl | rfl | rfl <;>
    exact ⟨by decide +kernel, rfl, by decide +kernel⟩

theorem witness_StoreResults : startAt fm heap = some (0, 0) ∧ heap.core.sb.length < 96 ∧
    clean heap [.g 6, .g 5, .f 5, .g 7] = true ∧ clean heap [.g (5 + 1)] = true ∧
    reaches .store (rg heap 6 + BitVec.ofInt 64 (fm.i 0 0 * 8)) 8 heap heap 0x70 ∧
    reaches .store (rg heap 6 + BitVec.ofInt 64 (fm.i 0 0 * Sz.byte.bytes)) 1 heap heap 0x70 ∧
    reaches .store (rg heap 6 + rg heap 5 * BitVec.ofNat 64 Sz.half.bytes) 2 heap heap 0x70 ∧
    reaches .store (rg heap 6 + BitVec.ofInt 64 (fm.i 0 0 * (2 * Wd.dbl.bytes))) 16 heap heap 0x70 ∧
    reaches .store (rg heap 6 + BitVec.ofInt 64 (fm.i 0 0 * Fs.word.bytes)) 4 heap heap 0x70 ∧
    (rg heap 6 + BitVec.ofInt 64 0x151).toNat / (8 / Sb.two.bits) = 0x70 ∧
    (getCore heap 0).sb = [] ∧
    (let s := { heap with core.sb := [oneStore] }
     (getCore s 0).sb = oneStore :: [] ∧ Memory.wf s.mem = true ∧ localMem s 0x70 = true ∧ homeDie 0x70 = 0 / 64 ∧
       deadHome s 0x70 = false ∧ tokensHeld s.coh 0 (lineOf 0x70) = false ∧ msgsPast oneStore.gtid 0x70 8 s = true ∧
       tokensHeld { s.coh with persistent := [(0, 1, 0)] } 0 (lineOf 0x70) = true) :=
  ⟨by decide +kernel, by decide +kernel, by decide +kernel, by decide +kernel, stores_heap 8 (by decide),
    stores_heap 1 (by decide), stores_heap 2 (by decide), stores_heap 16 (by decide), stores_heap 4 (by decide),
    by decide +kernel⟩

theorem witness_MisalignedAccessesTrap : startAt fm heap = some (0, 0) ∧
    (let s := wg heap 6 0x77
     clean s [.g (fm.a 0 6), .g (fm.d 0 5), .g (fm.d 0 5 + 1), .g (fm.b 0 7), .f (fm.d 0 5), .f 7] = true ∧
     s.ctx.aux.sent = .nothing ∧
     (∀ n ∈ ([2, 4, 8, 16] : List Nat), (rg s (fm.a 0 6) + BitVec.ofInt 64 (fm.i 0 0 * n)).toNat % n ≠ 0 ∧
       (rg s (fm.a 0 6) + rg s (fm.b 0 7) * BitVec.ofNat 64 n).toNat % n ≠ 0) ∧
     (∀ n ∈ [4, 8], (rg s 6 + BitVec.ofInt 64 (0 * n)).toNat % n ≠ 0 ∧ (rg s 6).toNat % n ≠ 0)) := by decide +kernel

theorem witness_OrderingResults : Scope.die.code < 2 ∧ storesPerformed Scope.sys.code heap = true ∧
    acquired Scope.die.code heap heap ∧
    acquired Scope.pkg.code heap { heap with coh := bumpGeneration 0 heap.coh } ∧
    releasable Scope.cluster.code heap ∧ releasable Scope.sys.code heap ∧ waysideClear Scope.pkg.code heap ∧
    msgsDone heap.ctx.prv.gtid heap = true ∧ clean heap [.g 6, .g 5] = true ∧
    readable (rg heap 6 + BitVec.ofInt 64 (0 * Wd.word.bytes)) 4 heap heapRead (List.replicate 4 0) ∧
    readableAtHome (rg heap 6 + BitVec.ofInt 64 (0 * Wd.dbl.bytes)) 8 heap heapRead (List.replicate 8 0) ∧
    acquired Scope.pkg.code heapRead { heapRead with coh := bumpGeneration 0 heapRead.coh } ∧
    reaches .store (rg heap 6 + BitVec.ofInt 64 (0 * Wd.dbl.bytes)) 8 heap heap 0x70 ∧ heap.core.sb.length < 96 ∧
    reaches .load (rg heap 6) 8 heap heap 0x70 ∧
    (∃ s1, loadLine true 0x70 8 { heap with coh := dropCopy heap.die (lineOf 0x70) heap.coh } =
      .ok (s1, List.replicate 8 0, false) ∧
      unsignedValue 8 (raceBytes s1 0x70 (List.replicate 8 0)) = rg (wg heap 7 0) 7 ∧
      unsignedValue 8 (raceBytes s1 0x70 (List.replicate 8 0)) ≠ rg heap 7) :=
  ⟨by decide, by decide +kernel, .inl ⟨by decide, rfl⟩, .inr ⟨by decide, by decide +kernel, rfl⟩, .inl (by decide),
    .inr ⟨.inr (by decide +kernel), by decide +kernel⟩, .inr (by decide +kernel), by decide +kernel, by decide +kernel,
    reads_heap 4 (by decide), ⟨rfl, heap, 0x70, _, stores_load, rfl, rfl⟩, .inr ⟨by decide, by decide +kernel, rfl⟩,
    stores_heap 8 (by decide), by decide +kernel, stores_load, ⟨_, rfl, by decide +kernel, by decide +kernel⟩⟩
where
  stores_load : reaches .load (0x70 + BitVec.ofInt 64 (0 * Wd.dbl.bytes)) 8 heap heap 0x70 :=
    ⟨by decide +kernel, rfl, by decide +kernel⟩

/-- A copy of the greatest age that is no absence. -/
def farOld : State := { far with coh.copies := [farCopy (2 ^ 15 + 1)] }

/-- A struck and a confirmed entry. -/
def struck : State := { heap with ctx.aux.wayside := [⟨0x80, 1, some 3, .struck⟩, ⟨0x40, 0, some 2, .confirmed⟩] }

theorem witness_WaysideResults : clean farOld [.g 6] = true ∧
    reaches .load (rg farOld 6 + BitVec.ofInt 64 (0 * Wd.dbl.bytes)) 8 farOld farOld 0x3000000070 ∧
    waysideCopy 0x3000000070 8 farOld = some (farCopy (2 ^ 15 + 1)) ∧
    tokensHeld farOld.coh farOld.cur (farCopy 0).line = false ∧
    (farCopy 0).poison = false ∧ (farCopy 0).data.length = 128 ∧
    (farOld.coh.wts = [] ∧ msgsPast farOld.ctx.prv.gtid 0x3000000070 8 farOld = true) ∧
    waysideCopy 0x70 8 heap = none ∧ clean heap [.g 6] = true ∧
    reaches .load (rg heap 6 + BitVec.ofInt 64 (0 * Wd.dbl.bytes)) 8 heap heap 0x70 ∧
    loadLine false 0x70 8 heap = .ok (heapRead, List.replicate 8 0, false) ∧
    waysidePending heap.ctx = false ∧ waysideStruck heap.ctx = [] ∧
    2 ≤ Scope.pkg.code ∧ waysidePending struck.ctx = false ∧ waysideStruck struck.ctx ≠ [] :=
  ⟨by decide +kernel, ⟨by decide +kernel, rfl, by decide +kernel⟩,
    fourAnd (by decide +kernel) <|
    ⟨by decide +kernel, by decide +kernel, by decide +kernel, ⟨by decide +kernel, rfl, by decide +kernel⟩, rfl,
    by decide +kernel⟩⟩

theorem witness_HintsAndCounts : startAt fm heap = some (0, 0) ∧ heap.core.lodge = none ∧
    { heap with core.lodge := some heap.ctx }.core.lodge = some heap.ctx := by decide +kernel

/-- `f6` in front of `g7` for an atomic of eight bytes at 0x70. -/
theorem witness_AtomicResults : heap.ctx.aux.sent = .nothing ∧
    reaches .atomic (rg heap 6) Wd.dbl.bytes heap heap 0x70 ∧ releasable Scope.sys.code heap ∧ heap.core.sb = [] ∧
    localMem heap 0x70 = true ∧ homeDie 0x70 = heap.die ∧ linePoisoned heap (lineOf 0x70) = false ∧
    clean heap [.g 6, .g 7] = true ∧ clean heap [.g 5] = true ∧ clean heap [.g 6, .f 7] = true ∧
    (tokensHeld heap.coh heap.cur (lineOf 0x70) = false ∧ msgsPast heap.ctx.prv.gtid 0x70 8 heap = true) ∧
    (∀ c ∈ heap.copy.cmds, c.gtid = heap.ctx.prv.gtid → elemBase c = none) ∧
    ∃ u, acquired Scope.sys.code heap u :=
  ⟨by decide +kernel, ⟨by decide +kernel, rfl, by decide +kernel⟩, .inr ⟨.inr (by decide +kernel), by decide +kernel⟩,
    by decide +kernel, by decide +kernel, by decide +kernel,
    fourAnd (by decide +kernel) <|
    ⟨by decide +kernel, fun _ h => (nomatch h), _, .inr ⟨by decide, by decide +kernel, rfl⟩⟩⟩

/-! ### Threads and floating point -/

/-- An operation answers, and its answer passes a test. -/
def okAnd {α β : Type} (r : Except β α) (p : α → Bool) : Bool :=
  match r with
  | .ok x => p x
  | .error _ => false

theorem okAnd_exists {α β : Type} {r : Except β α} {p : α → Bool} (h : okAnd r p = true) :
    ∃ x, r = .ok x ∧ p x = true := by
  cases r with
  | ok x => exact ⟨x, rfl, h⟩
  | error _ => cases h

/-- A launch record at 0x100 of one level with a barrier, of extent 2 and domain core, in chunks of 1. -/
def spawner : State :=
  { wg (mapped 0) 6 0x100 with
    mem := [⟨0x100, 1⟩, ⟨0x102, 1⟩, ⟨0x128, 1⟩, ⟨0x131, 2⟩, ⟨0x140, 2⟩, ⟨0x144, 1⟩, ⟨0x146, 1⟩]
    ctx.prv.teamlim := 2
    core.slottab := Vector.replicate 16 0x8000000000000000
    boot.bootst := 6 }

/-- Two members, the first at its core; the other has arrived once at level 0. -/
def team : Team :=
  { id := 1, prio := 0, istart := 10, icount := 5, chunk := 2, donew := some (0x200, 0x200)
    levels := [⟨2, 1, 0, true⟩], base := Ctx.reset 0 0
    members := [⟨0, 1, .resident, [], some 0, true, none⟩, ⟨1, 9, .resident, [1], some 0, true, none⟩]
    next := 2, handouts := [], reissue := [], killed := false, reissued := false
    noted := true, ending := false }

/-- Thread 1 of the team runs. -/
def inTeam : State := { mapped 0 with sched.teams := [team] }

theorem witness_ThreadInstructionResults : spawner.ctx.aux.sent = .nothing ∧ clean spawner [.g 6] = true ∧
    (∃ x, readRecord (rg heap 6 + 0x90) heap = .ok x ∧ decide (launchCheck x.1 x.1.ctx x.2.1 ≠ 0) = true) ∧
    (∃ x, readRecord (rg spawner 6) spawner = .ok x ∧
      (decide (launchCheck x.1 x.1.ctx x.2.1 = 0 ∧ widestScope (usedLevels x.2.1) < 2 ∧ x.1.sched.requests = [] ∧
          storesPerformed (widestScope (usedLevels x.2.1)) x.1 = true ∧ nearDonew x.1 x.2.2 = true ∧
          x.2.2 = some (0x200, 0x200) ∧ Memory.wf x.1.mem = true ∧ localMem x.1 0x200 = true ∧ deadHome x.1 0x200 = false) &&
        takesSpawn x.1) = true) ∧
    { spawner with ctx.aux.sent := .spawnAnswer 8 }.ctx.aux.sent = .spawnAnswer 8 ∧
    { spawner with ctx.aux.sent := .infoAnswer 3 2 }.ctx.aux.sent = .infoAnswer 3 2 ∧ team.noted = true ∧
    inTeam.ctx.aux.sent = .nothing ∧ cmdsOf inTeam inTeam.ctx.prv.gtid = [] ∧ inTeam.cur < 256 ∧
    teamOf inTeam inTeam.ctx.prv.gtid = some team ∧ barOf inTeam 1 = none ∧ barOf inTeam 0 = some (team, ⟨2, 1, 0, true⟩) ∧
    waysideClear 0 inTeam ∧ storesPerformed 0 inTeam = true ∧ inTeam.ctx.aux.arrive.getLsbD 0 = false ∧
    barrierDone (countArrival inTeam.ctx.prv.gtid 0 team) inTeam.ctx.prv.gtid 0 = true ∧
    (let s1 := putTeam (countArrival inTeam.ctx.prv.gtid 0 team) { inTeam with ctx.aux.arrive := 1 }
     teamOf s1 inTeam.ctx.prv.gtid = some (countArrival inTeam.ctx.prv.gtid 0 team) ∧ acquired 0 s1 s1) ∧
    teamOf heap heap.ctx.prv.gtid = none ∧ inTeam.sched.election = false ∧ inTeam.sched.requests = [] ∧
    team.reissue = [] ∧ 0 < team.chunk :=
  ⟨by decide +kernel, by decide +kernel, okAnd_exists (by decide +kernel), okAnd_exists (by decide +kernel),
    eightAnd (by decide +kernel)
    ⟨by decide +kernel, .inl (by decide), by decide +kernel, by decide +kernel, by decide +kernel,
    ⟨by decide +kernel, .inl ⟨by decide, rfl⟩⟩, by decide +kernel, by decide +kernel, by decide +kernel,
    by decide +kernel, by decide⟩⟩

/-- Controls with no option set. -/
def plain : FpCtl := ⟨.rne, false, false, false⟩

/-- No flag is enabled in `second`; where all are, a signalling NaN traps at each operation. -/
theorem witness_FpArithmeticResults : startAt fm2 second = some (1, 0) ∧
    clean second [.f (fm2.a 1 62), .ctl 0x001] = true ∧ clean second [.f (fm2.b 1 62)] = true ∧
    clean second [.f (fm2.d 1 62)] = true ∧
    (∀ flags ∈ List.range 32, flags &&& bits second.ctx.ctl.fcsr 16 5 = 0) ∧
    (let f := fmtE .fp64
     let n := 0x7FF0000000000001
     ∀ r ∈ [f.sqrtR plain n, f.rcpR plain n, f.rsqR plain n, f.addR plain n 0, f.subR plain n 0, f.mulR plain n 0,
         f.divR plain n 0, f.minmaxR plain false n 0, f.minmaxR plain true n 0, f.fmaR plain false false n 0 0,
         f.fmaR plain false true n 0 0, f.fmaR plain true false n 0 0],
       r.flags &&& bits { second with ctx.ctl.fcsr := 0x1F0000 }.ctx.ctl.fcsr 16 5 ≠ 0) := by decide +kernel

/-- Operands of each kind: a clause asks of `x`, `y` and `z` what these are. -/
theorem witness_FpOperandResults :
    let v := (fmtE .fp64).source plain
    v 0x7FF8000000000000 = .nan false ∧ v 0x7FF0000000000001 = .nan true ∧
    v 0x7FF0000000000000 = .inf false ∧ v 0xFFF0000000000000 = .inf !false ∧
    v 0x7FF0000000000000 ≠ .inf true ∧ true = (false ^^ true ^^ false) ∧ true ≠ (false ^^ false) ∧
    (v 0).isZero = true ∧ (v 0x8000000000000000).isZero = true ∧ (v 0).isNan = false ∧
    (v 0x3FF0000000000000).isZero = false ∧ (v 0x3FF0000000000000).rat + (v 0xBFF0000000000000).rat = 0 ∧
    (v 0x3FF0000000000000).rat * (v 0).rat = 0 ∧ 0 < (v 0x3FF0000000000000).rat ∧ 0 < (v 1).rat ∧
    (if false then -((v 0x3FF0000000000000).rat * (v 0x3FF0000000000000).rat)
      else (v 0x3FF0000000000000).rat * (v 0x3FF0000000000000).rat) +
      (if true then -(v 0x3FF0000000000000).rat else (v 0x3FF0000000000000).rat) = 0 ∧
    EFmt.fp32.ieee = true ∧
    (∃ e, v 0 = .fin false 0 e) ∧ (∃ e, v 0x8000000000000000 = .fin true 0 e) ∧
    (∃ m e, m ≠ 0 ∧ v 1 = .fin false m e) ∧ (∃ m e, m ≠ 0 ∧ v 0xBFF0000000000000 = .fin true m e) ∧
    ∃ m e, v 0x3FF0000000000000 = .fin false m e :=
  eightAnd (by decide +kernel) <| eightAnd (by decide +kernel) 
    ⟨by decide +kernel, ⟨_, rfl⟩, ⟨_, rfl⟩, ⟨1, _, by decide, rfl⟩, ⟨2 ^ 52, _, by decide, rfl⟩, _, _, rfl⟩

theorem witness_FpBitResults : startAt fm heap = some (0, 0) ∧ clean heap [.f (fm.a 0 6), .f (fm.b 0 7)] = true ∧
    clean heap [.f (fm.a 0 63)] = true ∧ clean heap [.f 63] = true ∧ clean heap [.g 63] = true := by decide +kernel

theorem witness_FpCompareAndConvertResults : clean heap [.ctl 0x001] = true ∧ clean heap [.f 63, .f 0] = true ∧
    clean heap [.f 0] = true ∧ clean heap [.g 0] = true ∧
    (∀ flags ∈ List.range 32, flags &&& bits heap.ctx.ctl.fcsr 16 5 = 0) ∧
    (let s := { heap with ctx.ctl.fcsr := 0x1F0000 }
     let x := (fmtE .fp64).source plain 0x7FF0000000000001
     x.signalling = true ∧ x.isNan = true ∧ 16 &&& bits s.ctx.ctl.fcsr 16 5 ≠ 0 ∧
     ((fmtE .fp32).ofVal plain x).flags &&& bits s.ctx.ctl.fcsr 16 5 ≠ 0 ∧
     (toIntR 64 .rne x).2 &&& bits s.ctx.ctl.fcsr 16 5 ≠ 0 ∧
     ((fmtE .fp64).ofInt plain 0x7FFFFFFFFFFFFFFF).flags &&& bits s.ctx.ctl.fcsr 16 5 ≠ 0) := by decide +kernel

/-- A `f6` that is a NaN and a `f7` that is an infinity, for a conversion to an integer. -/
theorem witness_Conversions :
    (let s := twoF 0x7FF8000000000000 0x7FF0000000000000 heap
     let v (n : Nat) : FVal := (fmtE .fp64).source (fcsrCtl 0 s) (rfn .fp64 s n)
     (v 6).isNan = true ∧ v 7 = .inf false ∧ (∃ m e, v 5 = .fin false m e) ∧ clean s [.f 7] = true) :=
  ⟨by decide +kernel, by decide +kernel, ⟨_, _, rfl⟩, by decide +kernel⟩

/-! ### Vectors and tiles -/

/-- Every engine gives each of its cycles to the first core of its cluster, and `c0` and `c1` hold lanes of a type. -/
def lanes (t : Tag) : State :=
  { heap with
    eng := Vector.replicate 128 { Engine.reset with slots := Vector.replicate 32 0x10 }
    ctx.c := Vector.replicate 8 ⟨t, 64, t.cols, [[]], [], []⟩ }

theorem lanes_ready : tileReady (lanes .fp32) ∧ tileReady (lanes .i32) :=
  ⟨⟨rfl, by decide +kernel⟩, ⟨rfl, by decide +kernel⟩⟩

theorem witness_VectorArithmeticResults : startAt fm (lanes .fp32) = some (0, 0) ∧
    vecRuns (lanes .fp32) .fp32 [63, 0x40, 0x7F] [] false (some 63) [0x40, 0x7F] [.m 7] ∧
    (∀ e, e < (lanes .fp32).ctx.aux.gang → rowBad (lanes .fp32) 63 e = false) ∧
    vecRuns (lanes .i32) .i32 [63, 0x40, 0x7F] [] false (some 63) [0x40, 0x7F] [.m 7] ∧
    vecRuns (lanes .i32) .i32 [63, 0x40, 0x7F] [] true (some 63) [0x40, 0x7F] [.m 7] ∧
    vecRuns (lanes .fp32) .fp32 [63, 0x40] [] false (some 63) [0x40] [.m 7] ∧
    (tagFmt .fp32).isSome = true ∧
    rowFlags (activeLanes (lanes .fp32) 7 128) [[]] &&& bits (lanes .fp32).ctx.ctl.fcsr 16 5 = 0 :=
  ⟨by decide +kernel,
    ⟨lanes_ready.1, by decide +kernel, fun d h => by cases h; decide +kernel, by decide +kernel, by decide +kernel⟩,
    by decide +kernel,
    ⟨lanes_ready.2, by decide +kernel, fun d h => by cases h; decide +kernel, by decide +kernel, by decide +kernel⟩,
    ⟨lanes_ready.2, by decide +kernel, fun d h => by cases h; decide +kernel, by decide +kernel, by decide +kernel⟩,
    ⟨lanes_ready.1, by decide +kernel, fun d h => by cases h; decide +kernel, by decide +kernel, by decide +kernel⟩,
    by decide +kernel, by decide +kernel⟩

theorem witness_VectorMovementResults :
    (let s := lanes .fp32
     startAt fm s = some (0, 0) ∧
     vecRuns s .fp32 [63, 0x40] [] false (some 63) [0x40] [.m 7] ∧
     vecRuns s .fp32 [63, 0x40] [] false (some 63) [0x40] [.m 7, .g 7] ∧
     vecRuns s .fp32 [63, 0x40] [0x7F] false (some 63) [0x40, 0x7F] [.m 7] ∧
     vecRuns s .fp32 [63, 0x40, 0x7F] [] false (some 63) [0x40, 0x7F] [.m 7] ∧
     tileReady s ∧ clean s [.m 7, .ctl 0x002, .ctl 0x001] = true ∧
     (∀ e, e < s.ctx.aux.gang → rowBad s 0x40 e = false) ∧
     laneTag s 0x40 = .fp32 ∧ convertOk (laneTag s 0x40) .bf16 .empty true = true ∧
     convertOk .bf16 .fp32 (s.ctx.acc (windowAcc s 63)).tag true = true) :=
  ⟨by decide +kernel,
    ⟨lanes_ready.1, by decide +kernel, fun d h => by cases h; decide +kernel, by decide +kernel, by decide +kernel⟩,
    ⟨lanes_ready.1, by decide +kernel, fun d h => by cases h; decide +kernel, by decide +kernel, by decide +kernel⟩,
    ⟨lanes_ready.1, by decide +kernel, fun d h => by cases h; decide +kernel, by decide +kernel, by decide +kernel⟩,
    ⟨lanes_ready.1, by decide +kernel, fun d h => by cases h; decide +kernel, by decide +kernel, by decide +kernel⟩,
    lanes_ready.1, by decide +kernel⟩

theorem witness_VectorMaskResults :
    (let s := lanes .i32
     startAt fm s = some (0, 0) ∧ inService s = .ok () ∧ clean s [.m 7, .m 0] = true ∧ clean s [.m 7] = true ∧
     vecRuns s .i32 [63, 0x7F] [] false none [] [] ∧ cmpOk true .lt .i32 = true ∧ rowBad s 63 0 = false ∧
     rowBad s 0x7F 0 = false ∧ vecRuns s .i32 [0x7F] [] false none [] [.m 7, .g 63] ∧
     bits s.ctx.ctl.fcsr 16 5 = 0) :=
  ⟨by decide +kernel, rfl, by decide +kernel, by decide +kernel,
    ⟨lanes_ready.2, by decide +kernel, fun _ h => (nomatch h), by decide +kernel, by decide +kernel⟩, by decide +kernel,
    by decide +kernel, by decide +kernel,
    ⟨lanes_ready.2, by decide +kernel, fun _ h => (nomatch h), by decide +kernel, by decide +kernel⟩, by decide +kernel⟩

/-- `lanes` with a base register of 0x200 and a stride of 16. -/
def rowsAt (t : Tag) : State := two 0x200 0x10 (lanes t)

theorem rowsAt_ready : tileReady (rowsAt .fp32) := ⟨rfl, by decide +kernel⟩

theorem witness_VectorMemoryResults :
    (let s := rowsAt .fp32
     let unit (i : Nat) : Word := rg s 6 + BitVec.ofInt 64 (fm.i 0 0 * 512) + BitVec.ofNat 64 (i * 4)
     let strided (i : Nat) : Word := rg s 6 + BitVec.ofNat 64 i * rg s 7
     let indexed (i : Nat) : Word :=
       rg s 6 + BitVec.ofInt 64 (sext (((laneRow s 128 0x7F 0)[i]?).getD (0, 0)).1 32)
     let act := List.replicate 128 true
     startAt fm s = some (0, 0) ∧ 0 < Tag.fp32.cols ∧
     vecRuns s .fp32 [63] [] false (some 63) [] [.m 0, .g 6] ∧
     vecRuns s .fp32 [63] [] false (some 63) [] [.m 0, .g 6, .g 7] ∧
     vecRuns s .fp32 [63] [0x7F] false (some 63) [] [.m 0, .g 6] ∧ rowBad s 0x7F 0 = false ∧
     vecRuns s .fp32 [63] [] false none [] [.m 0, .g 6] ∧
     vecRuns s .fp32 [63] [] false none [] [.m 0, .g 6, .g 7] ∧
     vecRuns s .fp32 [63] [0x7F] false none [] [.m 0, .g 6] ∧ rowBad s 63 0 = false ∧
     activeLanes s 0 Tag.fp32.cols = act ∧
     (∃ x, loadLanes unit 4 false (fun o s => commitLanes .fp32 63 [o] s) (act.drop 0) 0 (List.replicate 0 none) s = .ok x ∧
       true = true) ∧
     (∃ x, loadLanes strided 4 false (fun o s => commitLanes .fp32 63 [o] s) (act.drop 127) 127 (List.replicate 127 none) s =
       .ok x ∧ true = true) ∧
     (∃ x, checkLanes unit 4 (List.zip act (laneRow s 128 63 0)) 0 s = .ok x ∧ okAnd (storePieces x.2 x.1) (fun _ => true) = true) ∧
     (∃ x, checkLanes strided 4 (List.zip act (laneRow s 128 63 0)) 0 s = .ok x ∧
       okAnd (storePieces x.2 x.1) (fun _ => true) = true) ∧
     (∃ x, loadLanes indexed 4 false (fun o s => commitLanes .fp32 63 [o] s) (act.drop 0) 0 (List.replicate 0 none) s = .ok x ∧
       true = true) ∧
     (∃ x, checkLanes indexed 4 (List.zip act (laneRow s 128 63 0)) 0 s = .ok x ∧
       okAnd (storePieces x.2 x.1) (fun _ => true) = true) ∧
     act[127]? = some true ∧ (∀ i : Nat, 0 ≤ i → i < Tag.fp32.cols → (activeLanes s 7 Tag.fp32.cols)[i]? = some false) ∧
     ∃ x, loadScalar false .row (rg s 6 + rg s 7 * BitVec.ofNat 64 4) 4 s = .ok x ∧ true = true) :=
  ⟨by decide +kernel, by decide,
    ⟨rowsAt_ready, by decide +kernel, fun d h => by cases h; decide +kernel, by decide +kernel, by decide +kernel⟩,
    ⟨rowsAt_ready, by decide +kernel, fun d h => by cases h; decide +kernel, by decide +kernel, by decide +kernel⟩,
    ⟨rowsAt_ready, by decide +kernel, fun d h => by cases h; decide +kernel, by decide +kernel, by decide +kernel⟩,
    by decide +kernel,
    ⟨rowsAt_ready, by decide +kernel, fun _ h => (nomatch h), by decide +kernel, by decide +kernel⟩,
    ⟨rowsAt_ready, by decide +kernel, fun _ h => (nomatch h), by decide +kernel, by decide +kernel⟩,
    ⟨rowsAt_ready, by decide +kernel, fun _ h => (nomatch h), by decide +kernel, by decide +kernel⟩,
    by decide +kernel, by decide +kernel, okAnd_exists (by decide +kernel), okAnd_exists (by decide +kernel),
    okAnd_exists (by decide +kernel), okAnd_exists (by decide +kernel), okAnd_exists (by decide +kernel),
    okAnd_exists (by decide +kernel), by decide +kernel, fun i _ h => noneActive i (List.mem_range.mpr h),
    okAnd_exists (by decide +kernel)⟩
where
  noneActive : ∀ i ∈ List.range Tag.fp32.cols, (activeLanes (rowsAt .fp32) 7 Tag.fp32.cols)[i]? = some false := by
    decide +kernel

/-- `rowsAt` with one row in every tile name and band, and the first record of a scale stream at 0x10. -/
def tiles : State := { rowsAt .fp32 with ctx.t := Vector.replicate 16 [⟨[1], none, []⟩], mem := [⟨0x10, 8⟩] }

theorem tiles_ready : tileReady tiles := ⟨rfl, by decide +kernel⟩

theorem witness_TileLoadResults :
    startAt fm tiles = some (0, 0) ∧ tileReady tiles ∧
    clean tiles [.g (fm.a 0 6), .g (fm.b 0 7)] = true ∧ clean tiles [.g (6 + 1), .g (7 + 1)] = true ∧ 0 < 1 * tiles.ctx.aux.gang ∧
    (∃ (σ : Nat → State) (v : Nat → List Byte), σ 0 = tiles ∧ ∀ i, 0 ≤ i → i < 1 * tiles.ctx.aux.gang →
      loadRow 8 (rg tiles 6 + BitVec.ofNat 64 i * rg tiles 7) 128 (σ i) = .ok (σ (i + 1), v i)) ∧
    ∃ (σ : Nat → State) (x : Nat → LoadedRow), σ 0 = tiles ∧ ∀ i, 0 ≤ i → i < 1 →
      loadSxRow .sx7 (rg tiles 6 + BitVec.ofNat 64 i * rg tiles (6 + 1)) (rg tiles 7 + BitVec.ofNat 64 i * rg tiles (7 + 1)) i (σ i) =
        .ok (σ (i + 1), x i) := by
  refine ⟨by decide +kernel, tiles_ready, by decide +kernel, by decide +kernel, by decide +kernel, ?_, ?_⟩
  · obtain ⟨x, h, -⟩ := okAnd_exists (r := loadRow 8 (rg tiles 6 + BitVec.ofNat 64 0 * rg tiles 7) 128 tiles)
      (p := fun _ => true) (by decide +kernel)
    exact ⟨fun i => if i = 0 then tiles else x.1, fun _ => x.2, rfl, fun i _ hi => by
      obtain rfl : i = 0 := Nat.lt_one_iff.mp hi
      exact h⟩
  · obtain ⟨x, h, -⟩ := okAnd_exists
      (r := loadSxRow .sx7 (rg tiles 6 + BitVec.ofNat 64 0 * rg tiles (6 + 1)) (rg tiles 7 + BitVec.ofNat 64 0 * rg tiles (7 + 1)) 0 tiles)
      (p := fun _ => true) (by decide +kernel)
    exact ⟨fun i => if i = 0 then tiles else x.1, fun _ => x.2, rfl, fun i _ hi => by
      obtain rfl : i = 0 := Nat.lt_one_iff.mp hi
      exact h⟩

/-- `c0` of one cell, drained over `g6` and `g7`, with a second stream over `g7` and `g8`. -/
def oneCell : State := { wg tiles 8 0x10 with ctx.c := Vector.replicate 8 ⟨.fp32, 1, 1, [[[0x3F800000]]], [], []⟩ }

theorem witness_TileStoreResults :
    startAt fm tiles = some (0, 0) ∧ tileReady tiles ∧ clean tiles [.g 6, .g 7] = true ∧
    (∀ e r, e < tiles.ctx.aux.gang → r < 1 → (tileBand (seenTile tiles 3) e).bad.contains r = false) ∧
    (∃ t, blockStore ((List.range (1 * tiles.ctx.aux.gang)).map (fun i =>
        ⟨rg tiles 6 + BitVec.ofNat 64 i * rg tiles 7,
          (bytesOfRow ((tileBand (seenTile tiles 3) (i / 1)).row (i % 1))).take 128, 8, false⟩)) tiles = .ok t ∧ true = true) ∧
    inService (lanes .bf16) = .ok () ∧ accepts ((lanes .bf16).ctx.acc 0).tag .int8 = false ∧
    tileReady oneCell ∧ accepts (oneCell.ctx.acc 0).tag .sx7 = true ∧ accepts (oneCell.ctx.acc 0).tag .fp32 = true ∧
    clean oneCell ([.g 6, .g 7, .ctl 0x002] ++ [.f 63]) = true ∧ clean oneCell [.g (6 + 1), .g (7 + 1)] = true ∧
    (∃ t, blockStore (drainRows oneCell (seenAcc oneCell 0) .fp32 none 0 0 (rg oneCell 6) (rg oneCell 7) (rg oneCell 7) (rg oneCell 8)).1
      oneCell = .ok t ∧ true = true) ∧
    ∃ t, blockStore (drainRows oneCell (seenAcc oneCell 0) .fp32 (some .fp32) 0 0 (rg oneCell 6) (rg oneCell 7) (rg oneCell 7) (rg oneCell 8)).1
      oneCell = .ok t ∧ true = true := by
  refine ⟨by decide +kernel, tiles_ready, by decide +kernel, ?_, okAnd_exists (by decide +kernel), rfl, by decide +kernel,
    ⟨rfl, by decide +kernel⟩, by decide +kernel, by decide +kernel, by decide +kernel, by decide +kernel, okAnd_exists (by decide +kernel),
    okAnd_exists (by decide +kernel)⟩
  intro e r he _
  obtain rfl : e = 0 := Nat.lt_one_iff.mp he
  rfl

/-- A drain of one cell, in a format other than SX. -/
theorem witness_DrainRows :
    (oneCell.ctx.acc 0).tag ≠ .empty ∧ OFmt.fp32.isSx = false ∧ bits oneCell.ctx.ctl.tctl 17 3 ≠ 5 ∧
    0 < (oneCell.ctx.acc 0).bands.length * (oneCell.ctx.acc 0).rext ∧ 0 < (oneCell.ctx.acc 0).cext := by decide +kernel

theorem witness_TileNameResults :
    (let s := tiles
     startAt fm s = some (0, 0) ∧ inService s = .ok () ∧ s.ctx.aux.evicted = [] ∧ s.ctx.aux.extPending = none ∧
     s.ctx.aux.regang = none ∧ pinned s = none ∧ (s.ctx.tile 15).all (fun b => b.bad.isEmpty) = true ∧ (s.ctx.acc 7).poisoned = false ∧
     (s.ctx.acc 7).cext ≤ Tag.fp32.cols ∧ (oneCell.ctx.acc 7).cext ≤ Tag.bf16.cols ∧
     ((lanes .empty).ctx.acc 7).tag = .empty ∧ clean s [.ctl 0x002] = true ∧
     (∀ n ∈ gangOf s 4, (engineAt s n).quarantined = false) ∧ gangAccepted s 4 = true ∧
     (∀ n ∈ gangOf s 1, (engineAt s n).quarantined = false) ∧ gangAccepted s 1 = true ∧
     storesPerformed 2 s = true ∧ clean s [.g 6] = true ∧ 0 ∈ myEngines s) :=
  ⟨by decide +kernel, rfl, by decide +kernel⟩

/-- `tiles` in a partition without a share of the cellar, at whose destination the next product is a carry. -/
def noRoom : State :=
  { tiles with
    eng := Vector.replicate 128 { Engine.reset with
      slots := (Vector.replicate 32 0x10).set 31 0x11, celshr := Vector.replicate 8 0x8000000000000000 }
    ctx.ctl.tctl := 0x10000
    ctx.c := Vector.replicate 8 ⟨.int, 1, 1, [[[0x7FFFFF]]], [], []⟩ }
theorem noRoom_ready : tileReady noRoom := ⟨rfl, by decide +kernel⟩

/-- One slab of FP32, and of INT8. -/
def floatOp : TmmaOp := tmmaOp .fp32 false false 1 0 0 14 14 tiles
def intOp : TmmaOp := tmmaOp .int8 false false 1 0 0 1 2 { tiles with ctx.c := (lanes .empty).ctx.c }

/-- A chained slab, and an INT8 slab that finds no room. -/
def chainedOp : TmmaOp := tmmaOp .fp32 false true 1 0 0 7 10 oneCell
def carryOp : TmmaOp := tmmaOp .int8 false false 1 0 0 1 2 noRoom

theorem nothingSent : ∀ s ∈ [tiles, noRoom], s.ctx.aux.sent = .nothing := by decide +kernel

theorem witness_TmmaResults :
    (startAt fm tiles = some (0, 0) ∧ clean tiles ([.f 63] ++ [.ctl 0x002]) = true ∧
     clean tiles ([] ++ [.ctl 0x002]) = true ∧
     tmmaIll floatOp 14 14 = false ∧ tmmaPoisoned floatOp = false ∧
     stuckAt (runTmmaOp floatOp).takes (freeByBand tiles) = none ∧
     faultFree tiles floatOp (runTmmaOp floatOp) = true ∧
     allPass floatOp (runTmmaOp floatOp) (runTmmaOp floatOp).cells = true) ∧
    (tmmaIll chainedOp 7 10 = false ∧ tmmaPoisoned chainedOp = false ∧
     stuckAt (runTmmaOp chainedOp).takes (freeByBand oneCell) = none ∧
     faultFree oneCell chainedOp (runTmmaOp chainedOp) = true ∧
     allPass chainedOp (runTmmaOp chainedOp) (runTmmaOp chainedOp).cells = true) ∧
    { tiles with ctx.aux.sent := .timedOut 7 }.ctx.aux.sent = .timedOut 7 ∧
    ∀ s ∈ [tiles, noRoom], ∀ y, s.ctx.aux.sent ≠ .timedOut y :=
  ⟨by decide +kernel, by decide +kernel, rfl, fun s hs y h => by simp [nothingSent s hs] at h⟩

theorem witness_TmmaCarries :
    startAt fm noRoom = some (0, 0) ∧ clean noRoom ([] ++ [.ctl 0x002]) = true ∧
     tmmaIll carryOp 1 2 = false ∧ tmmaPoisoned carryOp = false ∧ noRoom.ctx.ctl.tctl.getLsbD 16 = true ∧
     stuckAt (runTmmaOp carryOp).takes (freeByBand noRoom) = some (0, [0]) := by decide +kernel

theorem witness_TmmaCells :
    (pairTag floatOp.pair ≠ .int ∧ 0 < destCount (pairTag floatOp.pair) (tilesCols floatOp.b) ∧ 0 < floatOp.gang ∧
     0 < opRows floatOp ∧ 0 < destCols (pairTag floatOp.pair) (tilesCols floatOp.b) 0) ∧
    (pairTag intOp.pair = .int ∧ 0 < destCount .int (tilesCols intOp.b) ∧ 0 < intOp.gang ∧ 0 < opRows intOp ∧
     0 < destCols .int (tilesCols intOp.b) 0) := ⟨by decide +kernel, by decide +kernel⟩

/-- A step of the floating array: 1 × 1 and 2 × (−1/2) beside 0; a product of 1 has the exponent 0; NaN and zero products. -/
theorem witness_TmmaSteps :
    let one : FVal := .fin false 1 0
    let l : List FVal := [one, .fin false 1 1]
    let r : List FVal := [one, .fin true 1 (-1)]
    ([EFmt.fp32.source plain 0x7FC00000, one].any FVal.isNan = true) ∧
    (∀ y ∈ EFmt.fp32.source plain 0 :: one :: (l ++ r), ∃ n m e, y = .fin n m e) ∧ l.length = r.length ∧
    ((∀ p ∈ List.zipWith (fun y z => y.rat * z.rat) l r, |p| < 2 ^ ((0 : Int) + 1)) ∧
      ∃ p ∈ List.zipWith (fun y z => y.rat * z.rat) l r, 2 ^ (0 : Int) ≤ |p|) ∧
    (∀ p ∈ List.zipWith (fun y z => y.rat * z.rat) [one] [FVal.fin false 0 0], p = 0) ∧
    (EFmt.fp32.source plain 0).rat + (0 : ℚ) * one.rat = 0 ∧
    ((EFmt.fp32.source plain 0).isZero && (EFmt.fp32.source plain 0).neg) = false := by
  refine ⟨by decide +kernel, ?_, by decide +kernel⟩
  intro y h
  simp only [List.cons_append, List.nil_append, List.mem_cons, List.not_mem_nil, or_false] at h
  rcases h with rfl | rfl | rfl | rfl | rfl | rfl <;> exact ⟨_, _, _, rfl⟩

/-- The array checks of the example under R378: A has the rows (1, 2) and (3, 4), B is the identity. -/
def exampleCheck : CheckIn :=
  let n (v : Nat) : FVal := .fin false v 0
  { m := 2, n := 2, k := 1, int := true, u := -23, lam := ⟨1, -126⟩, old := [[n 0, n 0], [n 0, n 0]]
    a := [[[n 1, n 2], [n 3, n 4]]], b := [[[n 1, n 0], [n 0, n 1]]], s := n 1, ofCells := [] }

/-- Cell (1, 0) comes out as 1,027 and is corrected to 3; with cell (0, 1) wrong too, EMC (the example under R378). -/
theorem test_service_check :
    (let o : TmmaOp := ⟨.int8, false, 1, 1, 0, 0, 0x3F800000, none, [], [], []⟩
     serviceCheck o exampleCheck [[1, 2], [1027, 4]] = some ([[1, 2], [3, 4]], 1) ∧
     serviceCheck o exampleCheck [[1, 2], [3, 4]] = some ([[1, 2], [3, 4]], 0) ∧
     serviceCheck o exampleCheck [[1, 5], [1027, 4]] = none) := by decide +kernel

/-! ### Copy commands and engines -/

/-- `g6` names a descriptor that fills eight bytes at 0x300 and has its completion word at 0x400. -/
def filler : State :=
  { wg (mapped 0) 6 0x200 with
    mem := [⟨0x209, 3⟩, ⟨0x210, 8⟩, ⟨0x219, 4⟩, ⟨0x220, 7⟩] }

/-- That command in flight, its completion word at 0x400. -/
def fillCmd (outcome : Option (Nat × Nat)) : Cmd :=
  ⟨5, 0, 1, 0, (mapped 0).ctx.space, .fill, ⟨0, 0x300, 8, 0x400, 7, 0, 0⟩, some (0x400, false), none, outcome, false, [], false⟩

theorem witness_CopyCommandResults :
    clean filler [.g 6] = true ∧
    (∃ x, loadRow 64 (rg filler 6) 64 filler = .ok x ∧
      (let d := readDesc x.2
       decide (firstFailing x.1 1 0 .copy d.1 d.2 ≠ 0 ∧ firstFailing x.1 1 0 .fill d.1 d.2 = 0 ∧ d.1.cw = 0x400) &&
       canIssue x.1 (cmdLocks x.1 1 .fill d.1)) = true) ∧
    reaches .store 0x400 8 filler filler 0x400 ∧
    (cmdsOf filler filler.ctx.prv.gtid).any (inClass 1) = false ∧ endedPerformed filler.ctx.prv.gtid filler = true ∧ clearingHeld filler.coh filler.die = false ∧
    threadStoresDone filler.ctx.prv.gtid filler = true :=
  ⟨by decide +kernel, okAnd_exists (by decide +kernel), ⟨by decide +kernel, rfl, by decide +kernel⟩, by decide +kernel⟩

/-- A `TMMA` stands at the program counter. -/
def atTmma : State := (atLevel 3).withFetchWord 32 0x0123F981

theorem tmma_answers (s : State) : ∃ t, exec (.tmma fm .fp32 false 1 0 1 2 3) s = .next t := by
  unfold exec execTmma
  exact runRep_next _ _ _ _

theorem witness_EngineEvents :
    heap.copy.cmds.find? (fun c => c.id = 5) = none ∧
    (let s := { heap with copy.cmds := [fillCmd none] }
     s.copy.cmds.find? (fun c => c.id = 5) = some (fillCmd none) ∧ canStart s (fillCmd none) = true ∧
     Memory.wf s.mem = true ∧ (fillCmd none).op = .fill ∧ 0 < (8 : Word).toNat ∧ 0x300 % 128 + 8 ≤ 128 ∧
     okAnd (engTranslate (fillCmd none).space .store 0x300 8 s)
       (fun x => decide (x.2 = 0x300 ∧ x.1.mem = s.mem ∧ deliverCode 0x300 x.1 = none) && localMem x.1 0x300) = true ∧
     isHostWin 0x300 = false ∧ homeDie 0x300 = (fillCmd none).core / 64 ∧
     (let c := { fillCmd none with op := .warm false, space := far.ctx.space, desc.src := 0x300 }
      let s := { heap with copy.cmds := [c] }
      canStart s c = true ∧ c.desc.src.toNat % 128 + c.desc.len.toNat ≤ 128 ∧ 0 < c.desc.len.toNat ∧
      okAnd (engTranslate c.space .load c.desc.src.toNat 1 s) (fun x => decide (x.2 = 0x3000000300) &&
        localMem x.1 0x3000000300 && !tokensHeld x.1.coh c.core (lineOf 0x3000000300) && !deadHome x.1 0x3000000300) = true ∧
      homeDie 0x3000000300 ≠ c.core / 64)) ∧
    (let s := { heap with copy.cmds := [fillCmd (some (2, 0x300))] }
     canStart s (fillCmd (some (2, 0x300))) = false ∧ canEnd s (fillCmd (some (2, 0x300))) = true ∧
     Memory.wf s.mem = true ∧ (fillCmd none).cw = some (0x400, false) ∧ offsetOf 0x400 < hbmEnd ∧
     deadHome s 0x400 = false ∧ localMem s 0x400 = true ∧ homeDie 0x400 = (fillCmd none).core / 64) ∧
    { heap with ctx.aux.sent := .gang 4 [0] }.ctx.aux.sent = .gang 4 [0] ∧
    { heap with ctx.aux.sent := .stall 7 0 3 [] }.ctx.aux.sent = .stall 7 0 3 [] ∧
    (∃ s1, fetchDecode { atTmma with ctx.aux.sent := .stall 7 0 3 [] } = .exec (.tmma fm .fp32 false 1 0 1 2 3) s1 ∧
      ∃ t, exec (.tmma fm .fp32 false 1 0 1 2 3) s1 = .next t) ∧
    (∃ s1, fetchDecode { atTmma with ctx.aux.sent := .timedOut 7 } = .exec (.tmma fm .fp32 false 1 0 1 2 3) s1) ∧
    (∃ s1, fetchDecode { atTmma with ctx.aux.sent := .resumed 9 [] } = .exec (.tmma fm .fp32 false 1 0 1 2 3) s1) ∧
    heap.ctx.aux.sent = .nothing :=
  ⟨by decide +kernel, by decide +kernel, by decide +kernel, rfl, rfl,
    ⟨_, rfl, tmma_answers _⟩, ⟨_, rfl⟩, ⟨_, rfl⟩, by decide +kernel⟩

theorem witness_CommandSteps :
    (let s := { heap with copy.cmds := [fillCmd none] }
     okAnd (engTranslate (fillCmd none).space .store 0x300 8 s) (fun x => !tokensHeld x.1.coh 0 (lineOf 0x300)) = true ∧
     (fillCmd none).raced = [] ∧ 0x300 + 8 < 2 ^ 64) ∧
    (let s := { heap with copy.cmds := [fillCmd (some (2, 0x300))] }
     okAnd (engTranslate (fillCmd none).space .store 0x400 8 { s with copy.cmds := [], copy.locks := [] })
       (fun x => decide (x.2 = 0x400)) = true ∧ (fillCmd none).scrambles = false ∧
     canEnd { s with copy.cmds := [fillCmd none] } (fillCmd none) = false) ∧
    (let c := { fillCmd (some (9, 0)) with op := .collective 0, scrambles := true }
     canEnd { heap with copy.cmds := [c] } c = true ∧
     okAnd (scrambleDst c { heap with copy.cmds := [c] }) (fun _ => true) = true) := by
  refine ⟨by decide +kernel, by decide +kernel, by decide +kernel⟩

/-- A `TMMA` of INT8 over c1, t2 and t3 stands at the program counter and has stalled, with room in the cellar or without. -/
def stalled (eng : Vector Engine 128) (cell : Word) : State :=
  { (atLevel 3).withFetchWord 32 0x0123F986 with
    eng := eng, ctx.t := tiles.ctx.t, ctx.c := Vector.replicate 8 ⟨.int, 1, 1, [[[cell]]], [], []⟩
    ctx.aux.sent := .stall 1 0 3 [0], boot.bootst := 5 }

theorem witness_StallResumes :
    (∃ s1, fetchDecode (stalled tiles.eng 0) = .exec (.tmma fm .int8 false 1 0 1 2 3) s1 ∧
      s1.ctx.aux.sent = (stalled tiles.eng 0).ctx.aux.sent ∧ startAt fm s1 = some (0, 0) ∧ tileReady s1 ∧
      clean s1 ([] ++ [.ctl 0x002]) = true ∧
      (let o := tmmaOp .int8 false false 1 0 1 2 3 s1
       tmmaIll o 2 3 = false ∧ tmmaPoisoned o = false ∧ stuckAt (runTmmaOp o).takes (freeByBand s1) = none ∧
       faultFree s1 o (runTmmaOp o) = true)) ∧
    stallEnds (stalled tiles.eng 0) = true ∧ stallEnds (stalled noRoom.eng 0x7FFFFF) = false :=
  ⟨⟨_, rfl, rfl, by decide +kernel, ⟨rfl, by decide +kernel⟩, by decide +kernel, by decide +kernel⟩, by decide +kernel⟩

/-! ### Traps and system instructions -/

/-- Every level has a handler, and everything is delegated down to a level. -/
def handled (pl : Nat) (deleg : Word) : State :=
  { two 0x70 0x70 (mapped pl) with
    ctx.prv.sup.tvec := 0x1000, ctx.prv.hyp.tvec := 0x2000, ctx.prv.mon.tvec := 0x3000, ctx.ctl.utvec := 0x4000
    ctx.prv.sup.deleg := deleg, ctx.prv.hyp.deleg := deleg, ctx.prv.mon.deleg := deleg }

/-- No level has a handler but the hypervisor. -/
def hypOnly (pl : Nat) : State := { mapped pl with ctx.prv.hyp.tvec := 0x2000 }

theorem witness_CallsEnterHandlers :
    vecBase ((handled 3 0).trapSet (max 1 (handled 3 0).pl)).tvec ≠ 0 ∧
    vecBase ((handled 0 0).trapSet (max 1 (handled 0 0).pl)).tvec ≠ 0 ∧
    vecBase ((handled 3 0).trapSet (max 2 (handled 3 0).pl)).tvec ≠ 0 ∧ 1 ≤ (handled 1 0).pl ∧
    (handled 0 0).ctx.prv.mon.deleg.getLsbD 9 = false ∧
    (let s := handled 0 0x200
     s.pl = 0 ∧ s.ctx.prv.mon.deleg.getLsbD 9 = true ∧ s.ctx.prv.hyp.deleg.getLsbD 9 = true ∧
     s.ctx.prv.sup.deleg.getLsbD 9 = true ∧ vecBase s.ctx.ctl.utvec ≠ 0 ∧ s.ctx.ubusy = false) ∧
    (hypOnly 1).pl ≤ 1 ∧ vecBase ((hypOnly 1).trapSet 1).tvec = 0 ∧ vecBase ((hypOnly 1).trapSet 2).tvec ≠ 0 ∧
    1 ≤ (hypOnly 1).pl ∧ vecBase ((hypOnly 1).trapSet 3).tvec = 0 := by decide +kernel

theorem witness_TretReturns :
    (∀ l ∈ [1, 2, 3], (handled l 0).pl = l ∧
      clean (handled l 0) [.ctl 0x100, .ctl (256 * (handled l 0).pl + 3), .ctl (256 * (handled l 0).pl + 4)] = true) ∧
    (let s := { handled 0 0 with ctx.ctl.ucause := 0x8000000000000009 }
     s.pl = 0 ∧ s.ctx.ubusy = true ∧ s.ctx.prv.status.getLsbD 7 = false ∧ clean s [.ctl 0x005, .ctl 0x006] = true) ∧
    (handled 0 0).pl = 0 ∧ (handled 0 0).ctx.ubusy = false := by decide +kernel

theorem witness_PrivilegeTraps : (handled 0 0).pl = 0 ∧ 0x100 ≤ 0x100 ∧ 0x003 ∈ [0x003, 0x010, 0x011, 0x012] ∧
    0x001 ∈ userRegs ∧ (handled 2 0).pl < 3 ∧ 1 ≤ (handled 1 0).pl ∧ 0x220 ∈ highRegs ∧ (handled 1 0).pl < 0x220 / 256 ∧
    1 ≤ (handled 2 0).pl ∧ 0x310 ∈ highRegs ∧ (handled 2 0).pl < 0x310 / 256 := by decide +kernel

theorem witness_SystemRegisterAccess : 0x308 ∈ userRegs ++ highRegs ∧ 0x001 ∈ userRegs ++ highRegs ∧
    0x308 / 256 ≤ (handled 3 0).pl ∧ 0x001 / 256 ≤ (handled 0 0).pl ∧ 1 ≤ (handled 3 0).pl ∧ 1 ≤ (handled 1 0).pl ∧
    0x10A / 256 ≤ (handled 1 0).pl ∧ 0x006 ∈ [0x004, 0x006] ∧ (handled 0 0).pl = 0 ∧
    clean (handled 3 0) [.ctl 0x308] = true ∧ clean (handled 0 0) [.ctl 0x001] = true ∧
    clean (handled 3 0) [.g 6] = true ∧ clean (handled 1 0) [.g 6] = true ∧ clean (handled 0 0) [.g 6] = true ∧
    bits (rg (wg (handled 0 0) 6 0x80) 6) 5 3 < 5 := by decide +kernel

/-- Fifteen repairs of tile slots. -/
def repaired : List RepairEntry := (List.range 15).map (fun i => ⟨false, 47, i⟩)

theorem witness_RegisterWriteEvents :
    { handled 1 0 with core.halted := true }.core.halted = true ∧ (handled 1 0).core.halted = false ∧ (handled 2 0).core.halted = false ∧
    (handled 3 0).core.halted = false ∧ (handled 0 0).core.halted = false ∧ storesPerformed 4 (handled 1 0) = true ∧ 1 ≤ (handled 1 0).pl ∧ 2 ≤ (handled 2 0).pl ∧ storesPerformed 4 (handled 2 0) = true ∧
    (0x8005 : Word).getLsbD 15 = true ∧
    (msixVector { (handled 2 0).host with msix := [⟨0, 5, 0, 0⟩] } 0 (bits (0x8005 : Word) 0 11)).data.getLsbD 32 = false ∧
    (handled 2 0).cur < 256 ∧ selEntry (handled 2 0) < 8 ∧ selEntry { handled 2 0 with core.engsel := 0x307 } = 7 ∧
    (0x8000000000000101 : Word).getLsbD 63 = true ∧ 256 < bits (0x8000000000000101 : Word) 0 9 + 0 ∧
    (let s := handled 3 0
     let v : Word := 0x2F3F
     let e : RepairEntry := ⟨v.getLsbD 14, bits v 8 6, bits v 0 6⟩
     3 ≤ s.pl ∧ s.cur < 256 ∧ e ∉ (engineAt s (repairEngine s)).repair ∧ e.slot < 48 ∧ e.slot = 47 ∧
     (repaired.filter (fun x => x.acc = false)).length < 16 ∧
     (⟨false, 47, 14⟩ : RepairEntry) ∈ (engineAt (setEngine (repairEngine s) { Engine.reset with repair := repaired } s)
       (repairEngine s)).repair ∧
     (⟨true, 32, 0⟩ : RepairEntry) ∉ (engineAt s (repairEngine s)).repair ∧ 32 ≤ 32 ∧
     (⟨false, 3, 0⟩ : RepairEntry) ∉ repaired ++ [⟨false, 47, 15⟩] ∧
     16 ≤ ((repaired ++ [(⟨false, 47, 15⟩ : RepairEntry)]).filter (fun x => x.acc = false)).length) ∧
    0x308 ∈ [0x101, 0x201, 0x301, 0x209, 0x220, 0x308] ∧ (handled 0 0).pl = 0 ∧ 0x100 ≤ 0x100 := by decide +kernel

theorem witness_Removals :
    (let s := { handled 1 0 with ctx.regs.g := (handled 1 0).ctx.regs.g.set 7 0x8000000000000FFF }
     let t := { handled 2 0 with ctx.regs.g := (handled 2 0).ctx.regs.g.set 7 0x8000000000000FFF }
     let u := wg (handled 1 0) 7 0x40000000_0FFF0FFF
     1 ≤ u.pl ∧ clean u [.g 6, .g 7] = true ∧ bits (rg u 7) 28 34 = 0 ∧ bits (rg u 7) 12 4 = 0 ∧
     ¬ 2 ≤ bits (rg u 7) 62 2 ∧ 2 ≤ bits (rg t 7) 62 2 ∧ 2 ≤ t.pl ∧ bits (rg t 7) 28 34 = 0 ∧ bits (rg t 7) 12 4 = 0 ∧
     s.xlat.removals.any (fun r => decide (r.gtid = s.ctx.prv.gtid)) = false ∧ storesPerformed 2 s = true ∧
     s.xlat.removals = []) ∧
    { handled 1 0 with xlat.removals := [⟨1, 0, 0, 0, 1⟩] }.xlat.removals = ⟨1, 0, 0, 0, 1⟩ :: [] ∧
    quiet (quiesce { handled 1 0 with xlat.removals := [⟨1, 0, 0, 0, 1⟩] }) = true := by decide +kernel

theorem witness_CacheLineResults : 1 ≤ (handled 1 0).pl ∧ clean (handled 1 0) [.g 6] = true ∧
    storesPerformed 2 (handled 1 0) = true ∧
    translate .load (rg (handled 1 0) 6 + BitVec.ofInt 64 (0 * 128)) 1 (handled 1 0) = .ok (handled 1 0, ⟨0x70, false⟩) ∧
    translate .store (rg (handled 1 0) 6 + BitVec.ofInt 64 (0 * 128)) 1 (handled 1 0) = .ok (handled 1 0, ⟨0x70, false⟩) ∧
    Memory.wf (handled 1 0).mem = true ∧ localMem (handled 1 0) (lineOf 0x70 * 128) = true :=
  ⟨by decide +kernel, by decide +kernel, by decide +kernel, rfl, rfl, by decide +kernel, by decide +kernel⟩

/-- `handled`, with a context of the same partition in the lodge. -/
def lodged (pl : Nat) : State := { handled pl 0 with core.lodge := some (Ctx.reset 9 0x200) }

theorem witness_WaitHaltAndSwap : interruptWaits { handled 1 0 with core.ints := [⟨6, 0⟩] } = true ∧
    interruptWaits (handled 1 0) = false ∧ 1 ≤ (handled 1 0).pl ∧ 3 ≤ (handled 3 0).pl ∧ (handled 1 0).core.lodge = none ∧
    1 ≤ (lodged 1).pl ∧ (lodged 1).core.lodge = some (Ctx.reset 9 0x200) ∧ (Ctx.reset 9 0x200).pid = (lodged 1).pid ∧
    (let s := { lodged 1 with core.swapping := true }
     s.core.swapping = true ∧ s.core.act = true ∧ s.core.lodge = some (Ctx.reset 9 0x200) ∧ s.ctx.aux.sent = .nothing ∧
     s.ctx.aux.repLeft = 0 ∧ pinRivals s s.cur false = [] ∧ pinRivals s s.cur true = []) ∧
    (lodged 1).core.swapping = false := by decide +kernel

/-- `g6` names a save area at 0x100000, and the area's FLAGS have a byte at bits 23:16. -/
def withArea (flags : Byte) : State :=
  { wg (handled 1 0) 6 0x100000 with
    ctx.prv.pwlimit := 0x200000, mem := if flags = 0 then [] else [⟨0x100002, flags⟩] }

/-- A restore finds an area intact. -/
def restores : Restored → Bool
  | .ok _ => true
  | _ => false

theorem restores_exists {r : Restored} (h : restores r = true) : ∃ c, r = .ok c := by
  cases r with
  | ok c => exact ⟨c, rfl⟩
  | bad _ _ => cases h
  | outside _ => cases h

theorem checks {x : Except Stop Unit} (h : okAnd x (fun _ => true) = true) : x = .ok () := by
  cases x with
  | ok u => rfl
  | error _ => cases h

theorem witness_ContextLoadAndSpill :
    (let s := withArea 0
     1 ≤ s.pl ∧ clean s [.g 6] = true ∧ checkArea .load (rg s 6) s = .ok () ∧ checkArea .store (rg s 6) s = .ok () ∧
     storesPerformed 4 s = true ∧ s.pl = 1 ∧ areaPid s (rg s 6).toNat = s.pid ∧ s.core.lodge = none) ∧
    (let s := { withArea 0 with ctx.prv.partid := 5, core.lodge := some (Ctx.reset 9 0x200) }
     s.pl = 1 ∧ s.core.lodge.any (fun c => decide (c.pid ≠ s.pid)) = true) ∧
    { withArea 0 with core.lodge := (lodged 1).core.lodge }.core.lodge.isSome = true ∧
    (Ctx.reset 9 0x200).pid = (withArea 0).pid ∧ (Ctx.reset 9 0x200).aux.sent.outlives = false ∧
    (areaFlags (withArea 4) 0x100000).getLsbD 18 = true ∧
    (areaFlags (withArea 2) 0x100000).getLsbD 18 = false ∧ (areaFlags (withArea 2) 0x100000).getLsbD 17 = true ∧
    (areaFlags (withArea 8) 0x100000).getLsbD 18 = false ∧ (areaFlags (withArea 8) 0x100000).getLsbD 17 = false ∧
    performedFor 9 4 (withArea 0) = true ∧ (areaFlags (withArea 8) 0x100000).getLsbD 19 = true ∧
    (∃ c, restoreUnsealed (withArea 8) (withArea 8).ctx.prv 0x100000 = .ok c) :=
  ⟨⟨by decide +kernel, by decide +kernel, checks (by decide +kernel), checks (by decide +kernel), by decide +kernel⟩,
    by decide +kernel, fourAnd (by decide +kernel) <| fourAnd (by decide +kernel) <|
    ⟨by decide +kernel, by decide +kernel, restores_exists (by decide +kernel)⟩⟩

/-- Page tables at 0x10000: page 5 is frame 0x40, in native form; page 6 is compressed under handle 1. -/
def paged (pl : Nat) : State :=
  { wg (atLevel pl) 6 0x5000 with
    ctx.prv.ptbase := 0x10000
    mem := [⟨0x10000, 1⟩, ⟨0x10002, 2⟩, ⟨0x20000, 1⟩, ⟨0x20002, 3⟩, ⟨0x30000, 1⟩, ⟨0x30001, 0x10⟩, ⟨0x30002, 3⟩,
      ⟨0x31028, 0xDF⟩, ⟨0x3102A, 4⟩, ⟨0x3102F, 0x80⟩, ⟨0x31031, 0x10⟩, ⟨0x31037, 0x40⟩] }

/-- As `paged`, with another package present. -/
def paged2 : State := { wg (paged 1) 7 1 with fab.present := [1] }

/-- The state that a load of page 5 leaves. -/
def paged2Tlb : State := { paged2 with core.tlb := [⟨0, 0, 0, false, 0x5000, 0x80000000000400DF, 0x31028⟩] }

/-- Whether a page can be compressed, and to which size, is open: either value meets its clauses. -/
theorem witness_WatchAndPageResults :
    (let s := handled 1 0
     1 ≤ s.pl ∧ clean s [.g 6, .g 7] = true ∧
     (splitRange s.ctx.prv.watchf (rg s 6).toNat ((rg s 6).toNat + (rg s 7).toNat)).count ≤ 65536 ∧
     (splitRange s.ctx.prv.watchf 0 (64 * 65536)).count = 65536 ∧
     65536 < (splitRange s.ctx.prv.watchf 0 (64 * 65536 + 64)).count ∧ s.core.lodge = none) ∧
    (lodged 1).core.lodge = some (Ctx.reset 9 0x200) ∧ (Ctx.reset 9 0x200).pid = (lodged 1).pid ∧
    (rg (wg (lodged 1) 7 63) 7).toNat < 64 ∧ (lodged 1).core.sb.length < 96 ∧
    (let s := two 0x1000 64 (lodged 1)
     ∃ x, dumpPieces (dumpPlan s.pl s.cyc (decide ((spillable s (Ctx.reset 9 0x200)).2 ≠ 0)) (rg s 6) (rg s 7).toNat
         (spillable s (Ctx.reset 9 0x200)).1) s = .ok x ∧ okAnd (storePieces x.2.1 x.1) (fun _ => true) = true) ∧
    1 ≤ paged2.pl ∧ clean paged2 [.g 6, .g 7] = true ∧ bits (rg paged2 7) 8 56 = 0 ∧ bits (rg paged2 7) 0 8 = 1 ∧
    translate .load (rg paged2 6) 1 paged2 = .ok (paged2Tlb, ⟨0x40000, false⟩) ∧
    heapAddr (handled 1 0).ctx.space 0x70 = true ∧ heapAddr paged2Tlb.ctx.space 0x5000 = false ∧
    pageOf paged2Tlb paged2Tlb.ctx.space 0x5000 = some (0x40, 1, 0) ∧
    meetsHeap paged2Tlb (0x40 * 4096) ((0x40 + 1) * 4096) = false ∧
    meetsArea paged2Tlb (0x40 * 4096) ((0x40 + 1) * 4096) = false ∧ offsetOf 0x40000 < hbmEnd ∧
    meetsHeap { paged2Tlb with ctx.ctl.hlimit := 0x50000 } (0x40 * 4096) ((0x40 + 1) * 4096) = true ∧
    zippedBytes 0x80000000000400DF = 4096 ∧ ownerOf (paged 1) 0x40000 = (paged 1).pkg ∧
    pageLocked (paged 1) 0x40000 4096 = false ∧
    ownerOf { paged 1 with xlat.owners := [(0x40, 1)] } 0x40000 ≠ (paged 1).pkg ∧
    { paged2Tlb with xlat.handOvers := [(0x40, 1)] }.xlat.handOvers.any (fun e => inFrames 0x40 1 e.1) = true ∧
    paged2Tlb.xlat.handOvers.any (fun e => inFrames 0x40 1 e.1) = false ∧
    (List.range 1).all (fun i => decide (ownerOf paged2Tlb ((0x40 + i) * 4096) = 0)) = true ∧
    (List.range 1).all (fun i => decide (ownerOf paged2Tlb ((0x40 + i) * 4096) = 1)) = false ∧
    roomAt 2 1 paged2Tlb = none ∧
    (rg paged2 6).toNat < 2 ^ 56 ∧ walk (paged 1) (paged 1).ctx.space 0x6000 = .compressed 0 0x4000000000001000 0x31030 ∧
    walk (paged 1) (paged 1).ctx.space 0x5000 = .leaf 0 0x80000000000400DF 0x31028 ∧
    step4 (paged 1) (paged 1).ctx.space (leafPhys 0 0x80000000000400DF 0x5000) 1 = true ∧ storesPerformed 2 (paged 1) = true := by
  refine ⟨by decide +kernel, by decide +kernel, by decide +kernel, by decide +kernel, by decide +kernel,
    okAnd_exists (by decide +kernel), by decide +kernel, by decide +kernel, by decide +kernel, by decide +kernel, rfl, ?_⟩
  decide +kernel

/-- As `paged2Tlb`, with the frame owned by package 1, this package as the target and one frame in its pool. -/
def paged3 : State :=
  { wg paged2Tlb 7 0 with
    xlat.owners := [(0x40, 1)], xlat.pool := some ⟨0x7000, 16⟩, mem := ⟨0x7008, 1⟩ :: paged2.mem }

/-- The clause on a page that moves, with room at its target. -/
theorem witness_PageMoves :
    (∃ s2, roomAt 0 1 paged3 = some s2) ∧ 1 ≤ paged3.pl ∧ clean paged3 [.g 6, .g 7] = true ∧ bits (rg paged3 7) 0 64 = 0 ∧
    translate .load (rg paged3 6) 1 paged3 = .ok (paged3, ⟨0x40000, false⟩) ∧
    heapAddr paged3.ctx.space 0x5000 = false ∧ pageOf paged3 paged3.ctx.space 0x5000 = some (0x40, 1, 0) ∧
    meetsHeap paged3 (0x40 * 4096) ((0x40 + 1) * 4096) = false ∧
    meetsArea paged3 (0x40 * 4096) ((0x40 + 1) * 4096) = false ∧
    paged3.xlat.handOvers.any (fun e => inFrames 0x40 1 e.1) = false ∧
    (List.range 1).all (fun i => decide (ownerOf paged3 ((0x40 + i) * 4096) = 0)) = false :=
  ⟨Option.isSome_iff_exists.mp (by decide +kernel), by decide +kernel⟩

/-- `paged2Tlb` with other permissions in its entry. -/
def tlbWith (low : Nat) : State :=
  { paged 1 with core.tlb := [⟨0, 0, 0, false, 0x5000, 0x8000000000040000 + BitVec.ofNat 64 low, 0x31028⟩] }

/-- Page 7 is not present, and the walker remembers it. -/
def forgotten : State := { paged 1 with core.notPresent := [⟨0, 0, 0, 7⟩] }

/-- As `paged`, in a partition whose window ends at a limit. -/
def windowed (limit : Word) : State := { paged 1 with ctx.prv.partid := 5, ctx.prv.pwlimit := limit }

/-- The clauses ask what an access and a state are; the TLB's entry is found by its page. -/
theorem witness_TranslationResults :
    (2 ^ 56 ≤ (0x100000000000000 : Word).toNat ∧ heapAddr heap.ctx.space 0x70 = true ∧
     heapAddr (paged 1).ctx.space 0x5000 = false) ∧
    ((paged 1).core.tlb.find? (fun x => x.hits (paged 1).ctx.space 0x5000) = none ∧
     (paged 1).core.notPresent.find? (fun x => x.hits (paged 1).ctx.space 0x5000) = none) ∧
    (∃ x, forgotten.core.notPresent.find? (fun x => x.hits forgotten.ctx.space 0x7000) = some x) ∧
    (∀ n ∈ [0xDF, 0x57, 0x5F],
      ∃ x, (tlbWith n).core.tlb.find? (fun x => x.hits (tlbWith n).ctx.space 0x5000) = some x ∧
        (x.pte == 0x8000000000040000 + BitVec.ofNat 64 n) = true) ∧
    ((0x80000000000400DF : Word).getLsbD 2 = true ∧ (0x80000000000400DF : Word).getLsbD 3 = true ∧
     (0x8000000000040057 : Word).getLsbD 3 = false ∧ (0x800000000004005F : Word).getLsbD 3 = true ∧
     (0x800000000004005F : Word).getLsbD 7 = false ∧ (0x80000000000400DF : Word).getLsbD 7 = true ∧
     (0x80000000000400DF : Word).getLsbD 5 = false ∧ (paged 0).pl = 0 ∧ (paged 1).pl ≠ 0) ∧
    (paged 1).core.act = true ∧ { paged 1 with core.act := false }.core.act = false := by
  refine ⟨by decide +kernel, by decide +kernel, Option.isSome_iff_exists.mp (by decide +kernel), ?_, by decide +kernel,
    by decide +kernel⟩
  intro n h
  exact Option.any_eq_true _ _ |>.mp (entryHits n h)
where
  entryHits : ∀ n ∈ [0xDF, 0x57, 0x5F], ((tlbWith n).core.tlb.find? (fun x => x.hits (tlbWith n).ctx.space 0x5000)).any
      (fun x => x.pte == 0x8000000000040000 + BitVec.ofNat 64 n) = true := by decide +kernel

/-- Each way a walk can end. -/
theorem witness_PageWalks :
    (walk (paged 1) (paged 1).ctx.space 0x7000 = .stop 0 1 ∧
     (let s := { paged 1 with ctx.prv.ptbase := 0x11000 }
      walk s s.ctx.space 0x7000 = .stop 3 3) ∧
     walk { paged 1 with coh.poisoned := [lineOf 0x31028] } (paged 1).ctx.space 0x5000 = .poison ∧
     walk (paged 1) (paged 1).ctx.space 0x6000 = .compressed 0 0x4000000000001000 0x31030 ∧
     { paged 1 with modes := 2 }.modes.getLsbD 1 = true ∧
     (expandPage 0x4000000000001000 0x31030 (paged 1)).isSome = false) ∧
    (walk (paged 1) (paged 1).ctx.space 0x5000 = .leaf 0 0x80000000000400DF 0x31028 ∧
     step4 (paged 1) (paged 1).ctx.space 0x40000 1 = true ∧
     step4 (windowed 0x40000) (windowed 0x40000).ctx.space 0x40000 1 = false ∧ Memory.wf (paged 1).mem = true) ∧
    (let held (s : State) (tbl n : Nat) : Bool := inWindow s.ctx.space tbl n && !inCarve s tbl 8 && reachable s tbl
     held (windowed 0x10000) 0x31000 4096 = false ∧ held (paged 1) 0x31000 4096 = true ∧ offsetOf 0x31000 < hbmEnd ∧
     held (paged 1) 0xC000000000 65536 = true ∧ isDevReg 0xC000000000 = true ∧
     held { paged 1 with host.trained := true } 0x10000000000 65536 = true ∧ isHostWin 0x10000000000 = true) ∧
    (∀ i ∈ List.range 16, (readPte (paged 1) (0x31000 + 8 * i)).getLsbD 61 = false) ∧
    ∀ i ∈ List.range 16, readPte (paged 1) (0x32000 + 8 * i) &&& ~~~0xC0#64 = readPte (paged 1) 0x32000 &&& ~~~0xC0#64 := by
  refine ⟨by decide +kernel, by decide +kernel, by decide +kernel, by decide +kernel, by decide +kernel⟩

/-- As `paged`, with page 5 in the device registers, or in the host window. -/
def pagedTo (byte4 byte5 : Byte) : State :=
  { paged 1 with mem := ((paged 1).mem.filter (fun c => decide (c.1 < 0x3102A))) ++
      (if byte4 = 0 then [] else [⟨0x3102C, byte4⟩]) ++ (if byte5 = 0 then [] else [⟨0x3102D, byte5⟩]) ++ [⟨0x3102F, 0x80⟩] }

theorem witness_DeviceLines :
    isDevReg 0xC000000000 = true ∧ isHostWin 0x10000000000 = true ∧
    (∃ s1, translate .load (rg (pagedTo 0xC0 0) 6 + BitVec.ofInt 64 (0 * 128)) 1 (pagedTo 0xC0 0) =
      .ok (s1, ⟨0xC000000000, false⟩)) ∧
    (∃ s1, translate .store (rg (pagedTo 0 1) 6 + BitVec.ofInt 64 (0 * 128)) 1 (pagedTo 0 1) =
      .ok (s1, ⟨0x10000000000, false⟩)) ∧
    1 ≤ (pagedTo 0xC0 0).pl ∧ clean (pagedTo 0xC0 0) [.g 6] = true :=
  ⟨by decide +kernel, by decide +kernel, ⟨_, rfl⟩, ⟨_, rfl⟩, by decide +kernel, by decide +kernel⟩

/-- No store is under way when a page is compressed. -/
theorem witness_Quiet : quiet (quiesce (paged 1)) = true := by decide +kernel

/-! ### The memory system -/

/-- A write-through of die 1 to line 0, which its home has or has not applied. -/
def wt (applied : Bool) : WriteThrough :=
  ⟨1, 0, 1, 0, 0x78, [1, 2, 3, 4, 5, 6, 7, 8], 0xFF, false, false, applied, some 4, [], 0, none⟩

/-- `heap` with a line's coherence records. -/
def busy : State :=
  { heap with
    coh.wts := [wt false, wt true]
    coh.fills := [⟨0, 0x60000000, 0, (List.replicate 128 0, false, some 1), 0⟩]
    coh.retained := [⟨0, 0, 0⟩]
    coh.confirms := [⟨1, 0, 0, some 3, none, 0⟩, ⟨1, 0, 1, some 3, some true, 0⟩]
    coh.atomics := [⟨1, 0, 1, 0x78, 8, 8, 5, 0⟩] }

theorem witness_MemorySystemEvents :
    heap.coh.wts.find? (fun w => w.die = 1 ∧ w.line = 0 ∧ ¬ w.applied) = none ∧
    busy.coh.wts.find? (fun w => w.die = 1 ∧ w.line = 0 ∧ ¬ w.applied) = some (wt false) ∧ Memory.wf busy.mem = true ∧
    busy.coh.wts.find? (fun w => w.die = 1 ∧ w.line = 0 ∧ w.applied) = some (wt true) ∧
    localMem heap (0x60000000 * 128) = true ∧ homeDie (0x60000000 * 128) ≠ 0 ∧ homeDie (0x60000000 * 128) ≠ 3 ∧
    busy.coh.fills.find? (fun f => f.die = 0 ∧ f.line = 0x60000000) =
      some ⟨0, 0x60000000, 0, (List.replicate 128 0, false, some 1), 0⟩ ∧ 3 ≤ 3 ∧
    copyOf busy.coh 0 0x60000000 = none ∧
    (let c := { busy.coh with copies := [farCopy 0] }
     copyOf c 0 0x60000000 = some (farCopy 0) ∧ ageOf c (farCopy 0) = 0) ∧
    (heap.coh.sweeping[3]?).getD false = false ∧
    ((heap.coh.sweeping.set 3 true)[3]?).getD false = true ∧
    heap.coh.persistent.any (fun e => decide (e.1 = 255 / 64 ∧ e.2.1 = 255)) = false ∧
    heap.coh.persistent.any (fun e => decide (e.1 = 255 / 64 ∧ e.2.1 = 255)) = false ∧
    (let c := { heap.coh with persistent := [(3, 254, 0), (3, 255, 1)] }
     c.persistent.any (fun e => decide (e.1 = 255 / 64 ∧ e.2.1 = 255)) = true ∧
     c.persistent.any (fun e => decide (e.1 = 253 / 64 ∧ e.2.1 = 253)) = false ∧
     activePersistent c (253 / 64) 0 ≠ none) ∧
    activePersistent heap.coh (255 / 64) 0 = none ∧
    busy.coh.retained.find? (fun r => r.die = 0 ∧ r.slice = 0) = some ⟨0, 0, 0⟩ ∧
    (((heap.coh.gencur.set 0 32767)[0]?).getD 0 + 2 ^ 32 - 0) % 2 ^ 32 < 2 ^ 15 ∧
    2 ^ 15 ≤ (((heap.coh.gencur.set 0 32768)[0]?).getD 0 + 2 ^ 32 - 0) % 2 ^ 32 ∧
    busy.coh.confirms.find? (fun c => c.gtid = BitVec.ofNat 64 1 ∧ c.line = 0 ∧ c.answer = none) =
      some ⟨1, 0, 0, some 3, none, 0⟩ ∧
    busy.coh.confirms.find? (fun c => c.gtid = BitVec.ofNat 64 1 ∧ c.line = 1 ∧ c.answer.isSome) =
      some ⟨1, 0, 1, some 3, some true, 0⟩ ∧
    busy.coh.confirms.find? (fun c => c.gtid = BitVec.ofNat 64 1 ∧ c.line = 1) = some ⟨1, 0, 1, some 3, some true, 0⟩ ∧
    busy.ctx.prv.gtid = BitVec.ofNat 64 1 ∧ busy.core.act = true ∧
    1 ≠ heap.pkg ∧ Memory.wf heap.mem = true ∧ heap.xlat.proposals = [] ∧ 0x78 % 128 + 8 ≤ 128 ∧
    (seenOf heap.fab 1 heap.pkg).fresh 4 = true ∧ heap.rel.deadPkgs.contains 1 = false ∧
    (seenOf { heap.fab with seen := [⟨1, 0, 5, [7]⟩] } 1 0).fresh 4 = false ∧
    (seenOf { heap.fab with seen := [⟨1, 0, 5, [7]⟩] } 1 0).fresh 7 = false ∧
    { heap with rel.deadPkgs := [1] }.rel.deadPkgs.contains 1 = true ∧ offsetOf 0x78 < hbmEnd ∧
    inCarve heap 0x2FFFFFFF80 8 = true ∧ offsetOf 0x2FFFFFFF80 < hbmEnd ∧
    (seenOf heap.fab 1 heap.pkg).above.length ≤ 65536 ∧
    localMem heap 0x78 = true ∧ deadHome heap 0x78 = false ∧
    deadHome { heap with rel.fenced := heap.rel.fenced.set 0 true } 0x78 = true ∧ inCarve heap 0x78 8 = false ∧
    (let s := { heap with xlat.owners := [(0, 1)] }
     localMem s 0x78 = false ∧ inCarve s 0x78 8 = false ∧ originOf 0x78 = s.pkg) ∧
    busy.coh.atomics.find? (fun q => q.die = 1 ∧ lineOf q.pa = 0) = some ⟨1, 0, 1, 0x78, 8, 8, 5, 0⟩ ∧
    AmoOp.ofCode 8 = .swap ∧
    { busy with coh.wts := [] }.coh.wts = [] ∧ localMem busy 0x78 = true ∧ busy.ctx.prv.gtid = 1 ∧
    linePoisoned busy 0 = false ∧ linePoisoned { busy with coh.poisoned := [0] } 0 = true := by decide +kernel

/-- The clauses of `MemorySystemEvents` on incarnations and on requests that go on to another package. -/
theorem witness_MessageEvents :
    ((wt false).inc = incOf busy (.die 1) ∧
     (wt false).inc ≠ incOf { busy with rel.incarnation := [(agentKey (.die 1), 1)] } (.die 1) ∧
     0 = incOf heap (.package 1) ∧ 1 ≠ incOf heap (.package 1) ∧ localMem heap (lineOf 0x78 * 128) = true ∧
     (agentKey (.package 1), lineOf 0x78) ∉ heap.rel.scrubbed) ∧
    (let s := { heap with xlat.owners := [(0, 1)] }
     localMem s 0x78 = false ∧ inCarve s 0x78 8 = false ∧ pairFull s 0x78 = false ∧
     pairFull { s with fab.msgs := List.replicate 32752 ⟨0, 1, 4, 1, 0, .write 0x78 8 5, false, false, false, true, 0, none, [], none⟩ }
       0x78 = true) := by
  refine ⟨by decide +kernel, by decide +kernel, by decide +kernel, by decide +kernel, ?_⟩
  simp only [pairFull, pairFullTo, List.filter_replicate]
  rw [if_pos (by decide +kernel), List.length_replicate]
  decide

/-! ### Services -/

/-- The monitor's handler was entered by `MVC` with a number from a level; `g5` to `g8` are its arguments. -/
def calls (n lvl : Nat) (a b c d : Word) (s : State) : State :=
  { wg (wg (wg (wg s 5 a) 6 b) 7 c) 8 d with
    ctx.prv.status := 3
    ctx.prv.mon.cause := BitVec.ofNat 64 (lvl * 2 ^ 62 + n * 2 ^ 16 + 0x12)
    boot.fwHandler := some s.pc }

theorem witness_ServiceCalls :
    firmwareCalled heap = false ∧
    firmwareCalled (calls 0x40 1 0 0 0 0 heap) = true ∧ bits (calls 0x40 1 0 0 0 0 heap).ctx.prv.mon.cause 16 16 = 0x40 ∧
    bits (calls 0x40 1 0 0 0 0 heap).ctx.prv.mon.cause 16 16 ≠ 0x41 ∧
    bits (calls 0x40 1 0 0 0 0 heap).ctx.prv.mon.cause 62 2 < 2 ∧
    2 ≤ bits (calls 0x40 2 0 0 0 0 heap).ctx.prv.mon.cause 62 2 := by decide +kernel

/-- An audit that has been reported, of engine 0. -/
def audit (replay : Option Nat) (reported : Bool) : AuditRec :=
  ⟨7, 1, 0, 0, 0, ⟨.fp32, false, 1, 1, 0, 0, 0, none, [], [], []⟩, 0, replay, none, [0, 0], 0, reported⟩

/-- A state in which each thing that a service looks at stands in its way. -/
def crowded : State :=
  { paged 1 with
    others := [(1, { CoreSt.reset with act := true, bank := some (let c := Ctx.reset 9 0x200
      { c with prv.partid := 5, prv.pwlimit := 0x3000000000 }) })]
    modes := 4, sched.election := true, rel.live := Vector.replicate 4 true
    sched.runqs := [⟨5, 31, 0x50000, 16⟩]
    xlat.zipped := [⟨1, List.replicate 4096 3, []⟩]
    rel.reports := [audit none true], rel.audits := [audit (some 5) true]
    dbg.stops := List.replicate 64 (3, true)
    copy.groups := [⟨3, 0, [1]⟩], copy.cmds := [{ fillCmd none with op := .collective 0, desc.p0 := 0x300000000 }]
    fab.linksUp := 0x20000, host.vfs := [⟨64, 6, 0x60000, 0⟩] }

theorem witness_ServiceEffects :
    (∀ n ∈ [0x40, 0x69], firmwareCalled (calls n 2 0 0 0 0 heap) = true ∧
      2 ≤ bits (calls n 2 0 0 0 0 heap).ctx.prv.mon.cause 62 2) ∧
    (let top := crowded.pkg * 2 ^ 44 + (0 + 1) * 0x3000000000
     meetsGuests crowded (top - 16 * 2 ^ 30) top = true ∧ meetsGuests heap (top - 16 * 2 ^ 30) top = false) ∧
    aligned 0x1000 4096 = true ∧ pow2In (2 ^ 20) 16 (2 ^ 20) = true ∧ aligned 0x200000 (2 ^ 21) = true ∧
    crowded.xlat.zipped ≠ [] ∧ heap.xlat.zipped = [] ∧ pow2In (2 ^ 52) 1 (2 ^ 52) = true ∧
    heapAddr heap.ctx.space 0x70 = true ∧ heapAddr crowded.ctx.space 0x6000 = false ∧
    walk crowded crowded.ctx.space 0x6000 = .compressed 0 0x4000000000001000 0x31030 ∧
    step4 crowded crowded.ctx.space 0x80000 (zippedBytes 0x4000000000001000) = true ∧
    (expandInto 0x4000000000001000 0x80000 crowded).isSome = true ∧ pow2In 65536 16 65536 = true ∧
    (queueOf crowded 5 31).any (fun q => !(recsIn crowded q 1).isEmpty) = false ∧
    (let s := { crowded with mem := crowded.mem ++ [⟨0x50000, 1⟩] }
     (queueOf s 5 31).any (fun q => !(recsIn s q 1).isEmpty) = true) ∧
    dieLive crowded 3 = true ∧ crowded.modes.getLsbD 2 = true ∧ crowded.sched.election = true ∧
    bufferOk crowded 0x40000 64 = true ∧ heap.rel.reports = [] ∧ crowded.rel.reports = audit none true :: [] ∧
    Memory.wf crowded.mem = true ∧ auditAt heap 7 = none ∧ auditAt crowded 7 = some (audit (some 5) true) ∧
    (audit (some 5) true).reported = true ∧ mayBreak crowded (audit (some 5) true) 127 = true ∧
    mayBreak crowded (audit (some 5) true) 4 = false ∧
    bits (calls 0x54 3 127 0 0 0 heap).ctx.prv.mon.cause 62 2 = 3 ∧
    (let s := calls 0x58 2 9 1 0 0 crowded
     stopTarget s (rg s 5) = false ∧ rg s 5 = 9) ∧
    (let s := calls 0x58 2 1 1 0 0 crowded
     stopTarget s (rg s 5) = true ∧ s.ctx.prv.gtid = rg s 5 ∧ s.core.act = true ∧ s.cur < 256) ∧
    stopTarget heap 99 = false ∧
    (let s := calls 0x58 2 9 1 0 0 { crowded with
       others := [], sched.teams := [{ team with members := [⟨0, 9, .pending, [], none, false, none⟩] }] }
     stopTarget s (rg s 5) = true ∧ (findContext s (rg s 5)).isSome = false ∧
     64 ≤ (s.dbg.stops.filter (fun x => decide (x.1 ≠ rg s 5))).length ∧
     (List.filter (fun x => decide (x.1 ≠ rg s 5)) (List.replicate 64 (rg s 5, false))).length < 64) ∧
    pow2In (2 ^ 16) (2 ^ 16) (2 ^ 30) = true ∧ ringInWindow crowded 0x1000 (0x1000 + 4096 + 2 ^ 16) = true ∧
    ringInWindow heap 0x1000 (0x1000 + 4096 + 2 ^ 16) = false ∧ rollDue heap = none ∧ periodDue heap = none ∧ bufferOk heap 0x1000 8 = true ∧
    (readGtids { heap with mem := [⟨0x1000, 1⟩] } 0x1000 1).all (memberOk heap 0) = true ∧
    groupBusy crowded 3 = true ∧ groupBusy heap 65535 = false ∧ crowded.fab.linksUp.getLsbD 16 = false ∧
    crowded.fab.linksUp.getLsbD 17 = true ∧ pow2In (2 ^ 34) (2 ^ 20) (2 ^ 34) = true ∧
    insideWindow crowded 5 0x60000 65536 = true ∧ aligned 0x60000 65536 = true ∧
    (vfOf crowded 64).any (fun x => decide (x.pid ≠ 5)) = true ∧ (vfOf crowded 1).any (fun x => decide (x.pid ≠ 5)) = false ∧
    pow2In 512 1 512 = true ∧ aligned (2 ^ 30) (2 ^ 30) = true ∧ originOf (2 ^ 30) = heap.pkg ∧
    offsetOf (2 ^ 30) + 512 * 2 ^ 30 ≤ hbmEnd ∧ inCarve heap (2 ^ 30) (512 * 2 ^ 30) = true ∧
    inCarve heap (2 ^ 30) (1 * 2 ^ 30) = false ∧ bufferOk heap 0x1000 32 = true ∧ bufferOk heap 0x1000 384 = true :=
  eightAnd (by decide +kernel) <| eightAnd (by decide +kernel) <| eightAnd (by decide +kernel) (by decide +kernel)

/-- A supervisor's call of `GROUPBIND` for a list of one GTID, at 0x1000. -/
def binds (m : List Host.Cell) (s : State) : State := calls 0x60 1 3 0 0x1000 1 { s with mem := m }

theorem witness_SupervisorCalls :
    (firmwareCalled (calls 0x44 1 0 0 0 0 heap) = true ∧ 1 ≤ bits (calls 0x44 1 0 0 0 0 heap).ctx.prv.mon.cause 62 2 ∧
     storesPerformed 3 (calls 0x44 1 0 0 0 0 heap) = true ∧
     storesPerformed 3 { calls 0x44 1 0 0 0 0 heap with core.sb := [oneStore] } = false) ∧
    (let s := binds [⟨0x1000, 1⟩, ⟨0x1005, 2⟩] { heap with fab.present := [2] }
     bits s.ctx.prv.mon.cause 62 2 = 1 ∧ bits s.ctx.prv.mon.cause 16 16 = 0x60 ∧ bindReady s = false) ∧
    (let s := binds [⟨0x1000, 1⟩] heap
     bits s.ctx.prv.mon.cause 62 2 = 1 ∧ s.pid ≤ 4095 ∧ bufferOk s 0x1000 8 = true ∧ bindReady s = true ∧
     (readGtids s 0x1000 1).all (memberOk s s.pid) = true ∧ groupBusy s 3 = false) ∧
    (let s := binds [⟨0x1000, 2⟩] heap
     bindReady s = true ∧ (readGtids s 0x1000 1).all (memberOk s s.pid) = false) := by
  refine ⟨by decide +kernel, by decide +kernel, by decide +kernel, by decide +kernel⟩

/-- Elections and repairs that begin in the host-assisted modes. -/
theorem witness_HostModes :
    (let s := { crowded with sched.electHost := true, fab.repairHost := true }
     (dieLive s 3 && s.sched.electHost && s.sched.election) = true ∧ s.fab.repairHost = true) ∧
    (dieLive crowded 3 && crowded.sched.electHost && crowded.sched.election) = false ∧ crowded.fab.repairHost = false := by
  decide +kernel

/-! ### Asynchronous causes and scheduling -/

/-- A pending cause and a handler for it at the monitor, with interrupts enabled. -/
def pends (code : Nat) : State :=
  { handled 0 0 with ctx.prv.pending := 1#64 <<< code, ctx.prv.status := 0x70 }

/-- A PREEMPT for the entry of another partition, and an interrupt. -/
def preempted : State :=
  { pends 0 with core.preempt := some (3, 0x8000000000000005), core.ints := [⟨6, 0⟩], core.messages := [(0, 1)] }

theorem witness_TrapEventResults :
    { heap with core.halted := true }.core.halted = true ∧ (pends 0x13).core.halted = false ∧
    (pends 0x0F).core.halted = false ∧ preempted.core.halted = false ∧ heap.ctx.aux.repLeft = 0 ∧
    mchkPending (pends 0x13) = true ∧ route (pends 0x13) 0x13 (pends 0x13).pl = 3 ∧
    vecBase ((pends 0x13).trapSet 3).tvec ≠ 0 ∧ mchkPending (pends 0x0F) = false ∧ auditPending (pends 0x0F) = true ∧
    route (pends 0x0F) 0x0F (pends 0x0F).pl = 3 ∧
    (let s := { pends 0x13 with ctx.aux.repLeft := 127 }
     mchkPending s = true ∧ s.ctx.aux.repLeft ≠ 0 ∧ s.ctx.aux.repLeft < 128) ∧
    mchkPending heap = false ∧ auditPending heap = false ∧
    (let s := preempted
     s.ctx.aux.sent = .nothing ∧ s.ctx.aux.repLeft = 0 ∧ s.core.preempt = some (3, 0x8000000000000005) ∧
     preemptReady s = true ∧ 1 ≤ preemptLevel s 0x8000000000000005 ∧
     vecBase (s.trapSet (preemptLevel s 0x8000000000000005)).tvec ≠ 0) ∧
    (let s := { preempted with core.preempt := none }
     preemptReady s = false ∧ intReady s = true ∧ route s 0x14 s.pl = 3 ∧ vecBase (s.trapSet 3).tvec ≠ 0) ∧
    preemptReady heap = false ∧ intReady heap = false ∧
    route (pends 0) 0x0E 0 = 3 ∧ route (pends 0) 0x13 0 = 3 ∧ route (pends 0) 0x05 0 = 3 ∧ route (pends 0) 0x06 0 = 2 ∧
    vecBase ((pends 0).trapSet 2).tvec ≠ 0 ∧ rfcSeen heap = 0 ∧ heap.ctx.ctl.lastValid = false ∧
    (let s := { pends 0 with ctx.ctl.xstate := xstateOf 0 0 15, ctx.ctl.lastPc := (pends 0).pc, ctx.ctl.lastVa := 0x70 }
     rfcSeen s = 15 ∧ s.ctx.ctl.lastPc = s.pc ∧ s.ctx.ctl.lastVa = 0x70) ∧
    { heap with sched.ipis := [(255, 0)] }.sched.ipis.contains (255, 0) = true ∧ countsPid heap 255 0 = true ∧
    countsPid heap 255 1 = false ∧ heap.sched.ipis.contains (255, 0) = false := by decide +kernel

/-- A `WFI` stands at the program counter, with an interrupt ready, or without. -/
def atWait (ints : List Intr) : State :=
  { (atLevel 3).withFetchWord 32 0x5000FB10 with core.ints := ints, ctx.prv.status := 0x73 }

/-- A PREEMPT or an interrupt that finds a `WFI`, faults of the fetch between two repeats, and a halted core. -/
theorem witness_HeldBackEvents :
    (intReady (atWait [⟨6, 0⟩]) = true ∧ atWfi (atWait [⟨6, 0⟩]) = true ∧ atWfi preempted = false) ∧
    (let s := { heap with ctx.aux.repLeft := 127 }
     s.core.halted = false ∧ s.ctx.aux.repLeft ≠ 0 ∧ s.ctx.aux.repLeft < 128) ∧
    { lodged 1 with core.halted := true }.core.halted = true ∧ (lodged 1).core.halted = false := by
  refine ⟨by decide +kernel, by decide +kernel, by decide +kernel⟩

/-- Every entry of the slot table is one word, and the lodge holds a context of a partition. -/
def slotted (entry : Word) (pid : Word) : State :=
  { lodged 0 with
    core.slottab := Vector.replicate 16 entry
    core.lodge := some (let c := Ctx.reset 9 0x200
      { c with prv.partid := pid }) }

theorem witness_QuantumBoundaries :
    { heap with core.halted := true }.core.halted = true ∧ (slotted 0 0).core.halted = false ∧
    bits (0 : Word) 62 2 = 0 ∧ bits (0x4000000000000001 : Word) 62 2 = 1 ∧ bits (0x8000000000000005 : Word) 62 2 = 2 ∧
    (let s := slotted 0x4000000000000001 5
     (s.core.act && qualifies 0x4000000000000001 s.ctx) = true ∧
     (s.core.lodge.map (qualifies 0x4000000000000001)).getD false = false) ∧
    (let s := slotted 0x8000000000000005 5
     (s.core.act && qualifies 0x8000000000000005 s.ctx) = false ∧
     (s.core.lodge.map (qualifies 0x8000000000000005)).getD false = true) ∧
    (let s := slotted 0x8000000000000000 0
     (s.core.act && qualifies 0x8000000000000000 s.ctx) = true ∧
     (s.core.lodge.map (qualifies 0x8000000000000000)).getD false = true) ∧
    (let s := slotted 0x8000000000000007 5
     (s.core.act && qualifies 0x8000000000000007 s.ctx) = false ∧
     (s.core.lodge.map (qualifies 0x8000000000000007)).getD false = false ∧ reservedHere s 7 = false ∧
     entryDiffers s 0x8000000000000007 = true) ∧
    (∃ u, exec (.quantumBoundary 1) (switchTo (slotted 0 0) 1) = .next u) ∧
    ∃ u, exec (.isolationWindow 1) (switchTo (slotted 0 0) 1) = .next u :=
  ⟨by decide +kernel, 
    fourAnd (by decide +kernel) <| fourAnd (by decide +kernel) <|
    ⟨⟨_, rfl⟩, ⟨_, rfl⟩⟩⟩

/-- The lodge of `slotted` holds a context with an area, whose name t2 is written. -/
def lodgedName : Ctx :=
  let c := Ctx.reset 9 0x200
  { c with aux.area := some 0x100000, t := c.t.set 2 [⟨[1], none, []⟩] }

/-- A distributor with one request of each kind, a queue with one record, a restore to end, and a team that is over. -/
def directed : State :=
  { slotted 0x8000000000000000 0 with
    boot.bootst := 6, rel.live := Vector.replicate 4 true
    sched.requests := [.spawn 0 1 (List.replicate 256 0) none, .accepted 0 1 1, .info 0 1 1]
    sched.teams := [team, { team with id := 2, members := [⟨0, 12, .ended, [], none, true, none⟩] }]
    sched.runqs := [⟨0, 0, 0x50000, 16⟩]
    mem := [⟨0x50000, 1⟩, ⟨0x50008, 2⟩] }

theorem witness_DistributorEvents :
    (let s := directed
     takesSpawn s = true ∧
     s.sched.requests.find? Request.isSpawn = some (.spawn 0 1 (List.replicate 256 0) none) ∧
     findContext s 1 = some s.ctx ∧ takesSpawn heap = false ∧
     s.sched.requests.find? (acceptable s) = some (.accepted 0 1 1) ∧ s.ctx.prv.gtid = 1 ∧ s.core.act = true ∧
     s.sched.teams.find? (fun t => t.id = 1) = some team ∧ team.donew = some (0x200, 0x200) ∧ Memory.wf s.mem = true ∧
     localMem s 0x200 = true ∧ { s with sched.election := true }.sched.election = true ∧ s.sched.election = false ∧
     nearDonew s team.donew = true ∧ team.noted = true ∧
     (let x := { team with noted := false }
      let u := { s with sched.teams := [x] }
      u.sched.requests.find? (acceptable u) = some (.accepted 0 1 1) ∧ u.sched.teams.find? (fun t => t.id = 1) = some x ∧
      x.noted = false ∧ donewPending u x = false ∧ nearDonew u x.donew = true) ∧
     s.sched.requests.find? Request.isInfo = some (.info 0 1 1) ∧ freeAreas s 0 = 0 ∧ deadHome s 0x200 = false ∧
     (readyTeams { s with sched.teams := [{ team with members := [] }] } 0).all (fun x => x.members.all (fun m => m.area.isNone)) = true) ∧
    bits (((getCore heap 0).slottab[(heap.cyc / 4096 + 1) % 16]?).getD 0) 62 2 = 0 ∧ bankFree directed 0 = false ∧
    (let s := { directed with core.lodge := none, core.act := false }
     let entry := ((getCore s 0).slottab[(s.cyc / 4096 + 1) % 16]?).getD 0
     bits entry 62 2 ≠ 0 ∧ bankFree s 0 = true ∧ (residents s 0).any (qualifies entry) = false ∧
     (entryQueues s (0 / 8) entry).findSome? (fun q => (wantedRec s q 0 entry).map (fun a => (q, a))) =
       some (⟨0, 0, 0x50000, 16⟩, 0x50000) ∧
     recField s 0x50000 5 1 % 2 = 0) ∧
    (let s := { directed with core.lodge := none, sched.restores := [⟨0, 0x50000, 0x100000, 0, 9⟩] }
     s.sched.restores.find? (fun r => r.core = 0) = some ⟨0, 0x50000, 0x100000, 0, 9⟩ ∧ (getCore s 0).lodge = none) ∧
    (let s := { directed with mem := directed.mem ++ [⟨0x100002, 2⟩] }
     ∃ b r, restoreArea s 0x100000 = .bad b r) ∧
    directed.sched.restores.find? (fun r => r.core = 0) = none ∧ teamDone directed team = false ∧
    (∃ tm, directed.sched.teams.find? (fun t => t.id = 2) = some tm ∧ teamDone directed tm = true ∧
      nearDonew directed tm.donew = true ∧ tm.ending = false ∧ tm.donew = some (0x200, 0x200)) ∧
    (findContext directed (BitVec.ofNat 64 9)).isSome = true ∧ teamOf directed (BitVec.ofNat 64 9) = some team ∧
    (let s := { directed with core.lodge := some lodgedName }
     (getCore s 0).lodge = some lodgedName ∧ lodgedName.aux.area = some 0x100000 ∧
     (List.range 100).find? (fun i => i ≠ 0 ∧ blockLive lodgedName i ∧ ¬ lodgedName.aux.spilled.contains i) = some 1 ∧
     leftBuffer s 0 lodgedName.prv.gtid = true ∧ lodgedName.aux.extPending = none ∧ evictable lodgedName = 2 :: []) ∧
    (getCore heap 0).lodge = none ∧ heap.ctx.aux.evicted = [] ∧
    (let s := { heap with ctx.aux.evicted := [23], ctx.aux.area := none }
     s.ctx.aux.evicted = 23 :: [] ∧ ∃ c, reloadName s s.ctx 23 = .ok c) :=
  ⟨by decide +kernel, by decide +kernel, by decide +kernel, by decide +kernel, by decide +kernel, ⟨_, _, rfl⟩,
    by decide +kernel, by decide +kernel, ⟨_, rfl, by decide +kernel, by decide +kernel, rfl, rfl⟩,
    by decide +kernel, by decide +kernel, by decide +kernel, by decide +kernel, by decide +kernel, ⟨rfl, _, rfl⟩⟩

/-- The three ways a restore ends: the area of `withArea 8`, one marked resident, and one whose wayside entry names a line
outside its window. -/
theorem witness_Restores :
    (∃ c, restoreArea { directed with mem := directed.mem ++ [⟨0x100002, 8⟩] } 0x100000 = .ok c) ∧
    (∃ b r, restoreArea { directed with mem := directed.mem ++ [⟨0x100002, 2⟩] } 0x100000 = .bad b r) ∧
    ∃ a, restoreArea { directed with mem := directed.mem ++ [⟨0x100002, 8⟩, ⟨0x101548, 5⟩, ⟨0x102017, 0x80⟩] } 0x100000 =
      .outside a :=
  ⟨restores_exists (by decide +kernel), ⟨_, _, rfl⟩, leaves (by decide +kernel)⟩
where
  leaves {r : Restored} (h : (match r with | .outside _ => true | _ => false) = true) : ∃ a, r = .outside a := by
    cases r with
    | ok _ => cases h
    | bad _ _ => cases h
    | outside a => exact ⟨a, rfl⟩

/-- A team of one Pending member. -/
def single : Team :=
  { team with id := 3, levels := [⟨1, 1, 0, true⟩], members := [⟨0, 20, .pending, [], none, false, none⟩], noted := true }

/-- Die 0 is live, core 0 gives every quantum to its partition and has a bank left or none, and one save area is free. -/
def admits (lodge : Option Ctx) : State :=
  { slotted 0x8000000000000000 0 with
    core.lodge := lodge, boot.bootst := 6, rel.live := #v[true, false, false, false]
    sched.sapools := [(0, ⟨0x90000, 16⟩)], sched.teams := [single]
    mem := [⟨0x90008, 1⟩, ⟨0x90042, 0xA⟩] }

theorem witness_GroupAdmission :
    (let s := admits none
     firstGroup (pendGroups s 0) = some ⟨single, 0, 0⟩ ∧ freeAreas s 0 = 1 ∧ s.sched.election = false ∧
     s.sched.restores = [] ∧ single.levels.length = 1 ∧ spanOf single.levels 0 = 1 ∧
     (single.members.filter (fun m => decide (0 ≤ m.rank ∧ m.rank < 0 + 1) &&
       decide (m.life = .pending ∧ m.place = none))).map (·.rank) = [0] ∧
     1 ≤ ((bestInstance s 0 (domainOf single.levels 0) (candidates s single 0)).map (fun c => availBanks s c 0)).sum ∧
     (assignGroup s single 0 [0]).isSome = true ∧ donewPending s single = false ∧ areasWanted single [0] = 1) ∧
    (let s := { admits none with sched.sapools := [] }
     firstGroup (pendGroups s 0) = some ⟨single, 0, 0⟩ ∧ freeAreas s 0 < 1 ∧
     (readyTeams s 0).all (fun y => (barLevel y).isSome) = true) ∧
    (let s := admits (some (Ctx.reset 9 0x200))
     firstGroup (pendGroups s 0) = some ⟨single, 0, 0⟩ ∧
     ((bestInstance s 0 (domainOf single.levels 0) (candidates s single 0)).map (fun c => availBanks s c 0)).sum < 1) := by
  refine ⟨by decide +kernel, by decide +kernel, by decide +kernel⟩

theorem witness_PlacedMembers :
    (∀ s ∈ [admits none, admits (some (Ctx.reset 9 0x200))],
      s.sched.teams.find? (fun t => t.id = 3) = some single ∧ 
      single.members.find? (fun m => m.rank = 0) = some ⟨0, 20, .pending, [], none, false, none⟩ ∧
      ∃ area u, takeArea single.base.pid s = some (area, u)) ∧
    (getCore (admits none) 0).lodge = none ∧ (getCore (admits (some (Ctx.reset 9 0x200))) 0).lodge.isSome = true := by
  refine ⟨fun s h => ⟨?_, rfl, ?_⟩, by decide +kernel, by decide +kernel⟩
  · revert s
    decide +kernel
  · obtain ⟨x, h⟩ := Option.isSome_iff_exists.mp (areas s h)
    exact ⟨x.1, x.2, h⟩
where
  areas : ∀ s ∈ [admits none, admits (some (Ctx.reset 9 0x200))], (takeArea single.base.pid s).isSome = true := by
    decide +kernel

/-- A pool of sixteen frames at 0x70000 that offers one, 0x80000. -/
def pooled : State :=
  { crowded with
    mem := crowded.mem ++ [⟨0x70008, 1⟩, ⟨0x70042, 8⟩]
    xlat.pool := some ⟨0x70000, 16⟩ }

/-- The program counter stands in page 5 of `paged`, whose leaf has no NAT. -/
def portable : State :=
  let s := (paged 1).setPc 0x5000
  { s with mem := s.mem.filter (fun c => decide (c.1 ≠ 0x3102F)) }

theorem witness_PageEvents :
    { heap with core.act := false }.core.act = false ∧ { heap with modes := 2 }.modes.getLsbD 1 = true ∧
    (let s := pooled
     s.core.act = true ∧ s.modes.getLsbD 1 = false ∧ heapAddr s.ctx.space 0x6000 = false ∧
     walk s s.ctx.space 0x6000 = .compressed 0 0x4000000000001000 0x31030 ∧
     (expandPage 0x4000000000001000 0x31030 s).isSome = true) ∧
    { heap with modes := 0x40 }.modes.getLsbD 6 = true ∧ fetchesFrom heap 0x41 = false ∧
    (let s := portable
     s.modes.getLsbD 6 = false ∧ s.core.act = true ∧ s.core.halted = false ∧ localMem s (0x40 * 4096) = true ∧ fetchesFrom s 0x40 = true ∧
     0x40 ∉ s.xlat.native ∧ 0x40 ∈ { s with xlat.native := [0x40] }.xlat.native ∧ Memory.wf s.mem = true ∧
     lineFrame 0x800 = 0x40 ∧ linePoisoned { s with coh.poisoned := [0x800] } 0x800 = true) ∧
    { heap with rel.deadPkgs := [1] }.rel.deadPkgs.contains 1 = true ∧ heap.rel.deadPkgs.contains 1 = false ∧
    { heap with xlat.handOvers := [(0x40, 1)] }.xlat.handOvers.contains (0x40, 1) = true ∧
    ownerOf { heap with xlat.owners := [(0x40, 1)] } (0x40 * 4096) ≠ heap.pkg ∧
    heap.xlat.handOvers.contains (0x40, 1) = false ∧ ownerOf heap (0x40 * 4096) = heap.pkg := by decide +kernel

/-! ### Reliability, fabric, host and boot -/

theorem witness_ErrorAndAuditEvents :
    localMem heap (0xC000000000 / 128 * 128) = false ∧ localMem heap ((0xC000000000 / 128 - 1) * 128) = true ∧
    (getCore { heap with core.sb := [oneStore] } 0).sb[0]? = some oneStore ∧ heap.core.act = true ∧ 63 < 64 ∧ 127 < 128 ∧
    (getCore (lodged 1) 0).lodge = some (Ctx.reset 9 0x200) ∧
    0 < (tileBand (tiles.ctx.tile 15) 0).rows.length ∧ ((lanes .fp32).ctx.acc 7).tag ≠ .empty ∧
    63 < ((lanes .fp32).ctx.acc 7).rext ∧ 0 < (lanes .fp32).ctx.aux.gang ∧
    (let a : Acc := { tag := .int, rext := 1, cext := 1, bands := [[[0x100000000000000]]], bad := [] }
     let s := { heap with ctx.c := heap.ctx.c.set 7 a }
     s.core.act = true ∧ (s.ctx.acc 7).tag = .int ∧ 0 < (s.ctx.acc 7).rext ∧ 0 < (s.ctx.acc 7).cext ∧
     0 < s.ctx.aux.gang ∧ cellEntries (cellAt ((s.ctx.acc 7).band 0) 0 0) ≠ 0) ∧
    auditAt heap 7 = none ∧
    (let s := { crowded with rel.audits := [audit none false] }
     auditAt s 7 = some (audit none false) ∧ (audit none false).replay = none ∧
     mayReplay s (audit none false) 4 = true ∧ mayReplay s (audit none false) 127 = false ∧
     (audit none false).sigs[0]? ≠ some ((replayOn 4 (audit none false).op s).1 + 1)) ∧
    (let s := { crowded with rel.audits := [audit (some 5) false] }
     auditAt s 7 = some (audit (some 5) false) ∧ (audit (some 5) false).reported = false ∧
     mayBreak s (audit (some 5) false) 127 = true ∧ (audit (some 5) false).orig < 128 ∧ 5 < 128) ∧
    (audit (some 5) true).reported = true ∧ 3 < 4 ∧ (heap.rel.fenced[4]?).getD true = true ∧
    heap.rel.fenced[3]? = some false ∧
    (0 = heap.pkg ∧ heap.fab.present.contains 255 = false) ∧
    (let s := { heap with fab.present := [255] }
     255 ≠ s.pkg ∧ s.fab.present.contains 255 = true ∧ s.rel.deadPkgs.contains 255 = false ∧ s.fab.repairing = false) ∧
    { heap with rel.deadPkgs := [255] }.rel.deadPkgs.contains 255 = true ∧ incOf heap (.die 3) ≤ 0 ∧
    (let s := { heap with rel.incarnation := [(agentKey (.die 3), 1), (agentKey (.package 255), 1)] }
     0 < incOf s (.package 255) ∧ 0 < incOf s (.die 3) ∧ localMem s (0 * 128) = true) := by decide +kernel

/-- A message to this package. -/
def msg (applied out : Bool) : Msg := ⟨1, 0, 4, 1, 0, .write 0x78 8 5, false, false, applied, out, 0, none, [], none⟩

/-- A collective of one member that has issued. -/
def collCmd : Cmd := ⟨5, 0, 1, 0, (mapped 0).ctx.space, .collective 0, ⟨0x300, 0x400, 8, 0, 0x300000000, 0, 0⟩, none, none, none,
    false, [], false⟩

theorem witness_FabricAndCollectiveEvents :
    msgOf { heap with fab.msgs := [msg false false] } 1 0 4 = some (msg false false) ∧
    msgOf { heap with fab.msgs := [msg true true] } 1 0 4 = some (msg true true) ∧
    msgOf { heap with fab.msgs := [msg false true] } 1 0 4 = some (msg false true) ∧
    (seenOf heap.fab 1 0).fresh 4 = true ∧ (seenOf { heap.fab with seen := [⟨1, 0, 0, [4]⟩] } 1 0).fresh 4 = false ∧
    msgBehind { heap with fab.msgs := [msg false true] } (msg false true) = false ∧
    (let s := { heap with fab.msgs := [{ msg false true with seq := 3 }, msg false true] }
     msgOf s 1 0 4 = some (msg false true) ∧ msgBehind s (msg false true) = true) ∧
    Memory.wf heap.mem = true ∧ msgOf heap 1 0 4 = none ∧ pathUp heap.fab 0 = false ∧ heap.rel.deadPkgs.contains 1 = false ∧
    { heap with rel.deadPkgs := [1] }.rel.deadPkgs.contains 1 = true ∧
    pathUp { heap.fab with linksUp := 0x20000 } 0 = true ∧ heap.fab.linksUp.getLsbD 17 = false ∧
    { heap with fab.linksUp := 0x20000 }.fab.linksUp.getLsbD 17 = true ∧ heap.fab.repairing = false ∧
    (let s := { heap with fab.repairing := true, fab.linksUp := 0x20000, fab.present := [1] }
     s.fab.repairing = true ∧ s.fab.repairHost = false ∧ (List.range 18).find? s.fab.linksUp.getLsbD = some 17 ∧
     1 ∈ s.fab.present) ∧
    { heap with fab.repairing := true, fab.repairHost := true }.fab.repairHost = true ∧ collCmds heap 3 0 = none ∧
    (let s := { heap with copy.groups := [⟨3, 0, [1]⟩], copy.cmds := [collCmd] }
     collCmds s 3 0 = some [some collCmd] ∧ [some collCmd].filterMap (fun m => m) = [collCmd] ∧
     [collCmd].all (fun c => threadStoresDone c.gtid s) = true ∧
     collAgree [collCmd] = true ∧ okAnd (readContribs collCmd [some collCmd] 0 s) (fun _ => true) = true) ∧
    (let y := { collCmd with id := 6, gtid := 9, desc.len := 16 }
     let s := { heap with copy.groups := [⟨3, 0, [1, 9]⟩], copy.cmds := [collCmd, y] }
     collCmds s 3 0 = some [some collCmd, some y] ∧ [some collCmd, some y].filterMap (fun m => m) = [collCmd, y] ∧
     [collCmd, y].all (fun c => threadStoresDone c.gtid s) = true ∧
     collAgree [collCmd, y] = false) ∧
    heap.copy.groups.find? (fun g => g.num = 3) = none ∧
    (let s := { directed with copy.groups := [⟨3, 0, [1, 12]⟩], copy.cmds := [collCmd], copy.lost := [(12, 6)] }
     s.copy.groups.find? (fun g => g.num = 3) = some ⟨3, 0, [1, 12]⟩ ∧
     ([1, 12] : List Word).filterMap (fun m => (lostCode s m).map (fun k => (m, k))) = (12, 6) :: [] ∧
     collCmd ∈ s.copy.cmds ∧ collCmd.joins 3 0 = true ∧ collCmd.gtid ≠ 12) := by decide +kernel

/-- An atomic of the current thread from another package. -/
def atomicMsg : Msg := { msg false true with rq := .atomic 0 0x78 8 5 0 }

/-- The clauses on atomics, and on collectives whose results can be written, or have to wait. -/
theorem witness_AtomicMessages :
    (let s := { heap with fab.msgs := [atomicMsg] }
     msgOf s 1 0 4 = some atomicMsg ∧ atomicMsg.sentOut = true ∧ atomicMsg.applied = false ∧ msgBehind s atomicMsg = false ∧
     atomicMsg.fwd = none ∧ s.ctx.prv.gtid = atomicMsg.gtid ∧ s.core.act = true ∧ linePoisoned s (lineOf 0x78) = false ∧
     linePoisoned { s with coh.poisoned := [0] } (lineOf 0x78) = true) ∧
    (let s := { heap with copy.groups := [⟨3, 0, [1]⟩], copy.cmds := [collCmd] }
     okAnd (readContribs collCmd [some collCmd] 0 s) (fun x => (writeResults x.2 [some collCmd] 0 x.1).isSome) = true) ∧
    (let s := { heap with copy.groups := [⟨3, 0, [1]⟩], copy.cmds := [collCmd], coh.persistent := [(0, 1, 8)] }
     collCmds s 3 0 = some [some collCmd] ∧
     okAnd (readContribs collCmd [some collCmd] 0 s) (fun x => !(writeResults x.2 [some collCmd] 0 x.1).isSome) = true) := by
  refine ⟨by decide +kernel, by decide +kernel, by decide +kernel⟩

/-- Hand-overs to this package, with a frame in its pool and without; a late message to a line that a scrub has poisoned
or not. -/
theorem witness_HandOversHere :
    (let s := { heap with xlat.owners := [(0x40, 1)] }
     ownerOf s (0x40 * 4096) ≠ s.pkg ∧ (takeFrames 1 s).isSome = false) ∧
    (let s := { pooled with xlat.owners := [(0x40, 1)] }
     ownerOf s (0x40 * 4096) ≠ s.pkg ∧ (takeFrames 1 s).isSome = true ∧ s.rel.deadPkgs.contains s.pkg = false) ∧
    (agentKey (.package 255), 0) ∉ heap.rel.scrubbed := by
  refine ⟨by decide +kernel, by decide +kernel, by decide +kernel⟩

/-- The host link works, its window is the second page, and a VF has its area. -/
def linked : State :=
  { heap with
    host.trained := true, host.window := some (0x1000, 0x1000), host.vfs := [⟨64, 5, 0x60000, 255⟩]
    host.msix := [⟨0, 0, 0, 0⟩]
    xlat.saved := [⟨0x100000, 7, ⟨5, 0, 0, 0x60000, 0x70000, 0, 0, 0, true⟩, 1, 0⟩] }

/-- The host link has trained as CXL, and the host has set a decoder. -/
def decoded : State := { linked with host.cxl := true, host.decoders := [(1, 0x4000000000, 256 * 2 ^ 30)] }

theorem test_hdm_copy : ∃ t u, exec (.hostMemoryAccess (.memRead 0x4000000078 8)) decoded = .next t ∧
    t.coh.hostLines = [0x80000000] ∧
    exec (.hostMemoryAccess (.write none 0 [1])) { t with host.window := some (0x4000000000, 0x40000000) } = .next u ∧
    u.coh.hostLines = [] ∧
    decoderOk decoded 0 0 (256 * 2 ^ 30 + 1) = false :=
  ⟨_, _, rfl, by decide +kernel, rfl, by decide +kernel, by decide +kernel⟩

/-- A mailbox command waits with two arguments. -/
def mailed (n : Nat) (a b : Word) : State :=
  { linked with
    host.mbPending := true, host.mbcmd := BitVec.ofNat 64 n, host.mbstat := 0x8000000000000000
    host.mbarg := (linked.host.mbarg.set 0 a).set 1 b }

/-- The clause of `IDCERT` asks that the certificate, whose length the spec leaves open, fits the window to the host. -/
theorem witness_HostEvents :
    (inCarve { linked with host.window := some (0x2FFFFFF000, 0x1000) } (0x2FFFFFF000 + 0xFF8) 8 = true ∧
     inCarve linked (0x1000 + 0xFF8) 8 = false ∧ hostLinkUp heap = false ∧
     doorbellOk linked ⟨64, 5, 0x60000, 255⟩ 0xEFF8 8 = true ∧ doorbellOk linked ⟨64, 5, 0x60000, 255⟩ 0 8 = true ∧
     doorbellOk { linked with xlat.saved := [] } ⟨64, 5, 0x60000, 255⟩ 0 8 = false ∧
     decoded.host.cxl = true ∧ decoderOk decoded 2 0 0x1000 = false ∧ decoderOk decoded 0 0 (256 * 2 ^ 30) = true ∧
     inCarve decoded 0x78 8 = false ∧ linePoisoned decoded (lineOf 0x78) = false ∧ deadHome decoded 0x78 = false ∧
     Memory.wf decoded.mem = true) ∧ hostLinkUp linked = true ∧ linked.host.window = some (0x1000, 0x1000) ∧
    0xFF8 % 128 + 8 ≤ 128 ∧ 0xFF8 + 8 ≤ 0x1000 ∧ 0x1000 < 0x1000 + 8 ∧ 0x1000 % 128 + 8 ≤ 128 ∧
    linePoisoned linked (lineOf (0x1000 + 0xFF8)) = false ∧ Memory.wf linked.mem = true ∧ 0xFF8 % 8 = 0 ∧
    { linked with host.window := none }.host.window = none ∧ regAccessOk 0x009 8 = false ∧ regAccessOk 0xEFF8 8 = true ∧
    0xEFF8 < 0xF000 ∧ vfOf linked 1 = none ∧ vfOf linked 64 = some ⟨64, 5, 0x60000, 255⟩ ∧
    linePoisoned linked (lineOf (0x60000 + 0xEFF8)) = false ∧ deadHome linked (0x60000 + 0xEFF8) = false ∧
    deadHome linked (0x60000 + 0) = false ∧ regAccessOk 0 8 = true ∧ linePoisoned linked (lineOf (0x60000 + 0)) = false ∧
    mailboxAt heap 1 = false ∧ (∀ n ∈ [1, 2, 3, 4], mailboxAt (mailed n 0 0) n = true) ∧
    (mailed 1 0 0).host.mbstat.getLsbD 63 = true ∧ (msixVector (mailed 1 0 0).host 0 0).data.getLsbD 32 = false ∧
    Memory.wf (mailed 1 0 0).mem = true ∧
    (Config.certificate.length ≤ 0xF0000000000 →
      Config.certificate.length ≤ mbArg (mailed 1 0 0xF0000000000) 1 ∧
      hostBufOk (mailed 1 0 0xF0000000000) (mbArg (mailed 1 0 0xF0000000000) 0) Config.certificate.length = true) ∧
    hostBufOk (mailed 2 0 0x1000) (mbArg (mailed 2 0 0x1000) 0) 32 = true ∧
    hostBufOk (mailed 2 0 0x1000) (mbArg (mailed 2 0 0x1000) 1) 384 = true ∧
    mbArg (mailed 3 0 64) 1 % 32 = 0 ∧
    hostBufOk (mailed 3 0 64) (mbArg (mailed 3 0 64) 0)
      (32 * (((mailed 3 0 64).rel.log.drop (mailed 3 0 64).rel.logRead).take (mbArg (mailed 3 0 64) 1 / 32)).length) = true ∧
    hostBufOk (mailed 4 0xEFFFFFFF800 0) (mbArg (mailed 4 0xEFFFFFFF800 0) 0) 2048 = true ∧
    heap.host.mbPending = false ∧ (mailed 0x8000 0 0).host.mbPending = true ∧ 0x8000 ≤ mbCommand (mailed 0x8000 0 0) ∧
    mbCommand (mailed 0 0 0) = 0 ∧ 4 < mbCommand (mailed 5 0 0) ∧ mbCommand (mailed 0x7FFF 0 0) < 0x8000 := by
  refine ⟨by decide +kernel, by decide +kernel, 
    eightAnd (by decide +kernel) <| eightAnd (by decide +kernel) <| eightAnd (by decide +kernel) <|
    ⟨fun h => ⟨?_, ?_⟩, by decide +kernel⟩⟩
  · exact h.trans (by decide +kernel)
  · simp only [hostBufOk, Bool.and_eq_true, decide_eq_true_eq]
    exact ⟨by decide +kernel, by
      have : mbArg (mailed 1 0 0xF0000000000) 0 = 0 := by decide +kernel
      omega⟩

/-- At a stage of the boot. -/
def booting (n : Word) : State := { State.reset with boot.bootst := n }

theorem witness_BootAndMonitorEvents :
    atStage State.reset 1 = false ∧ atStage (booting 1) 1 = true ∧ (booting 1).boot.measure[7]? = some 0 ∧
    atStage State.reset 2 = false ∧ atStage (booting 2) 2 = true ∧
    2 ≤ ((List.range 4).filter (fun d => !(3 : Nat).testBit d)).length ∧
    ((List.range 4).filter (fun d => !(7 : Nat).testBit d)).length < 2 ∧ atStage State.reset 3 = false ∧
    atStage (booting 3) 3 = true ∧ (2047 : Nat).testBit 11 = false ∧ stackOf (11 * 2 ^ 29) = (booting 3).pkg * 256 + 11 ∧
    atStage State.reset 4 = false ∧
    (let s := { booting 4 with rel.live := Vector.replicate 4 true }
     atStage s 4 = true ∧ dieLive s (255 / 64) = true) ∧
    3 < 4 ∧ 2 < 3 ∧ monitorCount 0 ≤ monitorCount 0 ∧ 3 ≤ 3 ∧ (∀ k ∈ [0, 1, 2], 0 < monitorCount k) ∧
    tooHot State.reset 3 = false ∧ tooHot { State.reset with boot.health := [(3, 0, 0, 2000)] } 3 = true ∧
    State.reset.dbg.rollK = 0 ∧ rollDue State.reset = none ∧ periodDue { State.reset with dbg.rollNext := some 10 } = none ∧
    (let s := { booting 6 with dbg.rollK := 10, dbg.rollMask := 15, rel.live := Vector.replicate 4 true, cyc := 3000 }
     rollDue s = some 1024 ∧ s.dbg.roll[3]? = some ⟨[], 0, 0⟩ ∧ (s.dbg.rollMask.testBit 3 && dieLive s 3) = true) ∧
    (State.reset.dbg.rollMask.testBit 3 && dieLive State.reset 3) = false ∧ State.reset.dbg.rollNext = none ∧
    (let s := { State.reset with dbg.rollNext := some 10, cyc := 2 ^ 24 + 7 }
     s.dbg.rollNext = some 10 ∧ periodDue s = some (2 ^ 24)) := by decide +kernel

/-! ### Frames, invariants, steps and encodings -/

theorem runs_exists {i : Instr} {s : State} (h : runs i s (fun _ => true) = true) : ∃ t, exec i s = .next t := by
  unfold runs at h
  split at h
  · exact ⟨_, by assumption⟩
  · cases h

/-- Each frame's hypothesis, that the instruction answers a next state, holds in every state; two are given. -/
theorem witness_ScalarFrames : (∃ t, exec (.add fm .w64 5 6 7) heap = .next t) ∧
    ∃ t, exec (.fadd fm .fp64 0 5 6 7) heap = .next t :=
  ⟨runs_exists (by decide +kernel), runs_exists (by decide +kernel)⟩

theorem witness_VectorFrames : tileReady (lanes .fp32) ∧ ∃ t, exec (.vmov fm false 0 63 0x40) (lanes .fp32) = .next t :=
  ⟨lanes_ready.1, runs_exists (by decide +kernel)⟩

theorem witness_MemoryFrames : startAt fm heap = some (0, 0) ∧ heap.core.sb = [] ∧ heap.coh.wts = [] ∧
    heap.fab.msgs = [] ∧ offsetOf 0x70 < hbmEnd ∧
    (∀ n ∈ [1, 2, 4, 8, 16], 0x70 % 128 + n ≤ 128) ∧
    translate .load (rg heap 6 + BitVec.ofInt 64 (fm.i 0 0 * 16)) 16 heap = .ok (heap, ⟨0x70, false⟩) ∧
    translate .store (rg heap 6 + BitVec.ofInt 64 (fm.i 0 0 * 16)) 16 heap = .ok (heap, ⟨0x70, false⟩) ∧
    (let field := (rg heap 6 + BitVec.ofInt 64 0x150).toNat
     translate .store (BitVec.ofNat 64 (field / (8 / Sb.two.bits))) 1 heap = .ok (heap, ⟨0x70, false⟩)) :=
  ⟨by decide +kernel, by decide +kernel, 
    fourAnd (by decide +kernel) <|
    ⟨rfl,
    rfl, rfl⟩⟩

theorem witness_HardWiredRegisters : 0 < 63 ∧ 63 < 64 ∧ 0 < 7 ∧ 7 < 8 := by decide

/-- A word stands at the program counter. -/
def placed : State := (atLevel 3).withFetchWord 16 0x0776

theorem witness_StepKeepsMemoryForm : Memory.wf placed.mem = true ∧ ∃ t, step placed = .next t := ⟨by decide +kernel, ⟨_, rfl⟩⟩

theorem witness_StepRunsDecodedInstruction :
    (traceDue placed = none ∧ placed.turns = .run placed.cur :: []) ∧ stage placed ≠ 5 ∧
    placed.rel.held.all (fun h => decide (h.1 ≠ placed.ctx.prv.gtid)) = true ∧ coreRuns placed = true ∧
    placed.core.act = true ∧ placed.core.swapping = false ∧ placed.ctx.aux.sent = .nothing ∧
    mayIssue placed = true ∧ mchkPending placed = false ∧ auditPending placed = false ∧ placed.core.preempt = none ∧
    intReady placed = false ∧ firmwareCalled placed = false ∧ placed.core.window = false ∧
    (∃ x, fetchChain 5 placed.pc placed = .ok x ∧ decide (x.2 = [0x0776] ∧ decode x.2 = .ok (.addP0 fm 7 7 6)) = true) ∧
    (∃ x, fetchChain 5 placed.pc ((atLevel 3).withFetchWord 16 0xE000) = .ok x ∧ decide (decode x.2 = .error .majorE) = true) ∧
    (∃ t s1, fetchChain 5 placed.pc (atLevel 3) = .error (.trap t s1)) ∧
    (∃ pa, translate .fetch placed.pc 2 placed = .ok (placed, ⟨pa, false⟩) ∧ isDevReg pa = false ∧
      isHostWin pa = false ∧ linePoisoned placed (lineOf pa) = false ∧ oldHalves placed pa = []) ∧
    ((fetchLeaf placed placed.pc).any (fun x => x.pte.getLsbD 63)) = true :=
  ⟨by decide +kernel, by decide +kernel, 
    fourAnd (by decide +kernel) <| fourAnd (by decide +kernel) <| fourAnd (by decide +kernel) <|
    ⟨okAnd_exists (by decide +kernel), okAnd_exists (by decide +kernel),
    ⟨_, _, rfl⟩, ⟨_, rfl, by decide +kernel, by decide +kernel⟩, by decide +kernel⟩⟩

theorem witness_DecodeInvertsEncode :
    (Instr.vadd ⟨some ⟨64, 14⟩, true, 0⟩ false 0 0 0 0x40).wellFormed = true ∧
    (Instr.vadd ⟨some ⟨64, 14⟩, true, 0⟩ false 0 0 0 0x40).enc.isSome = true := by decide +kernel

end Sys2Proof.Tests
end

/-! PROOFS. System registers: what `SRD`, `SWR`, `SSET` and `SCLR` read and leave (R4, R69, R70, R288, R296). -/

namespace Sys2Proof.Machine

/-! ## Fields of a word -/

theorem bits_eq_extractLsb' (w : Word) (lo n : Nat) : bits w lo n = (w.extractLsb' lo n).toNat := by
  simp [bits, BitVec.extractLsb'_toNat, Nat.shiftRight_eq_div_pow]

/-- A field depends on its own bits only. -/
theorem bits_congr {v w : Word} {lo n : Nat} (h : ∀ i < n, v.getLsbD (lo + i) = w.getLsbD (lo + i)) :
    bits v lo n = bits w lo n := by
  rw [bits_eq_extractLsb', bits_eq_extractLsb']
  congr 1
  refine BitVec.eq_of_getLsbD_eq fun i hi => ?_
  simp [hi, h i hi]

theorem bits_eq_zero {w : Word} {lo n : Nat} (h : ∀ i < n, w.getLsbD (lo + i) = false) : bits w lo n = 0 := by
  have hz : bits w lo n = bits 0 lo n := bits_congr fun i hi => by simp [h i hi]
  simpa [bits] using hz

/-- The low-ones word of `n` bits moved up to bit `lo` has the bits from `lo` to `lo + n - 1`. -/
@[simp] theorem getLsbD_onesAt (lo n i : Nat) :
    (BitVec.ofNat 64 (2 ^ n - 1) <<< lo).getLsbD i = decide (i < 64 ∧ lo ≤ i ∧ i < lo + n) := by
  rw [BitVec.getLsbD_shiftLeft, BitVec.getLsbD_ofNat, Nat.testBit_two_pow_sub_one, Bool.eq_iff_iff]
  simp only [Bool.and_eq_true, Bool.not_eq_true', decide_eq_true_eq, decide_eq_false_iff_not]
  omega

@[simp] theorem getLsbD_regMask (lo n i : Nat) :
    (regMask lo n).getLsbD i = decide (i < 64 ∧ lo ≤ i ∧ i < lo + n) := getLsbD_onesAt lo n i

/-- The bits of a list of fields are those of one of them. -/
theorem getLsbD_maskOf (l : List (Nat × Nat)) (i : Nat) :
    (maskOf l).getLsbD i = (decide (i < 64) && l.any (fun f => decide (f.1 ≤ i ∧ i < f.1 + f.2))) := by
  have hfold : ∀ (l : List (Nat × Nat)) (m : Word),
      (l.foldl (fun m f => m ||| (BitVec.ofNat 64 (2 ^ f.2 - 1) <<< f.1)) m).getLsbD i =
        (m.getLsbD i || (decide (i < 64) && l.any (fun f => decide (f.1 ≤ i ∧ i < f.1 + f.2)))) := by
    intro l
    induction l with
    | nil => simp
    | cons f l ih =>
      intro m
      rw [List.foldl_cons, ih, BitVec.getLsbD_or, getLsbD_onesAt, List.any_cons]
      by_cases hi : i < 64 <;> simp [hi, Bool.or_assoc]
  simpa [maskOf] using hfold l 0

/-- Keeping a list of fields of a value is masking it. -/
theorem fields_eq_and_maskOf (l : List (Nat × Nat)) (v : Word) : fields l v = v &&& maskOf l := by
  have hfold : ∀ (l : List (Nat × Nat)) (m : Word),
      l.foldl (fun w f => w ||| (v &&& regMask f.1 f.2)) (v &&& m) =
        v &&& l.foldl (fun m f => m ||| (BitVec.ofNat 64 (2 ^ f.2 - 1) <<< f.1)) m := by
    intro l
    induction l with
    | nil => intro m; rfl
    | cons f l ih =>
      intro m
      rw [List.foldl_cons, List.foldl_cons, ← BitVec.and_or_distrib_left]
      exact ih _
  simpa [fields, maskOf] using hfold l 0

theorem getLsbD_maskOf_iff {l : List (Nat × Nat)} {i : Nat} :
    (maskOf l).getLsbD i = true ↔ i < 64 ∧ ∃ f ∈ l, f.1 ≤ i ∧ i < f.1 + f.2 := by
  rw [getLsbD_maskOf, Bool.and_eq_true, List.any_eq_true, decide_eq_true_eq]
  simp only [decide_eq_true_eq]

/-- A bit of one of the fields is kept. -/
theorem getLsbD_fields_of_mem {l : List (Nat × Nat)} {f : Nat × Nat} {i : Nat} (v : Word) (hf : f ∈ l) (hlo : f.1 ≤ i)
    (hhi : i < f.1 + f.2) : (fields l v).getLsbD i = v.getLsbD i := by
  by_cases hi : i < 64
  · rw [fields_eq_and_maskOf, BitVec.getLsbD_and, getLsbD_maskOf_iff.mpr ⟨hi, f, hf, hlo, hhi⟩, Bool.and_true]
  · simp [BitVec.getLsbD_of_ge _ _ (Nat.le_of_not_lt hi)]

theorem bits_fields_of_mem {l : List (Nat × Nat)} {f : Nat × Nat} (v : Word) (hf : f ∈ l) :
    bits (fields l v) f.1 f.2 = bits v f.1 f.2 :=
  bits_congr fun _ hi => getLsbD_fields_of_mem v hf (Nat.le_add_right _ _) (Nat.add_lt_add_left hi _)

/-- Clearing a field clears its bits and leaves the others. -/
theorem getLsbD_putBits_zero (w : Word) (lo n i : Nat) :
    (putBits w lo n 0).getLsbD i = (w.getLsbD i && !decide (lo ≤ i ∧ i < lo + n)) := by
  by_cases hi : i < 64
  · simp only [putBits, Nat.zero_mod, BitVec.zero_shiftLeft, BitVec.or_zero, BitVec.getLsbD_and,
      BitVec.getLsbD_not, getLsbD_onesAt, hi, true_and, decide_true, Bool.true_and]
  · simp [BitVec.getLsbD_of_ge _ _ (Nat.le_of_not_lt hi)]

/-! ## Codes that a field does not take -/

/-- A field whose codes from `k` up store 0, as `FCSR.RM` and `TCTL.DRM` are written (R69, R70). -/
def clampField (lo n k : Nat) (w : Word) : Word := if bits w lo n ≥ k then putBits w lo n 0 else w

theorem storeFcsr_eq_clampField (v : Word) : storeFcsr v = clampField 5 3 5 (fields [(16, 8), (5, 3), (0, 5)] v) := rfl

theorem storeTctl_eq_clampField (ck : Bool) (old v : Word) :
    storeTctl ck old v =
      clampField 17 3 6 (fields [(24, 6), (16, 4), (12, 3)] v ||| ((if ck then v else old) &&& regMask 15 1)) := rfl

theorem clampField_of_lt {lo n k : Nat} {w : Word} (h : bits w lo n < k) : clampField lo n k w = w :=
  if_neg (Nat.not_le.mpr h)

theorem bits_clampField_lt {k : Nat} (lo n : Nat) (w : Word) (hk : 0 < k) : bits (clampField lo n k w) lo n < k := by
  by_cases h : bits w lo n < k
  · rwa [clampField_of_lt h]
  · rw [clampField, if_pos (Nat.le_of_not_lt h), bits_eq_zero]
    · exact hk
    · intro i hi
      simp [getLsbD_putBits_zero, hi]

theorem getLsbD_clampField {lo n i : Nat} (k : Nat) (w : Word) (hi : ¬ (lo ≤ i ∧ i < lo + n)) :
    (clampField lo n k w).getLsbD i = w.getLsbD i := by
  unfold clampField
  split
  · rw [getLsbD_putBits_zero, decide_eq_false hi, Bool.not_false, Bool.and_true]
  · rfl

theorem bits_storeFcsr_lt (v : Word) : bits (storeFcsr v) 5 3 < 5 := bits_clampField_lt 5 3 _ (by decide)

/-- `FCSR` takes every field but RM as written. -/
theorem storeFcsr_and_fields (v : Word) :
    storeFcsr v &&& maskOf [(16, 8), (0, 5)] = v &&& maskOf [(16, 8), (0, 5)] := by
  refine BitVec.eq_of_getLsbD_eq fun i hi => ?_
  rw [BitVec.getLsbD_and, BitVec.getLsbD_and]
  cases hm : (maskOf [(16, 8), (0, 5)]).getLsbD i with
  | false => simp
  | true =>
    obtain ⟨-, f, hf, hlo, hhi⟩ := getLsbD_maskOf_iff.mp hm
    have hmem : f ∈ [(16, 8), (5, 3), (0, 5)] := List.cons_subset_cons _ (List.subset_cons_self _ _) hf
    have hout : ¬ (5 ≤ i ∧ i < 5 + 3) := by
      simp only [List.mem_cons, List.not_mem_nil, or_false] at hf
      rcases hf with rfl | rfl <;> omega
    rw [storeFcsr_eq_clampField, getLsbD_clampField _ _ hout, getLsbD_fields_of_mem v hmem hlo hhi]

/-- `FCSR.RM` takes a code that is a mode. -/
theorem bits_storeFcsr_of_lt {v : Word} (h : bits v 5 3 < 5) : bits (storeFcsr v) 5 3 = bits v 5 3 := by
  have hf : bits (fields [(16, 8), (5, 3), (0, 5)] v) 5 3 = bits v 5 3 := bits_fields_of_mem (f := (5, 3)) v (by decide)
  rw [storeFcsr_eq_clampField, clampField_of_lt (hf ▸ h), hf]

theorem bits_storeTctl_lt (ck : Bool) (old v : Word) : bits (storeTctl ck old v) 17 3 < 6 :=
  bits_clampField_lt 17 3 _ (by decide)

/-- CKMODE is written where `ck` says so, and stays elsewhere. -/
theorem getLsbD_storeTctl_ckmode (ck : Bool) (old v : Word) :
    (storeTctl ck old v).getLsbD 15 = if ck then v.getLsbD 15 else old.getLsbD 15 := by
  rw [storeTctl_eq_clampField, getLsbD_clampField _ _ (by decide), fields_eq_and_maskOf]
  simp only [BitVec.getLsbD_or, BitVec.getLsbD_and, getLsbD_maskOf, getLsbD_regMask]
  cases ck <;> simp

/-! ## `STATUS` -/

/-- The bits of `STATUS` that a level writes: STEP, and each IE within its reach. -/
theorem getLsbD_storeStatus (pl : Nat) (old v : Word) (i : Nat) :
    (storeStatus pl old v).getLsbD i =
      if i = 7 ∨ i = 4 ∨ i = 5 ∧ 2 ≤ pl ∨ i = 6 ∧ 3 ≤ pl then v.getLsbD i else old.getLsbD i := by
  have hm : (regMask 7 1 ||| regMask 4 1 ||| (if pl ≥ 2 then regMask 5 1 else 0) |||
      (if pl ≥ 3 then regMask 6 1 else 0)).getLsbD i = decide (i = 7 ∨ i = 4 ∨ i = 5 ∧ 2 ≤ pl ∨ i = 6 ∧ 3 ≤ pl) := by
    simp only [BitVec.getLsbD_or, getLsbD_regMask, apply_ite (fun w : Word => w.getLsbD i)]
    rw [Bool.eq_iff_iff]
    split <;> split <;> simp <;> omega
  by_cases hi : i < 64
  · simp only [storeStatus, BitVec.getLsbD_or, BitVec.getLsbD_and, BitVec.getLsbD_not, hm, hi]
    split <;> simp [*]
  · simp [BitVec.getLsbD_of_ge _ _ (Nat.le_of_not_lt hi)]

theorem pl_storeStatus (pl : Nat) (old v : Word) : bits (storeStatus pl old v) 0 2 = bits old 0 2 :=
  bits_congr fun i hi => by
    rw [getLsbD_storeStatus, if_neg (by omega)]

/-! ## The registers with a layout -/

/-- The registers that store the bits of a fixed layout of the value written, and their fields (R72, R288, R310). -/
def registerLayouts : List (Nat × List (Nat × Nat)) :=
  [(0x004, [(1, 55)]), (0x005, [(63, 1), (16, 16), (0, 8)]), (0x006, [(1, 55)]), (0x007, [(0, 64)]),
   (0x010, [(16, 40)]), (0x011, [(16, 40)]), (0x012, [(16, 36)]),
   (0x102, [(1, 55)]), (0x104, [(1, 55)]), (0x105, [(0, 64)]), (0x106, [(0, 64)]), (0x108, [(12, 52)]),
   (0x109, [(0, 28)]), (0x10A, [(0, 3)]), (0x202, [(1, 55)]), (0x204, [(1, 55)]), (0x205, [(0, 64)]),
   (0x206, [(0, 64)]), (0x208, [(16, 1), (0, 12)]), (0x209, [(12, 40)]), (0x20A, [(12, 40)]),
   (0x220, [(8, 2), (0, 5)]), (0x302, [(1, 55)]), (0x304, [(1, 55)]), (0x305, [(0, 64)]), (0x306, [(0, 64)]),
   (0x308, [(0, 7)])]

/-- The numbers of the registers with a layout. -/
def laidOut : List Nat := registerLayouts.map (·.1)

/-- The registers with a behaviour of their own when written. -/
def writtenApart : List Nat := [0x003, 0x10E, 0x10F, 0x222, 0x310, 0x311, 0x313]

theorem writeSys_eq_writePlain {n : Nat} (h : n ∉ writtenApart) (v : Word) (s : State) :
    writeSys n v s = .ok (writePlain n v s) := by
  unfold writeSys
  split
  case h_8 => rfl
  all_goals exact absurd (by decide) h

theorem laidOut_writtenPlain {n : Nat} (h : n ∈ laidOut) : n ∉ writtenApart :=
  (by decide : ∀ n ∈ laidOut, n ∉ writtenApart) n h

theorem laidOut_known {n : Nat} (h : n ∈ laidOut) : n ∈ userRegs ++ highRegs :=
  (by decide : ∀ n ∈ laidOut, n ∈ userRegs ++ highRegs) n h

theorem mem_laidOut {n : Nat} {x : List (Nat × Nat)} (h : (n, x) ∈ registerLayouts) : n ∈ laidOut :=
  List.mem_map_of_mem (f := Prod.fst) h

/-- What a register with these fields stores; one with the whole word as its field, the value. -/
def storedFields (x : List (Nat × Nat)) (v : Word) : Word := if x = [(0, 64)] then v else fields x v

theorem storedFields_eq_and_maskOf (x : List (Nat × Nat)) (v : Word) : storedFields x v = v &&& maskOf x := by
  unfold storedFields
  split
  · subst x
    exact BitVec.and_allOnes.symm
  · exact fields_eq_and_maskOf x v

/-- A write as the registers see it: without the note of the firmware's handler that a write of `MTVEC` makes. -/
def writeUnnoted (n : Nat) (v : Word) (s : State) : State :=
  if n = 0x302 then { s with ctx.prv.mon := setTrapReg 3 2 v s.ctx.prv.mon } else writePlain n v s

theorem readSys_noteHandler (m : Nat) (v : Word) (s : State) : readSys m (noteHandler v s) = readSys m s := by
  unfold noteHandler
  split <;> rfl

theorem readSys_writePlain (m n : Nat) (v : Word) (s : State) :
    readSys m (writePlain n v s) = readSys m (writeUnnoted n v s) := by
  unfold writeUnnoted
  split
  · subst n
    exact readSys_noteHandler m v _
  · rfl

/-- A register with a layout reads back what the layout stores. -/
theorem readSys_writeUnnoted_same {n : Nat} {x : List (Nat × Nat)} (h : (n, x) ∈ registerLayouts) (v : Word) (s : State) :
    readSys n (writeUnnoted n v s) = storedFields x v := by
  unfold registerLayouts at h
  fin_cases h <;> rfl

/-- A write to a register with a layout leaves every other one: so for each pair of them. -/
theorem readSys_writeUnnoted_other {n m : Nat} (hn : n ∈ laidOut) (hm : m ∈ laidOut) (v : Word) (s : State) :
    readSys m (writeUnnoted n v s) = if m = n then readSys n (writeUnnoted n v s) else readSys m s := by
  unfold laidOut registerLayouts at hn hm
  fin_cases hn <;> fin_cases hm <;> rfl

/-- A plain write of a register with a layout: it takes its fields, and every other one stays (R288). -/
theorem writePlain_layout {n : Nat} {x : List (Nat × Nat)} (h : (n, x) ∈ registerLayouts) (v : Word) (s : State) :
    readSys n (writePlain n v s) = v &&& maskOf x ∧
      ∀ m, m ∈ laidOut → m ≠ n → readSys m (writePlain n v s) = readSys m s := by
  refine ⟨?_, fun m hm hne => ?_⟩
  · rw [readSys_writePlain, readSys_writeUnnoted_same h, storedFields_eq_and_maskOf]
  · rw [readSys_writePlain, readSys_writeUnnoted_other (mem_laidOut h) hm, if_neg hne]

@[simp] theorem readSys_healCtl (m n : Nat) (s : State) : readSys m (healCtl n s) = readSys m s := rfl

/-! ## Access -/

theorem userRegs_lt {n : Nat} (h : n ∈ userRegs) : n < 0x100 :=
  (by decide : ∀ n ∈ userRegs, n < 0x100) n h

theorem le_highRegs {n : Nat} (h : n ∈ highRegs) : 0x100 ≤ n :=
  (by decide : ∀ n ∈ highRegs, 0x100 ≤ n) n h

/-- Who may access a register: a level that reaches it, and no user write of a read-only one (R68, R286). -/
theorem gate_ok {n : Nat} {write : Bool} {s : State} (hn : n ∈ userRegs ++ highRegs) (hl : n / 256 ≤ s.pl)
    (hw : write = true → s.pl = 0 → n ∉ userReadOnly) : gate n write s = .ok () := by
  unfold gate
  rcases List.mem_append.mp hn with hu | hh
  · have hro : ¬ ((s.pl = 0 && write && userReadOnly.contains n) = true) := by
      simp only [Bool.and_eq_true, decide_eq_true_eq, List.contains_iff_mem]
      exact fun ⟨⟨hp, hwr⟩, hm⟩ => hw hwr hp hm
    rw [if_pos (userRegs_lt hu), if_neg (by simpa using hu), if_neg hro]
  · have hge := le_highRegs hh
    rw [if_neg (by omega), if_neg (by omega), if_neg (by simpa using hh), if_neg (by omega)]

theorem gateSet_ok {n : Nat} {s : State} (hn : n ∈ userRegs ++ highRegs) (hl : n / 256 ≤ s.pl) (hp : 1 ≤ s.pl) :
    gateSet n s = .ok () := by
  have hg : gate n true s = .ok () := gate_ok hn hl (fun _ h0 => by omega)
  unfold gateSet
  rw [hg]
  exact if_neg (by omega)

theorem clean_pair {s : State} {x y : Src} (hx : clean s [x] = true) (hy : clean s [y] = true) :
    clean s [x, y] = true := by
  simp_all [clean]

theorem exec_srd (fm : Form) (d n : Nat) (s : State) : exec (.srd fm d n) s = execSrd fm d n s := rfl

theorem exec_swr (fm : Form) (a n : Nat) (s : State) : exec (.swr fm a n) s = execSwr fm a n s := rfl

theorem exec_sset (fm : Form) (d a n : Nat) (s : State) : exec (.sset fm d a n) s = execSset fm d a n s := rfl

theorem exec_sclr (fm : Form) (d a n : Nat) (s : State) : exec (.sclr fm d a n) s = execSclr fm d a n s := rfl

section
variable {fm : Form} {d a n : Nat} {s t : State}

theorem exec_srd_ok (hg : gate n false s = .ok ()) (hc : clean s [.ctl n] = true) :
    exec (.srd fm d n) s = retires (fm.len 48) (wg s d (readSys n s)) :=
  (exec_srd ..).trans (runOne_ok (by rw [hg, need_ok hc]; rfl))

theorem exec_swr_ok (hg : gate n true s = .ok ()) (hc : clean s [.g a] = true)
    (hw : writeSys n (rg s a) (healCtl n s) = .ok t) : exec (.swr fm a n) s = retires (fm.len 48) t :=
  (exec_swr ..).trans (runOne_ok (by rw [hg, need_ok hc]; exact hw))

theorem exec_sset_ok (hg : gateSet n s = .ok ()) (hc : clean s [.g a, .ctl n] = true)
    (hw : writeSys n (readSys n s ||| rg s a) s = .ok t) :
    exec (.sset fm d a n) s = retires (fm.len 48) (wg t d (readSys n s)) :=
  (exec_sset ..).trans (runOne_ok (by rw [hg, need_ok hc]; simp only [bind, Except.bind, hw]))

theorem exec_sclr_ok (hg : gateSet n s = .ok ()) (hc : clean s [.g a, .ctl n] = true)
    (hw : writeSys n (readSys n s &&& ~~~rg s a) s = .ok t) :
    exec (.sclr fm d a n) s = retires (fm.len 48) (wg t d (readSys n s)) :=
  (exec_sclr ..).trans (runOne_ok (by rw [hg, need_ok hc]; simp only [bind, Except.bind, hw]))

end

/-- `SWR` of a register without a behaviour of its own, from a level that may write it. -/
theorem exec_swr_plain {fm : Form} {a n : Nat} {s : State} (hn : n ∈ userRegs ++ highRegs) (hl : n / 256 ≤ s.pl)
    (hro : s.pl = 0 → n ∉ userReadOnly) (hpl : n ∉ writtenApart) (hc : clean s [.g a] = true) :
    exec (.swr fm a n) s = retires (fm.len 48) (writePlain n (rg s a) (healCtl n s)) :=
  exec_swr_ok (gate_ok hn hl fun _ => hro) hc (writeSys_eq_writePlain hpl _ _)

/-- `SWR` of a register with a layout. -/
theorem exec_swr_layout {fm : Form} {a n : Nat} {x : List (Nat × Nat)} {s : State} (hx : (n, x) ∈ registerLayouts)
    (hl : n / 256 ≤ s.pl) (hro : s.pl = 0 → n ∉ userReadOnly) (hc : clean s [.g a] = true) :
    ∃ t, exec (.swr fm a n) s = retires (fm.len 48) t ∧ readSys n t = rg s a &&& maskOf x ∧
      ∀ m, m ∈ laidOut → m ≠ n → readSys m t = readSys m s :=
  have hn := mem_laidOut hx
  ⟨_, exec_swr_plain (laidOut_known hn) hl hro (laidOut_writtenPlain hn) hc, writePlain_layout hx _ _⟩

/-- `SSET` and `SCLR` of a register with a layout, above user level. -/
theorem exec_sset_sclr_layout {fm : Form} {d a n : Nat} {x : List (Nat × Nat)} {s : State}
    (hx : (n, x) ∈ registerLayouts) (hp : 1 ≤ s.pl) (hl : n / 256 ≤ s.pl) (ha : clean s [.g a] = true)
    (hc : clean s [.ctl n] = true) :
    ∃ t u, exec (.sset fm d a n) s = retires (fm.len 48) (wg t d (readSys n s)) ∧
      readSys n t = (readSys n s ||| rg s a) &&& maskOf x ∧
      exec (.sclr fm d a n) s = retires (fm.len 48) (wg u d (readSys n s)) ∧
      readSys n u = (readSys n s &&& ~~~rg s a) &&& maskOf x := by
  have hn := mem_laidOut hx
  have hg : gateSet n s = .ok () := gateSet_ok (laidOut_known hn) hl hp
  have hw (v : Word) := writeSys_eq_writePlain (laidOut_writtenPlain hn) v s
  exact ⟨_, _, exec_sset_ok hg (clean_pair ha hc) (hw _), (writePlain_layout hx _ _).1,
    exec_sclr_ok hg (clean_pair ha hc) (hw _), (writePlain_layout hx _ _).1⟩

/-! ## The guarded fields -/

/-- What `SWR` leaves in `FCSR` (R69). -/
theorem exec_swr_fcsr {fm : Form} {a : Nat} {s : State} (hc : clean s [.g a] = true) :
    ∃ t, exec (.swr fm a 0x001) s = retires (fm.len 48) t ∧ t.ctx.ctl.fcsr = storeFcsr (rg s a) :=
  ⟨_, exec_swr_plain (by decide) (Nat.zero_le _) (fun _ => by decide) (by decide) hc, rfl⟩

/-- What `SWR` leaves in `TCTL` (R70). -/
theorem exec_swr_tctl {fm : Form} {a : Nat} {s : State} (hc : clean s [.g a] = true) :
    ∃ t, exec (.swr fm a 0x002) s = retires (fm.len 48) t ∧
      t.ctx.ctl.tctl = storeTctl (decide (s.pl ≥ 1)) s.ctx.ctl.tctl (rg s a) :=
  ⟨_, exec_swr_plain (by decide) (Nat.zero_le _) (fun _ => by decide) (by decide) hc, rfl⟩

/-- What `SWR` leaves in `STATUS` (R288). -/
theorem exec_swr_status {fm : Form} {a : Nat} {s : State} (hp : 1 ≤ s.pl) (hc : clean s [.g a] = true) :
    ∃ t, exec (.swr fm a 0x100) s = retires (fm.len 48) t ∧
      t.ctx.prv.status = storeStatus s.pl s.ctx.prv.status (rg s a) :=
  ⟨_, exec_swr_plain (by decide) hp (fun _ => by decide) (by decide) hc, rfl⟩

/-- Settles O33: `SRD` by its gate; the registers with a layout by the write of each; the guarded fields of `FCSR`,
`TCTL` and `STATUS` by the bits their stores take. -/
theorem systemRegisterAccess : Obligations.SystemRegisterAccess := by
  unfold Obligations.SystemRegisterAccess
  refine ⟨fun fm d a n s => ⟨?_, ?_, ?_⟩, fun fm a s hc => ⟨?_, ?_, ?_⟩⟩
  · exact fun hn _ hl hc => exec_srd_ok (gate_ok hn hl (by simp)) hc
  · exact fun x hx hp hl ha => ⟨exec_swr_layout hx hl (fun h0 => absurd hp (by omega)) ha,
      exec_sset_sclr_layout hx hp hl ha⟩
  · intro h0 hc hn
    have hx : (n, [(1, 55)]) ∈ registerLayouts :=
      (by decide : ∀ n ∈ [0x004, 0x006], (n, [(1, 55)]) ∈ registerLayouts) n hn
    have hro : n / 256 = 0 ∧ n ∉ userReadOnly :=
      (by decide : ∀ n ∈ [0x004, 0x006], n / 256 = 0 ∧ n ∉ userReadOnly) n hn
    obtain ⟨t, ht, hr, -⟩ := exec_swr_layout hx (by omega) (fun _ => hro.2) hc
    exact ⟨t, ht, hr⟩
  · obtain ⟨t, ht, hf⟩ := exec_swr_fcsr hc
    refine ⟨t, ht, ?_⟩
    rw [hf]
    exact ⟨bits_storeFcsr_lt _, storeFcsr_and_fields _, bits_storeFcsr_of_lt⟩
  · obtain ⟨t, ht, hf⟩ := exec_swr_tctl hc
    refine ⟨t, ht, ?_⟩
    rw [hf]
    refine ⟨bits_storeTctl_lt _ _ _, ?_⟩
    simp only [getLsbD_storeTctl_ckmode, decide_eq_true_eq, ge_iff_le, Nat.one_le_iff_ne_zero, ite_not]
  · intro hp
    obtain ⟨t, ht, hf⟩ := exec_swr_status hp hc
    refine ⟨t, ht, ?_⟩
    simp only [State.pl, State.ie, hf, pl_storeStatus, getLsbD_storeStatus]
    simp

end Sys2Proof.Machine

/-! PROOFS. The state at reset, and the events of boot, health monitoring and the roll call (R15, R403 to R407, R426 to
R435). -/

namespace Sys2Proof.Machine

/-! ## Writes of a field of a word -/

theorem testBit_bits (w : Word) (lo n i : Nat) : (bits w lo n).testBit i = (decide (i < n) && w.getLsbD (lo + i)) := by
  rw [bits_eq_extractLsb', BitVec.testBit_toNat, BitVec.getLsbD_extractLsb']

/-- The bits of a written field are those of the value; every other bit stays. -/
theorem getLsbD_putBits (w : Word) (lo n v i : Nat) :
    (putBits w lo n v).getLsbD i =
      if lo ≤ i ∧ i < lo + n then decide (i < 64) && v.testBit (i - lo) else w.getLsbD i := by
  have hor : putBits w lo n v = putBits w lo n 0 ||| (BitVec.ofNat 64 (v % 2 ^ n) <<< lo) := by simp [putBits]
  rw [hor, BitVec.getLsbD_or, getLsbD_putBits_zero, BitVec.getLsbD_shiftLeft, BitVec.getLsbD_ofNat,
    Nat.testBit_mod_two_pow]
  split
  next h =>
    by_cases hi : i < 64
    · simp [h, hi, show i - lo < n by omega, show i - lo < 64 by omega]
    · simp [h, hi]
  next h =>
    by_cases hlo : i < lo
    · simp [h, hlo]
    · simp [h, show ¬ i - lo < n by omega]

/-- A written field reads as the value's low bits. -/
theorem bits_putBits_same {lo n : Nat} (w : Word) (v : Nat) (h : lo + n ≤ 64) :
    bits (putBits w lo n v) lo n = v % 2 ^ n := by
  refine Nat.eq_of_testBit_eq fun i => ?_
  rw [testBit_bits, Nat.testBit_mod_two_pow, getLsbD_putBits]
  by_cases hi : i < n
  · rw [if_pos (by omega), Nat.add_sub_cancel_left, decide_eq_true (show lo + i < 64 by omega), Bool.true_and]
  · rw [decide_eq_false hi, Bool.false_and, Bool.false_and]

/-- A field that does not meet the written one reads as before. -/
theorem bits_putBits_other {lo n lo' n' : Nat} (w : Word) (v : Nat) (h : lo + n ≤ lo' ∨ lo' + n' ≤ lo) :
    bits (putBits w lo n v) lo' n' = bits w lo' n' :=
  bits_congr fun i hi => by rw [getLsbD_putBits, if_neg (by omega)]

/-! ## Steps over a list of distinct keys -/

/-- Where each step of a fold takes what stands at its own key by `R` and leaves every other key, the fold does so at
each key of a list without repeats. -/
theorem foldl_at_key {σ β κ γ : Type} {f : σ → β → σ} {key : β → κ} {get : σ → κ → γ}
    {R : κ → γ → γ → Prop} (same : ∀ s b, R (key b) (get s (key b)) (get (f s b) (key b)))
    (other : ∀ s b k, k ≠ key b → get (f s b) k = get s k) (k : κ) :
    ∀ (l : List β) (s : σ), (l.map key).Nodup →
      (k ∉ l.map key → get (l.foldl f s) k = get s k) ∧
      (k ∈ l.map key → R k (get s k) (get (l.foldl f s) k)) := by
  intro l
  induction l with
  | nil => exact fun s _ => ⟨fun _ => rfl, fun h => absurd h List.not_mem_nil⟩
  | cons b l ih =>
    intro s hl
    rw [List.map_cons, List.nodup_cons] at hl
    obtain ⟨hout, hin⟩ := ih (f s b) hl.2
    rw [List.map_cons, List.foldl_cons]
    refine ⟨fun hk => ?_, fun hk => ?_⟩
    · rw [hout (List.not_mem_of_not_mem_cons hk), other s b k (List.ne_of_not_mem_cons hk)]
    · obtain rfl | hk := List.mem_cons.mp hk
      · rw [hout hl.1]
        exact same s b
      · have hne : k ≠ key b := fun h => hl.1 (h ▸ hk)
        rw [← other s b k hne]
        exact hin hk

/-! ## Cores by number -/

section
variable (s : State) {m n : Nat} (c : CoreSt) (x : Ctx)

@[simp] theorem setCore_frame :
    (setCore s n c).cur = s.cur ∧ (setCore s n c).ctx = s.ctx ∧ (setCore s n c).mem = s.mem ∧
    (setCore s n c).boot = s.boot := by
  unfold setCore
  split <;> and_intros <;> rfl

@[simp] theorem getCore_setCore_same : getCore (setCore s n c) n = c := by
  unfold setCore
  by_cases h : n = s.cur <;> simp [getCore, h]

theorem getCore_setCore_other (h : m ≠ n) : getCore (setCore s n c) m = getCore s m := by
  unfold setCore getCore
  by_cases hn : n = s.cur
  · simp [hn, show m ≠ s.cur from hn ▸ h]
  · have hf : ∀ e : Nat × CoreSt, decide (e.1 ≠ n ∧ e.1 = m) = decide (e.1 = m) := fun e => by
      by_cases he : e.1 = m <;> simp [he, h]
    simp only [if_neg hn, List.find?_cons_of_neg (p := fun e : Nat × CoreSt => decide (e.1 = m)) (a := (n, c))
      (by simpa using h.symm), List.find?_filter, decide_eq_true_eq, hf]

theorem activeOf_setCore_other (h : m ≠ n) : activeOf (setCore s n c) m = activeOf s m := by
  unfold activeOf
  by_cases hm : m = s.cur
  · have hn : ¬ n = s.cur := fun hn => h (hm.trans hn.symm)
    simp [setCore, hm, hn]
  · simp only [setCore_frame, if_neg hm, getCore_setCore_other s c h]

@[simp] theorem setActive_frame :
    (setActive s n x).cur = s.cur ∧ (setActive s n x).mem = s.mem ∧ (setActive s n x).boot = s.boot := by
  unfold setActive
  split <;> simp

@[simp] theorem activeOf_setActive_same : activeOf (setActive s n x) n = some x := by
  unfold setActive
  by_cases h : n = s.cur <;> simp [activeOf, h]

theorem activeOf_setActive_other (h : m ≠ n) : activeOf (setActive s n x) m = activeOf s m := by
  unfold setActive
  by_cases hn : n = s.cur
  · have hm : m ≠ s.cur := hn ▸ h
    simp [activeOf, getCore, hn, hm]
  · rw [if_neg hn, activeOf_setCore_other s _ h]

/-- An active context changes nothing else of its core but that its bank is occupied. -/
@[simp] theorem getCore_setActive_same :
    (getCore (setActive s n x) n).released = (getCore s n).released ∧
    (getCore (setActive s n x) n).lodge = (getCore s n).lodge := by
  unfold setActive
  by_cases h : n = s.cur
  · simp [getCore, h]
  · simp [h]

theorem getCore_setActive_other (h : m ≠ n) : getCore (setActive s n x) m = getCore s m := by
  unfold setActive
  by_cases hn : n = s.cur
  · have hm : m ≠ s.cur := hn ▸ h
    simp [getCore, hn, hm]
  · rw [if_neg hn, getCore_setCore_other s _ h]

end

/-! ## The state at reset -/

/-- At reset every core has its reset value (R426). -/
theorem getCore_reset (n : Nat) : getCore State.reset n = CoreSt.reset := by
  unfold getCore
  split <;> rfl

theorem trapSet_reset (l : Nat) : State.reset.trapSet l = .reset := by
  unfold State.trapSet
  split <;> rfl

/-- Settles O55: the cores and the trap registers for every number, the rest by evaluation of the reset state. -/
theorem resetState : Obligations.ResetState := by
  unfold Obligations.ResetState
  refine ⟨reset_memOk, rfl, rfl, fun n _ => ?_, rfl, by decide, rfl, rfl, rfl, rfl, rfl, trapSet_reset, rfl, rfl,
    by decide, by decide, rfl⟩
  rw [getCore_reset]
  rfl

/-! ## Stages -/

theorem atStage_iff {s : State} {n : Nat} : atStage s n = true ↔ stage s = n ∧ s.boot.stuck = false := by
  simp [atStage]

theorem stage_toStage {n : Nat} (s : State) (h : n < 16) : stage (toStage n s) = n :=
  (bits_putBits_same s.boot.bootst n (by decide)).trans (Nat.mod_eq_of_lt h)

/-- A move to a stage leaves the fields of `BOOTST` above STAGE. -/
theorem bits_toStage {lo : Nat} (n k : Nat) (s : State) (h : 4 ≤ lo) :
    bits (toStage n s).boot.bootst lo k = bits s.boot.bootst lo k := bits_putBits_other _ _ (.inl h)

theorem exec_packageReset (s : State) : exec .packageReset s = .next (resetPackage s) := rfl

theorem stage_resetPackage (s : State) : stage (resetPackage s) = 0 := (by decide : bits 0 0 4 = 0)

theorem exec_powerOnStable (s : State) : exec .powerOnStable s = .next (if atStage s 0 then toStage 1 s else s) := rfl

/-! ### Stage 1: the check of the root -/

/-- What a measurement register holds after the image of its number (R429). -/
def measured (i : Nat) (m : BitVec 256) : BitVec 256 :=
  digestValue (sm3 (digestBytes m ++ digestBytes (Config.imageDigest i)))

/-- The state that a boot chain which verifies leads to (R414, R426). -/
def rootVerified (s : State) : State :=
  toStage 2 { measureChain s with pkg := Config.packageNumber % 256, fab.present := Config.packagesPresent }

theorem exec_rootCheck_off {s : State} (ok : Bool) (h : atStage s 1 = false) : exec (.rootCheck ok) s = .next s := by
  change execRootCheck ok s = _
  simp [execRootCheck, h]

theorem exec_rootCheck_fails {s : State} (h : atStage s 1 = true) :
    exec (.rootCheck false) s = .next (failStage s) := by
  change execRootCheck false s = _
  simp [execRootCheck, h]

theorem exec_rootCheck_verifies {s : State} (h : atStage s 1 = true) :
    exec (.rootCheck true) s = .next (rootVerified s) := by
  change execRootCheck true s = _
  simp [execRootCheck, h, rootVerified]

theorem measure_extendMeasure_same (i : Nat) (s : State) :
    (extendMeasure i (digestBytes (Config.imageDigest i)) s).boot.measure[i]? =
      (s.boot.measure[i]?).map (measured i) := by
  by_cases h : i < 8 <;> simp [extendMeasure, measured, h]

theorem measure_extendMeasure_other {i k : Nat} (d : List Byte) (s : State) (h : k ≠ i) :
    (extendMeasure i d s).boot.measure[k]? = s.boot.measure[k]? :=
  Vector.getElem?_setIfInBounds_ne h.symm

/-- Registers 0 to 3 take their images, the others stay. -/
theorem measure_measureChain (s : State) (i : Nat) :
    (measureChain s).boot.measure[i]? = (s.boot.measure[i]?).map (fun m => if i < 4 then measured i m else m) := by
  unfold measureChain
  obtain ⟨hout, hin⟩ := foldl_at_key (key := id)
    (f := fun s i => extendMeasure i (digestBytes (Config.imageDigest i)) s)
    (get := fun s i => s.boot.measure[i]?) (R := fun i x y => y = x.map (measured i))
    (fun s i => measure_extendMeasure_same i s) (fun s i k h => measure_extendMeasure_other _ s h) i (List.range 4) s
    (by decide)
  rw [List.map_id, List.mem_range] at hout hin
  by_cases h : i < 4
  · simpa [h] using hin h
  · simpa [h] using hout h

/-! ### Stage 2: the die links -/

theorem testBit_mod_sixteen {d : Nat} (n : Nat) (hd : d < 4) : (n % 16).testBit d = n.testBit d := by
  rw [show 16 = 2 ^ 4 from rfl, Nat.testBit_mod_two_pow, decide_eq_true hd, Bool.true_and]

/-- Only the low four bits of a mask of links count. -/
theorem failedLinks_mod (a : Nat) : failedLinks (a % 16) = failedLinks a :=
  congrArg List.length (List.filter_congr fun d hd => by rw [testBit_mod_sixteen a (List.mem_range.mp hd)])

/-- The state after the training of the die links: two or more that failed leave the package at its stage (R426,
R430). -/
def dieLinksTrained (a b : Nat) (s : State) : State :=
  if 2 ≤ failedLinks a then failStage (setDieLinks (a % 16) (b % 16) s)
  else toStage 3 (setDieLinks (a % 16) (b % 16) s)

theorem exec_dieLinkTraining_off {s : State} (a b : Nat) (h : atStage s 2 = false) :
    exec (.dieLinkTraining a b) s = .next s := by
  change execDieLinkTraining a b s = _
  simp [execDieLinkTraining, h]

theorem exec_dieLinkTraining_on {s : State} (a b : Nat) (h : atStage s 2 = true) :
    exec (.dieLinkTraining a b) s = .next (dieLinksTrained a b s) := by
  change execDieLinkTraining a b s = _
  simp [execDieLinkTraining, h, dieLinksTrained, failedLinks_mod]

/-- `BOOTST` shows both masks of links, and the live dies (R430). -/
theorem bits_setDieLinks (a b : Nat) (s : State) :
    bits (setDieLinks (a % 16) (b % 16) s).boot.bootst 48 4 = a % 16 ∧
    bits (setDieLinks (a % 16) (b % 16) s).boot.bootst 52 4 = b % 16 ∧
    bits (setDieLinks (a % 16) (b % 16) s).boot.bootst 4 4 = b % 16 ∧
    stage (setDieLinks (a % 16) (b % 16) s) = stage s := by
  unfold setDieLinks stage
  refine ⟨?_, ?_, ?_, ?_⟩
  · rw [bits_putBits_other _ _ (by decide), bits_putBits_other _ _ (by decide), bits_putBits_same _ _ (by decide)]
    exact Nat.mod_mod _ _
  · rw [bits_putBits_other _ _ (by decide), bits_putBits_same _ _ (by decide)]
    exact Nat.mod_mod _ _
  · rw [bits_putBits_same _ _ (by decide)]
    exact Nat.mod_mod _ _
  · rw [bits_putBits_other _ _ (by decide), bits_putBits_other _ _ (by decide), bits_putBits_other _ _ (by decide)]

/-- A die is live once its links have come up (R389, R430). -/
theorem dieLive_setDieLinks {d : Nat} (a b : Nat) (s : State) (hd : d < 4) :
    dieLive (setDieLinks (a % 16) (b % 16) s) d = b.testBit d := by
  rw [← testBit_mod_sixteen b hd]
  simp [dieLive, setDieLinks, hd]

/-- Neither end of the training changes the fields of `BOOTST` above STAGE. -/
theorem bits_dieLinksTrained {lo : Nat} (a b n : Nat) (s : State) (h : 4 ≤ lo) :
    bits (dieLinksTrained a b s).boot.bootst lo n = bits (setDieLinks (a % 16) (b % 16) s).boot.bootst lo n := by
  unfold dieLinksTrained
  split
  · rfl
  · exact bits_toStage 3 n _ h

theorem dieLive_dieLinksTrained {d : Nat} (a b : Nat) (s : State) (hd : d < 4) :
    dieLive (dieLinksTrained a b s) d = b.testBit d := by
  rw [← dieLive_setDieLinks a b s hd]
  unfold dieLinksTrained
  split <;> rfl

/-- Two or more links that failed leave the package at its stage. -/
theorem stage_dieLinksTrained_failed {a : Nat} (b : Nat) (s : State) (h : 2 ≤ failedLinks a) :
    stage (dieLinksTrained a b s) = stage s ∧ (dieLinksTrained a b s).boot.stuck = true := by
  rw [dieLinksTrained, if_pos h]
  exact ⟨(bits_setDieLinks a b s).2.2.2, rfl⟩

theorem stage_dieLinksTrained_moved {a : Nat} (b : Nat) (s : State) (h : failedLinks a < 2) :
    stage (dieLinksTrained a b s) = 3 ∧ (dieLinksTrained a b s).boot.stuck = s.boot.stuck := by
  rw [dieLinksTrained, if_neg (Nat.not_le.mpr h)]
  exact ⟨stage_toStage _ (by decide), rfl⟩

/-! ### Stage 3: HBM -/

/-- The state after the training of HBM: the stacks outside the mask have failed (R430). -/
def hbmTrained (ok : Nat) (s : State) : State :=
  toStage 4 { s with
    boot.bootst := putBits s.boot.bootst 36 12 ok
    coh.badStacks := ((List.range 12).filter (fun i => !ok.testBit i)).map (fun i => s.pkg * 256 + i)
    coh.healed := [] }

theorem exec_hbmTraining_off {s : State} (ok : Nat) (h : atStage s 3 = false) : exec (.hbmTraining ok) s = .next s := by
  change execHbmTraining ok s = _
  simp [execHbmTraining, h]

theorem exec_hbmTraining_on {s : State} (ok : Nat) (h : atStage s 3 = true) :
    exec (.hbmTraining ok) s = .next (hbmTrained ok s) := by
  change execHbmTraining ok s = _
  simp [execHbmTraining, h, hbmTrained]

theorem bits_hbmTrained (ok : Nat) (s : State) : bits (hbmTrained ok s).boot.bootst 36 12 = ok % 4096 :=
  (bits_toStage 4 12 _ (by decide)).trans (bits_putBits_same _ _ (by decide))

theorem poisonedLine_hbmTrained {ok i line : Nat} {s : State} (hi : i < 12) (hok : ok.testBit i = false)
    (hl : stackOf line = s.pkg * 256 + i) : poisonedLine (hbmTrained ok s).coh line = true := by
  have hbad : stackOf line ∈ (hbmTrained ok s).coh.badStacks :=
    List.mem_map.mpr ⟨i, List.mem_filter.mpr ⟨List.mem_range.mpr hi, by rw [hok]; rfl⟩, hl.symm⟩
  have hheal : (hbmTrained ok s).coh.healed = [] := rfl
  simp [poisonedLine, hbad, hheal]

/-! ### Stage 4: the release of the cores -/

/-- A core as its release leaves it: at the firmware's entry at monitor level, with nothing lodged (R427). -/
def started (s : State) (n : Nat) : Prop :=
  (getCore s n).released = true ∧ (getCore s n).lodge = none ∧
    ∃ c, activeOf s n = some c ∧ c.regs.pc = s.boot.fwEntry ∧ bits c.prv.status 0 2 = 3

@[simp] theorem releaseCore_frame (s : State) (n : Nat) :
    (releaseCore s n).mem = s.mem ∧ (releaseCore s n).boot = s.boot := by
  simp [releaseCore]

theorem releaseCore_same (s : State) (n : Nat) : started (releaseCore s n) n := by
  unfold started
  rw [(releaseCore_frame s n).2]
  unfold releaseCore
  refine ⟨?_, ?_, bootContext s n, ?_, rfl, (by decide : bits 3 0 2 = 3)⟩ <;> simp

theorem releaseCore_other {m n : Nat} (s : State) (h : m ≠ n) : started (releaseCore s n) m = started s m := by
  unfold started
  rw [(releaseCore_frame s n).2]
  simp only [releaseCore, getCore_setActive_other _ _ h, getCore_setCore_other _ _ h,
    activeOf_setActive_other _ _ h, activeOf_setCore_other _ _ h]

theorem foldl_releaseCore_frame (l : List Nat) (s : State) :
    (l.foldl releaseCore s).mem = s.mem ∧ (l.foldl releaseCore s).boot = s.boot :=
  l.foldlRecOn (motive := fun t : State => t.mem = s.mem ∧ t.boot = s.boot) releaseCore ⟨rfl, rfl⟩
    fun t ht n _ => by simpa using ht

/-- The repair record goes to the engines alone. -/
theorem restoreRecord_frame (s : State) : (restoreRecord s).mem = s.mem ∧ (restoreRecord s).boot = s.boot := by
  unfold restoreRecord
  refine List.foldlRecOn (motive := fun t : State => t.mem = s.mem ∧ t.boot = s.boot) _ _ ⟨rfl, rfl⟩
    fun t ht x _ => ?_
  dsimp only
  split <;> exact ht

/-- The state after the release of the cores of the live dies (R426, R427). -/
def coresReleased (s : State) : State :=
  (coreNumbers.filter (fun n => dieLive s (n / 64))).foldl releaseCore (restoreRecord s)

theorem exec_coreRelease_off {s : State} (h : atStage s 4 = false) : exec .coreRelease s = .next s := by
  change execCoreRelease s = _
  simp [execCoreRelease, h]

theorem exec_coreRelease_on {s : State} (h : atStage s 4 = true) :
    exec .coreRelease s = .next
      (toStage 5 { coresReleased s with sched.serial := max (coresReleased s).sched.serial 256 }) := by
  change execCoreRelease s = _
  simp [execCoreRelease, h, coresReleased]

theorem mem_coresReleased (s : State) : (coresReleased s).mem = s.mem :=
  (foldl_releaseCore_frame _ _).1.trans (restoreRecord_frame s).1

/-- The release leaves the firmware's entry address. -/
theorem boot_coresReleased (s : State) : (coresReleased s).boot = s.boot :=
  (foldl_releaseCore_frame _ _).2.trans (restoreRecord_frame s).2

/-- Every core of a live die starts. -/
theorem started_coresReleased {n : Nat} {s : State} (hn : n < 256) (hl : dieLive s (n / 64) = true) :
    started (coresReleased s) n := by
  refine (foldl_at_key (key := id) (get := started) (R := fun _ _ q => q) releaseCore_same
    (fun s _ _ h => releaseCore_other s h) n _ _ ?_).2 ?_ <;> rw [List.map_id]
  · exact List.nodup_range.filter _
  · exact List.mem_filter.mpr ⟨List.mem_range.mpr hn, hl⟩

/-! ## Health -/

/-- `HMDAT` of a reading: valid, its alarm and its value (R434). -/
def reading (alarm : Bool) (value : Nat) : Word :=
  BitVec.ofNat 64 (2 ^ 63 + (if alarm then 2 ^ 62 else 0) + value % 2 ^ 32)

/-- Monitor `idx` of a kind on a die shows a reading. -/
def monitorRefreshed (die kind idx : Nat) (w : Word) (s : State) : State :=
  { s with boot.health := (die, kind, idx, w) ::
      s.boot.health.filter (fun h => decide (¬ (h.1 = die ∧ h.2.1 = kind ∧ h.2.2.1 = idx))) }

theorem reading_fields (alarm : Bool) (value : Nat) :
    (reading alarm value).getLsbD 63 = true ∧ (reading alarm value).getLsbD 62 = alarm ∧
      bits (reading alarm value) 0 32 = value % 2 ^ 32 := by
  unfold reading bits
  simp only [BitVec.getLsbD_ofNat, BitVec.toNat_ofNat, Nat.testBit_eq_decide_div_mod_eq]
  have hv : value % 2 ^ 32 < 2 ^ 32 := Nat.mod_lt _ (by decide)
  generalize value % 2 ^ 32 = v at hv ⊢
  cases alarm <;> simp <;> omega

theorem exec_healthMonitorRefresh_off {die kind idx : Nat} (value : Nat) (alarm : Bool) (s : State)
    (h : 3 < die ∨ 2 < kind ∨ monitorCount kind ≤ idx) :
    exec (.healthMonitorRefresh die kind idx value alarm) s = .next s := by
  change execHealthMonitorRefresh die kind idx value alarm s = _
  rw [execHealthMonitorRefresh, if_pos h]

theorem exec_healthMonitorRefresh_on {die kind idx : Nat} (value : Nat) (alarm : Bool) (s : State)
    (h : ¬ (3 < die ∨ 2 < kind ∨ monitorCount kind ≤ idx)) :
    exec (.healthMonitorRefresh die kind idx value alarm) s =
      .next (monitorRefreshed die kind idx (reading (alarmOf kind value alarm) value) s) := by
  change execHealthMonitorRefresh die kind idx value alarm s = _
  rw [execHealthMonitorRefresh, if_neg h]
  rfl

/-- A monitor shows its last reading. -/
theorem find_monitorRefreshed (die kind idx : Nat) (w : Word) (s : State) :
    (monitorRefreshed die kind idx w s).boot.health.find? (fun h => h.1 = die ∧ h.2.1 = kind ∧ h.2.2.1 = idx) =
      some (die, kind, idx, w) :=
  List.find?_cons_of_pos (by simp)

theorem exec_thermalReset_off {die : Nat} {s : State} (h : tooHot s die = false) :
    exec (.thermalReset die) s = .next s := by
  change execThermalReset die s = _
  simp [execThermalReset, h]

theorem exec_thermalReset_on {die : Nat} {s : State} (h : tooHot s die = true) :
    exec (.thermalReset die) s = .next (resetPackage (logEvent 7 die 0 0 1 s)) := by
  change execThermalReset die s = _
  simp [execThermalReset, h]

theorem exec_governorClockChange (s : State) : exec .governorClockChange s = .next s := rfl

/-! ## The roll call -/

/-! ### What a write of an agent leaves -/

/-- Nothing but memory and its coherence state has changed. -/
def sameButMemory (s t : State) : Prop := ∃ m c, t = { s with mem := m, coh := c }

theorem sameButMemory_refl (s : State) : sameButMemory s s := ⟨s.mem, s.coh, rfl⟩

theorem sameButMemory_trans {s t u : State} (h : sameButMemory s t) (k : sameButMemory t u) : sameButMemory s u := by
  obtain ⟨_, _, rfl⟩ := h
  obtain ⟨m, c, rfl⟩ := k
  exact ⟨m, c, rfl⟩

theorem agentWrite_sameButMemory (pa : Nat) (d : List Byte) (s : State) : sameButMemory s (agentWrite pa d s) :=
  List.foldlRecOn (motive := sameButMemory s) _ _ (sameButMemory_refl s)
    fun _ ht _ _ => sameButMemory_trans ht ⟨_, _, rfl⟩

theorem ringData_sameButMemory (r : Ring) (a : Nat) (d : List Byte) (s : State) :
    sameButMemory s (ringData r a d s) := by
  unfold ringData
  dsimp only
  split
  · exact agentWrite_sameButMemory _ _ _
  · exact sameButMemory_trans (agentWrite_sameButMemory _ _ _) (agentWrite_sameButMemory _ _ _)

theorem ringAppend_sameButMemory (r : Ring) (d : List Byte) (s : State) : sameButMemory s (ringAppend r d s) :=
  sameButMemory_trans (ringData_sameButMemory _ _ _ _) (agentWrite_sameButMemory _ _ _)

theorem ringLose_sameButMemory (r : Ring) (s : State) : sameButMemory s (ringLose r s) :=
  agentWrite_sameButMemory _ _ _

/-! ### Records of a die -/

/-- A die's trace unit has written its record, after one of those it had lost, or has lost one more (R405, R407). -/
def recordedOrLost (x y : RollDie) : Prop :=
  (y.lost = 0 ∧ x.count < y.count) ∨ (y.lost = x.lost + 1 ∧ y.count = x.count)

theorem dbg_of_sameButMemory {s t : State} (h : sameButMemory s t) : t.dbg = s.dbg := by
  obtain ⟨_, _, rfl⟩ := h
  rfl

/-- The roll call of a die changes memory and the die's own trace unit. -/
theorem rollDie_cases (die : Nat) (new : List (Nat × Word × Word)) (s : State) :
    ∃ t y, sameButMemory s t ∧ rollDie die new s = { t with dbg.roll := t.dbg.roll.setIfInBounds die y } ∧
      ∀ x, s.dbg.roll[die]? = some x → recordedOrLost x y := by
  unfold rollDie
  extract_lets r d full first rec' s1 s2 n
  have hd : ∀ x, s.dbg.roll[die]? = some x → d = x := fun x hx => by
    rw [show d = (s.dbg.roll[die]?).getD ⟨[], 0, 0⟩ from rfl, hx]
    rfl
  split
  · have hs1 : sameButMemory s s1 := by
      unfold s1
      split
      · exact sameButMemory_refl s
      · exact ringAppend_sameButMemory r first s
    have hn : d.count < n := by
      unfold n
      split <;> omega
    exact ⟨s2, ⟨new, n, 0⟩, sameButMemory_trans hs1 (ringAppend_sameButMemory r rec' s1), rfl,
      fun x hx => .inl ⟨rfl, hd x hx ▸ hn⟩⟩
  · exact ⟨ringLose r s, { d with lost := d.lost + 1 }, ringLose_sameButMemory r s, rfl,
      fun x hx => .inr (hd x hx ▸ ⟨rfl, rfl⟩)⟩

theorem ctx_rollDie (die : Nat) (new : List (Nat × Word × Word)) (s : State) : (rollDie die new s).ctx = s.ctx := by
  obtain ⟨t, y, ⟨m, c, rfl⟩, h, -⟩ := rollDie_cases die new s
  rw [h]

theorem roll_rollDie_same (die : Nat) (new : List (Nat × Word × Word)) (s : State) :
    ∀ x, s.dbg.roll[die]? = some x → ∃ y, (rollDie die new s).dbg.roll[die]? = some y ∧ recordedOrLost x y := by
  intro x hx
  obtain ⟨t, y, -, h, hy⟩ := rollDie_cases die new s
  obtain ⟨hd, -⟩ := Vector.getElem?_eq_some_iff.mp hx
  exact ⟨y, by rw [h]; exact Vector.getElem?_setIfInBounds_self_of_lt hd, hy x hx⟩

theorem roll_rollDie_other {die d : Nat} (new : List (Nat × Word × Word)) (s : State) (h : d ≠ die) :
    (rollDie die new s).dbg.roll[d]? = s.dbg.roll[d]? := by
  obtain ⟨t, y, ht, hr, -⟩ := rollDie_cases die new s
  rw [hr, ← dbg_of_sameButMemory ht]
  exact Vector.getElem?_setIfInBounds_ne h.symm

/-! ### The roll call of a cycle -/

/-- What a live die of the mask latches at a roll call, by die. -/
def latchedAt (m : Nat) (s : State) : List (Nat × List (Nat × Word × Word)) :=
  ((List.range 4).filter (fun d => decide (s.dbg.rollMask / 2 ^ d % 2 = 1) && dieLive s d)).map
    (fun d => (d, (List.range 64).map (fun i => latch { s with cyc := m } (d * 64 + i))))

/-- The trace units of the package after a roll call. -/
def rolled (m : Nat) (s : State) : State := (latchedAt m s).foldl (fun s x => rollDie x.1 x.2 s) { s with cyc := m }

theorem rollCallAt_eq (m : Nat) (s : State) : rollCallAt m s = { rolled m s with cyc := s.cyc, dbg.rollAt := m } := rfl

/-- The dies that latch at a roll call, in order. -/
theorem latchedAt_keys (m : Nat) (s : State) :
    (latchedAt m s).map Prod.fst = (List.range 4).filter (fun d => s.dbg.rollMask.testBit d && dieLive s d) := by
  unfold latchedAt
  rw [List.map_map]
  simp [Function.comp_def, Nat.testBit_eq_decide_div_mod_eq]

theorem mem_latchedAt_keys {d m : Nat} {s : State} (hd : d < 4) :
    d ∈ (latchedAt m s).map Prod.fst ↔ (s.dbg.rollMask.testBit d && dieLive s d) = true := by
  rw [latchedAt_keys, List.mem_filter, List.mem_range]
  exact and_iff_right hd

theorem ctx_rolled (m : Nat) (s : State) : (rolled m s).ctx = s.ctx :=
  List.foldlRecOn (motive := fun t : State => t.ctx = s.ctx) _ _ rfl fun t ht x _ => (ctx_rollDie x.1 x.2 t).trans ht

/-- A roll call writes or loses a record of every live die of its mask, and of no other (R405, R407). -/
theorem roll_rolled {d m : Nat} {s : State} {x : RollDie} (hx : s.dbg.roll[d]? = some x) :
    ∃ y, (rolled m s).dbg.roll[d]? = some y ∧
      ((s.dbg.rollMask.testBit d && dieLive s d) = false → y = x) ∧
      ((s.dbg.rollMask.testBit d && dieLive s d) = true → recordedOrLost x y) := by
  obtain ⟨hd, -⟩ := Vector.getElem?_eq_some_iff.mp hx
  have hkeys := mem_latchedAt_keys (m := m) (s := s) hd
  have hnodup : ((latchedAt m s).map Prod.fst).Nodup := by
    rw [latchedAt_keys]
    exact List.nodup_range.filter _
  unfold rolled
  generalize latchedAt m s = l at hkeys hnodup
  obtain ⟨hout, hin⟩ := foldl_at_key (key := Prod.fst) (get := fun (s : State) (d : Nat) => s.dbg.roll[d]?)
    (f := fun (s : State) (x : Nat × List (Nat × Word × Word)) => rollDie x.1 x.2 s)
    (R := fun _ p q => ∀ x, p = some x → ∃ y, q = some y ∧ recordedOrLost x y)
    (by intro s x; exact roll_rollDie_same x.1 x.2 s) (by intro s x d h; exact roll_rollDie_other x.2 s h)
    d l { s with cyc := m } hnodup
  by_cases hk : d ∈ l.map Prod.fst
  · obtain ⟨y, hy, hr⟩ := hin hk x hx
    exact ⟨y, hy, fun h => absurd (hkeys.mp hk) (by simp [h]), fun _ => hr⟩
  · exact ⟨x, (hout hk).trans hx, fun _ => rfl, fun h => absurd (hkeys.mpr h) hk⟩

/-! ### When it takes place -/

theorem multipleAfter_mod (n c : Nat) : multipleAfter n c % n = 0 := Nat.mul_mod_left _ _

theorem lt_multipleAfter {n : Nat} (c : Nat) (h : 0 < n) : c < multipleAfter n c := by
  rw [multipleAfter, Nat.mul_comm]
  exact Nat.lt_mul_div_succ c h

/-- A roll call that is due is so at a multiple of its period, after the last one (R403). -/
theorem rollDue_eq_some {m : Nat} {s : State} (h : rollDue s = some m) :
    m % 2 ^ s.dbg.rollK = 0 ∧ s.dbg.rollAt < m ∧ m ≤ s.cyc := by
  unfold rollDue at h
  dsimp only at h
  split at h
  next hc =>
    simp only [Bool.and_eq_true, decide_eq_true_eq] at hc
    obtain ⟨⟨-, -, hle⟩, -⟩ := hc
    cases h
    exact ⟨multipleAfter_mod _ _, lt_multipleAfter _ (Nat.two_pow_pos _), hle⟩
  next => cases h

theorem rollDue_off {s : State} (h : s.dbg.rollK = 0) : rollDue s = none := by
  simp [rollDue, h]

/-- A change of k that is due is so at a multiple of 2^24 (R403). -/
theorem periodDue_eq_some {m : Nat} {s : State} (h : periodDue s = some m) :
    m % 2 ^ 24 = 0 ∧ s.dbg.rollAt < m ∧ m ≤ s.cyc := by
  unfold periodDue at h
  dsimp only at h
  split at h
  next hc =>
    simp only [Bool.and_eq_true, decide_eq_true_eq] at hc
    cases h
    exact ⟨multipleAfter_mod _ _, lt_multipleAfter _ (by decide), hc.2⟩
  next => cases h

theorem periodDue_off {s : State} (h : s.dbg.rollNext = none) : periodDue s = none := by
  simp [periodDue, h]

theorem exec_rollCall_off {s : State} (h : rollDue s = none) : exec .rollCall s = .next s := by
  change execRollCall s = _
  rw [execRollCall, h]

theorem exec_rollCall_on {m : Nat} {s : State} (h : rollDue s = some m) :
    exec .rollCall s = .next { rolled m s with cyc := s.cyc, dbg.rollAt := m } := by
  change execRollCall s = _
  rw [execRollCall, h, ← rollCallAt_eq]

theorem exec_rollcallPeriodChange_off {s : State} (h : periodDue s = none) :
    exec .rollcallPeriodChange s = .next s := by
  change execRollcallPeriodChange s = _
  rw [execRollcallPeriodChange, h]

theorem exec_rollcallPeriodChange_on {m : Nat} {s : State} (h : periodDue s = some m) :
    exec .rollcallPeriodChange s = .next (changePeriod m s) := by
  change execRollcallPeriodChange s = _
  rw [execRollcallPeriodChange, h]

/-! ## The events together -/

/-- Settles O50: each event by what it answers where it takes place, and by the state it leaves elsewhere. -/
theorem bootAndMonitorEvents : Obligations.BootAndMonitorEvents := by
  unfold Obligations.BootAndMonitorEvents
  intro ok a b s
  refine ⟨⟨_, exec_packageReset s, stage_resetPackage s, rfl, rfl, rfl, rfl, rfl, rfl, rfl⟩, exec_powerOnStable s,
    exec_rootCheck_off ok, fun h => ⟨exec_rootCheck_fails h, _, exec_rootCheck_verifies h, ?_⟩,
    exec_dieLinkTraining_off a b, fun h => ⟨_, exec_dieLinkTraining_on a b h, ?_⟩,
    exec_hbmTraining_off a, fun h => ⟨_, exec_hbmTraining_on a h, ?_⟩,
    exec_coreRelease_off, fun h => ⟨_, exec_coreRelease_on h, ?_⟩,
    fun kind idx value alarm => ⟨exec_healthMonitorRefresh_off value alarm s, fun ha hk hi => ?_⟩,
    exec_thermalReset_off, fun h => ⟨_, exec_thermalReset_on h, stage_resetPackage _, rfl, rfl⟩,
    exec_governorClockChange s,
    exec_rollCall_off, rollDue_off, fun m h => ?_,
    fun h => exec_rollcallPeriodChange_off (h.elim periodDue_off id), fun k m hk h => ?_⟩
  · exact ⟨stage_toStage _ (by decide), (atStage_iff.mp h).2, rfl,
      fun i m hm => (measure_measureChain s i).trans (by rw [hm]; rfl)⟩
  · obtain ⟨hstage, hstuck⟩ := atStage_iff.mp h
    obtain ⟨hdd, hcc, hok, -⟩ := bits_setDieLinks a b s
    refine ⟨?_, ?_, ?_, fun d => dieLive_dieLinksTrained a b s, fun hf => ?_, fun hf => ?_⟩
    · rw [bits_dieLinksTrained a b 4 s (by decide), hdd]
    · rw [bits_dieLinksTrained a b 4 s (by decide), hcc]
    · rw [bits_dieLinksTrained a b 4 s (by decide), hok]
    · rw [← hstage]
      exact stage_dieLinksTrained_failed b s hf
    · rw [← hstuck]
      exact stage_dieLinksTrained_moved b s hf
  · exact ⟨stage_toStage _ (by decide), bits_hbmTrained a s, fun i line => poisonedLine_hbmTrained⟩
  · refine ⟨stage_toStage _ (by decide), mem_coresReleased s, fun n hn hl => ?_⟩
    rw [← boot_coresReleased s]
    exact started_coresReleased hn hl
  · obtain ⟨hvalid, halarm, hval⟩ := reading_fields (alarmOf kind value alarm) value
    exact ⟨_, _, exec_healthMonitorRefresh_on value alarm s (by omega), find_monitorRefreshed a kind idx _ s,
      hvalid, hval, fun hk0 => by rw [halarm, hk0]; rfl⟩
  · obtain ⟨hm, hlt, hle⟩ := rollDue_eq_some h
    exact ⟨hm, hlt, hle, _, exec_rollCall_on h, ctx_rolled m s, rfl, rfl, fun d x => roll_rolled⟩
  · obtain ⟨hm, hlt, hle⟩ := periodDue_eq_some h
    exact ⟨hm, hle, _, exec_rollcallPeriodChange_on h, congrArg (Option.getD · s.dbg.rollK) hk, rfl,
      Nat.sub_add_cancel (by omega), rfl, rfl⟩

end Sys2Proof.Machine

/-! PROOFS. The instructions of a team's threads, `TSPAWN`, `TINFO`, `TBAR` and `TEXIT` (R22, R27 to R32, R34, R150 to
R154). -/

namespace Sys2Proof.Machine

/-! ## Bytes that a home has written -/

/-- Bytes written under the full mask are read back. -/
theorem memReadN_memWriteMasked_full (d : List Byte) (m : List Host.Cell) (a : Nat) (h : Memory.wf m = true) :
    memReadN (memWriteMasked 0xFF m a d) a d.length = d := by
  induction d generalizing m a with
  | nil => rfl
  | cons b d ih =>
    have hmask : (memRead m a &&& ~~~0xFF) ||| (b &&& 0xFF) = b := by
      rw [show (~~~0xFF : Byte) = 0 from rfl, show (0xFF : Byte) = BitVec.allOnes 8 from rfl, BitVec.and_allOnes]
      simp
    have hhead : memRead (memWriteMasked 0xFF (memWrite m a b) (a + 1) d) a = b := by
      rw [memRead_masked_other _ _ _ _ _ (by omega), memRead_memWrite_same _ _ _ h]
    rw [memWriteMasked, hmask, List.length_cons, memReadN, hhead, ih _ _ (memWrite_wf _ _ _ h)]

/-! ## The team table -/

theorem mem_putTeam {s : State} {x t : Team} (hx : x ∈ s.sched.teams) (hid : x.id = t.id) :
    t ∈ (putTeam t s).sched.teams := List.mem_map.mpr ⟨x, hx, if_pos hid⟩

theorem mem_teams_of_teamOf {s : State} {g : Word} {t : Team} (h : teamOf s g = some t) : t ∈ s.sched.teams :=
  List.mem_of_find?_eq_some h

/-- The members of a GTID are those that a change has changed. -/
theorem mem_onMember {g : Word} {f : Member → Member} {t : Team} {m : Member} (hm : m ∈ (onMember g f t).members)
    (hg : m.gtid = g) : ∃ x, m = f x := by
  obtain ⟨x, -, rfl⟩ := List.mem_map.mp hm
  by_cases hx : x.gtid = g
  · exact ⟨x, if_pos hx⟩
  · rw [if_neg hx] at hg
    exact absurd hg hx

theorem lt_of_foldl_max_le {l : List Team} {n b : Nat} (h : l.foldl (fun n t => max n (t.id + 1)) n ≤ b) :
    n ≤ b ∧ ∀ t ∈ l, t.id < b := by
  induction l generalizing n with
  | nil => exact ⟨h, fun _ ht => absurd ht List.not_mem_nil⟩
  | cons x l ih =>
    obtain ⟨hn, hl⟩ := ih (n := max n (x.id + 1)) h
    exact ⟨by omega, List.forall_mem_cons.mpr ⟨by omega, hl⟩⟩

/-- The number of a new team is above every other. -/
theorem lt_freshTeam {s : State} {t : Team} (h : t ∈ s.sched.teams) : t.id < freshTeam s :=
  (lt_of_foldl_max_le (Nat.le_refl _)).2 t h

/-- What the master makes of a record. -/
theorem find_makeTeam (c : Ctx) (b : List Byte) (donew : Option (Nat × Word)) (s : State) :
    ∃ tm, (makeTeam c b donew (freshTeam s) s).sched.teams.find? (fun t => t.id = freshTeam s) = some tm ∧
      tm.levels = usedLevels b ∧ tm.donew = donew ∧ tm.members.length = teamSize (usedLevels b) ∧
      ∀ m ∈ tm.members, m.life = .pending := by
  refine ⟨?made, ?find, ?fields⟩
  case find =>
    unfold makeTeam
    dsimp only
    rw [List.find?_append, List.find?_eq_none.mpr fun t ht => by simpa using (lt_freshTeam ht).ne, Option.none_or]
    refine List.find?_cons_of_pos ?_
    exact decide_eq_true rfl
  case fields =>
    refine ⟨rfl, rfl, by simp, fun m hm => ?_⟩
    obtain ⟨r, -, rfl⟩ := List.mem_map.mp hm
    rfl

/-! ## What leaves the scheduler as it is -/

section
variable (s : State) (n : Nat)

@[simp] theorem setCore_sched (c : CoreSt) : (setCore s n c).sched = s.sched := by
  unfold setCore
  split <;> rfl

@[simp] theorem setActive_sched (c : Ctx) : (setActive s n c).sched = s.sched := by
  unfold setActive
  split
  · rfl
  · rw [setCore_sched]

@[simp] theorem clearActive_sched : (clearActive s n).sched = s.sched := by
  unfold clearActive
  split
  · rfl
  · rw [setCore_sched]

@[simp] theorem switchTo_sched : (switchTo s n).sched = s.sched := by
  unfold switchTo
  split <;> rfl

end

/-- A core whose names become undefined keeps its thread. -/
theorem undefNames_cases (n : Nat) (s : State) :
    undefNames n s = s ∨
      ∃ c c', activeOf s n = some c ∧ c'.prv = c.prv ∧ undefNames n s = setActive s n c' := by
  unfold undefNames
  split
  next => exact .inl rfl
  next c hc =>
    dsimp only
    refine (em _).imp (fun h => if_pos h) fun h => ⟨c, _, hc, ?_, if_neg h⟩
    split <;> split <;> rfl

@[simp] theorem undefNames_sched (n : Nat) (s : State) : (undefNames n s).sched = s.sched := by
  obtain h | ⟨c, c', -, -, h⟩ := undefNames_cases n s
  · rw [h]
  · rw [h, setActive_sched]

@[simp] theorem endOverlap_sched (s : State) : (endOverlap s).sched = s.sched := by
  unfold endOverlap undefRivals
  rw [undefNames_sched]
  exact List.foldlRecOn (motive := fun t : State => t.sched = s.sched) _ _ rfl fun t ht n _ => by simpa using ht

@[simp] theorem onCore_endOverlap_sched (n : Nat) (s : State) : (onCore n endOverlap s).sched = s.sched := by
  simp [onCore]

@[simp] theorem onContext_sched (g : Word) (f : Ctx → Ctx) (s : State) : (onContext g f s).sched = s.sched := by
  unfold onContext
  refine List.foldlRecOn (motive := fun t : State => t.sched = s.sched) _ _ rfl fun t ht n _ => ?_
  dsimp only
  repeat' split
  all_goals simpa using ht

@[simp] theorem loseStore_sched (die : Nat) (g : Word) (pid pa : Nat) (s : State) :
    (loseStore die g pid pa s).sched = s.sched := by
  unfold loseStore
  split
  · exact onContext_sched ..
  · split <;> rfl

/-! ## Completion words -/

/-- A write to a completion word that this package owns is reported as lost, or is the home's. -/
theorem agentStore_of_owned {t : Team} {pa : Nat} {d : List Byte} {s : State} (h : ownerOf s pa = s.pkg) :
    agentStore t pa d s = loseStore (s.cur / 64) t.base.prv.gtid t.base.pid pa s ∨
      ∃ full, agentStore t pa d s = homeWrite pa d 0xFF false full s := by
  unfold agentStore
  split
  next => exact .inl rfl
  next hdead =>
    split
    next => exact .inr ⟨false, rfl⟩
    next hlocal =>
      refine .inr ⟨decide (d.length = 128), ?_⟩
      unfold performStore performStoreBy
      dsimp only
      rw [if_neg hdead, if_neg (by simpa using h), if_pos (by simpa using hlocal)]

theorem agentStore_sched {t : Team} {pa : Nat} {d : List Byte} {s : State} (h : ownerOf s pa = s.pkg) :
    (agentStore t pa d s).sched = s.sched := by
  obtain hl | ⟨full, hw⟩ := agentStore_of_owned (t := t) (d := d) h
  · rw [hl, loseStore_sched]
  · rw [hw]
    rfl

/-- A completion word in the package's memory, at a live home, takes the bytes. -/
theorem memReadN_agentStore {t : Team} {pa : Nat} {d : List Byte} {s : State} (hm : s.memOk)
    (hl : localMem s pa = true) (hd : deadHome s pa = false) :
    memReadN (agentStore t pa d s).mem pa d.length = d := by
  have hw : isHostWin pa = false := by
    have hoff : offsetOf pa < hbmEnd := (of_decide_eq_true hl).1
    exact decide_eq_false (Nat.not_le.mpr (hoff.trans (by decide)))
  unfold agentStore
  rw [hd, hw, if_neg (by simp), if_pos hl]
  exact memReadN_memWriteMasked_full d s.mem pa hm

section
variable {id : Nat} {t : Team} {s : State} (h : s.sched.teams.find? (fun t => t.id = id) = some t)
include h

theorem recordAcceptance_wordless (hd : t.donew = none) :
    recordAcceptance id s = putTeam { t with noted := true } s := by
  simp only [recordAcceptance, h, hd]

theorem recordAcceptance_stored {pa : Nat} {va : Word} (hd : t.donew = some (pa, va)) :
    recordAcceptance id s = agentStore t pa (bytesOfNat 8 1) (putTeam { t with noted := true } s) := by
  simp only [recordAcceptance, h, hd]

end

/-- The acceptance of a team that has just been made: it stands in the table, recorded, and its completion word holds
1. -/
theorem recordAcceptance_made {c : Ctx} {b : List Byte} {donew : Option (Nat × Word)} {s : State}
    (h : nearDonew s donew = true) :
    let t := recordAcceptance (freshTeam s) (makeTeam c b donew (freshTeam s) s)
    (∃ tm ∈ t.sched.teams, tm.levels = usedLevels b ∧ tm.donew = donew ∧ tm.noted = true ∧
      tm.members.length = teamSize (usedLevels b) ∧ ∀ m ∈ tm.members, m.life = .pending) ∧
    ∀ pa w, donew = some (pa, w) → s.memOk → localMem s pa = true → deadHome s pa = false →
      memReadN t.mem pa 8 = bytesOfNat 8 1 := by
  obtain ⟨tm, hfind, hlevels, hdonew, hlength, hlife⟩ := find_makeTeam c b donew s
  have hmem : { tm with noted := true } ∈
      (putTeam { tm with noted := true } (makeTeam c b donew (freshTeam s) s)).sched.teams :=
    mem_putTeam (List.mem_of_find?_eq_some hfind) rfl
  cases donew with
  | none =>
    rw [recordAcceptance_wordless hfind hdonew]
    exact ⟨⟨_, hmem, hlevels, hdonew, rfl, hlength, hlife⟩, nofun⟩
  | some x =>
    have howned : ownerOf s x.1 = s.pkg := by simpa [nearDonew] using h
    rw [recordAcceptance_stored hfind hdonew]
    refine ⟨⟨{ tm with noted := true }, ?_, hlevels, hdonew, rfl, hlength, hlife⟩, ?_⟩
    · rw [agentStore_sched (by exact howned)]
      exact hmem
    · rintro pa w ⟨rfl, rfl⟩ hok hlocal hdead
      exact memReadN_agentStore (d := bytesOfNat 8 1) hok hlocal hdead

/-! ## Ordering rules of an instruction that waits for nothing -/

theorem waysideRule_ok {scope : Nat} {s : State} (h : waysideClear scope s) : waysideRule scope s = .ok () := by
  unfold waysideRule
  obtain hs | ⟨hp, hs⟩ := h
  · rw [if_pos hs]
  · simp [hp, hs]

theorem awaitStores_ok {scope : Nat} {s : State} (h : storesPerformed scope s = true) : awaitStores scope s = .ok s :=
  if_pos h

theorem acquireAt_ok {scope : Nat} {s t : State} (h : acquired scope s t) : acquireAt scope s = .ok t := by
  unfold acquireAt
  obtain ⟨hs, rfl⟩ | ⟨hs, hheld, rfl⟩ := h
  · rw [if_pos hs]
  · have hheard : clearingHeld (heardAll s).coh (heardAll s).die = false := hheld
    rw [if_neg (by omega), clearing, hheard]
    rfl

/-! ## `TSPAWN` -/

theorem exec_tspawn (fm : Form) (d a : Nat) (s : State) : exec (.tspawn fm d a) s = runOne (fm.len 9) (spawn d a) s :=
  rfl

theorem spawn_answered {d a k : Nat} {s : State} (h : s.ctx.aux.sent = .spawnAnswer k) :
    spawn d a s = .ok (wg s d (BitVec.ofNat 64 k)) := by
  simp only [spawn, h]

section
variable {d a : Nat} {s s1 : State} {b : List Byte} {donew : Option (Nat × Word)}
  (hsent : s.ctx.aux.sent = .nothing) (hclean : clean s [.g a] = true)
  (hrec : readRecord (rg s a) s = .ok (s1, b, donew))
include hsent hclean hrec

/-- A record that fails a check. -/
theorem spawn_refused (h : launchCheck s1 s1.ctx b ≠ 0) :
    spawn d a s = .ok (wg s1 d (BitVec.ofNat 64 (launchCheck s1 s1.ctx b))) := by
  simp only [spawn, hsent, need_ok hclean, hrec, bind, Except.bind, if_pos h]

/-- A record that passes every check, with nothing to wait for. -/
theorem spawn_accepted (h : launchCheck s1 s1.ctx b = 0) (hw : waysideClear (widestScope (usedLevels b)) s1)
    (hst : storesPerformed (widestScope (usedLevels b)) s1 = true) (htake : takesSpawn s1 = true)
    (hreq : s1.sched.requests = []) (hnear : nearDonew s1 donew = true) :
    spawn d a s = .ok (wg (recordAcceptance (freshTeam s1) (makeTeam s1.ctx b donew (freshTeam s1) s1)) d 0) := by
  have hsend : sendSpawn b donew s1 =
      .ok (recordAcceptance (freshTeam s1) (makeTeam s1.ctx b donew (freshTeam s1) s1)) :=
    if_pos (by simp [htake, hreq, hnear])
  simp only [spawn, hsent, need_ok hclean, hrec, bind, Except.bind, h, ne_eq, not_true_eq_false, if_false,
    waysideRule_ok hw, awaitStores_ok hst, hsend]

end

/-! ## `TBAR` -/

theorem exec_tbar (fm : Form) (n : Nat) (s : State) : exec (.tbar fm n) s = runOne (fm.len 9) (barrier n) s := rfl

theorem barrier_none {n : Nat} {s : State} (h : barOf s n = none) : barrier n s = .error (.trap (illTrap s) s) := by
  simp only [barrier, h, raiseIll]

/-- The state in which a thread has arrived at a barrier of its team. -/
def arrivedAt (tm : Team) (n : Nat) (s : State) : State :=
  putTeam (countArrival s.ctx.prv.gtid n tm) { s with ctx.aux.arrive := s.ctx.aux.arrive ||| (1#8 <<< n) }

theorem arrive_first {tm : Team} {n scope : Nat} {s : State} (ha : s.ctx.aux.arrive.getLsbD n = false)
    (hst : storesPerformed scope s = true) : arrive tm n scope s = .ok (arrivedAt tm n s) := by
  unfold arrive
  rw [ha, if_neg Bool.false_ne_true, awaitStores_ok hst]
  rfl

/-- A thread that arrives last completes the barrier. -/
theorem barrier_completes {n : Nat} {l : Level} {tm tm1 : Team} {s t : State} (hb : barOf s n = some (tm, l))
    (hw : waysideClear l.scope s) (hst : storesPerformed l.scope s = true) (ha : s.ctx.aux.arrive.getLsbD n = false)
    (htm : teamOf (arrivedAt tm n s) s.ctx.prv.gtid = some tm1) (hdone : barrierDone tm1 s.ctx.prv.gtid n = true)
    (hacq : acquired l.scope (arrivedAt tm n s) t) :
    barrier n s = .ok { t with ctx.aux.arrive := t.ctx.aux.arrive &&& ~~~(1#8 <<< n) } := by
  have hdone' : ((teamOf (arrivedAt tm n s) (arrivedAt tm n s).ctx.prv.gtid).map
      (fun t => barrierDone t (arrivedAt tm n s).ctx.prv.gtid n)).getD true = true := by
    rw [show (arrivedAt tm n s).ctx.prv.gtid = s.ctx.prv.gtid from rfl, htm]
    exact hdone
  simp only [barrier, hb, bind, Except.bind, waysideRule_ok hw, arrive_first ha hst, if_pos hdone', acquireAt_ok hacq]

/-! ## `TINFO` -/

theorem exec_tinfo (fm : Form) (d : Nat) (s : State) : exec (.tinfo fm d) s = runOne (fm.len 9) (info d) s := rfl

theorem info_answered {d : Nat} {first len : Word} {s : State} (h : s.ctx.aux.sent = .infoAnswer first len) :
    info d s = .ok (wg (wg s d first) (d + 1) len) := by
  simp only [info, h]

theorem info_teamless {d : Nat} {s : State} (hsent : s.ctx.aux.sent = .nothing)
    (h : teamOf s s.ctx.prv.gtid = none) : info d s = .error (.trap (illTrap s) s) := by
  simp only [info, hsent, h, raiseIll]

/-- The master hands out a chunk at once. -/
theorem info_given {d : Nat} {s : State} {tm : Team} (hsent : s.ctx.aux.sent = .nothing)
    (h : teamOf s s.ctx.prv.gtid = some tm) (he : s.sched.election = false) (hr : s.sched.requests = []) :
    info d s =
      let x := giveChunk s.ctx.prv.gtid tm
      .ok (wg (wg (putTeam x.1 s) d x.2.1) (d + 1) x.2.2) := by
  simp [info, hsent, h, he, hr]

/-- A chunk is left while its first index lies in the index space (R29). -/
theorem lt_chunkCount_iff {tm : Team} (j : Nat) (hc : 0 < tm.chunk) : j < chunkCount tm ↔ j * tm.chunk < tm.icount := by
  rw [chunkCount, ← Nat.succ_le_iff, Nat.le_div_iff_mul_le hc, Nat.succ_mul]
  omega

/-- With no chunk to hand out again, the thread is given the next one, or the end of the index space. -/
theorem giveChunk_next {g : Word} {tm : Team} (hr : tm.reissue = []) (hc : 0 < tm.chunk) :
    (giveChunk g tm).2 =
      if tm.next * tm.chunk < tm.icount then chunkAt tm tm.next else (tm.istart + BitVec.ofNat 64 tm.icount, 0) := by
  simp only [giveChunk, hr, lt_chunkCount_iff _ hc]
  split <;> rfl

/-! ## The banks that a thread leaves -/

/-- The thread in a core's active bank. -/
def threadAt (s : State) (n : Nat) : Option Word := (activeOf s n).map (·.prv.gtid)

theorem act_of_threadAt {s : State} (h : threadAt s s.cur = none) : s.core.act = false := by
  by_contra ha
  simp [threadAt, activeOf, ha] at h

theorem threadAt_setActive_of_same {s : State} {n : Nat} {c : Ctx} (h : threadAt s n = some c.prv.gtid) (k : Nat) :
    threadAt (setActive s n c) k = threadAt s k := by
  by_cases hk : k = n
  · subst hk
    rw [h, threadAt, activeOf_setActive_same]
    rfl
  · rw [threadAt, activeOf_setActive_other _ _ hk, threadAt]

@[simp] theorem activeOf_clearActive_same (s : State) (n : Nat) : activeOf (clearActive s n) n = none := by
  unfold clearActive
  by_cases h : n = s.cur <;> simp [activeOf, h]

theorem activeOf_clearActive_other (s : State) {k n : Nat} (h : k ≠ n) :
    activeOf (clearActive s n) k = activeOf s k := by
  unfold clearActive
  by_cases hn : n = s.cur
  · have hk : k ≠ s.cur := hn ▸ h
    simp [activeOf, getCore, hn, hk]
  · rw [if_neg hn, activeOf_setCore_other s _ h]

/-- Which core is the current one does not matter to what its active bank holds. -/
@[simp] theorem activeOf_switchTo (s : State) (n k : Nat) : activeOf (switchTo s n) k = activeOf s k := by
  unfold switchTo
  split
  next => rfl
  next hn =>
    by_cases hkn : k = n
    · subst hkn
      cases hb : (getCore s k).bank <;> simp [activeOf, hn, hb]
    · by_cases hkc : k = s.cur
      · simp [activeOf, getCore, hkc, Ne.symm hn]
      · have hf : ∀ e : Nat × CoreSt, decide ((e.1 ≠ n ∧ e.1 ≠ s.cur) ∧ e.1 = k) = decide (e.1 = k) := fun e => by
          by_cases he : e.1 = k <;> simp [he, hkn, hkc]
        simp [activeOf, getCore, hkn, hkc, Ne.symm hkc, List.find?_filter, hf]

theorem activeOf_emptyLodge (s : State) (n k : Nat) :
    activeOf (setCore s n { getCore s n with lodge := none }) k = activeOf s k := by
  by_cases h : k = n
  · subst h
    by_cases hc : k = s.cur
    · simp [activeOf, setCore, getCore, hc]
    · simp [activeOf, hc]
  · exact activeOf_setCore_other s _ h

theorem threadAt_undefNames (n : Nat) (s : State) (k : Nat) : threadAt (undefNames n s) k = threadAt s k := by
  obtain h | ⟨c, c', hc, hprv, h⟩ := undefNames_cases n s
  · rw [h]
  · rw [h]
    exact threadAt_setActive_of_same (by rw [threadAt, hc, Option.map_some, hprv]) k

theorem threadAt_endOverlap (s : State) (k : Nat) : threadAt (endOverlap s) k = threadAt s k := by
  unfold endOverlap undefRivals
  rw [threadAt_undefNames]
  exact List.foldlRecOn (motive := fun t => threadAt t k = threadAt s k) _ _ rfl
    fun t ht n _ => (threadAt_undefNames n t k).trans ht

theorem threadAt_onCore_endOverlap (n : Nat) (s : State) (k : Nat) :
    threadAt (onCore n endOverlap s) k = threadAt s k := by
  rw [onCore, threadAt, activeOf_switchTo, ← threadAt, threadAt_endOverlap, threadAt, activeOf_switchTo, threadAt]

theorem switchTo_cur (s : State) (n : Nat) : (switchTo s n).cur = n := by
  unfold switchTo
  split
  next h => exact h.symm
  next => rfl

theorem onCore_cur (n : Nat) (f : State → State) (s : State) : (onCore n f s).cur = s.cur := switchTo_cur _ _

theorem clearActive_cur (s : State) (n : Nat) : (clearActive s n).cur = s.cur := by
  unfold clearActive
  split <;> simp

/-- A thread leaves the active bank of a core. -/
def leaveBank (g : Word) (n : Nat) (s : State) : State :=
  match activeOf s n with
  | some c => if c.prv.gtid = g then clearActive { onCore n endOverlap s with coh := dropRequest n s.coh } n else s
  | none => s

/-- A thread leaves the lodge of a core. -/
def leaveLodge (g : Word) (n : Nat) (s : State) : State :=
  match (getCore s n).lodge with
  | some c => if c.prv.gtid = g then setCore s n { getCore s n with lodge := none } else s
  | none => s

theorem vacate_eq (g : Word) (s : State) :
    vacate g s = coreNumbers.foldl (fun s n => leaveLodge g n (leaveBank g n s)) s := rfl

theorem leaveBank_cases (g : Word) (n : Nat) (s : State) :
    (threadAt s n ≠ some g ∧ leaveBank g n s = s) ∨
    (threadAt s n = some g ∧
      leaveBank g n s = clearActive { onCore n endOverlap s with coh := dropRequest n s.coh } n) := by
  unfold leaveBank threadAt
  split
  next c hc =>
    by_cases hg : c.prv.gtid = g
    · exact .inr ⟨by rw [hc, Option.map_some, hg], if_pos hg⟩
    · exact .inl ⟨by rw [hc, Option.map_some]; exact fun h => hg (Option.some.inj h), if_neg hg⟩
  next hc => exact .inl ⟨by rw [hc]; exact nofun, rfl⟩

theorem leaveLodge_cases (g : Word) (n : Nat) (s : State) :
    leaveLodge g n s = s ∨ leaveLodge g n s = setCore s n { getCore s n with lodge := none } := by
  unfold leaveLodge
  split
  · split
    · exact .inr rfl
    · exact .inl rfl
  · exact .inl rfl

theorem leaveLodge_frame (g : Word) (n : Nat) (s : State) :
    (leaveLodge g n s).cur = s.cur ∧ (leaveLodge g n s).sched = s.sched ∧
    ∀ k, threadAt (leaveLodge g n s) k = threadAt s k := by
  obtain h | h := leaveLodge_cases g n s
  · rw [h]
    exact ⟨rfl, rfl, fun _ => rfl⟩
  · rw [h]
    exact ⟨by simp, by simp, fun k => by rw [threadAt, activeOf_emptyLodge, threadAt]⟩

theorem leaveBank_frame (g : Word) (n : Nat) (s : State) :
    (leaveBank g n s).cur = s.cur ∧ (leaveBank g n s).sched = s.sched ∧
    ∀ k, k ≠ n → threadAt (leaveBank g n s) k = threadAt s k := by
  obtain ⟨-, h⟩ | ⟨-, h⟩ := leaveBank_cases g n s
  · rw [h]
    exact ⟨rfl, rfl, fun _ _ => rfl⟩
  · rw [h]
    refine ⟨?_, ?_, fun k hk => ?_⟩
    · rw [clearActive_cur]
      exact onCore_cur n endOverlap s
    · rw [clearActive_sched]
      exact onCore_endOverlap_sched n s
    · rw [threadAt, activeOf_clearActive_other _ hk]
      exact threadAt_onCore_endOverlap n s k

/-- A thread that has been in the active bank of a core is there no longer, and no other takes its place. -/
theorem threadAt_leaveBank_same (g : Word) (n : Nat) (s : State) :
    threadAt s n = some g ∨ threadAt s n = none → threadAt (leaveBank g n s) n = none := by
  intro hs
  obtain ⟨hne, h⟩ | ⟨-, h⟩ := leaveBank_cases g n s
  · rw [h]
    exact hs.resolve_left hne
  · rw [h, threadAt, activeOf_clearActive_same]
    rfl

theorem vacate_frame (g : Word) (s : State) : (vacate g s).cur = s.cur ∧ (vacate g s).sched = s.sched := by
  rw [vacate_eq]
  refine List.foldlRecOn (motive := fun t : State => t.cur = s.cur ∧ t.sched = s.sched) _ _ ⟨rfl, rfl⟩
    fun t ht n _ => ?_
  obtain ⟨hcur, hsched⟩ := ht
  obtain ⟨hlc, hls, -⟩ := leaveLodge_frame g n (leaveBank g n t)
  obtain ⟨hbc, hbs, -⟩ := leaveBank_frame g n t
  exact ⟨hlc.trans (hbc.trans hcur), hls.trans (hbs.trans hsched)⟩

/-- A core whose active bank held the thread, or nothing, holds nothing there afterwards. -/
theorem threadAt_vacate {g : Word} {s : State} {n : Nat} (hn : n < 256)
    (h : threadAt s n = some g ∨ threadAt s n = none) : threadAt (vacate g s) n = none := by
  rw [vacate_eq]
  refine (foldl_at_key (key := id) (get := threadAt)
    (R := fun _ x y => x = some g ∨ x = none → y = none) (fun t k hk => ?_) (fun t b k hk => ?_) n coreNumbers s
    (by rw [List.map_id]; exact List.nodup_range)).2 (by rw [List.map_id]; exact List.mem_range.mpr hn) h
  · rw [id, (leaveLodge_frame g k _).2.2]
    exact threadAt_leaveBank_same g k t hk
  · rw [(leaveLodge_frame g b _).2.2]
    exact (leaveBank_frame g b t).2.2 k hk

/-! ## The end of a thread -/

theorem releaseArea_sameButMemory (pid area : Nat) (pooled : Bool) (s : State) :
    sameButMemory s (releaseArea pid area pooled s) := by
  unfold releaseArea
  have hflags (v : Word) : sameButMemory s (setAreaFlags area v s) := agentWrite_sameButMemory ..
  dsimp only
  split
  · exact hflags _
  · split
    · refine sameButMemory_trans (hflags (areaFlags s area &&& ~~~(1#64 <<< 17))) ?_
      unfold ringGive
      dsimp only
      split
      · exact sameButMemory_refl _
      · exact sameButMemory_trans (agentWrite_sameButMemory ..) (agentWrite_sameButMemory ..)
    · exact hflags _

/-- The record of a team in which a thread has ended. -/
def endedIn (g : Word) (killed lost : Bool) (t : Team) : Team :=
  let t1 := closeChunks g lost (onMember g (fun m => { m with life := .ended, place := none }) t)
  { t1 with killed := t1.killed || killed }

theorem endedIn_id (g : Word) (killed lost : Bool) (t : Team) : (endedIn g killed lost t).id = t.id := by
  cases lost <;> rfl

theorem life_endedIn {g : Word} {killed lost : Bool} {t : Team} {m : Member}
    (hm : m ∈ (endedIn g killed lost t).members) (hg : m.gtid = g) : m.life = .ended := by
  have hmembers : (endedIn g killed lost t).members =
      (onMember g (fun m => { m with life := .ended, place := none }) t).members := by cases lost <;> rfl
  obtain ⟨x, rfl⟩ := mem_onMember (hmembers ▸ hm) hg
  rfl

/-- What a thread has sent, and what waits for it, goes with it. -/
def forgetSent (g : Word) (s : State) : State :=
  let u := forgetAtomics g s
  { u with
    coh.confirms := u.coh.confirms.filter (fun c => decide (c.gtid ≠ g))
    xlat.saved := u.xlat.saved.filter (fun x => decide (x.gtid ≠ g))
    sched.reserved := u.sched.reserved.filter (fun r => decide (r.2 ≠ g))
    sched.requests := u.sched.requests.filter (fun r =>
      match r with
      | .info _ x _ => decide (x ≠ g)
      | _ => true) }

theorem forgetSent_frame (g : Word) (s : State) :
    (forgetSent g s).cur = s.cur ∧ (forgetSent g s).sched.teams = s.sched.teams ∧
    ∀ n, threadAt (forgetSent g s) n = threadAt s n := ⟨rfl, rfl, fun _ => rfl⟩

/-- A thread has left its bank, and what it has sent has gone with it. -/
def leftCore (g : Word) (s : State) : State := forgetSent g (vacate g (withdrawSpawn g s))

/-- The team of a thread that has left its bank counts it as ended. -/
def countedOut (g : Word) (killed lost : Bool) (s : State) : State :=
  match teamOf s g with
  | none => leftCore g s
  | some t => putTeam (endedIn g killed lost t) (leftCore g s)

/-- After these, the end of a thread returns save areas, and so changes memory alone. -/
theorem endThread_sameButMemory (g : Word) (killed lost : Bool) (s : State) :
    sameButMemory (countedOut g killed lost s) (endThread g killed lost s) := by
  have hfold (pid : Nat) (p : Nat → Bool) (l : List Nat) (u : State) :
      sameButMemory u (l.foldl (fun s a => releaseArea pid a (p a) s) u) :=
    List.foldlRecOn (motive := sameButMemory u) _ _ (sameButMemory_refl u)
      fun t ht a _ => sameButMemory_trans ht (releaseArea_sameButMemory pid a (p a) t)
  unfold countedOut
  cases h : teamOf s g <;> (simp only [endThread, h, leftCore, forgetSent, endedIn]; exact hfold ..)

theorem leftCore_frame (g : Word) (s : State) :
    (leftCore g s).cur = s.cur ∧ (leftCore g s).sched.teams = (withdrawSpawn g s).sched.teams ∧
    ∀ n, threadAt (leftCore g s) n = threadAt (vacate g (withdrawSpawn g s)) n := by
  obtain ⟨hcur, hsched⟩ := vacate_frame g (withdrawSpawn g s)
  obtain ⟨hfc, hft, hfa⟩ := forgetSent_frame g (vacate g (withdrawSpawn g s))
  exact ⟨hfc.trans hcur, hft.trans (congrArg Sched.teams hsched), hfa⟩

theorem mem_withdrawSpawn {g : Word} {s : State} {t : Team} (h : t ∈ s.sched.teams) (hn : t.noted = true) :
    t ∈ (withdrawSpawn g s).sched.teams := List.mem_filter.mpr ⟨h, by simp [hn]⟩

theorem putTeam_frame (t : Team) (s : State) :
    (putTeam t s).cur = s.cur ∧ ∀ n, threadAt (putTeam t s) n = threadAt s n := ⟨rfl, fun _ => rfl⟩

theorem countedOut_frame (g : Word) (killed lost : Bool) (s : State) :
    (countedOut g killed lost s).cur = s.cur ∧
    ∀ n, threadAt (countedOut g killed lost s) n = threadAt (vacate g (withdrawSpawn g s)) n := by
  obtain ⟨hcur, -, hat⟩ := leftCore_frame g s
  unfold countedOut
  split
  next => exact ⟨hcur, hat⟩
  next t _ =>
    obtain ⟨hpc, hpa⟩ := putTeam_frame (endedIn g killed lost t) (leftCore g s)
    exact ⟨hpc.trans hcur, fun n => (hpa n).trans (hat n)⟩

theorem mem_countedOut {g : Word} {killed lost : Bool} {s : State} {t : Team} (ht : teamOf s g = some t)
    (hn : t.noted = true) : endedIn g killed lost t ∈ (countedOut g killed lost s).sched.teams := by
  unfold countedOut
  rw [ht]
  refine mem_putTeam (x := t) ?_ (endedIn_id g killed lost t).symm
  rw [(leftCore_frame g s).2.1]
  exact mem_withdrawSpawn (mem_teams_of_teamOf ht) hn

/-- The active context's thread ends: the bank is empty. -/
theorem act_endThread {s : State} (killed lost : Bool) (h : s.cur < 256) :
    (endThread s.ctx.prv.gtid killed lost s).core.act = false := by
  obtain ⟨hcur, hat⟩ := countedOut_frame s.ctx.prv.gtid killed lost s
  have hstart : threadAt (withdrawSpawn s.ctx.prv.gtid s) s.cur = some s.ctx.prv.gtid ∨
      threadAt (withdrawSpawn s.ctx.prv.gtid s) s.cur = none := by
    cases ha : s.core.act <;> simp [threadAt, activeOf, withdrawSpawn, ha]
  have hend : (countedOut s.ctx.prv.gtid killed lost s).core.act = false :=
    act_of_threadAt (by rw [hcur, hat]; exact threadAt_vacate h hstart)
  obtain ⟨m, c, he⟩ := endThread_sameButMemory s.ctx.prv.gtid killed lost s
  rw [he]
  exact hend

/-- A team whose acceptance has been recorded counts the thread as ended. -/
theorem endedIn_mem_endThread {g : Word} {killed lost : Bool} {s : State} {t : Team} (ht : teamOf s g = some t)
    (hn : t.noted = true) : endedIn g killed lost t ∈ (endThread g killed lost s).sched.teams := by
  obtain ⟨m, c, he⟩ := endThread_sameButMemory g killed lost s
  rw [he]
  exact mem_countedOut ht hn

theorem exec_texit {fm : Form} {s : State} (h : cmdsOf s s.ctx.prv.gtid = []) :
    exec (.texit fm) s = .next { endThread s.ctx.prv.gtid false false s with core.retired := some s.cyc } := by
  change execTexit fm s = _
  simp [execTexit, h]

/-! ## The instructions together -/

/-- Settles O15: `TSPAWN`, `TBAR` and `TINFO` by what each does where nothing makes it wait, `TEXIT` by the end of the
thread. -/
theorem threadInstructionResults : Obligations.ThreadInstructionResults := by
  unfold Obligations.ThreadInstructionResults
  intro fm d a n s
  refine ⟨fun hsent hclean s1 b donew hrec => ⟨fun h => ?_, fun h hw hst htake hreq hnear => ?_⟩, fun k h => ?_,
    fun hcmds hcur => ?_, fun h => ?_, fun tm l hb hw hst ha tm1 t htm hdone hacq => ?_, fun first len h => ?_,
    fun hsent => ⟨fun h => ?_, fun tm h he hreq hre hc => ?_⟩⟩
  · exact (exec_tspawn ..).trans (runOne_ok (spawn_refused hsent hclean hrec h))
  · exact ⟨_, (exec_tspawn ..).trans (runOne_ok (spawn_accepted hsent hclean hrec h hw hst htake hreq hnear)),
      recordAcceptance_made hnear⟩
  · exact (exec_tspawn ..).trans (runOne_ok (spawn_answered h))
  · refine ⟨_, exec_texit hcmds, act_endThread false false hcur, fun tm htm hn => ?_⟩
    exact ⟨_, endedIn_mem_endThread htm hn, endedIn_id _ _ _ tm, fun m => life_endedIn⟩
  · exact (exec_tbar ..).trans (runOne_trap (barrier_none h))
  · exact (exec_tbar ..).trans (runOne_ok (barrier_completes hb hw hst ha htm hdone hacq))
  · exact (exec_tinfo ..).trans (runOne_ok (info_answered h))
  · exact (exec_tinfo ..).trans (runOne_trap (info_teamless hsent h))
  · refine ⟨putTeam (giveChunk s.ctx.prv.gtid tm).1 s, rfl, rfl, (exec_tinfo ..).trans ?_⟩
    rw [runOne_ok (info_given hsent h he hreq), giveChunk_next hre hc]
    split <;> rfl

end Sys2Proof.Machine

/-! PROOFS. The distributors, admission and the election of a master (R21, R22, R34, R343, R344, R352 to R361, R367). -/

namespace Sys2Proof.Machine

/-! ## A group with two members of one rank

`makeTeam` gives every member a rank of its own, but the statement is about every state of the team table. Where two
members of a group have one rank, the first of them to be placed does not count as another member when the second looks
for room (`beginsGroup`), so that the second asks again for a domain with room for the whole group (`roomFor`), which
the banks that are left do not have. -/

/-- A team of one group of two in the core domain, of which both members have rank 0. -/
def twinTeam : Team :=
  { id := 1, prio := 0, istart := 0, icount := 0, chunk := 1, donew := none, levels := [⟨2, 1, 0, true⟩]
    base := Ctx.reset 0 0
    members := [⟨0, 1, .pending, [0], none, false, some 0x100000⟩,
      ⟨0, 9, .pending, [0], none, false, some 0x200000⟩]
    next := 0, handouts := [], reissue := [], killed := false, reissued := false, noted := true, ending := false }

/-- Core 0 has been released, both of its banks are empty, and it gives every quantum to the team's partition. -/
def twinState : State :=
  { State.reset with
    core := { CoreSt.reset with released := true, slottab := Vector.replicate 16 0x8000000000000000 }
    rel.live := Vector.replicate 4 true
    sched.teams := [twinTeam] }

theorem firstGroup_twinState : firstGroup (pendGroups twinState 0) = some ⟨twinTeam, 0, 0⟩ := by decide +kernel

/-- The group would go to core 0, whose two banks are as many as it has members. -/
theorem banks_twinState :
    (bestInstance twinState 0 (domainOf twinTeam.levels 0) (candidates twinState twinTeam 0)).map
      (fun c => availBanks twinState c 0) = [2] := by decide +kernel

/-- The second member finds no room. -/
theorem assignGroup_twinState : assignGroup twinState twinTeam 0 [0, 0] = none := by decide +kernel

/-- Refutes O45: the clause that a group with enough banks is assigned fails in `twinState`, where the group has two
members of one rank. It is a state of the statement, though no run makes it: `makeTeam` numbers the members. -/
theorem not_distributorEvents : ¬ Obligations.DistributorEvents := by
  unfold Obligations.DistributorEvents
  intro h
  obtain ⟨-, -, -, -, -, hgroups, -⟩ := h 0 0 0 twinState
  obtain ⟨-, -, hfirst⟩ := hgroups 0
  obtain ⟨-, hassigned⟩ := hfirst _ firstGroup_twinState
  obtain ⟨-, hroom⟩ := hassigned rfl rfl (Nat.zero_le _)
  have hfree : 2 ≤ ((bestInstance twinState 0 (domainOf twinTeam.levels 0) (candidates twinState twinTeam 0)).map
      (fun c => availBanks twinState c 0)).sum := by rw [banks_twinState]; decide
  have hsome : (assignGroup twinState twinTeam 0 [0, 0]).isSome = true := hroom rfl rfl rfl hfree
  rw [assignGroup_twinState] at hsome
  cases hsome

end Sys2Proof.Machine

/-! PROOFS. Scalar floating-point instructions: how each ends, by the flags of its result (R49, R122, R124). -/

namespace Sys2Proof.Machine

/-! ## Sources -/

theorem clean_cons (s : State) (x : Src) (l : List Src) :
    clean s (x :: l) = true ↔ clean s [x] = true ∧ clean s l = true := by
  simp [clean]

/-! ## A result and its flags -/

/-- Flags that the enables of `FCSR` let trap (R69, R124). -/
def trappedFlags (flags : Nat) (s : State) : Nat := flags &&& bits s.ctx.ctl.fcsr 16 5

/-- FPE: its DETAIL names the trapped and the raised flags (R124). -/
def fpeTrap (flags : Nat) (s : State) : Trap := ⟨0x0C, trappedFlags flags s + 32 * (flags % 32), 0, false, 0⟩

/-- A repeat of `i` completes with a result in `f`n and its flags, or raises FPE with nothing written (R122, R124). -/
def fpRepGives (fm : Form) (page j n : Nat) (s : State) (i : Instr) (r : FRes) : Prop :=
  (trappedFlags r.flags s = 0 →
    exec i s = .next (completes fm (fm.len page) j (orFlags r.flags (wf s n (BitVec.ofNat 64 r.bits))))) ∧
  (trappedFlags r.flags s ≠ 0 →
    exec i s = .next (takeTrap (if fm.rep.isSome then some (fm.count - j) else none) (fpeTrap r.flags s) s))

section
variable {i : Instr} {fm : Form} {f : Fmt} {rx d a b j k page : Nat} {s : State}

theorem fpRepGives_of_fpRetire {body : Nat → Nat → State → Run} {n : Nat} {r : FRes} (hs : startAt fm s = some (j, k))
    (hx : exec i s = runRep fm (fm.len page) body s) (hb : body j k s = fpRetire r.flags (wfn n r.bits) s) :
    fpRepGives fm page j n s i r :=
  ⟨fun h => hx.trans (runRep_ok hs (hb.trans (fpRetire_ok h))),
   fun h => hx.trans (runRep_trap hs (hb.trans (fpRetire_trap h)))⟩

theorem fpRepGives_fp1 (op : FpCtl → Nat → FRes) (hx : exec i s = runRep fm (fm.len page) (fp1 fm f rx d a op) s)
    (hs : startAt fm s = some (j, k)) (h : clean s [.f (fm.a j a), .ctl 0x001] = true) :
    fpRepGives fm page j (fm.d j d) s i (op (fcsrCtl rx s) (rfn f s (fm.a j a))) :=
  fpRepGives_of_fpRetire hs hx (by simp only [fp1, need_ok h, srcFcsr]; rfl)

theorem fpRepGives_fp2 (op : FpCtl → Nat → Nat → FRes)
    (hx : exec i s = runRep fm (fm.len page) (fp2 fm f rx d a b op) s) (hs : startAt fm s = some (j, k))
    (h : clean s [.f (fm.a j a), .f (fm.b j b), .ctl 0x001] = true) :
    fpRepGives fm page j (fm.d j d) s i (op (fcsrCtl rx s) (rfn f s (fm.a j a)) (rfn f s (fm.b j b))) :=
  fpRepGives_of_fpRetire hs hx (by simp only [fp2, need_ok h, srcFcsr]; rfl)

theorem fpRepGives_fp3 (np nd : Bool) (hx : exec i s = runRep fm (fm.len page) (fp3 fm f rx d a b np nd) s)
    (hs : startAt fm s = some (j, k))
    (h : clean s [.f (fm.a j a), .f (fm.b j b), .f (fm.d j d), .ctl 0x001] = true) :
    fpRepGives fm page j (fm.d j d) s i ((fmtE f).fmaR (fcsrCtl rx s) np nd (rfn f s (fm.a j a)) (rfn f s (fm.b j b))
      (rfn f s (fm.d j d))) :=
  fpRepGives_of_fpRetire hs hx (by simp only [fp3, need_ok h, srcFcsr]; rfl)

end

/-- Settles O16: every form is a result with its flags (`fp1`, `fp2`, `fp3`), which completes or raises FPE. -/
theorem fpArithmeticResults : Obligations.FpArithmeticResults := by
  unfold Obligations.FpArithmeticResults
  intro fm f rx d a b s j k hs ha
  obtain ⟨hfa, hctl⟩ := (clean_cons _ _ _).1 ha
  refine ⟨fpRepGives_fp1 (fmtE f).sqrtR rfl hs ha, fpRepGives_fp1 (fmtE f).rcpR rfl hs ha,
    fpRepGives_fp1 (fmtE f).rsqR rfl hs ha, fun hb => ?_⟩
  have hbc := (clean_cons _ _ _).2 ⟨hb, hctl⟩
  have hab := (clean_cons _ _ _).2 ⟨hfa, hbc⟩
  refine ⟨fpRepGives_fp2 (fmtE f).addR rfl hs hab, fpRepGives_fp2 (fmtE f).subR rfl hs hab,
    fpRepGives_fp2 (fmtE f).mulR rfl hs hab, fpRepGives_fp2 (fmtE f).divR rfl hs hab,
    fpRepGives_fp2 (fun c => (fmtE f).minmaxR c false) rfl hs hab,
    fpRepGives_fp2 (fun c => (fmtE f).minmaxR c true) rfl hs hab, fun hd => ?_⟩
  have habd := (clean_cons _ _ _).2 ⟨hfa, (clean_cons _ _ _).2 ⟨hb, (clean_cons _ _ _).2 ⟨hd, hctl⟩⟩⟩
  exact ⟨fpRepGives_fp3 false false rfl hs habd, fpRepGives_fp3 false true rfl hs habd,
    fpRepGives_fp3 true false rfl hs habd⟩

end Sys2Proof.Machine

/-! PROOFS. Frames of the scalar instructions: what a write of a destination and the flags keep, and from it the frame of
each form (R49, R62 to R64, R99 to R107, R120 to R132). -/

namespace Sys2Proof.Machine

/-! ## Effects that write a destination -/

/-- From `s` to `t` no more than the destinations has been written, nothing stored, and no trap taken. -/
def framesTo (gs fs ps ms cs : List Nat) (fl : Word) (s t : State) : Prop :=
  keeps gs fs ps ms cs fl s t ∧ t.core.sb = s.core.sb ∧ stays s t

section
variable {gs fs ps ms cs : List Nat} {fl : Word} {n : Nat} {s t u : State}

theorem framesTo_refl (gs fs ps ms cs : List Nat) (fl : Word) (s : State) : framesTo gs fs ps ms cs fl s s :=
  ⟨keeps_refl .., rfl, rfl, rfl, rfl, rfl, rfl⟩

theorem framesTo_trans (h : framesTo gs fs ps ms cs fl s t) (k : framesTo gs fs ps ms cs fl t u) :
    framesTo gs fs ps ms cs fl s u :=
  ⟨keeps_trans h.1 k.1, k.2.1.trans h.2.1, stays_trans h.2.2 k.2.2⟩

/-- An update that leaves the privileged and user control registers, the core and memory frames what it writes of the
register files. -/
theorem framesTo_of_regs (hg : ∀ n, n ∉ gs → rg t n = rg s n) (hf : ∀ n, n ∉ fs → rf t n = rf s n)
    (hp : ∀ n, n ∉ ps → rp t n = rp s n) (hm : ∀ n, n ∉ ms → rm t n = rm s n)
    (hc : ∀ n, n ∉ cs → t.ctx.acc n = s.ctx.acc n) (ht : t.ctx.t = s.ctx.t) (hctl : t.ctx.ctl = s.ctx.ctl)
    (hprv : t.ctx.prv = s.ctx.prv) (hcore : t.core = s.core) (hmem : t.mem = s.mem) :
    framesTo gs fs ps ms cs fl s t := by
  have htrap (l : Nat) : t.trapSet l = s.trapSet l := by unfold State.trapSet; rw [hprv]
  refine ⟨⟨hg, hf, hp, hm, hc, ht, ?_⟩, by rw [hcore], hprv, ?_⟩
  · simp only [hctl, hprv, htrap, hmem, implies_true, and_self]
  · simp only [hctl, hcore, and_self]

theorem getD_setIfInBounds_ne {α : Type} {m k : Nat} (v : Vector α m) (x d : α) (h : k ≠ n) :
    ((v.setIfInBounds n x)[k]?).getD d = (v[k]?).getD d := by
  rw [Vector.getElem?_setIfInBounds_ne (Ne.symm h)]

theorem rg_wg_other {k : Nat} (v : Word) (h : k ≠ n) : rg (wg s n v) k = rg s k := by
  unfold wg
  split
  · rfl
  · have hr : (healG { s with ctx.regs.g := s.ctx.regs.g.setIfInBounds n v } n).ctx.regs.g[k]? = s.ctx.regs.g[k]? := by
      unfold healG; split <;> exact Vector.getElem?_setIfInBounds_ne (Ne.symm h)
    unfold rg; rw [hr]

theorem rf_wf_other {k : Nat} (v : Word) (h : k ≠ n) : rf (wf s n v) k = rf s k := by
  unfold rf wf healF
  split <;> exact getD_setIfInBounds_ne _ _ _ h

theorem rp_wp_other {k : Nat} (v : Bool) (h : k ≠ n) : rp (wp s n v) k = rp s k := by
  unfold wp
  split
  · rfl
  · have hr : (healP { s with ctx.regs.p := s.ctx.regs.p.setIfInBounds n v } n).ctx.regs.p[k]? = s.ctx.regs.p[k]? := by
      unfold healP; split <;> exact Vector.getElem?_setIfInBounds_ne (Ne.symm h)
    unfold rp; rw [hr]

theorem rm_wm_other {k : Nat} (v : BitVec 128) (h : k ≠ n) : rm (wm s n v) k = rm s k := by
  unfold wm
  split
  · rfl
  · have hr : (healM { s with ctx.regs.m := s.ctx.regs.m.setIfInBounds n v } n).ctx.regs.m[k]? = s.ctx.regs.m[k]? := by
      unfold healM; split <;> exact Vector.getElem?_setIfInBounds_ne (Ne.symm h)
    unfold rm; rw [hr]

theorem framesTo_wg (v : Word) (h : n ∈ gs) : framesTo gs fs ps ms cs fl s (wg s n v) :=
  framesTo_of_regs (fun _ hk => rg_wg_other v fun e => hk (e ▸ h)) (by simp [rf]) (by simp [rp]) (by simp [rm])
    (by simp [Ctx.acc]) (by simp) (by simp) (by simp) (by simp) (by simp)

theorem framesTo_wf (v : Word) (h : n ∈ fs) : framesTo gs fs ps ms cs fl s (wf s n v) :=
  framesTo_of_regs (by simp [rg]) (fun _ hk => rf_wf_other v fun e => hk (e ▸ h)) (by simp [rp]) (by simp [rm])
    (by simp [Ctx.acc]) (by simp) (by simp) (by simp) (by simp) (by simp)

theorem framesTo_wp (v : Bool) (h : n ∈ ps) : framesTo gs fs ps ms cs fl s (wp s n v) :=
  framesTo_of_regs (by simp [rg]) (by simp [rf]) (fun _ hk => rp_wp_other v fun e => hk (e ▸ h)) (by simp [rm])
    (by simp [Ctx.acc]) (by simp) (by simp) (by simp) (by simp) (by simp)

theorem framesTo_wm (v : BitVec 128) (h : n ∈ ms) : framesTo gs fs ps ms cs fl s (wm s n v) :=
  framesTo_of_regs (by simp [rg]) (by simp [rf]) (by simp [rp]) (fun _ hk => rm_wm_other v fun e => hk (e ▸ h))
    (by simp [Ctx.acc]) (by simp) (by simp) (by simp) (by simp) (by simp)

theorem framesTo_putAcc (a : Acc) (h : n ∈ cs) : framesTo gs fs ps ms cs fl s (putAcc n a s) :=
  framesTo_of_regs (by simp [rg]) (by simp [rf]) (by simp [rp]) (by simp [rm])
    (fun _ hk => getD_setIfInBounds_ne _ _ _ fun e => hk (e ▸ h)) (by simp) (by simp) (by simp) (by simp) (by simp)

/-- The sticky flags are the low five bits of `FCSR` (R49, R69). -/
theorem flagBits_masked (w : Word) (r : Nat) : (w ||| BitVec.ofNat 64 (r % 32)) &&& ~~~0x1F#64 = w &&& ~~~0x1F#64 := by
  have h : BitVec.ofNat 64 (r % 32) = BitVec.ofNat 64 r &&& 0x1F#64 := by
    apply BitVec.eq_of_toNat_eq
    rw [BitVec.toNat_and, BitVec.toNat_ofNat, BitVec.toNat_ofNat, show (0x1F#64).toNat = 2 ^ 5 - 1 from rfl,
      Nat.and_two_pow_sub_one_eq_mod]
    omega
  rw [h]
  ext i
  simp only [BitVec.getElem_and, BitVec.getElem_or, BitVec.getElem_not]
  cases (0x1F#64)[i] <;> simp

theorem framesTo_orFlags (r : Nat) : framesTo gs fs ps ms cs 0x1F s (orFlags r s) :=
  ⟨⟨fun _ _ => rfl, fun _ _ => rfl, fun _ _ => rfl, fun _ _ => rfl, fun _ _ => rfl, rfl, flagBits_masked _ _, rfl, rfl,
    rfl, rfl, rfl, rfl, fun _ => ⟨rfl, rfl, rfl⟩, rfl, fun _ => rfl⟩, rfl, rfl, rfl, rfl, rfl, rfl⟩

/-! ## Effects that end in the state they were given -/

theorem quietly_ok (h : framesTo gs fs ps ms cs fl s t) : quietly gs fs ps ms cs fl s (.ok t) := .inl ⟨t, rfl, h⟩

theorem quietly_raise (code detail : Nat) (tval : Word) : quietly gs fs ps ms cs fl s (raise code detail tval s) :=
  .inr ⟨_, rfl⟩

theorem quietly_need (l : List Src) {r : Run} (h : quietly gs fs ps ms cs fl s r) :
    quietly gs fs ps ms cs fl s (need s l >>= fun _ => r) := by
  obtain hn | hn := need_cases s l
  · rw [hn]; exact h
  · rw [hn]; exact quietly_raise ..

theorem quietly_fpRetire (r : Nat) {write : State → State} (h : framesTo gs fs ps ms cs 0x1F s (write s)) :
    quietly gs fs ps ms cs 0x1F s (fpRetire r write s) := by
  unfold fpRetire
  split
  · exact quietly_raise ..
  · exact quietly_ok (framesTo_trans h (framesTo_orFlags r))

/-! ## Forms of instructions -/

theorem destOf_some {fm : Form} {j k : Nat} (h : startAt fm s = some (j, k)) (d : Nat) : destOf fm s d = [fm.d j d] := by
  simp only [destOf, h]

variable {i : Instr} {fm : Form} {len d : Nat}

theorem framesTo_wg_same (v : Word) : framesTo [n] fs ps ms cs fl s (wg s n v) := framesTo_wg v (List.mem_singleton_self n)

theorem framesTo_wf_same (v : Word) : framesTo gs [n] ps ms cs fl s (wf s n v) := framesTo_wf v (List.mem_singleton_self n)

theorem framesTo_wp_same (v : Bool) : framesTo gs fs [n] ms cs fl s (wp s n v) := framesTo_wp v (List.mem_singleton_self n)

/-- A repeat that reads its sources and writes a `g` register. -/
theorem framed_rep_g {src : Nat → State → List Src} {v : Nat → State → Word}
    (hx : exec i s = runRep fm len (fun j _ s => need s (src j s) >>= fun _ => .ok (wg s (fm.d j d) (v j s))) s) :
    framed i (destOf fm s d) [] [] fl s :=
  runRep_framed hx fun _ _ hs => destOf_some hs d ▸ quietly_need _ (quietly_ok (framesTo_wg_same _))

theorem framed_rep_p {src : Nat → State → List Src} {v : Nat → State → Bool}
    (hx : exec i s = runRep fm len (fun j _ s => need s (src j s) >>= fun _ => .ok (wp s (fm.d j d) (v j s))) s) :
    framed i [] [] (destOf fm s d) fl s :=
  runRep_framed hx fun _ _ hs => destOf_some hs d ▸ quietly_need _ (quietly_ok (framesTo_wp_same _))

theorem framed_rep_f {src : Nat → State → List Src} {v : Nat → State → Word}
    (hx : exec i s = runRep fm len (fun j _ s => need s (src j s) >>= fun _ => .ok (wf s (fm.d j d) (v j s))) s) :
    framed i [] (destOf fm s d) [] fl s :=
  runRep_framed hx fun _ _ hs => destOf_some hs d ▸ quietly_need _ (quietly_ok (framesTo_wf_same _))

/-- A repeat that writes a result with its flags. -/
theorem framed_rep_fp {src : Nat → State → List Src} {r : Nat → State → FRes}
    (hx : exec i s = runRep fm len (fun j _ s => need s (src j s) >>= fun _ =>
      fpRetire (r j s).flags (wfn (fm.d j d) (r j s).bits) s) s) : framed i [] (destOf fm s d) [] 0x1F s :=
  runRep_framed hx fun _ _ hs => destOf_some hs d ▸ quietly_need _ (quietly_fpRetire _ (framesTo_wf_same _))

/-- `LI` reads no register. -/
theorem framed_li {imm : Int} (hx : exec i s = runRep fm len (fun j _ s => .ok (wg s (fm.d j d) (ofInt (fm.i j imm)))) s) :
    framed i (destOf fm s d) [] [] 0 s :=
  runRep_framed hx fun _ _ hs => destOf_some hs d ▸ quietly_ok (framesTo_wg_same _)

theorem framed_one_g {src : State → List Src} {v : State → Word}
    (hx : exec i s = runOne len (fun s => need s (src s) >>= fun _ => .ok (wg s d (v s))) s) :
    framed i [d] [] [] fl s :=
  runOne_framed hx (quietly_need _ (quietly_ok (framesTo_wg_same _)))

theorem framed_one_p {src : State → List Src} {v : State → Bool}
    (hx : exec i s = runOne len (fun s => need s (src s) >>= fun _ => .ok (wp s d (v s))) s) :
    framed i [] [] [d] fl s :=
  runOne_framed hx (quietly_need _ (quietly_ok (framesTo_wp_same _)))

theorem framed_one_f {src : State → List Src} {v : State → Word}
    (hx : exec i s = runOne len (fun s => need s (src s) >>= fun _ => .ok (wf s d (v s))) s) :
    framed i [] [d] [] fl s :=
  runOne_framed hx (quietly_need _ (quietly_ok (framesTo_wf_same _)))

/-- A count is read without a source register. -/
theorem framed_count {v : State → Word} (hx : exec i s = runOne len (fun s => .ok (wg s d (v s))) s) :
    framed i [d] [] [] fl s :=
  runOne_framed hx (quietly_ok (framesTo_wg_same _))

end

/-! ## Families -/

section
variable {a b rx page : Nat} {f : Fmt} {imm : Int} {s : State} {i : Instr} {fm : Form} {len d : Nat}

theorem framed_aluR {op : Word → Word → Word} (hx : exec i s = runRep fm len (aluR fm d a b op) s) :
    framed i (destOf fm s d) [] [] 0 s := framed_rep_g hx

theorem framed_aluU {op : Word → Word} (hx : exec i s = runRep fm len (aluU fm d a op) s) :
    framed i (destOf fm s d) [] [] 0 s := framed_rep_g hx

theorem framed_aluI {op : Word → Word → Word} (hx : exec i s = runRep fm len (aluI fm d a imm op) s) :
    framed i (destOf fm s d) [] [] 0 s := framed_rep_g hx

theorem framed_aluN {op : Word → Nat → Word} {n : Nat} (hx : exec i s = runRep fm len (aluN fm d a n op) s) :
    framed i (destOf fm s d) [] [] 0 s := framed_rep_g hx

theorem framed_predR {op : Bool → Bool → Bool} (hx : exec i s = runOne len (predR d a b op) s) :
    framed i [] [] [d] 0 s := framed_one_p hx

theorem framed_fp1 {op : FpCtl → Nat → FRes} (hx : exec i s = runRep fm len (fp1 fm f rx d a op) s) :
    framed i [] (destOf fm s d) [] 0x1F s := framed_rep_fp hx

theorem framed_fp2 {op : FpCtl → Nat → Nat → FRes} (hx : exec i s = runRep fm len (fp2 fm f rx d a b op) s) :
    framed i [] (destOf fm s d) [] 0x1F s := framed_rep_fp hx

theorem framed_fp3 {np nd : Bool} (hx : exec i s = runRep fm len (fp3 fm f rx d a b np nd) s) :
    framed i [] (destOf fm s d) [] 0x1F s := framed_rep_fp hx

/-! ## Control transfers -/

theorem framed_branch (hx : exec i s = runTo (branch fm page imm) s) : framed i [] [] [] 0 s :=
  runTo_framed hx (.inl ⟨s, _, rfl, framesTo_refl ..⟩)

theorem framed_branchIf (hx : exec i s = runTo (branchIf fm page d imm) s) : framed i [] [] [] 0 s := by
  refine runTo_framed hx ?_
  unfold branchIf
  obtain hn | hn := need_cases s [.p d]
  · rw [hn]; exact .inl ⟨s, _, rfl, framesTo_refl ..⟩
  · rw [hn]; exact .inr ⟨_, rfl⟩

theorem framed_jumpLink (hx : exec i s = runTo (jumpLink fm page d imm) s) : framed i [d] [] [] 0 s :=
  runTo_framed hx (.inl ⟨_, _, rfl, framesTo_wg_same _⟩)

/-- An odd target raises ALIGN and writes no link (R107). -/
theorem framed_jumpReg (hx : exec i s = runTo (jumpReg fm page d a imm) s) : framed i [d] [] [] 0 s := by
  refine runTo_framed hx ?_
  unfold jumpReg
  obtain hn | hn := need_cases s [.g a]
  · rw [hn]
    dsimp only
    split
    · exact .inr ⟨_, rfl⟩
    · exact .inl ⟨_, _, rfl, framesTo_wg_same _⟩
  · rw [hn]; exact .inr ⟨_, rfl⟩

end

/-! ## Instructions that share their effect with no other -/

section
variable {fm : Form} {w : Width} {c : Cc} {fc : Fcc} {f f2 : Fmt} {iw : IW} {rx d a b n : Nat} {imm : Int} {s : State}

theorem framed_bfi : framed (.bfi fm w d a n) (destOf fm s d) [] [] 0 s :=
  framed_rep_g (show exec _ s = execBfi fm w d a n s from rfl)

theorem framed_lea : framed (.lea fm d a imm) (destOf fm s d) [] [] 0 s :=
  framed_rep_g (show exec _ s = execLea fm d a imm s from rfl)

theorem framed_sel : framed (.sel fm n d a b) (destOf fm s d) [] [] 0 s :=
  framed_rep_g (show exec _ s = execSel fm n d a b s from rfl)

theorem framed_cmp : framed (.cmp fm c d a b) [] [] (destOf fm s d) 0 s :=
  framed_rep_p (show exec _ s = execCmp fm c d a b s from rfl)

theorem framed_cmpi : framed (.cmpi fm c d a imm) [] [] (destOf fm s d) 0 s :=
  framed_rep_p (show exec _ s = execCmpi fm c d a imm s from rfl)

theorem framed_pnot : framed (.pnot fm d a) [] [] [d] 0 s :=
  framed_one_p (show exec _ s = execPnot fm d a s from rfl)

theorem framed_pmov : framed (.pmov fm d a) [] [] [d] 0 s :=
  framed_one_p (show exec _ s = execPmov fm d a s from rfl)

theorem framed_fabs : framed (.fabs fm f rx d a) [] (destOf fm s d) [] 0x1F s :=
  framed_rep_f (show exec _ s = execFabs fm f rx d a s from rfl)

theorem framed_fneg : framed (.fneg fm f rx d a) [] (destOf fm s d) [] 0x1F s :=
  framed_rep_f (show exec _ s = execFneg fm f rx d a s from rfl)

theorem framed_fsgnj : framed (.fsgnj fm f rx d a b) [] (destOf fm s d) [] 0x1F s :=
  framed_rep_f (show exec _ s = execFsgnj fm f rx d a b s from rfl)

theorem framed_fclass : framed (.fclass fm f rx d a) [d] [] [] 0x1F s :=
  framed_one_g (show exec _ s = execFclass fm f rx d a s from rfl)

theorem framed_fmvg : framed (.fmvg fm d a) [d] [] [] 0x1F s :=
  framed_one_g (show exec _ s = execFmvg fm d a s from rfl)

theorem framed_gmvf : framed (.gmvf fm d a) [] [d] [] 0x1F s :=
  framed_one_f (show exec _ s = execGmvf fm d a s from rfl)

theorem framed_gtidrd : framed (.gtidrd fm d) [d] [] [] 0 s :=
  framed_count (show exec _ s = execGtidrd fm d s from rfl)

theorem framed_rdcyc : framed (.rdcyc fm d) [d] [] [] 0 s :=
  framed_count (show exec _ s = execRdcyc fm d s from rfl)

theorem framed_rdtime : framed (.rdtime fm d) [d] [] [] 0 s :=
  framed_count (show exec _ s = execRdtime fm d s from rfl)

theorem framed_fcvt : framed (.fcvt fm f f2 rx d a) [] [d] [] 0x1F s :=
  runOne_framed (show exec _ s = execFcvt fm f f2 rx d a s from rfl)
    (quietly_need _ (quietly_fpRetire _ (framesTo_wf_same _)))

theorem framed_icvtf : framed (.icvtf fm iw f rx d a) [] [d] [] 0x1F s :=
  runOne_framed (show exec _ s = execIcvtf fm iw f rx d a s from rfl)
    (quietly_need _ (quietly_fpRetire _ (framesTo_wf_same _)))

theorem framed_fcvti : framed (.fcvti fm iw f rx d a) [d] [] [] 0x1F s :=
  runOne_framed (show exec _ s = execFcvti fm iw f rx d a s from rfl)
    (quietly_need _ (quietly_fpRetire _ (framesTo_wg_same _)))

theorem framed_fcmp : framed (.fcmp fm fc f rx d a b) [] [] [d] 0x1F s :=
  runOne_framed (show exec _ s = execFcmp fm fc f rx d a b s from rfl)
    (quietly_need _ (quietly_fpRetire _ (framesTo_wp_same _)))

end

/-- Settles O51: each family's effect writes its destination and its flags, or raises a trap in the state it was
given. -/
theorem scalarFrames : Obligations.ScalarFrames := by
  unfold Obligations.ScalarFrames
  refine ⟨fun fm w e c d a b n imm s => ⟨?_, ?_⟩, fun fm f f2 iw c rx d a b s => ?_⟩
  · exact ⟨framed_aluR rfl, framed_aluR rfl, framed_aluI rfl, framed_aluI rfl, framed_aluN rfl, framed_aluU rfl,
      framed_li rfl, framed_li rfl, framed_aluR rfl, framed_aluR rfl, framed_aluR rfl, framed_aluR rfl,
      framed_aluR rfl, framed_aluR rfl, framed_aluR rfl, framed_aluR rfl, framed_aluR rfl, framed_aluR rfl,
      framed_aluR rfl, framed_aluR rfl, framed_aluR rfl, framed_aluR rfl, framed_aluR rfl, framed_aluR rfl,
      framed_aluR rfl, framed_aluR rfl, framed_aluR rfl, framed_aluR rfl, framed_aluR rfl, framed_aluI rfl,
      framed_aluI rfl, framed_aluI rfl, framed_aluI rfl, framed_aluN rfl, framed_aluN rfl, framed_aluN rfl,
      framed_aluN rfl, framed_aluN rfl, framed_bfi, framed_aluU rfl, framed_aluU rfl, framed_aluU rfl,
      framed_aluU rfl, framed_aluU rfl, framed_aluU rfl, framed_lea, framed_aluU rfl, framed_sel⟩
  · exact ⟨framed_cmp, framed_cmpi, framed_predR rfl, framed_predR rfl, framed_predR rfl, framed_pnot,
      framed_pmov, framed_branch rfl, framed_branch rfl, framed_branchIf rfl, framed_branchIf rfl,
      framed_jumpLink rfl, framed_jumpLink rfl, framed_jumpReg rfl, framed_jumpReg rfl, framed_gtidrd,
      framed_rdcyc, framed_rdtime⟩
  · exact ⟨framed_fp2 rfl, framed_fp2 rfl, framed_fp2 rfl, framed_fp2 rfl, framed_fp3 rfl, framed_fp3 rfl,
      framed_fp3 rfl, framed_fp2 rfl, framed_fp2 rfl, framed_fp1 rfl, framed_fp1 rfl, framed_fp1 rfl,
      framed_fabs, framed_fneg, framed_fsgnj, framed_fcvt, framed_icvtf, framed_gmvf,
      framed_fcvti, framed_fclass, framed_fmvg, framed_fcmp⟩

end Sys2Proof.Machine

/-! PROOFS. Rounding as a fact about exact numbers: the integers `roundUnit` gives, the grid of a format's magnitudes, and
the correct rounding of `EFmt.round` (R37, R46 to R48, R51). -/

namespace Sys2Proof.Machine

/-! ## Where a mode rounds up -/

/-- As `roundsUp`, of a magnitude that is a real number. -/
def roundsAbove (rm : Rm) (neg odd : Bool) (y lo hi : ℝ) : Prop :=
  if towardZero rm neg then hi ≤ y
  else if awayFromZero rm neg then lo < y
  else (lo + hi) / 2 < y ∨ ((lo + hi) / 2 = y ∧ (rm = .rmm ∨ odd = true))

/-- `cmp` compares numbers that are not negative with the magnitude `y`. -/
def comparesWith (cmp : ℚ → Ordering) (y : ℝ) : Prop := ∀ q : ℚ, 0 ≤ q → cmp q = compare (q : ℝ) y

section
variable {rm : Rm} {neg odd : Bool} {y lo hi : ℝ}

theorem roundsUp_iff {cmp : ℚ → Ordering} {l h : ℚ} (hc : comparesWith cmp y) (hl : 0 ≤ l) (hh : 0 ≤ h) :
    roundsUp rm neg odd cmp l h ↔ roundsAbove rm neg odd y l h := by
  unfold roundsUp roundsAbove
  rw [hc l hl, hc h hh, hc ((l + h) / 2) (by positivity)]
  push_cast
  simp only [compare_lt_iff_lt, compare_eq_iff_eq, ne_eq, compare_gt_iff_gt, not_lt]

theorem roundsAbove_of_le (h : hi ≤ y) (hlt : lo < hi) : roundsAbove rm neg odd y lo hi := by
  unfold roundsAbove
  split
  · exact h
  · split
    · exact hlt.trans_le h
    · exact .inl (by linarith)

theorem not_roundsAbove_of_le (h : y ≤ lo) (hlt : lo < hi) : ¬ roundsAbove rm neg odd y lo hi := by
  unfold roundsAbove
  split
  · linarith
  · split
    · linarith
    · rintro (h' | ⟨h', -⟩) <;> linarith

theorem roundsAbove_mul {c : ℝ} (hc : 0 < c) :
    roundsAbove rm neg odd (y * c) (lo * c) (hi * c) ↔ roundsAbove rm neg odd y lo hi := by
  unfold roundsAbove
  rw [← add_mul, mul_div_right_comm, mul_le_mul_iff_left₀ hc, mul_lt_mul_iff_left₀ hc, mul_lt_mul_iff_left₀ hc,
    mul_left_inj' hc.ne']

/-- Strictly between two neighbours only the mode and the half between them count. -/
theorem roundsAbove_between {mid : ℝ} (hlo : lo < y) (hhi : y < hi) (hmid : (lo + hi) / 2 = mid) :
    roundsAbove rm neg odd y lo hi ↔
      (match rm with
       | .rtz => False
       | .rdn => neg = true
       | .rup => neg = false
       | .rne => mid < y ∨ (mid = y ∧ odd = true)
       | .rmm => mid ≤ y) := by
  have hne : ¬ hi ≤ y := not_le.2 hhi
  unfold roundsAbove
  rw [hmid]
  cases rm <;> cases neg <;> simp [towardZero, awayFromZero, hlo, hne, le_iff_lt_or_eq]

end

/-! ## Rounding to an integer -/

/-- `r.1` is `z` rounded to an integer, and `r.2` says that this changed it. -/
def roundsTo (rm : Rm) (neg : Bool) (z : ℝ) (r : Nat × Bool) : Prop :=
  ∃ n : Nat, n ≤ z ∧ z < n + 1 ∧ (r.2 = true ↔ z ≠ n) ∧
    (roundsAbove rm neg (decide (n % 2 = 1)) z n (n + 1) → r.1 = n + 1) ∧
    (¬ roundsAbove rm neg (decide (n % 2 = 1)) z n (n + 1) → r.1 = n)

theorem roundsTo_exact (rm : Rm) (neg : Bool) (n : Nat) : roundsTo rm neg n (n, false) :=
  ⟨n, le_rfl, lt_add_one _, by simp, fun h => absurd h (not_roundsAbove_of_le le_rfl (lt_add_one _)), fun _ => rfl⟩

/-- `roundUp` decides by the half that lies between `n` and `n + 1`. -/
theorem roundsTo_roundUp (rm : Rm) (neg : Bool) {z : ℝ} {n : Nat} {cmp : Ordering} {exact : Bool} (hn : n ≤ z)
    (hz : z < n + 1) (he : exact = true ↔ z = n) (hc : z ≠ n → cmp = compare z (n + 1 / 2)) :
    roundsTo rm neg z (roundUp rm neg n cmp exact, !exact) := by
  by_cases h : z = n
  · rw [he.2 h, h]; exact roundsTo_exact rm neg n
  have hx : exact = false := by simpa [h] using he
  have hlt : (n : ℝ) < z := lt_of_le_of_ne hn (Ne.symm h)
  refine ⟨n, hn, hz, by simp [hx, h], ?_⟩
  rw [hc h, hx, roundsAbove_between hlt hz rfl]
  have hmid : ((n : ℝ) + (n + 1)) / 2 = n + 1 / 2 := by ring
  rw [hmid]
  generalize (n : ℝ) + 1 / 2 = mid
  unfold roundUp
  rcases lt_trichotomy z mid with hcase | rfl | hcase
  · rw [compare_lt_iff_lt.2 hcase]
    cases rm <;> cases neg <;> simp [hcase.not_gt, hcase.ne', hcase.not_ge]
  · rw [compare_eq_iff_eq.2 rfl]
    rcases Nat.mod_two_eq_zero_or_one n with hpar | hpar <;> cases rm <;> cases neg <;> simp [hpar]
  · rw [compare_gt_iff_gt.2 hcase]
    cases rm <;> cases neg <;> simp [hcase, hcase.le]

/-- What a magnitude `m` with a sticky bit stands for: `m` itself, or a number strictly between `m` and `m + 1`. -/
def standsFor (m : Nat) (sticky : Bool) (y : ℝ) : Prop := if sticky then (m : ℝ) < y ∧ y < m + 1 else y = m

theorem standsFor_bounds {m : Nat} {sticky : Bool} {y : ℝ} (h : standsFor m sticky y) :
    (m : ℝ) ≤ y ∧ y < m + 1 ∧ (y = m ↔ sticky = false) := by
  cases sticky
  · simp only [standsFor, Bool.false_eq_true, if_false] at h
    subst h
    exact ⟨le_rfl, lt_add_one _, by simp⟩
  · simp only [standsFor, if_true] at h
    exact ⟨h.1.le, h.2, by simp [h.1.ne']⟩

theorem lt_two_pow_bitLength (m : Nat) : m < 2 ^ bitLength m := by
  unfold bitLength
  split
  · omega
  · exact Nat.lt_log2_self

/-- A shift so far that less than a quarter is left rounds from 0. -/
theorem roundsTo_far (rm : Rm) (neg : Bool) {m sh : Nat} {sticky : Bool} {y : ℝ} (hy : standsFor m sticky y)
    (h : bitLength m + 1 < sh) :
    roundsTo rm neg (y / 2 ^ sh) (roundUp rm neg 0 .lt (decide (m = 0) && !sticky), decide (m ≠ 0) || sticky) := by
  obtain ⟨hm, hlt, heq⟩ := standsFor_bounds hy
  have hpos : (0 : ℝ) < 2 ^ sh := by positivity
  have hz : y / 2 ^ sh = 0 ↔ m = 0 ∧ sticky = false := by
    rw [div_eq_zero_iff, or_iff_left hpos.ne', ← heq]
    constructor
    · rintro rfl
      have : (m : ℝ) = 0 := le_antisymm hm (Nat.cast_nonneg m)
      exact ⟨by exact_mod_cast this, this.symm⟩
    · rintro ⟨rfl, h⟩; simpa using h
  have hquarter : y / 2 ^ sh < 1 / 2 := by
    have h1 : ((m + 1 : ℕ) : ℝ) ≤ 2 ^ bitLength m := by exact_mod_cast lt_two_pow_bitLength m
    have h2 : (2 : ℝ) ^ (bitLength m + 1) ≤ 2 ^ sh := pow_le_pow_right₀ (by norm_num) (by omega)
    rw [div_lt_iff₀ hpos]
    push_cast at h1
    rw [pow_succ] at h2
    linarith
  have := roundsTo_roundUp rm neg (z := y / 2 ^ sh) (n := 0) (cmp := .lt) (exact := decide (m = 0) && !sticky)
    (by simp only [Nat.cast_zero]; exact div_nonneg ((Nat.cast_nonneg m).trans hm) hpos.le) (by simp; linarith)
    (by simp [hz]) (fun _ => (compare_lt_iff_lt.2 (by simpa using hquarter)).symm)
  simpa using this

/-- The quotient, the remainder and the sticky bit of a shift within the magnitude's reach. -/
theorem roundsTo_near (rm : Rm) (neg : Bool) {m sh : Nat} {sticky : Bool} {y : ℝ} (hy : standsFor m sticky y)
    (hsh : sh ≠ 0) :
    let r := m % 2 ^ sh
    let half := 2 ^ (sh - 1)
    let c : Ordering := if r < half then .lt else if r = half then (if sticky then .gt else .eq) else .gt
    let exact := decide (r = 0) && !sticky
    roundsTo rm neg (y / 2 ^ sh) (roundUp rm neg (m / 2 ^ sh) c exact, !exact) := by
  intro r half c exact
  obtain ⟨hm, hlt, heq⟩ := standsFor_bounds hy
  have hpos : (0 : ℝ) < 2 ^ sh := by positivity
  have hsplit : (m : ℝ) = (m / 2 ^ sh : ℕ) * 2 ^ sh + r := by
    exact_mod_cast (Nat.div_add_mod' m (2 ^ sh)).symm
  have hr : (r : ℝ) + 1 ≤ 2 ^ sh := by exact_mod_cast Nat.mod_lt m (Nat.two_pow_pos sh)
  have hhalf : (2 : ℝ) ^ sh = 2 * (half : ℕ) := by
    have : 2 ^ sh = 2 * half := by rw [← pow_succ', Nat.sub_add_cancel (Nat.pos_of_ne_zero hsh)]
    exact_mod_cast this
  have hr0 : (0 : ℝ) ≤ r := Nat.cast_nonneg r
  refine roundsTo_roundUp rm neg ?_ ?_ ?_ fun _ => ?_
  · rw [le_div_iff₀ hpos]; linarith
  · rw [div_lt_iff₀ hpos, add_mul]; linarith
  · rw [div_eq_iff hpos.ne']
    simp only [exact, Bool.and_eq_true, decide_eq_true_eq, Bool.not_eq_true', ← heq]
    constructor
    · rintro ⟨h0, h⟩
      rw [h, hsplit, h0]; simp
    · intro h
      have hr' : (r : ℝ) = 0 := by linarith
      exact ⟨by exact_mod_cast hr', by linarith⟩
  · show (if r < half then Ordering.lt else if r = half then (if sticky then .gt else .eq) else .gt) = _
    rcases lt_trichotomy r half with hlow | hmid | hhigh
    · have : (r : ℝ) + 1 ≤ half := by exact_mod_cast hlow
      rw [if_pos hlow, eq_comm, compare_lt_iff_lt, div_lt_iff₀ hpos, add_mul]
      linarith
    · have : (r : ℝ) = half := by exact_mod_cast hmid
      rw [if_neg hmid.not_lt, if_pos hmid]
      cases sticky
      · rw [if_neg Bool.false_ne_true, eq_comm, compare_eq_iff_eq, div_eq_iff hpos.ne', add_mul]
        linarith [heq.2 rfl]
      · have : (m : ℝ) < y := lt_of_le_of_ne hm fun h => Bool.noConfusion (heq.1 h.symm)
        rw [if_pos rfl, eq_comm, compare_gt_iff_gt, lt_div_iff₀ hpos, add_mul]
        linarith
    · have : (half : ℝ) + 1 ≤ r := by exact_mod_cast hhigh
      rw [if_neg hhigh.not_gt, if_neg hhigh.ne', eq_comm, compare_gt_iff_gt, lt_div_iff₀ hpos, add_mul]
      linarith

/-- `roundShift` rounds what the magnitude and its sticky bit stand for, over 2^sh. -/
theorem roundsTo_roundShift (rm : Rm) (neg : Bool) {m sh : Nat} {sticky : Bool} {y : ℝ} (hy : standsFor m sticky y)
    (hsh : sh ≠ 0) : roundsTo rm neg (y / 2 ^ sh) (roundShift rm neg m sh sticky) := by
  unfold roundShift
  rw [if_neg hsh]
  split
  · exact roundsTo_far rm neg hy ‹_›
  · exact roundsTo_near rm neg hy hsh

/-- `roundUnit` rounds to a multiple of 2^u; a sticky bit lies below the unit. -/
theorem roundsTo_roundUnit (rm : Rm) (neg : Bool) {m : Nat} {e u : Int} {sticky : Bool} {y : ℝ}
    (hy : standsFor m sticky y) (hs : sticky = true → e < u) :
    roundsTo rm neg (y * 2 ^ e / 2 ^ u) (roundUnit rm neg m e u sticky) := by
  rw [mul_div_assoc, ← zpow_sub₀ two_ne_zero]
  unfold roundUnit
  split
  · next h =>
    have hst : sticky = false := by simpa using mt hs h.not_gt
    have hcast : y * 2 ^ (e - u) = (m * 2 ^ (e - u).toNat : ℕ) := by
      obtain ⟨-, -, heq⟩ := standsFor_bounds hy
      rw [heq.2 hst]
      push_cast
      rw [← zpow_natCast (2 : ℝ), Int.toNat_of_nonneg (by omega)]
    rw [hcast, hst]
    exact roundsTo_exact rm neg _
  · next h =>
    have hdiv : y * 2 ^ (e - u) = y / 2 ^ (u - e).toNat := by
      rw [div_eq_mul_inv, ← zpow_natCast (2 : ℝ), Int.toNat_of_nonneg (by omega), ← zpow_neg, neg_sub]
    rw [hdiv]
    exact roundsTo_roundShift rm neg hy (by omega)

end Sys2Proof.Machine

/-! PROOFS. The grid of a format's magnitudes and the correct rounding of `EFmt.round` (R37, R46 to R48, R51). -/

namespace Sys2Proof.Machine

/-! ## The grid of magnitudes -/

/-- The number that magnitude bits stand for where the exponent has no upper limit: above the largest finite one the grid
goes on as if the format had a wider range. -/
noncomputable def EFmt.grid (f : EFmt) (mg : Nat) : ℝ :=
  ((mg % 2 ^ f.fbits : ℕ) + if mg < 2 ^ f.fbits then 0 else 2 ^ f.fbits) *
    2 ^ (f.qmin + ((mg / 2 ^ f.fbits - 1 : ℕ) : ℤ))

/-- Magnitude bits `mg`, rounded to a neighbour on the grid, go up. -/
def EFmt.gridUp (f : EFmt) (rm : Rm) (neg : Bool) (y : ℝ) (mg : Nat) : Prop :=
  roundsAbove rm neg (decide (mg % 2 = 1)) y (f.grid mg) (f.grid (mg + 1))

section
variable (f : EFmt)

/-- The grid by its exponent field and its fraction. -/
theorem EFmt.grid_fields {E F : Nat} (hF : F < 2 ^ f.fbits) :
    f.grid (2 ^ f.fbits * E + F) = (F + if E = 0 then 0 else 2 ^ f.fbits) * 2 ^ (f.qmin + ((E - 1 : ℕ) : ℤ)) := by
  have hE : 2 ^ f.fbits * E + F < 2 ^ f.fbits ↔ E = 0 := by
    constructor
    · intro h
      by_contra hE
      have := Nat.le_mul_of_pos_right (2 ^ f.fbits) (Nat.pos_of_ne_zero hE)
      omega
    · rintro rfl; omega
  unfold EFmt.grid
  rw [Nat.mul_add_mod, Nat.mod_eq_of_lt hF, Nat.mul_add_div (by positivity), Nat.div_eq_of_lt hF, Nat.add_zero]
  simp only [hE]

theorem EFmt.grid_succ (mg : Nat) :
    f.grid (mg + 1) = f.grid mg + 2 ^ (f.qmin + ((mg / 2 ^ f.fbits - 1 : ℕ) : ℤ)) := by
  set E := mg / 2 ^ f.fbits with hE
  have hF := Nat.mod_lt mg (Nat.two_pow_pos f.fbits)
  have hmg : mg = 2 ^ f.fbits * E + mg % 2 ^ f.fbits := (Nat.div_add_mod mg _).symm
  generalize mg % 2 ^ f.fbits = F at hF hmg
  rw [hmg, add_assoc, f.grid_fields hF]
  rcases Nat.lt_or_ge (F + 1) (2 ^ f.fbits) with hlt | hge
  · rw [f.grid_fields hlt]; push_cast; ring
  · have hF1 : F + 1 = 2 ^ f.fbits := by omega
    have hcast : (F : ℝ) + 1 = 2 ^ f.fbits := by exact_mod_cast hF1
    have hnext := f.grid_fields (E := E + 1) (F := 0) (by positivity)
    rw [Nat.add_zero, Nat.mul_succ] at hnext
    rw [hF1, hnext, Nat.add_sub_cancel, if_neg (Nat.succ_ne_zero E)]
    rcases Nat.eq_zero_or_pos E with h0 | hpos
    · rw [h0]; simp only [if_true, Nat.zero_sub]; push_cast; rw [← hcast]; ring
    · rw [if_neg hpos.ne', show f.qmin + (E : ℤ) = f.qmin + ((E - 1 : ℕ) : ℤ) + 1 by omega, zpow_add_one₀ two_ne_zero]
      push_cast; rw [← hcast]; ring

theorem EFmt.grid_strictMono : StrictMono f.grid :=
  strictMono_nat_of_lt_succ fun mg => by rw [f.grid_succ]; exact lt_add_of_pos_right _ (by positivity)

theorem EFmt.grid_nonneg (mg : Nat) : 0 ≤ f.grid mg := by
  unfold EFmt.grid; split <;> positivity

/-! ## Packing a rounded magnitude -/

/-- A rounded magnitude `q` of unit `u` fits the format's precision: below the leading bit only in the subnormal unit. -/
def EFmt.fits (f : EFmt) (q : Nat) (u : Int) : Prop :=
  q ≤ 2 ^ (f.fbits + 1) ∧ f.qmin ≤ u ∧ (q < 2 ^ f.fbits → u = f.qmin)

theorem EFmt.two_le_pow_fbits : 2 ≤ 2 ^ f.fbits := by cases f <;> decide

/-- A magnitude with its leading bit is packed as an exponent field and a fraction; the carry out of the fraction makes
the next exponent. -/
theorem EFmt.pack_normal {q : Nat} {u : Int} (hq : 2 ^ f.fbits ≤ q) (h : f.fits q u) :
    f.pack q u = 2 ^ f.fbits * (u - f.qmin).toNat + q := by
  obtain ⟨hle, hu, -⟩ := h
  have hqmin : f.qmin = 1 - f.bias - f.fbits := rfl
  unfold EFmt.pack
  rw [if_neg (by omega)]
  split
  · next h2 =>
    have he : (u + f.fbits + 1 + f.bias).toNat = (u - f.qmin).toNat + 2 := by omega
    rw [he, h2, pow_succ]; ring
  · next h2 =>
    have he : (u + f.fbits + f.bias).toNat = (u - f.qmin).toNat + 1 := by omega
    rw [he, add_mul, one_mul, add_assoc, Nat.add_sub_cancel' hq, mul_comm]

theorem EFmt.pack_subnormal {q : Nat} {u : Int} (hq : q < 2 ^ f.fbits) : f.pack q u = q := if_pos hq

/-- The packed bits stand for the magnitude. -/
theorem EFmt.grid_pack {q : Nat} {u : Int} (h : f.fits q u) : f.grid (f.pack q u) = q * 2 ^ u := by
  obtain ⟨hle, hu, hsub⟩ := id h
  rcases Nat.lt_or_ge q (2 ^ f.fbits) with hq | hq
  · have := f.grid_fields (E := 0) hq
    rw [f.pack_subnormal hq, hsub hq]
    simpa using this
  · rw [f.pack_normal hq h]
    have hexp : f.qmin + ((u - f.qmin).toNat : ℤ) = u := by omega
    rcases hle.lt_or_eq with hlt | heq
    · have := f.grid_fields (E := (u - f.qmin).toNat + 1) (F := q - 2 ^ f.fbits) (by rw [pow_succ] at hlt; omega)
      rw [if_neg (by omega), Nat.add_sub_cancel, hexp, mul_add, mul_one, add_assoc, Nat.add_sub_cancel' hq,
        Nat.cast_sub hq] at this
      rw [this]; push_cast; ring
    · have := f.grid_fields (E := (u - f.qmin).toNat + 2) (F := 0) (by positivity)
      rw [if_neg (by omega), show (u - f.qmin).toNat + 2 - 1 = (u - f.qmin).toNat + 1 by omega, Nat.cast_succ,
        ← add_assoc, hexp, zpow_add_one₀ two_ne_zero, Nat.add_zero] at this
      rw [heq, show 2 ^ f.fbits * (u - f.qmin).toNat + 2 ^ (f.fbits + 1) = 2 ^ f.fbits * ((u - f.qmin).toNat + 2) by ring,
        this]
      push_cast; ring

theorem EFmt.pack_succ {q : Nat} {u : Int} (hq : q < 2 ^ (f.fbits + 1)) (h : f.fits q u) :
    f.pack (q + 1) u = f.pack q u + 1 := by
  obtain ⟨-, hu, hsub⟩ := id h
  have hnext : f.fits (q + 1) u := ⟨hq, hu, fun hlt => hsub (by omega)⟩
  rcases Nat.lt_or_ge (q + 1) (2 ^ f.fbits) with h1 | h1
  · rw [f.pack_subnormal h1, f.pack_subnormal (by omega)]
  · rcases Nat.lt_or_ge q (2 ^ f.fbits) with h2 | h2
    · rw [f.pack_normal h1 hnext, f.pack_subnormal h2, hsub h2, sub_self]; simp
    · rw [f.pack_normal h1 hnext, f.pack_normal h2 h]; rfl

theorem EFmt.pack_parity {q : Nat} {u : Int} (h : f.fits q u) : f.pack q u % 2 = q % 2 := by
  rcases Nat.lt_or_ge q (2 ^ f.fbits) with hq | hq
  · rw [f.pack_subnormal hq]
  · rw [f.pack_normal hq h, Nat.add_mod, Nat.mul_mod, Nat.even_iff.1 (Nat.even_pow.2 ⟨even_two, by cases f <;> decide⟩)]
    simp

end

/-! ## Rounding onto the grid -/

/-- A magnitude rounded to the unit `u` is packed as the grid says: every neighbour below the packed bits goes up, none
from them on; it is inexact where it is not on the grid. -/
theorem EFmt.gridUp_iff_lt_pack (f : EFmt) {rm : Rm} {neg : Bool} {y : ℝ} {u : Int} {r : Nat × Bool}
    (hr : roundsTo rm neg (y / 2 ^ u) r) (hu : f.qmin ≤ u) (hhi : y / 2 ^ u < 2 ^ (f.fbits + 1))
    (hlo : u ≠ f.qmin → 2 ^ f.fbits ≤ y / 2 ^ u) :
    (∀ k, f.gridUp rm neg y k ↔ k < f.pack r.1 u) ∧ (r.2 = true ↔ y ≠ f.grid (f.pack r.1 u)) := by
  obtain ⟨n, hn, hz, hinexact, hup, hdown⟩ := hr
  have hpos : (0 : ℝ) < 2 ^ u := by positivity
  have hlt : n < 2 ^ (f.fbits + 1) := by exact_mod_cast hn.trans_lt hhi
  have hfit : f.fits n u := by
    refine ⟨hlt.le, hu, fun hsub => ?_⟩
    by_contra hne
    have h1 : (2 : ℝ) ^ f.fbits < n + 1 := (hlo hne).trans_lt hz
    have h2 : 2 ^ f.fbits < n + 1 := by exact_mod_cast h1
    omega
  have hfit1 : f.fits (n + 1) u := ⟨hlt, hu, fun h => hfit.2.2 (by omega)⟩
  have hgrid := f.grid_pack hfit
  have hgrid1 := f.grid_pack hfit1
  rw [f.pack_succ hlt hfit] at hgrid1
  set k0 := f.pack n u with hk0
  have hy : y = y / 2 ^ u * 2 ^ u := (div_mul_cancel₀ y hpos.ne').symm
  have hge : f.grid k0 ≤ y := by rw [hgrid, hy]; exact mul_le_mul_of_nonneg_right hn hpos.le
  have hltg : y < f.grid (k0 + 1) := by
    rw [hgrid1, hy]; push_cast; exact mul_lt_mul_of_pos_right hz hpos
  have hk0up : f.gridUp rm neg y k0 ↔ roundsAbove rm neg (decide (n % 2 = 1)) (y / 2 ^ u) n (n + 1) := by
    have hscale := roundsAbove_mul (rm := rm) (neg := neg) (odd := decide (n % 2 = 1)) (y := y / 2 ^ u) (lo := n)
      (hi := n + 1) hpos
    rw [div_mul_cancel₀ y hpos.ne'] at hscale
    unfold EFmt.gridUp
    rwa [hgrid, hgrid1, hk0, f.pack_parity hfit, Nat.cast_succ]
  have hbelow (k : Nat) (hk : k < k0) : f.gridUp rm neg y k :=
    roundsAbove_of_le ((f.grid_strictMono.monotone hk).trans hge) (f.grid_strictMono (Nat.lt_succ_self k))
  have habove (k : Nat) (hk : k0 < k) : ¬ f.gridUp rm neg y k :=
    not_roundsAbove_of_le (hltg.le.trans (f.grid_strictMono.monotone hk)) (f.grid_strictMono (Nat.lt_succ_self k))
  have hne : r.2 = true ↔ y ≠ f.grid k0 := by
    rw [hinexact, hgrid, ne_eq, ne_eq, div_eq_iff hpos.ne']
  by_cases h : roundsAbove rm neg (decide (n % 2 = 1)) (y / 2 ^ u) n (n + 1)
  · have hyk : y ≠ f.grid k0 := fun heq =>
      not_roundsAbove_of_le heq.le (f.grid_strictMono (Nat.lt_succ_self k0)) (hk0up.2 h)
    rw [hup h, f.pack_succ hlt hfit]
    refine ⟨fun k => ?_, ?_⟩
    · rcases lt_trichotomy k k0 with hk | rfl | hk
      · exact iff_of_true (hbelow k hk) (by omega)
      · exact iff_of_true (hk0up.2 h) (by omega)
      · exact iff_of_false (habove k hk) (by omega)
    · exact iff_of_true (hne.2 hyk) hltg.ne
  · rw [hdown h]
    refine ⟨fun k => ?_, hne⟩
    rcases lt_trichotomy k k0 with hk | rfl | hk
    · exact iff_of_true (hbelow k hk) hk
    · exact iff_of_false (fun hk => h (hk0up.1 hk)) (lt_irrefl _)
    · exact iff_of_false (habove k hk) hk.not_gt

end Sys2Proof.Machine

/-! PROOFS. The correct rounding of `EFmt.round`: the magnitude bits it packs are those of the grid, with the overflow,
the tininess and the flags of R47, R48 and R51. -/

namespace Sys2Proof.Machine

/-! ## Finite magnitudes -/

section
variable (f : EFmt)

theorem EFmt.maxFinite_lt : f.maxFinite < 2 ^ (f.bits - 1) := by cases f <;> decide

theorem EFmt.maxFinite_lt_infBits (h : f.ieee = true) : f.maxFinite < f.infBits := by cases f <;> revert h <;> decide

/-- The largest finite magnitude and its neighbours have one exponent. -/
theorem EFmt.maxFinite_binade : 0 < f.maxFinite ∧ (f.maxFinite - 1) / 2 ^ f.fbits = f.maxFinite / 2 ^ f.fbits := by
  cases f <;> decide

/-- Magnitude bits of a finite number by their exponent and fraction fields. -/
theorem EFmt.value_of_le_maxFinite {mg : Nat} (h : mg ≤ f.maxFinite) :
    f.value mg = if mg < 2 ^ f.fbits then .fin false mg f.qmin
      else .fin false (2 ^ f.fbits + mg % 2 ^ f.fbits) ((mg / 2 ^ f.fbits : ℕ) - f.bias - f.fbits) := by
  have hlt : mg < 2 ^ (f.bits - 1) := h.trans_lt f.maxFinite_lt
  have hmag : f.mag mg = mg := Nat.mod_eq_of_lt hlt
  have hneg : f.neg mg = false := Nat.testBit_lt_two_pow hlt
  have hexp : f.expField mg = mg / 2 ^ f.fbits := by
    refine Nat.mod_eq_of_lt (Nat.div_lt_of_lt_mul ?_)
    rw [← pow_add, EFmt.ebits, Nat.add_sub_cancel' (by cases f <;> decide)]
    exact hlt
  have hnan : f.isNan mg = false := by
    unfold EFmt.isNan
    rw [hmag]
    split
    · next hi => simpa using (h.trans_lt (f.maxFinite_lt_infBits hi)).le
    · next hi =>
      have h4 : f = .e4m3 := by cases f <;> simp [EFmt.ieee] at hi ⊢
      rw [h4] at h
      have : mg ≤ 126 := h
      simp; omega
  have hinf : (f.ieee && decide (f.mag mg = f.infBits)) = false := by
    rw [hmag, Bool.and_eq_false_imp]
    intro hi
    simpa using (h.trans_lt (f.maxFinite_lt_infBits hi)).ne
  have hzero : f.expField mg = 0 ↔ mg < 2 ^ f.fbits := by
    rw [hexp, Nat.div_eq_zero_iff, or_iff_right (by positivity)]
  unfold EFmt.value
  simp only [hnan, hinf, hneg, Bool.false_eq_true, if_false, hzero, EFmt.fracField]
  split
  · next hs => rw [Nat.mod_eq_of_lt hs]
  · rw [hexp]

theorem EFmt.cast_magRat {mg : Nat} (h : mg ≤ f.maxFinite) : ((f.magRat mg : ℚ) : ℝ) = f.grid mg := by
  unfold EFmt.magRat EFmt.grid
  rw [f.value_of_le_maxFinite h]
  split
  · next hs =>
    rw [Nat.div_eq_of_lt hs, Nat.mod_eq_of_lt hs]
    simp [FVal.rat]
  · next hs =>
    have hE : 0 < mg / 2 ^ f.fbits := Nat.div_pos (not_lt.1 hs) (by positivity)
    have hqmin : f.qmin = 1 - f.bias - f.fbits := rfl
    have hexp : ((mg / 2 ^ f.fbits : ℕ) : ℤ) - f.bias - f.fbits = f.qmin + ((mg / 2 ^ f.fbits - 1 : ℕ) : ℤ) := by omega
    rw [hexp]
    simp [FVal.rat, add_comm]

theorem EFmt.cast_above {mg : Nat} (h : mg ≤ f.maxFinite) : ((f.above mg : ℚ) : ℝ) = f.grid (mg + 1) := by
  unfold EFmt.above
  split
  · next hlt => exact f.cast_magRat hlt
  · next hge =>
    obtain rfl : mg = f.maxFinite := by omega
    obtain ⟨hpos, hbin⟩ := f.maxFinite_binade
    have hprev := f.grid_succ (f.maxFinite - 1)
    rw [Nat.sub_add_cancel hpos, hbin] at hprev
    push_cast
    rw [f.cast_magRat le_rfl, f.cast_magRat (Nat.sub_le _ 1), f.grid_succ f.maxFinite]
    linarith

theorem EFmt.magRat_nonneg {mg : Nat} (h : mg ≤ f.maxFinite) : 0 ≤ f.magRat mg := by
  have := f.grid_nonneg mg
  rw [← f.cast_magRat h] at this
  exact_mod_cast this

theorem EFmt.above_nonneg {mg : Nat} (h : mg ≤ f.maxFinite) : 0 ≤ f.above mg := by
  have := f.grid_nonneg (mg + 1)
  rw [← f.cast_above h] at this
  exact_mod_cast this

/-- What `EFmt.rounds` asks of magnitude bits is rounding on the grid. -/
theorem EFmt.roundsUp_iff_gridUp {rm : Rm} {neg : Bool} {cmp : ℚ → Ordering} {y : ℝ} {mg : Nat}
    (hc : comparesWith cmp y) (h : mg ≤ f.maxFinite) :
    roundsUp rm neg (decide (mg % 2 = 1)) cmp (f.magRat mg) (f.above mg) ↔ f.gridUp rm neg y mg := by
  rw [roundsUp_iff hc (f.magRat_nonneg h) (f.above_nonneg h), f.cast_magRat h, f.cast_above h]; rfl

/-- A magnitude from 2^(bias + 2) on lies beyond the largest finite one. -/
theorem EFmt.grid_maxFinite_succ_le : f.grid (f.maxFinite + 1) ≤ 2 ^ ((f.bias : ℤ) + 2) := by
  have hqmin : f.qmin = 1 - f.bias - f.fbits := rfl
  by_cases hi : f.ieee = true
  · have hmax : f.maxFinite + 1 = 2 ^ f.fbits * (2 * f.bias + 1) + 0 := by cases f <;> revert hi <;> decide
    rw [hmax, f.grid_fields (by positivity), if_neg (Nat.succ_ne_zero _), Nat.add_sub_cancel, Nat.cast_zero, zero_add,
      ← zpow_natCast, ← zpow_add₀ two_ne_zero]
    exact zpow_le_zpow_right₀ one_le_two (by push_cast; omega)
  · have h4 : f = .e4m3 := by cases f <;> simp [EFmt.ieee] at hi ⊢
    subst h4
    have hmax : EFmt.e4m3.maxFinite + 1 = 2 ^ EFmt.e4m3.fbits * 15 + 7 := rfl
    have hexp : EFmt.e4m3.qmin + ((15 - 1 : ℕ) : ℤ) = 5 := by decide
    have hbias : (EFmt.e4m3.bias : ℤ) + 2 = 9 := by decide
    rw [hmax, EFmt.grid_fields _ (by decide), if_neg (by decide), hexp, hbias, show EFmt.e4m3.fbits = 3 from rfl]
    norm_num

end

/-! ## The leading bit -/

section
variable {m : Nat} {e : Int} {sticky : Bool} {y : ℝ}

/-- A magnitude lies in the binade of its leading bit. -/
theorem standsFor_binade (hm : m ≠ 0) (hy : standsFor m sticky y) :
    (2 : ℝ) ^ topExp m e ≤ y * 2 ^ e ∧ y * 2 ^ e < 2 ^ (topExp m e + 1) := by
  obtain ⟨hge, hlt, -⟩ := standsFor_bounds hy
  have hlo : ((2 ^ Nat.log2 m : ℕ) : ℝ) ≤ m := by exact_mod_cast Nat.log2_self_le hm
  have hhi : ((m + 1 : ℕ) : ℝ) ≤ (2 ^ (Nat.log2 m + 1) : ℕ) := by exact_mod_cast Nat.lt_log2_self
  push_cast at hlo hhi
  have hpos : (0 : ℝ) < 2 ^ e := by positivity
  have hexp (n : ℕ) : (2 : ℝ) ^ (e + n) = 2 ^ n * 2 ^ e := by rw [zpow_add₀ two_ne_zero, zpow_natCast, mul_comm]
  unfold topExp
  rw [add_assoc, ← Nat.cast_succ, hexp, hexp]
  exact ⟨mul_le_mul_of_nonneg_right (hlo.trans hge) hpos.le, mul_lt_mul_of_pos_right (hlt.trans_le hhi) hpos⟩

end

/-- A number below an even integer rounds to it where it lies in the last unit and the mode rounds it up. -/
theorem roundsTo_eq_even_iff {rm : Rm} {neg : Bool} {z : ℝ} {r : Nat × Bool} {N : Nat} (hr : roundsTo rm neg z r)
    (hz : z < N) (hN : N % 2 = 0) : r.1 = N ↔ roundsAbove rm neg true z (N - 1) N := by
  obtain ⟨n, hn, hzn, -, hup, hdown⟩ := hr
  have hnN : n < N := Nat.cast_lt.1 (hn.trans_lt hz)
  by_cases hmax : n + 1 = N
  · have hcast : (N : ℝ) = n + 1 := by exact_mod_cast hmax.symm
    have hodd : decide (n % 2 = 1) = true := decide_eq_true (by omega)
    rw [hodd] at hup hdown
    rw [hcast, add_sub_cancel_right, ← hmax]
    refine ⟨fun h => ?_, hup⟩
    by_contra hno
    rw [hdown hno] at h; omega
  · have hcast : (n : ℝ) + 1 ≤ N - 1 := by
      have : ((n + 1 + 1 : ℕ) : ℝ) ≤ N := by exact_mod_cast (by omega : n + 1 + 1 ≤ N)
      push_cast at this
      linarith
    refine iff_of_false (fun h => ?_) (not_roundsAbove_of_le (hzn.le.trans hcast) (sub_one_lt _))
    by_cases hab : roundsAbove rm neg (decide (n % 2 = 1)) z n (n + 1)
    · exact hmax ((hup hab).symm.trans h)
    · exact hnN.ne ((hdown hab).symm.trans h)

/-- Tininess is decided by rounding with the format's precision and no lower limit of the exponent (R48). -/
theorem EFmt.tiny_iff (f : EFmt) {rm : Rm} {neg : Bool} {m : Nat} {e : Int} {sticky : Bool} {y : ℝ}
    (hm : m ≠ 0) (hs : sticky = true → f.fbits < Nat.log2 m) (hy : standsFor m sticky y) :
    f.tiny rm neg m e sticky = true ↔
      ¬ roundsAbove rm neg true (y * 2 ^ e) (2 ^ f.emin - 2 ^ (f.emin - 1 - f.fbits)) (2 ^ f.emin) := by
  obtain ⟨hlo, hhi⟩ := standsFor_binade (e := e) hm hy
  have hgap : (0 : ℝ) < 2 ^ (f.emin - 1 - f.fbits) := by positivity
  unfold EFmt.tiny
  simp only [Bool.and_eq_true, decide_eq_true_eq, Bool.not_eq_true', Bool.and_eq_false_imp, decide_eq_false_iff_not]
  rcases lt_trichotomy (topExp m e) (f.emin - 1) with hlt | heq | hgt
  · have hle : (2 : ℝ) ^ (topExp m e + 1) ≤ 2 ^ (f.emin - 1) := zpow_le_zpow_right₀ one_le_two (by omega)
    have hle2 : (2 : ℝ) ^ (f.emin - 1 - f.fbits) ≤ 2 ^ (f.emin - 1) := zpow_le_zpow_right₀ one_le_two (by omega)
    have hdbl : (2 : ℝ) ^ f.emin = 2 ^ (f.emin - 1) * 2 := by rw [← zpow_add_one₀ two_ne_zero, sub_add_cancel]
    refine iff_of_true ⟨by omega, fun h => absurd h hlt.ne⟩ (not_roundsAbove_of_le ?_ (by linarith))
    rw [hdbl]; linarith
  · have hr := roundsTo_roundUnit rm neg (e := e) (u := topExp m e - f.fbits) hy (fun h => by unfold topExp; have := hs h; omega)
    generalize roundUnit rm neg m e (topExp m e - f.fbits) sticky = r at hr ⊢
    have hpos : (0 : ℝ) < 2 ^ (topExp m e - f.fbits) := by positivity
    set z := y * 2 ^ e / 2 ^ (topExp m e - f.fbits) with hz
    have hymul : y * 2 ^ e = z * 2 ^ (topExp m e - f.fbits) := (div_mul_cancel₀ _ hpos.ne').symm
    have htop : (2 : ℝ) ^ f.emin = 2 ^ (f.fbits + 1) * 2 ^ (topExp m e - f.fbits) := by
      rw [← zpow_natCast, ← zpow_add₀ two_ne_zero]; congr 1; push_cast; omega
    have hgap' : f.emin - 1 - f.fbits = topExp m e - f.fbits := by omega
    have hlow : (2 : ℝ) ^ f.emin - 2 ^ (f.emin - 1 - f.fbits) = (2 ^ (f.fbits + 1) - 1) * 2 ^ (topExp m e - f.fbits) := by
      rw [htop, hgap']; ring
    have hztop : z < 2 ^ (f.fbits + 1) := by
      rw [hz, div_lt_iff₀ hpos, ← htop, ← sub_add_cancel f.emin 1, ← heq]; exact hhi
    have key := roundsTo_eq_even_iff hr (N := 2 ^ (f.fbits + 1)) (by push_cast; exact hztop) (by rw [pow_succ]; omega)
    push_cast at key
    rw [hlow, htop, hymul, roundsAbove_mul hpos, ← key]
    exact ⟨fun h => h.2 heq, fun h => ⟨by omega, fun _ => h⟩⟩
  · have hle : (2 : ℝ) ^ f.emin ≤ 2 ^ topExp m e := zpow_le_zpow_right₀ one_le_two (by omega)
    refine iff_of_false (fun h => by omega) (not_not.2 (roundsAbove_of_le (hle.trans hlo) (by linarith)))

/-! ## Rounding into a format -/

/-- The result of an overflow (R47). -/
theorem EFmt.overflow_eq (f : EFmt) (c : FpCtl) (neg : Bool) : f.overflow c neg =
    if towardZero c.rm neg then f.signBit neg + f.maxFinite
    else if f.ieee then f.signBit neg + f.infBits
    else if c.e4nan then f.nanBits else f.signBit neg + f.maxFinite := by
  obtain ⟨rm, daz, ftz, e4nan⟩ := c
  unfold EFmt.overflow
  cases rm <;> cases neg <;> cases f.ieee <;> cases e4nan <;> rfl

section
variable (f : EFmt) (c : FpCtl) {neg sticky : Bool} {m : Nat} {e : Int} {y : ℝ}

/-- The unit of the rounding of `EFmt.round`: the format's precision, and no less than the subnormal unit. -/
def EFmt.unitOf (f : EFmt) (m : Nat) (e : Int) : Int := max (topExp m e - f.fbits) f.qmin

/-- Magnitude bits and inexactness before the exponent range and FTZ are applied. -/
def EFmt.packed (f : EFmt) (c : FpCtl) (neg : Bool) (m : Nat) (e : Int) (sticky : Bool) : Nat × Bool :=
  let r := roundUnit c.rm neg m e (f.unitOf m e) sticky
  (f.pack r.1 (f.unitOf m e), r.2)

/-- The packed magnitude is the one the grid rounds to. -/
theorem EFmt.gridUp_iff_lt_packed (hm : m ≠ 0) (hs : sticky = true → f.fbits < Nat.log2 m) (hy : standsFor m sticky y) :
    (∀ k, f.gridUp c.rm neg (y * 2 ^ e) k ↔ k < (f.packed c neg m e sticky).1) ∧
      ((f.packed c neg m e sticky).2 = true ↔ y * 2 ^ e ≠ f.grid (f.packed c neg m e sticky).1) := by
  obtain ⟨hlo, hhi⟩ := standsFor_binade (e := e) hm hy
  have hu : topExp m e - f.fbits ≤ f.unitOf m e := le_max_left _ _
  have hpos : (0 : ℝ) < 2 ^ f.unitOf m e := by positivity
  refine f.gridUp_iff_lt_pack (roundsTo_roundUnit c.rm neg hy fun h => ?_) (le_max_right _ _) ?_ fun hne => ?_
  · have := hs h; unfold topExp at hu; omega
  · rw [div_lt_iff₀ hpos, ← zpow_natCast, ← zpow_add₀ two_ne_zero]
    exact hhi.trans_le (zpow_le_zpow_right₀ one_le_two (by push_cast; omega))
  · have heq : f.unitOf m e = topExp m e - f.fbits := (max_choice _ _).resolve_right hne
    rw [le_div_iff₀ hpos, ← zpow_natCast, ← zpow_add₀ two_ne_zero, heq, add_sub_cancel]
    exact hlo

/-- A magnitude that rounds beyond the largest finite one overflows; any other is packed. -/
theorem EFmt.round_eq (hm : m ≠ 0) (hs : sticky = true → f.fbits < Nat.log2 m) (hy : standsFor m sticky y) :
    f.round c neg m e sticky =
      if f.maxFinite < (f.packed c neg m e sticky).1 then ⟨f.overflow c neg, 5⟩
      else f.finish c neg (f.tiny c.rm neg m e sticky) (f.packed c neg m e sticky).2 (f.packed c neg m e sticky).1 := by
  unfold EFmt.round
  dsimp only
  split
  · next hbig =>
    have hup : f.gridUp c.rm neg (y * 2 ^ e) f.maxFinite := by
      refine roundsAbove_of_le (f.grid_maxFinite_succ_le.trans ?_) (f.grid_strictMono (Nat.lt_succ_self _))
      exact (zpow_le_zpow_right₀ one_le_two (by omega)).trans (standsFor_binade hm hy).1
    rw [if_pos (((f.gridUp_iff_lt_packed c hm hs hy).1 _).1 hup)]
    rfl
  · rfl

/-- `EFmt.round` rounds correctly, once, with the flags, the overflow and the FTZ of R47, R48 and R51. -/
theorem EFmt.rounds_round {cmp : ℚ → Ordering} (hm : m ≠ 0) (hs : sticky = true → f.fbits < Nat.log2 m)
    (hy : standsFor m sticky y) (hc : comparesWith cmp (y * 2 ^ e)) :
    f.rounds c neg cmp (f.round c neg m e sticky) := by
  obtain ⟨hgrid, hinexact⟩ := f.gridUp_iff_lt_packed c (neg := neg) (e := e) hm hs hy
  have hup {mg : Nat} (h : mg ≤ f.maxFinite) :
      roundsUp c.rm neg (decide (mg % 2 = 1)) cmp (f.magRat mg) (f.above mg) ↔ mg < (f.packed c neg m e sticky).1 :=
    (f.roundsUp_iff_gridUp hc h).trans (hgrid mg)
  have htiny : f.tiny c.rm neg m e sticky = true ↔
      ¬ roundsUp c.rm neg true cmp (2 ^ f.emin - 2 ^ (f.emin - 1 - f.fbits)) (2 ^ f.emin) := by
    have hle : (2 : ℚ) ^ (f.emin - 1 - f.fbits) ≤ 2 ^ f.emin := zpow_le_zpow_right₀ one_le_two (by omega)
    rw [f.tiny_iff hm hs hy, roundsUp_iff hc (sub_nonneg.2 hle) (by positivity)]
    push_cast
    rfl
  rw [f.round_eq c hm hs hy]
  unfold EFmt.rounds
  simp only [hup le_rfl, ← htiny]
  refine ⟨fun h => ?_, fun h ht hftz hne => ?_, fun h hno => ?_⟩
  · rw [if_pos h]; exact ⟨rfl, f.overflow_eq c neg⟩
  · rw [if_neg h]; simp [EFmt.finish, ht, hftz, hne, flagUF, flagNX]
  · have hle : (f.packed c neg m e sticky).1 ≤ f.maxFinite := not_lt.1 h
    have hexact : cmp (f.magRat (f.packed c neg m e sticky).1) = .eq ↔ (f.packed c neg m e sticky).2 = false := by
      rw [hc _ (f.magRat_nonneg hle), f.cast_magRat hle, compare_eq_iff_eq, eq_comm, ← Bool.not_eq_true, hinexact,
        not_not]
    have hfin : f.finish c neg (f.tiny c.rm neg m e sticky) (f.packed c neg m e sticky).2 (f.packed c neg m e sticky).1 =
        ⟨f.signBit neg + (f.packed c neg m e sticky).1,
          flagIf (f.tiny c.rm neg m e sticky && (f.packed c neg m e sticky).2) flagUF |||
            flagIf (f.packed c neg m e sticky).2 flagNX⟩ := by
      refine if_neg fun hftz => hno ?_
      simpa [and_assoc] using hftz
    rw [if_neg h, hfin]
    refine ⟨_, hle, rfl, ?_, fun hlast => lt_irrefl _ ((hup hle).1 hlast), fun heq => ?_, fun hne => ⟨fun ht => ?_, fun ht => ?_⟩⟩
    · rcases Nat.eq_zero_or_pos (f.packed c neg m e sticky).1 with h0 | hpos
      · exact .inl h0
      · exact .inr ((hup ((Nat.sub_le _ 1).trans hle)).2 (Nat.sub_lt hpos one_pos))
    · rw [hexact.1 heq]; simp [flagIf]
    · rw [Bool.eq_true_of_not_eq_false (mt hexact.2 hne), ht]; rfl
    · rw [Bool.eq_true_of_not_eq_false (mt hexact.2 hne), Bool.eq_false_of_not_eq_true ht]; rfl

end

end Sys2Proof.Machine

/-! PROOFS. Exact numbers and the arithmetic of the formats: finite results are the exact ones, rounded once (R46 to R48,
R51, R53, R125, R130). -/

namespace Sys2Proof.Machine

/-! ## Exact numbers -/

/-- The rational number m × 2^e. -/
def Dy.rat (x : Dy) : ℚ := x.m * 2 ^ x.e

theorem Dy.rat_eq_zero_iff (x : Dy) : x.rat = 0 ↔ x.m = 0 := by
  unfold Dy.rat
  rw [mul_eq_zero, or_iff_left (zpow_ne_zero _ two_ne_zero), Int.cast_eq_zero]

theorem Dy.at_mul {x : Dy} {e : Int} (h : e ≤ x.e) : (x.at e : ℚ) * 2 ^ e = x.rat := by
  have hexp : ((x.e - e).toNat : ℤ) = x.e - e := Int.toNat_of_nonneg (by omega)
  unfold Dy.at Dy.rat
  push_cast
  rw [mul_assoc, ← zpow_natCast, hexp, ← zpow_add₀ two_ne_zero, sub_add_cancel]

theorem Dy.rat_add (x y : Dy) : (x.add y).rat = x.rat + y.rat := by
  unfold Dy.add
  split
  · next h => rw [(Dy.rat_eq_zero_iff x).2 h, zero_add]
  · split
    · next h => rw [(Dy.rat_eq_zero_iff y).2 h, add_zero]
    · rw [← Dy.at_mul (min_le_left x.e y.e), ← Dy.at_mul (min_le_right x.e y.e), ← add_mul, ← Int.cast_add]; rfl

theorem Dy.rat_mul (x y : Dy) : (x.mul y).rat = x.rat * y.rat := by
  unfold Dy.mul Dy.rat
  push_cast
  rw [zpow_add₀ two_ne_zero]; ring

/-! ## Values -/

@[simp] theorem FVal.rat_fin (n : Bool) (m : Nat) (e : Int) :
    (FVal.fin n m e).rat = (if n then -(m : ℚ) else m) * 2 ^ e := rfl

theorem FVal.rat_dy (v : FVal) : v.dy.rat = v.rat := by
  cases v with
  | nan s => simp [FVal.dy, FVal.rat, Dy.rat]
  | inf n => simp [FVal.dy, FVal.rat, Dy.rat]
  | fin n m e => cases n <;> simp [FVal.dy, Dy.rat]

theorem FVal.rat_negate (v : FVal) : v.negate.rat = -v.rat := by
  cases v with
  | nan s => simp [FVal.negate, FVal.rat]
  | inf n => simp [FVal.negate, FVal.rat]
  | fin n m e => cases n <;> simp [FVal.negate]

theorem FVal.rat_fin_eq_zero_iff (n : Bool) (m : Nat) (e : Int) : (FVal.fin n m e).rat = 0 ↔ m = 0 := by
  rw [FVal.rat_fin, mul_eq_zero, or_iff_left (zpow_ne_zero _ two_ne_zero)]
  cases n <;> simp

@[simp] theorem FVal.isZero_fin (n : Bool) (m : Nat) (e : Int) : (FVal.fin n m e).isZero = decide (m = 0) := by
  cases m <;> simp [FVal.isZero]

@[simp] theorem FVal.neg_fin (n : Bool) (m : Nat) (e : Int) : (FVal.fin n m e).neg = n := rfl

theorem FVal.abs_rat_fin (n : Bool) (m : Nat) (e : Int) : |(FVal.fin n m e).rat| = m * 2 ^ e := by
  have hpos : (0 : ℚ) < 2 ^ e := by positivity
  rw [FVal.rat_fin, abs_mul, abs_of_pos hpos]
  cases n <;> simp

theorem FVal.rat_fin_lt_zero {n : Bool} {m : Nat} (e : Int) (hm : m ≠ 0) : (FVal.fin n m e).rat < 0 ↔ n = true := by
  have hpos : (0 : ℚ) < m * 2 ^ e := by positivity
  cases n
  · simpa using hpos.le
  · simpa using hpos

/-- The product of finite values is exact. -/
theorem mulVal_fin (a b : Bool) (m n : Nat) (e g : Int) :
    mulVal (.fin a m e) (.fin b n g) = .fin (a != b) (m * n) (e + g) := rfl

theorem rat_mulVal_fin (a b : Bool) (m n : Nat) (e g : Int) :
    (mulVal (.fin a m e) (.fin b n g)).rat = (FVal.fin a m e).rat * (FVal.fin b n g).rat := by
  rw [mulVal_fin, FVal.rat_fin, FVal.rat_fin, FVal.rat_fin, zpow_add₀ two_ne_zero]
  cases a <;> cases b <;> simp <;> ring

/-! ## Rounding an exact number -/

/-- Rational numbers compare as they do among the reals. -/
theorem compare_ratCast (p q : ℚ) : compare (p : ℝ) (q : ℝ) = compare p q := by
  rcases lt_trichotomy p q with h | h | h
  · rw [compare_lt_iff_lt.2 h, compare_lt_iff_lt.2 (by exact_mod_cast h)]
  · rw [compare_eq_iff_eq.2 h, compare_eq_iff_eq.2 (by exact_mod_cast h)]
  · rw [compare_gt_iff_gt.2 h, compare_gt_iff_gt.2 (by exact_mod_cast h)]

theorem comparesWith_abs {x : ℚ} {y : ℝ} (h : ((|x| : ℚ) : ℝ) = y) : comparesWith (fun q => compare q |x|) y :=
  fun q _ => by rw [← h, compare_ratCast]

section
variable (f : EFmt) (c : FpCtl)

theorem EFmt.roundsRat_round {n : Bool} {m : Nat} {e : Int} (hm : m ≠ 0) :
    f.roundsRat c (FVal.fin n m e).rat (f.round c n m e false) := by
  intro _
  have hneg : decide ((FVal.fin n m e).rat < 0) = n := by rw [Bool.decide_congr (FVal.rat_fin_lt_zero e hm)]; simp
  rw [hneg]
  refine f.rounds_round c hm (by simp) (y := m) rfl (comparesWith_abs ?_)
  rw [FVal.abs_rat_fin]; push_cast; rfl

/-- An exact number as a value. -/
theorem Dy.rat_eq_fin (x : Dy) : x.rat = (FVal.fin (decide (x.m < 0)) x.m.natAbs x.e).rat := by
  have hm : (x.m : ℚ) = if decide (x.m < 0) then -(x.m.natAbs : ℚ) else x.m.natAbs := by
    by_cases h : x.m < 0
    · rw [decide_eq_true h, if_pos rfl, Nat.cast_natAbs, abs_of_neg h]; push_cast; ring
    · rw [decide_eq_false h, if_neg Bool.false_ne_true, Nat.cast_natAbs, abs_of_nonneg (not_lt.1 h)]
  rw [FVal.rat_fin, ← hm]; rfl

theorem EFmt.roundsRat_roundDy {x : Dy} (h : x.m ≠ 0) : f.roundsRat c x.rat (f.roundDy c x) := by
  rw [Dy.rat_eq_fin]
  exact f.roundsRat_round c (Int.natAbs_ne_zero.2 h)

theorem EFmt.roundsRat_zero (r : FRes) : f.roundsRat c 0 r := fun h => absurd rfl h

/-! ## Sums, products and conversions -/

/-- A sum of finite values is their exact sum rounded, or a zero. -/
theorem EFmt.sum_fin (na nb : Bool) (ma mb : Nat) (ea eb : Int) : f.sum c (.fin na ma ea) (.fin nb mb eb) =
    if ((FVal.fin na ma ea).dy.add (FVal.fin nb mb eb).dy).m = 0 then
      f.zero (zeroSign c.rm (decide (ma = 0 ∧ mb = 0)) na nb)
    else f.roundDy c ((FVal.fin na ma ea).dy.add (FVal.fin nb mb eb).dy) := rfl

theorem EFmt.roundsRat_sum {x y : FVal} (hx : ∃ n m e, x = .fin n m e) (hy : ∃ n m e, y = .fin n m e) :
    f.roundsRat c (x.rat + y.rat) (f.sum c x y) := by
  obtain ⟨na, ma, ea, rfl⟩ := hx
  obtain ⟨nb, mb, eb, rfl⟩ := hy
  rw [EFmt.sum_fin, ← FVal.rat_dy, ← FVal.rat_dy, ← Dy.rat_add]
  split
  · next h => rw [(Dy.rat_eq_zero_iff _).2 h]; exact f.roundsRat_zero c _
  · next h => exact f.roundsRat_roundDy c h

/-- An exact zero sum has the sign of both addends where both are zeros of one sign, else that of the mode (R125). -/
theorem EFmt.sum_eq_zero {x y : FVal} (hx : ∃ n m e, x = .fin n m e) (hy : ∃ n m e, y = .fin n m e)
    (h : x.rat + y.rat = 0) : f.sum c x y =
      ⟨f.signBit (if x.isZero && y.isZero && x.neg == y.neg then x.neg else decide (c.rm = .rdn)), 0⟩ := by
  obtain ⟨na, ma, ea, rfl⟩ := hx
  obtain ⟨nb, mb, eb, rfl⟩ := hy
  rw [← FVal.rat_dy, ← FVal.rat_dy, ← Dy.rat_add, Dy.rat_eq_zero_iff] at h
  rw [EFmt.sum_fin, if_pos h]
  simp [EFmt.zero, zeroSign, Bool.decide_and]

theorem EFmt.ofVal_fin (n : Bool) (m : Nat) (e : Int) :
    f.ofVal c (.fin n m e) = if m = 0 then f.zero n else f.round c n m e false := rfl

theorem EFmt.roundsRat_ofVal {x : FVal} (hx : ∃ n m e, x = .fin n m e) : f.roundsRat c x.rat (f.ofVal c x) := by
  obtain ⟨n, m, e, rfl⟩ := hx
  rw [EFmt.ofVal_fin]
  split
  · next h => rw [(FVal.rat_fin_eq_zero_iff n m e).2 h]; exact f.roundsRat_zero c _
  · next h => exact f.roundsRat_round c h

theorem EFmt.ofVal_isZero {x : FVal} (h : x.isZero = true) : f.ofVal c x = ⟨f.signBit x.neg, 0⟩ := by
  cases x with
  | nan s => cases h
  | inf n => cases h
  | fin n m e =>
    rw [FVal.isZero_fin, decide_eq_true_eq] at h
    rw [EFmt.ofVal_fin, if_pos h]; rfl

theorem EFmt.roundsRat_ofInt (i : Int) : f.roundsRat c i (f.ofInt c i) := by
  unfold EFmt.ofInt
  split
  · next h => rw [h, Int.cast_zero]; exact f.roundsRat_zero c _
  · next h =>
    have hi : (⟨i, 0⟩ : Dy).rat = i := by simp [Dy.rat]
    rw [← hi]
    exact f.roundsRat_roundDy c (x := ⟨i, 0⟩) h

/-! ## Quotients and roots -/

/-- A magnitude that a format's encoding stands for has no more than the format's precision. -/
theorem EFmt.source_lt {a : Nat} {n : Bool} {m : Nat} {e : Int} (h : f.source c a = .fin n m e) :
    m < 2 ^ (f.fbits + 1) := by
  have hfrac (b : Nat) : f.fracField b < 2 ^ f.fbits := Nat.mod_lt _ (Nat.two_pow_pos _)
  have hpow : 2 ^ (f.fbits + 1) = 2 ^ f.fbits + 2 ^ f.fbits := by rw [pow_succ]; ring
  unfold EFmt.source EFmt.value at h
  have := hfrac (f.dazBits c.daz a)
  split at h
  · cases h
  · split at h
    · cases h
    · split at h <;> (cases h; omega)

theorem EFmt.fbits_le : f.fbits ≤ 52 := by cases f <;> decide

/-- A quotient to 128 bits more than its operands, and whether a remainder is left. -/
theorem standsFor_quotient (num : Nat) {p : Nat} (hp : p ≠ 0) :
    standsFor (num / p) (decide (num % p ≠ 0)) ((num : ℝ) / p) := by
  have hpos : (0 : ℝ) < p := by exact_mod_cast Nat.pos_of_ne_zero hp
  have hsplit : (num : ℝ) = (num / p : ℕ) * p + (num % p : ℕ) := by exact_mod_cast (Nat.div_add_mod' num p).symm
  have hlt : ((num % p : ℕ) : ℝ) + 1 ≤ p := by exact_mod_cast Nat.mod_lt num (Nat.pos_of_ne_zero hp)
  unfold standsFor
  split
  · next h =>
    have hr : (0 : ℝ) < (num % p : ℕ) := by exact_mod_cast Nat.pos_of_ne_zero (by simpa using h)
    rw [lt_div_iff₀ hpos, div_lt_iff₀ hpos, add_mul]
    constructor <;> linarith
  · next h =>
    have hr : num % p = 0 := by simpa using h
    rw [div_eq_iff hpos.ne', hsplit, hr]; simp

/-- The quotient of nonzero finite values is rounded once (R125). -/
theorem EFmt.roundsRat_div {a b : Nat} {n k : Bool} {m p : Nat} {e g : Int} (hx : f.source c a = .fin n m e)
    (hy : f.source c b = .fin k p g) (hp : p ≠ 0) :
    f.roundsRat c ((FVal.fin n m e).rat / (FVal.fin k p g).rat) (f.divR c a b) := by
  intro hne
  have hm : m ≠ 0 := by
    rintro rfl
    exact hne (by simp)
  have hdiv : f.divR c a b =
      f.round c (n != k) (m * 2 ^ 128 / p) (e - g - 128) (decide (m * 2 ^ 128 % p ≠ 0)) := by
    unfold EFmt.divR
    rw [hx, hy]
    simp only [hp, hm, if_false]
  have hneg : decide ((FVal.fin n m e).rat / (FVal.fin k p g).rat < 0) = (n != k) := by
    have hpm : (0 : ℚ) < m * 2 ^ e := by positivity
    have hpp : (0 : ℚ) < p * 2 ^ g := by positivity
    have hdn : ¬ (m * 2 ^ e / (p * 2 ^ g) : ℚ) < 0 := not_lt.2 (by positivity)
    cases n <;> cases k <;> simp [neg_div, div_neg, hdn] <;> positivity
  have hbig : 2 ^ (f.fbits + 1) ≤ m * 2 ^ 128 / p := by
    have hp53 : p ≤ 2 ^ 53 := (f.source_lt c hy).le.trans (Nat.pow_le_pow_right two_pos (by have := f.fbits_le; omega))
    have hf53 : 2 ^ (f.fbits + 1) ≤ 2 ^ 53 := Nat.pow_le_pow_right two_pos (by have := f.fbits_le; omega)
    rw [Nat.le_div_iff_mul_le (Nat.pos_of_ne_zero hp)]
    calc 2 ^ (f.fbits + 1) * p ≤ 2 ^ 53 * 2 ^ 53 := Nat.mul_le_mul hf53 hp53
      _ ≤ 1 * 2 ^ 128 := by norm_num
      _ ≤ m * 2 ^ 128 := Nat.mul_le_mul_right _ (Nat.pos_of_ne_zero hm)
  have hne0 : m * 2 ^ 128 / p ≠ 0 := (lt_of_lt_of_le (Nat.two_pow_pos _) hbig).ne'
  rw [hneg, hdiv]
  refine f.rounds_round c hne0 (fun _ => (Nat.le_log2 hne0).2 hbig) (standsFor_quotient _ hp) (comparesWith_abs ?_)
  have h128 : (2 : ℝ) ^ (128 : ℤ) = ((2 ^ 128 : ℕ) : ℝ) := by norm_cast
  rw [abs_div, FVal.abs_rat_fin, FVal.abs_rat_fin, Nat.cast_mul m, ← h128, sub_sub, zpow_sub₀ two_ne_zero,
    zpow_add₀ two_ne_zero]
  push_cast
  field_simp

/-- The digits of `isqrtFrom` below `2 ^ n` are those of the root. -/
theorem isqrtFrom_spec (v n : Nat) {r : Nat} (hr : r * r ≤ v) (hv : v < (r + 2 ^ n) * (r + 2 ^ n)) :
    isqrtFrom v n r * isqrtFrom v n r ≤ v ∧ v < (isqrtFrom v n r + 1) * (isqrtFrom v n r + 1) := by
  induction n generalizing r with
  | zero => exact ⟨hr, by simpa [isqrtFrom] using hv⟩
  | succ n ih =>
    unfold isqrtFrom
    dsimp only
    split
    · next h => exact ih h (by rwa [add_assoc, ← two_mul, ← pow_succ'])
    · next h => exact ih hr (not_le.1 h)

theorem isqrt_spec (v : Nat) : isqrt v * isqrt v ≤ v ∧ v < (isqrt v + 1) * (isqrt v + 1) := by
  refine isqrtFrom_spec v _ (Nat.zero_le _) ?_
  rw [zero_add, ← pow_add]
  exact (lt_two_pow_bitLength v).trans_le (Nat.pow_le_pow_right two_pos (by omega))

/-- The integer root and whether it is exact. -/
theorem standsFor_isqrt (v : Nat) : standsFor (isqrt v) (decide (isqrt v * isqrt v ≠ v)) (Real.sqrt v) := by
  obtain ⟨hle, hlt⟩ := isqrt_spec v
  unfold standsFor
  split
  · next h =>
    have hstrict : isqrt v * isqrt v < v := lt_of_le_of_ne hle (by simpa using h)
    constructor
    · rw [Real.lt_sqrt (Nat.cast_nonneg _), sq]; exact_mod_cast hstrict
    · rw [Real.sqrt_lt' (by positivity), sq]; exact_mod_cast hlt
  · next h =>
    have heq : isqrt v * isqrt v = v := by simpa using h
    conv_lhs => rw [← heq]
    push_cast
    exact Real.sqrt_mul_self (Nat.cast_nonneg _)

/-- The square of a number compares with a number as the number does with the root. -/
theorem comparesWith_sqrt {x : ℚ} {y : ℝ} (hx : 0 < x) (h : Real.sqrt x = y) :
    comparesWith (fun q => compare (q * q) x) y := by
  intro q hq
  have hq' : (0 : ℝ) ≤ q := by exact_mod_cast hq
  have hx' : (0 : ℝ) < x := by exact_mod_cast hx
  subst h
  dsimp only
  rw [← compare_ratCast]
  push_cast
  rw [← sq]
  rcases lt_trichotomy (q : ℝ) (Real.sqrt x) with hlt | heq | hgt
  · rw [compare_lt_iff_lt.2 hlt, compare_lt_iff_lt]; exact (Real.lt_sqrt hq').1 hlt
  · rw [compare_eq_iff_eq.2 heq, compare_eq_iff_eq, heq]; exact Real.sq_sqrt hx'.le
  · rw [compare_gt_iff_gt.2 hgt, compare_gt_iff_gt]; exact (Real.sqrt_lt' (hgt.trans_le' (Real.sqrt_nonneg _))).1 hgt

/-- The root of a positive finite value is rounded once (R125). -/
theorem EFmt.rounds_sqrt {a : Nat} {m : Nat} {e : Int} (hx : f.source c a = .fin false m e) (hm : m ≠ 0) :
    f.rounds c false (fun q => compare (q * q) (FVal.fin false m e).rat) (f.sqrtR c a) := by
  have hpos : (0 : ℚ) < (FVal.fin false m e).rat := by
    have : (0 : ℚ) < m * 2 ^ e := by positivity
    simpa using this
  obtain ⟨m1, e1, hm1, he1, heq, hres⟩ : ∃ (m1 : Nat) (e1 : Int), m1 ≠ 0 ∧ e1 % 2 = 0 ∧
      (m : ℝ) * 2 ^ e = m1 * 2 ^ e1 ∧ f.sqrtR c a = f.round c false (isqrt (m1 * 2 ^ 128)) (e1 / 2 - 64)
        (decide (isqrt (m1 * 2 ^ 128) * isqrt (m1 * 2 ^ 128) ≠ m1 * 2 ^ 128)) := by
    by_cases he : e % 2 = 0
    · refine ⟨m, e, hm, he, rfl, ?_⟩
      unfold EFmt.sqrtR; rw [hx]; simp [hm, he]
    · refine ⟨2 * m, e - 1, by omega, by omega, ?_, ?_⟩
      · rw [zpow_sub_one₀ two_ne_zero]; push_cast; field_simp
      · unfold EFmt.sqrtR; rw [hx]; simp [hm, he]
  have hbig : 2 ^ (f.fbits + 1) ≤ isqrt (m1 * 2 ^ 128) := by
    have hf : 2 ^ (f.fbits + 1) ≤ 2 ^ 64 := Nat.pow_le_pow_right two_pos (by have := f.fbits_le; omega)
    refine hf.trans (Nat.lt_succ_iff.1 (lt_of_mul_self_lt_mul_self₀ (Nat.zero_le _) (lt_of_le_of_lt ?_ (isqrt_spec _).2)))
    rw [← pow_add]
    exact Nat.le_mul_of_pos_left _ (Nat.pos_of_ne_zero hm1)
  have hne0 : isqrt (m1 * 2 ^ 128) ≠ 0 := (lt_of_lt_of_le (Nat.two_pow_pos _) hbig).ne'
  rw [hres]
  refine f.rounds_round c hne0 (fun _ => (Nat.le_log2 hne0).2 hbig) (standsFor_isqrt _) (comparesWith_sqrt hpos ?_)
  obtain ⟨k, rfl⟩ : ∃ k, e1 = 2 * k := ⟨e1 / 2, by omega⟩
  have hsq : ((FVal.fin false m e).rat : ℝ) = (m1 * 2 ^ 128 : ℕ) * ((2 : ℝ) ^ (2 * k / 2 - 64)) ^ 2 := by
    rw [Int.mul_ediv_cancel_left _ two_ne_zero, ← zpow_natCast ((2 : ℝ) ^ (k - 64)), ← zpow_mul]
    simp only [FVal.rat_fin, Bool.false_eq_true, if_false]
    have h128 : ((2 ^ 128 : ℕ) : ℝ) = 2 ^ (128 : ℤ) := by norm_cast
    rw [Nat.cast_mul m1, h128, mul_assoc, ← zpow_add₀ two_ne_zero]
    push_cast
    rw [heq]
    congr 2; ring
  rw [hsq, Real.sqrt_mul (Nat.cast_nonneg _), Real.sqrt_sq (by positivity)]

end

end Sys2Proof.Machine

/-! PROOFS. Operands and results of the formats: zeros, infinities and NaNs, and with the rounding of finite results the
whole of the scalar arithmetic (R46 to R48, R50, R51, R53, R61, R125, R126, R130). -/

namespace Sys2Proof.Machine

/-! ## NaNs and infinities of sums and products -/

/-- An infinity of either sign. -/
def FVal.isInf (v : FVal) : Bool := decide (v = .inf true ∨ v = .inf false)

/-- A product 0 × ∞ (R125). -/
def badProduct (x y : FVal) : Bool := (x.isZero && y.isInf) || (x.isInf && y.isZero)

@[simp] theorem FVal.isNan_negate (v : FVal) : v.negate.isNan = v.isNan := by cases v <;> rfl

@[simp] theorem FVal.signalling_negate (v : FVal) : v.negate.signalling = v.signalling := by cases v <;> rfl

@[simp] theorem FVal.isInf_inf (n : Bool) : (FVal.inf n).isInf = true := by cases n <;> rfl

@[simp] theorem FVal.isInf_fin (n : Bool) (m : Nat) (e : Int) : (FVal.fin n m e).isInf = false := rfl

@[simp] theorem FVal.isInf_nan (s : Bool) : (FVal.nan s).isInf = false := rfl

/-- A value negated where a control says so. -/
def FVal.negateIf (p : Bool) (v : FVal) : FVal := if p then v.negate else v

theorem FVal.rat_negateIf (p : Bool) (v : FVal) : (v.negateIf p).rat = if p then -v.rat else v.rat := by
  cases p
  · rfl
  · exact v.rat_negate

theorem FVal.negateIf_fin (p n : Bool) (m : Nat) (e : Int) : (FVal.fin n m e).negateIf p = .fin (n != p) m e := by
  cases p <;> simp [FVal.negateIf, FVal.negate]

theorem FVal.negateIf_inf (p n : Bool) : (FVal.inf n).negateIf p = .inf (n != p) := by
  cases p <;> simp [FVal.negateIf, FVal.negate]

@[simp] theorem FVal.isNan_negateIf (p : Bool) (v : FVal) : (v.negateIf p).isNan = v.isNan := by
  cases p <;> simp [FVal.negateIf]

@[simp] theorem FVal.signalling_negateIf (p : Bool) (v : FVal) : (v.negateIf p).signalling = v.signalling := by
  cases p <;> simp [FVal.negateIf]

/-- A product is a NaN for a NaN operand, signalling for a signalling one, and for 0 × ∞ (R125). -/
theorem isNan_signalling_mulVal (x y : FVal) :
    (mulVal x y).isNan = (x.isNan || y.isNan || badProduct x y) ∧
      (mulVal x y).signalling = (x.signalling || y.signalling || badProduct x y) := by
  unfold mulVal badProduct
  cases x with
  | nan s => cases y <;> simp [FVal.isNan, FVal.signalling, FVal.isZero]
  | inf n =>
    cases y with
    | nan s => simp [FVal.isNan, FVal.signalling, FVal.isZero]
    | inf k => simp [FVal.isNan, FVal.signalling, FVal.isZero]
    | fin k m e => by_cases hm : m = 0 <;> simp [FVal.isNan, FVal.signalling, FVal.isZero_fin, hm]
  | fin n m e =>
    cases y with
    | nan s => simp [FVal.isNan, FVal.signalling]
    | inf k => by_cases hm : m = 0 <;> simp [FVal.isNan, FVal.signalling, FVal.isZero_fin, hm]
    | fin k p g => simp [FVal.isNan, FVal.signalling]

theorem isNan_mulVal (x y : FVal) : (mulVal x y).isNan = (x.isNan || y.isNan || badProduct x y) :=
  (isNan_signalling_mulVal x y).1

theorem signalling_mulVal (x y : FVal) :
    (mulVal x y).signalling = (x.signalling || y.signalling || badProduct x y) :=
  (isNan_signalling_mulVal x y).2

section
variable (f : EFmt) (c : FpCtl) {x y : FVal}

theorem EFmt.sum_nan (h : (x.isNan || y.isNan) = true) : f.sum c x y = f.nan (x.signalling || y.signalling) := by
  cases x <;> cases y <;> simp [FVal.isNan] at h <;> simp [EFmt.sum, FVal.signalling]

theorem EFmt.sum_inf_fin {n : Bool} (hy : ∃ k m e, y = .fin k m e) : f.sum c (.inf n) y = f.infinity n := by
  obtain ⟨k, m, e, rfl⟩ := hy; rfl

/-- Two infinities add to a NaN that the operation generates where their signs differ (R125). -/
theorem EFmt.sum_inf_inf (a b : Bool) (h : a ≠ b) : f.sum c (.inf a) (.inf b) = f.nan true := if_neg h

theorem EFmt.ofVal_mulVal_nan (h : (mulVal x y).isNan = true) :
    f.ofVal c (mulVal x y) = f.nan (mulVal x y).signalling := by
  cases hm : mulVal x y <;> simp [hm, FVal.isNan] at h
  rfl

end

/-- Only a format with infinities has an encoding of one (R37, R38). -/
theorem EFmt.ieee_of_source_inf {f : EFmt} {c : FpCtl} {a : Nat} {n : Bool} (h : f.source c a = .inf n) :
    f.ieee = true := by
  unfold EFmt.source EFmt.value at h
  split at h
  · cases h
  · split at h
    · next hi => exact (Bool.and_eq_true _ _ ▸ hi : f.ieee = true ∧ _).1
    · split at h <;> cases h

theorem fmtE_ieee (fmt : Fmt) : (fmtE fmt).ieee = true := by cases fmt <;> rfl

/-! ## Arithmetic on encodings -/

section
variable (f : EFmt) (c : FpCtl) (a b d : Nat)

theorem EFmt.addR_eq : f.addR c a b = f.sum c (f.source c a) (f.source c b) := rfl

theorem EFmt.subR_eq : f.subR c a b = f.sum c (f.source c a) (f.source c b).negate := rfl

theorem EFmt.mulR_eq : f.mulR c a b = f.ofVal c (mulVal (f.source c a) (f.source c b)) := rfl

theorem EFmt.fmaR_eq (np nd : Bool) : f.fmaR c np nd a b d =
    f.sum c ((mulVal (f.source c a) (f.source c b)).negateIf np) ((f.source c d).negateIf nd) := rfl

end

section
variable {f : EFmt} {c : FpCtl} {a b d : Nat}

/-- `f.source c a` is finite. -/
def EFmt.finiteSource (f : EFmt) (c : FpCtl) (a : Nat) : Prop := ∃ n m e, f.source c a = .fin n m e

theorem EFmt.roundsRat_subR (hx : f.finiteSource c a) (hy : f.finiteSource c b) :
    f.roundsRat c ((f.source c a).rat - (f.source c b).rat) (f.subR c a b) := by
  obtain ⟨n, m, e, h⟩ := hy
  rw [sub_eq_add_neg, ← FVal.rat_negate]
  exact f.roundsRat_sum c hx ⟨!n, m, e, by rw [h]; rfl⟩

theorem EFmt.roundsRat_mulR (hx : f.finiteSource c a) (hy : f.finiteSource c b) :
    f.roundsRat c ((f.source c a).rat * (f.source c b).rat) (f.mulR c a b) := by
  obtain ⟨n, m, e, hx⟩ := hx
  obtain ⟨k, p, g, hy⟩ := hy
  rw [EFmt.mulR_eq, hx, hy, ← rat_mulVal_fin]
  exact f.roundsRat_ofVal c ⟨_, _, _, mulVal_fin ..⟩

theorem EFmt.mulR_zero (hx : f.finiteSource c a) (hy : f.finiteSource c b)
    (h : (f.source c a).rat * (f.source c b).rat = 0) :
    f.mulR c a b = ⟨f.signBit ((f.source c a).neg != (f.source c b).neg), 0⟩ := by
  obtain ⟨n, m, e, hx⟩ := hx
  obtain ⟨k, p, g, hy⟩ := hy
  rw [hx, hy, ← rat_mulVal_fin, mulVal_fin, FVal.rat_fin_eq_zero_iff] at h
  rw [EFmt.mulR_eq, hx, hy]
  exact f.ofVal_isZero c (by rw [mulVal_fin, FVal.isZero_fin, h, decide_eq_true rfl])

theorem EFmt.divR_zero (hx : (f.source c a).isZero = true) (hy : f.finiteSource c b)
    (hy0 : (f.source c b).isZero = false) :
    f.divR c a b = ⟨f.signBit ((f.source c a).neg != (f.source c b).neg), 0⟩ := by
  obtain ⟨k, p, g, hy⟩ := hy
  cases hxa : f.source c a with
  | nan s => rw [hxa] at hx; cases hx
  | inf n => rw [hxa] at hx; cases hx
  | fin n m e =>
    rw [hxa, FVal.isZero_fin, decide_eq_true_eq] at hx
    rw [hy, FVal.isZero_fin, decide_eq_false_iff_not] at hy0
    unfold EFmt.divR
    rw [hxa, hy]
    simp [hx, hy0, EFmt.zero]

theorem EFmt.roundsRat_divR (hx : f.finiteSource c a) (hy : f.finiteSource c b)
    (hy0 : (f.source c b).isZero = false) :
    f.roundsRat c ((f.source c a).rat / (f.source c b).rat) (f.divR c a b) := by
  obtain ⟨n, m, e, hx⟩ := hx
  obtain ⟨k, p, g, hy⟩ := hy
  rw [hy, FVal.isZero_fin, decide_eq_false_iff_not] at hy0
  rw [hx, hy]
  exact f.roundsRat_div c hx hy hy0

theorem EFmt.rounds_sqrtR (hx : f.finiteSource c a) (hpos : 0 < (f.source c a).rat) :
    f.rounds c false (fun q => compare (q * q) (f.source c a).rat) (f.sqrtR c a) := by
  obtain ⟨n, m, e, hx⟩ := hx
  rw [hx] at hpos ⊢
  have hm : m ≠ 0 := fun h => hpos.ne' ((FVal.rat_fin_eq_zero_iff n m e).2 h)
  have hn : n = false := Bool.eq_false_of_not_eq_true fun h => hpos.not_gt ((FVal.rat_fin_lt_zero e hm).2 h)
  subst hn
  exact f.rounds_sqrt c hx hm

/-- The fused product of finite values is their exact sum of product and addend, rounded once (R125). -/
theorem EFmt.roundsRat_fmaR (hx : f.finiteSource c a) (hy : f.finiteSource c b) (hz : f.finiteSource c d)
    (np nd : Bool) :
    let s := (if np then -((f.source c a).rat * (f.source c b).rat) else (f.source c a).rat * (f.source c b).rat) +
      (if nd then -(f.source c d).rat else (f.source c d).rat)
    f.roundsRat c s (f.fmaR c np nd a b d) ∧
      (s = 0 → f.fmaR c np nd a b d = ⟨f.signBit
        (if ((f.source c a).isZero || (f.source c b).isZero) && (f.source c d).isZero &&
            (((f.source c a).neg != (f.source c b).neg) != np) == ((f.source c d).neg != nd)
          then ((f.source c a).neg != (f.source c b).neg) != np else decide (c.rm = .rdn)), 0⟩) := by
  obtain ⟨n, m, e, hx⟩ := hx
  obtain ⟨k, p, g, hy⟩ := hy
  obtain ⟨l, q, h, hz⟩ := hz
  rw [EFmt.fmaR_eq, hx, hy, hz, ← rat_mulVal_fin, ← FVal.rat_negateIf, ← FVal.rat_negateIf, mulVal_fin,
    FVal.negateIf_fin, FVal.negateIf_fin]
  intro s
  refine ⟨f.roundsRat_sum c ⟨_, _, _, rfl⟩ ⟨_, _, _, rfl⟩, fun h0 => ?_⟩
  rw [f.sum_eq_zero c ⟨_, _, _, rfl⟩ ⟨_, _, _, rfl⟩ h0]
  simp only [FVal.isZero_fin, FVal.neg_fin, Nat.mul_eq_zero, Bool.decide_or]

/-- One infinite operand gives an infinity or, as divisor, a zero (R125). -/
theorem EFmt.inf_operand {n : Bool} (hx : f.source c a = .inf n) (hy : f.finiteSource c b) :
    f.addR c a b = ⟨f.signBit n + f.infBits, 0⟩ ∧ f.subR c a b = ⟨f.signBit n + f.infBits, 0⟩ ∧
    f.divR c a b = ⟨f.signBit (n != (f.source c b).neg) + f.infBits, 0⟩ ∧
    f.divR c b a = ⟨f.signBit (n != (f.source c b).neg), 0⟩ ∧
    ((f.source c b).isZero = false → f.mulR c a b = ⟨f.signBit (n != (f.source c b).neg) + f.infBits, 0⟩) := by
  obtain ⟨k, p, g, hy⟩ := hy
  refine ⟨?_, ?_, ?_, ?_, fun h0 => ?_⟩
  · rw [EFmt.addR_eq, hx, hy]; rfl
  · rw [EFmt.subR_eq, hx, hy]; rfl
  · unfold EFmt.divR; rw [hx, hy]; rfl
  · unfold EFmt.divR; rw [hx, hy]; simp [EFmt.zero, bne_comm]
  · rw [hy, FVal.isZero_fin, decide_eq_false_iff_not] at h0
    rw [EFmt.mulR_eq, hx, hy]
    simp [mulVal, h0, EFmt.ofVal, EFmt.ieee_of_source_inf hx, EFmt.infinity]

/-! ## Special operands -/

/-- A NaN operand of a fused product, or a product 0 × ∞ (R125). -/
theorem EFmt.fmaR_nan (np nd : Bool)
    (h : ((f.source c a).isNan || (f.source c b).isNan || (f.source c d).isNan ||
      badProduct (f.source c a) (f.source c b)) = true) :
    f.fmaR c np nd a b d = f.nan ((f.source c a).signalling || (f.source c b).signalling ||
      (f.source c d).signalling || badProduct (f.source c a) (f.source c b)) := by
  rw [EFmt.fmaR_eq, f.sum_nan c]
  · rw [FVal.signalling_negateIf, FVal.signalling_negateIf, signalling_mulVal, Bool.or_right_comm]
  · rw [FVal.isNan_negateIf, FVal.isNan_negateIf, isNan_mulVal, Bool.or_right_comm]; exact h

/-- An infinite product is an infinity of the product of the signs. -/
theorem mulVal_inf {x y : FVal} (hinf : (x.isInf || y.isInf) = true) (hx : x.isNan = false) (hy : y.isNan = false)
    (hbad : badProduct x y = false) : mulVal x y = .inf (x.neg != y.neg) := by
  unfold badProduct at hbad
  cases x <;> cases y <;> simp_all [FVal.isNan, mulVal, FVal.neg]

theorem EFmt.fmaR_inf {n m np nd : Bool} (hinf : ((f.source c a).isInf || (f.source c b).isInf) = true)
    (hx : (f.source c a).isNan = false) (hy : (f.source c b).isNan = false)
    (hbad : badProduct (f.source c a) (f.source c b) = false) (hz : f.source c d = .inf m)
    (hn : n = ((f.source c a).neg ^^ (f.source c b).neg ^^ np)) (hne : n ≠ (m ^^ nd)) :
    f.fmaR c np nd a b d = f.nan true := by
  rw [EFmt.fmaR_eq, mulVal_inf hinf hx hy hbad, hz, FVal.negateIf_inf, FVal.negateIf_inf]
  refine f.sum_inf_inf c _ _ ?_
  rw [hn] at hne
  simpa [Bool.xor_assoc] using hne

theorem EFmt.divR_nan (h : ((f.source c a).isNan || (f.source c b).isNan) = true) :
    f.divR c a b = f.nan ((f.source c a).signalling || (f.source c b).signalling) := by
  unfold EFmt.divR
  cases hx : f.source c a <;> cases hy : f.source c b <;> simp [hx, hy, FVal.isNan] at h <;>
    simp [FVal.signalling]

theorem EFmt.mulR_nan (h : ((f.source c a).isNan || (f.source c b).isNan) = true) :
    f.mulR c a b = f.nan ((f.source c a).signalling || (f.source c b).signalling) := by
  have hbad : badProduct (f.source c a) (f.source c b) = false := by
    unfold badProduct
    cases hx : f.source c a <;> cases hy : f.source c b <;> simp [hx, hy, FVal.isNan] at h <;> simp [FVal.isZero]
  rw [EFmt.mulR_eq, f.ofVal_mulVal_nan c (by rw [isNan_mulVal, h, Bool.true_or]), signalling_mulVal, hbad, Bool.or_false]

theorem EFmt.mulR_bad (h : badProduct (f.source c a) (f.source c b) = true) : f.mulR c a b = f.nan true := by
  rw [EFmt.mulR_eq, f.ofVal_mulVal_nan c (by rw [isNan_mulVal, h, Bool.or_true]), signalling_mulVal, h, Bool.or_true]

theorem FVal.eq_fin_of_isZero {v : FVal} (h : v.isZero = true) : ∃ e, v = .fin v.neg 0 e := by
  cases v with
  | nan s => cases h
  | inf n => cases h
  | fin n m e =>
    rw [FVal.isZero_fin, decide_eq_true_eq] at h
    exact ⟨e, by rw [h]; rfl⟩

/-- A quotient by a zero: 0 / 0 is a NaN, and a nonzero number an infinity with DZ (R125). -/
theorem EFmt.divR_by_zero {n : Bool} {m : Nat} {e : Int} (hx : f.source c a = .fin n m e)
    (hy : (f.source c b).isZero = true) : f.divR c a b =
      if m = 0 then f.nan true else ⟨f.signBit (n != (f.source c b).neg) + f.infBits, 8⟩ := by
  obtain ⟨g, hy⟩ := FVal.eq_fin_of_isZero hy
  unfold EFmt.divR
  rw [hx, hy]
  simp only [if_true, FVal.neg_fin]
  split <;> rfl

/-- Minimum and maximum return the operand that is no NaN (R126). -/
theorem EFmt.minmaxR_nan (mx : Bool) :
    ((f.source c a).isNan = true → (f.source c b).isNan = false →
      f.minmaxR c mx a b = ⟨f.dazBits c.daz b, if (f.source c a).signalling then 16 else 0⟩) ∧
    ((f.source c a).isNan = false → (f.source c b).isNan = true →
      f.minmaxR c mx a b = ⟨f.dazBits c.daz a, if (f.source c b).signalling then 16 else 0⟩) ∧
    ((f.source c a).isNan = true → (f.source c b).isNan = true →
      f.minmaxR c mx a b = f.nan ((f.source c a).signalling || (f.source c b).signalling)) := by
  have hquiet {v : FVal} (h : v.isNan = false) : v.signalling = false := by cases v <;> simp_all [FVal.isNan, FVal.signalling]
  unfold EFmt.minmaxR EFmt.source
  refine ⟨fun hx hy => ?_, fun hx hy => ?_, fun hx hy => ?_⟩
  · simp [hx, hy, hquiet hy, flagIf, flagNV]
  · simp [hx, hy, hquiet hx, flagIf, flagNV]
  · simp [hx, hy, EFmt.nan]

end

/-- Settles O17: a finite result is the exact number rounded once (`EFmt.rounds_round`), and each special operand has its
own equation. -/
theorem fpOperandResults : Obligations.FpOperandResults := by
  unfold Obligations.FpOperandResults
  refine ⟨fun f g c a b d i => ?_, fun fmt c a b d => ?_⟩
  · refine ⟨fun hx hy => ⟨f.roundsRat_sum c hx hy, EFmt.roundsRat_subR hx hy, EFmt.roundsRat_mulR hx hy,
        fun h0 => EFmt.roundsRat_divR hx hy h0, f.sum_eq_zero c hx hy, EFmt.mulR_zero hx hy,
        fun h0 => EFmt.divR_zero h0 hy⟩, EFmt.rounds_sqrtR, fun hx hy hz np nd => EFmt.roundsRat_fmaR hx hy hz np nd,
      fun hx => ⟨g.roundsRat_ofVal c hx, g.ofVal_isZero c⟩, fun n hx hi => ?_, fun q hx => ?_, g.roundsRat_ofInt c i,
      fun h0 => if_pos h0, fun n => EFmt.inf_operand⟩
    · rw [hx]; exact if_pos hi
    · rw [hx]; rfl
  · have hieee := fmtE_ieee fmt
    generalize fmtE fmt = f at hieee
    refine ⟨fun h => ⟨f.sum_nan c h, ?_, EFmt.mulR_nan h, EFmt.divR_nan h⟩, fun q hx => ?_,
      fun h np nd => EFmt.fmaR_nan np nd h, fun n m np nd hinf hx hy hbad hz hn hne =>
        EFmt.fmaR_inf hinf hx hy hbad hz hn hne, fun n hx hy => ?_, fun n hx hy => ?_, fun n m hx hy => ?_,
      EFmt.mulR_bad, fun hx hy => ?_, fun n m e hm hx hy => ?_, fun m e hm hx => ?_, fun hx => ?_, fun hx => ?_,
      fun hx => ?_, EFmt.minmaxR_nan⟩
    · rw [EFmt.subR_eq, f.sum_nan c (by simpa using h), FVal.signalling_negate]; rfl
    · unfold EFmt.sqrtR EFmt.rcpR EFmt.rsqR; rw [hx]; exact ⟨rfl, rfl, rfl⟩
    · rw [EFmt.addR_eq, hx, hy]; exact f.sum_inf_inf c _ _ (by cases n <;> decide)
    · rw [EFmt.subR_eq, hx, hy]; exact f.sum_inf_inf c _ _ (by cases n <;> decide)
    · unfold EFmt.divR; rw [hx, hy]; rfl
    · obtain ⟨e, he⟩ := FVal.eq_fin_of_isZero hx
      rw [EFmt.divR_by_zero he hy, if_pos rfl]; rfl
    · rw [EFmt.divR_by_zero hx hy, if_neg hm]
    · unfold EFmt.sqrtR EFmt.rsqR; rw [hx]; simp [hm, EFmt.nan, flagIf, flagNV]
    · unfold EFmt.sqrtR EFmt.rsqR EFmt.rcpR; rw [hx]; exact ⟨rfl, rfl, rfl⟩
    · unfold EFmt.sqrtR EFmt.rsqR EFmt.rcpR; rw [hx]; simp [EFmt.infinity, EFmt.zero, EFmt.signBit]
    · obtain ⟨e, he⟩ := FVal.eq_fin_of_isZero hx
      unfold EFmt.sqrtR EFmt.rsqR EFmt.rcpR
      rw [he]
      exact ⟨rfl, rfl, rfl⟩

end Sys2Proof.Machine

/-! PROOFS. Comparisons and conversions to and from integers (R46, R53, R124, R128, R130). -/

namespace Sys2Proof.Machine

/-! ## A number rounded to an integer -/

theorem roundsInt_exact (rm : Rm) (i : Int) : roundsInt rm i i := by
  cases rm <;> simp [roundsInt]

/-- The integer of a rounded magnitude and a sign. -/
def signed (neg : Bool) (q : Nat) : Int := if neg then -(q : Int) else q

theorem signed_false (q : Nat) : signed false q = q := rfl

theorem signed_true (q : Nat) : signed true q = -q := rfl

theorem abs_sub_signed (neg : Bool) (z : ℚ) (q : Nat) : |(if neg then -z else z) - signed neg q| = |z - q| := by
  cases neg
  · rfl
  · rw [← abs_neg]; simp [signed, add_comm, sub_eq_add_neg]

theorem abs_signed (neg : Bool) (q : Nat) : |(signed neg q : ℚ)| = q := by cases neg <;> simp [signed]

/-- A number strictly between two integers, with the neighbour its mode takes (R46). -/
theorem roundsInt_between {rm : Rm} {neg : Bool} {x z : ℚ} {k q : Nat} (hx : x = if neg then -z else z) (hk : (k : ℚ) < z)
    (hz : z < k + 1)
    (hup : roundsAbove rm neg (decide (k % 2 = 1)) z k (k + 1) → q = k + 1)
    (hdn : ¬ roundsAbove rm neg (decide (k % 2 = 1)) z k (k + 1) → q = k) : roundsInt rm x (signed neg q) := by
  have hmid : ((k : ℝ) + (k + 1)) / 2 = ((k + 1 / 2 : ℚ) : ℝ) := by push_cast; ring
  rw [roundsAbove_between (by exact_mod_cast hk) (by exact_mod_cast hz) hmid] at hup hdn
  simp only [Rat.cast_lt, Rat.cast_le, Rat.cast_inj, decide_eq_true_eq] at hup hdn
  have hk0 : (0 : ℚ) ≤ k := Nat.cast_nonneg k
  have hfl : ⌊z⌋ = k := Int.floor_eq_iff.2 ⟨hk.le, hz⟩
  have hce : ⌈z⌉ = k + 1 := Int.ceil_eq_iff.2 ⟨by push_cast; linarith, by push_cast; linarith⟩
  have hz0 : 0 < z := hk0.trans_lt hk
  have habs : |x| = z := by subst hx; cases neg <;> simp [abs_of_pos hz0]
  have hdist := abs_sub_signed neg z q
  rw [← hx] at hdist
  cases rm with
  | rtz => subst hx; cases neg <;> simp [roundsInt, signed, hdn id, hfl, hz0, hz0.le, Int.ceil_neg]
  | rdn => subst hx; cases neg <;> simp_all [roundsInt, signed, Int.floor_neg]
  | rup => subst hx; cases neg <;> simp_all [roundsInt, signed, Int.ceil_neg]
  | rne =>
    have hpar : signed neg q % 2 = 0 ↔ q % 2 = 0 := by cases neg <;> simp only [signed] <;> omega
    unfold roundsInt
    rw [hdist, hpar, abs_le]
    rcases lt_trichotomy z (k + 1 / 2) with h | h | h
    · rw [hdn (not_or.2 ⟨h.not_gt, fun h' => h.ne' h'.1⟩)]
      exact ⟨by constructor <;> linarith, fun h' => by rw [abs_of_pos (by linarith)] at h'; linarith⟩
    · rcases Nat.mod_two_eq_zero_or_one k with hk2 | hk2
      · rw [hdn (by simp [h, hk2])]
        exact ⟨by constructor <;> linarith, fun _ => hk2⟩
      · rw [hup (.inr ⟨h.symm, hk2⟩)]
        push_cast
        exact ⟨by constructor <;> linarith, fun _ => by omega⟩
    · rw [hup (.inl h)]
      push_cast
      exact ⟨by constructor <;> linarith, fun h' => by rw [abs_of_neg (by linarith)] at h'; linarith⟩
  | rmm =>
    unfold roundsInt
    rw [hdist, abs_signed, habs, abs_le]
    by_cases h : (k + 1 / 2 : ℚ) ≤ z
    · rw [hup h]
      push_cast
      exact ⟨by constructor <;> linarith, fun _ => hz.le⟩
    · rw [hdn h]
      exact ⟨by constructor <;> linarith, fun h' => by rw [abs_of_pos (by linarith)] at h'; linarith⟩

/-- `roundUnit` at unit 1 rounds a finite value to an integer, and says whether that changed it. -/
theorem roundsInt_roundUnit (rm : Rm) (neg : Bool) (m : Nat) (e : Int) :
    let r := roundUnit rm neg m e 0 false
    roundsInt rm (FVal.fin neg m e).rat (signed neg r.1) ∧
      ((signed neg r.1 : ℚ) = (FVal.fin neg m e).rat ↔ r.2 = false) ∧ (m : ℚ) * 2 ^ e < r.1 + 1 := by
  have hst : standsFor m false (m : ℝ) := rfl
  obtain ⟨k, hk, hz, hix, hup, hdn⟩ := roundsTo_roundUnit rm neg (e := e) (u := 0) hst (by simp)
  generalize roundUnit rm neg m e 0 false = r at *
  obtain ⟨q, ix⟩ := r
  have hcast : (m : ℝ) * 2 ^ e / 2 ^ (0 : ℤ) = ((m * 2 ^ e : ℚ) : ℝ) := by push_cast; simp
  rw [hcast] at hk hz hix hup hdn
  have hx : (FVal.fin neg m e).rat = if neg then -(m * 2 ^ e : ℚ) else m * 2 ^ e := by cases neg <;> simp
  generalize (m : ℚ) * 2 ^ e = z at *
  replace hk : (k : ℚ) ≤ z := by exact_mod_cast hk
  replace hz : z < k + 1 := by exact_mod_cast hz
  replace hix : ix = true ↔ z ≠ k := by rw [hix]; exact_mod_cast Iff.rfl
  dsimp only at hup hdn ⊢
  have hsigned : (signed neg q : ℚ) = (FVal.fin neg m e).rat ↔ (q : ℚ) = z := by
    rw [hx]; cases neg <;> simp [signed]
  rw [hsigned, ← Bool.not_eq_true, hix, not_not]
  rcases hk.eq_or_lt with h | h
  · subst h
    have hq : q = k := hdn (not_roundsAbove_of_le (by simp) (lt_add_one _))
    subst hq
    refine ⟨?_, by simp, by linarith⟩
    have := roundsInt_exact rm (signed neg q)
    rwa [hsigned.2 rfl] at this
  · have hq : q = k + 1 ∨ q = k := (em _).imp hup hdn
    refine ⟨roundsInt_between hx h hz hup hdn, iff_of_false ?_ h.ne', ?_⟩
    · rcases hq with rfl | rfl
      · push_cast; exact hz.ne'
      · exact h.ne
    · rcases hq with rfl | rfl
      · push_cast; linarith
      · exact hz

/-! ## Conversion to an integer -/

/-- Beyond the bits of an integer every magnitude is past the limits. -/
theorem two_pow_le_of_topExp {m q n : Nat} {e : Int} (hm : m ≠ 0) (h : (n : Int) < topExp m e)
    (hq : (m : ℚ) * 2 ^ e < q + 1) : 2 ^ (n + 1) ≤ q := by
  have hlog : (2 : ℚ) ^ Nat.log2 m ≤ m := by exact_mod_cast Nat.log2_self_le hm
  have hpow : (2 : ℚ) ^ (n + 1) ≤ m * 2 ^ e :=
    calc (2 : ℚ) ^ (n + 1) = 2 ^ ((n + 1 : ℕ) : Int) := (zpow_natCast _ _).symm
      _ ≤ 2 ^ (Nat.log2 m + e) := zpow_le_zpow_right₀ (by norm_num) (by unfold topExp at h; omega)
      _ = 2 ^ Nat.log2 m * 2 ^ e := by rw [zpow_add₀ two_ne_zero, zpow_natCast]
      _ ≤ m * 2 ^ e := mul_le_mul_of_nonneg_right hlog (by positivity)
  have : ((2 ^ (n + 1) : ℕ) : ℚ) < q + 1 := by push_cast; exact hpow.trans_lt hq
  exact Nat.lt_succ_iff.1 (by exact_mod_cast this)

theorem toIntR_fin_eq (n : Nat) (rm : Rm) (neg : Bool) (m : Nat) (e : Int) : toIntR n rm (.fin neg m e) =
    if m ≠ 0 ∧ topExp m e > n then (if neg then intMin n else intMax n, flagNV)
    else
      let r := roundUnit rm neg m e 0 false
      let v := saturate n (signed neg r.1)
      (v.1, if v.2 then flagNV else flagIf r.2 flagNX) := rfl

/-- A finite value converts to the integer it rounds to, NX where that changes it, or to the nearest limit with NV
alone (R53, R130). -/
theorem toIntR_fin (n : Nat) (rm : Rm) (neg : Bool) (m : Nat) (e : Int) :
    ∃ i, roundsInt rm (FVal.fin neg m e).rat i ∧ toIntR n rm (.fin neg m e) =
      if i < -2 ^ (n - 1) then (-2 ^ (n - 1), 16) else if 2 ^ (n - 1) ≤ i then (2 ^ (n - 1) - 1, 16)
      else (i, if (i : ℚ) = (FVal.fin neg m e).rat then 0 else 1) := by
  obtain ⟨hround, hexact, hbound⟩ := roundsInt_roundUnit rm neg m e
  refine ⟨_, hround, ?_⟩
  rw [toIntR_fin_eq]
  have hpos : (0 : ℤ) < 2 ^ (n - 1) := by positivity
  split
  · next hbig =>
    have hpow : (2 : ℤ) ^ (n - 1) < 2 ^ (n + 1) := pow_lt_pow_right₀ (by norm_num) (by omega)
    have hq : (2 : ℤ) ^ (n + 1) ≤ (roundUnit rm neg m e 0 false).1 := by
      exact_mod_cast two_pow_le_of_topExp hbig.1 hbig.2 hbound
    cases neg
    · rw [signed_false, if_neg (c := _ < _) (by omega), if_pos (c := _ ≤ _) (by omega)]; rfl
    · rw [signed_true, if_pos (c := _ < _) (by omega)]; rfl
  · dsimp only
    rw [if_congr hexact rfl rfl]
    unfold saturate intMin intMax
    generalize (2 : ℤ) ^ (n - 1) = lim at *
    split
    · rfl
    · next hlow =>
      by_cases hhigh : lim ≤ signed neg (roundUnit rm neg m e 0 false).1
      · rw [if_pos hhigh, if_pos (by omega)]; rfl
      · rw [if_neg hhigh, if_neg (by omega)]
        cases (roundUnit rm neg m e 0 false).2 <;> rfl

/-- A two's complement field is the integer of its bit vector. -/
theorem sext_eq_toInt (v n : Nat) : sext v n = (BitVec.ofNat n v).toInt := by
  unfold sext
  rw [BitVec.toInt_eq_toNat_cond, BitVec.toNat_ofNat]
  push_cast; rfl

/-! ## How a comparison or conversion ends -/

/-- `i` completes with a write and its flags, or raises FPE with nothing written (R124). -/
def fpGives (fm : Form) (s : State) (i : Instr) (flags : Nat) (t : State) : Prop :=
  (trappedFlags flags s = 0 → exec i s = retires (fm.len 11) (orFlags flags t)) ∧
  (trappedFlags flags s ≠ 0 → exec i s = .next (takeTrap none (fpeTrap flags s) s))

section
variable {fm : Form} {i : Instr} {s : State} {body : State → Run} {flags : Nat}

theorem fpGives_of_fpRetire (write : State → State) (hx : exec i s = runOne (fm.len 11) body s)
    (hb : body s = fpRetire flags write s) : fpGives fm s i flags (write s) :=
  ⟨fun h => hx.trans (runOne_ok (hb.trans (fpRetire_ok h))), fun h => hx.trans (runOne_trap (hb.trans (fpRetire_trap h)))⟩

end

section
variable {fm : Form} {s : State} {rx d a b : Nat} (f df : Fmt)

theorem fpGives_fcmp (cc : Fcc) (h : clean s [.f a, .f b, .ctl 0x001] = true) :
    let x := (fmtE f).source (fcsrCtl 0 s) (rfn f s a)
    let y := (fmtE f).source (fcsrCtl 0 s) (rfn f s b)
    fpGives fm s (.fcmp fm cc f rx d a b) (fcmpFlags cc x y) (wp s d (fcmpHolds cc x y)) :=
  fpGives_of_fpRetire (fun s' => wp s' d _) (show exec _ s = execFcmp fm cc f rx d a b s from rfl)
    (by simp only [srcFcsr, need_ok h]; rfl)

theorem fpGives_fcvt (h : clean s [.f a, .ctl 0x001] = true) :
    let r := (fmtE df).ofVal (fcsrCtl rx s) ((fmtE f).source (fcsrCtl rx s) (rfn f s a))
    fpGives fm s (.fcvt fm df f rx d a) r.flags (wf s d (BitVec.ofNat 64 r.bits)) :=
  fpGives_of_fpRetire (wfn d _) (show exec _ s = execFcvt fm df f rx d a s from rfl)
    (by simp only [srcFcsr, need_ok h]; rfl)

theorem fpGives_fcvti (iw : IW) (h : clean s [.f a, .ctl 0x001] = true) :
    let q := toIntR (iwBits iw) (fcsrCtl rx s).rm ((fmtE f).source (fcsrCtl rx s) (rfn f s a))
    fpGives fm s (.fcvti fm iw f rx d a) q.2 (wg s d (BitVec.ofInt 64 q.1)) :=
  fpGives_of_fpRetire (fun s' => wg s' d _) (show exec _ s = execFcvti fm iw f rx d a s from rfl)
    (by simp only [srcFcsr, need_ok h]; rfl)

theorem fpGives_icvtf (iw : IW) (h : clean s [.g a, .ctl 0x001] = true) :
    let r := (fmtE f).ofInt (fcsrCtl rx s) (sext (rg s a).toNat (iwBits iw))
    fpGives fm s (.icvtf fm iw f rx d a) r.flags (wf s d (BitVec.ofNat 64 r.bits)) :=
  fpGives_of_fpRetire (wfn d _) (show exec _ s = execIcvtf fm iw f rx d a s from rfl)
    (by simp only [srcFcsr, need_ok h]; rfl)

end

/-- Settles O19: each form is a write with its flags (`fpGives_of_fpRetire`), and a finite value rounds to an integer as
`roundsInt_roundUnit` says. -/
theorem fpCompareAndConvertResults : Obligations.FpCompareAndConvertResults := by
  unfold Obligations.FpCompareAndConvertResults
  intro fm cc f df iw rx d a b s hctl
  refine ⟨fun h => ?_, fun h => ⟨fpGives_fcvt f df ((clean_cons _ _ _).2 ⟨h, hctl⟩), ?_, ?_⟩, fun h => ?_⟩
  · obtain ⟨ha, hb⟩ := (clean_cons _ _ _).1 h
    have hx := fpGives_fcmp (fm := fm) (rx := rx) (d := d) f cc
      ((clean_cons _ _ _).2 ⟨ha, (clean_cons _ _ _).2 ⟨hb, hctl⟩⟩)
    cases cc <;> exact hx
  · have hx := fpGives_fcvti (fm := fm) (rx := rx) (d := d) f iw ((clean_cons _ _ _).2 ⟨h, hctl⟩)
    cases iw <;> exact hx
  · refine ⟨fun hnan => ?_, fun n hinf => ?_, fun n m e hfin => ?_⟩
    · generalize (fmtE f).source (fcsrCtl rx s) (rfn f s a) = x at hnan
      cases x with
      | nan q => cases iw <;> rfl
      | inf n => cases hnan
      | fin n m e => cases hnan
    · rw [hinf]
      cases iw <;> cases n <;> rfl
    · rw [hfin]
      cases iw
      · exact toIntR_fin 64 _ n m e
      · exact toIntR_fin 32 _ n m e
  · have hx := fpGives_icvtf (fm := fm) (rx := rx) (d := d) f iw ((clean_cons _ _ _).2 ⟨h, hctl⟩)
    rw [sext_eq_toInt, BitVec.ofNat_toNat] at hx
    cases iw
    · simp only [iwBits, BitVec.setWidth_eq] at hx
      exact hx
    · exact hx

end Sys2Proof.Machine

/-! PROOFS. Tile work where nothing has to be waited for, and the instructions on tile and accumulator names, gangs and
queries (R58, R175, R187 to R192, R341, R343, R351). -/

namespace Sys2Proof.Machine

/-! ## Tile work that may go on -/

section
variable {s : State} (hev : s.ctx.aux.evicted = []) (hext : s.ctx.aux.extPending = none)
  (hgang : s.ctx.aux.regang = none)

include hev hext hgang

theorem tileWork_ok (names : List Nat) : tileWork names s = .ok s := by
  have hload : loadTileState names s = .ok s := by unfold loadTileState; rw [hev, hext]; rfl
  have hobtain : obtainGang s = .ok s := by unfold obtainGang; rw [hgang]
  unfold tileWork
  rw [hload]
  exact hobtain

theorem query_ok (hin : inService s = .ok ()) (names : List Nat) (d : Nat) (f : State → Nat) :
    query names d f s = .ok (wg s d (BitVec.ofNat 64 (f s))) := by
  unfold query
  rw [hin, tileWork_ok hev hext hgang]; rfl

end

theorem granted_ok {s : State} (h : tileReady s) (names : List Nat) : granted names s = .ok s := by
  obtain ⟨-, hev, hext, hgang, hslot⟩ := h
  unfold granted
  rw [tileWork_ok hev hext hgang]
  exact if_pos hslot

theorem seenTile_unpinned {s : State} (h : pinned s = none) (n : Nat) : seenTile s n = s.ctx.tile n := by
  unfold seenTile; rw [h]

theorem seenAcc_unpinned {s : State} (h : pinned s = none) (n : Nat) : seenAcc s n = s.ctx.acc n := by
  unfold seenAcc; rw [h]

/-! ## Runs of names -/

theorem acc_putAcc {n : Nat} (h : n < 8) (m : Nat) (a : Acc) (s : State) :
    (putAcc m a s).ctx.acc n = if n = m then a else s.ctx.acc n := by
  unfold putAcc Ctx.acc
  by_cases hm : n = m
  · subst hm; simp [h]
  · rw [if_neg hm, getD_setIfInBounds_ne _ _ _ hm]

theorem tile_putTile {n : Nat} (h : n < 16) (m : Nat) (t : List Tile) (s : State) :
    (putTile m t s).ctx.tile n = if n = m then t else s.ctx.tile n := by
  unfold putTile Ctx.tile
  by_cases hm : n = m
  · subst hm; simp [h]
  · rw [if_neg hm, getD_setIfInBounds_ne _ _ _ hm]

/-- A run of accumulator names freed (R187). -/
theorem free_accs (l : List Nat) (s : State) : let t := l.foldl (fun s n => putAcc n Acc.empty s) s
    (∀ n, n < 8 → t.ctx.acc n = if n ∈ l then Acc.empty else s.ctx.acc n) ∧ t.ctx.t = s.ctx.t := by
  induction l generalizing s with
  | nil => exact ⟨fun _ _ => rfl, rfl⟩
  | cons m l ih =>
    obtain ⟨hacc, htile⟩ := ih (putAcc m Acc.empty s)
    refine ⟨fun n hn => ?_, htile⟩
    rw [List.foldl_cons, hacc n hn, acc_putAcc hn]
    by_cases hm : n = m <;> simp [hm]

/-- A run of tile names freed (R187). -/
theorem free_tiles (l : List Nat) (s : State) :
    let t := l.foldl (fun s n => putTile n (noTile s.ctx.aux.gang) s) s
    (∀ n, n < 16 → t.ctx.tile n = if n ∈ l then noTile s.ctx.aux.gang else s.ctx.tile n) ∧ t.ctx.c = s.ctx.c := by
  induction l generalizing s with
  | nil => exact ⟨fun _ _ => rfl, rfl⟩
  | cons m l ih =>
    obtain ⟨htile, hacc⟩ := ih (putTile m (noTile s.ctx.aux.gang) s)
    refine ⟨fun n hn => ?_, hacc⟩
    rw [List.foldl_cons, htile n hn, tile_putTile hn]
    have hg : (putTile m (noTile s.ctx.aux.gang) s).ctx.aux.gang = s.ctx.aux.gang := rfl
    by_cases hm : n = m <;> simp [hm, hg]

theorem mem_names {d a n : Nat} (h : n < 16) :
    n ∈ (List.range 16).filter (fun n => decide (d ≤ n ∧ n ≤ a)) ↔ d ≤ n ∧ n ≤ a := by
  simp [h]

theorem tile_freeNames (g : Nat) (c : Ctx) {n : Nat} (h : n < 16) : (freeNames g c).tile n = noTile g := by
  simp [freeNames, Ctx.tile, h]

theorem acc_freeNames (g : Nat) (c : Ctx) {n : Nat} (h : n < 8) : (freeNames g c).acc n = Acc.empty := by
  simp [freeNames, Ctx.acc, h]

/-- The least of a bound and of the values of a list. -/
theorem foldl_min {α : Type} (f : α → Nat) (l : List α) (b : Nat) : let m := l.foldl (fun m x => min m (f x)) b
    m ≤ b ∧ (∀ x ∈ l, m ≤ f x) ∧ (m = b ∨ ∃ x ∈ l, m = f x) := by
  induction l generalizing b with
  | nil => simp
  | cons y l ih =>
    obtain ⟨hb, hall, hex⟩ := ih (min b (f y))
    refine ⟨hb.trans (min_le_left _ _), List.forall_mem_cons.2 ⟨hb.trans (min_le_right _ _), hall⟩, ?_⟩
    rcases hex with h | ⟨x, hx, h⟩
    · rcases min_choice b (f y) with hm | hm
      · exact .inl (h.trans hm)
      · exact .inr ⟨y, List.mem_cons_self, h.trans hm⟩
    · exact .inr ⟨x, List.mem_cons_of_mem _ hx, h⟩

/-! ## Moving an accumulator -/

/-- What `TMOV` to an accumulator of type `dt` leaves (R188). -/
def moved (src : Acc) (dt : Tag) (d : Nat) (s : State) : State :=
  if src.tag = .empty then putAcc d Acc.empty s
  else if src.tag = dt then putAcc d src s
  else orFlags (convertAcc (tileCtl s) src dt).2 (putAcc d (convertAcc (tileCtl s) src dt).1 s)

theorem moveAcc_ok {s : State} (hpin : pinned s = none) {a d : Nat} {dt : Tag} (hbad : (s.ctx.acc a).poisoned = false)
    (hfit : (s.ctx.acc a).tag = .empty ∨ (s.ctx.acc a).cext ≤ dt.cols) :
    moveAcc dt d a s = .ok (moved (s.ctx.acc a) dt d s) := by
  unfold moveAcc moved
  rw [seenAcc_unpinned hpin]
  by_cases he : (s.ctx.acc a).tag = .empty
  · simp [he]
  · have hc : ¬ (s.ctx.acc a).cext > dt.cols := not_lt.2 (hfit.resolve_left he)
    simp only [he, hc, hbad, Bool.false_eq_true, if_false]
    by_cases ht : (s.ctx.acc a).tag = dt
    · rw [if_pos ht, if_pos ht]
    · rw [if_neg ht, if_neg ht]

/-! ## Each instruction -/

section
variable {fm : Form} {s : State} {d a j k : Nat} (hs : startAt fm s = some (j, k)) (hin : inService s = .ok ())
  (hev : s.ctx.aux.evicted = []) (hext : s.ctx.aux.extPending = none) (hgang : s.ctx.aux.regang = none)

include hs hin hev hext hgang

theorem exec_tzero (kind : ZeroKind) : exec (.tzero fm kind d) s = .next (completes fm (fm.len 24) j
    (match kind with
     | .tile => putTile (fm.d j d) (noTile s.ctx.aux.gang) s
     | .acc tag => putAcc (fm.d j d)
        (if tag = .empty then Acc.empty else ⟨tag, 64, tag.cols, List.replicate s.ctx.aux.gang [], [], []⟩) s)) := by
  refine (show exec _ s = execTzero fm kind d s from rfl).trans (runRep_ok hs ?_)
  simp only [hin, tileWork_ok hev hext hgang]
  cases kind with
  | tile => rfl
  | acc tag => exact (apply_ite (fun a => Except.ok (putAcc (fm.d j d) a s)) _ _ _).symm

/-- `TMOV` of an accumulator, its tag given or kept (R188). -/
theorem exec_tmov_acc (hpin : pinned s = none) (kind : MovKind) (dt : Tag)
    (hkind : kind = .acc ∧ dt = (if (s.ctx.acc (fm.a j a)).tag = .int then .i32 else (s.ctx.acc (fm.a j a)).tag) ∨
      kind = .convert dt ∧ clean s [.ctl 0x002] = true)
    (hbad : (s.ctx.acc (fm.a j a)).poisoned = false)
    (hfit : (s.ctx.acc (fm.a j a)).tag = .empty ∨ (s.ctx.acc (fm.a j a)).cext ≤ dt.cols) :
    exec (.tmov fm kind d a) s =
      .next (completes fm (fm.len 24) j (moved (s.ctx.acc (fm.a j a)) dt (fm.d j d) s)) := by
  refine (show exec _ s = execTmov fm kind d a s from rfl).trans (runRep_ok hs ?_)
  simp only [hin, tileWork_ok hev hext hgang]
  obtain ⟨rfl, rfl⟩ | ⟨rfl, hctl⟩ := hkind
  · exact moveAcc_ok hpin hbad hfit
  · show (need s [.ctl 0x002] >>= fun _ => moveAcc _ _ _ s) = _
    rw [need_ok hctl]
    exact moveAcc_ok hpin hbad hfit

theorem exec_tmov_tile (hpin : pinned s = none) (hbad : (s.ctx.tile (fm.a j a)).all (fun b => b.bad.isEmpty) = true) :
    exec (.tmov fm .tile d a) s = .next (completes fm (fm.len 24) j (putTile (fm.d j d) (s.ctx.tile (fm.a j a)) s)) := by
  refine (show exec _ s = execTmov fm .tile d a s from rfl).trans (runRep_ok hs ?_)
  have hany : (s.ctx.tile (fm.a j a)).any (fun b => !b.bad.isEmpty) = false := by
    simpa [List.any_eq_false, List.all_eq_true] using hbad
  simp only [hin, tileWork_ok hev hext hgang]
  show (if (seenTile s (fm.a j a)).any (fun b => !b.bad.isEmpty) = true then raise 0x0E 2 0 s
    else .ok (putTile (fm.d j d) (seenTile s (fm.a j a)) s)) = _
  rw [seenTile_unpinned hpin, hany]
  rfl

theorem exec_tfree (h : fm.d j d ≤ fm.a j a) (acc : Bool) :
    let names := (List.range 16).filter (fun n => decide (fm.d j d ≤ n ∧ n ≤ fm.a j a))
    exec (.tfree fm acc d a) s = .next (completes fm (fm.len 24) j
      (if acc then names.foldl (fun s n => putAcc n Acc.empty s) s
       else names.foldl (fun s n => putTile n (noTile s.ctx.aux.gang) s) s)) := by
  refine (show exec _ s = execTfree fm acc d a s from rfl).trans (runRep_ok hs ?_)
  simp only [hin, tileWork_ok hev hext hgang]
  cases acc <;> exact if_neg h.not_gt

end

/-- A gang that every engine accepts is granted at once: every name is free and the gang has its size (R175, R365). -/
theorem exec_tgang (fm : Form) {g : Nat} {s : State} (hsize : g = 1 ∨ g = 2 ∨ g = 4)
    (hq : ∀ n ∈ gangOf s g, (engineAt s n).quarantined = false) (hacc : gangAccepted s g = true) :
    ∃ u : State, exec (.tgang fm g) s = retires (fm.len 24) { u with ctx := freeNames g u.ctx } := by
  refine ⟨if g = 1 then s else endOverlap s, (show exec _ s = execTgang fm g s from rfl).trans (runOne_ok ?_)⟩
  have hok : gangOk g = true := decide_eq_true hsize
  have hany : (gangOf s g).any (fun n => (engineAt s n).quarantined) = false := by
    simpa [List.any_eq_false] using hq
  simp only [hok, hany, hacc, Bool.not_true, Bool.false_eq_true, Bool.or_true, if_true, if_false]

section
variable {fm : Form} {s : State} {d a : Nat} (hin : inService s = .ok ())

include hin

theorem exec_tsync (h : storesPerformed 2 s = true) : exec (.tsync fm) s = retires (fm.len 24) s :=
  (show exec _ s = execTsync fm s from rfl).trans (runOne_ok (by rw [hin]; exact awaitStores_ok h))

theorem exec_tctlSeed (h : clean s [.g d] = true) : exec (.tctlSeed fm d) s = retires (fm.len 24)
    { s with ctx.ctl.lfsr := if (rg s d).setWidth 32 = 0#32 then 1 else (rg s d).setWidth 32 } :=
  (show exec _ s = execTctlSeed fm d s from rfl).trans (runOne_ok (by simp only [hin, need_ok h]; rfl))

theorem exec_tctlRd : exec (.tctlRd fm d) s = retires (fm.len 24) (wg s d (s.ctx.ctl.lfsr.setWidth 64)) :=
  (show exec _ s = execTctlRd fm d s from rfl).trans (runOne_ok (by simp only [hin]; rfl))

theorem exec_tctlClr : exec (.tctlClr fm) s =
    retires (fm.len 24) { s with ctx.aux.corrections := 0, ctx.aux.unchecked := false } :=
  (show exec _ s = execTctlClr fm s from rfl).trans (runOne_ok (by simp only [hin]; rfl))

end

/-- Settles O26: with the engines in service and nothing pending, each instruction has its equation. -/
theorem tileNameResults : Obligations.TileNameResults := by
  unfold Obligations.TileNameResults
  intro fm tag d a g s j k hs hin hev hext hgang hpin
  have hquery (names : List Nat) (f : State → Nat) := query_ok hev hext hgang hin names d f
  refine ⟨exec_tzero hs hin hev hext hgang .tile, exec_tzero hs hin hev hext hgang (.acc tag),
    exec_tmov_tile hs hin hev hext hgang hpin, fun hbad => ⟨fun hfit => ?_, fun hfit hctl => ?_⟩, fun hle => ?_,
    fun hg hq hacc => ?_, exec_tsync hin, exec_tctlSeed hin, exec_tctlRd hin, exec_tctlClr hin, ?_, ?_, ?_, ?_, ?_, ?_, ?_⟩
  · exact exec_tmov_acc hs hin hev hext hgang hpin .acc _ (.inl ⟨rfl, rfl⟩) hbad hfit
  · exact exec_tmov_acc hs hin hev hext hgang hpin (.convert tag) tag (.inr ⟨rfl, hctl⟩) hbad hfit
  · obtain ⟨hacc, htile⟩ := free_accs ((List.range 16).filter fun n => decide (fm.d j d ≤ n ∧ n ≤ fm.a j a)) s
    obtain ⟨htile', hacc'⟩ := free_tiles ((List.range 16).filter fun n => decide (fm.d j d ≤ n ∧ n ≤ fm.a j a)) s
    refine ⟨_, _, exec_tfree hs hin hev hext hgang hle true, exec_tfree hs hin hev hext hgang hle false,
      fun n hn => ?_, htile, fun n hn => ?_, hacc'⟩
    · exact (hacc n hn).trans (if_congr (mem_names (hn.trans (by decide))) rfl rfl)
    · exact (htile' n hn).trans (if_congr (mem_names hn) rfl rfl)
  · obtain ⟨u, hu⟩ := exec_tgang fm hg hq hacc
    exact ⟨_, hu, rfl, fun n hn => tile_freeNames g u.ctx hn, fun n hn => acc_freeNames g u.ctx hn⟩
  · exact (show exec _ s = execTqryRows fm d a s from rfl).trans (runOne_ok (hquery _ _))
  · exact (show exec _ s = execTqryAcc fm d a s from rfl).trans (runOne_ok (hquery _ _))
  · exact (show exec _ s = execTqryCell fm d a s from rfl).trans (runOne_ok (hquery _ _))
  · exact (show exec _ s = execTqryGang fm d s from rfl).trans (runOne_ok (hquery _ _))
  · refine (show exec _ s = execTqryCorr fm d s from rfl).trans (runOne_ok ?_)
    rw [hquery, BitVec.ofNat_toNat, BitVec.setWidth_eq]
  · refine (show exec _ s = execTqryUnck fm d s from rfl).trans (runOne_ok ?_)
    rw [hquery]
    cases s.ctx.aux.unchecked <;> rfl
  · obtain ⟨hle, hall, hex⟩ := foldl_min (entriesFree s s.pid) (myEngines s) 256
    exact ⟨_, hle, (show exec _ s = execTqryFree fm d s from rfl).trans (runOne_ok (hquery _ _)), hall, hex⟩

end Sys2Proof.Machine

/-! PROOFS. Frames of the vector instructions: what every vector instruction checks, then its destination and its flags
(R49, R64, R67, R197 to R212). -/

namespace Sys2Proof.Machine

section
variable {gs fs ps ms cs : List Nat} {fl : Word} {s : State} (h : tileReady s)

include h

/-- Every check that fails raises a trap in the state it was given. -/
theorem quietly_vecRun {body : Tag → State → Run} (typed wide : List Nat) (loose : Bool) (dest : Option Nat)
    (ok : Tag → Bool) (src : List Src) (hb : ∀ t, quietly gs fs ps ms cs fl s (body t s)) :
    quietly gs fs ps ms cs fl s (vecRun typed wide loose dest ok src body s) := by
  unfold vecRun
  rw [h.1]
  show quietly _ _ _ _ _ _ _ (match laneType s typed wide loose with | none => _ | some t => _)
  cases laneType s typed wide loose with
  | none => exact quietly_raise ..
  | some t =>
    dsimp only
    split
    · exact quietly_raise ..
    · refine quietly_need _ ?_
      rw [granted_ok h]
      exact hb t

end

section
variable {s : State} {d : Nat}

theorem framesTo_vecWrite (t : Tag) (outs : List (List (Option Nat))) :
    framesTo [] [] [] [] [windowAcc s d] 0x1F s (vecWrite t d outs s) :=
  framesTo_putAcc _ (List.mem_singleton_self _)

theorem quietly_vecEach (t : Tag) (z : Bool) (act : List Bool) (srcs : List Nat) (op : List (List Lane) → List Lane) :
    quietly [] [] [] [] [windowAcc s d] 0x1F s (vecEach t z act d srcs op s) := by
  unfold vecEach
  split
  · exact quietly_raise ..
  · exact quietly_fpRetire _ (framesTo_vecWrite ..)

theorem destAcc_some {fm : Form} {j k : Nat} (hs : startAt fm s = some (j, k)) (d : Nat) :
    (destOf fm s d).map (windowAcc s) = [windowAcc s (fm.d j d)] := by
  rw [destOf_some hs]; rfl

end

/-! ## Families -/

section
variable {fm : Form} {page k d a b : Nat} {z loose dSrc : Bool} {ok : Tag → Bool} {s : State} {i : Instr}
  (h : tileReady s)

include h

theorem framed_vec3 {op : Tag → State → List (List Lane) → List Lane}
    (hx : exec i s = vec3 fm page z k d a b loose dSrc ok op s) :
    framedBy i [] [] [] [] ((destOf fm s d).map (windowAcc s)) 0x1F s :=
  runRep_framed hx fun _ _ hs => destAcc_some hs d ▸ quietly_vecRun h _ _ _ _ _ _ fun _ => quietly_vecEach ..

theorem framed_vec2 {src : Nat → State → List Src} {op : Nat → State → Tag → State → List (List Lane) → List Lane}
    (hx : exec i s = runRep fm (fm.len page) (fun j _ s => vec2 fm page z k d a ok (src j s) (op j s) j s) s) :
    framedBy i [] [] [] [] ((destOf fm s d).map (windowAcc s)) 0x1F s :=
  runRep_framed hx fun _ _ hs => destAcc_some hs d ▸ quietly_vecRun h _ _ _ _ _ _ fun _ => quietly_vecEach ..

theorem framed_vecApprox {ff : EFmt → FpCtl → Nat → FRes} (hx : exec i s = vecApprox fm z k d a ff s) :
    framedBy i [] [] [] [] ((destOf fm s d).map (windowAcc s)) 0x1F s := framed_vec2 h hx

/-- A move of a lane writes a scalar register, or nothing where the lane is inactive (R212). -/
theorem quietly_moveLane {gs fs : List Nat} {write : Tag → Nat → State → State}
    (hw : ∀ t v, framesTo gs fs [] [] [] 0x1F s (write t v s)) :
    quietly gs fs [] [] [] 0x1F s (moveLane z k a b write s) := by
  refine quietly_vecRun h _ _ _ _ _ _ fun t => ?_
  split
  · exact quietly_raise ..
  · split
    · exact quietly_ok (framesTo_refl ..)
    · exact quietly_fpRetire _ (hw ..)

end

/-! ## Instructions that share their effect with no other -/

section
variable {fm : Form} {k d a b : Nat} {z : Bool} {tg : Tag} {op : Rop} {mop : Mop} {c : Vcc} {s : State} (h : tileReady s)

include h

theorem framed_vabs : framedBy (.vabs fm z k d a) [] [] [] [] ((destOf fm s d).map (windowAcc s)) 0x1F s :=
  framed_vec2 h (show exec _ s = execVabs fm z k d a s from rfl)

theorem framed_vneg : framedBy (.vneg fm z k d a) [] [] [] [] ((destOf fm s d).map (windowAcc s)) 0x1F s :=
  framed_vec2 h (show exec _ s = execVneg fm z k d a s from rfl)

theorem framed_vmov : framedBy (.vmov fm z k d a) [] [] [] [] ((destOf fm s d).map (windowAcc s)) 0x1F s :=
  framed_vec2 h (show exec _ s = execVmov fm z k d a s from rfl)

theorem framed_vbcl : framedBy (.vbcl fm z k d a b) [] [] [] [] ((destOf fm s d).map (windowAcc s)) 0x1F s :=
  framed_vec2 h (show exec _ s = execVbcl fm z k d a b s from rfl)

theorem framed_vrot : framedBy (.vrot fm z k d a b) [] [] [] [] ((destOf fm s d).map (windowAcc s)) 0x1F s :=
  framed_vec2 h (show exec _ s = execVrot fm z k d a b s from rfl)

theorem framed_vperm : framedBy (.vperm fm z k d a b) [] [] [] [] ((destOf fm s d).map (windowAcc s)) 0x1F s :=
  runRep_framed (show exec _ s = execVperm fm z k d a b s from rfl) fun _ _ hs =>
    destAcc_some hs d ▸ quietly_vecRun h _ _ _ _ _ _ fun _ => quietly_vecEach ..

theorem framed_vred : framedBy (.vred fm op d a b) [] [] [] [] ((destOf fm s d).map (windowAcc s)) 0x1F s :=
  runRep_framed (show exec _ s = execVred fm op d a b s from rfl) fun _ _ hs =>
    destAcc_some hs d ▸ quietly_vecRun h _ _ _ _ _ _ fun _ => quietly_vecEach ..

theorem framed_vmerge : framedBy (.vmerge fm z k d a b) [] [] [] [] ((destOf fm s d).map (windowAcc s)) 0x1F s :=
  runRep_framed (show exec _ s = execVmerge fm z k d a b s from rfl) fun _ _ hs =>
    destAcc_some hs d ▸ quietly_vecRun h _ _ _ _ _ _ fun _ => quietly_vecEach ..

theorem framed_vscan : framedBy (.vscan fm z op d a b) [] [] [] [] ((destOf fm s d).map (windowAcc s)) 0x1F s := by
  refine runRep_framed (show exec _ s = execVscan fm z op d a b s from rfl) fun _ _ hs =>
    destAcc_some hs d ▸ quietly_vecRun h _ _ _ _ _ _ fun _ => ?_
  split
  · exact quietly_raise ..
  · exact quietly_fpRetire _ (framesTo_vecWrite ..)

/-- `VCVT` checks its lane types itself (R206). -/
theorem framed_vcvt : framedBy (.vcvt fm z tg d a b) [] [] [] [] ((destOf fm s d).map (windowAcc s)) 0x1F s := by
  refine runRep_framed (show exec _ s = execVcvt fm z tg d a b s from rfl) fun _ _ hs => destAcc_some hs d ▸ ?_
  rw [h.1]
  show quietly _ _ _ _ _ _ _ (ite _ _ _)
  split
  · exact quietly_raise ..
  · refine quietly_need _ ?_
    rw [granted_ok h]
    show quietly _ _ _ _ _ _ _ (ite _ _ _)
    split
    · exact quietly_raise ..
    · exact quietly_fpRetire _ (framesTo_vecWrite ..)

theorem framed_vcmp : framedBy (.vcmp fm z c d a b) [] [] [] (destOf fm s d) [] 0x1F s := by
  refine runRep_framed (show exec _ s = execVcmp fm z c d a b s from rfl) fun _ _ hs =>
    destOf_some hs d ▸ quietly_vecRun h _ _ _ _ _ _ fun _ => ?_
  split
  · exact quietly_raise ..
  · exact quietly_fpRetire _ (framesTo_wm _ (List.mem_singleton_self _))

theorem framed_vmlog : framedBy (.vmlog fm mop d a b) [] [] [] [d] [] 0x1F s := by
  refine runOne_framed (show exec _ s = execVmlog fm mop d a b s from rfl) ?_
  rw [h.1]
  exact quietly_need _ (quietly_ok (framesTo_wm _ (List.mem_singleton_self _)))

theorem framed_vmpopc : framedBy (.vmpopc fm d a) [d] [] [] [] [] 0x1F s := by
  refine runOne_framed (show exec _ s = execVmpopc fm d a s from rfl) ?_
  rw [h.1]
  exact quietly_need _ (quietly_ok (framesTo_wg_same _))

theorem framed_vmovg : framedBy (.vmovg fm z k d a b) (destOf fm s d) [] [] [] [] 0x1F s :=
  runRep_framed (show exec _ s = execVmovg fm z k d a b s from rfl) fun _ _ hs =>
    destOf_some hs d ▸ quietly_moveLane h fun _ _ => framesTo_wg_same _

theorem framed_vmovf : framedBy (.vmovf fm z k d a b) [] (destOf fm s d) [] [] [] 0x1F s :=
  runRep_framed (show exec _ s = execVmovf fm z k d a b s from rfl) fun _ _ hs =>
    destOf_some hs d ▸ quietly_moveLane h fun _ _ => framesTo_wf_same _

end

/-- Settles O52: with the engines ready, each effect writes its destination and its flags, or raises a trap in the state
it was given. -/
theorem vectorFrames : Obligations.VectorFrames := by
  unfold Obligations.VectorFrames
  intro fm z k d a b tg op mop c s h
  exact ⟨framed_vec3 h rfl, framed_vec3 h rfl, framed_vec3 h rfl, framed_vec3 h rfl, framed_vec3 h rfl,
    framed_vec3 h rfl, framed_vec3 h rfl, framed_vec3 h rfl, framed_vec3 h rfl, framed_vec3 h rfl, framed_vec3 h rfl,
    framed_vec3 h rfl, framed_vbcl h, framed_vperm h, framed_vrot h, framed_vabs h, framed_vneg h, framed_vmov h,
    framed_vecApprox h rfl, framed_vecApprox h rfl, framed_vecApprox h rfl, framed_vecApprox h rfl, framed_vcvt h,
    framed_vred h, framed_vscan h, framed_vmerge h, framed_vcmp h, framed_vmlog h, framed_vmpopc h, framed_vmovg h,
    framed_vmovf h⟩

end Sys2Proof.Machine

/-! PROOFS. A `TMMA` and what its array computes: how it ends, and its cells (R57, R159, R170, R171, R177, R180, R377). -/

namespace Sys2Proof.Machine

/-! ## A run that no fault hits -/

theorem map_range_getD {α : Type} (l : List α) (d : α) : (List.range l.length).map (fun i => (l[i]?).getD d) = l := by
  refine List.ext_getElem (by simp) fun i h _ => ?_
  simp at h
  simp [h]

theorem set_getD_self {α : Type} (l : List α) (i : Nat) (d : α) : l.set i ((l[i]?).getD d) = l := by
  by_cases h : i < l.length
  · rw [List.getElem?_eq_getElem h]; exact List.set_getElem_self h
  · exact List.set_eq_of_length_le (not_lt.1 h)

theorem applyFaults_none {o : TmmaOp} {x : Nat} {fs : List ArrayFault} (h : fs.any (hits o x) = false) (cells : Cells) :
    applyFaults o x fs cells = cells := by
  have hnone : fs.filter (hits o x) = [] := List.filter_eq_nil_iff.2 (by simpa using h)
  unfold applyFaults
  rw [hnone]; rfl

/-- Without a fault the engines leave the cells that the array computes (R377). -/
theorem faulted_faultFree {s : State} {o : TmmaOp} {out : TmmaOut} (h : faultFree s o out = true)
    (hlen : ∀ c ∈ out.cells, c.length = o.gang) : faulted s o out = out.cells := by
  have hany {e x : Nat} (he : e < o.gang) (hx : x < out.cells.length) : (bandFaults s e).any (hits o x) = false := by
    unfold faultFree at h
    simp only [List.all_eq_true, List.mem_range, Bool.not_eq_true'] at h
    exact h e he x hx
  have hrow {x : Nat} (hx : x < out.cells.length) : (List.range o.gang).map (fun e =>
      applyFaults o x (bandFaults s e) ((((out.cells[x]?).getD [])[e]?).getD [])) = (out.cells[x]?).getD [] := by
    have hc : ((out.cells[x]?).getD []).length = o.gang := by
      rw [List.getElem?_eq_getElem hx]; exact hlen _ (List.getElem_mem hx)
    conv_rhs => rw [← map_range_getD ((out.cells[x]?).getD []) [], hc]
    exact List.map_congr_left fun e he => applyFaults_none (hany (List.mem_range.1 he) hx) _
  conv_rhs => rw [← map_range_getD out.cells []]
  exact List.map_congr_left fun x hx => hrow (List.mem_range.1 hx)

/-! ## Checks that pass -/

theorem serviceCheck_pass {o : TmmaOp} {t : CheckIn} {cells : Cells}
    (h : ((badRows t (newVals o cells)).isEmpty && (badCols t (newVals o cells)).isEmpty) = true) :
    serviceCheck o t cells = some (cells, 0) := by
  rw [Bool.and_eq_true, List.isEmpty_iff, List.isEmpty_iff] at h
  unfold serviceCheck
  rw [h.1, h.2]

/-- A fold whose every step keeps its accumulator keeps it. -/
theorem foldl_fixed {α β : Type} {f : β → α → β} {b : β} (l : List α) (h : ∀ a ∈ l, f b a = b) : l.foldl f b = b := by
  induction l with
  | nil => rfl
  | cons a l ih =>
    rw [List.foldl_cons, h a List.mem_cons_self]
    exact ih fun x hx => h x (List.mem_cons_of_mem _ hx)

theorem checkAll_pass {o : TmmaOp} {out : TmmaOut} {cells : List (List Cells)} (h : allPass o out cells = true) :
    checkAll o out cells = some (cells, 0) := by
  unfold allPass at h
  simp only [List.all_eq_true, List.mem_range] at h
  refine foldl_fixed _ fun x hx => foldl_fixed _ fun e he => ?_
  have hpass := serviceCheck_pass (h x (List.mem_range.1 hx) e (List.mem_range.1 he))
  simp only [hpass, set_getD_self]

/-! ## How a `TMMA` ends -/

theorem checkedRetire_pass {s : State} {o : TmmaOp} {out : TmmaOut} (hfree : faultFree s o out = true)
    (hlen : ∀ c ∈ out.cells, c.length = o.gang) (h : pairTag o.pair = .int ∨ allPass o out out.cells = true) :
    checkedRetire o out s = .ok (retireTmma o out out.cells 0 (wearEngines s)) := by
  unfold checkedRetire
  by_cases hint : pairTag o.pair = .int
  · rw [if_pos (by simp [hint, hfree])]
  · have hpass := h.resolve_left hint
    rw [if_neg (by simp [hint])]
    split
    · unfold testRun
      rw [faulted_faultFree hfree hlen, if_pos hpass]
    · rw [faulted_faultFree hfree hlen, checkAll_pass hpass]
      exact if_neg (by simp)

theorem cells_length (o : TmmaOp) : ∀ c ∈ (runTmmaOp o).cells, c.length = o.gang := by
  unfold runTmmaOp
  split
  · unfold runInt; simp
  · unfold runFloat; simp

section
variable {pr : Pair} {wide chained : Bool} {n fs d a b : Nat} {s : State} (h : tileReady s)
  (hc : clean s ((if fs = 0 then [] else [.f fs]) ++ [.ctl 0x002]) = true)
  (hill : tmmaIll (tmmaOp pr wide chained n fs d a b s) a b = false)
  (hbad : tmmaPoisoned (tmmaOp pr wide chained n fs d a b s) = false)

include h hc hill hbad

/-- Past its checks a `TMMA` that has timed out raises CARRY, and any other goes on to the cellar (R180). -/
theorem tmmaBody_checked : let o := tmmaOp pr wide chained n fs d a b s
    tmmaBody pr wide chained n fs d a b s =
      match s.ctx.aux.sent with
      | .timedOut y => raise 0x0D (8 + y % 8) 0 s
      | _ =>
        match stuckAt (runTmmaOp o).takes (freeByBand s) with
        | some (x, held) => cellarFull x held s
        | none => checkedRetire o (runTmmaOp o) s := by
  intro o
  unfold tmmaBody
  rw [h.1, hill, need_ok hc, granted_ok h]
  show (if tmmaPoisoned o = true then _ else _) = _
  rw [hbad]
  rfl

theorem tmmaBody_timedOut {y : Nat} (hsent : s.ctx.aux.sent = .timedOut y) :
    tmmaBody pr wide chained n fs d a b s = raise 0x0D (8 + y % 8) 0 s := by
  rw [tmmaBody_checked h hc hill hbad, hsent]

theorem tmmaBody_stuck (hsent : ∀ y, s.ctx.aux.sent ≠ .timedOut y) (htrap : s.ctx.ctl.tctl.getLsbD 16 = true) {x : Nat}
    {held : List Nat} (hst : stuckAt (runTmmaOp (tmmaOp pr wide chained n fs d a b s)).takes (freeByBand s) = some (x, held)) :
    tmmaBody pr wide chained n fs d a b s = raise 0x0D (x % 8) 0 s := by
  rw [tmmaBody_checked h hc hill hbad, hst]
  split
  · exact absurd ‹_› (hsent _)
  · exact if_pos htrap

theorem tmmaBody_retires (hsent : ∀ y, s.ctx.aux.sent ≠ .timedOut y)
    (hst : stuckAt (runTmmaOp (tmmaOp pr wide chained n fs d a b s)).takes (freeByBand s) = none)
    (hfree : faultFree s (tmmaOp pr wide chained n fs d a b s) (runTmmaOp (tmmaOp pr wide chained n fs d a b s)) = true)
    (hpass : pairTag pr = .int ∨ allPass (tmmaOp pr wide chained n fs d a b s)
      (runTmmaOp (tmmaOp pr wide chained n fs d a b s)) (runTmmaOp (tmmaOp pr wide chained n fs d a b s)).cells = true) :
    let o := tmmaOp pr wide chained n fs d a b s
    tmmaBody pr wide chained n fs d a b s =
      .ok (retireTmma o (runTmmaOp o) (runTmmaOp o).cells 0 (wearEngines s)) := by
  intro o
  rw [tmmaBody_checked h hc hill hbad, hst]
  split
  · exact absurd ‹_› (hsent _)
  · exact checkedRetire_pass hfree (cells_length o) hpass

end

/-! ## Integer cells -/

/-- The number a cell stands for within an instruction: acc24 and the carries out of it (R177). -/
def IntRun.total (r : IntRun) : Int := r.y + r.carry * 2 ^ 24

/-- A slab adds its sum of products, whatever carries it takes. -/
theorem total_intStep (r : IntRun) (x : Int) : (intStep r x).1.total = r.total + x := by
  unfold intStep IntRun.total
  dsimp only
  split
  · ring
  · dsimp only; ring

theorem total_intRun (l : List Int) (p : IntRun × List Bool) :
    (l.foldl (fun p x => ((intStep p.1 x).1, p.2 ++ [(intStep p.1 x).2])) p).1.total = p.1.total + l.sum := by
  induction l generalizing p with
  | nil => simp
  | cons x l ih => rw [List.foldl_cons, ih, total_intStep, List.sum_cons]; ring

/-- acc24 and the cellar count are the folded value (R179). -/
theorem acc24_add_cellCount (v : Word) : acc24 v + cellCount v * 2 ^ 24 = v.toInt := by
  have hdvd : (2 ^ 24 : Int) ∣ v.toInt - acc24 v := by
    rw [BitVec.toInt_eq_toNat_cond]
    unfold acc24 sext
    split <;> split <;> omega
  unfold cellCount
  rw [Int.ediv_mul_cancel hdvd]; ring

theorem intCell_fst (dots : List Int) (old : Word) : (intCell dots old).1 = old + BitVec.ofInt 64 dots.sum := by
  have h := total_intRun dots (⟨acc24 old, 0, 0⟩, [])
  have hv := acc24_add_cellCount old
  unfold intCell ofInt
  unfold IntRun.total at h
  dsimp only at h ⊢
  rw [add_mul, ← add_assoc, h, zero_mul, add_zero, add_right_comm, hv, BitVec.ofInt_add, BitVec.ofInt_toInt]

theorem dot_eq_sum (a b : List Int) : dot a b = (List.zipWith (· * ·) a b).sum :=
  List.sum_eq_foldl.symm

/-! ## Cells by their indices -/

section
variable {o : TmmaOp} {x e i q : Nat} (he : e < o.gang) (hi : i < opRows o)

include he hi

theorem intCell_at (htag : pairTag o.pair = .int) (hx : x < destCount .int (tilesCols o.b))
    (hq : q < destCols .int (tilesCols o.b) x) : cellAt (((((runTmmaOp o).cells[x]?).getD [])[e]?).getD []) i q =
      (intCell ((List.range o.k).map fun j => dot (slabRow (opAInt o e).1 j i) (slabRow (opBInt o) j (x * 128 + q)))
        (oldCell o x e i q)).1 := by
  unfold runTmmaOp
  rw [if_pos htag]
  unfold runInt
  rw [htag]
  simp [hx, he, hi, hq, cellAt]
  rfl

theorem floatCell_at (htag : pairTag o.pair ≠ .int) (hx : x < destCount (pairTag o.pair) (tilesCols o.b))
    (hq : q < destCols (pairTag o.pair) (tilesCols o.b) x) :
    let f : EFmt := if pairTag o.pair = .fp64 then .fp64 else .fp32
    cellAt (((((runTmmaOp o).cells[x]?).getD [])[e]?).getD []) i q =
      BitVec.ofNat 64 (floatCell f (f != .fp64) (opCtl o) (opScale o) ((List.range o.k).map fun j =>
        (slabRow (opAFloat o e).1 j i, slabRow (opBFloat o) j (x * (pairTag o.pair).cols + q)))
        (oldCell o x e i q).toNat 0).1 := by
  unfold runTmmaOp
  rw [if_neg htag]
  unfold runFloat
  simp [hx, he, hi, hq, cellAt]

end

/-- The bits of a cell after its slabs, step by step (R171). -/
theorem floatCell_fst (f : EFmt) (win : Bool) (c : FpCtl) (v : FVal) (l : List (List FVal × List FVal)) (acc fl : Nat) :
    (floatCell f win c v l acc fl).1 = l.foldl (fun acc p => (floatStep f win c v acc p.1 p.2).bits) acc := by
  induction l generalizing acc fl with
  | nil => rfl
  | cons p l ih => exact ih ..

end Sys2Proof.Machine

/-! PROOFS. A floating step of `TMMA`: the sum of products in its window, and the step's one rounding (R55, R56, R171). -/

namespace Sys2Proof.Machine

/-! ## The window -/

/-- A product cut to a multiple of `t`, towards zero (R55). -/
def windowed (t p : ℚ) : ℚ := (if p < 0 then -1 else 1) * t * (⌊|p| / t⌋ : ℚ)

@[simp] theorem windowed_zero (t : ℚ) : windowed t 0 = 0 := by simp [windowed]

/-- A term of a sum of products, in the window from 2^t on where there is one. -/
def windowTerm (win : Bool) (t : Int) (x : Dy) : Dy :=
  if win && decide (x.e < t) then
    let q : Int := (x.m.natAbs / 2 ^ (t - x.e).toNat : Nat)
    ⟨if x.m < 0 then -q else q, t⟩
  else x

theorem Dy.abs_rat (x : Dy) : |x.rat| = x.m.natAbs * 2 ^ x.e := by
  unfold Dy.rat
  rw [abs_mul, abs_of_pos (by positivity : (0 : ℚ) < 2 ^ x.e), Nat.cast_natAbs, Int.cast_abs]

theorem Dy.rat_lt_zero (x : Dy) : x.rat < 0 ↔ x.m < 0 := by
  have hpos : (0 : ℚ) < 2 ^ x.e := by positivity
  unfold Dy.rat
  rw [← not_le, mul_nonneg_iff_of_pos_right hpos, not_le, Int.cast_lt_zero]

theorem rat_windowTerm (t : Int) (x : Dy) : (windowTerm true t x).rat = windowed (2 ^ t) x.rat := by
  have hpos : (0 : ℚ) < 2 ^ t := by positivity
  have hquot : |x.rat| / 2 ^ t = x.m.natAbs * 2 ^ (x.e - t) := by
    rw [x.abs_rat, mul_div_assoc, ← zpow_sub₀ two_ne_zero]
  unfold windowTerm windowed
  rw [if_congr x.rat_lt_zero rfl rfl, hquot]
  by_cases h : x.e < t
  · have hdiv : (x.m.natAbs : ℚ) * 2 ^ (x.e - t) = x.m.natAbs / (2 ^ (t - x.e).toNat : ℕ) := by
      push_cast
      rw [← zpow_natCast, Int.toNat_of_nonneg (by omega), ← neg_sub t x.e, zpow_neg, div_eq_mul_inv]
    rw [hdiv, Rat.floor_natCast_div_natCast]
    simp only [h, decide_true, Bool.and_self, if_true, Dy.rat]
    split <;> push_cast <;> ring
  · have hmul : (x.m.natAbs : ℚ) * 2 ^ (x.e - t) = (x.m.natAbs * 2 ^ (x.e - t).toNat : ℕ) := by
      push_cast
      rw [← zpow_natCast, Int.toNat_of_nonneg (by omega)]
    rw [hmul, Int.floor_natCast, Int.cast_natCast, ← hmul, mul_assoc, mul_left_comm (2 ^ t), ← zpow_add₀ two_ne_zero,
      add_sub_cancel]
    simp only [h, decide_false, Bool.and_false, Bool.false_eq_true, if_false, Dy.rat]
    rw [← mul_assoc]
    congr 1
    rw [Nat.cast_natAbs]
    split
    · next hm => rw [abs_of_neg hm]; push_cast; ring
    · next hm => rw [abs_of_nonneg (not_lt.1 hm)]; ring

/-! ## Sums -/

theorem rat_foldl_add (g : Dy → Dy) (l : List Dy) (a : Dy) :
    (l.foldl (fun a x => a.add (g x)) a).rat = a.rat + (l.map fun x => (g x).rat).sum := by
  induction l generalizing a with
  | nil => simp
  | cons x l ih => rw [List.foldl_cons, ih, Dy.rat_add, List.map_cons, List.sum_cons, add_assoc]

/-- Terms that are zero add nothing. -/
theorem sum_map_filter (l : List Dy) {g : Dy → ℚ} (h : ∀ x : Dy, x.m = 0 → g x = 0) :
    ((l.filter fun x => decide (x.m ≠ 0)).map g).sum = (l.map g).sum := by
  induction l with
  | nil => rfl
  | cons x l ih =>
    by_cases hx : x.m = 0
    · rw [List.filter_cons_of_neg (by simpa using hx), ih, List.map_cons, List.sum_cons, h x hx, zero_add]
    · rw [List.filter_cons_of_pos (by simpa using hx), List.map_cons, List.sum_cons, ih, List.map_cons, List.sum_cons]

theorem foldl_max {α : Type} (f : α → Int) (l : List α) (b : Int) : let m := l.foldl (fun m x => max m (f x)) b
    b ≤ m ∧ (∀ x ∈ l, f x ≤ m) ∧ (m = b ∨ ∃ x ∈ l, m = f x) := by
  induction l generalizing b with
  | nil => simp
  | cons y l ih =>
    obtain ⟨hb, hall, hex⟩ := ih (max b (f y))
    refine ⟨(le_max_left _ _).trans hb, List.forall_mem_cons.2 ⟨(le_max_right _ _).trans hb, hall⟩, ?_⟩
    rcases hex with h | ⟨x, hx, h⟩
    · rcases max_choice b (f y) with hm | hm
      · exact .inl (h.trans hm)
      · exact .inr ⟨y, List.mem_cons_self, h.trans hm⟩
    · exact .inr ⟨x, List.mem_cons_of_mem _ hx, h⟩

/-! ## The leading exponent -/

/-- `emax` is the exponent of the largest of some numbers, or they are all zero. -/
def leads (emax : Int) (ps : List ℚ) : Prop :=
  ((∀ p ∈ ps, |p| < 2 ^ (emax + 1)) ∧ (∃ p ∈ ps, 2 ^ emax ≤ |p|)) ∨ (∀ p ∈ ps, p = 0)

theorem topExp_bounds {x : Dy} (h : x.m ≠ 0) :
    2 ^ topExp x.m.natAbs x.e ≤ |x.rat| ∧ |x.rat| < 2 ^ (topExp x.m.natAbs x.e + 1) := by
  have hm := Int.natAbs_ne_zero.2 h
  have hpos : (0 : ℚ) < 2 ^ x.e := by positivity
  have hlow : (2 : ℚ) ^ Nat.log2 x.m.natAbs ≤ x.m.natAbs := by exact_mod_cast Nat.log2_self_le hm
  have hhigh : (x.m.natAbs : ℚ) < 2 ^ (Nat.log2 x.m.natAbs + 1) := by exact_mod_cast Nat.lt_log2_self
  rw [x.abs_rat, topExp, add_assoc, zpow_add₀ two_ne_zero, zpow_add₀ two_ne_zero, mul_comm]
  exact ⟨mul_le_mul_of_nonneg_right (by rwa [zpow_natCast]) hpos.le,
    by rw [mul_comm ((2 : ℚ) ^ x.e)]; exact mul_lt_mul_of_pos_right (by exact_mod_cast hhigh) hpos⟩

/-- The largest exponent of the terms that are not zero. -/
def maxExp (p : Dy) (l : List Dy) : Int := l.foldl (fun a x => max a (topExp x.m.natAbs x.e)) (topExp p.m.natAbs p.e)

theorem maxExp_eq {ps l : List Dy} {p : Dy} {emax : Int} (hnz : ps.filter (fun x => decide (x.m ≠ 0)) = p :: l)
    (h : leads emax (ps.map Dy.rat)) : maxExp p l = emax := by
  have hmem (x : Dy) : x ∈ p :: l ↔ x ∈ ps ∧ x.m ≠ 0 := by rw [← hnz]; simp
  obtain ⟨hp, hall, hex⟩ := foldl_max (fun x : Dy => topExp x.m.natAbs x.e) l (topExp p.m.natAbs p.e)
  have hle : ∀ x ∈ p :: l, topExp x.m.natAbs x.e ≤ maxExp p l := List.forall_mem_cons.2 ⟨hp, hall⟩
  obtain ⟨x, hx, hmax⟩ : ∃ x ∈ p :: l, maxExp p l = topExp x.m.natAbs x.e :=
    hex.elim (fun h => ⟨p, List.mem_cons_self, h⟩) fun ⟨x, hx, h⟩ => ⟨x, List.mem_cons_of_mem _ hx, h⟩
  obtain ⟨hxps, hxm⟩ := (hmem x).1 hx
  have hxb := topExp_bounds hxm
  rw [← hmax] at hxb
  rcases h with ⟨hlt, y, hy, hge⟩ | hzero
  · obtain ⟨z, hz, rfl⟩ := List.mem_map.1 hy
    have hzm : z.m ≠ 0 := by
      intro h0
      rw [(Dy.rat_eq_zero_iff z).2 h0, abs_zero] at hge
      exact absurd hge (not_le.2 (by positivity))
    have h1 := (zpow_lt_zpow_iff_right₀ (by norm_num : (1 : ℚ) < 2)).1 (hxb.1.trans_lt (hlt _ (List.mem_map_of_mem hxps)))
    have h2 := (zpow_lt_zpow_iff_right₀ (by norm_num : (1 : ℚ) < 2)).1 (hge.trans_lt (topExp_bounds hzm).2)
    have h3 := hle z ((hmem z).2 ⟨hz, hzm⟩)
    omega
  · exact absurd ((Dy.rat_eq_zero_iff x).1 (hzero _ (List.mem_map_of_mem hxps))) hxm

/-- The sum of products, in the 72-bit window or exact (R55, R56). -/
theorem rat_windowSum (win : Bool) {ps : List Dy} {emax : Int} (h : leads emax (ps.map Dy.rat)) :
    (windowSum win ps).rat =
      if win then ((ps.map Dy.rat).map (windowed (2 ^ (emax - 72)))).sum else (ps.map Dy.rat).sum := by
  have hterm (g : ℚ → ℚ) (h0 : g 0 = 0) :
      ((ps.filter fun x => decide (x.m ≠ 0)).map fun x => g x.rat).sum = ((ps.map Dy.rat).map g).sum := by
    rw [sum_map_filter ps fun x hx => by rw [(Dy.rat_eq_zero_iff x).2 hx, h0], List.map_map]; rfl
  cases hnz : ps.filter fun x => decide (x.m ≠ 0) with
  | nil =>
    have hsum : (windowSum win ps).rat = 0 := by
      unfold windowSum
      rw [hnz]; simp [Dy.rat]
    have hw := hterm (windowed (2 ^ (emax - 72))) (windowed_zero _)
    have hid := hterm id rfl
    rw [hnz] at hw hid
    rw [hsum]
    cases win
    · exact hid.trans (by rw [List.map_id]; rfl)
    · exact hw
  | cons p l =>
    have hsum : windowSum win ps =
        (p :: l).foldl (fun a x => a.add (windowTerm win (maxExp p l - 72) x)) ⟨0, maxExp p l - 72⟩ := by
      unfold windowSum
      rw [hnz]; rfl
    rw [hsum, maxExp_eq hnz h, rat_foldl_add, ← hnz]
    have hzero : (⟨0, emax - 72⟩ : Dy).rat = 0 := by simp [Dy.rat]
    rw [hzero, zero_add]
    cases win
    · exact (hterm id rfl).trans (by rw [List.map_id]; rfl)
    · simp only [rat_windowTerm]
      exact hterm _ (windowed_zero _)

/-! ## A step -/

/-- A NaN among the operands gives the canonical NaN (R171). -/
theorem floatStep_nan (f : EFmt) (win : Bool) (c : FpCtl) (v : FVal) (acc : Nat) (a b : List FVal)
    (h : (f.source c acc :: v :: (a ++ b)).any FVal.isNan = true) :
    floatStep f win c v acc a b = f.nan ((f.source c acc :: v :: (a ++ b)).any FVal.signalling) := by
  simp only [List.any_cons, List.any_append, ← Bool.or_assoc] at h ⊢
  exact if_pos h

/-- A value that is finite. -/
def FVal.finite (v : FVal) : Prop := ∃ n m e, v = .fin n m e

theorem FVal.isNan_of_finite {v : FVal} (h : v.finite) : v.isNan = false := by
  obtain ⟨n, m, e, rfl⟩ := h; rfl

theorem any_isNan_of_finite {l : List FVal} (h : ∀ y ∈ l, y.finite) : l.any FVal.isNan = false :=
  List.any_eq_false.2 fun y hy => by rw [FVal.isNan_of_finite (h y hy)]; exact Bool.false_ne_true

/-- The products of finite values are finite and exact. -/
theorem products_finite {a b : List FVal} (ha : ∀ y ∈ a, y.finite) (hb : ∀ y ∈ b, y.finite) :
    (∀ p ∈ List.zipWith mulVal a b, p.finite) ∧
      ((List.zipWith mulVal a b).map FVal.dy).map Dy.rat = List.zipWith (fun y z => y.rat * z.rat) a b := by
  induction a generalizing b with
  | nil => simp
  | cons y a ih =>
    cases b with
    | nil => simp
    | cons z b =>
      obtain ⟨hy, ha⟩ := List.forall_mem_cons.1 ha
      obtain ⟨hz, hb⟩ := List.forall_mem_cons.1 hb
      obtain ⟨hfin, hrat⟩ := ih ha hb
      obtain ⟨n, m, e, rfl⟩ := hy
      obtain ⟨k, p, g, rfl⟩ := hz
      refine ⟨List.forall_mem_cons.2 ⟨⟨_, _, _, mulVal_fin ..⟩, hfin⟩, ?_⟩
      rw [List.zipWith_cons_cons, List.zipWith_cons_cons, List.map_cons, List.map_cons, hrat, FVal.rat_dy, rat_mulVal_fin]

/-- A step of finite values: the sum of the products times the scale, added to the cell and rounded once. -/
theorem floatStep_finite (f : EFmt) (win : Bool) (c : FpCtl) {v : FVal} {acc : Nat} {a b : List FVal}
    (hx : (f.source c acc).finite) (hv : v.finite) (ha : ∀ y ∈ a, y.finite) (hb : ∀ y ∈ b, y.finite) :
    ∃ plus : Bool, floatStep f win c v acc a b =
      let r := (f.source c acc).dy.add ((windowSum win ((List.zipWith mulVal a b).map FVal.dy)).mul v.dy)
      if r.m = 0 then f.zero ((f.source c acc).isZero && (f.source c acc).neg && !plus)
      else f.roundDy { c with rm := .rne } r := by
  obtain ⟨hps, -⟩ := products_finite ha hb
  have hnone {q : FVal → Bool} (hq : ∀ n m e, q (.fin n m e) = false) : (List.zipWith mulVal a b).filter q = [] := by
    refine List.filter_eq_nil_iff.2 fun p hp => ?_
    obtain ⟨n, m, e, rfl⟩ := hps p hp
    rw [hq]; exact Bool.false_ne_true
  unfold floatStep
  dsimp only
  rw [hnone fun _ _ _ => rfl]
  obtain ⟨n, m, e, hx⟩ := hx
  obtain ⟨k, p, g, rfl⟩ := hv
  have hxn : (FVal.fin n m e).isNan = false := rfl
  have hvn : (FVal.fin k p g).isNan = false := rfl
  simp only [hx, hxn, hvn, any_isNan_of_finite ha, any_isNan_of_finite hb, any_isNan_of_finite hps, List.map_nil,
    ne_eq, not_true, decide_false, ite_self, List.any_nil, Bool.or_self, Bool.and_self, Bool.false_eq_true, if_false]
  exact ⟨_, rfl⟩

/-- The sum of products of a step: in the window that `emax` leads, or exact (R55, R56). -/
def stepSum (win : Bool) (emax : Int) (ps : List ℚ) : ℚ :=
  if win then (ps.map (windowed (2 ^ (emax - 72)))).sum else ps.sum

/-- A step of finite values adds the sum times the scale to the cell and rounds once, to nearest (R55, R56, R171). -/
theorem floatStep_rounds (f : EFmt) (win : Bool) (c : FpCtl) {v : FVal} {acc : Nat} {a b : List FVal} {emax : Int}
    (hx : (f.source c acc).finite) (hv : v.finite) (ha : ∀ y ∈ a, y.finite) (hb : ∀ y ∈ b, y.finite)
    (hlead : leads emax (List.zipWith (fun y z => y.rat * z.rat) a b)) :
    let y := (f.source c acc).rat + stepSum win emax (List.zipWith (fun y z => y.rat * z.rat) a b) * v.rat
    f.roundsRat { c with rm := .rne } y (floatStep f win c v acc a b) ∧
      (y = 0 → ((f.source c acc).isZero && (f.source c acc).neg) = false → floatStep f win c v acc a b = ⟨0, 0⟩) := by
  obtain ⟨-, hmap⟩ := products_finite ha hb
  obtain ⟨plus, hstep⟩ := floatStep_finite f win c hx hv ha hb
  have hsum := rat_windowSum win (ps := (List.zipWith mulVal a b).map FVal.dy) (hmap ▸ hlead)
  intro y
  have hy : ((f.source c acc).dy.add ((windowSum win ((List.zipWith mulVal a b).map FVal.dy)).mul v.dy)).rat = y := by
    rw [Dy.rat_add, Dy.rat_mul, FVal.rat_dy, FVal.rat_dy, hsum, hmap]; rfl
  rw [hstep, ← hy, Dy.rat_eq_zero_iff]
  dsimp only
  split
  · next h =>
    rw [(Dy.rat_eq_zero_iff _).2 h]
    exact ⟨f.roundsRat_zero _ _, fun _ hz => by rw [hz]; rfl⟩
  · next h => exact ⟨f.roundsRat_roundDy _ h, fun h0 => absurd h0 h⟩

/-- Settles O27: how a `TMMA` ends (`tmmaBody_checked`), its integer cells (`total_intRun`), its floating cells slab by slab
(`floatCell_fst`), and one step (`floatStep_rounds`). -/
theorem tmmaResults : Obligations.TmmaResults := by
  unfold Obligations.TmmaResults
  refine ⟨fun pm pr wide n fs d a b s j k hs h hc => ?_, fun o x e i q htag hx he hi hq => ?_,
    fun o x e i q => ?_, fun win c v acc a b => ⟨fun h => ?_, fun hfin _ => ?_⟩⟩
  · intro op i page chained hill hbad
    have hexec : exec (i chained) s = runRep pm (pm.len (page chained))
        (fun j _ s => tmmaBody pr wide chained n fs (pm.d j d) (pm.a j a) (pm.b j b) s) s := by
      cases chained
      · exact (show exec _ s = execTmma pm pr wide n fs d a b s from rfl)
      · exact (show exec _ s = execTmmaChained pm pr wide n fs d a b s from rfl)
    rw [hexec]
    exact ⟨fun hsent hst hfree hpass => runRep_ok hs (tmmaBody_retires h hc hill hbad hsent hst hfree hpass),
      fun hsent htrap x held hst => runRep_trap hs (tmmaBody_stuck h hc hill hbad hsent htrap hst),
      fun y hsent => runRep_trap hs (tmmaBody_timedOut h hc hill hbad hsent)⟩
  · rw [intCell_at he hi htag hx hq, intCell_fst]
    simp only [dot_eq_sum]
  · intro tag f htag hx he hi hq
    have hwin : (f != .fp64) = decide (f = .fp32) := by simp only [f]; split <;> rfl
    rw [floatCell_at he hi htag hx hq, floatCell_fst, hwin, List.foldl_map]
  · exact floatStep_nan _ win c v acc a b h
  · intro ps emax hlead
    obtain ⟨hx, hrest⟩ := List.forall_mem_cons.1 hfin
    obtain ⟨hv, hab⟩ := List.forall_mem_cons.1 hrest
    exact floatStep_rounds _ win c hx hv (fun y hy => hab y (List.mem_append_left _ hy))
      (fun y hy => hab y (List.mem_append_right _ hy)) hlead

end Sys2Proof.Machine

/-! PROOFS. The register files: a register reads as it was written (R62 to R64). -/

namespace Sys2Proof.Machine

section
variable {s : State} {n : Nat}

/-! ## A write makes a poisoned register good and leaves the files -/

@[simp] theorem healG_regs : (healG s n).ctx.regs = s.ctx.regs := by unfold healG; split <;> rfl

@[simp] theorem healF_regs : (healF s n).ctx.regs = s.ctx.regs := by unfold healF; split <;> rfl

@[simp] theorem healP_regs : (healP s n).ctx.regs = s.ctx.regs := by unfold healP; split <;> rfl

@[simp] theorem healM_regs : (healM s n).ctx.regs = s.ctx.regs := by unfold healM; split <;> rfl

/-! ## Reads of the register written -/

theorem getD_setIfInBounds_same {α : Type} {m : Nat} (v : Vector α m) (x d : α) (h : n < m) :
    ((v.setIfInBounds n x)[n]?).getD d = x := by
  rw [Vector.getElem?_setIfInBounds_self_of_lt h, Option.getD_some]

theorem rg_wg_same (v : Word) (h0 : 0 < n) (h : n < 64) : rg (wg s n v) n = v := by
  simp only [rg, wg, if_neg h0.ne', healG_regs, getD_setIfInBounds_same _ _ _ h]

theorem rf_wf_same (v : Word) (h : n < 64) : rf (wf s n v) n = v := by
  simp only [rf, wf, healF_regs, getD_setIfInBounds_same _ _ _ h]

theorem rp_wp_same (v : Bool) (h0 : 0 < n) (h : n < 8) : rp (wp s n v) n = v := by
  simp only [rp, wp, if_neg h0.ne', healP_regs, getD_setIfInBounds_same _ _ _ h]

theorem rm_wm_same (v : BitVec 128) (h0 : 0 < n) (h : n < 8) : rm (wm s n v) n = v := by
  simp only [rm, wm, if_neg h0.ne', healM_regs, getD_setIfInBounds_same _ _ _ h]

end

/-- Settles O54: the constant registers by their definitions, every other one by its read after its own write
(`rg_wg_same` and its like) and after the write of another (`rg_wg_other` and its like). -/
theorem hardWiredRegisters : Obligations.HardWiredRegisters := by
  unfold Obligations.HardWiredRegisters
  intro s v b x
  exact ⟨rfl, rfl, rfl, rfl, rfl, rfl,
    fun n h0 h => ⟨rg_wg_same v h0 h, fun _ hk => rg_wg_other v hk⟩,
    fun n h => ⟨rf_wf_same v h, fun _ hk => rf_wf_other v hk⟩,
    fun n h0 h => ⟨rp_wp_same b h0 h, fun _ hk => rp_wp_other b hk⟩,
    fun n h0 h => ⟨rm_wm_same x h0 h, fun _ hk => rm_wm_other x hk⟩⟩

end Sys2Proof.Machine

/-! PROOFS. Entry to the handler of a level, and what calls and breakpoints make of it (R74, R282, R284, R293, R294). -/

namespace Sys2Proof.Machine

/-! ## The level of the thread -/

theorem pl_lt (s : State) : s.pl < 4 := Nat.mod_lt _ (by decide)

/-! ## Reads of the trap registers and of `STATUS` -/

theorem trapSet_setTrapSet (s : State) {l n : Nat} (x : TrapSet) (hl : 1 ≤ l ∧ l ≤ 3) (hn : 1 ≤ n ∧ n ≤ 3) :
    (s.setTrapSet l x).trapSet n = if n = l then x else s.trapSet n := by
  obtain ⟨hl1, hl3⟩ := hl
  obtain ⟨hn1, hn3⟩ := hn
  interval_cases l <;> interval_cases n <;> rfl

/-- IE of a level and then the level itself are written: the level reads as written (R288). -/
theorem bits_putLevel (w : Word) (lvl b pl : Nat) (h : pl < 4) :
    bits (putBits (putBits w (3 + lvl) 1 b) 0 2 pl) 0 2 = pl := by
  rw [bits_putBits_same _ _ (by decide)]
  exact Nat.mod_eq_of_lt h

/-- The level's IE reads as written, and that of every other level as before. -/
theorem getLsbD_putLevel (w : Word) {lvl n : Nat} (b pl : Nat) (hl : lvl ≤ 3) :
    (putBits (putBits w (3 + lvl) 1 b) 0 2 pl).getLsbD (3 + n) =
      if n = lvl then b.testBit 0 else w.getLsbD (3 + n) := by
  rw [getLsbD_putBits, if_neg (by omega), getLsbD_putBits]
  split
  next h =>
    obtain rfl : n = lvl := by omega
    rw [if_pos rfl, Nat.sub_self, decide_eq_true (by omega), Bool.true_and]
  next h => rw [if_neg (by omega)]

/-! ## Entry -/

theorem causeOf_eq {ppl code : Nat} (pie : Bool) (detail : Nat) (hp : ppl < 4) (hc : code < 256) :
    causeOf ppl pie code detail =
      BitVec.ofNat 64 (ppl * 2 ^ 62 + (if pie then 2 ^ 61 else 0) + detail % 65536 * 65536 + code) := by
  rw [causeOf, Nat.mod_eq_of_lt hp, Nat.mod_eq_of_lt hc]

theorem enter_regs (lvl code detail : Nat) (tval pc : Word) (s : State) :
    (enter lvl code detail tval pc s).ctx.regs = { s.ctx.regs with pc := vecAddr (s.trapSet lvl).tvec } := by
  simp only [enter, State.setPc, setStatus_frame, setTrapSet_frame]

/-- Entry to a level writes what R284 says and nothing else. -/
theorem entered_enter {lvl code : Nat} (detail : Nat) (tval : Word) (s : State) (hl : 1 ≤ lvl ∧ lvl ≤ 3)
    (hc : code < 256) : entered lvl code detail tval s (enter lvl code detail tval s.pc s) := by
  refine ⟨rfl, bits_putLevel _ _ _ _ (by omega), ?_, ?_, fun n h1 h3 hn => ⟨?_, ?_⟩,
    ?_, ?_, ?_, ?_, ?_, ?_⟩
  · exact (getLsbD_putLevel _ 0 lvl hl.2).trans (if_pos rfl)
  · rw [← causeOf_eq _ _ (pl_lt s) hc]
    exact setTrapSet_same s lvl _ hl
  · exact (trapSet_setTrapSet s _ hl ⟨h1, h3⟩).trans (if_neg hn)
  · exact (getLsbD_putLevel _ 0 lvl hl.2).trans (if_neg hn)
  · rw [enter_regs]
    rfl
  all_goals simp only [enter_frame]

/-! ## The level a trap goes to -/

/-- What a trap takes out of progress, wherever it goes. -/
def interrupted (pc : Word) (s : State) : State :=
  { s with ctx.aux.sent := .nothing, ctx.aux.repLeft := 0, ctx.aux.resumeAt := pc, ctx.aux.passedAt := s.cyc }

section
variable {s : State} {c : Nat}

/-- A level with a handler is not passed over (R282). -/
theorem routeUp_of_hasHandler {t : Nat} (h : hasHandler t s) : routeUp s t = t := by
  by_cases h1 : t = 1
  · subst h1
    have hs : vecBase s.ctx.prv.sup.tvec ≠ 0 := h
    simp [routeUp, hs]
  · by_cases h2 : t = 2
    · subst h2
      have hh : vecBase s.ctx.prv.hyp.tvec ≠ 0 := h
      simp [routeUp, hh]
    · simp [routeUp, h1, h2]

theorem routeUp_monitor (s : State) : routeUp s 3 = 3 := rfl

/-- Without a handler at level 1, level 2 takes the trap where it has one (R282). -/
theorem routeUp_supervisor (h1 : ¬ hasHandler 1 s) (h2 : hasHandler 2 s) : routeUp s 1 = 2 := by
  simp_all [routeUp, hasHandler, State.trapSet]

variable (detail : Nat) (tval pc : Word)

/-- A trap goes to the user handler, stops the core, or enters its level, in the state without what was in progress. -/
theorem deliver_eq : deliver c detail tval pc s =
    if route s c s.pl = 0 then enterUser c detail tval pc (interrupted pc s)
    else if route s c s.pl = 3 ∧ vecBase s.ctx.prv.mon.tvec = 0 then haltCore (interrupted pc s)
    else enter (route s c s.pl) c detail tval pc (interrupted pc s) := rfl

theorem deliver_user (h : route s c s.pl = 0) :
    deliver c detail tval pc s = enterUser c detail tval pc (interrupted pc s) := by
  rw [deliver_eq, if_pos h]

theorem deliver_unhandled (h : route s c s.pl = 3) (hm : ¬ hasHandler 3 s) :
    deliver c detail tval pc s = haltCore (interrupted pc s) := by
  rw [deliver_eq, h, if_neg (by decide), if_pos ⟨rfl, not_not.1 hm⟩]

/-- A trap that goes to a level with a handler enters it. -/
theorem entered_deliver {lvl : Nat} (h : route s c s.pl = lvl) (hh : hasHandler lvl s) (hl : 1 ≤ lvl ∧ lvl ≤ 3)
    (hc : c < 256) : entered lvl c detail tval s (deliver c detail tval s.pc s) := by
  have hhalt : ¬ (lvl = 3 ∧ vecBase s.ctx.prv.mon.tvec = 0) := fun ⟨h3, hm⟩ => (h3 ▸ hh : hasHandler 3 s) hm
  rw [deliver_eq, h, if_neg (by omega), if_neg hhalt]
  exact entered_enter detail tval (interrupted s.pc s) hl hc

end

/-! ## Calls and breakpoints -/

theorem atLeast_ok {s : State} {pl : Nat} (h : pl ≤ s.pl) : atLeast s pl = .ok () := if_neg (Nat.not_lt.2 h)

section
variable (fm : Form) (imm : Nat) (s : State)

theorem exec_svc : exec (.svc fm imm) s = .next (deliver 0x0B imm 0 s.pc s) := rfl

theorem exec_hvc (h : 1 ≤ s.pl) : exec (.hvc fm imm) s = .next (deliver 0x11 imm 0 s.pc s) := by
  rw [show exec (.hvc fm imm) s = execHvc fm imm s from rfl, execHvc, runOne, atLeast_ok h]
  rfl

theorem exec_mvc (h : 1 ≤ s.pl) :
    exec (.mvc fm imm) s = .next (deliver 0x12 imm 0 s.pc (noteCall (fm.len 48) s)) := by
  rw [show exec (.mvc fm imm) s = execMvc fm imm s from rfl, execMvc, runOne, atLeast_ok h]
  rfl

theorem exec_bkpt : exec (.bkpt fm imm) s = .next (deliver 0x09 imm 0 s.pc s) := rfl

end

/-- `MVC` goes to the monitor (R294). -/
theorem route_mvc (s : State) : route s 0x12 s.pl = 3 := by
  have hpl := pl_lt s
  rw [route, show routeFirst s 0x12 = 3 from rfl, show max 3 s.pl = 3 by omega, routeUp_monitor]

/-- A breakpoint that is not delegated goes to the monitor (R282). -/
theorem routeFirst_bkpt_undelegated {s : State} (h : s.ctx.prv.mon.deleg.getLsbD 9 = false) : routeFirst s 0x09 = 3 := by
  simp only [routeFirst, h]
  rfl

/-- A breakpoint delegated down to a user handler that is ready goes to it (R74, R282). -/
theorem route_bkpt_user {s : State} (hp : s.pl = 0) (hm : s.ctx.prv.mon.deleg.getLsbD 9 = true)
    (hh : s.ctx.prv.hyp.deleg.getLsbD 9 = true) (hs : s.ctx.prv.sup.deleg.getLsbD 9 = true) (hu : userReady s = true) :
    route s 0x09 s.pl = 0 := by
  simp [route, routeFirst, routeUp, hp, hm, hh, hs, hu]

/-- Settles O30: each call delivers its code (`exec_svc` and its like) to the level that the route gives, which it enters
where that has a handler (`entered_deliver`). -/
theorem callsEnterHandlers : Obligations.CallsEnterHandlers := by
  unfold Obligations.CallsEnterHandlers
  intro fm imm s
  have hpl := pl_lt s
  refine ⟨fun h => ⟨_, exec_svc fm imm s, ?_⟩, fun h1 h => ⟨_, exec_hvc fm imm s h1, ?_⟩,
    fun h1 h => ⟨_, exec_mvc fm imm s h1, ?_⟩, fun hd h => ⟨_, exec_bkpt fm imm s, ?_⟩,
    fun hp hm hh hs hv hu => ⟨_, exec_bkpt fm imm s, ?_⟩, fun hp h1 h2 => ⟨_, exec_svc fm imm s, ?_⟩,
    fun h1 h => ⟨_, exec_mvc fm imm s h1, ?_⟩⟩
  · exact entered_deliver imm 0 (routeUp_of_hasHandler h) h (by omega) (by decide)
  · exact entered_deliver imm 0 (routeUp_of_hasHandler h) h (by omega) (by decide)
  · exact entered_deliver (s := noteCall (fm.len 48) s) imm 0 (route_mvc s) h (by decide) (by decide)
  · have hr : route s 0x09 s.pl = 3 := by
      rw [route, routeFirst_bkpt_undelegated hd, show max 3 s.pl = 3 by omega, routeUp_monitor]
    exact entered_deliver imm 0 hr h (by decide) (by decide)
  · have hready : userReady s = true := by simp [userReady, hv, hu]
    rw [deliver_user _ _ _ (route_bkpt_user hp hm hh hs hready)]
    exact ⟨hp, rfl, rfl, rfl, rfl⟩
  · have hr : route s 0x0B s.pl = 2 := by
      rw [route, show routeFirst s 0x0B = 1 from rfl, show max 1 s.pl = 1 by omega, routeUp_supervisor h1 h2]
    exact entered_deliver imm 0 hr h2 (by decide) (by decide)
  · rw [deliver_unhandled (s := noteCall (fm.len 48) s) _ _ _ (route_mvc s) h]
    exact ⟨rfl, rfl⟩

end Sys2Proof.Machine

/-! PROOFS. `TRET`: the return from a trap (R75, R295). -/

namespace Sys2Proof.Machine

/-! ## What the end of a pinned range leaves -/

/-- All but the tile and accumulator names of the current context, and what other cores hold. -/
def sameButNames (s t : State) : Prop :=
  t.cur = s.cur ∧ t.ctx.regs = s.ctx.regs ∧ t.ctx.ctl = s.ctx.ctl ∧ t.ctx.prv = s.ctx.prv ∧ t.ctx.aux = s.ctx.aux ∧
  t.mem = s.mem

theorem sameButNames_trans {s t u : State} (h : sameButNames s t) (k : sameButNames t u) : sameButNames s u := by
  obtain ⟨h1, h2, h3, h4, h5, h6⟩ := h
  obtain ⟨k1, k2, k3, k4, k5, k6⟩ := k
  exact ⟨k1.trans h1, k2.trans h2, k3.trans h3, k4.trans h4, k5.trans h5, k6.trans h6⟩

/-- A core whose names become undefined keeps its thread's other state. -/
theorem undefNames_setActive (n : Nat) (s : State) :
    undefNames n s = s ∨
      ∃ c c', activeOf s n = some c ∧ (c'.regs = c.regs ∧ c'.ctl = c.ctl ∧ c'.prv = c.prv ∧ c'.aux = c.aux) ∧
        undefNames n s = setActive s n c' := by
  unfold undefNames
  split
  next => exact .inl rfl
  next c hc =>
    dsimp only
    refine (em _).imp (fun h => if_pos h) fun h => ⟨c, _, hc, ?_, if_neg h⟩
    split <;> split <;> exact ⟨rfl, rfl, rfl, rfl⟩

theorem sameButNames_undefNames (n : Nat) (s : State) : sameButNames s (undefNames n s) := by
  obtain h | ⟨c, c', hc, ⟨hregs, hctl, hprv, haux⟩, h⟩ := undefNames_setActive n s
  · rw [h]
    exact ⟨rfl, rfl, rfl, rfl, rfl, rfl⟩
  · rw [h]
    by_cases hn : n = s.cur
    · obtain rfl : s.ctx = c := by
        rw [activeOf, if_pos hn, Option.ite_none_right_eq_some] at hc
        exact Option.some.inj hc.2
      rw [setActive, if_pos hn]
      exact ⟨rfl, hregs, hctl, hprv, haux, rfl⟩
    · simp [sameButNames, setActive, hn]

theorem sameButNames_endOverlap (s : State) : sameButNames s (endOverlap s) := by
  have hrivals : sameButNames s (undefRivals s) :=
    List.foldlRecOn (motive := sameButNames s) _ _ ⟨rfl, rfl, rfl, rfl, rfl, rfl⟩
      fun t ht n _ => sameButNames_trans ht (sameButNames_undefNames n t)
  exact sameButNames_trans hrivals (sameButNames_undefNames _ _)

/-! ## The return -/

/-- A return that retires without a STEP trap (R285). -/
def returned (t : State) : State :=
  { t with ctx.aux.sent := .nothing, ctx.aux.repLeft := 0, core.retired := some t.cyc }

theorem tretTo_user {s : State} (hp : s.pl = 0) (hstep : s.ctx.prv.status.getLsbD 7 = false) :
    tretTo s = returned (returnFromUser s) := by
  simp only [tretTo, hstep, hp, Bool.false_and, Bool.false_eq_true, if_false, if_true]
  rfl

theorem tretTo_level {s : State} (hp : 1 ≤ s.pl) : tretTo s = returned (returnFrom s.pl s) := by
  have hp0 : s.pl ≠ 0 := by omega
  simp only [tretTo, hp0, decide_false, Bool.and_false, Bool.false_eq_true, if_false]
  rfl

section
variable (fm : Form) {s : State}

theorem exec_tret_level (hp : 1 ≤ s.pl)
    (hc : clean s [.ctl 0x100, .ctl (256 * s.pl + 3), .ctl (256 * s.pl + 4)] = true) :
    exec (.tret fm) s = .next (tretTo (endOverlap s)) := by
  rw [show exec (.tret fm) s = execTret fm s from rfl, execTret, if_neg (by omega), need_ok hc]

theorem exec_tret_user (hp : s.pl = 0) (hb : s.ctx.ubusy = true) (hc : clean s [.ctl 0x005, .ctl 0x006] = true) :
    exec (.tret fm) s = .next (tretTo s) := by
  rw [show exec (.tret fm) s = execTret fm s from rfl, execTret, if_pos hp, if_neg (by simp [hb]), need_ok hc]

/-- Outside a user handler, `TRET` at user level raises PRIV (R75). -/
theorem exec_tret_unhandled (hp : s.pl = 0) (hb : s.ctx.ubusy = false) :
    exec (.tret fm) s = .next (takeTrap none (privTrap 0 s) s) := by
  rw [show exec (.tret fm) s = execTret fm s from rfl, execTret, if_pos hp, if_pos (by simp [hb])]

end

/-- What a return from a level restores, and what it leaves (R295). -/
theorem returned_returnFrom (lvl : Nat) (hl : lvl ≤ 3) (s : State) :
    let t := returned (returnFrom lvl s)
    t.pl = bits (s.trapSet lvl).cause 62 2 ∧ t.ie lvl = (s.trapSet lvl).cause.getLsbD 61 ∧
    t.pc = vecAddr (s.trapSet lvl).epc ∧
    (∀ l, 1 ≤ l → l ≤ 3 → t.trapSet l = s.trapSet l ∧ (l ≠ lvl → t.ie l = s.ie l)) ∧
    t.ctx.ctl = s.ctx.ctl ∧ { t.ctx.regs with pc := s.pc } = s.ctx.regs ∧ t.mem = s.mem := by
  have hie (n : Nat) : (returned (returnFrom lvl s)).ie n =
      if n = lvl then (bits (s.trapSet lvl).cause 61 1).testBit 0 else s.ie n := getLsbD_putLevel _ _ _ hl
  refine ⟨bits_putLevel _ _ _ _ (Nat.mod_lt _ (by decide)), ?_, rfl,
    fun l _ _ => ⟨rfl, fun h => (hie l).trans (if_neg h)⟩, rfl, rfl, rfl⟩
  rw [hie, if_pos rfl, testBit_bits]
  simp

theorem returned_returnFromUser {s : State} (hp : s.pl = 0) :
    let t := returned (returnFromUser s)
    t.ctx.ubusy = false ∧ t.pc = vecAddr s.ctx.ctl.uepc ∧ t.pl = 0 ∧ t.ctx.ctl.xstate = s.ctx.ctl.xstate := by
  refine ⟨?_, rfl, hp, rfl⟩
  exact (getLsbD_putBits_zero _ _ _ _).trans (by simp)

/-- Settles O31: where `TRET` goes (`exec_tret_level`, `exec_tret_user`, `exec_tret_unhandled`), and what the return
restores and leaves (`returned_returnFrom`, `returned_returnFromUser`). -/
theorem tretReturns : Obligations.TretReturns := by
  unfold Obligations.TretReturns
  intro fm s
  refine ⟨fun hp hc => ⟨_, exec_tret_level fm hp hc, ?_⟩, fun hp hb hstep hc => ⟨_, exec_tret_user fm hp hb hc, ?_⟩,
    fun hp hb => exec_tret_unhandled fm hp hb⟩
  · obtain ⟨-, hregs, hctl, hprv, -, hmem⟩ := sameButNames_endOverlap s
    have hpl : (endOverlap s).pl = s.pl := by rw [State.pl, hprv, State.pl]
    have htrap (l : Nat) : (endOverlap s).trapSet l = s.trapSet l := by unfold State.trapSet; rw [hprv]
    have hpc : (endOverlap s).pc = s.pc := by rw [State.pc, hregs, State.pc]
    have hie (l : Nat) : (endOverlap s).ie l = s.ie l := by rw [State.ie, hprv, State.ie]
    have hret := returned_returnFrom s.pl (by have := pl_lt s; omega) (endOverlap s)
    simp only [htrap, hie, hctl, hregs, hmem, hpc] at hret
    rw [tretTo_level (hpl ▸ hp), hpl]
    exact hret
  · rw [tretTo_user hp hstep]
    exact returned_returnFromUser hp

end Sys2Proof.Machine

/-! PROOFS. Scalar accesses to HBM that pass their checks (R110, R111, R224). -/

namespace Sys2Proof.Machine

/-! ## The checks -/

theorem isHostWin_hbm {pa : Nat} (h : offsetOf pa < hbmEnd) : isHostWin pa = false :=
  decide_eq_false (Nat.not_le.mpr (h.trans (by decide)))

theorem isDevReg_hbm {pa : Nat} (h : offsetOf pa < hbmEnd) : isDevReg pa = false :=
  decide_eq_false fun hd => absurd hd.1 (Nat.not_le.mpr h)

theorem uncached_hbm {pa : Nat} (h : offsetOf pa < hbmEnd) : uncached ⟨pa, false⟩ = false :=
  decide_eq_false (Nat.not_le.mpr h)

/-- HBM turns no access away (R315). -/
theorem devRefuses_hbm (s : State) (c : AccClass) {pa : Nat} (n : Nat) (h : offsetOf pa < hbmEnd) :
    devRefuses s c ⟨pa, false⟩ n = false := by
  simp [devRefuses, isDevReg_hbm h, isHostWin_hbm h]

theorem checkScalar_reaches {k : AccKind} {va : Word} {n pa : Nat} {s s1 : State} (c : AccClass)
    (h : reaches k va n s s1 pa) : checkScalar k c va n s = .ok (s1, ⟨pa, false⟩) := by
  obtain ⟨halign, htrans, hhbm, -, hlock, hwatch⟩ := h
  have hpage : checkPage k c va n s = .ok (s1, ⟨pa, false⟩) := by
    rw [checkPage, htrans]
    exact if_neg (by rw [devRefuses_hbm s1 c n hhbm]; decide)
  have hrange : checkRange k va n s1 = .ok () := by simp [checkRange, hlock, hwatch]
  rw [checkScalar, if_neg (not_not.2 halign), hpage]
  change (checkRange k va n s1 >>= fun _ => _) = _
  rw [hrange]
  rfl

/-! ## The bytes -/

@[simp] theorem raceBytes_length (s : State) (pa : Nat) (d : List Byte) : (raceBytes s pa d).length = d.length := by
  unfold raceBytes raceBytesBy
  split <;> simp

theorem loadPhys_line {home : Bool} {pa n : Nat} {s t : State} {v : List Byte} (hp : offsetOf pa < hbmEnd)
    (h : loadLine home pa n s = .ok (t, v, false)) : loadPhys home ⟨pa, false⟩ n s = .ok (t, raceBytes t pa v) := by
  rw [loadPhys, uncached_hbm hp, h]
  rfl

theorem loadedS_eq_signedValue {n : Nat} {v : List Byte} (h : v.length = n) : loadedS v = signedValue n v := by
  rw [loadedS, h, sext_eq_toInt]
  rfl

end Sys2Proof.Machine

/-! PROOFS. The wayside table: `LDW`, `CHKW`, and the STRIKE of a release (R73, R143 to R147). -/

namespace Sys2Proof.Machine

/-! ## Write-throughs at the home -/

/-- The current context and core are as they were. -/
def sameThread (s t : State) : Prop := t.ctx = s.ctx ∧ t.core = s.core

theorem sameThread_storeWrite (g : Word) (pa : Nat) (d : List Byte) (m : Byte) (p f : Bool) (s : State) :
    sameThread s (storeWrite g pa d m p f s) := by
  unfold storeWrite
  dsimp only
  split <;> exact ⟨rfl, rfl⟩

theorem sameThread_dropStale (ag : Agent) (line : Option Nat) (s : State) : sameThread s (dropStale ag line s) := by
  unfold dropStale
  dsimp only
  split <;> split <;> exact ⟨rfl, rfl⟩

theorem sameThread_applyWt (die line : Nat) (s : State) : sameThread s (applyWt die line s) := by
  unfold applyWt
  split
  · exact ⟨rfl, rfl⟩
  · dsimp only
    split
    · exact sameThread_dropStale _ _ _
    · exact sameThread_storeWrite _ _ _ _ _ _ _

theorem sameThread_applyWts (die line : Nat) (s : State) : sameThread s (applyWts die line s) :=
  List.foldlRecOn (motive := sameThread s) _ _ ⟨rfl, rfl⟩ fun t ⟨h1, h2⟩ _ _ =>
    have ⟨k1, k2⟩ := sameThread_applyWt die line t
    ⟨k1.trans h1, k2.trans h2⟩

theorem applyWts_nil {s : State} (die line : Nat) (h : s.coh.wts = []) : applyWts die line s = s := by
  unfold applyWts
  rw [h]
  rfl

theorem serveRequest_wts (die line : Nat) (c : Coh) : (serveRequest die line c).wts = c.wts := by
  unfold serveRequest
  split <;> rfl

theorem readToken_wts (core line : Nat) (c : Coh) : (readToken core line c).wts = c.wts := by
  unfold readToken settleTokens
  dsimp only
  split <;> exact serveRequest_wts _ _ _

/-! ## `LDW` -/

/-- The table has an entry of the line and version of a copy. -/
def noted (x : Copy) (s : State) : Bool := s.ctx.aux.wayside.any (fun y => y.line = x.line ∧ y.version = x.version)

/-- A state with an entry for a copy, PENDING, and its confirmation request (R144). -/
def withEntry (va : Word) (x : Copy) (s : State) : State :=
  { s with
    ctx.aux.wayside := s.ctx.aux.wayside ++ [⟨va, x.line, x.version, .pending⟩]
    coh.confirms := s.coh.confirms ++ [⟨s.ctx.prv.gtid, s.die, x.line, x.version, none, s.pid⟩] }

theorem addWayside_noted (va : Word) {x : Copy} {s : State} (h : noted x s = true) : addWayside va x s = s := if_pos h

theorem addWayside_new (va : Word) {x : Copy} {s : State} (h : ¬ noted x s = true) :
    addWayside va x s = withEntry va x (applyWts s.die x.line s) := if_neg h

/-- What an entry changes: the table alone, and at the home the die's own earlier write-throughs to the line. -/
theorem addWayside_frame (va : Word) (x : Copy) (s : State) :
    (addWayside va x s).ctx.aux.wayside = (if noted x s then s.ctx.aux.wayside
      else s.ctx.aux.wayside ++ [⟨va, x.line, x.version, .pending⟩]) ∧
    { (addWayside va x s).ctx with aux.wayside := s.ctx.aux.wayside } = s.ctx ∧ (addWayside va x s).core = s.core ∧
    (s.coh.wts = [] → (addWayside va x s).mem = s.mem) := by
  obtain ⟨hctx, hcore⟩ := sameThread_applyWts s.die x.line s
  by_cases h : noted x s = true
  · rw [addWayside_noted va h, if_pos h]
    exact ⟨rfl, rfl, rfl, fun _ => rfl⟩
  · rw [addWayside_new va h, if_neg h]
    refine ⟨?_, ?_, hcore, fun hw => ?_⟩
    · rw [withEntry, hctx]
    · simp only [withEntry, hctx]
    · rw [withEntry, applyWts_nil _ _ hw]

/-- The state in which a wayside load has read its copy. -/
def waysideRead (pa n : Nat) (x : Copy) (s : State) : State :=
  heard pa n { s with coh := readToken s.cur x.line s.coh }

theorem waysideRead_wts {pa n : Nat} {x : Copy} {s : State} (h : s.coh.wts = []) :
    (waysideRead pa n x s).coh.wts = [] := by
  simp only [waysideRead, heard, noteRead, readToken_wts, h, List.map_nil]

section
variable {pa n : Nat} {s : State} {x : Copy} (va : Word) (hp : offsetOf pa < hbmEnd)
include hp

/-- A copy that has a token and is good is read and noted. -/
theorem loadWayside_copy (h : waysideCopy pa n s = some x) (ht : tokensHeld s.coh s.cur x.line = false)
    (hpoison : x.poison = false) (hmsgs : msgsPast s.ctx.prv.gtid pa n s = true) :
    let t := addWayside va x (waysideRead pa n x s)
    loadWayside va ⟨pa, false⟩ n s = .ok (t, raceBytes t pa ((x.data.drop (pa % 128)).take n)) := by
  simp [loadWayside, uncached_hbm hp, h, ht, hpoison, hmsgs, waysideRead]

/-- Without a copy to read, `LDW` is a load (R143). -/
theorem loadWayside_none (h : waysideCopy pa n s = none) : loadWayside va ⟨pa, false⟩ n s =
    loadPhys false ⟨pa, false⟩ n s := by
  simp [loadWayside, uncached_hbm hp, h]

end

theorem Form.a_zero (fm : Form) (x : Nat) : fm.a 0 x = x := ite_self _

theorem Form.i_zero (fm : Form) (v : Int) : fm.i 0 v = v := by simp [Form.i]

/-- An `LDW` that passes its checks writes the value of the bytes it has read. -/
theorem exec_ldw {fm : Form} {w : Wd} {d a pa : Nat} {imm : Int} {s s1 t : State} {v : List Byte}
    (hc : clean s [.g a] = true) (hr : reaches .load (rg s a + BitVec.ofInt 64 (imm * w.bytes)) w.bytes s s1 pa)
    (hl : loadWayside (rg s a + BitVec.ofInt 64 (imm * w.bytes)) ⟨pa, false⟩ w.bytes s1 = .ok (t, v))
    (hv : v.length = w.bytes) :
    exec (.ldw fm w d a imm) s = retires (fm.len 7) (wg t d (signedValue w.bytes v)) := by
  have hva : eaImm fm 0 a imm w.bytes s = rg s a + BitVec.ofInt 64 (imm * w.bytes) := by
    rw [eaImm, Form.a_zero, Form.i_zero]
    rfl
  rw [show exec (.ldw fm w d a imm) s = execLdw fm w d a imm s from rfl, execLdw]
  refine runOne_ok ?_
  simp only [need_ok hc, hva]
  change (checkScalar .load .ldw _ w.bytes s >>= fun _ => _) = _
  rw [checkScalar_reaches .ldw hr]
  change (loadWayside _ _ w.bytes s1 >>= fun _ => _) = _
  rw [hl, ← loadedS_eq_signedValue hv]
  rfl

/-! ## `CHKW` -/

/-- A PC-relative target, from the base word (R80). -/
theorem relTarget_eq (fm : Form) (page : Nat) (imm : Int) (s : State) :
    relTarget fm page imm s = s.pc + BitVec.ofNat 64 (fm.len page) - 2 + 2 * BitVec.ofInt 64 imm := by
  have hlen : 2 ≤ fm.len page := by unfold Form.len; omega
  have hbase : BitVec.ofNat 64 (fm.len page - 2) = BitVec.ofNat 64 (fm.len page) - 2 := by
    obtain ⟨k, hk⟩ := Nat.exists_eq_add_of_le hlen
    rw [hk, Nat.add_sub_cancel_left, BitVec.ofNat_add]
    simp
  rw [relTarget, baseAddr, hbase, ofInt, BitVec.ofInt_mul]
  simp only [BitVec.sub_eq_add_neg, BitVec.add_assoc]
  rfl

theorem exec_chkw {fm : Form} {imm : Int} {s : State} (h : waysidePending s.ctx = false) :
    exec (.chkw fm imm) s = .next (retireTo
      (if waysideStruck s.ctx = [] then returnAddr fm 7 s else relTarget fm 7 imm s) (freeWayside s)) := by
  rw [show exec (.chkw fm imm) s = execChkw fm imm s from rfl, execChkw]
  refine runTo_ok ?_
  rw [if_neg (by simp [h])]
  by_cases hs : waysideStruck s.ctx = []
  · rw [if_neg (not_not.2 hs), if_pos hs]
  · rw [if_pos hs, if_neg hs]

/-! ## STRIKE -/

/-- The least address of some struck entries. -/
def leastVa (l : List Wayside) (a : Word) : Word := l.foldl (fun a x => if x.va.toNat < a.toNat then x.va else a) a

theorem leastVa_spec (l : List Wayside) (a : Word) :
    (leastVa l a = a ∨ leastVa l a ∈ l.map (·.va)) ∧ (leastVa l a).toNat ≤ a.toNat ∧
      ∀ y ∈ l.map (·.va), (leastVa l a).toNat ≤ y.toNat := by
  induction l generalizing a with
  | nil => simp [leastVa]
  | cons x l ih =>
    have hcons : leastVa (x :: l) a = leastVa l (if x.va.toNat < a.toNat then x.va else a) := rfl
    rw [hcons, List.map_cons, List.forall_mem_cons, List.mem_cons]
    split
    next hlt =>
      obtain ⟨hmem, hle, hall⟩ := ih x.va
      exact ⟨.inr hmem, hle.trans hlt.le, hle, hall⟩
    next hge =>
      obtain ⟨hmem, hle, hall⟩ := ih a
      exact ⟨hmem.imp_right .inr, hle, hle.trans (Nat.le_of_not_lt hge), hall⟩

theorem waysideRule_struck {scope : Nat} {s : State} {w : Wayside} {l : List Wayside} (hs : 2 ≤ scope)
    (hp : waysidePending s.ctx = false) (h : waysideStruck s.ctx = w :: l) :
    waysideRule scope s = raise 0x10 (waysideStruck s.ctx).length (leastVa l w.va) s := by
  rw [waysideRule, if_neg (by omega), hp, h]
  rfl

/-- A release that finds struck entries raises STRIKE before anything else (R147). -/
theorem exec_fence_struck (fm : Form) {sc : Scope} {s t : State} {x : Trap}
    (h : waysideRule sc.code s = .error (.trap x t)) :
    exec (.fence fm .release sc) s = .next (takeTrap none x t) ∧
    exec (.fence fm .sc sc) s = .next (takeTrap none x t) := by
  have hfence (k : Fk) : exec (.fence fm k sc) s = execFence fm k sc s := rfl
  rw [hfence, hfence]
  constructor <;> refine runOne_trap ?_ <;> simp only [releaseAt, h] <;> rfl

/-- Settles O12: an `LDW` by what its load gives (`exec_ldw`, with `loadWayside_copy` and `loadWayside_none`), `CHKW` by
`exec_chkw`, and STRIKE by `exec_fence_struck`. -/
theorem waysideResults : Obligations.WaysideResults := by
  unfold Obligations.WaysideResults
  intro fm w d a imm s va
  refine ⟨fun hc s1 pa hr => ?_, fun hp => ?_, fun sc hsc hp hstruck => ?_⟩
  · have ⟨_, _, hhbm, hline, _⟩ := hr
    refine ⟨fun x hcopy ht hpoison hmsgs hlen => ?_, fun hcopy t v hload hv => ?_⟩
    · have hv : ((x.data.drop (pa % 128)).take w.bytes).length = w.bytes := by
        rw [List.length_take, List.length_drop]
        omega
      obtain ⟨htable, hctx, hcore, hmem⟩ := addWayside_frame va x (waysideRead pa w.bytes x s1)
      exact ⟨_, exec_ldw hc hr (loadWayside_copy va hhbm hcopy ht hpoison hmsgs) (by rw [raceBytes_length, hv]),
        htable, hctx, hcore, fun hw => hmem (waysideRead_wts hw)⟩
    · have hl := (loadWayside_none va hhbm hcopy).trans (loadPhys_line hhbm hload)
      exact exec_ldw hc hr hl (by rw [raceBytes_length, hv])
  · rw [exec_chkw hp, relTarget_eq]
    rfl
  · obtain ⟨y, l, h⟩ := List.exists_cons_of_ne_nil hstruck
    have hstrike := exec_fence_struck fm (waysideRule_struck hsc hp h)
    obtain ⟨hmem, hle, hall⟩ := leastVa_spec l y.va
    refine ⟨leastVa l y.va, ?_, ?_, hstrike⟩ <;> rw [h, List.map_cons]
    · exact List.mem_cons.2 hmem
    · exact List.forall_mem_cons.2 ⟨hle, hall⟩

end Sys2Proof.Machine

/-! PROOFS. Encoding and decoding: the words of a chain come apart into its parts, these read back as the encoding, and
the opcode map gives its instruction (R78 to R91). -/

namespace Sys2Proof

/-! ## The words of a chain -/

/-- The parts of a chain fit the bits their words hold (R78, R81). -/
structure Raw.Fits (r : Raw) : Prop where
  rep : ∀ q, r.rep = some q → 1 ≤ q.n ∧ q.n ≤ 64 ∧ q.mask < 16
  pv : ∀ p, r.pv = some p → p.1 < 64 ∧ p.2 < 16
  g : ∀ p, r.g = some p → p.1 < 16 ∧ p.2.1 < 8 ∧ p.2.2 < 8
  xval : r.xval < 1024 ^ r.nx
  major : r.major < 15
  d : r.d < 16
  a : r.a < 16
  b : r.b < 16

theorem prefixWord_parts {k p : Nat} (hk : k < 4) (hp : p < 1024) :
    isPrefix (prefixWord k p) = true ∧ prefixKind (prefixWord k p) = k ∧ prefixPayload (prefixWord k p) = p := by
  have hw : (prefixWord k p).toNat = 61440 + k * 1024 + p := by
    rw [prefixWord, BitVec.toNat_ofNat, Nat.mod_eq_of_lt (by omega)]
  simp only [isPrefix, prefixKind, prefixPayload, hw, decide_eq_true_eq]
  omega

/-- The chain does not start with a prefix word of kind `k` or more, so in the order of R82 none of those follows. -/
def startsBelow (k : Nat) (ws : List HWord) : Prop := ∀ w ∈ ws.head?, isPrefix w = true → prefixKind w < k

theorem startsBelow_prefixWord {k p m : Nat} (ws : List HWord) (hk : k < 4) (hp : p < 1024) (h : k < m) :
    startsBelow m (prefixWord k p :: ws) := by
  rintro w ⟨⟩ -
  rwa [(prefixWord_parts hk hp).2.1]

theorem startsBelow_mono {k m : Nat} {ws : List HWord} (h : startsBelow k ws) (hk : k ≤ m) : startsBelow m ws :=
  fun w hw hp => (h w hw hp).trans_le hk

theorem not_kind_of_startsBelow {k : Nat} {w : HWord} {ws : List HWord} (h : startsBelow k (w :: ws)) :
    ¬ (isPrefix w && decide (prefixKind w = k)) = true := by
  simp only [Bool.and_eq_true, decide_eq_true_eq]
  exact fun ⟨hp, hk⟩ => (hk ▸ h w rfl hp).false

/-- The `PFX.N` word of a repeat. -/
def repWords : Option Rep → List HWord
  | none => []
  | some q => [prefixWord 3 ((q.n - 1) * 16 + q.mask)]

/-- The `PFX.P` word of a page and variant. -/
def pageWords : Option (Nat × Nat) → List HWord
  | none => []
  | some p => [prefixWord 2 (p.1 * 16 + p.2)]

/-- The `PFX.G` word of the high bits of the register fields. -/
def highWords : Option (Nat × Nat × Nat) → List HWord
  | none => []
  | some p => [prefixWord 1 (p.1 * 64 + p.2.1 * 8 + p.2.2)]

/-- The base word of a chain (R78). -/
def Raw.baseWord (r : Raw) : HWord := BitVec.ofNat 16 (r.major * 4096 + r.d * 256 + r.a * 16 + r.b)

theorem Raw.words_eq (r : Raw) :
    r.words = repWords r.rep ++ (pageWords r.pv ++ (highWords r.g ++ (xWords r.nx r.xval ++ [r.baseWord]))) := by
  obtain ⟨rep, pv, g, -⟩ := r
  cases rep <;> cases pv <;> cases g <;> simp [Raw.words, repWords, pageWords, highWords, Raw.baseWord]

theorem takeN_repWords {rep : Option Rep} {ws : List HWord}
    (hr : ∀ q, rep = some q → 1 ≤ q.n ∧ q.n ≤ 64 ∧ q.mask < 16) (h : startsBelow 3 ws) :
    takeN (repWords rep ++ ws) = (rep, ws) := by
  cases rep with
  | none =>
    cases ws with
    | nil => rfl
    | cons w ws => exact if_neg (not_kind_of_startsBelow h)
  | some q =>
    obtain ⟨n, mask⟩ := q
    obtain ⟨h1, h64, hm⟩ : 1 ≤ n ∧ n ≤ 64 ∧ mask < 16 := hr _ rfl
    obtain ⟨hp, hk, hv⟩ := prefixWord_parts (k := 3) (p := (n - 1) * 16 + mask) (by omega) (by omega)
    have hn : ((n - 1) * 16 + mask) / 16 + 1 = n ∧ ((n - 1) * 16 + mask) % 16 = mask := by omega
    simp [repWords, takeN, hp, hk, hv, hn]

theorem takeP_pageWords {pv : Option (Nat × Nat)} {ws : List HWord} (hr : ∀ p, pv = some p → p.1 < 64 ∧ p.2 < 16)
    (h : startsBelow 2 ws) : takeP (pageWords pv ++ ws) = (pv, ws) := by
  cases pv with
  | none =>
    cases ws with
    | nil => rfl
    | cons w ws => exact if_neg (not_kind_of_startsBelow h)
  | some q =>
    obtain ⟨p, v⟩ := q
    obtain ⟨h64, h16⟩ : p < 64 ∧ v < 16 := hr _ rfl
    obtain ⟨hp, hk, hv⟩ := prefixWord_parts (k := 2) (p := p * 16 + v) (by omega) (by omega)
    have hn : (p * 16 + v) / 16 = p ∧ (p * 16 + v) % 16 = v := by omega
    simp [pageWords, takeP, hp, hk, hv, hn]

theorem takeG_highWords {g : Option (Nat × Nat × Nat)} {ws : List HWord}
    (hr : ∀ p, g = some p → p.1 < 16 ∧ p.2.1 < 8 ∧ p.2.2 < 8) (h : startsBelow 1 ws) :
    takeG (highWords g ++ ws) = (g, ws) := by
  cases g with
  | none =>
    cases ws with
    | nil => rfl
    | cons w ws => exact if_neg (not_kind_of_startsBelow h)
  | some q =>
    obtain ⟨d, a, b⟩ := q
    obtain ⟨hd, ha, hb⟩ : d < 16 ∧ a < 8 ∧ b < 8 := hr _ rfl
    obtain ⟨hp, hk, hv⟩ := prefixWord_parts (k := 1) (p := d * 64 + a * 8 + b) (by omega) (by omega)
    have hn : (d * 64 + a * 8 + b) / 64 = d ∧ (d * 64 + a * 8 + b) / 8 % 8 = a ∧ (d * 64 + a * 8 + b) % 8 = b := by
      omega
    simp [highWords, takeG, hp, hk, hv, hn]

theorem takeX_xWords (m x n v : Nat) (ws : List HWord) (hv : v < 1024 ^ n) :
    takeX m x (xWords n v ++ ws) = takeX (m + n) (x * 1024 ^ n + v) ws := by
  induction n generalizing v ws with
  | zero =>
    obtain rfl : v = 0 := by simpa using hv
    simp [xWords]
  | succ n ih =>
    obtain ⟨hp, hk, hv'⟩ := prefixWord_parts (k := 0) (p := v % 1024) (by omega) (Nat.mod_lt _ (by omega))
    rw [xWords, List.append_assoc, ih _ _ (by rw [pow_succ] at hv; omega), List.singleton_append, takeX]
    simp only [hp, hk, hv', Bool.true_and, decide_true, if_true]
    congr 1
    rw [pow_succ]
    have := Nat.div_add_mod v 1024
    linarith

theorem takeX_base (m x : Nat) {w : HWord} (hw : isPrefix w = false) : takeX m x [w] = ((m, x), [w]) := by
  simp [takeX, hw]

theorem startsBelow_base {w : HWord} (hw : isPrefix w = false) (k : Nat) : startsBelow k [w] := by
  rintro _ ⟨⟩ hp
  rw [hw] at hp
  cases hp

theorem startsBelow_xWords {n v : Nat} {ws : List HWord} (h : startsBelow 1 ws) : startsBelow 1 (xWords n v ++ ws) := by
  induction n generalizing v ws with
  | zero => exact h
  | succ n ih =>
    rw [xWords, List.append_assoc]
    exact ih (startsBelow_prefixWord ws (by omega) (Nat.mod_lt _ (by omega)) (by omega))

theorem startsBelow_highWords {g : Option (Nat × Nat × Nat)} {ws : List HWord}
    (hr : ∀ p, g = some p → p.1 < 16 ∧ p.2.1 < 8 ∧ p.2.2 < 8) (h : startsBelow 1 ws) :
    startsBelow 2 (highWords g ++ ws) := by
  cases g with
  | none => exact startsBelow_mono h (by omega)
  | some p =>
    obtain ⟨hd, ha, hb⟩ := hr p rfl
    exact startsBelow_prefixWord ws (by omega) (by omega) (by omega)

theorem startsBelow_pageWords {pv : Option (Nat × Nat)} {ws : List HWord}
    (hr : ∀ p, pv = some p → p.1 < 64 ∧ p.2 < 16) (h : startsBelow 2 ws) : startsBelow 3 (pageWords pv ++ ws) := by
  cases pv with
  | none => exact startsBelow_mono h (by omega)
  | some p =>
    obtain ⟨hp, hv⟩ := hr p rfl
    exact startsBelow_prefixWord ws (by omega) (by omega) (by omega)

theorem Raw.toNat_baseWord {r : Raw} (h : r.Fits) :
    r.baseWord.toNat = r.major * 4096 + r.d * 256 + r.a * 16 + r.b := by
  obtain ⟨-, -, -, -, hm, hd, ha, hb⟩ := h
  rw [Raw.baseWord, BitVec.toNat_ofNat, Nat.mod_eq_of_lt (by omega)]

theorem Raw.baseWord_parts {r : Raw} (h : r.Fits) :
    isPrefix r.baseWord = false ∧ r.baseWord.toNat / 4096 = r.major ∧ r.baseWord.toNat / 256 % 16 = r.d ∧
      r.baseWord.toNat / 16 % 16 = r.a ∧ r.baseWord.toNat % 16 = r.b := by
  rw [isPrefix, toNat_baseWord h, decide_eq_false_iff_not]
  obtain ⟨-, -, -, -, hm, hd, ha, hb⟩ := h
  omega

/-- The words of a chain come apart into what they were made of (R78, R81 to R83). -/
theorem parse_words {r : Raw} (h : r.Fits) : parse r.words = .ok r := by
  obtain ⟨hpre, hmajor, hd, ha, hb⟩ := Raw.baseWord_parts h
  have hx := startsBelow_xWords (n := r.nx) (v := r.xval) (startsBelow_base hpre 1)
  have hg := startsBelow_highWords h.g hx
  simp [parse, Raw.words_eq, takeN_repWords h.rep (startsBelow_pageWords h.pv hg), takeP_pageWords h.pv hg,
    takeG_highWords h.g hx, takeX_xWords _ _ _ _ _ h.xval, takeX_base _ _ hpre, hpre, hmajor, hd, ha, hb]

/-! ## The fields of an encoding -/

/-- A chain whose base word has format `f` gives this immediate back (R79, R83). -/
def Raw.readsImm (r : Raw) (f : WFmt) : ImmSpec → Prop
  | .none => True
  | .signed v => r.immS f = v
  | .unsigned v _ => r.immU f = v
  | .payload v _ => r.immU f = v

/-- What a chain gives back of an encoding: the form, the place in the opcode map, and the fields and the immediate that
its format holds. -/
structure Raw.Reads (r : Raw) (e : Enc) : Prop where
  form : r.form = e.fm
  nx : r.nx = e.fm.nx
  page : r.page = e.page
  variant : r.variant = e.variant
  major : r.major = e.major
  d : e.fmt ≠ .J → e.fmt ≠ .N → r.fd = e.d.val
  a : e.fmt = .R ∨ e.fmt = .I → r.fa = e.a.val
  b : e.fmt = .R → r.fb = e.b.val
  imm : r.readsImm e.fmt e.imm

theorem FKind.limit_lt (k : FKind) : k.limit < 128 := by cases k <;> decide

theorem Fld.lt_of_ok {g : Bool} {x : Fld} (h : x.ok g = true) : x.val < 128 ∧ (g = false → x.val < 16) := by
  simp only [Fld.ok, Bool.and_eq_true, Bool.or_eq_true, decide_eq_true_eq] at h
  obtain ⟨hg, hk⟩ := h
  refine ⟨?_, fun hf => hg.resolve_left (by simp [hf])⟩
  split at hk
  · exact of_decide_eq_true hk
  · exact (of_decide_eq_true hk).trans_lt (FKind.limit_lt _)

theorem immPattern_lt {imm : ImmSpec} {w nx : Nat} (h : imm.ok w nx 0 = true) : immPattern w imm < 2 ^ w := by
  have hw : 0 < 2 ^ w := by positivity
  cases imm with
  | none => exact hw
  | signed v =>
    have hw : (0 : Int) < 2 ^ w := by positivity
    have := Int.emod_lt_of_pos v hw
    rw [immPattern]
    zify
    rwa [Int.toNat_of_nonneg (Int.emod_nonneg _ hw.ne')]
  | unsigned v ok =>
    obtain ⟨hv, -⟩ : v < 2 ^ w ∧ ok v = true := by simpa [ImmSpec.ok] using h
    exact hv
  | payload v m =>
    obtain ⟨-, hv⟩ : nx ≤ m ∧ v < 2 ^ w := by simpa [ImmSpec.ok] using h
    exact hv

theorem Enc.xval_raw (e : Enc) : e.raw.xval = immPattern e.immWidth e.imm / 2 ^ e.fmt.immBits := by
  obtain ⟨fm, page, major, variant, fmt, -⟩ := e
  cases fmt <;> simp [Enc.raw, WFmt.immBits]

theorem Enc.immU_raw (e : Enc) : e.raw.immU e.fmt = immPattern e.immWidth e.imm := by
  obtain ⟨fm, page, major, variant, fmt, -⟩ := e
  cases fmt <;> simp only [Enc.raw, Raw.immU] <;> omega

theorem Enc.immS_raw {e : Enc} {v : Int} (hv : e.imm = .signed v) (h : e.imm.ok e.immWidth e.fm.nx 0 = true) :
    e.raw.immS e.fmt = v := by
  have hn : e.raw.nx = e.fm.nx := rfl
  rw [Raw.immS, Enc.immU_raw, hn, ← Enc.immWidth, hv, immPattern]
  simp only [hv, ImmSpec.ok, Nat.cast_zero, add_zero, decide_eq_true_eq] at h
  rcases le_or_gt 0 v with hv0 | hv0
  · rw [Int.emod_eq_of_lt hv0 (by omega)]
    rw [if_pos (by zify; omega), Int.toNat_of_nonneg hv0]
  · have hm : v % 2 ^ e.immWidth = v + 2 ^ e.immWidth := by
      rw [← Int.add_emod_right, Int.emod_eq_of_lt (by omega) (by omega)]
    rw [hm, if_neg (by zify; omega), Int.toNat_of_nonneg (by omega), add_sub_cancel_right]

/-- The part of `PFX.G` that goes with a field, or nothing where there is no `PFX.G` (R84). -/
theorem Enc.high_raw (e : Enc) (f : Nat × Nat × Nat → Nat) :
    (e.raw.g.map f).getD 0 = if e.fm.g then f (e.d.val / 16, e.a.val / 16, e.b.val / 16) else 0 := by
  simp only [Enc.raw]
  split <;> rfl

theorem Fld.high_add_low {g : Bool} {x : Fld} (h : x.ok g = true) :
    (if g then x.val / 16 else 0) * 16 + x.val % 16 = x.val := by
  obtain ⟨-, hlt⟩ := Fld.lt_of_ok h
  cases g with
  | true => exact Nat.div_add_mod' x.val 16
  | false => simpa using hlt rfl

theorem Enc.fd_raw {e : Enc} (h : e.d.ok e.fm.g = true) (hJ : e.fmt ≠ .J) (hN : e.fmt ≠ .N) : e.raw.fd = e.d.val := by
  have hd : e.raw.d = e.d.val % 16 := by
    unfold Enc.raw
    cases hf : e.fmt with
    | J => exact absurd hf hJ
    | N => exact absurd hf hN
    | _ => rfl
  rw [Raw.fd, Enc.high_raw, hd, Fld.high_add_low h]

theorem Enc.fa_raw {e : Enc} (h : e.a.ok e.fm.g = true) (hf : e.fmt = .R ∨ e.fmt = .I) : e.raw.fa = e.a.val := by
  have ha : e.raw.a = e.a.val % 16 := by rcases hf with hf | hf <;> simp [Enc.raw, hf]
  rw [Raw.fa, Enc.high_raw, ha, Fld.high_add_low h]

theorem Enc.fb_raw {e : Enc} (h : e.b.ok e.fm.g = true) (hf : e.fmt = .R) : e.raw.fb = e.b.val := by
  have hb : e.raw.b = e.b.val % 16 := by simp [Enc.raw, hf]
  rw [Raw.fb, Enc.high_raw, hb, Fld.high_add_low h]

theorem Enc.form_raw (e : Enc) : e.raw.form = e.fm := by
  obtain ⟨⟨rep, g, nx⟩, -⟩ := e
  cases g <;> rfl

theorem Enc.page_raw (e : Enc) : e.raw.page = e.page := by
  simp only [Raw.page, Enc.raw]
  split <;> simp_all

theorem Enc.variant_raw {e : Enc} (h : e.page = 0 → e.variant = 0) : e.raw.variant = e.variant := by
  simp only [Raw.variant, Enc.raw]
  split
  next hp => exact (h hp).symm
  next => rfl

theorem Enc.imm_raw {e : Enc} (h : e.imm.ok e.immWidth e.fm.nx 0 = true) : e.raw.readsImm e.fmt e.imm := by
  have hU := e.immU_raw
  cases hi : e.imm with
  | none => trivial
  | signed v => exact Enc.immS_raw hi h
  | unsigned v ok => rwa [hi] at hU
  | payload v m => rwa [hi] at hU

/-- The checks of R88 item 2, one by one. -/
theorem Enc.wellFormed_iff (e : Enc) : e.wellFormed = true ↔
    e.ok = true ∧ (e.page < 64 ∧ e.major < 14 ∧ e.variant < 16 ∧ (e.page = 0 → e.variant = 0)) ∧ e.prefixes ≤ 4 ∧
    (e.fm.g = true → e.fmt ≠ .J ∧ e.fmt ≠ .N ∧ e.fmt ≠ .C) ∧
    (e.d.ok e.fm.g = true ∧ e.a.ok e.fm.g = true ∧ e.b.ok e.fm.g = true) ∧
    e.imm.ok e.immWidth e.fm.nx 0 = true ∧ e.repOk = true := by
  simp only [Enc.wellFormed, Bool.and_eq_true, Bool.or_eq_true, Bool.not_eq_true', decide_eq_true_eq, bne_iff_ne]
  cases e.fm.g <;> simp [and_assoc]

theorem Enc.rep_of_repOk {e : Enc} (h : e.repOk = true) (q : Rep) (hq : e.fm.rep = some q) :
    1 ≤ q.n ∧ q.n ≤ 64 ∧ q.mask < 16 := by
  simp only [Enc.repOk, hq, Bool.and_eq_true, decide_eq_true_eq] at h
  obtain ⟨⟨⟨⟨⟨-, hn⟩, -⟩, -⟩, -⟩, -⟩ := h
  exact hn

theorem Enc.raw_fits {e : Enc} (h : e.wellFormed = true) : e.raw.Fits := by
  obtain ⟨-, ⟨hpage, hmajor, hvariant, -⟩, -, -, ⟨hd, ha, hb⟩, himm, hrep⟩ := e.wellFormed_iff.1 h
  have hlt := immPattern_lt himm
  have hd := (Fld.lt_of_ok hd).1
  have ha := (Fld.lt_of_ok ha).1
  have hb := (Fld.lt_of_ok hb).1
  refine ⟨Enc.rep_of_repOk hrep, fun p hp => ?_, fun p hp => ?_, ?_, show e.major < 15 by omega, ?_, ?_, ?_⟩
  · simp only [Enc.raw] at hp
    split at hp <;> cases hp
    exact ⟨hpage, hvariant⟩
  · simp only [Enc.raw] at hp
    split at hp <;> cases hp
    dsimp only
    omega
  · rw [Enc.xval_raw, Nat.div_lt_iff_lt_mul (by positivity)]
    calc _ < 2 ^ (e.fmt.immBits + 10 * e.fm.nx) := hlt
      _ = 1024 ^ e.fm.nx * 2 ^ e.fmt.immBits := by rw [pow_add, pow_mul, mul_comm]; norm_num
  all_goals
    obtain ⟨fm, page, major, variant, fmt, -⟩ := e
    cases fmt <;> simp only [Enc.raw] <;> omega

theorem Enc.raw_reads {e : Enc} (h : e.wellFormed = true) : e.raw.Reads e := by
  obtain ⟨-, ⟨-, -, -, hzero⟩, -, -, ⟨hd, ha, hb⟩, himm, -⟩ := e.wellFormed_iff.1 h
  exact ⟨e.form_raw, rfl, e.page_raw, Enc.variant_raw hzero, rfl, Enc.fd_raw hd, Enc.fa_raw ha, Enc.fb_raw hb,
    Enc.imm_raw himm⟩

/-! ## Codes of the classes (R89) -/

@[simp] theorem Width.ofCode_code (x : Width) : Width.ofCode x.code = some x := by cases x <;> rfl

@[simp] theorem Ex.ofCode_code (x : Ex) : Ex.ofCode x.code = some x := by cases x <;> rfl

@[simp] theorem Cc.ofCode_code (x : Cc) : Cc.ofCode x.code = some x := by cases x <;> rfl

@[simp] theorem Sz.ofCode_code (x : Sz) : Sz.ofCode x.code = some x := by cases x <;> rfl

@[simp] theorem Wd.ofCode_code (x : Wd) : Wd.ofCode x.code = some x := by cases x <;> rfl

@[simp] theorem Scope.ofCode_code (x : Scope) : Scope.ofCode x.code = some x := by cases x <;> rfl

@[simp] theorem Fs.ofCode_code (x : Fs) : Fs.ofCode x.code = some x := by cases x <;> rfl

@[simp] theorem Pf.ofCode_code (x : Pf) : Pf.ofCode x.code = some x := by cases x <;> rfl

@[simp] theorem Sb.ofCode_code (x : Sb) : Sb.ofCode x.code = some x := by cases x <;> rfl

@[simp] theorem Order.ofCode_code (x : Order) : Order.ofCode x.code = some x := by cases x <;> rfl

@[simp] theorem Fk.ofCode_code (x : Fk) : Fk.ofCode x.code = some x := by cases x <;> rfl

@[simp] theorem Fmt.ofCode_code (x : Fmt) : Fmt.ofCode x.code = some x := by cases x <;> rfl

@[simp] theorem Fcc.ofCode_code (x : Fcc) : Fcc.ofCode x.code = some x := by cases x <;> rfl

@[simp] theorem IW.ofCode_code (x : IW) : IW.ofCode x.code = some x := by cases x <;> rfl

@[simp] theorem Vcc.ofCode_code (x : Vcc) : Vcc.ofCode x.code = some x := by cases x <;> rfl

@[simp] theorem Rop.ofCode_code (x : Rop) : Rop.ofCode x.code = some x := by cases x <;> rfl

@[simp] theorem Mop.ofCode_code (x : Mop) : Mop.ofCode x.code = some x := by cases x <;> rfl

@[simp] theorem Tag.ofCode_code (x : Tag) : Tag.ofCode x.code = some x := by cases x <;> rfl

@[simp] theorem Pair.ofCode_code (x : Pair) : Pair.ofCode x.code = some x := by cases x <;> rfl

@[simp] theorem OFmt.ofCode_code (x : OFmt) : OFmt.ofCode x.code = some x := by cases x <;> rfl

@[simp] theorem SxK.ofCode_code (x : SxK) : SxK.ofCode x.code = some x := by cases x <;> rfl

@[simp] theorem Mc.ofCode_code (x : Mc) : Mc.ofCode x.code = some x := by cases x <;> rfl

@[simp] theorem ZeroKind.ofCode_code (x : ZeroKind) : ZeroKind.ofCode x.code = some x := by
  rcases x with _ | t
  · rfl
  · cases t <;> rfl

@[simp] theorem MovKind.ofCode_code (x : MovKind) : MovKind.ofCode x.code = some x := by
  rcases x with _ | _ | t
  · rfl
  · rfl
  · cases t <;> rfl

/-! ## The parts of variants and payloads (R89, R158, R206) -/

@[simp] theorem Wd.code_mod_two (z : Wd) : z.code % 2 = z.code := by cases z <;> rfl

@[simp] theorem Wd.code_mod_four (z : Wd) : z.code % 4 = z.code := by cases z <;> rfl

@[simp] theorem Wd.add_code_div_two (z : Wd) (n : Nat) : (n * 2 + z.code) / 2 = n := by
  cases z <;> simp only [Wd.code] <;> omega

@[simp] theorem Wd.add_code_div_four (z : Wd) (n : Nat) : (n * 4 + z.code) / 4 = n := by
  cases z <;> simp only [Wd.code] <;> omega

@[simp] theorem Fmt.code_mod_four (f : Fmt) : f.code % 4 = f.code := by cases f <;> rfl

@[simp] theorem Fmt.add_code_div_four (f : Fmt) (n : Nat) : (n * 4 + f.code) / 4 = n := by
  cases f <;> simp only [Fmt.code] <;> omega

theorem Tag.code_lt (x : Tag) : x.code < 8 := by cases x <;> decide

theorem Rop.code_lt (x : Rop) : x.code < 8 := by cases x <;> decide

theorem Vcc.code_lt (x : Vcc) : x.code < 8 := by cases x <;> decide

theorem variantBit_parts {k : Nat} (z : Bool) (h : k < 8) :
    decide (((if z = true then 8 else 0) + k) / 8 = 1) = z ∧ ((if z = true then 8 else 0) + k) % 8 = k := by
  cases z <;> simp <;> omega

theorem scope_of_payload {fm : Form} {sc : Scope} (h : fm.nx = 0 → sc = .sys) :
    (if fm.nx = 0 then some Scope.sys else Scope.ofCode (scopePayload fm sc)) = some sc := by
  by_cases h0 : fm.nx = 0 <;> simp [scopePayload, h0, h]

theorem tmmaPayload_parts (wide : Bool) {k fs : Nat} (hk : 1 ≤ k ∧ k ≤ 4) (hf : fs < 64) :
    decide (tmmaPayload wide k fs / 256 % 2 = 1) = wide ∧ tmmaPayload wide k fs / 64 % 4 + 1 = k ∧
      tmmaPayload wide k fs % 64 = fs := by
  cases wide <;>
    simp only [tmmaPayload, if_true, reduceCtorEq, if_false, decide_eq_true_eq, decide_eq_false_iff_not] <;> omega

theorem rowsPayload_parts {rows bytes : Nat} (hr : 1 ≤ rows ∧ rows ≤ 64)
    (hb : 8 ≤ bytes ∧ bytes ≤ 128 ∧ bytes % 8 = 0) :
    64 - rowsPayload rows bytes % 64 = rows ∧ 128 - 8 * (rowsPayload rows bytes / 64 % 16) = bytes := by
  simp only [rowsPayload]
  omega

theorem drainPayload_parts (free : Bool) {fs : Nat} (h : fs < 64) :
    decide (((if free = true then 64 else 0) + fs) / 64 % 2 = 1) = free ∧
      ((if free = true then 64 else 0) + fs) % 64 = fs := by
  cases free <;> simp only [if_true, reduceCtorEq, if_false, decide_eq_true_eq, decide_eq_false_iff_not] <;> omega

theorem OFmt.code_lt (o : OFmt) : o.code < 16 := by cases o <;> decide

theorem tdraintPayload_parts (o2 : OFmt) (free : Bool) {fs ft : Nat} (hf : fs < 64) (ht : ft < 64) :
    tdraintPayload o2 free fs ft / 128 % 16 = o2.code ∧ decide (tdraintPayload o2 free fs ft / 64 % 2 = 1) = free ∧
      tdraintPayload o2 free fs ft % 64 = fs ∧ tdraintPayload o2 free fs ft / 2048 % 64 = ft := by
  have := o2.code_lt
  cases free <;>
    simp only [tdraintPayload, if_true, reduceCtorEq, if_false, decide_eq_true_eq, decide_eq_false_iff_not] <;> omega

/-- A variant of one bit. -/
theorem ite_one_le (b : Bool) : (if b = true then 1 else 0) ≤ 1 := by cases b <;> decide

theorem tldsVariant_parts (b : Bool) (sx : SxK) :
    (if b = true then 4 else 0) + sx.code < 8 ∧ decide (((if b = true then 4 else 0) + sx.code) / 4 = 1) = b ∧
      ((if b = true then 4 else 0) + sx.code) % 4 = sx.code := by
  cases b <;> cases sx <;> decide

/-! ## The opcode map -/

/-- What an instruction's encoding reads back as builds the instruction. The cases go by what has to be taken apart:
nothing but class codes; the scope of `LDA`, `STL` and the atomics; the payload of the scalar floating-point
instructions; the high bit of the vector variants; and the variants and payloads of the tile instructions. -/
theorem build_of_reads {i : Instr} {e : Enc} {r : Raw} (hi : i.enc = some e) (hok : e.ok = true) (hr : r.Reads e) :
    build r = some i := by
  obtain ⟨hform, hnx, hpage, hvar, hmajor, hd, ha, hb, himm⟩ := hr
  cases i with
  | addP0 | subP0 | addiP0 | andiP0 | shliP0 | movP0 | liP0 | ldP0 | stP0 | fldP0 | brP0 | brcP0 | jalP0 | jalrP0
    | add | sub | mul | mulh | mulhu | div | divu | rem | remu | min | max | minu | maxu | addi | and | andi | andn
    | or | ori | xor | xori | shl | shli | shr | shri | sra | srai | rotr | rotri | clz | ctz | popc | rev8 | sext
    | zext | bfx | bfi | lea | li | mov | sel | cmp | cmpi | pand | por | pxor | pnot | pmov | br | brc | jal | jalr
    | ld | ldz | st | ldx | stx | ldp | stp | fld | fst | pref | sbst | ldw | chkw | fence | waitne | yield | tspawn
    | texit | tbar | tinfo | gtidrd | rdcyc | rdtime | fmvg | gmvf | vwin | vred | vmlog | vmpopc | tzero | tmov
    | tgang | tsync | tctlSeed | tctlRd | tctlClr | tqryRows | tqryAcc | tqryCell | tqryFree | tqryGang | tqryCorr
    | tqryUnck | xcopy | xcopy2 | xgath | xscat | xfill | xcollAr | xcollAg | xcollRs | xcollBc | xdrain | xcancel
    | svc | hvc | mvc | tret | srd | swr | sset | sclr | tlbinv | tlbsync | cflush | cinv | cwb | wfi | halt | ctxsw
    | ctxld | ctxsp | wpins | wpclr | bkpt | dump | pgmig | pgcmp =>
    cases hi
    simp only [Raw.readsImm] at himm
    simp [build, buildPage0, buildPage1, buildPage2, buildPage3, buildPage4, buildPage5, buildPage6, buildPage7,
      buildPage9, buildPage11, buildPage16, buildPage19, buildPage20, buildPage24, buildPage28, buildPage48,
      buildPage49, buildPage50, *]
  | lda | stl =>
    cases hi
    simp only [Raw.readsImm] at himm
    simp [build, buildPage6, *]
  | amoadd | amoand | amoor | amoxor | amomin | amomax | amominu | amomaxu | amoswap | amocas | amofadd =>
    cases hi
    replace himm : r.xval = _ := himm
    have hsc := scope_of_payload (of_decide_eq_true hok)
    simp [build, buildPage8, *]
  | fadd | fsub | fmul | fdiv | fsqrt | fma | fms | fnma | fmin | fmax | fabs | fneg | fsgnj | fcmp | fclass | fcvt
    | fcvti | icvtf | frcpa | frsqa =>
    cases hi
    replace himm : r.xval = _ := himm
    obtain ⟨-, hrx⟩ := Bool.and_eq_true_iff.1 hok
    have hrx := of_decide_eq_true hrx
    simp [build, buildPage10, buildPage11, buildPage12, *]
  | vadd | vsub | vmul | vfma | vfms | vmin | vmax | vabs | vneg | vand | vor | vxor | vshl | vshr | vbcast | vbcl
    | vperm | vrot | vmerge | vrcpa | vrsqa | vexp2a | vlog2a | vld | vst | vlds | vsts | vgath | vscat | vmovg
    | vmovf | vmov =>
    cases hi
    simp only [Raw.readsImm] at himm
    have hk := of_decide_eq_true hok
    simp [build, buildPage16, buildPage17, buildPage18, buildPage20, buildPage21, buildPage22, buildPage23,
      variantBit_parts, *]
  | vcvt | vscan | vcmp =>
    cases hi
    simp [build, buildPage17, buildPage19, buildPage20, variantBit_parts, Tag.code_lt, Rop.code_lt, Vcc.code_lt, *]
  | tmma fm pr wide k fs | tmmaChained fm pr wide k fs =>
    cases hi
    replace himm : r.xval = _ := himm
    obtain ⟨hk1, hk4, hfs, -⟩ := of_decide_eq_true hok
    simp [build, buildPage24, buildPage25, tmmaPayload_parts wide ⟨hk1, hk4⟩ hfs, *]
  | tld fm b0 rows bytes =>
    cases hi
    replace himm : r.xval = _ := himm
    obtain ⟨h1, h64, hbytes⟩ := of_decide_eq_true hok
    simp [build, buildPage24, ite_one_le, rowsPayload_parts ⟨h1, h64⟩ hbytes, *]
  | tsto fm rows bytes =>
    cases hi
    replace himm : r.xval = _ := himm
    obtain ⟨h1, h64, hbytes⟩ := of_decide_eq_true hok
    simp [build, buildPage24, rowsPayload_parts ⟨h1, h64⟩ hbytes, *]
  | tlds fm b0 sx rows =>
    cases hi
    replace himm : r.xval = _ := himm
    obtain ⟨h1, h64⟩ := of_decide_eq_true hok
    simp [build, buildPage24, tldsVariant_parts, show 64 - (64 - rows) = rows by omega, show 64 - rows < 64 by omega, *]
  | tdrain fm o free fs =>
    cases hi
    replace himm : r.xval = _ := himm
    obtain ⟨hfs, -⟩ := of_decide_eq_true hok
    simp [build, buildPage24, drainPayload_parts free hfs, *]
  | tdraint fm o o2 free fs ft =>
    cases hi
    replace himm : r.xval = _ := himm
    obtain ⟨hfs, hft, -⟩ := of_decide_eq_true hok
    simp [build, buildPage24, tdraintPayload_parts o2 free hfs hft, *]
  | tfree | xwarm =>
    cases hi
    simp [build, buildPage24, buildPage28, ite_one_le, *]
  | _ => cases hi

theorem Enc.pv_raw {e : Enc} (h : e.raw.pv.isSome = true) : e.raw.page ≠ 0 := by
  rw [Enc.page_raw]
  rintro h0
  simp [Enc.raw, h0] at h

/-- What an encoding's fields build is what they decode to, where the instruction has that encoding. -/
theorem decodeRaw_raw {i : Instr} {e : Enc} (hi : i.enc = some e) (hw : e.wellFormed = true) :
    decodeRaw e.raw = .ok i := by
  obtain ⟨hok, ⟨-, hmajor, -⟩, -⟩ := e.wellFormed_iff.1 hw
  have hbuild := build_of_reads hi hok (Enc.raw_reads hw)
  have hraw : i.raw = some e.raw := by rw [Instr.raw, hi]; rfl
  have hiw : i.wellFormed = true := by rw [Instr.wellFormed, hi]; exact hw
  have hpage : ¬ (e.raw.pv.isSome && decide (e.raw.page = 0)) = true := by
    simpa using Enc.pv_raw
  rw [decodeRaw, if_neg (show ¬ e.raw.major = 14 from fun h : e.major = 14 => by omega), if_neg hpage, hbuild]
  simp [hraw, hiw]

/-- Settles O59: the words of a well-formed encoding come apart into its fields (`parse_words`), these read back as the
encoding (`Enc.raw_reads`), and what they read back as builds the instruction (`build_of_reads`). -/
theorem decodeInvertsEncode : Obligations.DecodeInvertsEncode := by
  unfold Obligations.DecodeInvertsEncode
  intro i hwf henc
  obtain ⟨e, he⟩ := Option.isSome_iff_exists.1 henc
  have hw : e.wellFormed = true := by rwa [Instr.wellFormed, he] at hwf
  have henc : encode i = e.raw.words := by rw [encode, Instr.raw, he]; rfl
  rw [decode, henc, parse_words (Enc.raw_fits hw)]
  exact decodeRaw_raw he hw

end Sys2Proof

/-! PROOFS. Pages: expansion, the translation of a frame and hand-over (R96, R250, R324 to R327, R371). -/

namespace Sys2Proof.Machine

/-! ## Bytes that an agent has written -/

theorem memWriteMasked_append (m : Byte) (d e : List Byte) (l : List Host.Cell) (a : Nat) :
    memWriteMasked m l a (d ++ e) = memWriteMasked m (memWriteMasked m l a d) (a + d.length) e := by
  induction d generalizing l a with
  | nil => rfl
  | cons b d ih =>
    rw [List.cons_append, memWriteMasked, ih, memWriteMasked, List.length_cons, Nat.add_assoc, Nat.add_comm 1]

/-- One piece of an agent's write (R242). -/
def writePiece (s : State) (p : Nat × List Byte) : State :=
  homeWrite p.1 p.2 0xFF false (decide (p.2.length = 128)) { s with coh := dropCopy s.die (lineOf p.1) s.coh }

/-- The pieces of a run of bytes write it whole. -/
theorem mem_foldl_writePiece {fuel pa : Nat} {d : List Byte} (s : State) (h : pa % 128 + d.length ≤ 128 * fuel) :
    ((linePieces fuel pa d).foldl writePiece s).mem = memWriteMasked 0xFF s.mem pa d := by
  induction fuel generalizing pa d s with
  | zero =>
    obtain rfl : d = [] := List.length_eq_zero_iff.1 (by omega)
    rfl
  | succ fuel ih =>
    rw [linePieces]
    split
    next hd => rw [hd]; rfl
    next hd =>
      let n := 128 - pa % 128
      have hmod : (pa + n) % 128 = 0 := by omega
      have hrest := ih (pa := pa + n) (d := d.drop n) (writePiece s (pa, d.take n))
        (by rw [hmod, List.length_drop]; omega)
      rw [List.foldl_cons, hrest]
      rcases le_or_gt n d.length with hn | hn
      · calc _ = memWriteMasked 0xFF s.mem pa (d.take n ++ d.drop n) := by
              rw [memWriteMasked_append, List.length_take, Nat.min_eq_left hn]
              rfl
          _ = _ := by rw [List.take_append_drop]
      · rw [List.drop_eq_nil_of_le hn.le, List.take_of_length_le hn.le]
        rfl

/-- An agent's write writes its bytes from its address up. -/
theorem agentWrite_mem (pa : Nat) (d : List Byte) (s : State) :
    (agentWrite pa d s).mem = memWriteMasked 0xFF s.mem pa d :=
  mem_foldl_writePiece s (by omega)

theorem memReadN_agentWrite (pa : Nat) (d : List Byte) {s : State} (h : s.memOk) :
    memReadN (agentWrite pa d s).mem pa d.length = d := by
  rw [agentWrite_mem]
  exact memReadN_memWriteMasked_full d s.mem pa h

/-! ## Poison -/

theorem poisonedLine_poisonLine (c : Coh) (l k : Nat) :
    poisonedLine (poisonLine l c) k = true ↔ k = l ∨ poisonedLine c k = true := by
  unfold poisonLine
  split
  next h =>
    refine ⟨.inr, ?_⟩
    rintro (rfl | h')
    · rw [poisonedLine, h, Bool.true_or]
    · exact h'
  next h => simp [poisonedLine, or_assoc]

theorem poisonedLine_poisonPage (pa : Nat) (bad : List Nat) (c : Coh) (k : Nat) :
    poisonedLine (poisonPage pa bad c) k = true ↔ (∃ i ∈ bad, k = lineOf pa + i) ∨ poisonedLine c k = true := by
  induction bad generalizing c with
  | nil => simp [poisonPage]
  | cons i bad ih =>
    have hcons : poisonPage pa (i :: bad) c = poisonPage pa bad (poisonLine (lineOf pa + i) c) := rfl
    rw [hcons, ih, poisonedLine_poisonLine, List.exists_mem_cons_iff, or_left_comm, or_assoc]

/-! ## Expansion -/

/-- What is left of a compressed page once it has been expanded: its handle is free (R326). -/
theorem zipped_expandInto {e : Word} {frame : Nat} {s t : State} (h : expandInto e frame s = some t) :
    ∀ z ∈ t.xlat.zipped, z.handle ≠ bits e 12 40 := by
  unfold expandInto at h
  split at h
  · cases h
  next z hz =>
    have hhandle : z.handle = bits e 12 40 := by simpa using List.find?_some hz
    cases h
    intro x hx
    have hne : x.handle ≠ z.handle := by simpa using (List.mem_filter.1 hx).2
    rwa [hhandle] at hne

theorem xlat_foldl_homeWrite (w : State → Nat → List Byte) (l : List Nat) (s : State) :
    (l.foldl (fun s a => homeWrite a (w s a) 0xFF false false s) s).xlat = s.xlat :=
  List.foldlRecOn (motive := fun t : State => t.xlat = s.xlat) _ _ rfl fun _ ht _ _ => ht

theorem zipped_expandPage {e : Word} {a : Nat} {s t : State} (h : expandPage e a s = some t) :
    ∀ z ∈ t.xlat.zipped, z.handle ≠ bits e 12 40 := by
  unfold expandPage at h
  split at h
  · cases h
  split at h
  · cases h
  next f s1 _ =>
    obtain ⟨s2, h2, rfl⟩ := Option.map_eq_some_iff.1 h
    rw [xlat_foldl_homeWrite]
    exact zipped_expandInto h2

theorem exec_pageExpansion_idle {va : Word} {s : State} (h : s.core.act = false ∨ s.modes.getLsbD 1 = true) :
    exec (.pageExpansion va) s = .next s := by
  rw [show exec (.pageExpansion va) s = execPageExpansion va s from rfl, execPageExpansion, if_pos]
  rcases h with h | h <;> simp [h]

theorem exec_pageExpansion {va : Word} {lvl a : Nat} {e : Word} {s t : State} (hact : s.core.act = true)
    (hmode : s.modes.getLsbD 1 = false) (hheap : heapAddr s.ctx.space va.toNat = false)
    (hwalk : walk s s.ctx.space va.toNat = .compressed lvl e a) (h : expandPage e a s = some t) :
    exec (.pageExpansion va) s = .next t := by
  rw [show exec (.pageExpansion va) s = execPageExpansion va s from rfl, execPageExpansion, hact, hmode, hheap,
    if_neg (by decide), hwalk]
  simp [h]

/-! ## Translation of frames -/

/-- The native form of a frame's bytes, as memory holds them (R96). -/
def nativeBytes (frame : Nat) (s : State) : List Byte := translateFrame (memReadN s.mem (frame * 4096) 4096)

theorem makeNative_native {frame : Nat} {s : State} (h : frame ∈ s.xlat.native) : makeNative frame s = s :=
  if_pos (List.contains_iff_mem.2 h)

/-- A frame that is brought into native form holds the translated bytes, and its poisoned lines stay so (R96, R371). -/
theorem makeNative_portable {frame : Nat} {s : State} (h : frame ∉ s.xlat.native) :
    frame ∈ (makeNative frame s).xlat.native ∧
    (s.memOk → memReadN (makeNative frame s).mem (frame * 4096) (nativeBytes frame s).length = nativeBytes frame s) ∧
    ∀ l, lineFrame l = frame → linePoisoned s l = true → poisonedLine (makeNative frame s).coh l = true := by
  rw [makeNative, if_neg (by simpa using h)]
  refine ⟨List.mem_cons_self, fun hok => memReadN_agentWrite _ _ hok, fun l hl hp => ?_⟩
  refine (poisonedLine_poisonPage _ _ _ _).2 (.inl ⟨l % 32, ?_, ?_⟩)
  · have hline : frame * 32 + l % 32 = l := by
      rw [← hl, lineFrame]
      omega
    simp only [List.mem_filter, List.mem_range, hline]
    exact ⟨Nat.mod_lt _ (by decide), hp⟩
  · rw [← hl, lineFrame, lineOf]
    omega

theorem exec_frameTranslation_idle {frame : Nat} {s : State}
    (h : s.modes.getLsbD 6 = true ∨ s.core.halted = true ∨ fetchesFrom s frame = false) :
    exec (.frameTranslation frame) s = .next s := by
  rw [show exec (.frameTranslation frame) s = execFrameTranslation frame s from rfl, execFrameTranslation, if_pos]
  rcases h with h | h | h <;> simp [h]

theorem exec_frameTranslation {frame : Nat} {s : State} (hmode : s.modes.getLsbD 6 = false) (hact : s.core.act = true)
    (hrun : s.core.halted = false) (hlocal : localMem s (frame * 4096) = true) (hfetch : fetchesFrom s frame = true) :
    exec (.frameTranslation frame) s = .next (makeNative frame s) := by
  rw [show exec (.frameTranslation frame) s = execFrameTranslation frame s from rfl, execFrameTranslation,
    hmode, hact, hrun, hlocal, hfetch, if_neg (by decide)]

/-! ## Hand-over -/

theorem ctx_settleWts (s : State) : (settleWts s).ctx = s.ctx := by
  refine List.foldlRecOn (motive := fun t : State => t.ctx = s.ctx) _ _ rfl fun t ht w _ => ?_
  obtain ⟨hctx, -⟩ := sameThread_applyWt w.die w.line t
  rw [← ht, ← hctx]
  unfold ackWt
  split <;> rfl

theorem sameButMemory_ringTake {r : Ring} {s t : State} {a : Nat} (h : ringTake r s = some (a, t)) :
    sameButMemory s t := by
  unfold ringTake at h
  dsimp only at h
  split at h
  · cases h
  · simp only [Option.some.injEq, Prod.mk.injEq] at h
    obtain ⟨-, rfl⟩ := h
    exact agentWrite_sameButMemory _ _ _

/-- A function by structural recursion on a number, one call unfolded: `b` holds the calls below it. -/
theorem brecOn_succ {α β : Type} (F : (n : Nat) → Nat.below (motive := fun _ => α → β) n → α → β) (n : Nat) :
    ∃ b : Nat.below (motive := fun _ => α → β) (n + 1),
      (∀ x, Nat.brecOn (motive := fun _ => α → β) n F x = b.1 x) ∧
      ∀ x, Nat.brecOn (motive := fun _ => α → β) (n + 1) F x = F (n + 1) b x :=
  ⟨(Nat.brecOn.go (motive := fun _ => α → β) (n + 1) F).2, fun _ => rfl, fun _ => rfl⟩

/-- The equation of `takeFrames`. It goes through `brecOn_succ`, with `ringTake` and the later frames held fixed: by
unfolding, the kernel would compute how many addresses a ring of unknown content has free, modulo 2^64. -/
theorem takeFrames_succ (n : Nat) (s : State) :
    takeFrames (n + 1) s = s.xlat.pool.bind fun r => (ringTake r s).bind fun x => takeFrames n x.2 := by
  obtain ⟨b, hb, hsucc⟩ := brecOn_succ takeFrames._f n
  obtain ⟨take, htake⟩ : ∃ take, take = ringTake := ⟨_, rfl⟩
  obtain ⟨rest, hrest⟩ : ∃ rest, rest = takeFrames n := ⟨_, rfl⟩
  have hr (x : State) : b.1 x = rest x := by
    rw [hrest]
    delta takeFrames
    exact (hb x).symm
  rw [← hrest, ← htake]
  delta takeFrames
  rw [hsucc]
  delta takeFrames._f
  dsimp only
  rw [← htake]
  clear hb hsucc htake hrest
  cases s.xlat.pool with
  | none => rfl
  | some r =>
    rw [Option.bind_some]
    dsimp only
    cases take r s with
    | none => rfl
    | some x => exact hr x.2

theorem ctx_takeFrames {n : Nat} {s t : State} (h : takeFrames n s = some t) : t.ctx = s.ctx := by
  induction n generalizing s with
  | zero =>
    cases h
    rfl
  | succ n ih =>
    rw [takeFrames_succ, Option.bind_eq_some_iff] at h
    obtain ⟨r, -, h⟩ := h
    obtain ⟨⟨a, s1⟩, hr, h⟩ := Option.bind_eq_some_iff.1 h
    obtain ⟨_, _, hs⟩ := sameButMemory_ringTake hr
    rw [ih h, hs]

theorem not_inFrames_one {first f : Nat} : (!inFrames first 1 f) = true ↔ f ≠ first := by
  simp only [inFrames, Bool.not_eq_true', decide_eq_false_iff_not]
  omega

/-- A frame that changes hands has the new owner, and no copy of it and no other hand-over is left (R250). -/
theorem handOver_one (frame pkg : Nat) (s : State) :
    ownerOf (handOver frame 1 pkg s) (frame * 4096) = pkg ∧ (handOver frame 1 pkg s).ctx = s.ctx ∧
    (∀ x ∈ (handOver frame 1 pkg s).coh.copies, lineFrame x.line ≠ frame) ∧
    ∀ e ∈ (handOver frame 1 pkg s).xlat.handOvers, e.1 ≠ frame := by
  refine ⟨?_, ctx_settleWts s, fun x hx => not_inFrames_one.1 (List.mem_filter.1 hx).2,
    fun e he => not_inFrames_one.1 (List.mem_filter.1 he).2⟩
  have hframe : frameOf (frame * 4096) = frame := Nat.mul_div_cancel _ (by decide)
  have hkept (l : List (Nat × Nat)) :
      (l.filter (fun e => !inFrames frame 1 e.1)).find? (fun e => e.1 = frame) = none :=
    List.find?_eq_none.2 fun e he => by simpa using not_inFrames_one.1 (List.mem_filter.1 he).2
  simp only [ownerOf, handOver, hframe]
  split
  next ho => rw [List.nil_append, hkept]; exact ho
  next => simp

theorem exec_handOver_dead {frame pkg : Nat} {s : State} (h : s.rel.deadPkgs.contains pkg = true) :
    exec (.handOver frame pkg) s = .next s := by
  rw [show exec (.handOver frame pkg) s = execHandOver frame pkg s from rfl, execHandOver, if_pos h]

/-- A hand-over that is under way, or of a frame that another package owns, completes; one to this package after it has
taken a frame of its pool (R250, R324). -/
theorem exec_handOver {frame pkg : Nat} {s : State} (hdead : s.rel.deadPkgs.contains pkg = false)
    (h : s.xlat.handOvers.contains (frame, pkg) = true ∨
      (ownerOf s (frame * 4096) ≠ s.pkg ∧ (pkg ≠ s.pkg ∨ (takeFrames 1 s).isSome = true))) :
    ∃ u, u.ctx = s.ctx ∧ exec (.handOver frame pkg) s = .next (handOver frame 1 pkg u) := by
  rw [show exec (.handOver frame pkg) s = execHandOver frame pkg s from rfl, execHandOver, hdead, if_neg (by decide)]
  split
  · exact ⟨s, rfl, rfl⟩
  next hno =>
    obtain ⟨howner, hroom⟩ := h.resolve_left hno
    rw [if_neg howner]
    split
    next hpkg =>
      obtain ⟨u, hu⟩ := Option.isSome_iff_exists.1 (hroom.resolve_left (not_not.2 hpkg))
      exact ⟨u, ctx_takeFrames hu, by rw [hu]; rfl⟩
    · exact ⟨s, rfl, rfl⟩

theorem exec_handOver_idle {frame pkg : Nat} {s : State} (hno : s.xlat.handOvers.contains (frame, pkg) = false)
    (h : ownerOf s (frame * 4096) = s.pkg ∨ (pkg = s.pkg ∧ (takeFrames 1 s).isSome = false)) :
    exec (.handOver frame pkg) s = .next s := by
  rw [show exec (.handOver frame pkg) s = execHandOver frame pkg s from rfl, execHandOver, hno]
  split
  · rfl
  rw [if_neg (by decide)]
  split
  · rfl
  next howner =>
    obtain ⟨hpkg, hroom⟩ := h.resolve_left howner
    rw [if_pos hpkg, Option.isSome_eq_false_iff.1 hroom |> Option.isNone_iff_eq_none.1]
    rfl

/-- Settles O46: expansion by `zipped_expandPage`, the translation of a frame by `makeNative_portable`, and a hand-over
by `exec_handOver` and what `handOver_one` says it leaves. -/
theorem pageEvents : Obligations.PageEvents := by
  unfold Obligations.PageEvents
  intro va frame pkg s
  refine ⟨exec_pageExpansion_idle, fun lvl e a t hact hmode hheap hwalk ht => ?_, exec_frameTranslation_idle,
    fun hmode hact hrun hlocal hfetch => ?_, exec_handOver_dead, fun hdead h => ?_, exec_handOver_idle⟩
  · exact ⟨exec_pageExpansion hact hmode hheap hwalk ht, zipped_expandPage ht⟩
  · refine ⟨_, exec_frameTranslation hmode hact hrun hlocal hfetch, ?_⟩
    by_cases hn : frame ∈ s.xlat.native
    · rw [makeNative_native hn]
      exact ⟨hn, fun _ => rfl, fun h => absurd hn h, fun h => absurd hn h⟩
    · obtain ⟨hnative, hbytes, hpoison⟩ := makeNative_portable hn
      exact ⟨hnative, fun h => absurd h hn, fun _ => hbytes, fun _ => hpoison⟩
  · obtain ⟨u, hctx, hu⟩ := exec_handOver hdead h
    obtain ⟨howner, hkept, hcopies, hleft⟩ := handOver_one frame pkg u
    exact ⟨_, hu, howner, hkept.trans hctx, hcopies, hleft⟩

end Sys2Proof.Machine

/-! PROOFS. Asynchronous causes, interrupts, faults of the fetch and messages (R87, R88, R283, R284, R301, R302, R321,
R329 to R333, R340, R425). -/

namespace Sys2Proof.Machine

/-! ## What a trap leaves of progress and of the causes pending -/

/-- A trap leaves the progress fields, their owner and the fault noted as they are. -/
theorem deliver_progress (c d : Nat) (v pc : Word) (s : State) :
    (deliver c d v pc s).ctx.ctl.xstate = s.ctx.ctl.xstate ∧ (deliver c d v pc s).ctx.ctl.owner = s.ctx.ctl.owner ∧
    (deliver c d v pc s).ctx.ctl.lastValid = s.ctx.ctl.lastValid ∧
    (deliver c d v pc s).ctx.ctl.lastVa = s.ctx.ctl.lastVa ∧
    (deliver c d v pc s).ctx.ctl.lastPc = s.ctx.ctl.lastPc := by
  rw [deliver_eq]
  split
  next => exact ⟨rfl, rfl, rfl, rfl, rfl⟩
  next =>
    split
    next => exact ⟨rfl, rfl, rfl, rfl, rfl⟩
    next =>
      rw [show (enter _ c d v pc (interrupted pc s)).ctx.ctl = s.ctx.ctl by simp only [enter_frame, interrupted]]
      exact ⟨rfl, rfl, rfl, rfl, rfl⟩

theorem deliver_pending (c d : Nat) (v pc : Word) (s : State) :
    (deliver c d v pc s).ctx.prv.pending = s.ctx.prv.pending := by
  have h := congrArg Priv.pending (deliver_prv c d v pc s).1
  exact h

/-! ## The level a cause routes to -/

theorem routeUp_le {s : State} {t : Nat} (h : t ≤ 3) : routeUp s t ≤ 3 := by
  unfold routeUp
  dsimp only
  split_ifs <;> omega

theorem routeFirst_le (s : State) (c : Nat) : routeFirst s c ≤ 3 := by
  unfold routeFirst
  split_ifs <;> decide

theorem route_le (s : State) (c : Nat) : route s c s.pl ≤ 3 :=
  routeUp_le (max_le (routeFirst_le s c) (Nat.le_of_lt_succ (pl_lt s)))

theorem preemptLevel_le (s : State) (entry : Word) : preemptLevel s entry ≤ 3 := by
  refine routeUp_le (max_le (max_le (routeFirst_le s _) (Nat.le_of_lt_succ (pl_lt s))) ?_)
  split <;> decide

/-- A cause enters the level it goes to. -/
theorem entered_of_goes {s : State} {c l : Nat} (detail : Nat) (tval : Word)
    (h : l = route s c s.pl ∧ 1 ≤ l ∧ hasHandler l s) (hc : c < 256) :
    entered l c detail tval s (deliver c detail tval s.pc s) := by
  obtain ⟨rfl, h1, hh⟩ := h
  exact entered_deliver detail tval rfl hh ⟨h1, route_le s c⟩ hc

/-! ## Entry from a state that differs in parts that entry does not read -/

section
variable {l c d : Nat} {v : Word} {s t : State}

theorem entered_withCore {x : CoreSt} (h : entered l c d v { s with core := x } t) :
    entered l c d v s { t with core := s.core } ∧ t.core = x := by
  obtain ⟨hpc, hpl, hie, hset, hothers, hregs, hctl, htile, hacc, hcore, hmem⟩ := h
  exact ⟨⟨hpc, hpl, hie, hset, hothers, hregs, hctl, htile, hacc, rfl, hmem⟩, hcore⟩

theorem entered_withCtl {x : Ctl} (h : entered l c d v { s with ctx.ctl := x } t) :
    entered l c d v s { t with ctx.ctl := s.ctx.ctl } := by
  obtain ⟨hpc, hpl, hie, hset, hothers, hregs, -, htile, hacc, hcore, hmem⟩ := h
  exact ⟨hpc, hpl, hie, hset, hothers, hregs, rfl, htile, hacc, hcore, hmem⟩

end

/-! ## Repeats that are left -/

section
variable {s : State}

theorem recordRepeats_of_none (h : s.ctx.aux.repLeft = 0) : recordRepeats s = s := if_pos h

theorem recordRepeats_of_left (h : s.ctx.aux.repLeft ≠ 0) :
    recordRepeats s = setProgress s.ctx.aux.repLeft 0 (rfcSeen s) s := if_neg h

theorem rep_xstateOf {n : Nat} (p r : Nat) (h : n < 128) : bits (xstateOf n p r) 0 7 = n := by
  rw [bits, xstateOf, BitVec.toNat_ofNat]
  omega

theorem tprog_xstateOf {p : Nat} (n r : Nat) (h : p < 256) : bits (xstateOf n p r) 8 8 = p := by
  rw [bits, xstateOf, BitVec.toNat_ofNat]
  omega

/-- `XSTATE` holds the number of repeats that are left, of which no unit is done (R87). -/
def holdsRepeats (n : Nat) (s : State) : Prop := bits s.ctx.ctl.xstate 0 7 = n ∧ bits s.ctx.ctl.xstate 8 8 = 0

theorem holdsRepeats_recordRepeats (h : s.ctx.aux.repLeft ≠ 0) (hlt : s.ctx.aux.repLeft < 128) :
    holdsRepeats s.ctx.aux.repLeft (recordRepeats s) := by
  rw [recordRepeats_of_left h]
  exact ⟨rep_xstateOf _ _ hlt, tprog_xstateOf _ _ (by decide)⟩

theorem owner_recordRepeats (h : s.ctx.aux.repLeft ≠ 0) : (recordRepeats s).ctx.ctl.owner = s.ctx.level := by
  rw [recordRepeats_of_left h]
  rfl

theorem owns_setXstate (x : Word) (s : State) : (setXstate x s).ctx.owns = true := decide_eq_true rfl

theorem owns_recordRepeats (h : s.ctx.aux.repLeft ≠ 0) : (recordRepeats s).ctx.owns = true := by
  rw [recordRepeats_of_left h, setProgress, owns_setXstate]

theorem holdsRepeats_deliver {n : Nat} (c d : Nat) (v pc : Word) (h : holdsRepeats n s) :
    holdsRepeats n (deliver c d v pc s) := by
  rw [holdsRepeats, (deliver_progress c d v pc s).1]
  exact h

end

theorem entered_takeAsync {l code detail : Nat} {tval : Word} {s : State} (h0 : s.ctx.aux.repLeft = 0)
    (h : l = route s code s.pl ∧ 1 ≤ l ∧ hasHandler l s) (hc : code < 256) :
    entered l code detail tval s (takeAsync code detail tval s) := by
  rw [takeAsync, recordRepeats_of_none h0]
  exact entered_of_goes detail tval h hc

/-! ## Asynchronous causes -/

theorem exec_asyncCause (s : State) : exec .asyncCauseDelivery s = execAsyncCauseDelivery s := rfl

/-- What an instruction that is abandoned has sent is all that goes. -/
theorem abandon_eq (s : State) : ∃ x, abandon s = { s with sched := x } := by
  unfold abandon
  split
  · exact ⟨_, rfl⟩
  · exact ⟨_, rfl⟩

/-- A cause that was pending is taken. -/
def takePending (code detail : Nat) (tval : Word) (s : State) : State :=
  takeAsync code detail tval { abandon s with ctx.prv.pending := s.ctx.prv.pending &&& ~~~(1#64 <<< code) }

/-- A cause that is taken is no longer pending; every other one is as before. -/
theorem getLsbD_clearBit (w : Word) (c n : Nat) :
    (w &&& ~~~(1#64 <<< c)).getLsbD n = (w.getLsbD n && decide (n ≠ c)) := by
  by_cases hn : n < 64
  · rw [BitVec.getLsbD_and, BitVec.getLsbD_not, BitVec.getLsbD_shiftLeft, BitVec.getLsbD_one]
    by_cases h : n = c
    · subst h
      simp [hn]
    · by_cases hlt : n < c
      · simp [hn, h, hlt]
      · simp [hn, h, show n - c ≠ 0 by omega]
  · simp [BitVec.getLsbD_of_ge _ _ (Nat.not_lt.1 hn)]

section
variable {s : State} {code detail : Nat} {tval : Word}

theorem pending_takePending (n : Nat) :
    (takePending code detail tval s).ctx.prv.pending.getLsbD n =
      (s.ctx.prv.pending.getLsbD n && decide (n ≠ code)) := by
  rw [takePending, takeAsync, deliver_pending, ← getLsbD_clearBit]
  unfold recordRepeats
  split <;> rfl

theorem entered_takePending {l : Nat} (h0 : s.ctx.aux.repLeft = 0)
    (h : l = route s code s.pl ∧ 1 ≤ l ∧ hasHandler l s) (hc : code < 256) :
    entered l code detail tval s (takePending code detail tval s) := by
  obtain ⟨x, hx⟩ := abandon_eq s
  rw [takePending, hx]
  exact entered_takeAsync
    (s := { s with sched := x, ctx.prv.pending := s.ctx.prv.pending &&& ~~~(1#64 <<< code) }) h0 h hc

theorem rep_takePending (h : s.ctx.aux.repLeft ≠ 0) (hlt : s.ctx.aux.repLeft < 128) :
    (takePending code detail tval s).ctx.ctl.rep = s.ctx.aux.repLeft ∧
      (takePending code detail tval s).ctx.ctl.owner = s.ctx.level := by
  obtain ⟨x, hx⟩ := abandon_eq s
  let u : State := { s with sched := x, ctx.prv.pending := s.ctx.prv.pending &&& ~~~(1#64 <<< code) }
  rw [takePending, takeAsync, hx]
  obtain ⟨hstate, howner, -⟩ := deliver_progress code detail tval u.pc (recordRepeats u)
  exact ⟨(congrArg (bits · 0 7) hstate).trans (holdsRepeats_recordRepeats (s := u) h hlt).1,
    howner.trans (owner_recordRepeats (s := u) h)⟩

theorem execAsync_halted (h : s.core.halted = true) : execAsyncCauseDelivery s = .next s := if_pos h

theorem execAsync_mchk (h : s.core.halted = false) (hm : mchkPending s = true) :
    execAsyncCauseDelivery s = .next (takePending 0x13 s.ctx.prv.mchkDetail.toNat 0 s) := by
  rw [execAsyncCauseDelivery, h, hm]
  rfl

theorem execAsync_audit (h : s.core.halted = false) (hm : mchkPending s = false) (ha : auditPending s = true) :
    execAsyncCauseDelivery s = .next (takePending 0x0F s.ctx.prv.auditDetail.toNat s.ctx.prv.auditTval s) := by
  rw [execAsyncCauseDelivery, h, hm, ha]
  rfl

theorem execAsync_none (hm : mchkPending s = false) (ha : auditPending s = false) :
    execAsyncCauseDelivery s = .next s := by
  rw [execAsyncCauseDelivery, hm, ha]
  exact ite_self _

end

/-! ## PREEMPT and INT -/

theorem exec_interruptEntry (s : State) : exec .interruptEntry s = execInterruptEntry s := rfl

section
variable {s : State}

theorem abandon_of_nothing (h : s.ctx.aux.sent = .nothing) : abandon s = s := by
  rw [abandon, h]

theorem mustComplete_of_nothing (h : s.ctx.aux.sent = .nothing) : mustComplete s = false := by
  rw [mustComplete, h]

/-- A PREEMPT is no longer pending, and nothing of the interrupted instruction stays in progress. -/
def preempted (s : State) : State := { s with core.preempt := none, ctx.aux.sent := .nothing, ctx.aux.repLeft := 0 }

/-- A level with a handler does not stop the core (R282). -/
theorem not_stops_of_hasHandler {l : Nat} (hh : hasHandler l s) : ¬ (l = 3 ∧ vecBase s.ctx.prv.mon.tvec = 0) := by
  rintro ⟨rfl, hm⟩
  exact hh hm

/-- Entry of a PREEMPT to a level, which becomes the lowest that issues in the quantum (R340). -/
def enterPreempt (l idx : Nat) (gtid : Word) (s : State) : State :=
  { enter l 0x15 idx gtid s.pc (preempted s) with core.minPl := l, ctx.aux.passedAt := s.cyc }

theorem takePreempt_eq {idx : Nat} {entry : Word} (h0 : s.ctx.aux.repLeft = 0)
    (hh : hasHandler (preemptLevel s entry) s) :
    takePreempt idx entry s = enterPreempt (preemptLevel s entry) idx (BitVec.ofNat 64 (bits entry 0 48)) s := by
  unfold takePreempt
  rw [recordRepeats_of_none h0]
  dsimp only
  generalize preemptLevel s entry = l at hh ⊢
  rw [if_neg (not_stops_of_hasHandler hh)]
  rfl

theorem entered_enterPreempt {l : Nat} (idx : Nat) (gtid : Word) (hl : 1 ≤ l ∧ l ≤ 3) :
    entered l 0x15 idx gtid s { enterPreempt l idx gtid s with core := s.core } ∧
      (enterPreempt l idx gtid s).core = { s.core with preempt := none, minPl := l } := by
  obtain ⟨hpc, hpl, hie, hset, hothers, hregs, hctl, htile, hacc, hcore, hmem⟩ :=
    entered_enter (code := 0x15) idx gtid (preempted s) hl (by decide)
  exact ⟨⟨hpc, hpl, hie, hset, hothers, hregs, hctl, htile, hacc, rfl, hmem⟩,
    congrArg (fun x : CoreSt => { x with minPl := l }) hcore⟩

/-- Entry of a PREEMPT (R340). -/
theorem entered_takePreempt {idx : Nat} {entry : Word} (h0 : s.ctx.aux.repLeft = 0) (h1 : 1 ≤ preemptLevel s entry)
    (hh : hasHandler (preemptLevel s entry) s) :
    entered (preemptLevel s entry) 0x15 idx (BitVec.ofNat 64 (bits entry 0 48)) s
        { takePreempt idx entry s with core := s.core } ∧
      (takePreempt idx entry s).core = { s.core with preempt := none, minPl := preemptLevel s entry } := by
  rw [takePreempt_eq h0 hh]
  exact entered_enterPreempt idx _ ⟨h1, preemptLevel_le s entry⟩

/-- An INT that is taken is cleared at the core, and nothing else changes. -/
theorem clearInt_eq (x : Bool × Nat × Nat) (s : State) :
    ∃ c, clearInt x s = { s with core := c } ∧ c.preempt = s.core.preempt ∧
      (x.1 = false → ∀ i ∈ c.ints, ¬ (i.detail = x.2.1 ∧ i.pid = x.2.2)) ∧
      (x.1 = true → c.ints = s.core.ints) := by
  obtain ⟨_ | _, detail, pid⟩ := x
  · exact ⟨{ s.core with ints := s.core.ints.filter (fun i => ¬ (i.detail = detail ∧ i.pid = pid)) }, rfl, rfl,
      fun _ i hi => of_decide_eq_true (List.mem_filter.1 hi).2, nofun⟩
  · exact ⟨{ s.core with
        messages := s.core.messages.map (fun m => if m.1 = pid then (m.1, m.2 - 1) else m) }, rfl, rfl, nofun,
      fun _ => rfl⟩

theorem chosenInt_mem (h : intReady s = true) : chosenInt s ∈ intsFor s := by
  rw [intReady, Bool.and_eq_true, Bool.not_eq_true', List.isEmpty_eq_false_iff] at h
  have hlt := Nat.mod_lt (Config.freeNat (draw s 0)) (List.length_pos_iff.2 h.1)
  rw [chosenInt, List.getElem?_eq_getElem hlt, Option.getD_some]
  exact List.getElem_mem hlt

theorem execInterrupt_halted (h : s.core.halted = true) : execInterruptEntry s = .next s :=
  if_pos (by rw [h]; rfl)

theorem execInterrupt_atWfi (h : preemptReady s = true ∨ intReady s = true) (hw : atWfi s = true) :
    execInterruptEntry s = .next s :=
  if_pos (by rw [Bool.or_eq_true_iff.2 h, hw, Bool.and_self, Bool.or_true])

theorem execInterrupt_none (hp : preemptReady s = false) (hi : intReady s = false) :
    execInterruptEntry s = .next s := by
  rw [execInterruptEntry, hp, hi]
  split
  · rfl
  · split <;> rfl

section
variable (hr : s.core.halted = false) (hw : atWfi s = false) (hn : s.ctx.aux.sent = .nothing)
include hr hw hn

theorem interrupts_go : (s.core.halted || mustComplete s || ((preemptReady s || intReady s) && atWfi s)) ≠ true := by
  rw [hr, mustComplete_of_nothing hn, hw, Bool.and_false]
  decide

theorem execInterrupt_preempt {idx : Nat} {entry : Word} (he : s.core.preempt = some (idx, entry))
    (hp : preemptReady s = true) : execInterruptEntry s = .next (takePreempt idx entry s) := by
  rw [execInterruptEntry, if_neg (interrupts_go hr hw hn), he, abandon_of_nothing hn]
  exact if_pos hp

theorem execInterrupt_int (hp : preemptReady s = false) (hi : intReady s = true) :
    execInterruptEntry s = .next (takeAsync 0x14 (chosenInt s).2.1 0 (clearInt (chosenInt s) s)) := by
  rw [execInterruptEntry, if_neg (interrupts_go hr hw hn), abandon_of_nothing hn, hp, hi]
  split <;> rfl

end

/-- Entry of an INT, which is one of those pending and no longer is. -/
theorem entered_int {l : Nat} (h0 : s.ctx.aux.repLeft = 0) (h : l = route s 0x14 s.pl ∧ 1 ≤ l ∧ hasHandler l s)
    (x : Bool × Nat × Nat) :
    let t := takeAsync 0x14 x.2.1 0 (clearInt x s)
    entered l 0x14 x.2.1 0 s { t with core := s.core } ∧ t.core.preempt = s.core.preempt ∧
      (x.1 = false → ∀ i ∈ t.core.ints, ¬ (i.detail = x.2.1 ∧ i.pid = x.2.2)) ∧
      (x.1 = true → t.core.ints = s.core.ints) := by
  obtain ⟨c, hc, hpreempt, hints, hkept⟩ := clearInt_eq x s
  dsimp only
  rw [hc, takeAsync, recordRepeats_of_none (s := { s with core := c }) h0]
  obtain ⟨hin, hcore⟩ := entered_withCore (entered_of_goes (s := { s with core := c }) x.2.1 0 h (by decide))
  rw [hcore]
  exact ⟨hin, hpreempt, hints, hkept⟩

end

/-! ## Faults of the fetch and words that are no instruction -/

/-- What a fault of the fetch does on a core that has not halted. -/
def fetchTrap (s : State) : FetchFault → State
  | .page detail va => takeFetchTrap ⟨0x05, detail, va, true, 0⟩ s
  | .entry => deliver 0x0E 2 0 (recordRepeats s).pc (recordRepeats s)
  | .poison => deliver 0x13 1 0 (recordRepeats s).pc (recordRepeats s)

section
variable {s : State}

theorem exec_fetchFault_halted (f : FetchFault) (h : s.core.halted = true) :
    exec (.instructionFetchFault f) s = .next s := if_pos h

theorem exec_fetchFault (f : FetchFault) (h : s.core.halted = false) :
    exec (.instructionFetchFault f) s = .next (fetchTrap s f) := by
  rw [show exec (.instructionFetchFault f) s = execInstructionFetchFault f s from rfl,
    execInstructionFetchFault.eq_def, h]
  cases f <;> rfl

theorem exec_illegal_halted (h : s.core.halted = true) : exec .illegalInstruction s = .next s := if_pos h

theorem exec_illegal (h : s.core.halted = false) : exec .illegalInstruction s =
    .next (deliver 0x01 0 s.ctx.aux.ir (recordRepeats s).pc (recordRepeats s)) := by
  rw [show exec .illegalInstruction s = execIllegalInstruction s from rfl, execIllegalInstruction, h]
  rfl

/-- The user control registers after a PAGE of the fetch: the progress fields and their owner are written, and the fault
is noted (R321, R331). -/
def pageCtl (x : Word) (owner : Nat) (va : Word) (s : State) : Ctl :=
  { s.ctx.ctl with xstate := x, owner := owner, lastPc := s.pc, lastVa := va, lastValid := true }

theorem noteFault_progress (x : Word) (owner : Nat) (va : Word) (s : State) :
    noteFault va { s with ctx.ctl.xstate := x, ctx.ctl.owner := owner } =
      { s with ctx.ctl := pageCtl x owner va s } := rfl

/-- A PAGE of the fetch writes the refault count and notes the fault; REP and TPROG of the instruction at hand stay. -/
theorem takeFetchTrap_page (detail : Nat) (va : Word) (s : State) :
    let r := recordRepeats s
    ∃ x owner, takeFetchTrap ⟨0x05, detail, va, true, 0⟩ s =
        deliver (if nextRfc va r = 16 then 0x06 else 0x05) detail va r.pc { r with ctx.ctl := pageCtl x owner va r } ∧
      (r.ctx.owns = true → ∀ lo n, lo + n ≤ 19 → bits x lo n = bits r.ctx.ctl.xstate lo n) := by
  dsimp only
  rw [takeFetchTrap, if_pos rfl]
  generalize recordRepeats s = r
  dsimp only
  by_cases ho : r.ctx.owns = true
  · rw [if_pos ho]
    exact ⟨_, _, congrArg (deliver _ detail va r.pc)
      (noteFault_progress (putBits r.ctx.ctl.xstate 19 5 (nextRfc va r)) r.ctx.ctl.owner va r),
      fun _ lo n h => bits_putBits_other _ _ (.inr h)⟩
  · rw [if_neg ho]
    by_cases hz : nextRfc va r = 0
    · rw [if_pos hz]
      exact ⟨_, _, congrArg (deliver _ detail va r.pc) (noteFault_progress r.ctx.ctl.xstate r.ctx.ctl.owner va r),
        fun h => absurd h ho⟩
    · rw [if_neg hz]
      exact ⟨_, _, congrArg (deliver _ detail va r.pc)
        (noteFault_progress (xstateOf 0 0 (nextRfc va r)) r.ctx.level va r), fun h => absurd h ho⟩

theorem nextRfc_first {va : Word} (h0 : rfcSeen s = 0) (hv : s.ctx.ctl.lastValid = false) : nextRfc va s = 0 := by
  rw [nextRfc, h0, hv]
  rfl

theorem nextRfc_sixteenth {va : Word} (h : rfcSeen s = 15) (hpc : s.ctx.ctl.lastPc = s.pc)
    (hva : s.ctx.ctl.lastVa = va) : nextRfc va s = 16 := by
  have hseen : (rfcSeen s > 0 || s.ctx.ctl.lastValid) = true := by
    rw [h]
    rfl
  rw [nextRfc, if_pos hseen, if_pos ⟨hpc.symm, hva.symm⟩, h]
  rfl

/-- Entry of a fault of the fetch for a page, PAGE or by the count of its refaults TRANS. -/
theorem entered_page {l code detail : Nat} {va : Word} (h0 : s.ctx.aux.repLeft = 0)
    (hcode : (if nextRfc va s = 16 then 0x06 else 0x05) = code)
    (h : l = route s code s.pl ∧ 1 ≤ l ∧ hasHandler l s) :
    let t := fetchTrap s (.page detail va)
    entered l code detail va s { t with ctx.ctl := s.ctx.ctl } ∧
      t.ctx.ctl.lastValid = true ∧ t.ctx.ctl.lastVa = va ∧ t.ctx.ctl.lastPc = s.pc := by
  obtain ⟨x, owner, ht, -⟩ := takeFetchTrap_page detail va s
  rw [recordRepeats_of_none h0, hcode] at ht
  dsimp only
  rw [fetchTrap, ht]
  have hlt : code < 256 := by
    subst hcode
    split <;> decide
  obtain ⟨-, -, hv, ha, hp⟩ := deliver_progress code detail va s.pc { s with ctx.ctl := pageCtl x owner va s }
  have hin := entered_of_goes (s := { s with ctx.ctl := pageCtl x owner va s }) detail va h hlt
  exact ⟨entered_withCtl hin, hv, ha, hp⟩

/-- A fetch that fails between two repeats leaves the number of those left (R87). -/
theorem holdsRepeats_fetchTrap (f : FetchFault) (h : s.ctx.aux.repLeft ≠ 0) (hlt : s.ctx.aux.repLeft < 128) :
    holdsRepeats s.ctx.aux.repLeft (fetchTrap s f) := by
  obtain ⟨hrep, htprog⟩ := holdsRepeats_recordRepeats h hlt
  cases f with
  | entry => exact holdsRepeats_deliver _ _ _ _ ⟨hrep, htprog⟩
  | poison => exact holdsRepeats_deliver _ _ _ _ ⟨hrep, htprog⟩
  | page detail va =>
    obtain ⟨x, owner, ht, hkept⟩ := takeFetchTrap_page detail va s
    have hlow := hkept (owns_recordRepeats h)
    rw [fetchTrap, ht]
    exact holdsRepeats_deliver _ _ _ _
      ⟨(hlow 0 7 (by decide)).trans hrep, (hlow 8 8 (by decide)).trans htprog⟩

end

/-! ## Messages -/

/-- The number of messages a core has counted for a partition. -/
def messagesOf (c : CoreSt) (pid : Nat) : Nat := ((c.messages.find? (fun m => m.1 = pid)).map (·.2)).getD 0

/-- The messages of a core with one more counted for a partition, up to 65,535 (R425). -/
def countedMessages (l : List (Nat × Nat)) (pid : Nat) : List (Nat × Nat) :=
  if l.any (fun m => m.1 = pid) then l.map (fun m => if m.1 = pid then (m.1, min (m.2 + 1) 65535) else m)
  else l ++ [(pid, 1)]

theorem find_countedMessages (l : List (Nat × Nat)) (pid : Nat) :
    (countedMessages l pid).find? (fun m => m.1 = pid) =
      some (pid, min (((l.find? (fun m => m.1 = pid)).map (·.2)).getD 0 + 1) 65535) := by
  unfold countedMessages
  split
  next h =>
    rw [List.find?_map]
    have hsame : (fun m : Nat × Nat => decide (m.1 = pid)) ∘
        (fun m => if m.1 = pid then (m.1, min (m.2 + 1) 65535) else m) = fun m => decide (m.1 = pid) := by
      funext m
      dsimp only [Function.comp]
      split <;> rfl
    rw [hsame]
    obtain ⟨m, hm⟩ := Option.isSome_iff_exists.1 (List.find?_isSome.2 (List.any_eq_true.1 h))
    have hpid : m.1 = pid := of_decide_eq_true (List.find?_some (p := fun m : Nat × Nat => decide (m.1 = pid)) hm)
    simp [hm, hpid]
  next h =>
    have hnone : l.find? (fun m => decide (m.1 = pid)) = none :=
      List.find?_eq_none.2 fun m hm hp => h (List.any_eq_true.2 ⟨m, hm, hp⟩)
    simp [List.find?_append, hnone]

section
variable {s : State} {core pid : Nat}

theorem countMessage_other (h : countsPid s core pid = false) : countMessage core pid s = s :=
  if_pos (by rw [h]; rfl)

theorem countMessage_counts (h : countsPid s core pid = true) :
    countMessage core pid s = setCore s core
      { getCore s core with messages := countedMessages (getCore s core).messages pid } :=
  if_neg (by rw [h]; decide)

/-- A message that arrives has left its way, and nothing of the context changes. -/
theorem countMessage_frame (s : State) :
    (countMessage core pid s).sched = s.sched ∧ (countMessage core pid s).ctx = s.ctx := by
  unfold countMessage
  split
  · exact ⟨rfl, rfl⟩
  · exact ⟨setCore_sched .., (setCore_frame ..).2.1⟩

theorem messages_countMessage (h : countsPid s core pid = true) :
    (getCore (countMessage core pid s) core).messages.find? (fun m => m.1 = pid) =
      some (pid, min (messagesOf (getCore s core) pid + 1) 65535) := by
  rw [countMessage_counts h, getCore_setCore_same]
  exact find_countedMessages _ _

/-- A message that arrives is on its way no longer. -/
def offWay (core pid : Nat) (s : State) : State := { s with sched.ipis := s.sched.ipis.erase (core, pid) }

theorem exec_ipiMessage (h : s.sched.ipis.contains (core, pid) = true) :
    exec (.ipiMessage core pid) s = .next (countMessage core pid (offWay core pid s)) := if_pos h

theorem exec_ipiMessage_none (h : s.sched.ipis.contains (core, pid) = false) :
    exec (.ipiMessage core pid) s = .next s :=
  if_neg (by rw [h]; decide)

end

/-- Settles O43: what is taken is decided by the guards of `ASYNC_CAUSE_DELIVERY`, `INTERRUPT_ENTRY` and the fetch; what
is taken enters its level by `entered_of_goes` in a state that differs from the start in what was pending or noted. -/
theorem trapEventResults : Obligations.TrapEventResults := by
  unfold Obligations.TrapEventResults
  intro s
  refine ⟨fun h => ⟨execAsync_halted h, execInterrupt_halted h⟩, fun hr h0 => ⟨fun l hm hg => ?mchk,
    fun l hm ha hg => ?audit⟩, fun hr hm h0 hlt => ?repeats, fun hm ha => execAsync_none hm ha,
    fun h hw => execInterrupt_atWfi h hw, fun hr hw hn h0 => ⟨fun idx entry he hp h1 hh => ?preempt,
    fun l hp hi hg => ?int⟩, fun hp hi => execInterrupt_none hp hi,
    fun h => ⟨exec_illegal_halted h, fun f => exec_fetchFault_halted f h⟩, fun hr h0 hlt => ?left,
    fun hr h0 => ⟨fun l hg => ?entry, fun l hg => ?poison, fun detail va l hc hv hg => ?page,
      fun detail va l hc hpc hva hg => ?trans, fun l hg => ?illegal⟩,
    fun core pid h => ?message, fun core pid h => exec_ipiMessage_none h⟩
  case mchk =>
    exact ⟨_, execAsync_mchk hr hm, entered_takePending h0 hg (by decide), (pending_takePending 0x13).trans
      (Bool.and_false _), (pending_takePending 0x0F).trans (Bool.and_true _)⟩
  case audit =>
    exact ⟨_, execAsync_audit hr hm ha, entered_takePending h0 hg (by decide), (pending_takePending 0x0F).trans
      (Bool.and_false _)⟩
  case repeats => exact ⟨_, execAsync_mchk hr hm, rep_takePending h0 hlt⟩
  case preempt => exact ⟨_, execInterrupt_preempt hr hw hn he hp, entered_takePreempt h0 h1 hh⟩
  case int => exact ⟨_, chosenInt_mem hi, _, execInterrupt_int hr hw hn hp hi, entered_int h0 hg _⟩
  case left =>
    have hfetch (f : FetchFault) : ∃ t, exec (.instructionFetchFault f) s = .next t ∧
        holdsRepeats s.ctx.aux.repLeft t := ⟨_, exec_fetchFault f hr, holdsRepeats_fetchTrap f h0 hlt⟩
    exact ⟨⟨_, exec_illegal hr, holdsRepeats_deliver _ _ _ _ (holdsRepeats_recordRepeats h0 hlt)⟩,
      hfetch .entry, hfetch .poison, fun detail va => hfetch (.page detail va)⟩
  case entry =>
    refine ⟨_, exec_fetchFault .entry hr, ?_⟩
    rw [fetchTrap, recordRepeats_of_none h0]
    exact entered_of_goes 2 0 hg (by decide)
  case poison =>
    refine ⟨_, exec_fetchFault .poison hr, ?_⟩
    rw [fetchTrap, recordRepeats_of_none h0]
    exact entered_of_goes 1 0 hg (by decide)
  case page =>
    exact ⟨_, exec_fetchFault _ hr, entered_page h0 (by rw [nextRfc_first hc hv]; rfl) hg⟩
  case trans =>
    obtain ⟨hin, -⟩ := entered_page (detail := detail) h0 (by rw [nextRfc_sixteenth hc hpc hva]; rfl) hg
    exact ⟨_, exec_fetchFault _ hr, hin⟩
  case illegal =>
    refine ⟨_, exec_illegal hr, ?_⟩
    rw [recordRepeats_of_none h0]
    exact entered_of_goes 0 _ hg (by decide)
  case message =>
    obtain ⟨hsched, hctx⟩ := countMessage_frame (core := core) (pid := pid) (offWay core pid s)
    refine ⟨_, exec_ipiMessage h, congrArg (·.ipis) hsched, hctx,
      fun hc => messages_countMessage (s := offWay core pid s) hc, fun hc => ?_⟩
    rw [countMessage_other (s := offWay core pid s) hc]
    rfl

end Sys2Proof.Machine

/-! PROOFS. A step at the turn of the current core (R87, R88). -/

namespace Sys2Proof.Machine

section

open Sys2Proof.Tests

/-! ## Words that are no instruction, between two repeats -/

/-- ILL itself leaves the progress fields as they are: what records the repeats left comes before it. -/
theorem xstate_takeTrap_ill (s : State) : (takeTrap none (illTrap s) s).ctx.ctl.xstate = s.ctx.ctl.xstate :=
  (deliver_progress 0x01 0 s.ctx.aux.ir s.pc s).1

/-- The monitor's context between two repeats, with one left, before a word that is no instruction. -/
def betweenRepeats : State := { (atLevel 3).withFetchWord 16 0xE000 with ctx.aux.repLeft := 1 }

/-- The state in which its turn fetches. -/
def betweenRepeatsTurn : State := { tick betweenRepeats with turns := [] }

theorem takesTurn_betweenRepeats : takesTurn betweenRepeats betweenRepeatsTurn :=
  ⟨by decide +kernel, .inl ⟨[], by decide +kernel, rfl⟩⟩

theorem issues_betweenRepeats : issues betweenRepeats := by
  unfold issues
  decide +kernel

theorem fetchChain_betweenRepeats :
    ∃ x, fetchChain 5 betweenRepeats.pc betweenRepeatsTurn = .ok x ∧
      decide (decode x.2 = .error .majorE ∧ x.1.ctx.ctl.xstate = 0) = true :=
  okAnd_exists (by decide +kernel)

/-- A test of the next state that a step answers. -/
def stepMeets (s : State) (p : State → Bool) : Bool :=
  match step s with
  | .next t => p t
  | _ => false

theorem stepMeets_of_next {s t : State} {p : State → Bool} (h : step s = .next t) : stepMeets s p = p t := by
  rw [stepMeets, h]

/-- The step records the repeat that is left (R87). -/
theorem step_betweenRepeats : stepMeets betweenRepeats (fun t => decide (t.ctx.ctl.rep = 1)) = true := by
  decide +kernel

end

/-- Refutes O58: between two repeats, of which one is left, words that are no instruction raise ILL with the count left
in `XSTATE.REP` (R87, as O43 states), while the statement, which does not except that state, has `XSTATE` stay 0. -/
theorem not_stepRunsDecodedInstruction : ¬ Obligations.StepRunsDecodedInstruction := by
  unfold Obligations.StepRunsDecodedInstruction
  rintro ⟨hstep, -⟩
  obtain ⟨⟨s1, ws⟩, hfetch, hx⟩ := fetchChain_betweenRepeats
  obtain ⟨hill, hzero⟩ := of_decide_eq_true hx
  obtain ⟨hws, -⟩ := hstep _ _ takesTurn_betweenRepeats issues_betweenRepeats
  have hnext := (hws s1 ws hfetch).2 _ hill
  have hrep := (stepMeets_of_next hnext).symm.trans step_betweenRepeats
  rw [decide_eq_true_iff, Ctl.rep, xstate_takeTrap_ill, hzero] at hrep
  exact absurd hrep (by decide)

end Sys2Proof.Machine

/-! PROOFS. The results of the integer instructions as operations on words of the operand width (R99 to R102). -/

namespace Sys2Proof.Machine

/-! ## Words of an operand width -/

section
variable (w : Width) (x y : Word)

theorem opndS_eq : opndS w x = (x.setWidth w.bits).toInt := by rw [opndS, sext_eq_toInt, BitVec.ofNat_toNat]

theorem opndU_eq : opndU w x = (x.setWidth w.bits).toNat := (BitVec.toNat_setWidth ..).symm

/-- A result is cut to the width and sign-extended (R99). -/
theorem wr_eq (i : Int) : wr w i = (BitVec.ofInt w.bits i).signExtend 64 := by
  cases w with
  | w64 => exact (BitVec.signExtend_eq _).symm
  | w32 =>
    have hcut : BitVec.ofNat 32 (i % 2 ^ 32).toNat = BitVec.ofInt 32 i :=
      BitVec.eq_of_toNat_eq (by rw [BitVec.toNat_ofNat, BitVec.toNat_ofInt]; omega)
    rw [wr, sext_eq_toInt, hcut]
    rfl

theorem wr_natCast (n : Nat) : wr w n = (BitVec.ofNat w.bits n).signExtend 64 := by rw [wr_eq, BitVec.ofInt_natCast]

theorem narrow_eq : narrow w x = (x.setWidth w.bits).signExtend 64 := by
  cases w with
  | w64 => exact ((BitVec.signExtend_eq _).trans (BitVec.setWidth_eq x)).symm
  | w32 => rfl

theorem atWidth_eq (f : (n : Nat) → BitVec n → BitVec n → BitVec n) :
    atWidth w f x y = (f w.bits (x.setWidth w.bits) (y.setWidth w.bits)).signExtend 64 := by
  cases w with
  | w64 =>
    change f 64 x y = (f 64 (x.setWidth 64) (y.setWidth 64)).signExtend 64
    rw [BitVec.signExtend_eq, BitVec.setWidth_eq, BitVec.setWidth_eq]
  | w32 => rfl

theorem atWidth1_eq (f : (n : Nat) → BitVec n → BitVec n) :
    atWidth1 w f x = (f w.bits (x.setWidth w.bits)).signExtend 64 := by
  rw [← atWidth_eq w x x fun n z _ => f n z]
  cases w <;> rfl

theorem wr_toNat : wr w (x.toNat : Int) = narrow w x := by rw [wr_natCast, narrow_eq, BitVec.ofNat_toNat]

theorem widthBits_le : w.bits ≤ 64 := by cases w <;> decide

theorem widthBits_pos : 0 < w.bits := by cases w <;> decide

end

/-! ## Operations on words of any width -/

section
variable {n : Nat} (x y : BitVec n)

theorem ofInt_sub (i j : Int) : BitVec.ofInt n (i - j) = BitVec.ofInt n i - BitVec.ofInt n j := by
  rw [Int.sub_eq_add_neg, BitVec.ofInt_add, BitVec.ofInt_neg, BitVec.sub_eq_add_neg]

/-- The high half of a number of two widths. -/
theorem extractLsb'_ofInt_high (i : Int) : (BitVec.ofInt (2 * n) i).extractLsb' n n = BitVec.ofInt n (i / 2 ^ n) := by
  have hdiv : i % (2 ^ n * 2 ^ n) / 2 ^ n = i / 2 ^ n % 2 ^ n := by
    have h2 : (2 ^ n : Int) ≠ 0 := by positivity
    rw [Int.emod_def, Int.emod_def, Int.ediv_ediv_of_nonneg (by positivity), mul_assoc, Int.sub_mul_ediv_left _ _ h2]
  apply BitVec.eq_of_toNat_eq
  have hpos : (0 : Int) ≤ i % (2 ^ n * 2 ^ n) := Int.emod_nonneg _ (by positivity)
  rw [BitVec.extractLsb'_toNat, BitVec.toNat_ofInt, BitVec.toNat_ofInt, Nat.shiftRight_eq_div_pow, two_mul, pow_add]
  push_cast
  zify
  rw [Int.toNat_of_nonneg hpos, Int.toNat_of_nonneg (Int.emod_nonneg _ (by positivity)), hdiv, Int.emod_emod]

theorem ofInt_mulh : BitVec.ofInt n (x.toInt * y.toInt / 2 ^ n) =
    (x.signExtend (2 * n) * y.signExtend (2 * n)).extractLsb' n n := by
  rw [BitVec.signExtend, BitVec.signExtend, ← BitVec.ofInt_mul, extractLsb'_ofInt_high]

theorem ofNat_mulhu : BitVec.ofNat n (x.toNat * y.toNat / 2 ^ n) =
    (x.setWidth (2 * n) * y.setWidth (2 * n)).extractLsb' n n := by
  rw [← BitVec.ofNat_toNat, ← BitVec.ofNat_toNat, ← BitVec.ofNat_mul, ← BitVec.ofInt_natCast (2 * n),
    extractLsb'_ofInt_high, ← BitVec.ofInt_natCast]
  push_cast
  rfl

theorem toInt_eq_zero_iff : x.toInt = 0 ↔ x = 0 := by
  rw [← BitVec.toInt_inj, show (0 : BitVec n) = 0#n from rfl, BitVec.toInt_zero]

theorem toNat_eq_zero_iff : x.toNat = 0 ↔ x = 0 := by
  rw [← BitVec.toNat_inj, show (0 : BitVec n) = 0#n from rfl, BitVec.toNat_ofNat, Nat.zero_mod]

theorem ofInt_tdiv : BitVec.ofInt n (x.toInt.tdiv y.toInt) = x.sdiv y := by
  apply BitVec.eq_of_toInt_eq
  rw [BitVec.toInt_ofInt, BitVec.toInt_sdiv]

theorem ofInt_tmod : BitVec.ofInt n (x.toInt - y.toInt * x.toInt.tdiv y.toInt) = x.srem y := by
  rw [← Int.tmod_def, ← BitVec.toInt_srem, BitVec.ofInt_toInt]

theorem ofInt_neg_one : BitVec.ofInt n (-1) = BitVec.allOnes n := by
  rw [BitVec.ofInt_neg, ← BitVec.neg_one_eq_allOnes]
  rfl

theorem ofNat_two_pow_sub_one : BitVec.ofNat n (2 ^ n - 1) = BitVec.allOnes n :=
  BitVec.eq_of_toNat_eq ((BitVec.toNat_ofNat ..).trans
    ((Nat.mod_eq_of_lt (Nat.sub_lt Nat.one_le_two_pow Nat.one_pos)).trans BitVec.toNat_allOnes.symm))

theorem ofNat_udiv : BitVec.ofNat n (x.toNat / y.toNat) = x / y := by
  rw [← BitVec.toNat_udiv, BitVec.ofNat_toNat, BitVec.setWidth_eq]

theorem ofNat_umod : BitVec.ofNat n (x.toNat % y.toNat) = x % y := by
  rw [← BitVec.toNat_umod, BitVec.ofNat_toNat, BitVec.setWidth_eq]

theorem ofInt_min : BitVec.ofInt n (min x.toInt y.toInt) = if x.slt y then x else y := by
  simp only [BitVec.slt_iff_toInt_lt]
  split
  next h => rw [min_eq_left h.le, BitVec.ofInt_toInt]
  next h => rw [min_eq_right (not_lt.1 h), BitVec.ofInt_toInt]

theorem ofInt_max : BitVec.ofInt n (max x.toInt y.toInt) = if x.slt y then y else x := by
  simp only [BitVec.slt_iff_toInt_lt]
  split
  next h => rw [max_eq_right h.le, BitVec.ofInt_toInt]
  next h => rw [max_eq_left (not_lt.1 h), BitVec.ofInt_toInt]

theorem ofNat_min : BitVec.ofNat n (min x.toNat y.toNat) = if x.ult y then x else y := by
  simp only [BitVec.ult_iff_toNat_lt]
  split
  next h => rw [min_eq_left h.le, BitVec.ofNat_toNat, BitVec.setWidth_eq]
  next h => rw [min_eq_right (not_lt.1 h), BitVec.ofNat_toNat, BitVec.setWidth_eq]

theorem ofNat_max : BitVec.ofNat n (max x.toNat y.toNat) = if x.ult y then y else x := by
  simp only [BitVec.ult_iff_toNat_lt]
  split
  next h => rw [max_eq_right h.le, BitVec.ofNat_toNat, BitVec.setWidth_eq]
  next h => rw [max_eq_left (not_lt.1 h), BitVec.ofNat_toNat, BitVec.setWidth_eq]

/-! ### Shifts and rotates -/

theorem ofInt_shiftLeft (k : Nat) : BitVec.ofInt n (x.toInt * 2 ^ k) = x <<< k := by
  have hpow : BitVec.ofInt n (2 ^ k) = BitVec.twoPow n k := by
    rw [← Nat.cast_ofNat (n := 2), ← Nat.cast_pow, BitVec.ofInt_natCast]
    exact BitVec.eq_of_toNat_eq (by rw [BitVec.toNat_ofNat, BitVec.toNat_twoPow])
  rw [BitVec.ofInt_mul, BitVec.ofInt_toInt, BitVec.shiftLeft_eq_mul_twoPow, hpow]

theorem ofNat_ushiftRight (k : Nat) : BitVec.ofNat n (x.toNat / 2 ^ k) = x >>> k := by
  rw [← Nat.shiftRight_eq_div_pow, ← BitVec.toNat_ushiftRight, BitVec.ofNat_toNat, BitVec.setWidth_eq]

theorem ofInt_sshiftRight (k : Nat) : BitVec.ofInt n (x.toInt / 2 ^ k) = x.sshiftRight k := by
  rw [BitVec.sshiftRight, Int.shiftRight_eq_div_pow]
  push_cast
  rfl

/-- The two parts of a rotated word do not overlap. -/
theorem ofNat_rotateRight {k : Nat} (hk : k < n) :
    BitVec.ofNat n (x.toNat / 2 ^ k + x.toNat * 2 ^ (n - k) % 2 ^ n) = x.rotateRight k := by
  have hpow : 2 ^ n = 2 ^ k * 2 ^ (n - k) := by rw [← pow_add]; congr 1; omega
  have hlow : x.toNat / 2 ^ k < 2 ^ (n - k) := Nat.div_lt_of_lt_mul (hpow ▸ x.isLt)
  have hhigh : x.toNat * 2 ^ (n - k) % 2 ^ n = (x.toNat % 2 ^ k) <<< (n - k) := by
    rw [hpow, Nat.mul_mod_mul_right, Nat.shiftLeft_eq]
  have hor : x.toNat / 2 ^ k + x.toNat * 2 ^ (n - k) % 2 ^ n = (x.rotateRight k).toNat := by
    rw [BitVec.toNat_rotateRight, Nat.mod_eq_of_lt hk, Nat.shiftRight_eq_div_pow, Nat.shiftLeft_eq, hhigh, Nat.or_comm,
      ← Nat.shiftLeft_add_eq_or_of_lt hlow, Nat.add_comm]
  rw [hor, BitVec.ofNat_toNat, BitVec.setWidth_eq]

end

/-! ## The results of R100 and R101 -/

section
variable (w : Width) (x y : Word)

theorem addV_eq : addV w x y = narrow w (x + y) := by
  rw [addV, wr_eq, opndS_eq, opndS_eq, BitVec.ofInt_add, BitVec.ofInt_toInt, BitVec.ofInt_toInt, narrow_eq,
    BitVec.setWidth_add _ _ (widthBits_le w)]

theorem subV_eq : subV w x y = narrow w (x - y) := by
  rw [subV, wr_eq, opndS_eq, opndS_eq, ofInt_sub, BitVec.ofInt_toInt, BitVec.ofInt_toInt, narrow_eq,
    BitVec.sub_eq_add_neg x, BitVec.setWidth_add _ _ (widthBits_le w), BitVec.setWidth_neg_of_le (widthBits_le w),
    ← BitVec.sub_eq_add_neg]

theorem mulV_eq : mulV w x y = narrow w (x * y) := by
  rw [mulV, wr_eq, opndS_eq, opndS_eq, BitVec.ofInt_mul, BitVec.ofInt_toInt, BitVec.ofInt_toInt, narrow_eq,
    BitVec.setWidth_mul _ _ (widthBits_le w)]

theorem mulhV_eq : mulhV w x y =
    atWidth w (fun n x y => (x.signExtend (2 * n) * y.signExtend (2 * n)).extractLsb' n n) x y := by
  rw [mulhV, wr_eq, opndS_eq, opndS_eq, ofInt_mulh, atWidth_eq]

theorem mulhuV_eq : mulhuV w x y =
    atWidth w (fun n x y => (x.setWidth (2 * n) * y.setWidth (2 * n)).extractLsb' n n) x y := by
  rw [mulhuV, wr_natCast, opndU_eq, opndU_eq, ofNat_mulhu, atWidth_eq]

theorem divV_eq : divV w x y = atWidth w (fun n x y => if y = 0 then BitVec.allOnes n else x.sdiv y) x y := by
  rw [divV, atWidth_eq, opndS_eq, opndS_eq, apply_ite (BitVec.signExtend 64)]
  simp only [toInt_eq_zero_iff, wr_eq, ofInt_neg_one, tdiv, ofInt_tdiv]

theorem divuV_eq : divuV w x y = atWidth w (fun n x y => if y = 0 then BitVec.allOnes n else x / y) x y := by
  have hmax : (2 ^ w.bits - 1 : Int) = ((2 ^ w.bits - 1 : Nat) : Int) := by
    rw [Nat.cast_sub Nat.one_le_two_pow]; push_cast; rfl
  rw [divuV, atWidth_eq, opndU_eq, opndU_eq, apply_ite (BitVec.signExtend 64), hmax]
  simp only [toNat_eq_zero_iff, wr_natCast, ofNat_two_pow_sub_one, ofNat_udiv]

theorem remV_eq : remV w x y = atWidth w (fun _ x y => if y = 0 then x else x.srem y) x y := by
  rw [remV, atWidth_eq, opndS_eq, opndS_eq, apply_ite (BitVec.signExtend 64)]
  simp only [toInt_eq_zero_iff, wr_eq, BitVec.ofInt_toInt, tdiv, ofInt_tmod]

theorem remuV_eq : remuV w x y = atWidth w (fun _ x y => if y = 0 then x else x % y) x y := by
  rw [remuV, atWidth_eq, opndU_eq, opndU_eq, apply_ite (BitVec.signExtend 64)]
  simp only [toNat_eq_zero_iff, wr_natCast, BitVec.ofNat_toNat, BitVec.setWidth_eq, ofNat_umod]

theorem minV_eq : minV w x y = atWidth w (fun _ x y => if x.slt y then x else y) x y := by
  rw [minV, wr_eq, opndS_eq, opndS_eq, ofInt_min, atWidth_eq]

theorem maxV_eq : maxV w x y = atWidth w (fun _ x y => if x.slt y then y else x) x y := by
  rw [maxV, wr_eq, opndS_eq, opndS_eq, ofInt_max, atWidth_eq]

theorem minuV_eq : minuV w x y = atWidth w (fun _ x y => if x.ult y then x else y) x y := by
  rw [minuV, wr_natCast, opndU_eq, opndU_eq, ofNat_min, atWidth_eq]

theorem maxuV_eq : maxuV w x y = atWidth w (fun _ x y => if x.ult y then y else x) x y := by
  rw [maxuV, wr_natCast, opndU_eq, opndU_eq, ofNat_max, atWidth_eq]

/-- The amount of a register form is its operand modulo the width (R101). -/
theorem shAmt_eq : shAmt w y = (y.setWidth w.bits).toNat % w.bits := by rw [shAmt, opndU_eq]

theorem shAmt_lt : shAmt w y < w.bits := Nat.mod_lt _ (widthBits_pos w)

variable (k : Nat)

theorem shlV_eq : shlV w x k = atWidth1 w (fun _ x => x <<< k) x := by
  rw [shlV, wr_eq, opndS_eq, ofInt_shiftLeft, atWidth1_eq]

theorem shrV_eq : shrV w x k = atWidth1 w (fun _ x => x >>> k) x := by
  rw [shrV, wr_natCast, opndU_eq, ofNat_ushiftRight, atWidth1_eq]

theorem sraV_eq : sraV w x k = atWidth1 w (fun _ x => x.sshiftRight k) x := by
  rw [sraV, wr_eq, opndS_eq, ofInt_sshiftRight, atWidth1_eq]

theorem rotrV_eq (hk : k < w.bits) : rotrV w x k = atWidth1 w (fun _ x => x.rotateRight k) x := by
  rw [rotrV, wr_natCast, opndU_eq, ofNat_rotateRight _ hk, atWidth1_eq]

/-- A shift by the amount of a register form. -/
theorem atWidth1_shAmt (f : (n : Nat) → BitVec n → Nat → BitVec n) :
    atWidth1 w (fun n x => f n x (shAmt w y)) x = atWidth w (fun n x y => f n x (y.toNat % n)) x y := by
  rw [atWidth1_eq, atWidth_eq, shAmt_eq]

end

/-! ## Instructions on `g` registers -/

section
variable {i : Instr} {fm : Form} {s : State} {len d a b j k : Nat} {v : Word}
  (hs : startAt fm s = some (j, k))
include hs

theorem exec_aluR {op : Word → Word → Word} (hx : exec i s = runRep fm len (aluR fm d a b op) s)
    (hc : clean s [.g (fm.a j a), .g (fm.b j b)] = true) (hv : op (rg s (fm.a j a)) (rg s (fm.b j b)) = v) :
    exec i s = .next (completes fm len j (wg s (fm.d j d) v)) := by
  rw [hx, runRep_ok hs (aluR_ok hc), hv]

theorem exec_aluI {imm : Int} {op : Word → Word → Word} (hx : exec i s = runRep fm len (aluI fm d a imm op) s)
    (hc : clean s [.g (fm.a j a)] = true) (hv : op (rg s (fm.a j a)) (BitVec.ofInt 64 (fm.i j imm)) = v) :
    exec i s = .next (completes fm len j (wg s (fm.d j d) v)) := by
  rw [hx, runRep_ok hs (aluI_ok hc), ← hv]
  rfl

theorem exec_aluN {imm : Nat} {op : Word → Nat → Word} (hx : exec i s = runRep fm len (aluN fm d a imm op) s)
    (hc : clean s [.g (fm.a j a)] = true) (hv : op (rg s (fm.a j a)) (fm.u j imm) = v) :
    exec i s = .next (completes fm len j (wg s (fm.d j d) v)) := by
  rw [hx, runRep_ok hs (aluN_ok hc), hv]

theorem exec_aluU {op : Word → Word} (hx : exec i s = runRep fm len (aluU fm d a op) s)
    (hc : clean s [.g (fm.a j a)] = true) (hv : op (rg s (fm.a j a)) = v) :
    exec i s = .next (completes fm len j (wg s (fm.d j d) v)) := by
  rw [hx, runRep_ok hs (aluU_ok hc), hv]

end

/-- Settles O1: each instruction by its form (`exec_aluR`, `exec_aluI`) and the value its operation gives. -/
theorem arithmeticResults : Obligations.ArithmeticResults := by
  unfold Obligations.ArithmeticResults
  refine ⟨fun fm w d a b imm s j k hs => ⟨fun hc => ?_, fun hc => ?_⟩, fun fm w d a b s j k hs hc => ?_,
    fun fm w d a b s j k hs hc => ?_⟩
  · exact ⟨exec_aluR hs rfl hc (addV_eq .w64 _ _), exec_aluR hs rfl hc (subV_eq .w64 _ _),
      exec_aluR hs rfl hc (addV_eq w _ _), exec_aluR hs rfl hc (subV_eq w _ _), exec_aluR hs rfl hc (mulV_eq w _ _)⟩
  · exact ⟨exec_aluI hs rfl hc (addV_eq .w64 _ _), exec_aluI hs rfl hc (addV_eq w _ _)⟩
  · exact ⟨exec_aluR hs rfl hc (mulhV_eq w _ _), exec_aluR hs rfl hc (mulhuV_eq w _ _),
      exec_aluR hs rfl hc (divV_eq w _ _), exec_aluR hs rfl hc (divuV_eq w _ _),
      exec_aluR hs rfl hc (remV_eq w _ _), exec_aluR hs rfl hc (remuV_eq w _ _)⟩
  · exact ⟨exec_aluR hs rfl hc (minV_eq w _ _), exec_aluR hs rfl hc (maxV_eq w _ _),
      exec_aluR hs rfl hc (minuV_eq w _ _), exec_aluR hs rfl hc (maxuV_eq w _ _)⟩

/-- Settles O2: the logical instructions on the whole words (`wr_toNat`), the shifts by the value their operation gives at
an amount below the width. -/
theorem logicAndShiftResults : Obligations.LogicAndShiftResults := by
  unfold Obligations.LogicAndShiftResults
  refine ⟨fun fm w d a b imm s j k hs => ⟨fun hc => ?_, fun hc => ?_⟩,
    fun fm w d a b imm s j k hs => ⟨fun hc => ?_, fun hc hlt => ?_, fun hc _ => ?_⟩⟩
  · exact ⟨exec_aluR hs rfl hc (wr_toNat w _), exec_aluR hs rfl hc (wr_toNat w _), exec_aluR hs rfl hc (wr_toNat w _),
      exec_aluR hs rfl hc (wr_toNat w _)⟩
  · exact ⟨exec_aluI hs rfl hc (wr_toNat .w64 _), exec_aluI hs rfl hc (wr_toNat w _), exec_aluI hs rfl hc (wr_toNat w _),
      exec_aluI hs rfl hc (wr_toNat w _)⟩
  · exact ⟨exec_aluR hs rfl hc ((shlV_eq w _ _).trans (atWidth1_shAmt w _ _ fun _ x k => x <<< k)),
      exec_aluR hs rfl hc ((shrV_eq w _ _).trans (atWidth1_shAmt w _ _ fun _ x k => x >>> k)),
      exec_aluR hs rfl hc ((sraV_eq w _ _).trans (atWidth1_shAmt w _ _ fun _ x k => x.sshiftRight k)),
      exec_aluR hs rfl hc ((rotrV_eq w _ _ (shAmt_lt w _)).trans (atWidth1_shAmt w _ _ fun _ x k => x.rotateRight k))⟩
  · exact ⟨exec_aluN hs rfl hc (shlV_eq w _ _), exec_aluN hs rfl hc (shrV_eq w _ _), exec_aluN hs rfl hc (sraV_eq w _ _),
      exec_aluN hs rfl hc (rotrV_eq w _ _ hlt)⟩
  · exact exec_aluN hs rfl hc (shlV_eq .w64 _ _)

end Sys2Proof.Machine

/-! PROOFS. Bit counting, byte reversal, extension and bit fields (R102). -/

namespace Sys2Proof.Machine

/-! ## Counting -/

section
variable {n : Nat} (x : BitVec n)

/-- The bits above the leading zeros are as many as the number is long. -/
theorem bitLength_add_clz : bitLength x.toNat + x.clz.toNat = n := by
  by_cases hx : x = 0#n
  · have hclz : x.clz = n := BitVec.clz_eq_iff_eq_zero.2 hx
    rw [hclz, hx]
    simp [bitLength]
  · have hn : 0 < n := Nat.pos_of_ne_zero fun h => hx (by subst h; exact BitVec.of_length_zero)
    have hlt : x.clz.toNat < n := by simpa [BitVec.lt_def] using BitVec.clz_lt_iff_ne_zero.2 hx
    have hne : x.toNat ≠ 0 := fun h => hx ((toNat_eq_zero_iff x).1 h)
    have hlog : Nat.log2 x.toNat = n - x.clz.toNat - 1 := by
      refine (Nat.log2_eq_iff hne).2 ⟨?_, ?_⟩
      · have h := BitVec.two_pow_sub_clz_le_toNat_of_ne_zero hn hx
        rwa [show n - x.clz.toNat - 1 = n - 1 - x.clz.toNat by omega]
      · rw [show n - x.clz.toNat - 1 + 1 = n - x.clz.toNat by omega]
        exact BitVec.toNat_lt_two_pow_sub_clz
    rw [bitLength, if_neg hne, hlog]
    omega

theorem ofNat_clz : BitVec.ofNat n (n - bitLength x.toNat) = x.clz := by
  have h := bitLength_add_clz x
  rw [show n - bitLength x.toNat = x.clz.toNat by omega, BitVec.ofNat_toNat, BitVec.setWidth_eq]

/-- The number of zeros below the lowest one bit, or of all bits where there is none. -/
theorem trailingZeros_eq {k v : Nat} (hk : k ≤ n) (hlow : ∀ i < k, v.testBit i = false)
    (hbit : k = n ∨ v.testBit k = true) : trailingZeros n v = k := by
  induction n generalizing k v with
  | zero => exact (Nat.le_zero.1 hk).symm
  | succ n ih =>
    rw [trailingZeros]
    cases k with
    | zero =>
      have hone : v.testBit 0 = true := hbit.resolve_left (by omega)
      rw [if_pos (by simpa using hone)]
    | succ k =>
      have hzero : v.testBit 0 = false := hlow 0 (by omega)
      rw [if_neg (by simpa using hzero), ih (v := v / 2) (k := k) (by omega)]
      · omega
      · exact fun i hi => (Nat.testBit_div_two ..).trans (hlow (i + 1) (by omega))
      · exact hbit.imp Nat.succ.inj fun h => (Nat.testBit_div_two ..).trans h

theorem trailingZeros_toNat : trailingZeros n x.toNat = x.ctz.toNat := by
  have hle : x.ctz.toNat ≤ n := by
    have h : x.ctz ≤ n := BitVec.clz_le
    simpa [BitVec.le_def] using h
  refine trailingZeros_eq hle (fun i hi => BitVec.getLsbD_false_of_lt_ctz hi) ?_
  by_cases hx : x = 0#n
  · refine .inl ?_
    have h : x.ctz = n := BitVec.clz_eq_iff_eq_zero.2 (BitVec.reverse_eq_zero_iff.2 hx)
    rw [h]
    simp
  · exact .inr (BitVec.getLsbD_true_ctz_of_ne_zero hx)

/-- The number of one bits, counted from the top. -/
theorem oneBits_succ (k v : Nat) : oneBits (k + 1) v = oneBits k v + (v.testBit k).toNat := by
  induction k generalizing v with
  | zero => rw [oneBits, oneBits, oneBits, Nat.toNat_testBit, pow_zero, Nat.div_one, Nat.add_comm]
  | succ k ih => rw [oneBits, ih, oneBits, Nat.testBit_div_two, Nat.add_assoc]

theorem oneBits_toNat (k : Nat) : oneBits k x.toNat = x.cpopNatRec k 0 := by
  induction k with
  | zero => rfl
  | succ k ih => rw [oneBits_succ, ih, BitVec.cpopNatRec_succ, BitVec.cpopNatRec_eq (0 + _), Nat.zero_add]; rfl

end

/-! ## Bytes -/

theorem bytesOfNat_length (n v : Nat) : (bytesOfNat n v).length = n := by
  induction n generalizing v with
  | zero => rfl
  | succ n ih => rw [bytesOfNat, List.length_cons, ih]

/-- Byte `i` of the little-endian bytes of a number. -/
theorem getElem_bytesOfNat {n v i : Nat} (h : i < (bytesOfNat n v).length) :
    (bytesOfNat n v)[i] = BitVec.ofNat 8 (v >>> (8 * i)) := by
  induction n generalizing v i with
  | zero => exact absurd h (Nat.not_lt_zero i)
  | succ n ih =>
    cases i with
    | zero => rfl
    | succ i =>
      have hstep : (v / 256) >>> (8 * i) = v >>> (8 * (i + 1)) := by
        rw [show v / 256 = v >>> 8 from (Nat.shiftRight_eq_div_pow v 8).symm, ← Nat.shiftRight_add]
        congr 1
        omega
      simp only [bytesOfNat, List.getElem_cons_succ]
      rw [ih, hstep]

/-- The little-endian number of a list of bytes has each of them in its place. -/
theorem natOfBytes_shiftRight {l : List Byte} {i : Nat} (h : i < l.length) :
    BitVec.ofNat 8 (natOfBytes l >>> (8 * i)) = l[i] := by
  induction l generalizing i with
  | nil => exact absurd h (Nat.not_lt_zero i)
  | cons b l ih =>
    cases i with
    | zero => exact BitVec.eq_of_toNat_eq (by
      rw [BitVec.toNat_ofNat, Nat.mul_zero, Nat.shiftRight_zero, natOfBytes, Nat.add_mul_mod_self_left, Nat.mod_eq_of_lt b.isLt]
      rfl)
    | succ i =>
      have hstep : natOfBytes (b :: l) >>> (8 * (i + 1)) = natOfBytes l >>> (8 * i) := by
        rw [show 8 * (i + 1) = 8 + 8 * i by omega, Nat.shiftRight_add, Nat.shiftRight_eq_div_pow _ 8, natOfBytes,
          Nat.add_mul_div_left _ _ (by decide), Nat.div_eq_of_lt b.isLt, Nat.zero_add]
      rw [hstep, ih, List.getElem_cons_succ]

theorem extractLsb'_byte_ofNat {m s : Nat} (N : Nat) (h : s + 8 ≤ m) :
    (BitVec.ofNat m N).extractLsb' s 8 = BitVec.ofNat 8 (N >>> s) := by
  refine BitVec.eq_of_getLsbD_eq fun i hi => ?_
  rw [BitVec.getLsbD_extractLsb', BitVec.getLsbD_ofNat, BitVec.getLsbD_ofNat, Nat.testBit_shiftRight,
    decide_eq_true (show s + i < m by omega), Bool.true_and]

theorem testBit_opndU (w : Width) (x : Word) {i : Nat} (h : i < w.bits) : (opndU w x).testBit i = x.getLsbD i := by
  rw [opndU, Nat.testBit_mod_two_pow, decide_eq_true h, Bool.true_and]
  rfl

theorem rev8V_eq (w : Width) (x : Word) : ∃ y, rev8V w x = narrow w y ∧
    ∀ i, i < w.bits / 8 → y.extractLsb' (8 * i) 8 = x.extractLsb' (w.bits - 8 - 8 * i) 8 := by
  refine ⟨BitVec.ofNat 64 (natOfBytes (bytesOfNat (w.bits / 8) (opndU w x)).reverse), ?_, fun i hi => ?_⟩
  · rw [rev8V, wr_natCast, narrow_eq, BitVec.setWidth_ofNat_of_le (widthBits_le w)]
  · have hle := widthBits_le w
    have hbytes : 8 * (w.bits / 8) = w.bits := by cases w <;> rfl
    have hlen : i < (bytesOfNat (w.bits / 8) (opndU w x)).reverse.length := by
      rwa [List.length_reverse, bytesOfNat_length]
    rw [extractLsb'_byte_ofNat _ (by omega), natOfBytes_shiftRight hlen, List.getElem_reverse, getElem_bytesOfNat,
      bytesOfNat_length, show 8 * (w.bits / 8 - 1 - i) = w.bits - 8 - 8 * i by omega]
    refine BitVec.eq_of_getLsbD_eq fun j hj => ?_
    rw [BitVec.getLsbD_ofNat, Nat.testBit_shiftRight, testBit_opndU _ _ (by omega), BitVec.getLsbD_extractLsb']

/-! ## The results of R102 -/

section
variable (w : Width) (x : Word)

theorem clzV_eq : clzV w x = atWidth1 w (fun _ x => x.clz) x := by
  rw [clzV, wr_natCast, opndU_eq, ofNat_clz, atWidth1_eq]

theorem ctzV_eq : ctzV w x = atWidth1 w (fun _ x => x.ctz) x := by
  rw [ctzV, wr_natCast, opndU_eq, trailingZeros_toNat, BitVec.ofNat_toNat, BitVec.setWidth_eq, atWidth1_eq]

theorem popcV_eq : popcV w x = atWidth1 w (fun _ x => x.cpop) x := by
  rw [popcV, wr_natCast, opndU_eq, oneBits_toNat, atWidth1_eq]
  rfl

theorem sextV_eq (e : Ex) : sextV e x = (x.setWidth e.bits).signExtend 64 := by
  rw [sextV, sext_eq_toInt, BitVec.ofNat_toNat]
  rfl

theorem zextV_eq (e : Ex) : zextV e x = (x.setWidth e.bits).setWidth 64 := by
  rw [zextV, ← BitVec.toNat_setWidth, BitVec.ofNat_toNat]

theorem fieldMask_add_one (imm : Nat) : fieldMask imm + 1 = 2 ^ (imm / 64 + 1) :=
  Nat.sub_add_cancel Nat.one_le_two_pow

/-- A field that lies within the width (R98). -/
theorem bfxV_eq {imm : Nat} (h : imm % 64 + (imm / 64 + 1) ≤ w.bits) :
    bfxV w x imm = narrow w ((x.extractLsb' (imm % 64) (imm / 64 + 1)).setWidth 64) := by
  have hle := widthBits_le w
  rw [bfxV, fieldPos, fieldMask_add_one, ← wr_toNat]
  congr 2
  refine Nat.eq_of_testBit_eq fun i => ?_
  have hfield : ((x.extractLsb' (imm % 64) (imm / 64 + 1)).setWidth 64).toNat.testBit i =
      (decide (i < 64) && (decide (i < imm / 64 + 1) && x.getLsbD (imm % 64 + i))) := by
    rw [BitVec.testBit_toNat, BitVec.getLsbD_setWidth, BitVec.getLsbD_extractLsb']
  rw [hfield, Nat.testBit_mod_two_pow, Nat.testBit_div_two_pow]
  by_cases hi : i < imm / 64 + 1
  · rw [Nat.add_comm i, testBit_opndU _ _ (by omega), decide_eq_true (show i < 64 by omega), Bool.true_and]
  · simp [hi]

theorem bfiV_eq (old : Word) {imm : Nat} (h : imm % 64 + (imm / 64 + 1) ≤ w.bits) : ∃ y, bfiV w old x imm = narrow w y ∧
    ∀ i, i < w.bits → y.getLsbD i =
      if imm % 64 ≤ i ∧ i < imm % 64 + (imm / 64 + 1) then x.getLsbD (i - imm % 64) else old.getLsbD i := by
  refine ⟨_, wr_toNat w _, fun i hi => ?_⟩
  have hle := widthBits_le w
  have hi64 : i < 64 := by omega
  simp only [fieldPos, fieldMask_add_one]
  simp only [BitVec.getLsbD_or, BitVec.getLsbD_and, BitVec.getLsbD_not, BitVec.getLsbD_ofNat,
    fieldMask, hi64, decide_true, Bool.true_and, testBit_opndU _ _ hi, Nat.testBit_mul_two_pow, Nat.testBit_two_pow_sub_one,
    Nat.testBit_mod_two_pow]
  by_cases hin : imm % 64 ≤ i ∧ i < imm % 64 + (imm / 64 + 1)
  · rw [if_pos hin, testBit_opndU _ _ (by omega)]
    simp [hin.1, show i - imm % 64 < imm / 64 + 1 by omega]
  · rw [if_neg hin]
    by_cases hlo : imm % 64 ≤ i
    · simp [hlo, show ¬ i - imm % 64 < imm / 64 + 1 by omega]
    · simp [hlo]

end

/-- Settles O3: each instruction by its form (`exec_aluU`, `exec_aluN`) and the value its operation gives; `BFI`, which reads
its destination, by itself. -/
theorem bitFieldResults : Obligations.BitFieldResults := by
  unfold Obligations.BitFieldResults
  intro fm w e d a imm s j k hs hc
  obtain ⟨y, hy, hbytes⟩ := rev8V_eq w (rg s (fm.a j a))
  refine ⟨exec_aluU hs rfl hc (clzV_eq w _), exec_aluU hs rfl hc (ctzV_eq w _), exec_aluU hs rfl hc (popcV_eq w _),
    ⟨y, exec_aluU hs rfl hc hy, hbytes⟩, exec_aluU hs rfl hc (sextV_eq _ e), exec_aluU hs rfl hc (zextV_eq _ e),
    fun hw => ⟨exec_aluN hs rfl hc (bfxV_eq w _ hw), fun hd => ?_⟩⟩
  obtain ⟨y, hy, hbits⟩ := bfiV_eq w (rg s (fm.a j a)) (rg s (fm.d j d)) hw
  refine ⟨y, ?_, hbits⟩
  rw [show exec (.bfi fm w d a imm) s = execBfi fm w d a imm s from rfl, execBfi, ← hy]
  exact runRep_ok hs (by simp only [need_ok (clean_pair hc hd)]; rfl)

end Sys2Proof.Machine

/-! PROOFS. Moves, comparisons, predicate operations and control transfers (R103 to R107). -/

namespace Sys2Proof.Machine

/-! ## Moves -/

section
variable {i : Instr} {fm : Form} {s : State} {len d j k : Nat}
  (hs : startAt fm s = some (j, k))
include hs

theorem exec_loadImmediate {imm : Int}
    (hx : exec i s = runRep fm len (fun j _ s => .ok (wg s (fm.d j d) (ofInt (fm.i j imm)))) s) :
    exec i s = .next (completes fm len j (wg s (fm.d j d) (BitVec.ofInt 64 (fm.i j imm)))) := by
  rw [hx, runRep_ok hs rfl]
  rfl

theorem execLea_completes {a : Nat} {imm : Int} (hc : clean s [.g (fm.a j a)] = true) :
    execLea fm d a imm s = .next (completes fm (fm.len 3) j (wg s (fm.d j d)
      (if fm.a j a = 0 then s.pc + BitVec.ofNat 64 (fm.len 3) - 2 + 2 * BitVec.ofInt 64 (fm.i j imm)
       else rg s (fm.a j a) + BitVec.ofInt 64 (fm.i j imm)))) := by
  rw [execLea, ← relTarget_eq]
  exact runRep_ok hs (by simp only [need_ok hc]; rfl)

theorem execSel_completes {p a b : Nat} (hc : clean s [.p p, .g (fm.a j a), .g (fm.b j b)] = true) :
    execSel fm p d a b s = .next (completes fm (fm.len 3) j
      (wg s (fm.d j d) (if rp s p then rg s (fm.a j a) else rg s (fm.b j b)))) :=
  runRep_ok hs (by simp only [need_ok hc]; rfl)

end

/-- Settles O4: `LI` loads its immediate, `MOV` is the one-operand form of the identity, `LEA` takes `relTarget_eq` where
field a is 0. -/
theorem moveResults : Obligations.MoveResults := by
  unfold Obligations.MoveResults
  intro fm d a b p imm s j k hs
  exact ⟨exec_loadImmediate hs rfl, exec_loadImmediate hs rfl,
    fun hc => ⟨exec_aluU hs rfl hc rfl, exec_aluU hs rfl hc rfl, execLea_completes hs hc⟩, execSel_completes hs⟩

/-! ## Comparisons and predicates -/

/-- The conditions as comparisons of words (R104). -/
theorem cmpV_eq (c : Cc) (x y : Word) : cmpV c x y = match c with
    | .eq => x == y
    | .ne => x != y
    | .lt => x.slt y
    | .ge => !x.slt y
    | .ltu => x.ult y
    | .geu => !x.ult y := by
  cases c with
  | eq => exact (beq_eq_decide x y).symm
  | ne => exact decide_not.trans (congrArg not (beq_eq_decide x y).symm)
  | lt => rfl
  | ge => exact (decide_eq_decide.2 not_lt.symm).trans decide_not
  | ltu => rfl
  | geu => exact (decide_eq_decide.2 not_lt.symm).trans decide_not

theorem execCmp_completes {fm : Form} {c : Cc} {d a b j k : Nat} {s : State} (hs : startAt fm s = some (j, k))
    (hc : clean s [.g (fm.a j a), .g (fm.b j b)] = true) :
    execCmp fm c d a b s = .next (completes fm (fm.len 4) j
      (wp s (fm.d j d) (cmpV c (rg s (fm.a j a)) (rg s (fm.b j b))))) :=
  runRep_ok hs (by simp only [need_ok hc]; rfl)

theorem execCmpi_completes {fm : Form} {c : Cc} {d a j k : Nat} {imm : Int} {s : State} (hs : startAt fm s = some (j, k))
    (hc : clean s [.g (fm.a j a)] = true) :
    execCmpi fm c d a imm s = .next (completes fm (fm.len 4) j
      (wp s (fm.d j d) (cmpV c (rg s (fm.a j a)) (BitVec.ofInt 64 (fm.i j imm))))) :=
  runRep_ok hs (by simp only [need_ok hc]; rfl)

theorem predR_ok {s : State} {d a b : Nat} {f : Bool → Bool → Bool} (hc : clean s [.p a, .p b] = true) :
    predR d a b f s = .ok (wp s d (f (rp s a) (rp s b))) := by
  simp only [predR, need_ok hc]
  rfl

theorem execPnot_retires {fm : Form} {d a : Nat} {s : State} (hc : clean s [.p a] = true) :
    execPnot fm d a s = retires (fm.len 4) (wp s d (!rp s a)) :=
  runOne_ok (by simp only [need_ok hc]; rfl)

theorem execPmov_retires {fm : Form} {d a : Nat} {s : State} (hc : clean s [.g a] = true) :
    execPmov fm d a s = retires (fm.len 4) (wp s d (rg s a != 0)) := by
  have hne : decide (rg s a ≠ 0) = (rg s a != 0) := cmpV_eq .ne _ _
  rw [← hne]
  exact runOne_ok (by simp only [need_ok hc]; rfl)

/-- Settles O5: comparisons by `cmpV_eq`, operations on two predicates by `predR_ok`. -/
theorem predicateResults : Obligations.PredicateResults := by
  unfold Obligations.PredicateResults
  intro fm c d a b imm s j k hs
  refine ⟨fun hc => (execCmp_completes hs hc).trans (by rw [cmpV_eq] <;> rfl),
    fun hc => (execCmpi_completes hs hc).trans (by rw [cmpV_eq] <;> rfl),
    fun hc => ⟨runOne_ok (predR_ok hc), runOne_ok (predR_ok hc), runOne_ok (predR_ok hc)⟩, execPnot_retires, execPmov_retires⟩

/-! ## Control transfers -/

section
variable (fm : Form) (page : Nat) {d a : Nat} {imm : Int} {s : State}

theorem branch_ok : branch fm page imm s =
    .ok (s, s.pc + BitVec.ofNat 64 (fm.len page) - 2 + 2 * BitVec.ofInt 64 imm) := by
  rw [branch, relTarget_eq]

theorem jumpLink_ok : jumpLink fm page d imm s = .ok (wg s d (s.pc + BitVec.ofNat 64 (fm.len page)),
    s.pc + BitVec.ofNat 64 (fm.len page) - 2 + 2 * BitVec.ofInt 64 imm) := by
  rw [jumpLink, relTarget_eq]
  rfl

theorem branchIf_ok (hc : clean s [.p d] = true) : branchIf fm page d imm s =
    .ok (s, if rp s d then s.pc + BitVec.ofNat 64 (fm.len page) - 2 + 2 * BitVec.ofInt 64 imm
      else s.pc + BitVec.ofNat 64 (fm.len page)) := by
  rw [branchIf, need_ok hc, relTarget_eq]
  rfl

theorem jumpReg_ok (hc : clean s [.g a] = true) (heven : (rg s a + BitVec.ofInt 64 imm).getLsbD 0 = false) :
    jumpReg fm page d a imm s =
      .ok (wg s d (s.pc + BitVec.ofNat 64 (fm.len page)), rg s a + BitVec.ofInt 64 imm) := by
  rw [jumpReg, need_ok hc]
  exact if_neg (by rw [ofInt, heven]; decide)

theorem jumpReg_align (hc : clean s [.g a] = true) (hodd : (rg s a + BitVec.ofInt 64 imm).getLsbD 0 = true) :
    jumpReg fm page d a imm s = raiseAccess 0x04 0 (rg s a + BitVec.ofInt 64 imm) s := by
  rw [jumpReg, need_ok hc]
  exact if_pos hodd

end

/-- Settles O6: each transfer by what it gives its target and its link (`branch_ok`, `jumpLink_ok`, `branchIf_ok`,
`jumpReg_ok`, `jumpReg_align`). -/
theorem transferResults : Obligations.TransferResults := by
  unfold Obligations.TransferResults
  intro fm d a imm s
  exact ⟨runTo_ok (branch_ok fm 0), runTo_ok (branch_ok fm 4), runTo_ok (jumpLink_ok fm 0), runTo_ok (jumpLink_ok fm 4),
    fun hc => ⟨runTo_ok (branchIf_ok fm 0 hc), runTo_ok (branchIf_ok fm 4 hc)⟩,
    fun hc => ⟨fun heven => ⟨runTo_ok (jumpReg_ok fm 0 hc heven), runTo_ok (jumpReg_ok fm 4 hc heven)⟩,
      fun hodd => ⟨runTo_trap (jumpReg_align fm 0 hc hodd), runTo_trap (jumpReg_align fm 4 hc hodd)⟩⟩⟩

end Sys2Proof.Machine

/-! PROOFS. The scalar accesses by their sources, address and bytes, and the misaligned ones (R109 to R113, R115, R331). -/

namespace Sys2Proof.Machine

/-! ## Scalar loads and stores in one form -/

/-- A scalar load: its sources, its address, its size, and what it does with the bytes. -/
def scalarLoad (fm : Form) (len : Nat) (srcs : Nat → List Src) (va : Nat → State → Word) (n : Nat)
    (put : Nat → List Byte → State → State) (s : State) : Out :=
  runRep fm len (fun j _ s => do
    let _ ← need s (srcs j)
    let (s1, v) ← loadScalar false .scalar (va j s) n s
    .ok (put j v s1)) s

/-- A scalar store: its sources, its address and its bytes. -/
def scalarStore (fm : Form) (len : Nat) (srcs : Nat → List Src) (va : Nat → State → Word)
    (data : Nat → State → List Byte) (s : State) : Out :=
  runRep fm len (fun j _ s => do
    let _ ← need s (srcs j)
    storeScalar (va j s) (data j s) s) s

section
variable (fm : Form) (z : Sz) (e : Ex) (f : Fs) (w : Wd) (d a b : Nat) (imm : Int) (s : State)

theorem exec_ldP0 : exec (.ldP0 fm d a imm) s = scalarLoad fm (fm.len 0) (fun j => [.g (fm.a j a)])
    (fun j => eaImm fm j a imm 8) 8 (fun j v s => wg s (fm.d j d) (loadedS v)) s := rfl

theorem exec_fldP0 : exec (.fldP0 fm d a imm) s = scalarLoad fm (fm.len 0) (fun j => [.g (fm.a j a)])
    (fun j => eaImm fm j a imm 8) 8 (fun j v s => wf s (fm.d j d) (loadedU v)) s := rfl

theorem exec_ld : exec (.ld fm z d a imm) s = scalarLoad fm (fm.len 5) (fun j => [.g (fm.a j a)])
    (fun j => eaImm fm j a imm z.bytes) z.bytes (fun j v s => wg s (fm.d j d) (loadedS v)) s := rfl

theorem exec_ldz : exec (.ldz fm e d a imm) s = scalarLoad fm (fm.len 5) (fun j => [.g (fm.a j a)])
    (fun j => eaImm fm j a imm e.bytes) e.bytes (fun j v s => wg s (fm.d j d) (loadedU v)) s := rfl

theorem exec_fld : exec (.fld fm f d a imm) s = scalarLoad fm (fm.len 6) (fun j => [.g (fm.a j a)])
    (fun j => eaImm fm j a imm f.bytes) f.bytes (fun j v s => wf s (fm.d j d) (loadedU v)) s := rfl

theorem exec_ldp : exec (.ldp fm w d a imm) s = scalarLoad fm (fm.len 5) (fun j => [.g (fm.a j a)])
    (fun j => eaImm fm j a imm (2 * w.bytes)) (2 * w.bytes) (fun j v s =>
      wg (wg s (fm.d j d) (loadedS (v.take w.bytes))) (fm.d j d + 1) (loadedS (v.drop w.bytes))) s := rfl

theorem exec_ldx : exec (.ldx fm z d a b) s = scalarLoad fm (fm.len 5) (fun j => [.g (fm.a j a), .g (fm.b j b)])
    (fun j => eaIdx fm j a b z.bytes) z.bytes (fun j v s => wg s (fm.d j d) (loadedS v)) s := rfl

theorem exec_stP0 : exec (.stP0 fm d a imm) s = scalarStore fm (fm.len 0) (fun j => [.g (fm.a j a), .g (fm.d j d)])
    (fun j => eaImm fm j a imm 8) (fun j s => bytesOfWord 8 (rg s (fm.d j d))) s := rfl

theorem exec_st : exec (.st fm z d a imm) s = scalarStore fm (fm.len 5) (fun j => [.g (fm.a j a), .g (fm.d j d)])
    (fun j => eaImm fm j a imm z.bytes) (fun j s => bytesOfWord z.bytes (rg s (fm.d j d))) s := rfl

theorem exec_stx : exec (.stx fm z d a b) s =
    scalarStore fm (fm.len 5) (fun j => [.g (fm.a j a), .g (fm.b j b), .g (fm.d j d)])
      (fun j => eaIdx fm j a b z.bytes) (fun j s => bytesOfWord z.bytes (rg s (fm.d j d))) s := rfl

theorem exec_stp : exec (.stp fm w d a imm) s =
    scalarStore fm (fm.len 5) (fun j => [.g (fm.a j a), .g (fm.d j d), .g (fm.d j d + 1)])
      (fun j => eaImm fm j a imm (2 * w.bytes)) (fun j s =>
        bytesOfWord w.bytes (rg s (fm.d j d)) ++ bytesOfWord w.bytes (rg s (fm.d j d + 1))) s := rfl

theorem exec_fst : exec (.fst fm f d a imm) s = scalarStore fm (fm.len 6) (fun j => [.g (fm.a j a), .f (fm.d j d)])
    (fun j => eaImm fm j a imm f.bytes) (fun j s => bytesOfWord f.bytes (rf s (fm.d j d))) s := rfl

end

@[simp] theorem bytesOfWord_length (n : Nat) (x : Word) : (bytesOfWord n x).length = n := bytesOfNat_length ..

theorem pair_length (n : Nat) (x y : Word) : (bytesOfWord n x ++ bytesOfWord n y).length = 2 * n := by
  rw [List.length_append, bytesOfWord_length, bytesOfWord_length, Nat.two_mul]

section
variable {s : State} {x y z : Src} (hxy : clean s [x, y] = true) (hz : clean s [z] = true)
include hxy hz

theorem clean_last : clean s [x, y, z] = true := by
  rw [clean_cons] at hxy ⊢
  exact ⟨hxy.1, clean_pair hxy.2 hz⟩

theorem clean_middle : clean s [x, z, y] = true := by
  rw [clean_cons] at hxy ⊢
  exact ⟨hxy.1, clean_pair hz hxy.2⟩

end

/-- The address of an instruction that is not repeated. -/
theorem eaImm_zero (fm : Form) (a : Nat) (imm : Int) (unit : Nat) (s : State) :
    eaImm fm 0 a imm unit s = rg s a + BitVec.ofInt 64 (imm * unit) := by
  rw [eaImm, Form.a_zero, Form.i_zero]
  rfl

/-! ## Misaligned accesses -/

theorem checkScalar_misaligned {k : AccKind} (c : AccClass) {va : Word} {n : Nat} (s : State) (h : va.toNat % n ≠ 0) :
    checkScalar k c va n s = .error (.trap ⟨0x04, k.bit, va, true, 0⟩ s) := if_pos h

section
variable {fm : Form} {len n j k : Nat} {srcs : Nat → List Src} {va : Nat → State → Word} {s : State}
  (hs : startAt fm s = some (j, k)) (hc : clean s (srcs j) = true) (h : (va j s).toNat % n ≠ 0)
include hs hc h

theorem scalarLoad_misaligned {put : Nat → List Byte → State → State} :
    scalarLoad fm len srcs va n put s =
      .next (takeTrap (if fm.rep.isSome then some (fm.count - j) else none) ⟨0x04, 0, va j s, true, 0⟩ s) :=
  runRep_trap hs (by simp only [need_ok hc, loadScalar, checkScalar_misaligned .scalar s h]; rfl)

theorem scalarStore_misaligned {data : Nat → State → List Byte} (hlen : (data j s).length = n) :
    scalarStore fm len srcs va data s =
      .next (takeTrap (if fm.rep.isSome then some (fm.count - j) else none) ⟨0x04, 1, va j s, true, 0⟩ s) := by
  subst hlen
  exact runRep_trap hs (by simp only [need_ok hc, storeScalar, checkScalar_misaligned .scalar s h]; rfl)

end

section
variable {fm : Form} {o : Order} {sc : Scope} {w : Wd} {d a b : Nat} {imm : Int} {s : State}

section
variable (hc : clean s [.g a] = true) (h : (rg s a + BitVec.ofInt 64 (imm * w.bytes)).toNat % w.bytes ≠ 0)
include hc h

theorem execLda_misaligned : execLda fm sc w d a imm s =
    .next (takeTrap none ⟨0x04, 0, rg s a + BitVec.ofInt 64 (imm * w.bytes), true, 0⟩ s) :=
  runOne_trap (by simp only [need_ok hc, eaImm_zero, loadScalar, checkScalar_misaligned .scalar s h]; rfl)

theorem execLdw_misaligned : execLdw fm w d a imm s =
    .next (takeTrap none ⟨0x04, 0, rg s a + BitVec.ofInt 64 (imm * w.bytes), true, 0⟩ s) :=
  runOne_trap (by simp only [need_ok hc, eaImm_zero, checkScalar_misaligned .ldw s h]; rfl)

theorem execStl_misaligned (hd : clean s [.g d] = true) : execStl fm sc w d a imm s =
    .next (takeTrap none ⟨0x04, 1, rg s a + BitVec.ofInt 64 (imm * w.bytes), true, 0⟩ s) :=
  runOne_trap (by simp only [need_ok (clean_pair hc hd), eaImm_zero, checkScalar_misaligned .scalar s h]; rfl)

end

theorem execWaitne_misaligned (hc : clean s [.g a, .g b] = true) (h : (rg s a).toNat % 8 ≠ 0) :
    execWaitne fm d a b s = .next (takeTrap none ⟨0x04, 0, rg s a, true, 0⟩ s) :=
  runOne_trap (by simp only [need_ok hc, checkScalar_misaligned .scalar s h]; rfl)

/-- An atomic that has not been sent is checked first. -/
theorem runAtomic_misaligned {op : AmoOp} {rel : Option Nat} {va : Word} {n : Nat} {src cmp : Word}
    (hsent : s.ctx.aux.sent = .nothing) (h : va.toNat % n ≠ 0) :
    runAtomic op rel va n src cmp s = .error (.trap ⟨0x04, 1, va, true, 0⟩ s) := by
  rw [runAtomic, hsent]
  simp only [checkScalar_misaligned (.atomic op.code) s h]
  rfl

theorem amoInt_misaligned {op : AmoOp} (hc : clean s ([.g a, .g b] ++ if op = .cas then [Src.g d] else []) = true)
    (hsent : s.ctx.aux.sent = .nothing) (h : (rg s a).toNat % w.bytes ≠ 0) :
    runOne (fm.len 8) (amoInt op o w sc d a b) s = .next (takeTrap none ⟨0x04, 1, rg s a, true, 0⟩ s) :=
  runOne_trap (by simp only [amoInt, need_ok hc, runAtomic_misaligned hsent h]; rfl)

theorem execAmofadd_misaligned (hc : clean s [.g a, .f b] = true) (hsent : s.ctx.aux.sent = .nothing)
    (h : (rg s a).toNat % w.bytes ≠ 0) :
    execAmofadd fm o w sc d a b s = .next (takeTrap none ⟨0x04, 1, rg s a, true, 0⟩ s) :=
  runOne_trap (by simp only [need_ok hc, runAtomic_misaligned hsent h]; rfl)

end

/-- Settles O10: each scalar load and store in its one form, the others each by its first check
(`checkScalar_misaligned`). -/
theorem misalignedAccessesTrap : Obligations.MisalignedAccessesTrap := by
  unfold Obligations.MisalignedAccessesTrap
  intro fm z e f w o sc d a b imm s j k hs
  refine ⟨fun hc => ⟨?_, ?_, ?_, ?_, ?_, ?_, fun hb => ?_⟩, fun hc => ?_, fun hc => ⟨?_, ?_, fun hd => ?_, fun hb => ?_⟩,
    fun hc => ⟨execLda_misaligned hc, execLdw_misaligned hc, fun hd h => execStl_misaligned hc h hd,
      fun hb => execWaitne_misaligned (clean_pair hc hb)⟩,
    fun hc hsent => ⟨?_, fun hd => ?_⟩, execAmofadd_misaligned⟩
  · exact fun h => (exec_ldP0 fm d a imm s).trans (scalarLoad_misaligned hs hc h)
  · exact fun h => (exec_fldP0 fm d a imm s).trans (scalarLoad_misaligned hs hc h)
  · exact fun h => (exec_ld fm z d a imm s).trans (scalarLoad_misaligned hs hc h)
  · exact fun h => (exec_ldz fm e d a imm s).trans (scalarLoad_misaligned hs hc h)
  · exact fun h => (exec_fld fm f d a imm s).trans (scalarLoad_misaligned hs hc h)
  · exact fun h => (exec_ldp fm w d a imm s).trans (scalarLoad_misaligned hs hc h)
  · exact fun h => (exec_ldx fm z d a b s).trans (scalarLoad_misaligned hs (clean_pair hc hb) h)
  · exact fun h => (exec_fst fm f d a imm s).trans (scalarStore_misaligned hs hc h (bytesOfWord_length ..))
  · exact fun h => (exec_stP0 fm d a imm s).trans (scalarStore_misaligned hs hc h (bytesOfWord_length ..))
  · exact fun h => (exec_st fm z d a imm s).trans (scalarStore_misaligned hs hc h (bytesOfWord_length ..))
  · exact fun h => (exec_stp fm w d a imm s).trans (scalarStore_misaligned hs (clean_last hc hd) h (pair_length ..))
  · exact fun h =>
      (exec_stx fm z d a b s).trans (scalarStore_misaligned hs (clean_middle hc hb) h (bytesOfWord_length ..))
  · simp only [List.forall_mem_cons]
    exact ⟨amoInt_misaligned hc hsent, amoInt_misaligned hc hsent, amoInt_misaligned hc hsent, amoInt_misaligned hc hsent,
      amoInt_misaligned hc hsent, amoInt_misaligned hc hsent, amoInt_misaligned hc hsent, amoInt_misaligned hc hsent,
      amoInt_misaligned hc hsent, fun _ h => absurd h List.not_mem_nil⟩
  · exact amoInt_misaligned (op := .cas) (clean_last hc hd) hsent

end Sys2Proof.Machine

/-! PROOFS. Scalar loads that pass their checks (R109, R112, R113, R115). -/

namespace Sys2Proof.Machine

theorem natOfBytes_lt (l : List Byte) : natOfBytes l < 2 ^ (8 * l.length) := by
  induction l with
  | nil => exact Nat.one_pos
  | cons b l ih =>
    have hb := b.isLt
    rw [natOfBytes, List.length_cons, show 8 * (l.length + 1) = 8 + 8 * l.length by omega, pow_add]
    omega

theorem loadedU_eq_unsignedValue {n : Nat} {v : List Byte} (h : v.length = n) (hn : n ≤ 8) :
    loadedU v = unsignedValue n v :=
  (BitVec.setWidth_ofNat_of_le_of_lt (by omega) (h ▸ natOfBytes_lt v)).symm

theorem loadScalar_reaches {home : Bool} {va : Word} {n pa : Nat} {s s0 s1 : State} {d : List Byte}
    (hr : reaches .load va n s s0 pa) (hl : loadLine home pa n s0 = .ok (s1, d, false)) :
    loadScalar home .scalar va n s = .ok (s1, raceBytes s1 pa d) := by
  have ⟨_, _, hhbm, _⟩ := hr
  rw [loadScalar, checkScalar_reaches .scalar hr]
  exact loadPhys_line hhbm hl

theorem loadScalar_readable {va : Word} {n : Nat} {s s1 : State} {v : List Byte} (h : readable va n s s1 v) :
    loadScalar false .scalar va n s = .ok (s1, v) := by
  obtain ⟨-, s0, pa, d, hr, hl, rfl⟩ := h
  exact loadScalar_reaches hr hl

section
variable {fm : Form} {len n j k : Nat} {srcs : Nat → List Src} {va : Nat → State → Word} {s s1 : State} {v : List Byte}
  (hs : startAt fm s = some (j, k)) (hc : clean s (srcs j) = true) (hr : readable (va j s) n s s1 v)
include hs hc hr

theorem scalarLoad_readable {put : Nat → List Byte → State → State} :
    scalarLoad fm len srcs va n put s = .next (completes fm len j (put j v s1)) :=
  runRep_ok hs (by simp only [need_ok hc, loadScalar_readable hr]; rfl)

theorem scalarLoad_signed {d : Nat → Nat} :
    scalarLoad fm len srcs va n (fun j v s => wg s (d j) (loadedS v)) s =
      .next (completes fm len j (wg s1 (d j) (signedValue n v))) := by
  rw [scalarLoad_readable hs hc hr, loadedS_eq_signedValue hr.1]

theorem scalarLoad_unsigned {d : Nat → Nat} (wr : State → Nat → Word → State) (hn : n ≤ 8) :
    scalarLoad fm len srcs va n (fun j v s => wr s (d j) (loadedU v)) s =
      .next (completes fm len j (wr s1 (d j) (unsignedValue n v))) := by
  rw [scalarLoad_readable hs hc hr, loadedU_eq_unsignedValue hr.1 hn]

theorem scalarLoad_pair {m : Nat} {d : Nat → Nat} (hn : n = 2 * m) :
    scalarLoad fm len srcs va n
        (fun j v s => wg (wg s (d j) (loadedS (v.take m))) (d j + 1) (loadedS (v.drop m))) s =
      .next (completes fm len j (wg (wg s1 (d j) (signedValue m (v.take m))) (d j + 1) (signedValue m (v.drop m)))) := by
  have hlow : (v.take m).length = m := by rw [List.length_take, hr.1, hn]; omega
  have hhigh : (v.drop m).length = m := by rw [List.length_drop, hr.1, hn]; omega
  rw [scalarLoad_readable hs hc hr, loadedS_eq_signedValue hlow, loadedS_eq_signedValue hhigh]

end

/-- Settles O7: each load in its one form; the bytes it reads are as many as its size, so their value is the one the rules
give (`loadedS_eq_signedValue`, `loadedU_eq_unsignedValue`). -/
theorem loadResults : Obligations.LoadResults := by
  unfold Obligations.LoadResults
  intro fm z e f w d a b imm s s1 v j k hs hc
  refine ⟨fun hr => ⟨?_, ?_⟩, fun hr => ?_, fun hr => ?_, fun hr => ?_, fun hr => ?_, fun hb hr => ?_⟩
  · exact (exec_ldP0 fm d a imm s).trans (scalarLoad_signed hs hc hr)
  · exact (exec_fldP0 fm d a imm s).trans (scalarLoad_unsigned hs hc hr wf (Nat.le_refl 8))
  · exact (exec_ld fm z d a imm s).trans (scalarLoad_signed hs hc hr)
  · exact (exec_ldz fm e d a imm s).trans (scalarLoad_unsigned hs hc hr wg (by cases e <;> decide))
  · exact (exec_fld fm f d a imm s).trans (scalarLoad_unsigned hs hc hr wf (by cases f <;> decide))
  · exact (exec_ldp fm w d a imm s).trans (scalarLoad_pair hs hc hr rfl)
  · exact (exec_ldx fm z d a b s).trans (scalarLoad_signed hs (clean_pair hc hb) hr)

end Sys2Proof.Machine

/-! PROOFS. What a translation changes, and the place in its page of the address it gives (R309, R311 to R319). -/

namespace Sys2Proof.Machine

/-- Nothing but memory with its coherence state, the compressed pages and what the core remembers of translations has
changed. -/
def sameButTables (s t : State) : Prop :=
  ∃ m c z tlb np, t = { s with mem := m, coh := c, xlat.zipped := z, core.tlb := tlb, core.notPresent := np }

theorem sameButTables_refl (s : State) : sameButTables s s := ⟨_, _, _, _, _, rfl⟩

theorem sameButTables_trans {s t u : State} (h : sameButTables s t) (k : sameButTables t u) : sameButTables s u := by
  obtain ⟨_, _, _, _, _, rfl⟩ := h
  obtain ⟨_, _, _, _, _, rfl⟩ := k
  exact ⟨_, _, _, _, _, rfl⟩

theorem sameButTables_of_memory {s t : State} (h : sameButMemory s t) : sameButTables s t := by
  obtain ⟨_, _, rfl⟩ := h
  exact ⟨_, _, _, _, _, rfl⟩

/-! ## Expansion -/

/-- The definition is rewritten as a function: unfolded where it is applied, the kernel would evaluate the ring's counters. -/
theorem sameButMemory_ringTakeRun {r : Ring} {n f : Nat} {s t : State} (h : ringTakeRun r n s = some (f, t)) :
    sameButMemory s t := by
  have hdef : ringTakeRun = ringTakeRun := rfl
  conv at hdef => rhs; delta ringTakeRun
  rw [hdef] at h
  beta_reduce at h
  generalize ringAddrs s r = l at h
  extract_lets l run at h
  split at h
  · cases h
  · extract_lets rest h0 s1 at h
    rw [Option.some.injEq, Prod.mk.injEq] at h
    obtain ⟨-, rfl⟩ := h
    have hs1 : sameButMemory s s1 := List.foldlRecOn (motive := sameButMemory s) _ _ (sameButMemory_refl s)
      fun _ ht _ _ => sameButMemory_trans ht (agentWrite_sameButMemory ..)
    exact sameButMemory_trans hs1 (agentWrite_sameButMemory ..)

theorem sameButMemory_takePage {r : Ring} {n f : Nat} {s t : State} (h : takePage r n s = some (f, t)) :
    sameButMemory s t := by
  unfold takePage at h
  split at h
  · exact sameButMemory_ringTake h
  · exact sameButMemory_ringTakeRun h

theorem sameButTables_expandInto {e : Word} {frame : Nat} {s t : State} (h : expandInto e frame s = some t) :
    sameButTables s t := by
  unfold expandInto at h
  split at h
  · cases h
  · rename_i z _
    cases h
    exact sameButTables_trans (sameButTables_of_memory (agentWrite_sameButMemory frame z.data s)) ⟨_, _, _, _, _, rfl⟩

theorem sameButTables_expandPage {e : Word} {a : Nat} {s t : State} (h : expandPage e a s = some t) :
    sameButTables s t := by
  unfold expandPage at h
  split at h
  · cases h
  · split at h
    · cases h
    · rename_i f s1 htake
      obtain ⟨s2, hinto, rfl⟩ := Option.map_eq_some_iff.1 h
      have hleaves : sameButTables s2 ((pageEntries e a).foldl (fun s a => homeWrite a (bytesOfWord 8
          ((putBits (readPte s a) 12 40 (f / 4096) &&& ~~~(1#64 <<< 62)) ||| 1)) 0xFF false false s) s2) :=
        List.foldlRecOn (motive := sameButTables s2) _ _ (sameButTables_refl s2)
          fun _ ht _ _ => sameButTables_trans ht ⟨_, _, _, _, _, rfl⟩
      exact sameButTables_trans (sameButTables_of_memory (sameButMemory_takePage htake))
        (sameButTables_trans (sameButTables_expandInto hinto) hleaves)

/-! ## Translation -/

/-- A page is no smaller than 4 KiB. -/
theorem dvd_pageSize (lvl : Nat) (g64 : Bool) : 4096 ∣ 2 ^ pageBits lvl g64 := by
  have h : 12 ≤ pageBits lvl g64 := by
    unfold pageBits
    split
    · cases g64 <;> decide
    all_goals decide
  exact Nat.pow_dvd_pow 2 h

theorem leafPhys_page (lvl : Nat) (e : Word) (va : Nat) : leafPhys lvl e va % 4096 = va % 4096 := by
  have hdvd := dvd_pageSize lvl (e.getLsbD 61)
  obtain ⟨k, hk⟩ := Dvd.dvd.mul_left hdvd (pteAddr e / 2 ^ pageBits lvl (e.getLsbD 61))
  rw [leafPhys, hk, Nat.mul_add_mod, Nat.mod_mod_of_dvd _ hdvd]

/-- A translation that succeeds leaves the context and what the core has stored, and gives an address at the same place of
its page. -/
def translatesTo (va : Word) (s : State) : RunV Phys → Prop
  | .ok (t, ph) => sameButTables s t ∧ ph.pa % 4096 = va.toNat % 4096
  | .error _ => True

theorem heapTranslate_frame {sp : Space} {k : AccKind} {va : Word} {n : Nat} {s : State} (h : 4096 ∣ sp.hoffs) :
    translatesTo va s (heapTranslate sp k va n s) := by
  obtain ⟨m, hm⟩ := h
  have hpage : (va.toNat + sp.hoffs) % 2 ^ 52 % 4096 = va.toNat % 4096 := by omega
  simp only [heapTranslate]
  split
  · trivial
  · split
    · trivial
    · split
      · trivial
      · exact ⟨sameButTables_refl s, hpage⟩

theorem useLeaf_frame (sp : Space) (k : AccKind) (va : Word) (n lvl : Nat) (e : Word) (a : Nat) (s : State) :
    translatesTo va s (useLeaf sp k va n lvl e a s) := by
  unfold useLeaf
  lift_lets
  intro on s1 pa
  have hmarks : sameButTables s s1 := by
    unfold s1
    split
    · exact sameButTables_refl s
    · exact ⟨_, _, _, _, _, rfl⟩
  split
  · trivial
  · exact ⟨sameButTables_trans hmarks ⟨_, _, _, _, _, rfl⟩, leafPhys_page lvl e va.toNat⟩

/-- A translation from a state that differs from another in its tables alone. -/
theorem translatesTo_of_same {va : Word} {s t : State} {x : RunV Phys} (h : sameButTables s t)
    (hx : translatesTo va t x) : translatesTo va s x :=
  match x, hx with
  | .ok _, ⟨hu, hpage⟩ => ⟨sameButTables_trans h hu, hpage⟩
  | .error _, _ => trivial

theorem walkFor_frame (sp : Space) (k : AccKind) (va : Word) (n fuel : Nat) (s : State) :
    translatesTo va s (walkFor sp k va n fuel s) := by
  induction fuel generalizing s with
  | zero => trivial
  | succ fuel ih =>
    simp only [walkFor]
    split
    case h_1 | h_2 => trivial
    case h_3 lvl e a _ =>
      split
      · trivial
      · split
        · trivial
        · next s1 hs1 => exact translatesTo_of_same (sameButTables_expandPage hs1) (ih s1)
    case h_4 lvl e a _ =>
      split
      · trivial
      · exact useLeaf_frame ..

theorem tableTranslate_frame (sp : Space) (k : AccKind) (va : Word) (n : Nat) (s : State) :
    translatesTo va s (tableTranslate sp k va n s) := by
  have hforget : sameButTables s { s with core.tlb := s.core.tlb.filter (fun t => ¬ t.hits sp va.toNat) } :=
    ⟨_, _, _, _, _, rfl⟩
  simp only [tableTranslate]
  split
  case h_1 t _ =>
    split
    · split
      · exact translatesTo_of_same hforget (walkFor_frame ..)
      · split
        · trivial
        · exact ⟨sameButTables_refl s, leafPhys_page ..⟩
    · split
      · trivial
      · exact translatesTo_of_same hforget (walkFor_frame ..)
  case h_2 =>
    split
    · trivial
    · exact walkFor_frame ..

theorem translate_frame {k : AccKind} {va : Word} {n : Nat} {s t : State} {ph : Phys}
    (h : translate k va n s = .ok (t, ph)) : sameButTables s t ∧ ph.pa % 4096 = va.toNat % 4096 := by
  have hall : translatesTo va s (translate k va n s) := by
    simp only [translate, translateIn]
    split
    · trivial
    · split
      · exact heapTranslate_frame (Dvd.dvd.mul_left (by decide) _)
      · exact tableTranslate_frame ..
  rwa [h] at hall

theorem translate_ctx {k : AccKind} {va : Word} {n : Nat} {s t : State} {ph : Phys}
    (h : translate k va n s = .ok (t, ph)) : t.ctx = s.ctx ∧ t.core.sb = s.core.sb := by
  obtain ⟨⟨_, _, _, _, _, rfl⟩, -⟩ := translate_frame h
  exact ⟨rfl, rfl⟩

end Sys2Proof.Machine

/-! PROOFS. Scalar stores that pass their checks (R109, R112, R113, R115, R117, R251). -/

namespace Sys2Proof.Machine

/-! ## One entry of the store buffer -/

theorem pieceOrder_singleton {α : Type} (s : State) (pa : Nat) (x : α) : pieceOrder s pa [x] = [x] := rfl

theorem linePieces_nil (fuel pa : Nat) : linePieces fuel pa [] = [] := by
  cases fuel <;> rfl

theorem cutAt_nil (m fuel pa : Nat) : cutAt m fuel pa [] = [] := by
  cases fuel <;> rfl

/-- Bytes that lie within one line are one piece. -/
theorem linePieces_one {fuel pa : Nat} {data : List Byte} (hne : data ≠ []) (hlen : pa % 128 + data.length ≤ 128) :
    linePieces (fuel + 1) pa data = [(pa, data)] := by
  rw [linePieces, if_neg hne]
  dsimp only
  rw [List.take_of_length_le (by omega), List.drop_of_length_le (by omega), linePieces_nil]

theorem cutAt_one {m fuel pa : Nat} {data : List Byte} (hne : data ≠ []) (hlen : pa % m + data.length ≤ m) :
    cutAt m (fuel + 1) pa data = [(pa, data)] := by
  rw [cutAt, if_neg hne]
  dsimp only
  rw [List.take_of_length_le (by omega), List.drop_of_length_le (by omega), cutAt_nil]

/-- Bytes of HBM that lie within one aligned unit of 16 bytes are one entry. -/
theorem sbEntries_one {s : State} {pa : Nat} {data : List Byte} (hp : offsetOf pa < hbmEnd) (hne : data ≠ [])
    (hlen : pa % 16 + data.length ≤ 16) :
    sbEntries s pa data = [⟨s.ctx.prv.gtid, s.pid, pa, data, 0xFF, false⟩] := by
  rw [sbEntries, isHostWin_hbm hp, linePieces_one hne (by omega), cutAt_one hne hlen, pieceOrder_singleton, ite_self]
  rfl

/-- An aligned access of a size that divides 16 lies within one unit of 16 bytes. -/
theorem aligned_within {n pa va : Nat} (hn : n ∣ 16) (hva : va % n = 0) (hpage : pa % 4096 = va % 4096) :
    pa % 16 + n ≤ 16 := by
  have hpa : pa % 16 % n = 0 := by
    rw [Nat.mod_mod_of_dvd _ hn, ← hva, ← Nat.mod_mod_of_dvd pa (hn.trans (by decide : 16 ∣ 4096)), hpage,
      Nat.mod_mod_of_dvd _ (hn.trans (by decide))]
  obtain ⟨k, hk⟩ := hn
  obtain ⟨q, hq⟩ := Nat.dvd_of_mod_eq_zero hpa
  have hlt : n * q < n * k := hq ▸ hk ▸ Nat.mod_lt pa (by decide)
  rw [hq]
  calc n * q + n = n * (q + 1) := rfl
    _ ≤ n * k := Nat.mul_le_mul_left n (Nat.lt_of_mul_lt_mul_left hlt)
    _ = 16 := hk.symm

theorem storePhys_one {s : State} {pa : Nat} {data : List Byte} (mask : Byte) (hp : offsetOf pa < hbmEnd)
    (hne : data ≠ []) (hlen : pa % 16 + data.length ≤ 16) (hroom : s.core.sb.length < 96) :
    storePhys ⟨pa, false⟩ data mask s = .ok (stored pa data mask s) := by
  have hrace : raceBytes s pa data ≠ [] := fun h => hne (List.length_eq_zero_iff.1 (by rw [← raceBytes_length s pa, h]; rfl))
  rw [storePhys, uncached_hbm hp, sbEntries_one hp hrace (by rwa [raceBytes_length])]
  change (pushStores _ s >>= fun _ => _) = _
  rw [pushStores, if_neg (by rw [sbCapacity]; omega)]
  rfl

section
variable {va : Word} {n pa : Nat} {s s1 : State}

theorem rg_reaches {k : AccKind} (hr : reaches k va n s s1 pa) (d : Nat) : rg s1 d = rg s d := by
  have ⟨_, htr, _⟩ := hr
  rw [rg, (translate_ctx htr).1, rg]

theorem rf_reaches {k : AccKind} (hr : reaches k va n s s1 pa) (d : Nat) : rf s1 d = rf s d := by
  have ⟨_, htr, _⟩ := hr
  rw [rf, (translate_ctx htr).1, rf]

theorem storePhys_reaches {data : List Byte} {mask : Byte} (hr : reaches .store va n s s1 pa) (hlen : data.length = n)
    (hn : n ∣ 16) (hroom : s1.core.sb.length < 96) :
    storePhys ⟨pa, false⟩ data mask s1 = .ok (stored pa data mask s1) := by
  have ⟨halign, htr, hhbm, _⟩ := hr
  have hne : data ≠ [] := fun h => by
    subst hlen
    rw [h] at hn
    exact absurd hn (by decide)
  exact storePhys_one mask hhbm hne (hlen ▸ aligned_within hn halign (translate_frame htr).2) hroom

theorem storeScalar_reaches {data : List Byte} (hr : reaches .store va n s s1 pa) (hlen : data.length = n)
    (hn : n ∣ 16) (hroom : s1.core.sb.length < 96) : storeScalar va data s = .ok (stored pa data 0xFF s1) := by
  subst hlen
  rw [storeScalar, checkScalar_reaches .scalar hr]
  exact storePhys_reaches hr rfl hn hroom

end

theorem scalarStore_reaches {fm : Form} {len n pa j k : Nat} {srcs : Nat → List Src} {va : Nat → State → Word}
    {data : Nat → State → List Byte} {s s1 : State} (hs : startAt fm s = some (j, k)) (hc : clean s (srcs j) = true)
    (hr : reaches .store (va j s) n s s1 pa) (hlen : (data j s).length = n) (hn : n ∣ 16)
    (hroom : s1.core.sb.length < 96) :
    scalarStore fm len srcs va data s = .next (completes fm len j (stored pa (data j s) 0xFF s1)) :=
  runRep_ok hs (by simp only [need_ok hc]; exact storeScalar_reaches hr hlen hn hroom)

end Sys2Proof.Machine

/-! PROOFS. Hints, time, fences, acquires, releases and `WAITNE` (R114, R116, R139, R141, R142, R147, R155, R156, R244). -/

namespace Sys2Proof.Machine

/-! ## `PREF` -/

theorem sameThread_trans {s t u : State} (h : sameThread s t) (k : sameThread t u) : sameThread s u :=
  ⟨k.1.trans h.1, k.2.trans h.2⟩

theorem sameThread_roomInDirectory (s : State) : sameThread s (roomInDirectory s) := by
  unfold roomInDirectory
  split
  · split <;> exact ⟨rfl, rfl⟩
  · exact ⟨rfl, rfl⟩

theorem sameThread_serveFill (die line : Nat) (s : State) : sameThread s (serveFill die line s).1 := by
  have happly := sameThread_applyWts die line s
  simp only [serveFill]
  split
  · exact happly
  · exact sameThread_trans happly (sameThread_roomInDirectory _)

theorem sameThread_askFill (pa : Nat) (s : State) : sameThread s (askFill pa s) := by
  unfold askFill
  split
  · exact ⟨rfl, rfl⟩
  · exact sameThread_serveFill s.die (lineOf pa) s

theorem sameThread_prefetchLine (lv : Pf) (pa : Nat) (s : State) : sameThread s (prefetchLine lv pa s) := by
  unfold prefetchLine
  split
  · exact ⟨rfl, rfl⟩
  · cases lv with
    | llc => exact ⟨rfl, rfl⟩
    | l1w => exact sameThread_askFill pa { s with coh := gatherTokens s.cur (lineOf pa) s.coh }
    | _ => exact sameThread_askFill pa { s with coh := readToken s.cur (lineOf pa) s.coh }

/-- A hint does nothing, or its translation and its prefetch leave the thread as it was (R116). -/
theorem execPref_completes {fm : Form} {lv : Pf} {a : Nat} {imm : Int} {s : State} {j k : Nat}
    (hs : startAt fm s = some (j, k)) :
    ∃ t, execPref fm lv a imm s = .next (completes fm (fm.len 6) j t) ∧ t.ctx = s.ctx ∧ t.core.sb = s.core.sb := by
  rcases htr : translate .load (eaImm fm j a imm 128 s) 1 s with e | ⟨s1, ph⟩
  · exact ⟨s, runRep_ok hs (by simp only [htr]), rfl, rfl⟩
  · obtain ⟨hctx, hsb⟩ := translate_ctx htr
    obtain ⟨hline, hcore⟩ := sameThread_prefetchLine lv ph.pa s1
    by_cases hidle : (poisonedSrc s (.g (fm.a j a)) || uncached ph ||
        locked s .store ((eaImm fm j a imm 128 s).toNat / 128 * 128) 128) = true
    · exact ⟨s, runRep_ok hs (by simp only [htr]; exact if_pos hidle), rfl, rfl⟩
    · exact ⟨prefetchLine lv ph.pa s1, runRep_ok hs (by simp only [htr]; exact if_neg hidle), hline.trans hctx,
        by rw [hcore, hsb]⟩

/-! ## `YIELD` and the counts -/

theorem execYield_empty {fm : Form} {s : State} (h : s.core.lodge = none) : execYield fm s = retires (fm.len 9) s :=
  runOne_ok (if_neg (by rw [takesOffer, h]; exact Bool.false_ne_true))

/-- An offer is taken by a context of the same partition alone (R142). -/
theorem execYield_offer {fm : Form} {s : State} {c : Ctx} (h : s.core.lodge = some c) :
    ∃ taken : Bool, (taken = true → c.pid = s.pid) ∧ execYield fm s = retires (fm.len 9)
      (if taken then { s with core.swapping := true, core.lent := some c.prv.gtid } else s) := by
  refine ⟨takesOffer s, fun htaken => ?_, runOne_ok ?_⟩
  · rw [takesOffer, h] at htaken
    simp only [Bool.and_eq_true, decide_eq_true_eq] at htaken
    exact htaken.1.1
  · rw [lendQuantum, h]
    exact (apply_ite Except.ok _ _ _).symm

theorem gtid_eq_and (x : Word) : BitVec.ofNat 64 (bits x 0 48) = x &&& 0xFFFFFFFFFFFF := by
  refine BitVec.eq_of_toNat_eq ?_
  have hmask : (x &&& 0xFFFFFFFFFFFF).toNat = x.toNat % 2 ^ 48 := by
    rw [BitVec.toNat_and, ← Nat.and_two_pow_sub_one_eq_mod]
    rfl
  rw [hmask, BitVec.toNat_ofNat, bits]
  omega

/-- Settles O13: `PREF` by `execPref_completes`, `YIELD` by who takes the offer, the counts by definition. -/
theorem hintsAndCounts : Obligations.HintsAndCounts := by
  unfold Obligations.HintsAndCounts
  intro fm lv d a imm s j k
  refine ⟨execPref_completes, execYield_empty, fun c => execYield_offer, ?_, runOne_ok rfl, runOne_ok rfl⟩
  rw [← gtid_eq_and]
  exact runOne_ok rfl

/-! ## Fences -/

section
variable {fm : Form} {sc : Scope} {s t : State}

theorem releaseAt_ok (h : releasable sc.code s) : releaseAt sc.code s = .ok s := by
  obtain hs | ⟨hclear, hperf⟩ := h
  · rw [releaseAt, waysideRule_ok (.inl hs)]
    exact if_pos hs
  · rw [releaseAt, waysideRule_ok hclear, awaitStores_ok hperf]
    exact ite_self _

theorem execFence_store (h : sc.code < 2 ∨ storesPerformed sc.code s = true) :
    execFence fm .store sc s = retires (fm.len 9) s := by
  refine runOne_ok ?_
  obtain hs | hperf := h
  · exact if_pos hs
  · simp only [awaitStores_ok hperf, ite_self]

theorem execFence_sc (hclear : waysideClear sc.code s) (hperf : storesPerformed sc.code s = true)
    (hmsgs : msgsDone s.ctx.prv.gtid s = true) (ht : acquired sc.code s t) :
    execFence fm .sc sc s = retires (fm.len 9) t := by
  have hawait : awaitMsgs s = .ok s := if_pos hmsgs
  refine runOne_ok ?_
  simp only [waysideRule_ok hclear, awaitStores_ok hperf]
  change (awaitMsgs s >>= fun s => acquireAt sc.code s) = _
  rw [hawait]
  exact acquireAt_ok ht

end

/-! ## Loads and stores that acquire and release -/

section
variable {fm : Form} {sc : Scope} {w : Wd} {d a b : Nat} {imm : Int} {s s0 s1 t : State} {pa : Nat} {v : List Byte}

theorem execLda_retires {home : Bool} (hc : clean s [.g a] = true) (hhome : decide (2 ≤ sc.code) = home)
    (hl : loadScalar home .scalar (rg s a + BitVec.ofInt 64 (imm * w.bytes)) w.bytes s = .ok (s1, v))
    (hlen : v.length = w.bytes) (ht : acquired sc.code s1 t) :
    execLda fm sc w d a imm s = retires (fm.len 6) (wg t d (signedValue w.bytes v)) := by
  subst hhome
  rw [← loadedS_eq_signedValue hlen]
  refine runOne_ok ?_
  simp only [need_ok hc, eaImm_zero]
  change (loadScalar _ .scalar _ w.bytes s >>= fun _ => _) = _
  rw [hl]
  change (acquireAt sc.code s1 >>= fun _ => _) = _
  rw [acquireAt_ok ht]
  rfl

theorem execStl_retires (hc : clean s [.g a, .g d] = true)
    (hr : reaches .store (rg s a + BitVec.ofInt 64 (imm * w.bytes)) w.bytes s s1 pa) (hrel : releasable sc.code s1)
    (hroom : s1.core.sb.length < 96) :
    execStl fm sc w d a imm s = retires (fm.len 6) (stored pa (bytesOfWord w.bytes (rg s d)) 0xFF s1) := by
  have hreg : rg s1 d = rg s d := rg_reaches hr d
  refine runOne_ok ?_
  simp only [need_ok hc, eaImm_zero]
  change (checkScalar .store .scalar _ w.bytes s >>= fun _ => _) = _
  rw [checkScalar_reaches .scalar hr]
  change (releaseAt sc.code s1 >>= fun _ => _) = _
  rw [releaseAt_ok hrel, ← hreg]
  exact storePhys_reaches hr (bytesOfWord_length ..) (by cases w <;> decide) hroom

theorem runOne_congr {len : Nat} {f g : State → Run} {s : State} (h : f s = g s) : runOne len f s = runOne len g s := by
  rw [runOne, runOne, h]

/-- What a `WAITNE` does with the value at the home. -/
theorem execWaitne_reads (hc : clean s [.g a, .g b] = true) (hr : reaches .load (rg s a) 8 s s0 pa) (hlen : v.length = 8)
    (hl : loadLine true pa 8 (if localMem s0 pa then { s0 with coh := dropCopy s.die (lineOf pa) s0.coh } else s0) =
      .ok (s1, v, false)) :
    execWaitne fm d a b s =
      if unsignedValue 8 (raceBytes s1 pa v) = rg s b then .next (advanceAll s1)
      else retires (fm.len 9) (wg s1 d (unsignedValue 8 (raceBytes s1 pa v))) := by
  have ⟨_, _, hhbm, _⟩ := hr
  rw [← loadedU_eq_unsignedValue ((raceBytes_length ..).trans hlen) (Nat.le_refl 8)]
  have hbody : execWaitne fm d a b s = runOne (fm.len 9) (fun _ =>
      if loadedU (raceBytes s1 pa v) = rg s b then waitIn (advanceAll s1)
      else .ok (wg s1 d (loadedU (raceBytes s1 pa v)))) s := by
    refine runOne_congr ?_
    simp only [need_ok hc]
    change (checkScalar .load .scalar (rg s a) 8 s >>= fun _ => _) = _
    rw [checkScalar_reaches .scalar hr]
    change (loadPhys true _ 8 _ >>= fun _ => _) = _
    rw [loadPhys_line hhbm hl]
    rfl
  rw [hbody]
  split
  · rfl
  · exact runOne_ok rfl

end

/-- Settles O11: each instruction by its lemma above. -/
theorem orderingResults : Obligations.OrderingResults := by
  unfold Obligations.OrderingResults
  intro fm sc w d a b imm s
  refine ⟨runOne_ok rfl, execFence_store, fun t ht => runOne_ok (acquireAt_ok ht), fun h => runOne_ok (releaseAt_ok h),
    fun t => execFence_sc, fun hc s1 t v hr ht => ?_, fun hc s1 pa hr hrel hroom => execStl_retires hc hr hrel hroom,
    fun hc s0 s1 pa v hr hlen hl => execWaitne_reads hc hr hlen hl⟩
  split at hr
  · next hsc => exact execLda_retires hc (decide_eq_false (by omega)) (loadScalar_readable hr) hr.1 ht
  · next hsc =>
    obtain ⟨hlen, s0, pa, x, hreach, hl, rfl⟩ := hr
    exact execLda_retires hc (decide_eq_true (by omega)) (loadScalar_reaches hreach hl) hlen ht

end Sys2Proof.Machine

/-! PROOFS. Scalar stores and the drain of the store buffer (R109, R112, R113, R115, R117, R239, R240, R255). -/

namespace Sys2Proof.Machine

/-! ## The store of a field -/

theorem execSbst_retires {fm : Form} {sb : Sb} {d a pa : Nat} {imm : Int} {s s1 : State}
    (hc : clean s [.g a, .g d] = true)
    (hr : reaches .store (BitVec.ofNat 64 ((rg s a + BitVec.ofInt 64 imm).toNat / (8 / sb.bits))) 1 s s1 pa)
    (hroom : s1.core.sb.length < 96) :
    execSbst fm sb d a imm s = retires (fm.len 6)
      (stored pa [BitVec.ofNat 8 ((rg s d).toNat % 2 ^ sb.bits *
          2 ^ (sb.bits * ((rg s a + BitVec.ofInt 64 imm).toNat % (8 / sb.bits))))]
        (BitVec.ofNat 8 ((2 ^ sb.bits - 1) *
          2 ^ (sb.bits * ((rg s a + BitVec.ofInt 64 imm).toNat % (8 / sb.bits))))) s1) := by
  rw [← rg_reaches hr d]
  refine runOne_ok ?_
  simp only [need_ok hc, ofInt]
  change (checkScalar .store .sbst _ 1 s >>= fun _ => _) = _
  rw [checkScalar_reaches .sbst hr]
  exact storePhys_reaches hr rfl (by decide) hroom

/-! ## The drain -/

theorem sameButMemory_storeWrite (g : Word) (pa : Nat) (d : List Byte) (m : Byte) (p f : Bool) (s : State) :
    sameButMemory s (storeWrite g pa d m p f s) := by
  unfold storeWrite
  dsimp only
  split <;> exact ⟨_, _, rfl⟩

theorem mem_storeWrite (g : Word) (pa : Nat) (d : List Byte) (m : Byte) (p f : Bool) (s : State) :
    (storeWrite g pa d m p f s).mem = memWriteMasked m s.mem pa d := by
  unfold storeWrite
  dsimp only
  split <;> rfl

theorem ownerOf_localMem {s : State} {pa : Nat} (h : localMem s pa = true) : offsetOf pa < hbmEnd ∧ ownerOf s pa = s.pkg :=
  of_decide_eq_true h

/-- Where an address lives does not depend on a core. -/
theorem setCore_home (s : State) (n : Nat) (c : CoreSt) (pa : Nat) :
    localMem (setCore s n c) pa = localMem s pa ∧ deadHome (setCore s n c) pa = deadHome s pa := by
  unfold setCore
  split <;> exact ⟨rfl, rfl⟩

/-- A store whose home is the core's own die is a write there. -/
theorem performStore_home {core : Nat} {e : SbEntry} {s : State} (hlocal : localMem s e.pa = true)
    (hdie : homeDie e.pa = core / 64) (hlive : deadHome s e.pa = false) :
    performStore core e s = storeWrite e.gtid e.pa e.data e.mask e.poison (decide (e.data.length = 128))
      { s with coh := gatherTokens core (lineOf e.pa) s.coh } := by
  obtain ⟨hhbm, howner⟩ := ownerOf_localMem hlocal
  simp [performStore, performStoreBy, hlive, isHostWin_hbm hhbm, howner, hlocal, hdie]

theorem storeHeld_local {core : Nat} {g : Word} {pa n : Nat} {s : State} (hlocal : localMem s pa = true) :
    storeHeld core g pa n s = (tokensHeld s.coh core (lineOf pa) || !msgsPast g pa n s) := by
  rw [storeHeld, if_neg (not_not.2 (ownerOf_localMem hlocal).2), hlocal, Bool.true_and]

theorem drainHead_empty {core : Nat} {s : State} (hsb : (getCore s core).sb = []) : drainHead core s = s := by
  rw [drainHead, hsb]

section
variable {core : Nat} {e : SbEntry} {r : List SbEntry} {s : State} (hsb : (getCore s core).sb = e :: r)
include hsb

theorem drainHead_held (h : storeHeld core e.gtid e.pa e.data.length s = true) : drainHead core s = s := by
  rw [drainHead, hsb]
  exact if_pos h

theorem drainHead_performs (h : storeHeld core e.gtid e.pa e.data.length s = false) :
    drainHead core s = performStore core e (setCore s core { getCore s core with sb := r }) := by
  rw [drainHead, hsb]
  exact if_neg (by rw [h]; exact Bool.false_ne_true)

/-- The oldest store leaves the buffer: its bytes are in memory, and nothing else has changed there. -/
theorem drainHead_home (hok : s.memOk) (hlocal : localMem s e.pa = true) (hdie : homeDie e.pa = core / 64)
    (hlive : deadHome s e.pa = false) (h : storeHeld core e.gtid e.pa e.data.length s = false) :
    (getCore (drainHead core s) core).sb = r ∧ (drainHead core s).ctx = s.ctx ∧
      (∀ i b, e.data[i]? = some b →
        memRead (drainHead core s).mem (e.pa + i) = (memRead s.mem (e.pa + i) &&& ~~~e.mask) ||| (b &&& e.mask)) ∧
      ∀ x, x < e.pa ∨ e.pa + e.data.length ≤ x → memRead (drainHead core s).mem x = memRead s.mem x := by
  obtain ⟨hl, hd⟩ := setCore_home s core { getCore s core with sb := r } e.pa
  obtain ⟨-, hctx, hmem, -⟩ := setCore_frame s (n := core) { getCore s core with sb := r }
  rw [drainHead_performs hsb h, performStore_home (hl.trans hlocal) hdie (hd.trans hlive)]
  generalize hu : ({ setCore s core { getCore s core with sb := r } with
    coh := gatherTokens core (lineOf e.pa) (setCore s core { getCore s core with sb := r }).coh } : State) = u
  have hcore : getCore u core = { getCore s core with sb := r } := by
    rw [← hu]
    exact getCore_setCore_same s _
  have hmem' : u.mem = s.mem := hu ▸ hmem
  have hctx' : u.ctx = s.ctx := hu ▸ hctx
  obtain ⟨m, c, hw⟩ := sameButMemory_storeWrite e.gtid e.pa e.data e.mask e.poison (decide (e.data.length = 128)) u
  refine ⟨?_, ?_, fun i b hb => ?_, fun x hx => ?_⟩
  · rw [hw, show getCore { u with mem := m, coh := c } core = getCore u core from rfl, hcore]
  · rw [hw]
    exact hctx'
  · rw [mem_storeWrite, hmem']
    exact memRead_masked _ _ _ _ _ _ hok hb
  · rw [mem_storeWrite, hmem']
    exact memRead_masked_other _ _ _ _ _ hx

end

/-- Settles O9: each store in its one form, `SBST` by its own lemma, the drain by what `drainHead` does with the oldest
entry. -/
theorem storeResults : Obligations.StoreResults := by
  unfold Obligations.StoreResults
  refine ⟨fun fm z f w sb d a b imm s s1 pa j k hs hroom => ⟨fun hc => ⟨fun hr => ?_, fun hr => ?_, fun hb hr => ?_,
    fun hd hr => ?_⟩, fun hc hr => ?_, fun hc hr => execSbst_retires hc hr hroom⟩,
    fun core s => ⟨fun hsb => ?_, fun e r hsb hlocal h => ?_, fun e r hsb hok hlocal hdie hfree hmsgs hlive => ?_⟩⟩
  · exact (exec_stP0 fm d a imm s).trans (scalarStore_reaches hs hc hr (bytesOfWord_length ..) (by decide) hroom)
  · exact (exec_st fm z d a imm s).trans
      (scalarStore_reaches hs hc hr (bytesOfWord_length ..) (by cases z <;> decide) hroom)
  · exact (exec_stx fm z d a b s).trans
      (scalarStore_reaches hs (clean_middle hc hb) hr (bytesOfWord_length ..) (by cases z <;> decide) hroom)
  · exact (exec_stp fm w d a imm s).trans
      (scalarStore_reaches hs (clean_last hc hd) hr (pair_length ..) (by cases w <;> decide) hroom)
  · exact (exec_fst fm f d a imm s).trans
      (scalarStore_reaches hs hc hr (bytesOfWord_length ..) (by cases f <;> decide) hroom)
  · exact congrArg Host.Outcome.next (drainHead_empty hsb)
  · refine congrArg Host.Outcome.next (drainHead_held hsb ?_)
    rw [storeHeld_local hlocal]
    obtain h | h := h <;> simp [h]
  · exact ⟨_, rfl, drainHead_home hsb hok hlocal hdie hlive (by rw [storeHeld_local hlocal, hfree, hmsgs]; rfl)⟩

end Sys2Proof.Machine

/-! PROOFS. The line that a load reads, and what goes on beside the thread (R239 to R243). -/

namespace Sys2Proof.Machine

/-! ## What goes on beside the thread -/

/-- The context, the core and memory are as they were. -/
def idles (s t : State) : Prop := t.ctx = s.ctx ∧ t.core = s.core ∧ t.mem = s.mem

theorem idles_refl (s : State) : idles s s := ⟨rfl, rfl, rfl⟩

theorem idles_trans {s t u : State} (h : idles s t) (k : idles t u) : idles s u :=
  ⟨k.1.trans h.1, k.2.1.trans h.2.1, k.2.2.trans h.2.2⟩

theorem framesTo_of_idles {gs fs ps ms cs : List Nat} {fl : Word} {s t : State} (h : idles s t) :
    framesTo gs fs ps ms cs fl s t := by
  obtain ⟨hctx, hcore, hmem⟩ := h
  exact framesTo_of_regs (fun _ _ => by rw [rg, hctx, rg]) (fun _ _ => by rw [rf, hctx, rf])
    (fun _ _ => by rw [rp, hctx, rp]) (fun _ _ => by rw [rm, hctx, rm]) (fun _ _ => by rw [hctx]) (by rw [hctx])
    (by rw [hctx]) (by rw [hctx]) hcore hmem

/-- No earlier store of the package is under way. -/
def storesDone (s : State) : Prop := s.core.sb = [] ∧ s.coh.wts = [] ∧ s.fab.msgs = []

theorem idles_tellAborts (s : State) : idles s (tellAborts s) := by
  unfold tellAborts
  refine List.foldlRecOn (motive := idles s) _ _ ⟨rfl, rfl, rfl⟩ fun t ht x _ => idles_trans ht ?_
  dsimp only
  split <;> exact ⟨rfl, rfl, rfl⟩

theorem idles_progress {s : State} (h : storesDone s) : idles s (progress s) := by
  obtain ⟨hsb, hwts, hmsgs⟩ := h
  rw [progress, if_neg (not_not.2 hsb), hwts, hmsgs]
  dsimp only [List.find?_nil]
  split
  · exact ⟨rfl, rfl, rfl⟩
  · exact idles_tellAborts s

theorem idles_roomInDirectory (s : State) : idles s (roomInDirectory s) := by
  unfold roomInDirectory
  split
  · split <;> exact ⟨rfl, rfl, rfl⟩
  · exact ⟨rfl, rfl, rfl⟩

theorem idles_serveFill {die line : Nat} {s : State} (h : s.coh.wts = []) : idles s (serveFill die line s).1 := by
  simp only [serveFill, applyWts_nil die line h]
  split
  · exact ⟨rfl, rfl, rfl⟩
  · exact idles_roomInDirectory s

theorem idles_askRemote (pa : Nat) (s : State) : idles s (askRemote pa s) := by
  unfold askRemote
  split <;> exact ⟨rfl, rfl, rfl⟩

/-! ## The line -/

/-- A token taken for a read changes the tokens and the requests for them alone. -/
theorem readToken_frame (core line : Nat) (c : Coh) :
    ∃ t p, readToken core line c = { c with tokens := t, persistent := p } := by
  have hserve (die : Nat) (c : Coh) : ∃ t, serveRequest die line c = { c with tokens := t } := by
    unfold serveRequest
    split
    · exact ⟨c.tokens, rfl⟩
    · exact ⟨_, rfl⟩
  unfold readToken settleTokens
  dsimp only
  split
  · obtain ⟨t, ht⟩ := hserve (core / 64) { c with
      persistent := c.persistent.filter (fun e => ¬ (e.1 = core / 64 ∧ e.2.1 = core ∧ e.2.2 = line)) }
    exact ⟨t, _, ht⟩
  · obtain ⟨t, ht⟩ := hserve (core / 64) { c with
      tokens := ⟨core / 64, line, core, 1⟩ :: (if heldTokens c (core / 64) line < 128 then c.tokens
        else c.tokens.map (fun t => if t.die = core / 64 ∧ t.line = line ∧ t.n > 1 then { t with n := t.n - 1 } else t))
      persistent := c.persistent.filter (fun e => ¬ (e.1 = core / 64 ∧ e.2.1 = core ∧ e.2.2 = line)) }
    exact ⟨t, _, ht⟩

/-- A state that has taken a token of a line for a read. -/
def withToken (line : Nat) (s : State) : State := { s with coh := readToken s.cur line s.coh }

theorem withToken_frame (line die l : Nat) (s : State) :
    freshCopy (withToken line s).coh die l = freshCopy s.coh die l ∧ (withToken line s).coh.wts = s.coh.wts ∧
      linePoisoned (withToken line s) l = linePoisoned s l := by
  obtain ⟨t, p, hc⟩ := readToken_frame s.cur line s.coh
  unfold withToken
  rw [hc]
  exact ⟨rfl, rfl, rfl⟩

theorem idles_withToken (line : Nat) (s : State) : idles s (withToken line s) := ⟨rfl, rfl, rfl⟩

section
variable {pa n : Nat} {s : State} (hlocal : localMem s pa = true)
include hlocal

theorem readLine_home (hdie : homeDie pa = s.die) : readLine pa n s =
    (withToken (lineOf pa) s, memReadN s.mem pa n, linePoisoned (withToken (lineOf pa) s) (lineOf pa)) := by
  simp only [readLine, hlocal]
  exact if_pos hdie

theorem readLine_copy (hdie : homeDie pa ≠ s.die) {x : Copy} (h : freshCopy s.coh s.die (lineOf pa) = some x) :
    readLine pa n s = (withToken (lineOf pa) s, (x.data.drop (pa % 128)).take n, x.poison) := by
  have hfresh := (withToken_frame (lineOf pa) s.die (lineOf pa) s).1.trans h
  rw [withToken, State.die] at hfresh
  rw [State.die] at hdie
  simp only [readLine, hlocal, Bool.not_true, Bool.false_eq_true, if_false, State.die, hdie, hfresh]
  rfl

/-- The state after a fill of a line: what the home has served is a copy of the die's generation (R241). -/
def filledBy (line : Nat) (r : State × List Byte × Bool × Option Nat) : State :=
  { r.1 with coh := putCopy ⟨r.1.die, line, r.2.1, r.2.2.1, generation r.1.coh r.1.die, r.2.2.2⟩ r.1.coh }

theorem readLine_fill (hdie : homeDie pa ≠ s.die) (h : freshCopy s.coh s.die (lineOf pa) = none)
    {r : State × List Byte × Bool × Option Nat} (hr : serveFill s.die (lineOf pa) (withToken (lineOf pa) s) = r) :
    readLine pa n s = (filledBy (lineOf pa) r, (r.2.1.drop (pa % 128)).take n, r.2.2.1) := by
  have hfresh := (withToken_frame (lineOf pa) s.die (lineOf pa) s).1.trans h
  rw [withToken, State.die] at hfresh hr
  rw [State.die] at hdie
  simp only [readLine, hlocal, Bool.not_true, Bool.false_eq_true, if_false, State.die, hdie, hfresh, hr]
  rfl

end

/-- The bytes and the poison that a fill has served are those at the home. -/
theorem serveFill_served {die line : Nat} {s : State} {r : State × List Byte × Bool × Option Nat}
    (hr : serveFill die line s = r) : r.2.1 = memReadN r.1.mem (line * 128) 128 ∧ r.2.2.1 = linePoisoned r.1 line := by
  subst hr
  exact ⟨rfl, rfl⟩

theorem idles_readLine {pa n : Nat} {s : State} (h : s.coh.wts = []) : idles s (readLine pa n s).1 := by
  by_cases hlocal : localMem s pa = true
  · by_cases hdie : homeDie pa = s.die
    · rw [readLine_home hlocal hdie]
      exact idles_withToken (lineOf pa) s
    · cases hfresh : freshCopy s.coh s.die (lineOf pa) with
      | some x =>
        rw [readLine_copy hlocal hdie hfresh]
        exact idles_withToken (lineOf pa) s
      | none =>
        have hwts := (withToken_frame (lineOf pa) 0 0 s).2.1.trans h
        have hserved := idles_trans (idles_withToken (lineOf pa) s) (idles_serveFill (die := s.die) (line := lineOf pa) hwts)
        generalize hr : serveFill s.die (lineOf pa) (withToken (lineOf pa) s) = r at hserved
        rw [readLine_fill hlocal hdie hfresh hr]
        exact hserved
  · simp only [readLine, readHome, hlocal]
    exact idles_askRemote pa s

end Sys2Proof.Machine

/-! PROOFS. Frames of the scalar loads and stores (R109, R112, R113, R115, R117, R224, R239). -/

namespace Sys2Proof.Machine

/-! ## Loads -/

/-- A read that ends, waits or faults leaves the context, the core and memory as they were. -/
def readsIdly {α : Type} (s : State) : RunV α → Prop
  | .ok (t, _) => idles s t
  | .error (.wait t) => idles s t
  | .error (.trap _ t) => idles s t

theorem loadLine_idles {pa n : Nat} {s : State} (h : storesDone s) : readsIdly s (loadLine false pa n s) := by
  have hread := idles_readLine (pa := pa) (n := n) h.2.1
  simp only [loadLine, h.1, List.any_nil]
  generalize (if localMem s pa = true then msgsPast _ pa n s else remoteReady _ pa n s) = ready
  split
  · contradiction
  · split
    · exact idles_refl s
    · split
      · exact idles_progress h
      · exact hread

theorem loadPhys_idles {pa n : Nat} {s : State} (h : storesDone s) (hp : offsetOf pa < hbmEnd) :
    readsIdly s (loadPhys false ⟨pa, false⟩ n s) := by
  have hline := loadLine_idles (pa := pa) (n := n) h
  rw [loadPhys, uncached_hbm hp]
  rcases hl : loadLine false pa n s with e | ⟨t, d, p⟩
  · rw [hl] at hline
    cases e <;> exact hline
  · rw [hl] at hline
    cases p <;> exact hline

/-- The checks of an access to HBM that translates end in the state they were given: they pass or raise a trap. -/
theorem checkScalar_cases {k : AccKind} {c : AccClass} {va : Word} {n pa : Nat} {s : State}
    (htr : translate k va n s = .ok (s, ⟨pa, false⟩)) (hp : offsetOf pa < hbmEnd) :
    (va.toNat % n = 0 ∧ checkScalar k c va n s = .ok (s, ⟨pa, false⟩)) ∨
      ∃ x, checkScalar k c va n s = .error (.trap x s) := by
  have hpage : checkPage k c va n s = .ok (s, ⟨pa, false⟩) := by
    rw [checkPage, htr]
    exact if_neg (by rw [devRefuses_hbm s c n hp]; decide)
  by_cases halign : va.toNat % n = 0
  · rw [checkScalar, if_neg (not_not.2 halign), hpage]
    change _ ∨ ∃ x, (checkRange k va n s >>= fun _ => _) = _
    by_cases hlock : locked s k va.toNat n = true
    · exact .inr ⟨_, by rw [checkRange, if_pos hlock]; rfl⟩
    · by_cases hwatch : watched s va.toNat n = true
      · exact .inr ⟨_, by rw [checkRange, if_neg hlock, if_pos hwatch]; rfl⟩
      · refine .inl ⟨halign, ?_⟩
        change (checkRange k va n s >>= fun _ => _) = _
        rw [checkRange, if_neg hlock, if_neg hwatch]
        rfl
  · exact .inr ⟨_, checkScalar_misaligned c s halign⟩

theorem loadScalar_idles {va : Word} {n pa : Nat} {s : State} (h : storesDone s) (hp : offsetOf pa < hbmEnd)
    (htr : translate .load va n s = .ok (s, ⟨pa, false⟩)) : readsIdly s (loadScalar false .scalar va n s) := by
  rw [loadScalar]
  obtain ⟨-, hok⟩ | ⟨x, hx⟩ := checkScalar_cases (k := .load) (c := .scalar) htr hp
  · rw [hok]
    exact loadPhys_idles h hp
  · rw [hx]
    exact idles_refl s

/-- An effect that writes its destinations, waits or faults, and else leaves the thread and memory as they were. -/
def calmly (gs fs : List Nat) (s : State) : Run → Prop
  | .ok t => framesTo gs fs [] [] [] 0 s t
  | .error (.wait t) => idles s t
  | .error (.trap _ t) => idles s t

theorem runRep_calmly {i : Instr} {fm : Form} {len j k : Nat} {body : Nat → Nat → State → Run} {s : State}
    {gs fs : List Nat} (hx : exec i s = runRep fm len body s) (hs : startAt fm s = some (j, k))
    (hb : calmly gs fs s (body j k s)) : framed i gs fs [] 0 s := by
  intro u hu
  rw [hx] at hu
  rcases hr : body j k s with (⟨x, t⟩ | t) | t
  · rw [hr] at hb
    rw [runRep_trap hs hr] at hu
    cases hu
    obtain ⟨hctx, hcore, -⟩ := id hb
    exact ⟨keeps_trans (framesTo_of_idles hb).1 (keeps_of_same _ _ _ _ _ _ (takeTrap_same ..)), by simp [hcore],
      .inr (.inl ⟨_, x, t, hctx, hcore, rfl⟩)⟩
  · rw [hr] at hb
    rw [runRep_wait hs hr] at hu
    cases hu
    obtain ⟨hkeeps, hsb, hstays⟩ := framesTo_of_idles hb
    exact ⟨hkeeps, hsb, .inl hstays⟩
  · rw [hr] at hb
    rw [runRep_ok hs hr] at hu
    cases hu
    obtain ⟨hkeeps, hsb, hstays⟩ := hb
    refine ⟨keeps_trans hkeeps (keeps_of_same _ _ _ _ _ _ (completes_same ..)), by simp [hsb], ?_⟩
    exact (completes_stays fm len j t).imp (stays_trans hstays) fun h => .inr (singleSteps_of_stays hstays h)

theorem scalarLoad_framed {i : Instr} {fm : Form} {len n j k pa : Nat} {srcs : Nat → List Src}
    {va : Nat → State → Word} {put : Nat → List Byte → State → State} {gs fs : List Nat} {s : State}
    (hx : exec i s = scalarLoad fm len srcs va n put s) (hs : startAt fm s = some (j, k)) (h : storesDone s)
    (hp : offsetOf pa < hbmEnd) (hput : ∀ v t, framesTo gs fs [] [] [] 0 t (put j v t))
    (htr : translate .load (va j s) n s = .ok (s, ⟨pa, false⟩)) : framed i gs fs [] 0 s := by
  refine runRep_calmly hx hs ?_
  obtain hn | hn := need_cases s (srcs j)
  · have hload := loadScalar_idles h hp htr
    rcases hr : loadScalar false .scalar (va j s) n s with e | ⟨t, v⟩
    · rw [hr] at hload
      simp only [hn]
      cases e <;> exact hload
    · rw [hr] at hload
      simp only [hn]
      exact framesTo_trans (framesTo_of_idles hload) (hput v t)
  · simp only [hn]
    exact idles_refl s

/-! ## Stores -/

/-- A store that is done, or has raised a trap in the state it was given. -/
def storesOrTraps (pa : Nat) (data : List Byte) (mask : Byte) (s : State) (r : Run) : Prop :=
  r = .ok (stored pa data mask s) ∨ ∃ x, r = .error (.trap x s)

theorem stored_same (pa : Nat) (data : List Byte) (mask : Byte) (s : State) :
    sameButTraps s (stored pa data mask s) ∧ stays s (stored pa data mask s) :=
  ⟨⟨rfl, rfl, rfl, rfl, rfl, rfl, rfl, fun _ => ⟨rfl, rfl, rfl⟩, rfl, rfl⟩, rfl, rfl, rfl, rfl, rfl⟩

/-- The states that the frame of a store admits. -/
def storeFrames (pa : Nat) (data : List Byte) (mask : Byte) (s t : State) : Prop :=
  keeps [] [] [] [] [] 0 s t ∧ (stays s t ∨ trapsFrom s t ∨ singleSteps s) ∧
    (t.core.sb = s.core.sb ∨ t.core.sb = s.core.sb ++ [⟨s.ctx.prv.gtid, s.pid, pa, raceBytes s pa data, mask, false⟩])

section
variable {pa : Nat} {data : List Byte} {mask : Byte} {s t : State}

theorem storeFrames_takeTrap (r : Option Nat) (x : Trap) : storeFrames pa data mask s (takeTrap r x s) := by
  obtain ⟨hkeeps, hsb, hends⟩ := takeTrap_framed [] [] [] [] [] 0 r x s
  exact ⟨hkeeps, hends, .inl hsb⟩

/-- An ending that keeps the buffer and takes no trap but STEP. -/
theorem storeFrames_stored (hsame : sameButTraps (stored pa data mask s) t)
    (hstays : stays (stored pa data mask s) t ∨ singleSteps (stored pa data mask s))
    (hsb : t.core.sb = (stored pa data mask s).core.sb) : storeFrames pa data mask s t := by
  obtain ⟨hstored, hst⟩ := stored_same pa data mask s
  exact ⟨keeps_of_same _ _ _ _ _ _ (sameButTraps_trans hstored hsame),
    hstays.imp (stays_trans hst) fun h => .inr (singleSteps_of_stays hst h), .inr hsb⟩

theorem runRep_stores {fm : Form} {len j k : Nat} {body : Nat → Nat → State → Run} (hs : startAt fm s = some (j, k))
    (hb : storesOrTraps pa data mask s (body j k s)) (hu : runRep fm len body s = .next t) :
    storeFrames pa data mask s t := by
  obtain hr | ⟨x, hr⟩ := hb
  · rw [runRep_ok hs hr] at hu
    cases hu
    exact storeFrames_stored (completes_same ..) (completes_stays ..) (by simp)
  · rw [runRep_trap hs hr] at hu
    cases hu
    exact storeFrames_takeTrap ..

theorem runOne_stores {len : Nat} {body : State → Run} (hb : storesOrTraps pa data mask s (body s))
    (hu : runOne len body s = .next t) : storeFrames pa data mask s t := by
  obtain hr | ⟨x, hr⟩ := hb
  · rw [runOne_ok hr] at hu
    cases hu
    exact storeFrames_stored (retireTo_same ..) (retireTo_stays ..) (by simp)
  · rw [runOne_trap hr] at hu
    cases hu
    exact storeFrames_takeTrap ..

/-- The checks of a store, then the store itself. -/
theorem checkScalar_storesOrTraps {c : AccClass} {va : Word} {n : Nat} {store : State × Phys → Run}
    (hstore : store (s, ⟨pa, false⟩) = storePhys ⟨pa, false⟩ data mask s) (hlen : data.length = n) (hn : n ∣ 16)
    (hsb : s.core.sb = []) (hp : offsetOf pa < hbmEnd) (htr : translate .store va n s = .ok (s, ⟨pa, false⟩)) :
    storesOrTraps pa data mask s (checkScalar .store c va n s >>= store) := by
  obtain ⟨halign, hok⟩ | ⟨x, hx⟩ := checkScalar_cases (k := .store) (c := c) htr hp
  · have hne : data ≠ [] := fun h => by
      subst hlen
      rw [h] at hn
      exact absurd hn (by decide)
    rw [hok]
    exact .inl (hstore.trans (storePhys_one mask hp hne (hlen ▸ aligned_within hn halign (translate_frame htr).2)
      (by rw [hsb]; decide)))
  · rw [hx]
    exact .inr ⟨x, rfl⟩

theorem need_storesOrTraps {l : List Src} {r : Run} (h : storesOrTraps pa data mask s r) :
    storesOrTraps pa data mask s (need s l >>= fun _ => r) := by
  obtain hn | hn := need_cases s l
  · rw [hn]
    exact h
  · rw [hn]
    exact .inr ⟨_, rfl⟩

end

theorem scalarStore_framed {i : Instr} {fm : Form} {len n j k pa : Nat} {srcs : Nat → List Src}
    {va : Nat → State → Word} {data : Nat → State → List Byte} {s : State}
    (hx : exec i s = scalarStore fm len srcs va data s) (hs : startAt fm s = some (j, k)) (hsb : s.core.sb = [])
    (hp : offsetOf pa < hbmEnd) (hlen : (data j s).length = n) (hn : n ∣ 16)
    (htr : translate .store (va j s) (data j s).length s = .ok (s, ⟨pa, false⟩)) :
    storeFramed i pa (raceBytes s pa (data j s)) 0xFF s := fun _ hu =>
  runRep_stores hs (need_storesOrTraps (checkScalar_storesOrTraps rfl rfl (hlen ▸ hn) hsb hp htr)) (hx.symm.trans hu)

theorem sbst_framed {fm : Form} {sb : Sb} {d a pa : Nat} {imm : Int} {s : State} (hsb : s.core.sb = [])
    (hp : offsetOf pa < hbmEnd) (htr : translate .store
      (BitVec.ofNat 64 ((rg s a + BitVec.ofInt 64 imm).toNat / (8 / sb.bits))) 1 s = .ok (s, ⟨pa, false⟩)) :
    storeFramed (.sbst fm sb d a imm) pa (raceBytes s pa [BitVec.ofNat 8 ((rg s d).toNat % 2 ^ sb.bits *
        2 ^ (sb.bits * ((rg s a + BitVec.ofInt 64 imm).toNat % (8 / sb.bits))))])
      (BitVec.ofNat 8 ((2 ^ sb.bits - 1) * 2 ^ (sb.bits * ((rg s a + BitVec.ofInt 64 imm).toNat % (8 / sb.bits))))) s := by
  intro t hu
  rw [show exec (.sbst fm sb d a imm) s = execSbst fm sb d a imm s from rfl, execSbst] at hu
  refine runOne_stores (need_storesOrTraps ?_) hu
  exact checkScalar_storesOrTraps (n := 1) rfl rfl (by decide) hsb hp htr

/-- Settles O53: a load ends, waits or faults with the thread and memory as they were, and writes its destination
(`scalarLoad_framed`); a store does what `stored` says, or raises a trap in the state it was given
(`scalarStore_framed`). -/
theorem memoryFrames : Obligations.MemoryFrames := by
  unfold Obligations.MemoryFrames
  intro fm z e f w sb d a b imm s pa j k hs hsb hwts hmsgs hp
  have h : storesDone s := ⟨hsb, hwts, hmsgs⟩
  refine ⟨scalarLoad_framed (exec_ldP0 fm d a imm s) hs h hp fun _ _ => framesTo_wg_same _,
    scalarLoad_framed (exec_fldP0 fm d a imm s) hs h hp fun _ _ => framesTo_wf_same _,
    scalarLoad_framed (exec_ld fm z d a imm s) hs h hp fun _ _ => framesTo_wg_same _,
    scalarLoad_framed (exec_ldz fm e d a imm s) hs h hp fun _ _ => framesTo_wg_same _,
    scalarLoad_framed (exec_fld fm f d a imm s) hs h hp fun _ _ => framesTo_wf_same _,
    scalarLoad_framed (exec_ldp fm w d a imm s) hs h hp fun _ _ => ?_,
    scalarLoad_framed (exec_ldx fm z d a b s) hs h hp fun _ _ => framesTo_wg_same _,
    fun htr _ => ?_, fun htr _ => ?_, fun htr _ => ?_, fun htr _ => ?_, fun htr _ => ?_, sbst_framed hsb hp⟩
  · exact framesTo_trans (framesTo_wg _ List.mem_cons_self) (framesTo_wg _ (List.mem_cons_of_mem _ List.mem_cons_self))
  · exact scalarStore_framed (exec_stP0 fm d a imm s) hs hsb hp (bytesOfWord_length ..) (by decide) htr
  · exact scalarStore_framed (exec_st fm z d a imm s) hs hsb hp (bytesOfWord_length ..) (by cases z <;> decide) htr
  · exact scalarStore_framed (exec_stx fm z d a b s) hs hsb hp (bytesOfWord_length ..) (by cases z <;> decide) htr
  · exact scalarStore_framed (exec_stp fm w d a imm s) hs hsb hp (pair_length ..) (by cases w <;> decide) htr
  · exact scalarStore_framed (exec_fst fm f d a imm s) hs hsb hp (bytesOfWord_length ..) (by cases f <;> decide) htr

end Sys2Proof.Machine

/-! PROOFS. Where a load's bytes come from (R118, R239 to R241, R243, R255). -/

namespace Sys2Proof.Machine

/-! ## Bytes of a line -/

@[simp] theorem memReadN_length (m : List Host.Cell) (a n : Nat) : (memReadN m a n).length = n := by
  induction n generalizing a with
  | zero => rfl
  | succ n ih => rw [memReadN, List.length_cons, ih]

theorem memReadN_drop (m : List Host.Cell) (a n k : Nat) : (memReadN m a (k + n)).drop k = memReadN m (a + k) n := by
  induction k generalizing a with
  | zero => rw [Nat.zero_add, List.drop_zero, Nat.add_zero]
  | succ k ih => rw [Nat.add_right_comm k 1 n, memReadN, List.drop_succ_cons, ih, Nat.add_right_comm, Nat.add_assoc]

theorem memReadN_take (m : List Host.Cell) (a n k : Nat) : (memReadN m a (n + k)).take n = memReadN m a n := by
  induction n generalizing a with
  | zero => rfl
  | succ n ih => rw [Nat.add_right_comm n 1 k, memReadN, List.take_succ_cons, ih, memReadN]

/-- The bytes of an access within a line, out of the line's. -/
theorem memReadN_line (m : List Host.Cell) {pa n : Nat} (h : pa % 128 + n ≤ 128) :
    ((memReadN m (lineOf pa * 128) 128).drop (pa % 128)).take n = memReadN m pa n := by
  obtain ⟨r, hr⟩ := Nat.exists_eq_add_of_le h
  have hpa : lineOf pa * 128 + pa % 128 = pa := by
    rw [lineOf]
    omega
  have hsplit : memReadN m (lineOf pa * 128) 128 = memReadN m (lineOf pa * 128) (pa % 128 + (n + r)) := by
    rw [← Nat.add_assoc, ← hr]
  rw [hsplit, memReadN_drop, hpa, memReadN_take]

/-! ## Stores forwarded over bytes -/

/-- One store forwarded over the bytes at an address. -/
def forwardOne (pa : Nat) (d : List Byte) (e : SbEntry) : List Byte :=
  (List.range d.length).map (fun i =>
    let o := (d[i]?).getD 0
    if e.pa ≤ pa + i ∧ pa + i < e.pa + e.data.length
    then (o &&& ~~~e.mask) ||| ((e.data[pa + i - e.pa]?).getD 0 &&& e.mask) else o)

theorem forward_eq (g : Word) (pa : Nat) (sb : List SbEntry) (d : List Byte) :
    forward g pa sb d = (sb.filter (fun e => e.gtid = g ∧ e.meets pa d.length)).foldl (forwardOne pa) d := rfl

theorem foldl_forwardOne_length (pa : Nat) (l : List SbEntry) (d : List Byte) :
    (l.foldl (forwardOne pa) d).length = d.length := by
  induction l generalizing d with
  | nil => rfl
  | cons e l ih => rw [List.foldl_cons, ih, forwardOne, List.length_map, List.length_range]

theorem forward_length (g : Word) (pa : Nat) (sb : List SbEntry) (d : List Byte) :
    (forward g pa sb d).length = d.length := by
  rw [forward_eq, foldl_forwardOne_length]

/-- Stores that meet none of the bytes leave them. -/
theorem forward_none {g : Word} {pa n : Nat} {sb : List SbEntry} {d : List Byte}
    (h : sb.any (fun e => e.meets pa n) = false) (hd : d.length ≤ n) : forward g pa sb d = d := by
  have hfilter : sb.filter (fun e => e.gtid = g ∧ e.meets pa d.length) = [] := by
    refine List.filter_eq_nil_iff.2 fun e he hmeets => ?_
    have hno : ¬ (e.pa < pa + n ∧ pa < e.pa + e.data.length) := by simpa [SbEntry.meets] using List.any_eq_false.1 h e he
    have hyes : e.gtid = g ∧ e.pa < pa + d.length ∧ pa < e.pa + e.data.length := by simpa [SbEntry.meets] using hmeets
    exact hno ⟨by omega, hyes.2.2⟩
  rw [forward_eq, hfilter]
  rfl

theorem byte_under_mask (o b : Byte) : (o &&& ~~~0xFF) ||| (b &&& 0xFF) = b := by
  rw [show (~~~0xFF : Byte) = 0 from rfl, show (0xFF : Byte) = BitVec.allOnes 8 from rfl, BitVec.and_allOnes]
  simp

/-- The newest store, where it has every byte, gives them all. -/
theorem forward_newest {g : Word} {pa : Nat} {sb : List SbEntry} {e : SbEntry} {d : List Byte} (hg : e.gtid = g)
    (hmask : e.mask = 0xFF) (hn : 0 < d.length) (hlo : e.pa ≤ pa) (hhi : pa + d.length ≤ e.pa + e.data.length) :
    forward g pa (sb ++ [e]) d = (e.data.drop (pa - e.pa)).take d.length := by
  have hmeets : e.meets pa d.length = true := decide_eq_true ⟨by omega, by omega⟩
  have hlast : [e].filter (fun e => e.gtid = g ∧ e.meets pa d.length) = [e] := by
    rw [List.filter_singleton, hmeets, hg]
    simp
  rw [forward_eq, List.filter_append, hlast, List.foldl_append, List.foldl_cons, List.foldl_nil]
  have hlen := foldl_forwardOne_length pa (sb.filter (fun e => e.gtid = g ∧ e.meets pa d.length)) d
  refine List.ext_getElem (by rw [forwardOne, List.length_map, List.length_range, hlen]; simp; omega) fun i hi _ => ?_
  have hi' : i < d.length := by rwa [forwardOne, List.length_map, List.length_range, hlen] at hi
  have hat : pa + i - e.pa < e.data.length := by omega
  simp only [forwardOne, List.getElem_map, List.getElem_range, List.getElem_take, List.getElem_drop]
  rw [if_pos ⟨by omega, by omega⟩, hmask, byte_under_mask, List.getElem?_eq_getElem hat, Option.getD_some]
  congr 1
  omega

theorem covered_none {g : Word} {pa n : Nat} {sb : List SbEntry} (hn : 0 < n)
    (h : sb.any (fun e => e.meets pa n) = false) : covered g pa n sb = false := by
  refine List.all_eq_false.2 ⟨0, List.mem_range.2 hn, fun hcov => ?_⟩
  obtain ⟨e, he, hbyte⟩ := List.any_eq_true.1 hcov
  have hall : e.gtid = g ∧ e.mask = 0xFF ∧ e.pa ≤ pa + 0 ∧ pa + 0 < e.pa + e.data.length := of_decide_eq_true hbyte
  obtain ⟨-, -, hlo, hhi⟩ := hall
  exact List.any_eq_false.1 h e he (decide_eq_true ⟨by omega, by omega⟩)

theorem covered_newest {g : Word} {pa n : Nat} {sb : List SbEntry} {e : SbEntry} (hg : e.gtid = g)
    (hmask : e.mask = 0xFF) (hlo : e.pa ≤ pa) (hhi : pa + n ≤ e.pa + e.data.length) :
    covered g pa n (sb ++ [e]) = true := by
  refine List.all_eq_true.2 fun i hi => List.any_eq_true.2 ⟨e, List.mem_append_right _ List.mem_cons_self, ?_⟩
  have hi' := List.mem_range.1 hi
  exact decide_eq_true ⟨hg, hmask, by omega, by omega⟩

/-! ## Fills -/

theorem cur_dropStale (ag : Agent) (line : Option Nat) (s : State) : (dropStale ag line s).cur = s.cur := by
  unfold dropStale
  dsimp only
  split <;> split <;> rfl

theorem cur_applyWt (die line : Nat) (s : State) : (applyWt die line s).cur = s.cur := by
  unfold applyWt
  split
  · rfl
  · next w _ =>
    dsimp only
    split
    · exact cur_dropStale ..
    · obtain ⟨m, c, hw⟩ := sameButMemory_storeWrite w.gtid w.pa w.data w.mask w.poison w.full
        { s with coh := answerConfirms die line s.coh }
      rw [hw]

theorem cur_serveFill (die line : Nat) (s : State) : (serveFill die line s).1.cur = s.cur := by
  have happly : (applyWts die line s).cur = s.cur :=
    List.foldlRecOn (motive := fun t : State => t.cur = s.cur) _ _ rfl fun t ht _ _ => (cur_applyWt die line t).trans ht
  simp only [serveFill]
  split
  · exact happly
  · unfold roomInDirectory
    split
    · split <;> exact happly
    · exact happly

/-- A copy of this generation has age 0. -/
theorem stampAge_generation (c : Coh) (die : Nat) : stampAge c die (generation c die) = 0 := by
  have hlt : generation c die < 2 ^ 16 := Nat.mod_lt _ (by decide)
  rw [stampAge, Nat.mod_eq_of_lt hlt, Nat.add_sub_cancel_left, Nat.mod_self]

/-- The copy that a fill has made is the one that is fresh. -/
theorem freshCopy_filledBy {line die : Nat} {r : State × List Byte × Bool × Option Nat} (hdie : r.1.die = die) :
    ∃ x, freshCopy (filledBy line r).coh die line = some x ∧ x.data = r.2.1 := by
  rw [filledBy]
  generalize hx : (⟨r.1.die, line, r.2.1, r.2.2.1, generation r.1.coh r.1.die, r.2.2.2⟩ : Copy) = x
  have hage : ageOf (putCopy x r.1.coh) x = 0 := by
    rw [← hx]
    exact stampAge_generation r.1.coh r.1.die
  have hfind : copyOf (putCopy x r.1.coh) die line = some x :=
    List.find?_cons_of_pos (decide_eq_true ⟨by rw [← hx, hdie], by rw [← hx], by rw [hage]; decide⟩)
  refine ⟨x, ?_, by rw [← hx]⟩
  rw [freshCopy, hfind]
  exact Option.filter_some_pos (decide_eq_true hage)

/-! ## Loads of a line -/

section
variable {pa n : Nat} {s : State}

/-- A load of a local line that no store of the core's buffer meets gives what the line holds. -/
theorem loadLine_unbuffered (hlocal : localMem s pa = true) (htok : tokensHeld s.coh s.cur (lineOf pa) = false)
    (hn : 0 < n) (hsb : s.core.sb.any (fun e => e.meets pa n) = false) (hmsgs : msgsPast s.ctx.prv.gtid pa n s = true)
    {t : State} {d : List Byte} {p : Bool} (hread : readLine pa n s = (t, d, p)) (hd : d.length ≤ n) :
    loadLine false pa n s = .ok (heard pa n t, d, p) := by
  have hone (f : SbEntry → Bool) : s.core.sb.any (fun e => f e && e.meets pa n) = false :=
    List.any_eq_false.2 fun e he hmeets => List.any_eq_false.1 hsb e he (Bool.and_eq_true_iff.1 hmeets).2
  simp only [loadLine, hlocal, htok, hmsgs, hone, hread, covered_none hn hsb]
  simp [forward_none hsb hd]

/-- What a load of a line that is not held back gives. -/
theorem loadLine_ok (hother : s.core.sb.any (fun e => decide (e.gtid ≠ s.ctx.prv.gtid) && e.meets pa n) = false)
    (htok : (localMem s pa && tokensHeld s.coh s.cur (lineOf pa)) = false)
    (hready : (!deadHome s pa && !(if localMem s pa then msgsPast s.ctx.prv.gtid pa n s
      else remoteReady s.ctx.prv.gtid pa n s)) = false) :
    loadLine false pa n s = .ok (heard pa n (readLine pa n s).1,
      forward s.ctx.prv.gtid pa s.core.sb (readLine pa n s).2.1,
      ((readLine pa n s).2.2 && !covered s.ctx.prv.gtid pa n s.core.sb) ||
        s.core.sb.any (fun e => decide (e.gtid = s.ctx.prv.gtid) && e.poison && e.meets pa n)) := by
  rw [loadLine, hother, htok, hready]
  rfl

/-- A load that succeeds has not been held back. -/
theorem loadLine_of_ok {r : State × List Byte × Bool} (h : loadLine false pa n s = .ok r) :
    s.core.sb.any (fun e => decide (e.gtid ≠ s.ctx.prv.gtid) && e.meets pa n) = false ∧
    (localMem s pa && tokensHeld s.coh s.cur (lineOf pa)) = false ∧
    (!deadHome s pa && !(if localMem s pa then msgsPast s.ctx.prv.gtid pa n s
      else remoteReady s.ctx.prv.gtid pa n s)) = false := by
  by_cases hother : s.core.sb.any (fun e => decide (e.gtid ≠ s.ctx.prv.gtid) && e.meets pa n) = true
  · rw [loadLine, if_pos hother] at h
    cases h
  by_cases htok : (localMem s pa && tokensHeld s.coh s.cur (lineOf pa)) = true
  · rw [loadLine, if_neg hother, if_pos htok] at h
    cases h
  by_cases hready : (!deadHome s pa && !(if localMem s pa then msgsPast s.ctx.prv.gtid pa n s
      else remoteReady s.ctx.prv.gtid pa n s)) = true
  · rw [loadLine, if_neg hother, if_neg htok, if_pos hready] at h
    cases h
  exact ⟨Bool.eq_false_iff.2 hother, Bool.eq_false_iff.2 htok, Bool.eq_false_iff.2 hready⟩

/-- How many bytes a line gives does not depend on the core's buffer. -/
theorem readLine_length_of_same {t : State} (hhome : localMem t pa = localMem s pa) (hdie : t.die = s.die)
    (hcoh : t.coh = s.coh) : (readLine pa n t).2.1.length = (readLine pa n s).2.1.length := by
  by_cases hlocal : localMem s pa = true
  · by_cases hd : homeDie pa = s.die
    · rw [readLine_home hlocal hd, readLine_home (hhome.trans hlocal) (hd.trans hdie.symm)]
      simp
    · have hd' : homeDie pa ≠ t.die := hdie ▸ hd
      cases hfresh : freshCopy s.coh s.die (lineOf pa) with
      | some x =>
        rw [readLine_copy hlocal hd hfresh, readLine_copy (hhome.trans hlocal) hd' (x := x) (by rw [hcoh, hdie, hfresh])]
      | none =>
        rw [readLine_fill hlocal hd hfresh rfl, readLine_fill (hhome.trans hlocal) hd' (by rw [hcoh, hdie, hfresh]) rfl,
          (serveFill_served rfl).1, (serveFill_served rfl).1]
        simp
  · simp [readLine, readHome, hlocal, hhome]

/-- The entry of a store of whole bytes by the context. -/
def ownEntry (pa : Nat) (data : List Byte) (s : State) : SbEntry := ⟨s.ctx.prv.gtid, s.pid, pa, data, 0xFF, false⟩

/-- A load of bytes that the newest store of the context has reads that store, whatever else it would have read (R118). -/
theorem loadLine_buffered {pa' : Nat} {data v : List Byte} {t : State} (h : loadLine false pa n s = .ok (t, v, false))
    (hn : 0 < n) (hlen : v.length = n) (hlo : pa' ≤ pa) (hhi : pa + n ≤ pa' + data.length) :
    ∃ u, loadLine false pa n (buffered pa' data 0xFF s) = .ok (u, (data.drop (pa - pa')).take n, false) := by
  obtain ⟨hother, htok, hready⟩ := loadLine_of_ok h
  rw [loadLine_ok hother htok hready] at h
  simp only [Except.ok.injEq, Prod.mk.injEq, Bool.or_eq_false_iff] at h
  obtain ⟨-, hv, -, hpoison⟩ := h
  have hread : (readLine pa n s).2.1.length = n := by
    rw [← hv, forward_length] at hlen
    exact hlen
  have hread' : (readLine pa n (buffered pa' data 0xFF s)).2.1.length = n :=
    (readLine_length_of_same (s := s) (t := buffered pa' data 0xFF s) rfl rfl rfl).trans hread
  have hother' : (s.core.sb ++ [ownEntry pa' data s]).any
      (fun e => decide (e.gtid ≠ s.ctx.prv.gtid) && e.meets pa n) = false := by
    rw [List.any_append, hother]
    simp [ownEntry]
  have hnewest : forward s.ctx.prv.gtid pa (s.core.sb ++ [ownEntry pa' data s])
      (readLine pa n (buffered pa' data 0xFF s)).2.1 = (data.drop (pa - pa')).take n := by
    have hnew := forward_newest (g := s.ctx.prv.gtid) (sb := s.core.sb) (e := ownEntry pa' data s)
      (d := (readLine pa n (buffered pa' data 0xFF s)).2.1) rfl rfl (by rw [hread']; exact hn) hlo (by rw [hread']; exact hhi)
    rwa [hread'] at hnew
  have hcovered : covered s.ctx.prv.gtid pa n (s.core.sb ++ [ownEntry pa' data s]) = true :=
    covered_newest rfl rfl hlo hhi
  have hclean : (s.core.sb ++ [ownEntry pa' data s]).any
      (fun e => decide (e.gtid = s.ctx.prv.gtid) && e.poison && e.meets pa n) = false := by
    rw [List.any_append, hpoison]
    simp [ownEntry]
  have hload := loadLine_ok (s := buffered pa' data 0xFF s) hother' htok hready
  rw [show (buffered pa' data 0xFF s).core.sb = s.core.sb ++ [ownEntry pa' data s] from rfl,
    show (buffered pa' data 0xFF s).ctx = s.ctx from rfl, hnewest, hcovered, hclean, Bool.not_true, Bool.and_false,
    Bool.or_false] at hload
  exact ⟨_, hload⟩

end

/-- Settles O8: the home, a fresh copy and a fill by what `readLine` gives in each case, the newest own store by
`loadLine_buffered`. -/
theorem loadSources : Obligations.LoadSources := by
  unfold Obligations.LoadSources
  intro pa n s hlocal htok hn hin hsb hmsgs
  obtain ⟨-, hwts, hpoison⟩ := withToken_frame (lineOf pa) s.die (lineOf pa) s
  refine ⟨fun hdie hgood => ?_, fun hdie x hfresh hgood => ?_, fun hdie hnone => ?_,
    fun s0 s1 pa' data v h hlen hlo hhi => loadLine_buffered h hn hlen hlo hhi⟩
  · rw [loadLine_unbuffered hlocal htok hn hsb hmsgs (readLine_home hlocal hdie) (memReadN_length ..).le, hpoison, hgood]
    rfl
  · have hread := loadLine_unbuffered hlocal htok hn hsb hmsgs (readLine_copy hlocal hdie hfresh) (List.length_take_le ..)
    rw [hgood] at hread
    exact ⟨_, hread, rfl⟩
  · have hcur : (serveFill s.die (lineOf pa) (withToken (lineOf pa) s)).1.cur = s.cur := cur_serveFill ..
    have hmem (hw : s.coh.wts = []) := (idles_serveFill (die := s.die) (line := lineOf pa) (hwts.trans hw)).2.2
    generalize hr : serveFill s.die (lineOf pa) (withToken (lineOf pa) s) = r at hcur hmem
    obtain ⟨hdata, hpoison'⟩ := serveFill_served hr
    have hread := loadLine_unbuffered hlocal htok hn hsb hmsgs (readLine_fill hlocal hdie hnone hr) (List.length_take_le ..)
    rw [hdata, memReadN_line _ hin, hpoison'] at hread
    obtain ⟨x, hfresh, hx⟩ := freshCopy_filledBy (line := lineOf pa) (congrArg (· / 64) hcur)
    exact ⟨_, hread, hmem, x, hfresh, hx.trans hdata⟩

end Sys2Proof.Machine

/-! PROOFS. Management services: who is served, and how a service ends (R118, R328, R418, R451). -/

namespace Sys2Proof.Machine

/-! ## What a service leaves of its caller -/

/-- The caller of a service goes on where it would have: the program counter, the saved one of the monitor and the level
are as they were. -/
def sameReturn (c d : Ctx) : Prop :=
  d.regs.pc = c.regs.pc ∧ d.prv.mon.epc = c.prv.mon.epc ∧ bits d.prv.status 0 2 = bits c.prv.status 0 2

theorem sameReturn_refl (c : Ctx) : sameReturn c c := ⟨rfl, rfl, rfl⟩

theorem sameReturn_trans {c d e : Ctx} (h : sameReturn c d) (k : sameReturn d e) : sameReturn c e :=
  ⟨k.1.trans h.1, k.2.1.trans h.2.1, k.2.2.trans h.2.2⟩

theorem sameReturn_of_eq {c d : Ctx} (h : d = c) : sameReturn c d := h ▸ sameReturn_refl d

theorem sameReturn_setStep (on : Bool) (c : Ctx) : sameReturn c (setStep on c) :=
  ⟨rfl, rfl, bits_putBits_other _ _ (by decide)⟩

theorem sameReturn_pendAudit (code : Nat) (pc : Word) (c : Ctx) : sameReturn c (pendAudit code pc c) := by
  unfold pendAudit
  split <;> exact ⟨rfl, rfl, rfl⟩

theorem sameReturn_loseNames (c : Ctx) : sameReturn c (loseNames c) := by
  unfold loseNames
  dsimp only
  split <;> exact ⟨rfl, rfl, rfl⟩

theorem sameReturn_wg (n : Nat) (v : Word) (s : State) : sameReturn s.ctx (wg s n v).ctx := by
  simp [sameReturn]

/-- The active context of a core is replaced by one with the same return. -/
theorem sameReturn_setActive {n : Nat} {c d : Ctx} {s : State} (hc : activeOf s n = some c) (h : sameReturn c d) :
    sameReturn s.ctx (setActive s n d).ctx := by
  by_cases hn : n = s.cur
  · obtain rfl : s.ctx = c := by
      rw [activeOf, if_pos hn, Option.ite_none_right_eq_some] at hc
      exact Option.some.inj hc.2
    rw [setActive, if_pos hn]
    exact h
  · rw [setActive, if_neg hn]
    exact sameReturn_of_eq (setCore_frame ..).2.1

theorem sameReturn_onContext {f : Ctx → Ctx} (hf : ∀ c, sameReturn c (f c)) (g : Word) (s : State) :
    sameReturn s.ctx (onContext g f s).ctx := by
  refine List.foldlRecOn (motive := fun t : State => sameReturn s.ctx t.ctx) _ _ (sameReturn_refl _) fun t ht n _ => ?_
  extract_lets s1
  have hactive : sameReturn s.ctx s1.ctx := by
    unfold s1
    split
    · next c hc =>
      split
      · exact sameReturn_trans ht (sameReturn_setActive hc (hf c))
      · exact ht
    · exact ht
  split
  · split
    · exact sameReturn_trans hactive (sameReturn_of_eq (setCore_frame ..).2.1)
    · exact hactive
  · exact hactive

theorem sameReturn_undefNames (n : Nat) (s : State) : sameReturn s.ctx (undefNames n s).ctx := by
  obtain ⟨-, hregs, -, hprv, -⟩ := sameButNames_undefNames n s
  exact ⟨by rw [hregs], by rw [hprv], by rw [hprv]⟩

theorem sameReturn_undefCluster (n : Nat) (s : State) : sameReturn s.ctx (undefCluster n s).ctx :=
  List.foldlRecOn (motive := fun t : State => sameReturn s.ctx t.ctx) _ _ (sameReturn_refl _)
    fun _ ht _ _ => sameReturn_trans ht (sameReturn_undefNames ..)

theorem sameReturn_restoreEngine (n : Nat) (s : State) : sameReturn s.ctx (restoreEngine n s).ctx := by
  unfold restoreEngine
  extract_lets s1
  have hundef : sameReturn s.ctx s1.ctx := sameReturn_undefCluster n s
  clear_value s1
  exact sameReturn_trans hundef
    (sameReturn_undefCluster n (setEngine n { engineAt s1 n with quarantined := false } s1))

theorem sameReturn_quarantine (n : Nat) (s : State) : sameReturn s.ctx (quarantine n s).ctx := by
  unfold quarantine
  split
  · exact sameReturn_refl _
  · extract_lets hit s1
    have hlost : sameReturn s.ctx s1.ctx :=
      List.foldlRecOn (motive := fun t : State => sameReturn s.ctx t.ctx) _ _ (sameReturn_refl _)
        fun _ ht _ _ => sameReturn_trans ht (sameReturn_onContext sameReturn_loseNames ..)
    exact sameReturn_trans hlost
      (sameReturn_undefCluster n (setEngine n { engineAt s1 n with quarantined := true } s1))

theorem sameReturn_reportAudit (code : Nat) (g pc : Word) (s : State) :
    sameReturn s.ctx (reportAudit code g pc s).ctx := by
  unfold reportAudit
  split
  · exact sameReturn_onContext (sameReturn_pendAudit code pc) g s
  · split <;> exact sameReturn_refl _

theorem ctx_putReport (r : AuditRec) (s : State) : (putReport r s).ctx = s.ctx := by
  unfold putReport
  split <;> rfl

theorem sameReturn_settleAudit (code : Nat) (r : AuditRec) (s : State) :
    sameReturn s.ctx (settleAudit code r s).ctx := by
  have hput : sameReturn s.ctx (putReport { r with outcome := code } (dropAudit r.seq s)).ctx :=
    sameReturn_of_eq (ctx_putReport ..)
  unfold settleAudit
  extract_lets s1
  split
  · exact sameReturn_trans hput (sameReturn_reportAudit 1 r.gtid r.pc (suspectEngine r.orig r.pid s1))
  · have hfold : sameReturn s.ctx (([r.orig] ++ r.replay.toList ++ r.third.toList).foldl (fun s n => quarantine n s) s1).ctx :=
      List.foldlRecOn (motive := fun t : State => sameReturn s.ctx t.ctx) _ _ hput
        fun _ ht _ _ => sameReturn_trans ht (sameReturn_quarantine ..)
    exact sameReturn_trans hfold (sameReturn_reportAudit ..)
  · split <;> exact hput

theorem ctx_catchUp (n : Nat) (s : State) : (catchUp n s).ctx = s.ctx := by
  induction n generalizing s with
  | zero => rfl
  | succ n ih =>
    unfold catchUp
    split
    · next m _ =>
      rw [ih, rollCallAt_eq]
      exact ctx_rolled m s
    · rw [ih]
      rfl
    · rfl

theorem ctx_agentWrite (pa : Nat) (d : List Byte) (s : State) : (agentWrite pa d s).ctx = s.ctx := by
  obtain ⟨m, c, h⟩ := agentWrite_sameButMemory pa d s
  rw [h]

/-! ## Who is served -/

/-- What a service may answer: a status, with the caller's return as it was. -/
def answers (s : State) (r : Nat × State) : Prop := r.1 ≤ 3 ∧ sameReturn s.ctx r.2.ctx

theorem answers_of {s t : State} {st : Nat} (hst : st ≤ 3) (h : sameReturn s.ctx t.ctx) : answers s (st, t) := ⟨hst, h⟩

theorem answers_of_ctx {s t : State} {st : Nat} (hst : st ≤ 3) (h : t.ctx = s.ctx) : answers s (st, t) :=
  ⟨hst, sameReturn_of_eq h⟩

theorem answers_ite {s : State} {r q : Nat × State} {p : Prop} [Decidable p] (hr : answers s r) (hq : answers s q) :
    answers s (if p then r else q) := by
  split
  · exact hr
  · exact hq

/-- A test that ends the service, and what follows it. -/
theorem answers_if {s t : State} {st : Nat} {q : Nat × State} {p : Prop} [Decidable p] (hst : st ≤ 3)
    (ht : t.ctx = s.ctx) (hq : answers s q) : answers s (if p then (st, t) else q) :=
  answers_ite (answers_of_ctx hst ht) hq

/-- An instruction is the service of a number, for callers from a level up. -/
def serves (s : State) (x : Instr × Nat × Nat) : Prop :=
  (firmwareCalled s = false ∨ bits s.ctx.prv.mon.cause 16 16 ≠ x.2.1 → exec x.1 s = .next s) ∧
  (firmwareCalled s = true → bits s.ctx.prv.mon.cause 16 16 = x.2.1 →
    (bits s.ctx.prv.mon.cause 62 2 < x.2.2 → exec x.1 s = .next (finishService 3 s)) ∧
    (x.2.2 ≤ bits s.ctx.prv.mon.cause 62 2 → storesPerformed 3 s = false ∨ (x.2.1 = 0x60 ∧ bindReady s = false) →
      exec x.1 s = .next (progress s)) ∧
    (x.2.2 ≤ bits s.ctx.prv.mon.cause 62 2 → storesPerformed 3 s = true → (x.2.1 = 0x60 → bindReady s = true) →
      ∃ st t, exec x.1 s = .next (finishService st t) ∧ st ≤ 3 ∧
        t.pc = s.pc ∧ t.ctx.prv.mon.epc = s.ctx.prv.mon.epc ∧ t.pl = s.pl))

section
variable {i : Instr} {n low : Nat} {body : State → Nat × State} {ready : State → Bool} {s : State}

theorem serves_of_serviceWhen (hx : exec i s = serviceWhen ready n low body s)
    (hready : ready s = false ↔ n = 0x60 ∧ bindReady s = false) (hb : answers s (body s)) : serves s (i, n, low) := by
  rw [serves, hx]
  refine ⟨fun hno => ?_, fun hcalled hnum => ⟨fun hlow => ?_, fun hlow hwait => ?_, fun hlow hperf hbind => ?_⟩⟩
  · rw [serviceWhen, if_pos]
    obtain h | h := hno <;> simp [h]
  all_goals rw [serviceWhen, if_neg (by simp [hcalled, hnum])]
  · exact if_pos hlow
  · rw [if_neg (Nat.not_lt.2 hlow), if_pos]
    obtain h | h := hwait
    · simp [h]
    · simp [hready.2 h]
  · have hgo : ready s = true := Bool.not_eq_false _ ▸ fun h => by
      obtain ⟨hn, hno⟩ := hready.1 h
      exact absurd (hbind hn) (by simp [hno])
    rw [if_neg (Nat.not_lt.2 hlow), if_neg (by simp [hperf, hgo])]
    exact ⟨_, _, rfl, hb⟩

theorem serves_of_service (hx : exec i s = service n low body s) (hn : n ≠ 0x60) (hb : answers s (body s)) :
    serves s (i, n, low) :=
  serves_of_serviceWhen hx (by simp [hn]) hb

end

/-! ## Each service -/

section
variable (s : State)

theorem serves_rdcsize : serves s (.rdcsize, 0x40, 2) :=
  serves_of_service (show exec .rdcsize s = execRdcsize s from rfl) (by decide) <|
    answers_if (by decide) rfl <| answers_if (by decide) rfl <| answers_of_ctx (by decide) rfl

theorem serves_pool : serves s (.pool, 0x41, 2) :=
  serves_of_service (show exec .pool s = execPool s from rfl) (by decide) <|
    answers_if (by decide) rfl <| answers_of_ctx (by decide) rfl

theorem serves_zone : serves s (.zone, 0x42, 2) :=
  serves_of_service (show exec .zone s = execZone s from rfl) (by decide) <|
    answers_if (by decide) rfl <| answers_if (by decide) rfl <| answers_of_ctx (by decide) rfl

theorem serves_propose : serves s (.propose, 0x43, 2) :=
  serves_of_service (show exec .propose s = execPropose s from rfl) (by decide) <|
    answers_if (by decide) rfl <| answers_of_ctx (by decide) rfl

theorem serves_expand : serves s (.expand, 0x44, 1) := by
  refine serves_of_service (show exec .expand s = execExpand s from rfl) (by decide) ?_
  refine answers_if (by decide) rfl (answers_if (by decide) rfl ?_)
  split
  · refine answers_if (by decide) rfl ?_
    split
    · next s1 hinto =>
      obtain ⟨_, _, _, _, _, rfl⟩ := sameButTables_expandInto hinto
      exact answers_of_ctx (by decide) rfl
    · exact answers_of_ctx (by decide) rfl
  · exact answers_of_ctx (by decide) rfl

theorem serves_runq : serves s (.runq, 0x48, 2) :=
  serves_of_service (show exec .runq s = execRunq s from rfl) (by decide) <|
    answers_if (by decide) rfl <| answers_if (by decide) rfl <| answers_of_ctx (by decide) rfl

theorem serves_sapool : serves s (.sapool, 0x49, 2) :=
  serves_of_service (show exec .sapool s = execSapool s from rfl) (by decide) <|
    answers_if (by decide) rfl <| answers_of_ctx (by decide) rfl

theorem serves_elect : serves s (.elect, 0x4A, 2) :=
  serves_of_service (show exec .elect s = execElect s from rfl) (by decide) <|
    answers_if (by decide) rfl <| answers_if (by decide) rfl <| answers_of_ctx (by decide) rfl

theorem serves_auditcfg : serves s (.auditcfg, 0x50, 2) :=
  serves_of_service (show exec .auditcfg s = execAuditcfg s from rfl) (by decide) <|
    answers_if (by decide) rfl <| answers_of_ctx (by decide) rfl

theorem serves_auditlog : serves s (.auditlog, 0x51, 2) := by
  refine serves_of_service (show exec .auditlog s = execAuditlog s from rfl) (by decide) ?_
  refine answers_if (by decide) rfl ?_
  split
  · exact answers_of_ctx (by decide) rfl
  · exact answers_of_ctx (by decide) (ctx_agentWrite ..)

theorem serves_auditrun : serves s (.auditrun, 0x52, 2) := by
  refine serves_of_service (show exec .auditrun s = execAuditrun s from rfl) (by decide) ?_
  dsimp only
  split
  · exact answers_of_ctx (by decide) rfl
  · exact answers_if (by decide) rfl (answers_if (by decide) rfl (answers_of (by decide) (sameReturn_wg ..)))

theorem serves_auditrule : serves s (.auditrule, 0x53, 2) := by
  refine serves_of_service (show exec .auditrule s = execAuditrule s from rfl) (by decide) ?_
  split
  · exact answers_of_ctx (by decide) rfl
  · exact answers_if (by decide) rfl (answers_of (by decide) (sameReturn_settleAudit ..))

theorem serves_quarantine : serves s (.quarantine, 0x54, 2) :=
  serves_of_service (show exec .quarantine s = execQuarantine s from rfl) (by decide) <|
    answers_if (by decide) rfl <| answers_ite (answers_of (by decide) (sameReturn_quarantine ..)) <|
      answers_if (by decide) rfl <| answers_of (by decide) (sameReturn_restoreEngine ..)

theorem serves_dbgstop : serves s (.dbgstop, 0x58, 1) :=
  serves_of_service (show exec .dbgstop s = execDbgstop s from rfl) (by decide) <|
    answers_if (by decide) rfl <|
      answers_ite (answers_of (by decide) (sameReturn_onContext (sameReturn_setStep _) ..)) <|
        answers_if (by decide) rfl <| answers_of_ctx (by decide) rfl

theorem serves_rollcall : serves s (.rollcall, 0x59, 2) := by
  refine serves_of_service (show exec .rollcall s = execRollcall s from rfl) (by decide) ?_
  have hctx := ctx_catchUp (s.cyc - s.dbg.rollAt + 2) s
  dsimp only
  generalize catchUp (s.cyc - s.dbg.rollAt + 2) s = t at hctx
  exact answers_if (by decide) hctx <| answers_if (by decide) hctx <| answers_if (by decide) hctx <|
    answers_of_ctx (by decide) hctx

theorem serves_groupbind : serves s (.groupbind, 0x60, 1) := by
  refine serves_of_serviceWhen (show exec .groupbind s = execGroupbind s from rfl) (by simp) ?_
  refine answers_if (by decide) rfl (answers_if (by decide) rfl (answers_of_ctx (by decide) ?_))
  exact List.foldlRecOn (motive := fun t : State => t.ctx = s.ctx) _ _ rfl fun _ ht _ _ => ht

theorem serves_routeset : serves s (.routeset, 0x61, 2) := by
  refine serves_of_service (show exec .routeset s = execRouteset s from rfl) (by decide) ?_
  have hend : (if s.fab.repairHost then releaseMsgs { s with fab.repairing := false } else s).ctx = s.ctx := by
    split <;> rfl
  exact answers_if (by decide) hend <| answers_if (by decide) rfl <| answers_if (by decide) rfl <|
    answers_of_ctx (by decide) rfl

theorem serves_notify : serves s (.notify, 0x62, 2) :=
  serves_of_service (show exec .notify s = execNotify s from rfl) (by decide) <|
    answers_if (by decide) rfl <| answers_if (by decide) rfl <| answers_if (by decide) rfl <|
      answers_of_ctx (by decide) rfl

theorem serves_hostvf : serves s (.hostvf, 0x63, 2) :=
  serves_of_service (show exec .hostvf s = execHostvf s from rfl) (by decide) <|
    answers_if (by decide) rfl <| answers_if (by decide) rfl <| answers_if (by decide) rfl <|
      answers_if (by decide) rfl <| answers_of_ctx (by decide) rfl

theorem serves_hostwin : serves s (.hostwin, 0x64, 2) :=
  serves_of_service (show exec .hostwin s = execHostwin s from rfl) (by decide) <|
    answers_if (by decide) rfl <| answers_if (by decide) rfl <| answers_if (by decide) rfl <|
      answers_of_ctx (by decide) rfl

theorem serves_extend : serves s (.extend, 0x68, 2) :=
  serves_of_service (show exec .extend s = execExtend s from rfl) (by decide) <|
    answers_if (by decide) rfl <| answers_of_ctx (by decide) rfl

theorem serves_quote : serves s (.quote, 0x69, 2) :=
  serves_of_service (show exec .quote s = execQuote s from rfl) (by decide) <|
    answers_if (by decide) rfl <| answers_of_ctx (by decide) (ctx_agentWrite ..)

end

/-! ## The end of a service -/

theorem vecAddr_vecAddr (w : Word) : vecAddr (vecAddr w) = vecAddr w := by
  have hlt : vecBase w < 2 ^ 55 := Nat.mod_lt _ (by decide)
  have hbase : vecBase (vecAddr w) = vecBase w := by
    rw [vecBase, vecAddr, bits, BitVec.toNat_ofNat]
    omega
  rw [vecAddr, hbase, vecAddr]

/-- A service that ends leaves its status in `g5`, and execution goes on after the `mvc` at the caller's level (R451). -/
theorem finishService_ends (st : Nat) (s : State) :
    rg (finishService st s) 5 = BitVec.ofNat 64 st ∧
    (finishService st s).pc = vecAddr (s.ctx.prv.mon.epc + BitVec.ofNat 64 (callBytes s)) ∧
    (finishService st s).pl = bits s.ctx.prv.mon.cause 62 2 ∧
    (finishService st s).ie 3 = s.ctx.prv.mon.cause.getLsbD 61 ∧
    (∀ n, n ≠ 5 → rg (finishService st s) n = rg s n) ∧ (finishService st s).mem = s.mem := by
  unfold finishService
  extract_lets s0 s1
  have hsame : sameButNames s s0 := by
    unfold s0
    split
    · exact ⟨rfl, rfl, rfl, rfl, rfl, rfl⟩
    · exact sameButNames_endOverlap s
  obtain ⟨-, hregs, -, hprv, -, hmem⟩ := hsame
  have hprv1 : s1.ctx.prv = s.ctx.prv := by simp [s1, hprv]
  have hreg (n : Nat) : rg s0 n = rg s n := by rw [rg, hregs, rg]
  have hmem1 : s1.mem = s.mem := by simp [s1, hmem]
  have hget (n : Nat) : rg (returnFrom 3 { s1 with
      ctx.prv.mon.epc := vecAddr (s1.ctx.prv.mon.epc + BitVec.ofNat 64 (callBytes s)) }) n = rg s1 n := by simp [rg]
  obtain ⟨hpl, hie, hpc, -, -, -, hmem2⟩ := returned_returnFrom 3 (Nat.le_refl 3) { s1 with
    ctx.prv.mon.epc := vecAddr (s1.ctx.prv.mon.epc + BitVec.ofNat 64 (callBytes s)) }
  rw [hget]
  refine ⟨rg_wg_same _ (by decide) (by decide), hpc.trans ?_, hpl.trans ?_, hie.trans ?_, fun n hn => ?_, hmem2.trans hmem1⟩
  · change vecAddr (vecAddr (s1.ctx.prv.mon.epc + BitVec.ofNat 64 (callBytes s))) = _
    rw [vecAddr_vecAddr, hprv1]
  · change bits s1.ctx.prv.mon.cause 62 2 = _
    rw [hprv1]
  · change s1.ctx.prv.mon.cause.getLsbD 61 = _
    rw [hprv1]
  · rw [hget, rg_wg_other _ hn, hreg]

/-- Settles O41: each service answers with its caller's return as it was (`serves`), and its end is that of
`finishService_ends`. -/
theorem serviceCalls : Obligations.ServiceCalls := by
  unfold Obligations.ServiceCalls
  intro s
  refine ⟨fun x hx => ?_, fun st t ht => ht ▸ finishService_ends st s⟩
  change serves s x
  revert x
  simp only [List.forall_mem_cons]
  exact ⟨serves_rdcsize s, serves_pool s, serves_zone s, serves_propose s, serves_expand s, serves_runq s, serves_sapool s,
    serves_elect s, serves_auditcfg s, serves_auditlog s, serves_auditrun s, serves_auditrule s, serves_quarantine s,
    serves_dbgstop s, serves_rollcall s, serves_groupbind s, serves_routeset s, serves_notify s, serves_hostvf s,
    serves_hostwin s, serves_extend s, serves_quote s, fun _ h => absurd h List.not_mem_nil⟩

end Sys2Proof.Machine

/-! PROOFS. Floating-point sign operations, classes and register moves, on bits (R127, R129, R131). -/

namespace Sys2Proof.Machine

/-! ## A sign over magnitude bits -/

section
variable (f : EFmt) (t : Bool)

theorem EFmt.bits_pos : 0 < f.bits := by cases f <;> decide

theorem EFmt.signBit_eq_mul : f.signBit t = 2 ^ (f.bits - 1) * t.toNat := by cases t <;> simp [EFmt.signBit]

theorem EFmt.mag_lt (x : Nat) : f.mag x < 2 ^ (f.bits - 1) := Nat.mod_lt _ (Nat.two_pow_pos _)

theorem EFmt.testBit_signBit_add_mag (x i : Nat) :
    (f.signBit t + f.mag x).testBit i = if i < f.bits - 1 then x.testBit i else decide (i = f.bits - 1) && t := by
  rw [f.signBit_eq_mul, Nat.testBit_two_pow_mul_add _ (f.mag_lt x)]
  split
  · next hi => simp [EFmt.mag, Nat.testBit_mod_two_pow, hi]
  · next hi => simp [Nat.testBit_bool_toNat, show i - (f.bits - 1) = 0 ↔ i = f.bits - 1 by omega]

/-- An encoding whose top bit is `t` and whose other bits are those of `x` is that sign over the magnitude of `x`. -/
theorem EFmt.ofNat_signBit_add_mag {x v : BitVec f.bits} (htop : v.getLsbD (f.bits - 1) = t)
    (hlow : ∀ i < f.bits - 1, v.getLsbD i = x.getLsbD i) :
    BitVec.ofNat 64 (f.signBit t + f.mag x.toNat) = v.setWidth 64 := by
  refine BitVec.eq_of_getLsbD_eq fun i hi => ?_
  rw [BitVec.getLsbD_ofNat, f.testBit_signBit_add_mag, BitVec.getLsbD_setWidth, BitVec.testBit_toNat]
  rcases Nat.lt_trichotomy i (f.bits - 1) with h | h | h
  · rw [if_pos h, hlow i h]
  · subst h
    simp [htop]
  · have hout : v.getLsbD i = false := BitVec.getLsbD_of_ge v i (by omega)
    simp [h.not_gt, h.ne', hout]

end

/-! ## The bits of the sign operations -/

/-- The sign bit alone (R127). -/
def signMask (w : Nat) : BitVec w := 1#w <<< (w - 1)

theorem getLsbD_signMask {w i : Nat} (hw : 0 < w) : (signMask w).getLsbD i = decide (i = w - 1) := by
  rw [signMask, ← BitVec.twoPow_eq, BitVec.getLsbD_twoPow, decide_eq_true (show w - 1 < w by omega), Bool.true_and,
    decide_eq_decide]
  exact eq_comm

section
variable {w : Nat} (hw : 0 < w) (x : BitVec w)
include hw

theorem getLsbD_and_signMask (i : Nat) : (x &&& signMask w).getLsbD i = (x.getLsbD i && decide (i = w - 1)) := by
  rw [BitVec.getLsbD_and, getLsbD_signMask hw]

theorem getLsbD_xor_signMask (i : Nat) : (x ^^^ signMask w).getLsbD i = (x.getLsbD i ^^ decide (i = w - 1)) := by
  rw [BitVec.getLsbD_xor, getLsbD_signMask hw]

theorem getLsbD_and_not_signMask (i : Nat) :
    (x &&& ~~~signMask w).getLsbD i = (x.getLsbD i && !decide (i = w - 1)) := by
  rw [BitVec.getLsbD_and, BitVec.getLsbD_not, getLsbD_signMask hw]
  by_cases hi : i < w
  · simp [hi]
  · simp [BitVec.getLsbD_of_ge x i (by omega)]

end

section
variable (f : Fmt) (x y : BitVec (fmtE f).bits)

theorem ofNat_fabsV : BitVec.ofNat 64 (fabsV f x.toNat) = (x &&& ~~~signMask _).setWidth 64 := by
  have h := (fmtE f).ofNat_signBit_add_mag false (x := x) (v := x &&& ~~~signMask _)
    (by simp [getLsbD_and_not_signMask (fmtE f).bits_pos])
    (fun i hi => by simp [getLsbD_and_not_signMask (fmtE f).bits_pos, hi.ne])
  rwa [show (fmtE f).signBit false = 0 from rfl, Nat.zero_add] at h

theorem ofNat_fnegV : BitVec.ofNat 64 (fnegV f x.toNat) = (x ^^^ signMask _).setWidth 64 :=
  (fmtE f).ofNat_signBit_add_mag _
    (by simp [getLsbD_xor_signMask (fmtE f).bits_pos, EFmt.neg, BitVec.testBit_toNat])
    (fun i hi => by simp [getLsbD_xor_signMask (fmtE f).bits_pos, hi.ne])

theorem ofNat_fsgnjV : BitVec.ofNat 64 (fsgnjV f x.toNat y.toNat) =
    ((y &&& signMask _) ||| (x &&& ~~~signMask _)).setWidth 64 := by
  have hpos := (fmtE f).bits_pos
  exact (fmtE f).ofNat_signBit_add_mag _
    (by simp [getLsbD_and_signMask hpos, getLsbD_and_not_signMask hpos, EFmt.neg, BitVec.testBit_toNat])
    (fun i hi => by
      rw [BitVec.getLsbD_or, getLsbD_and_signMask hpos, getLsbD_and_not_signMask hpos]
      simp [hi.ne])

/-- A source register in a format is its low bits. -/
theorem rfn_eq_toNat (s : State) (n : Nat) : rfn f s n = ((rf s n).setWidth (fmtE f).bits).toNat :=
  (BitVec.toNat_setWidth ..).symm

end

/-! ## Classes -/

section
variable (f : EFmt) {b : Nat}

theorem EFmt.classOf_nan {q : Bool} (h : f.value b = .nan q) : f.classOf b = if q then 8 else 9 := by
  rw [EFmt.classOf, h]

theorem EFmt.classOf_inf {q : Bool} (h : f.value b = .inf q) : f.classOf b = if q then 0 else 7 := by
  rw [EFmt.classOf, h]

theorem EFmt.classOf_zero {q : Bool} {e : Int} (h : f.value b = .fin q 0 e) : f.classOf b = if q then 3 else 4 := by
  rw [EFmt.classOf, h]; rfl

theorem EFmt.classOf_nonzero {q : Bool} {m : Nat} {e : Int} (h : f.value b = .fin q (m + 1) e) :
    f.classOf b = if f.subnormal b then (if q then 2 else 5) else (if q then 1 else 6) := by
  rw [EFmt.classOf, h]; rfl

theorem EFmt.classOf_lt : f.classOf b < 10 := by
  unfold EFmt.classOf
  repeat' split
  all_goals decide

end

theorem ofNat_two_pow_eq_shiftLeft {w c : Nat} : BitVec.ofNat w (2 ^ c) = 1#w <<< c := by
  rw [← BitVec.twoPow_eq]
  exact BitVec.eq_of_toNat_eq (by rw [BitVec.toNat_ofNat, BitVec.toNat_twoPow])

/-! ## How the instructions end -/

section
variable {fm : Form} {f : Fmt} {rx d a b j k : Nat} {s : State}

theorem exec_fabs (hs : startAt fm s = some (j, k)) (h : clean s [.f (fm.a j a)] = true) :
    exec (.fabs fm f rx d a) s =
      .next (completes fm (fm.len 10) j (wfn (fm.d j d) (fabsV f (rfn f s (fm.a j a))) s)) :=
  (show exec _ s = execFabs fm f rx d a s from rfl).trans (runRep_ok hs (by rw [need_ok h]; rfl))

theorem exec_fneg (hs : startAt fm s = some (j, k)) (h : clean s [.f (fm.a j a)] = true) :
    exec (.fneg fm f rx d a) s =
      .next (completes fm (fm.len 10) j (wfn (fm.d j d) (fnegV f (rfn f s (fm.a j a))) s)) :=
  (show exec _ s = execFneg fm f rx d a s from rfl).trans (runRep_ok hs (by rw [need_ok h]; rfl))

theorem exec_fsgnj (hs : startAt fm s = some (j, k)) (h : clean s [.f (fm.a j a), .f (fm.b j b)] = true) :
    exec (.fsgnj fm f rx d a b) s = .next (completes fm (fm.len 10) j
      (wfn (fm.d j d) (fsgnjV f (rfn f s (fm.a j a)) (rfn f s (fm.b j b))) s)) :=
  (show exec _ s = execFsgnj fm f rx d a b s from rfl).trans (runRep_ok hs (by rw [need_ok h]; rfl))

theorem exec_fclass (h : clean s [.f a] = true) :
    exec (.fclass fm f rx d a) s = retires (fm.len 11) (wg s d (1#64 <<< (fmtE f).classOf (rfn f s a))) :=
  (show exec _ s = execFclass fm f rx d a s from rfl).trans
    (runOne_ok (by rw [need_ok h, ← ofNat_two_pow_eq_shiftLeft]; rfl))

theorem exec_fmvg (h : clean s [.f a] = true) : exec (.fmvg fm d a) s = retires (fm.len 11) (wg s d (rf s a)) :=
  (show exec _ s = execFmvg fm d a s from rfl).trans (runOne_ok (by rw [need_ok h]; rfl))

theorem exec_gmvf (h : clean s [.g a] = true) : exec (.gmvf fm d a) s = retires (fm.len 11) (wf s d (rg s a)) :=
  (show exec _ s = execGmvf fm d a s from rfl).trans (runOne_ok (by rw [need_ok h]; rfl))

end

/-- Settles O18: a sign operation puts a sign over magnitude bits (`EFmt.ofNat_signBit_add_mag`), and the class of a value
is that of its kind (`EFmt.classOf_nonzero` and the lemmas beside it). -/
theorem fpBitResults : Obligations.FpBitResults := by
  unfold Obligations.FpBitResults
  intro fm f rx d a b s j k hs
  refine ⟨fun h => ⟨?_, ?_⟩, fun h => ?_, fun h => ⟨exec_fmvg h, _, (fmtE f).classOf_lt, exec_fclass h, ?_⟩, exec_gmvf⟩
  · rw [exec_fabs hs h, wfn, rfn_eq_toNat, ofNat_fabsV]; rfl
  · rw [exec_fneg hs h, wfn, rfn_eq_toNat, ofNat_fnegV]; rfl
  · rw [exec_fsgnj hs h, wfn, rfn_eq_toNat, rfn_eq_toNat, ofNat_fsgnjV]; rfl
  · cases hv : (fmtE f).value (rfn f s a) with
    | nan q => exact (fmtE f).classOf_nan hv
    | inf q => exact (fmtE f).classOf_inf hv
    | fin q m e =>
      cases m with
      | zero => exact (fmtE f).classOf_zero hv
      | succ m =>
        dsimp only
        rw [(fmtE f).classOf_nonzero hv]
        split <;> rfl

end Sys2Proof.Machine

/-! PROOFS. Atomics on a line of the core's own die (R135 to R138). -/

namespace Sys2Proof.Machine

/-! ## The value an atomic leaves -/

/-- The bytes of a number are those of its low bits. -/
theorem bytesOfNat_mod (n v : Nat) : bytesOfNat n (v % 2 ^ (8 * n)) = bytesOfNat n v := by
  induction n generalizing v with
  | zero => rfl
  | succ n ih =>
    have hpow : 2 ^ (8 * (n + 1)) = 256 * 2 ^ (8 * n) := by rw [Nat.mul_add, pow_add, mul_comm]; rfl
    have hbyte : BitVec.ofNat 8 (v % (256 * 2 ^ (8 * n))) = BitVec.ofNat 8 v :=
      BitVec.eq_of_toNat_eq (Nat.mod_mul_right_mod v 256 _)
    rw [bytesOfNat, bytesOfNat, hpow, hbyte, Nat.mod_mul_right_div_self, ih]

theorem bytesOfNat_ofNat (n v : Nat) : bytesOfNat n (BitVec.ofNat (8 * n) v).toNat = bytesOfNat n v := by
  rw [BitVec.toNat_ofNat, bytesOfNat_mod]

/-- An integer atomic that always writes, as an operation on words (R136). -/
def amoWord {n : Nat} (op : AmoOp) (x y : BitVec n) : BitVec n :=
  match op with
  | .add => x + y
  | .and => x &&& y
  | .or => x ||| y
  | .xor => x ^^^ y
  | .min => if y.slt x then y else x
  | .max => if x.slt y then y else x
  | .minu => if y.ult x then y else x
  | .maxu => if x.ult y then y else x
  | .swap | .cas | .fadd => y

/-- The number and flags that an integer atomic writes are those of its operation on words. -/
theorem amoNew_word {op : AmoOp} {n old src : Nat} (cmp : Nat) (hcas : op ≠ .cas) (hfadd : op ≠ .fadd)
    (hold : old < 2 ^ (8 * n)) :
    amoNew op n old src cmp = some ((amoWord op (BitVec.ofNat (8 * n) old) (BitVec.ofNat (8 * n) src)).toNat, 0) := by
  have hx : (BitVec.ofNat (8 * n) old).toNat = old := (BitVec.toNat_ofNat ..).trans (Nat.mod_eq_of_lt hold)
  have hy : (BitVec.ofNat (8 * n) src).toNat = src % 2 ^ (8 * n) := BitVec.toNat_ofNat ..
  have hsrc : sext (src % 2 ^ (8 * n)) (8 * n) = (BitVec.ofNat (8 * n) src).toInt := by
    rw [sext_eq_toInt, ← hy, BitVec.ofNat_toNat, BitVec.setWidth_eq]
  cases op with
  | add => simp only [amoNew, amoWord, BitVec.toNat_add, hx, hy]
  | and => simp only [amoNew, amoWord, BitVec.toNat_and, hx, hy]
  | or => simp only [amoNew, amoWord, BitVec.toNat_or, hx, hy]
  | xor => simp only [amoNew, amoWord, BitVec.toNat_xor, hx, hy]
  | min =>
    simp only [amoNew, amoWord, sext_eq_toInt old, hsrc, BitVec.slt_iff_toInt_lt, ← not_lt, ite_not,
      apply_ite BitVec.toNat, hx, hy]
  | max =>
    simp only [amoNew, amoWord, sext_eq_toInt old, hsrc, BitVec.slt_iff_toInt_lt, ge_iff_le, ← not_lt, ite_not,
      apply_ite BitVec.toNat, hx, hy]
  | minu => simp only [amoNew, amoWord, BitVec.ult_iff_toNat_lt, ← not_lt, ite_not, apply_ite BitVec.toNat, hx, hy]
  | maxu =>
    simp only [amoNew, amoWord, BitVec.ult_iff_toNat_lt, ge_iff_le, ← not_lt, ite_not, apply_ite BitVec.toNat, hx, hy]
  | swap => simp only [amoNew, amoWord, hy]
  | cas => exact absurd rfl hcas
  | fadd => exact absurd rfl hfadd

/-! ## The home's part -/

section
variable {g : Word} {op : AmoOp} {pa n : Nat} {src cmp : Word} {s : State}

/-- The number that an atomic reads. -/
def oldAt (pa n : Nat) (s : State) : Nat := natOfBytes (memReadN s.mem pa n)

theorem oldAt_lt (pa n : Nat) (s : State) : oldAt pa n s < 2 ^ (8 * n) := by
  have h := natOfBytes_lt (memReadN s.mem pa n)
  rwa [memReadN_length] at h

theorem amoAt_writes {v fl : Nat} (h : amoNew op n (oldAt pa n s) src.toNat cmp.toNat = some (v, fl)) :
    amoAt g op pa n src cmp s =
      (storeWrite g pa (bytesOfNat n v) 0xFF false false s, BitVec.ofNat 64 (oldAt pa n s), fl) := by
  rw [oldAt] at h
  simp only [amoAt, h, oldAt]

theorem amoAt_leaves (h : amoNew op n (oldAt pa n s) src.toNat cmp.toNat = none) :
    amoAt g op pa n src cmp s = (s, BitVec.ofNat 64 (oldAt pa n s), 0) := by
  rw [oldAt] at h
  simp only [amoAt, h, oldAt]

end

/-! ## An atomic with nothing to wait for -/

theorem ok_bind {ε α β : Type} (x : α) (f : α → Except ε β) : ((Except.ok x : Except ε α) >>= f) = f x := rfl

/-- The bytes lie on a line of the core's own die, and an atomic on them has nothing to wait for. -/
def atHome (pa n : Nat) (s : State) : Prop :=
  offsetOf pa < hbmEnd ∧ s.core.sb = [] ∧ localMem s pa = true ∧ tokensHeld s.coh s.cur (lineOf pa) = false ∧
  msgsPast s.ctx.prv.gtid pa n s = true ∧ homeDie pa = s.die ∧ linePoisoned s (lineOf pa) = false ∧
  ∀ c ∈ s.copy.cmds, c.gtid = s.ctx.prv.gtid → elemBase c = none

/-- The state in which the core has every token of the line (R239). -/
def owning (pa : Nat) (s : State) : State := { s with coh := gatherTokens s.cur (lineOf pa) s.coh }

/-- A state in which the answer to an atomic has come. -/
def answered (x : Sent) (s : State) : State := { s with ctx.aux.sent := x }

/-- What is left when the acquire of an atomic's order bits has been done (R135). -/
def afterOrder (o : Order) (sc : Scope) (t u : State) : Prop :=
  if o = .acq ∨ o = .ar then acquired sc.code t u else u = t

theorem acquires_iff (o : Order) : Order.acquires o = true ↔ o = .acq ∨ o = .ar := by cases o <;> decide

theorem releases_iff (o : Order) : Order.releases o = true ↔ o = .rel ∨ o = .ar := by cases o <;> decide

/-- What follows the acquire of an atomic's order bits goes on from the state that the acquire leaves. -/
theorem acquireFor_ok {o : Order} {sc : Scope} {t u : State} (h : afterOrder o sc t u) (k : State → Run) :
    (if Order.acquires o then acquireAt sc.code t >>= k else k t) = k u := by
  unfold afterOrder at h
  by_cases ho : Order.acquires o = true
  · rw [if_pos ((acquires_iff o).1 ho)] at h
    rw [if_pos ho, acquireAt_ok h, ok_bind]
  · rw [if_neg (mt (acquires_iff o).2 ho)] at h
    rw [if_neg ho, h]

/-- Tokens leave every line as poisoned, or not, as it was. -/
theorem linePoisoned_owning (pa line : Nat) (s : State) : linePoisoned (owning pa s) line = linePoisoned s line := by
  unfold owning gatherTokens settleTokens serveRequest
  split <;> rfl

section
variable {pa n : Nat} {s : State}

/-- Bytes that no gather or scatter of the context moves do not race (R224). -/
theorem racing_none (h : ∀ c ∈ s.copy.cmds, c.gtid = s.ctx.prv.gtid → elemBase c = none) (pa : Nat) :
    racing s pa = false := by
  refine List.any_eq_false.2 fun c hc hmoves => ?_
  obtain ⟨hg, hm⟩ := Bool.and_eq_true_iff.1 hmoves
  rw [movesByte, h c hc (of_decide_eq_true hg)] at hm
  exact absurd hm Bool.false_ne_true

variable {op : AmoOp} {src cmp : Word} (h : atHome pa n s)
include h

theorem awaitStores_atHome : awaitStores 0 s = .ok s := by
  obtain ⟨-, hsb, -⟩ := h
  exact awaitStores_ok (by simp [storesPerformed, performedFor, hsb])

theorem atomicTurn_atHome : atomicTurn pa n s = .ok () := by
  obtain ⟨-, -, hlocal, htok, hmsgs, -⟩ := h
  rw [atomicTurn, storeHeld_local hlocal, htok, hmsgs]
  rfl

/-- The home reads, changes and writes in one step (R138). -/
theorem startAtomic_atHome {t : State} {old : Word} {fl : Nat}
    (ht : amoAt s.ctx.prv.gtid op pa n src cmp (owning pa s) = (t, old, fl)) :
    startAtomic op ⟨pa, false⟩ n src cmp s = .ok (answered (.atomicAnswer old fl) t) := by
  obtain ⟨hhbm, -, hlocal, -, -, hdie, hpoison, hcmds⟩ := h
  have howner := (ownerOf_localMem hlocal).2
  rw [← linePoisoned_owning pa, owning] at hpoison
  rw [owning] at ht
  simp [startAtomic, isHostWin_hbm hhbm, racing_none hcmds, howner, hdie, hlocal, hpoison, ht, answered]

end

section
variable {fm : Form} {op : AmoOp} {o : Order} {w : Wd} {sc : Scope} {d a b pa fl : Nat} {s s1 t u : State}
  {old src cmp : Word}
  (hsent : s.ctx.aux.sent = .nothing) (hr : reaches .atomic (rg s a) w.bytes s s1 pa)
  (hrel : o = .rel ∨ o = .ar → releasable sc.code s1) (hat : atHome pa w.bytes s1)
include hsent hr hrel hat

theorem runAtomic_atHome (ht : amoAt s1.ctx.prv.gtid op pa w.bytes src cmp (owning pa s1) = (t, old, fl)) :
    runAtomic op (if Order.releases o then some sc.code else none) (rg s a) w.bytes src cmp s =
      .ok (answered (.atomicAnswer old fl) t, old, fl) := by
  rw [runAtomic, hsent]
  simp only [checkScalar_reaches _ hr, ok_bind]
  by_cases ho : Order.releases o = true
  · simp only [if_pos ho, releaseAt_ok (hrel ((releases_iff o).1 ho)), ok_bind, awaitStores_atHome hat,
      atomicTurn_atHome hat, startAtomic_atHome hat ht]
    rfl
  · simp only [if_neg ho, ok_bind, awaitStores_atHome hat, atomicTurn_atHome hat, startAtomic_atHome hat ht]
    rfl

/-- An integer atomic gives its destination what the home read. -/
theorem amoInt_atHome (hc : clean s ([.g a, .g b] ++ if op = .cas then [Src.g d] else []) = true)
    (ht : amoAt s1.ctx.prv.gtid op pa w.bytes (rg s b) (rg s d) (owning pa s1) =
      (t, BitVec.ofNat 64 (oldAt pa w.bytes s1), fl))
    (hu : afterOrder o sc (answered (.atomicAnswer (BitVec.ofNat 64 (oldAt pa w.bytes s1)) fl) t) u) :
    runOne (fm.len 8) (amoInt op o w sc d a b) s =
      retires (fm.len 8) (wg u d ((BitVec.ofNat (8 * w.bytes) (oldAt pa w.bytes s1)).signExtend 64)) := by
  have hold : (BitVec.ofNat 64 (oldAt pa w.bytes s1)).toNat = oldAt pa w.bytes s1 :=
    (BitVec.toNat_ofNat ..).trans (Nat.mod_eq_of_lt ((oldAt_lt pa w.bytes s1).trans_le
      (Nat.pow_le_pow_right (by decide) (by cases w <;> decide))))
  refine runOne_ok ?_
  simp only [amoInt, need_ok hc, ok_bind, runAtomic_atHome hsent hr hrel hat ht, hold, sext_eq_toInt]
  exact acquireFor_ok hu fun s => .ok (wg s d _)

theorem execAmofadd_atHome (hc : clean s [.g a, .f b] = true)
    (ht : amoAt s1.ctx.prv.gtid .fadd pa w.bytes (rf s b) 0 (owning pa s1) =
      (t, BitVec.ofNat 64 (oldAt pa w.bytes s1), fl))
    (hu : afterOrder o sc (answered (.atomicAnswer (BitVec.ofNat 64 (oldAt pa w.bytes s1)) fl) t) u) :
    execAmofadd fm o w sc d a b s =
      retires (fm.len 8) (orFlags fl (wf u d (BitVec.ofNat 64 (oldAt pa w.bytes s1)))) := by
  refine runOne_ok ?_
  simp only [need_ok hc, ok_bind, runAtomic_atHome hsent hr hrel hat ht]
  exact acquireFor_ok hu fun s => .ok (orFlags fl (wf s d _))

end

section
variable {fm : Form} {op : AmoOp} {o : Order} {w : Wd} {sc : Scope} {d a b pa : Nat} {s s1 u : State}
  (hsent : s.ctx.aux.sent = .nothing) (hr : reaches .atomic (rg s a) w.bytes s s1 pa)
  (hrel : o = .rel ∨ o = .ar → releasable sc.code s1) (hat : atHome pa w.bytes s1)
include hsent hr hrel hat

/-- The home of a line writes the word `r`. -/
def homeStores (pa n : Nat) (r : BitVec (8 * n)) (s : State) : State :=
  storeWrite s.ctx.prv.gtid pa (bytesOfNat n r.toNat) 0xFF false false (owning pa s)

/-- An integer atomic that always writes leaves the word that its operation gives (R136). -/
theorem amoInt_word (hc : clean s [.g a, .g b] = true) (hcas : op ≠ .cas) (hfadd : op ≠ .fadd)
    (hu : afterOrder o sc (answered (.atomicAnswer (BitVec.ofNat 64 (oldAt pa w.bytes s1)) 0)
      (homeStores pa w.bytes (amoWord op (BitVec.ofNat _ (oldAt pa w.bytes s1)) ((rg s b).setWidth _)) s1)) u) :
    runOne (fm.len 8) (amoInt op o w sc d a b) s =
      retires (fm.len 8) (wg u d ((BitVec.ofNat (8 * w.bytes) (oldAt pa w.bytes s1)).signExtend 64)) := by
  refine amoInt_atHome hsent hr hrel hat (by rwa [if_neg hcas, List.append_nil]) ?_ hu
  have hnew := amoNew_word (rg s d).toNat hcas hfadd (src := (rg s b).toNat) (oldAt_lt pa w.bytes s1)
  rw [BitVec.ofNat_toNat] at hnew
  exact amoAt_writes (s := owning pa s1) hnew

/-- `AMOCAS` writes where it finds its destination's value (R136). -/
theorem amoInt_cas (hc : clean s [.g a, .g b] = true) (hd : clean s [.g d] = true)
    (hu : afterOrder o sc (answered (.atomicAnswer (BitVec.ofNat 64 (oldAt pa w.bytes s1)) 0)
      (if BitVec.ofNat (8 * w.bytes) (oldAt pa w.bytes s1) = (rg s d).setWidth _
        then homeStores pa w.bytes ((rg s b).setWidth _) s1 else owning pa s1)) u) :
    runOne (fm.len 8) (amoInt .cas o w sc d a b) s =
      retires (fm.len 8) (wg u d ((BitVec.ofNat (8 * w.bytes) (oldAt pa w.bytes s1)).signExtend 64)) := by
  have hold := oldAt_lt pa w.bytes s1
  have hiff : oldAt pa w.bytes s1 = (rg s d).toNat % 2 ^ (8 * w.bytes) ↔
      BitVec.ofNat (8 * w.bytes) (oldAt pa w.bytes s1) = (rg s d).setWidth _ := by
    rw [← BitVec.toNat_inj, BitVec.toNat_ofNat, BitVec.toNat_setWidth, Nat.mod_eq_of_lt hold]
  refine amoInt_atHome hsent hr hrel hat (clean_last hc hd) ?_ hu
  by_cases heq : oldAt pa w.bytes s1 = (rg s d).toNat % 2 ^ (8 * w.bytes)
  · rw [if_pos (hiff.1 heq), homeStores, BitVec.toNat_setWidth]
    exact amoAt_writes (s := owning pa s1) (if_pos heq)
  · rw [if_neg (mt hiff.2 heq)]
    exact amoAt_leaves (s := owning pa s1) (if_neg heq)

/-- `AMOFADD` adds at the access size, rounding to nearest (R137). -/
theorem execAmofadd_sum (hc : clean s [.g a, .f b] = true) {r : FRes}
    (hsum : (amoFmt w.bytes).addR ⟨.rne, false, false, false⟩ (oldAt pa w.bytes s1)
      ((rf s b).toNat % 2 ^ (8 * w.bytes)) = r)
    (hu : afterOrder o sc (answered (.atomicAnswer (BitVec.ofNat 64 (oldAt pa w.bytes s1)) r.flags)
      (homeStores pa w.bytes (BitVec.ofNat _ r.bits) s1)) u) :
    execAmofadd fm o w sc d a b s =
      retires (fm.len 8) (orFlags r.flags (wf u d (BitVec.ofNat 64 (oldAt pa w.bytes s1)))) := by
  refine execAmofadd_atHome hsent hr hrel hat hc ?_ hu
  rw [homeStores, bytesOfNat_ofNat]
  exact amoAt_writes (s := owning pa s1) (congrArg (fun r : FRes => some (r.bits, r.flags)) hsum)

end

/-- Settles O14: an atomic with nothing to wait for is the home's read, change and write (`runAtomic_atHome`), and what
it leaves is the word that its operation gives (`amoNew_word`), `AMOCAS` and `AMOFADD` by lemmas of their own. -/
theorem atomicResults : Obligations.AtomicResults := by
  unfold Obligations.AtomicResults
  intro fm o w sc d a b s s1 pa hsent hr hrel hsb hlocal htok hmsgs hdie hpoison hcmds
  have ⟨_, _, hhbm, _⟩ := hr
  have hat : atHome pa w.bytes s1 := ⟨hhbm, hsb, hlocal, htok, hmsgs, hdie, hpoison, hcmds⟩
  refine ⟨fun hc => ?_, fun hc u hu => execAmofadd_sum hsent hr hrel hat hc rfl hu⟩
  have hword {op : AmoOp} (hcas : op ≠ .cas) (hfadd : op ≠ .fadd) (u : State) :=
    amoInt_word (fm := fm) (d := d) (u := u) hsent hr hrel hat hc hcas hfadd
  exact ⟨hword (op := .add) (by decide) (by decide), hword (op := .and) (by decide) (by decide),
    hword (op := .or) (by decide) (by decide), hword (op := .xor) (by decide) (by decide),
    hword (op := .min) (by decide) (by decide), hword (op := .max) (by decide) (by decide),
    hword (op := .minu) (by decide) (by decide), hword (op := .maxu) (by decide) (by decide),
    hword (op := .swap) (by decide) (by decide), fun hd u hu => amoInt_cas hsent hr hrel hat hc hd hu⟩

end Sys2Proof.Machine

/-! PROOFS. The steps of the memory system (R138, R145, R240 to R250, R389 to R391). -/

namespace Sys2Proof.Machine

/-! ## Lists and bytes -/

theorem length_eraseIdx_findIdx {α : Type} {p : α → Bool} {l : List α} {x : α} (h : l.find? p = some x) :
    (l.eraseIdx (l.findIdx p)).length + 1 = l.length :=
  List.length_eraseIdx_add_one
    (List.findIdx_lt_length_of_exists ⟨x, List.mem_of_find?_eq_some h, List.find?_some h⟩)

/-- The bytes of a number that a write has left are read back. -/
theorem memReadN_bytesOfNat (n v a : Nat) {m : List Host.Cell} (h : Memory.wf m = true) :
    memReadN (memWriteMasked 0xFF m a (bytesOfNat n v)) a n = bytesOfNat n v := by
  have hread := memReadN_memWriteMasked_full (bytesOfNat n v) m a h
  rwa [bytesOfNat_length] at hread

/-! ## What a write, and a message that is dropped, leave of the coherence state -/

theorem poisonLine_frame (line : Nat) (c : Coh) : ∃ p, poisonLine line c = { c with poisoned := p } := by
  unfold poisonLine
  split <;> exact ⟨_, rfl⟩

theorem poisonAfter_frame (line : Nat) (poison full : Bool) (c : Coh) :
    ∃ p h, poisonAfter line poison full c = { c with poisoned := p, healed := h } := by
  obtain ⟨p, hp⟩ := poisonLine_frame line c
  unfold poisonAfter
  split
  · exact ⟨p, _, hp⟩
  · split <;> exact ⟨_, _, rfl⟩

theorem storeWrite_coh (g : Word) (pa : Nat) (d : List Byte) (m : Byte) (p f : Bool) (s : State) :
    ∃ v l p' h d' o, (storeWrite g pa d m p f s).coh =
      { s.coh with versions := v, hostLines := l, poisoned := p', healed := h, dirty := d', oldCode := o } := by
  obtain ⟨p', h, hp⟩ := poisonAfter_frame (lineOf pa) p f (bumpVersion (lineOf pa) (backInvalidate (lineOf pa) s.coh))
  unfold storeWrite homeWrite
  dsimp only
  rw [hp]
  split <;> exact ⟨_, _, _, _, _, _, rfl⟩

/-- A poisoned write poisons its line (R371). -/
theorem poisonedLine_storeWrite (g : Word) (pa : Nat) (d : List Byte) (m : Byte) (f : Bool) (s : State) :
    poisonedLine (storeWrite g pa d m true f s).coh (lineOf pa) = true := by
  have hpoison : poisonedLine (poisonAfter (lineOf pa) true f
      (bumpVersion (lineOf pa) (backInvalidate (lineOf pa) s.coh))) (lineOf pa) = true :=
    (poisonedLine_poisonLine ..).2 (.inl rfl)
  unfold storeWrite
  dsimp only
  split <;> exact hpoison

/-- The log record of a message that is dropped (R391). -/
def staleRecord (ag : Agent) (line : Option Nat) (s : State) : LogRec :=
  let pa := line.getD 0 * 128
  ⟨BitVec.ofNat 64 s.cyc, 6, (match ag with | .die d => d | .package _ => homeDie pa), 0, pa, 1⟩

theorem dropStale_frame (ag : Agent) (line : Option Nat) (s : State) :
    (dropStale ag line s).mem = s.mem ∧ (dropStale ag line s).rel.log = s.rel.log ++ [staleRecord ag line s] ∧
    ∃ p, (dropStale ag line s).coh = { s.coh with poisoned := p } := by
  obtain ⟨p, hp⟩ := poisonLine_frame (line.getD 0) s.coh
  unfold dropStale
  dsimp only
  split <;> split
  · exact ⟨rfl, rfl, p, hp⟩
  · exact ⟨rfl, rfl, _, rfl⟩
  · exact ⟨rfl, rfl, p, hp⟩
  · exact ⟨rfl, rfl, _, rfl⟩

theorem dropStale_lists (ag : Agent) (line : Option Nat) (s : State) :
    (dropStale ag line s).coh.wts = s.coh.wts ∧ (dropStale ag line s).coh.fills = s.coh.fills := by
  obtain ⟨-, -, p, hc⟩ := dropStale_frame ag line s
  rw [hc]
  exact ⟨rfl, rfl⟩

/-- The line of a dropped message is poisoned, unless the scrub has done so (R391). -/
theorem poisonedLine_dropStale {ag : Agent} {line : Nat} {s : State} (hlocal : localMem s (line * 128) = true)
    (hscrub : (agentKey ag, line) ∉ s.rel.scrubbed) : poisonedLine (dropStale ag (some line) s).coh line = true := by
  have hscrub' : s.rel.scrubbed.contains (agentKey ag, line) = false := by simpa using hscrub
  have hpoison : poisonedLine (poisonLine line s.coh) line = true := (poisonedLine_poisonLine ..).2 (.inl rfl)
  have htakes (die : Nat) : (localMem (logEvent 6 die 0 (line * 128) 1 s) (line * 128) &&
      !(logEvent 6 die 0 (line * 128) 1 s).rel.scrubbed.contains (agentKey ag, line)) = true := by
    rw [show localMem (logEvent 6 die 0 (line * 128) 1 s) = localMem s from rfl, hlocal,
      show (logEvent 6 die 0 (line * 128) 1 s).rel.scrubbed = s.rel.scrubbed from rfl, hscrub']
    rfl
  unfold dropStale
  dsimp only [Option.getD_some, Option.any_some]
  rw [if_pos (htakes _)]
  exact hpoison

/-! ## Write-throughs -/

/-- A state in which the oldest write-through of a die to a line that is still to be applied is on its way no more. -/
def withoutWt (die line : Nat) (s : State) : State :=
  { s with coh.wts := s.coh.wts.eraseIdx (s.coh.wts.findIdx (fun w => w.die = die ∧ w.line = line ∧ ¬ w.applied)) }

section
variable {die line : Nat} {s : State} {w : WriteThrough}

theorem applyWt_none (h : s.coh.wts.find? (fun w => w.die = die ∧ w.line = line ∧ ¬ w.applied) = none) :
    applyWt die line s = s := by
  rw [applyWt, h]

theorem applyWt_stale (h : s.coh.wts.find? (fun w => w.die = die ∧ w.line = line ∧ ¬ w.applied) = some w)
    (hinc : w.inc ≠ incOf s (.die die)) :
    applyWt die line s = dropStale (.die die) (some line) (withoutWt die line s) := by
  rw [applyWt, h]
  exact if_pos hinc

theorem mem_applyWt (h : s.coh.wts.find? (fun w => w.die = die ∧ w.line = line ∧ ¬ w.applied) = some w)
    (hinc : w.inc = incOf s (.die die)) : (applyWt die line s).mem = memWriteMasked w.mask s.mem w.pa w.data := by
  rw [applyWt, h]
  dsimp only
  rw [if_neg (not_not.2 hinc)]
  exact mem_storeWrite ..

theorem ackWt_some (h : s.coh.wts.find? (fun w => w.die = die ∧ w.line = line ∧ w.applied) = some w) :
    ackWt die line s = { s with
      coh.wts := s.coh.wts.eraseIdx (s.coh.wts.findIdx (fun w => w.die = die ∧ w.line = line ∧ w.applied))
      coh.copies := s.coh.copies.map (fun x =>
        if x.die = die ∧ x.line = line then { x with version := w.ver } else x) } := by
  rw [ackWt, h]

/-- The die's copy of an acknowledged line has the version that the write left (R242). -/
theorem version_ackWt (h : s.coh.wts.find? (fun w => w.die = die ∧ w.line = line ∧ w.applied) = some w) {x : Copy}
    (hx : x ∈ (ackWt die line s).coh.copies) (hd : x.die = die) (hl : x.line = line) : x.version = w.ver := by
  rw [ackWt_some h] at hx
  obtain ⟨y, -, rfl⟩ := List.mem_map.1 hx
  by_cases hy : y.die = die ∧ y.line = line
  · rw [if_pos hy]
  · rw [if_neg hy] at hd hl
    exact absurd ⟨hd, hl⟩ hy

end

/-! ## Fills -/

section
variable (die line : Nat) (s : State)

theorem fills_applyWt : (applyWt die line s).coh.fills = s.coh.fills := by
  unfold applyWt
  split
  · rfl
  next w _ =>
    dsimp only
    split
    · exact (dropStale_lists ..).2
    · obtain ⟨v, l, p, h, d, o, hc⟩ := storeWrite_coh w.gtid w.pa w.data w.mask w.poison w.full
        { s with coh := answerConfirms die line s.coh }
      rw [hc]
      rfl

theorem fills_serveFill : (serveFill die line s).1.coh.fills = s.coh.fills := by
  have happly : (applyWts die line s).coh.fills = s.coh.fills :=
    List.foldlRecOn (motive := fun t : State => t.coh.fills = s.coh.fills) _ _ rfl
      fun t ht _ _ => (fills_applyWt die line t).trans ht
  have hroom (t : State) : (roomInDirectory t).coh.fills = t.coh.fills := by
    unfold roomInDirectory
    split
    · split <;> rfl
    · rfl
  have htrack (c : Coh) : (trackVersion line c).fills = c.fills := by
    unfold trackVersion
    split
    · rfl
    · split <;> rfl
  simp only [serveFill, htrack]
  split
  · exact happly
  · exact (hroom _).trans happly

end

/-- The fill that a request makes: what the home holds, stamped with the die's generation when it asked (R241). -/
theorem exec_fillRequest {die line : Nat} {s : State} (hdie : die ≤ 3) (hlocal : localMem s (line * 128) = true)
    (hhome : homeDie (line * 128) ≠ die) :
    exec (.fillRequest die line) s = .next { (serveFill die line s).1 with
      coh.fills := s.coh.fills ++ [⟨die, line, generation s.coh die, (serveFill die line s).2, s.pid⟩] } := by
  change execFillRequest die line s = _
  rw [← fills_serveFill die line s]
  exact if_neg (by simp [hlocal, hhome, hdie])

section
variable {die line : Nat} {s : State} {f : Fill}

/-- The copy that a reply makes. -/
def Fill.copy (f : Fill) (die line : Nat) : Copy := ⟨die, line, f.reply.1, f.reply.2.1, f.stamp, f.reply.2.2⟩

/-- What a reply leaves of the coherence state, where the die has no copy that is as new, and where it has. -/
def replied (die line : Nat) (f : Fill) (c : Coh) : Coh :=
  if (copyOf c die line).any (fun y => decide (ageOf c y ≤ ageOf c (f.copy die line))) then c
  else putCopy (f.copy die line) c

theorem exec_fillReply (h : s.coh.fills.find? (fun f => f.die = die ∧ f.line = line) = some f) :
    exec (.fillReply die line) s = .next { s with coh := { replied die line f s.coh with
      fills := s.coh.fills.eraseIdx (s.coh.fills.findIdx (fun f => f.die = die ∧ f.line = line)) } } := by
  change execFillReply die line s = _
  rw [execFillReply, h]
  rfl

theorem copies_replied_absent (h : copyOf s.coh die line = none) :
    f.copy die line ∈ (replied die line f s.coh).copies := by
  rw [replied, h]
  exact List.mem_cons_self

theorem copies_replied_fresh {y : Copy} (h : copyOf s.coh die line = some y) (hage : ageOf s.coh y = 0) :
    (replied die line f s.coh).copies = s.coh.copies := by
  rw [replied, h]
  exact congrArg Coh.copies (if_pos (decide_eq_true (hage ▸ Nat.zero_le _)))

end

/-! ## Generations and retention -/

section
variable {die : Nat} {s : State}

theorem sweeping_endSweep (die : Nat) (c : Coh) : ((endSweep die c).sweeping[die]?).getD false = false := by
  rw [endSweep, Vector.getElem?_setIfInBounds_self]
  split <;> rfl

/-- A sweep that has ended leaves no copy of the die whose age is 2^14 or more (R244). -/
theorem ageOf_endSweep {c : Coh} {x : Copy} (hx : x ∈ (endSweep die c).copies) (hd : x.die = die) :
    ageOf c x < 2 ^ 14 := by
  have hkept : ¬ (x.die = die ∧ ageOf c x ≥ 2 ^ 14) := of_decide_eq_true (List.mem_filter.1 hx).2
  exact not_le.1 fun hold => hkept ⟨hd, hold⟩

theorem exec_generationSweepEnd (h : (s.coh.sweeping[die]?).getD false = true) :
    exec (.generationSweepEnd die) s = .next { s with coh := endSweep die s.coh } := if_pos h

theorem exec_generationSweepEnd_idle (h : (s.coh.sweeping[die]?).getD false = false) :
    exec (.generationSweepEnd die) s = .next s := if_neg (by rw [h]; exact Bool.false_ne_true)

/-- The clearings of a die since one of its slices entered retention (R247). -/
def clearingsSince (die : Nat) (r : Retained) (s : State) : Nat :=
  ((s.coh.gencur[die]?).getD 0 + 2 ^ 32 - r.count) % 2 ^ 32

/-- A state in which a slice of a die is no longer retained. -/
def awakened (die slice : Nat) (s : State) : State :=
  { s with coh.retained := s.coh.retained.filter (fun r => decide (¬ (r.die = die ∧ r.slice = slice))) }

/-- A die whose copies have been discarded has none, and no fill on its way (R247). -/
theorem dropDie_empty (die : Nat) (c : Coh) :
    (∀ x ∈ (dropDie die c).copies, x.die ≠ die) ∧ ∀ x ∈ (dropDie die c).fills, x.die ≠ die :=
  ⟨fun _ hx => of_decide_eq_true (List.mem_filter.1 hx).2, fun _ hx => of_decide_eq_true (List.mem_filter.1 hx).2⟩

variable {slice : Nat} {r : Retained}
  (h : s.coh.retained.find? (fun r => r.die = die ∧ r.slice = slice) = some r)
include h

theorem exec_retentionExit_recent (hpassed : clearingsSince die r s < 2 ^ 15) :
    exec (.retentionExit die slice) s = .next (awakened die slice s) := by
  change execRetentionExit die slice s = _
  rw [execRetentionExit, h]
  exact congrArg Host.Outcome.next (if_neg (not_le.2 hpassed))

theorem exec_retentionExit_old (hpassed : 2 ^ 15 ≤ clearingsSince die r s) :
    exec (.retentionExit die slice) s =
      .next { awakened die slice s with coh := dropDie die (awakened die slice s).coh } := by
  change execRetentionExit die slice s = _
  rw [execRetentionExit, h]
  exact congrArg Host.Outcome.next (if_pos hpassed)

end

/-! ## Tokens -/

section
variable {core line : Nat} {s : State}

/-- The die's record of requests once a core's has entered it (R240). -/
def withRequest (core line : Nat) (c : Coh) : Coh :=
  { c with persistent := c.persistent ++ [(core / 64, core, line)] }

/-- A request that is the first for its line is served at once. -/
def enteredRequest (core line : Nat) (c : Coh) : Coh :=
  if activePersistent (withRequest core line c) (core / 64) line = some core
  then serveRequest (core / 64) line (withRequest core line c) else withRequest core line c

theorem exec_persistentRequest (hcore : core < 256)
    (h : s.coh.persistent.any (fun e => decide (e.1 = core / 64 ∧ e.2.1 = core)) = false) :
    exec (.persistentRequest core line) s = .next { s with coh := enteredRequest core line s.coh } :=
  if_neg (by rw [h]; simp [hcore])

theorem exec_persistentRequest_idle
    (h : s.coh.persistent.any (fun e => decide (e.1 = core / 64 ∧ e.2.1 = core)) = true) :
    exec (.persistentRequest core line) s = .next s := if_pos (.inr h)

theorem activePersistent_withRequest (core line : Nat) (c : Coh) :
    activePersistent (withRequest core line c) (core / 64) line =
      (activePersistent c (core / 64) line).or (some core) := by
  unfold activePersistent withRequest
  rw [List.find?_append, Option.map_or]
  simp

/-- A core whose request is not in the table has none that is active. -/
theorem activePersistent_ne {c : Coh} {die : Nat}
    (h : c.persistent.any (fun e => decide (e.1 = die ∧ e.2.1 = core)) = false) :
    activePersistent c die line ≠ some core := by
  intro hactive
  obtain ⟨e, he, hcore⟩ := Option.map_eq_some_iff.1 hactive
  have hline := List.find?_some he
  rw [decide_eq_true_iff] at hline
  exact List.any_eq_false.1 h e (List.mem_of_find?_eq_some he) (decide_eq_true ⟨hline.1, hcore⟩)

theorem serveRequest_persistent (die line : Nat) (c : Coh) : (serveRequest die line c).persistent = c.persistent := by
  unfold serveRequest
  split <;> rfl

/-- A request that is active has every token of the line on the die (R240). -/
theorem token_serveRequest {c : Coh} {die : Nat} (h : activePersistent c die line = some core) {x : TokenRec}
    (hx : x ∈ (serveRequest die line c).tokens) (hd : x.die = die) (hl : x.line = line) :
    x.core = core ∧ x.n = 128 := by
  rw [serveRequest, h] at hx
  obtain rfl | hx := List.mem_cons.1 hx
  · exact ⟨rfl, rfl⟩
  · have hother : ¬ (x.die = die ∧ x.line = line) := of_decide_eq_true (List.mem_filter.1 hx).2
    exact absurd ⟨hd, hl⟩ hother

/-- A request enters the table; the first for its line takes every token, and a later one none. -/
theorem enteredRequest_frame {c : Coh}
    (h : c.persistent.any (fun e => decide (e.1 = core / 64 ∧ e.2.1 = core)) = false) :
    (enteredRequest core line c).persistent = c.persistent ++ [(core / 64, core, line)] ∧
    (activePersistent c (core / 64) line = none → ∀ x ∈ (enteredRequest core line c).tokens,
      x.die = core / 64 → x.line = line → x.core = core ∧ x.n = 128) ∧
    (activePersistent c (core / 64) line ≠ none → (enteredRequest core line c).tokens = c.tokens) := by
  have hactive := activePersistent_withRequest core line c
  unfold enteredRequest
  cases hold : activePersistent c (core / 64) line with
  | none =>
    rw [hold, Option.none_or] at hactive
    rw [if_pos hactive]
    exact ⟨serveRequest_persistent .., fun _ x => token_serveRequest hactive, fun h => absurd rfl h⟩
  | some q =>
    have hq : some q ≠ some core := hold ▸ activePersistent_ne h
    rw [hold, Option.some_or] at hactive
    rw [if_neg (hactive ▸ hq)]
    exact ⟨rfl, nofun, fun _ => rfl⟩

end

/-! ## Confirmations -/

section
variable {gtid : Word} {line : Nat} {s : State} {c : Confirm}

theorem agrees_eq (c : Coh) {x : Confirm} (h : x.line = line) :
    agrees c x = (x.version.isSome && decide (versionOf c line = x.version)) := by
  subst h
  unfold agrees
  cases versionOf c x.line <;> cases x.version <;> simp

/-- A request in the table has its answer (R248). -/
theorem mem_serveConfirm
    (h : s.coh.confirms.find? (fun c => c.gtid = gtid ∧ c.line = line ∧ c.answer = none) = some c) :
    { c with answer := some (agrees s.coh c) } ∈ (serveConfirm gtid line s).coh.confirms := by
  have hi := List.findIdx_lt_length_of_exists ⟨c, List.mem_of_find?_eq_some h, List.find?_some h⟩
  rw [List.find?_eq_getElem?_findIdx] at h
  simp only [serveConfirm, h]
  exact List.mem_set hi _

theorem idles_serveConfirm (gtid : Word) (line : Nat) (s : State) : idles s (serveConfirm gtid line s) := by
  unfold serveConfirm
  dsimp only
  split <;> exact ⟨rfl, rfl, rfl⟩

/-- Entry `i` of a table that an answer has reached (R145). -/
theorem getElem?_settleWayside {version : Option Nat} {ok : Bool} {c : Ctx} {i : Nat} {w : Wayside}
    (h : c.aux.wayside[i]? = some w) : (settleWayside line version ok c).aux.wayside[i]? =
      some (if w.line = line ∧ w.version = version ∧ w.state = .pending
        then { w with state := if ok then .confirmed else .struck } else w) := by
  rw [settleWayside, List.getElem?_map, h]
  rfl

variable (hgtid : s.ctx.prv.gtid = gtid) (hact : s.core.act = true)
include hgtid hact

theorem answerWayside_current
    (h : s.coh.confirms.find? (fun c => c.gtid = gtid ∧ c.line = line ∧ c.answer.isSome) = some c) :
    (answerWayside gtid line s).ctx = settleWayside line c.version (c.answer.getD false) s.ctx ∧
    (answerWayside gtid line s).mem = s.mem := by
  rw [List.find?_eq_getElem?_findIdx] at h
  simp only [answerWayside, h, if_pos (And.intro hgtid hact), and_self]

theorem timeoutWayside_current (h : s.coh.confirms.find? (fun c => c.gtid = gtid ∧ c.line = line) = some c) :
    (timeoutWayside gtid line s).ctx = settleWayside line c.version false s.ctx ∧
    (timeoutWayside gtid line s).mem = s.mem := by
  rw [List.find?_eq_getElem?_findIdx] at h
  simp only [timeoutWayside, h, if_pos (And.intro hgtid hact), and_self]

end

/-! ## Numbers of messages -/

/-- A number is recorded, or the floor has moved past it, by at most `k` numbers. -/
def Seen.past (k : Nat) (e : Seen) (seq : Nat) : Prop :=
  seq ∈ e.above ∨ ∃ j, 1 ≤ j ∧ j ≤ k ∧ e.floor = (seq + j) % 2 ^ 32

theorem Seen.past_settle {n k seq : Nat} {e : Seen} (h : e.past k seq) : (Seen.settle n e).past (k + n) seq := by
  induction n generalizing k e with
  | zero => exact h
  | succ n ih =>
    rw [Seen.settle, Nat.add_comm n, ← Nat.add_assoc]
    split
    next hfloor =>
      refine ih ?_
      rcases h with h | ⟨j, hj, hjk, hje⟩
      · by_cases hseq : seq = e.floor
        · exact .inr ⟨1, le_rfl, by omega, by rw [hseq]⟩
        · exact .inl (List.mem_filter.2 ⟨h, decide_eq_true hseq⟩)
      · exact .inr ⟨j + 1, by omega, by omega, by rw [hje, Nat.mod_add_mod, Nat.add_assoc]⟩
    next =>
      rcases h with h | ⟨j, hj, hjk, hje⟩
      · exact .inl h
      · exact .inr ⟨j, hj, by omega, hje⟩

theorem Seen.not_fresh_of_past {k seq : Nat} {e : Seen} (h : e.past k seq) (hk : k ≤ 65537) : e.fresh seq = false := by
  rw [Seen.fresh, Bool.and_eq_false_iff]
  rcases h with h | ⟨j, hj, hjk, hje⟩
  · exact .inr (by simpa using h)
  · exact .inl (decide_eq_false (by omega))

theorem Seen.settle_pair (n : Nat) (e : Seen) : (Seen.settle n e).src = e.src ∧ (Seen.settle n e).dst = e.dst := by
  induction n generalizing e with
  | zero => exact ⟨rfl, rfl⟩
  | succ n ih =>
    rw [Seen.settle]
    split
    · exact ih _
    · exact ⟨rfl, rfl⟩

theorem seenOf_pair (f : Fabric) (src dst : Nat) : (seenOf f src dst).src = src ∧ (seenOf f src dst).dst = dst := by
  unfold seenOf
  cases h : f.seen.find? (fun e => e.src = src ∧ e.dst = dst) with
  | none => exact ⟨rfl, rfl⟩
  | some e => simpa using List.find?_some h

theorem seenOf_recordSeq (src dst seq : Nat) (f : Fabric) : seenOf (recordSeq src dst seq f) src dst =
    Seen.settle ((seenOf f src dst).above.length + 1)
      { seenOf f src dst with above := seq :: (seenOf f src dst).above } := by
  have hpair : ∀ n l, (Seen.settle n { seenOf f src dst with above := l }).src = src ∧
      (Seen.settle n { seenOf f src dst with above := l }).dst = dst := fun n l =>
    have ⟨h1, h2⟩ := Seen.settle_pair n { seenOf f src dst with above := l }
    have ⟨k1, k2⟩ := seenOf_pair f src dst
    ⟨h1.trans k1, h2.trans k2⟩
  rw [seenOf, recordSeq]
  dsimp only
  rw [List.find?_cons_of_pos (by rw [decide_eq_true_iff]; exact hpair _ _), Option.getD_some]

/-- A number that has been recorded is not applied again (R390). -/
theorem not_fresh_recordSeq {src dst seq : Nat} {f : Fabric} (h : (seenOf f src dst).above.length ≤ 65536) :
    (seenOf (recordSeq src dst seq f) src dst).fresh seq = false := by
  rw [seenOf_recordSeq]
  exact Seen.not_fresh_of_past (Seen.past_settle (k := 0) (.inl List.mem_cons_self)) (by omega)

/-! ## Writes of other packages -/

theorem countRequest_unproposed (frame q : Nat) {s : State} (h : s.xlat.proposals = []) :
    ∃ k l, countRequest frame q s = { s with xlat.counters := (frame, q, k) :: l } := by
  simp only [countRequest, proposalOf, h, List.find?_nil]
  exact ⟨_, _, rfl⟩

section
variable {pkg seq a n inc : Nat} {v : Word} {poison full : Bool} {s : State}

/-- What a write of another package leaves at its home, before it is counted. -/
def remoteWritten (pkg seq a n : Nat) (v : Word) (poison full : Bool) (s : State) : State :=
  noteApplied pkg seq (replyTo (.write a n v) s) (storeWrite 0 a (bytesOfNat n v.toNat) 0xFF poison full s)

theorem live_sender (hinc : inc = incOf s (.package pkg)) (hdead : s.rel.deadPkgs.contains pkg = false) :
    ¬ (inc ≠ incOf s (.package pkg) ∨ s.rel.deadPkgs.contains pkg = true) := by
  rw [hdead]
  simp [hinc]

/-- Where the home is this package's, the write is performed and recorded, and nothing of the thread changes. -/
theorem remoteWritten_frame : (remoteWritten pkg seq a n v poison full s).ctx = s.ctx ∧
    (remoteWritten pkg seq a n v poison full s).mem = memWriteMasked 0xFF s.mem a (bytesOfNat n v.toNat) ∧
    (remoteWritten pkg seq a n v poison full s).pkg = s.pkg ∧ (remoteWritten pkg seq a n v poison full s).rel = s.rel ∧
    (remoteWritten pkg seq a n v poison full s).xlat = s.xlat ∧
    (remoteWritten pkg seq a n v poison full s).fab.seen = (recordSeq pkg s.pkg seq s.fab).seen := by
  have hmem := mem_storeWrite 0 a (bytesOfNat n v.toNat) 0xFF poison full s
  obtain ⟨m, c, hw⟩ := sameButMemory_storeWrite 0 a (bytesOfNat n v.toNat) 0xFF poison full s
  unfold remoteWritten noteApplied keepReply
  rw [hw] at hmem ⊢
  exact ⟨rfl, hmem, rfl, rfl, rfl, rfl⟩

variable (hpkg : pkg ≠ s.pkg) (hn : 1 ≤ n) (hn8 : n ≤ 8) (hline : a % 128 + n ≤ 128)
include hpkg hn hn8 hline

theorem remoteWrite_taken : ¬ (pkg = s.pkg ∨ ¬ reqOk (.write a n v) = true) := by
  simp [hpkg, reqOk, reqRange, hn, hn8, hline]

theorem remoteWrite_stale (h : inc ≠ incOf s (.package pkg) ∨ s.rel.deadPkgs.contains pkg = true) :
    exec (.remotePackageRequest pkg ⟨seq, .write a n v, inc, poison, full⟩) s =
      .next (dropStale (.package pkg) (some (lineOf a)) s) := by
  have hreq : reqLine (.write a n v) = some (lineOf a) := if_neg (Nat.ne_of_gt hn)
  change execRemotePackageRequest .. = _
  unfold execRemotePackageRequest
  dsimp only [reqRange]
  rw [if_neg (remoteWrite_taken hpkg hn hn8 hline), if_pos h, hreq]

variable (hinc : inc = incOf s (.package pkg)) (hdead : s.rel.deadPkgs.contains pkg = false)
include hinc hdead

/-- A number that is not fresh has been applied (R390). -/
theorem remoteWrite_seen (h : (seenOf s.fab pkg s.pkg).fresh seq = false) :
    exec (.remotePackageRequest pkg ⟨seq, .write a n v, inc, poison, full⟩) s = .next s := by
  change execRemotePackageRequest .. = _
  unfold execRemotePackageRequest
  dsimp only [reqRange]
  rw [if_neg (remoteWrite_taken hpkg hn hn8 hline), if_neg (live_sender hinc hdead), if_pos (by simp [h])]

/-- A write of HBM is served here, or forwarded to the package that owns its page by now (R249, R250, R389). -/
theorem remoteWrite_fresh (h : (seenOf s.fab pkg s.pkg).fresh seq = true) (hhbm : offsetOf a < hbmEnd) :
    exec (.remotePackageRequest pkg ⟨seq, .write a n v, inc, poison, full⟩) s =
      .next (if inCarve s a n || (localMem s a && deadHome s a) then s
        else if localMem s a then countRequest (frameOf a) pkg (remoteWritten pkg seq a n v poison full s)
        else forwardRequest pkg ⟨seq, .write a n v, inc, poison, full⟩ a s) := by
  change execRemotePackageRequest .. = _
  unfold execRemotePackageRequest
  dsimp only [reqRange]
  rw [if_neg (remoteWrite_taken hpkg hn hn8 hline), if_neg (live_sender hinc hdead), if_neg (by simp [h]),
    if_neg (not_le.2 hhbm), apply_ite Host.Outcome.next, apply_ite Host.Outcome.next]
  rfl

/-- A write that is served at a home of this package (R249, R323, R371, R390). -/
theorem remoteWrite_served (h : (seenOf s.fab pkg s.pkg).fresh seq = true) (hhbm : offsetOf a < hbmEnd)
    (hcarve : inCarve s a n = false) (hlocal : localMem s a = true) (hlive : deadHome s a = false) (hok : s.memOk)
    (hprop : s.xlat.proposals = []) :
    ∃ t, exec (.remotePackageRequest pkg ⟨seq, .write a n v, inc, poison, full⟩) s = .next t ∧ t.ctx = s.ctx ∧
      memReadN t.mem a n = bytesOfNat n v.toNat ∧
      (poison = true → poisonedLine t.coh (lineOf a) = true) ∧
      (∀ x, x < a ∨ a + n ≤ x → memRead t.mem x = memRead s.mem x) ∧
      (∃ e ∈ t.xlat.counters, e.1 = frameOf a ∧ e.2.1 = pkg) ∧
      ((seenOf s.fab pkg s.pkg).above.length ≤ 65536 →
        exec (.remotePackageRequest pkg ⟨seq, .write a n v, inc, poison, full⟩) t = .next t) := by
  obtain ⟨hctx, hmem, hown, hrel, hxlat, hseen⟩ :=
    remoteWritten_frame (pkg := pkg) (seq := seq) (a := a) (n := n) (v := v) (poison := poison) (full := full) (s := s)
  have hlen := bytesOfNat_length n v.toNat
  have hexec := remoteWrite_fresh (seq := seq) (v := v) (poison := poison) (full := full)
    hpkg hn hn8 hline hinc hdead h hhbm
  obtain ⟨k, l, hcount⟩ := countRequest_unproposed (frameOf a) pkg (hxlat.symm ▸ hprop)
  rw [hcarve, hlocal, hlive, Bool.and_false, Bool.or_self, if_neg Bool.false_ne_true, if_pos rfl, hcount] at hexec
  refine ⟨_, hexec, hctx, ?_, fun hpoison => ?_, fun x hx => ?_, ⟨_, List.mem_cons_self, rfl, rfl⟩, fun habove => ?_⟩
  · exact (congrArg (memReadN · a n) hmem).trans (memReadN_bytesOfNat n v.toNat a hok)
  · subst hpoison
    exact poisonedLine_storeWrite 0 a (bytesOfNat n v.toNat) 0xFF full s
  · exact (congrArg (memRead · x) hmem).trans (memRead_masked_other _ _ _ _ _ (by rwa [hlen]))
  · refine remoteWrite_seen (hpkg.trans_eq hown.symm) hn hn8 hline ?_ ?_ ?_
    · rw [hinc, incOf, incOf, hrel]
    · rw [hrel]
      exact hdead
    · rw [hown, seenOf, hseen]
      exact not_fresh_recordSeq habove

/-- A write of a page that another package owns by now waits, or is sent on to it (R250, R390). -/
theorem remoteWrite_elsewhere (h : (seenOf s.fab pkg s.pkg).fresh seq = true) (hhbm : offsetOf a < hbmEnd)
    (hcarve : inCarve s a n = false) (hlocal : localMem s a = false) :
    exec (.remotePackageRequest pkg ⟨seq, .write a n v, inc, poison, full⟩) s =
      .next (forwardRequest pkg ⟨seq, .write a n v, inc, poison, full⟩ a s) := by
  rw [remoteWrite_fresh hpkg hn hn8 hline hinc hdead h hhbm, hcarve, hlocal, Bool.false_and, Bool.or_self,
    if_neg Bool.false_ne_true, if_neg Bool.false_ne_true]

end

theorem forwardRequest_sends {pkg pa : Nat} {x : SentReq} {s : State} (h : pairFull s pa = false) :
    (forwardRequest pkg x pa s).mem = s.mem ∧ ∃ m, (forwardRequest pkg x pa s).fab.msgs = s.fab.msgs ++ [m] ∧
      m.dst = ownerOf s pa ∧ m.rq = x.req ∧ m.poison = x.poison ∧ m.fwd = some (pkg, x.seq) := by
  rw [forwardRequest, if_neg (by rw [h]; exact Bool.false_ne_true)]
  exact ⟨rfl, _, rfl, rfl, rfl, rfl, rfl⟩

/-! ## Atomics at their homes -/

section
variable {die line : Nat} {q : AtomicReq} {s : State}

/-- The state in which the home performs an atomic of the list of those on their way. -/
def reachedHome (die line : Nat) (q : AtomicReq) (s : State) : State :=
  { s with coh := dropCopy q.die (lineOf q.pa) { s.coh with
      atomics := s.coh.atomics.eraseIdx (s.coh.atomics.findIdx (fun q => q.die = die ∧ lineOf q.pa = line)) } }

/-- An atomic that is performed leaves the thread, the list of atomics and the bytes about it as they were. -/
theorem amoAt_frame (g : Word) (op : AmoOp) (pa n : Nat) (src cmp : Word) (s : State) :
    sameThread s (amoAt g op pa n src cmp s).1 ∧ (amoAt g op pa n src cmp s).1.coh.atomics = s.coh.atomics ∧
    (amoAt g op pa n src cmp s).2.1 = BitVec.ofNat 64 (oldAt pa n s) ∧
    ∀ x, x < pa ∨ pa + n ≤ x → memRead (amoAt g op pa n src cmp s).1.mem x = memRead s.mem x := by
  cases hnew : amoNew op n (oldAt pa n s) src.toNat cmp.toNat with
  | none =>
    rw [amoAt_leaves hnew]
    exact ⟨⟨rfl, rfl⟩, rfl, rfl, fun _ _ => rfl⟩
  | some r =>
    rw [amoAt_writes hnew]
    refine ⟨sameThread_storeWrite .., ?_, rfl, fun x hx => ?_⟩
    · obtain ⟨_, _, _, _, _, _, hc⟩ := storeWrite_coh g pa (bytesOfNat n r.1) 0xFF false false s
      rw [hc]
    · rw [mem_storeWrite]
      exact memRead_masked_other _ _ _ _ _ (by rwa [bytesOfNat_length])

/-- A swap leaves its operand (R136). -/
theorem memReadN_amoAt_swap (g : Word) (pa n : Nat) (src cmp : Word) {s : State} (hok : s.memOk) :
    memReadN (amoAt g .swap pa n src cmp s).1.mem pa n = bytesOfNat n src.toNat := by
  rw [amoAt_writes (v := src.toNat % 2 ^ (8 * n)) (fl := 0) rfl, mem_storeWrite, bytesOfNat_mod]
  exact memReadN_bytesOfNat n src.toNat pa hok

theorem answerAtomic_current {g : Word} {s t : State} (x : Sent) (h : sameThread s t) (hgtid : s.ctx.prv.gtid = g)
    (hact : s.core.act = true) : answerAtomic g x t = answered x t := by
  obtain ⟨hctx, hcore⟩ := h
  exact if_pos ⟨by rw [hctx, hgtid], by rw [hcore, hact]⟩

/-- The thread that sent an atomic has read its bytes (R257). -/
def readBy (q : AtomicReq) (s : State) : State := { s with coh := noteRead q.gtid q.die q.pa q.size s.coh }

variable (h : s.coh.atomics.find? (fun q => q.die = die ∧ lineOf q.pa = line) = some q) (hwts : s.coh.wts = [])
  (hgtid : s.ctx.prv.gtid = q.gtid) (hact : s.core.act = true)
include h hwts hgtid hact

/-- The home performs the atomic, or finds its line poisoned, and the thread that sent it has its answer (R138,
R371). -/
theorem exec_atomicAtHome :
    let r := amoAt q.gtid (AmoOp.ofCode q.op) q.pa q.size q.src q.cmp (reachedHome die line q s)
    exec (.atomicAtHome die line) s = .next (if linePoisoned s (lineOf q.pa)
      then answered .atomicPoison (reachedHome die line q s)
      else answered (.atomicAnswer r.2.1 r.2.2) (readBy q r.1)) := by
  intro r
  have hthread : sameThread s (readBy q r.1) := (amoAt_frame q.gtid _ _ _ _ _ (reachedHome die line q s)).1
  have hget := List.find?_eq_getElem?_findIdx.symm.trans h
  rw [← answerAtomic_current (s := s) (t := reachedHome die line q s) _ ⟨rfl, rfl⟩ hgtid hact,
    ← answerAtomic_current _ hthread hgtid hact]
  change execAtomicAtHome die line s = _
  simp only [execAtomicAtHome, serveAtomicAt, hget]
  rw [applyWts_nil _ _ (by exact hwts)]
  rfl

theorem exec_atomicAtHome_effects (hok : s.memOk) :
    ∃ t, exec (.atomicAtHome die line) s = .next t ∧ t.coh.atomics.length + 1 = s.coh.atomics.length ∧
      (linePoisoned s (lineOf q.pa) = true → t.mem = s.mem ∧ t.ctx.aux.sent = .atomicPoison) ∧
      (linePoisoned s (lineOf q.pa) = false →
        (∃ fl, t.ctx.aux.sent = .atomicAnswer (BitVec.ofNat 64 (natOfBytes (memReadN s.mem q.pa q.size))) fl) ∧
        (∀ x, x < q.pa ∨ q.pa + q.size ≤ x → memRead t.mem x = memRead s.mem x) ∧
        (AmoOp.ofCode q.op = .swap → memReadN t.mem q.pa q.size = bytesOfNat q.size q.src.toNat)) := by
  have hlength := length_eraseIdx_findIdx h
  have hexec := exec_atomicAtHome h hwts hgtid hact
  obtain ⟨-, hatomics, hold, hother⟩ :=
    amoAt_frame q.gtid (AmoOp.ofCode q.op) q.pa q.size q.src q.cmp (reachedHome die line q s)
  dsimp only at hexec
  cases hpoison : linePoisoned s (lineOf q.pa) with
  | true =>
    rw [hpoison, if_pos rfl] at hexec
    exact ⟨_, hexec, hlength, fun _ => ⟨rfl, rfl⟩, nofun⟩
  | false =>
    rw [hpoison, if_neg Bool.false_ne_true, hold] at hexec
    refine ⟨_, hexec, ?_, nofun, fun _ => ⟨⟨_, rfl⟩, hother, fun hswap => ?_⟩⟩
    · exact (congrArg (fun l => l.length + 1) hatomics).trans hlength
    · rw [hswap]
      exact memReadN_amoAt_swap q.gtid q.pa q.size q.src q.cmp (s := reachedHome die line q s) hok

end

/-- Settles O40: each event by the state it leaves where it may take place, a write of another package by the order in
which it is looked at (`remoteWrite_stale`, `remoteWrite_seen`, `remoteWrite_fresh`) and by the number it leaves
recorded (`not_fresh_recordSeq`). -/
theorem memorySystemEvents : Obligations.MemorySystemEvents := by
  unfold Obligations.MemorySystemEvents
  intro die line s
  refine ⟨fun h => ?_, fun w h hinc => ?_, fun w h hok hinc => ?_, fun w h => ?_, fun hdie hlocal hhome => ?_,
    fun f d p v h hreply => ?_, fun h => ?_, exec_generationSweepEnd_idle, fun core hcore => ⟨?_, fun h => ?_⟩, ?_,
    fun r h => ?_, fun gtid c h => ?_, fun gtid c h hgtid hact => ?_, fun gtid c h hgtid hact => ?_, ?_,
    fun q h hok hwts _ hgtid hact => exec_atomicAtHome_effects h hwts hgtid hact hok⟩
  · exact congrArg Host.Outcome.next (applyWt_none h)
  · obtain ⟨hmem, hlog, -⟩ := dropStale_frame (.die die) (some line) (withoutWt die line s)
    exact ⟨_, congrArg Host.Outcome.next (applyWt_stale h hinc), hmem,
      (congrArg (fun l => l.length + 1) (dropStale_lists ..).1).trans (length_eraseIdx_findIdx h), hlog⟩
  · refine ⟨_, rfl, (sameThread_applyWt ..).1, fun i x hx => ?_, fun x hx => ?_⟩
    · rw [mem_applyWt h hinc]
      exact memRead_masked _ _ _ _ _ _ hok hx
    · rw [mem_applyWt h hinc]
      exact memRead_masked_other _ _ _ _ _ hx
  · refine ⟨_, rfl, ?_, ?_, ?_, fun x => version_ackWt h⟩
    · rw [ackWt_some h]
    · rw [ackWt_some h]
    · rw [ackWt_some h]
      exact length_eraseIdx_findIdx h
  · exact ⟨_, _, _, exec_fillRequest hdie hlocal hhome, rfl, rfl, rfl, rfl, rfl⟩
  · obtain rfl : f.reply.1 = d := congrArg Prod.fst hreply
    obtain rfl : f.reply.2.1 = p := congrArg (·.2.1) hreply
    obtain rfl : f.reply.2.2 = v := congrArg (·.2.2) hreply
    exact ⟨_, exec_fillReply h, rfl, length_eraseIdx_findIdx h, copies_replied_absent,
      fun y => copies_replied_fresh⟩
  · exact ⟨_, exec_generationSweepEnd h, sweeping_endSweep .., fun x => ageOf_endSweep⟩
  · exact exec_persistentRequest_idle
  · exact ⟨_, exec_persistentRequest hcore h, enteredRequest_frame h⟩
  · exact ⟨_, rfl, rfl, List.mem_cons_self⟩
  · rcases lt_or_ge (clearingsSince die r s) (2 ^ 15) with hpassed | hpassed
    · exact ⟨_, exec_retentionExit_recent h hpassed, rfl, fun _ => rfl, fun hold => absurd hold (not_le.2 hpassed)⟩
    · exact ⟨_, exec_retentionExit_old h hpassed, rfl, fun hrecent => absurd hpassed (not_le.2 hrecent),
        fun _ => dropDie_empty die _⟩
  · obtain ⟨hctx, -, hmem⟩ := idles_serveConfirm (BitVec.ofNat 64 gtid) line s
    have hanswer := mem_serveConfirm h
    have hline := List.find?_some h
    rw [decide_eq_true_iff] at hline
    rw [agrees_eq _ hline.2.1] at hanswer
    exact ⟨_, rfl, hctx, hmem, hanswer⟩
  · obtain ⟨hctx, hmem⟩ := answerWayside_current hgtid hact h
    refine ⟨_, rfl, hmem, fun i w hw => ?_⟩
    have hconfirmed : c.answer.getD false = true ↔ c.answer = some true := by cases c.answer <;> simp
    rw [hctx, getElem?_settleWayside hw]
    simp only [hconfirmed]
  · obtain ⟨hctx, hmem⟩ := timeoutWayside_current hgtid hact h
    refine ⟨_, rfl, hmem, fun i w hw => ?_⟩
    rw [hctx, getElem?_settleWayside hw]
    rfl
  · intro pkg seq a n v inc poison full hpkg hn hn8 hline
    refine ⟨fun h => ?_, remoteWrite_seen hpkg hn hn8 hline, fun hinc hdead hfresh hhbm => ⟨fun h => ?_,
      fun hcarve hlocal hlive hok hprop =>
        remoteWrite_served hpkg hn hn8 hline hinc hdead hfresh hhbm hcarve hlocal hlive hok hprop,
      fun hcarve hlocal => ?_⟩⟩
    · obtain ⟨hmem, hlog, -⟩ := dropStale_frame (.package pkg) (some (lineOf a)) s
      exact ⟨_, remoteWrite_stale hpkg hn hn8 hline h, hmem, hlog, poisonedLine_dropStale⟩
    · rw [remoteWrite_fresh hpkg hn hn8 hline hinc hdead hfresh hhbm, if_pos]
      simpa using h
    · have hexec := remoteWrite_elsewhere (v := v) (poison := poison) (full := full) hpkg hn hn8 hline hinc hdead hfresh
        hhbm hcarve hlocal
      refine ⟨fun hfull => hexec.trans ?_, fun hfull => ?_⟩
      · rw [forwardRequest, if_pos hfull]
      · obtain ⟨hmem, m, hm⟩ := forwardRequest_sends (pkg := pkg) (x := ⟨seq, .write a n v, inc, poison, full⟩) hfull
        exact ⟨_, m, hexec, hmem, hm⟩

end Sys2Proof.Machine

/-! PROOFS. Tile loads (R163 to R165, R168). -/

namespace Sys2Proof.Machine

/-! ## The rows of a load -/

/-- Rows that can all be read are committed together, in their order (R164). -/
theorem loadRows_ok {fetch : Nat → State → Except Stop (State × LoadedRow)} {commit : List LoadedRow → State → State}
    {σ : Nat → State} {x : Nat → LoadedRow} (n i : Nat) (rows : List LoadedRow)
    (h : ∀ m, i ≤ m → m < i + n → fetch m (σ m) = .ok (σ (m + 1), x m)) :
    loadRows fetch commit n i rows (σ i) = .ok (commit (rows ++ (List.range' i n).map x) (σ (i + n))) := by
  induction n generalizing i rows with
  | zero => simp [loadRows]
  | succ n ih =>
    have hrest := ih (i + 1) (rows ++ [x i]) fun m hm hlt => h m (by omega) (by omega)
    rw [loadRows, h i le_rfl (by omega)]
    dsimp only
    rw [hrest, List.range'_succ, List.map_cons, List.append_assoc, List.singleton_append, Nat.add_right_comm,
      Nat.add_assoc]

/-- The rows that a name holds after a load from row `k`: those it had, and then those read. -/
def rowsAfter (old : List Tile) (n k total : Nat) (x : Nat → LoadedRow) : List LoadedRow :=
  (List.range k).map (oldRow old n) ++ (List.range' k (total - k)).map x

/-- The name that a load of `n` rows in each of `g` bands leaves (R164, R168). -/
def loadedTile (old : List Tile) (g n k total : Nat) (kind : Option SxK) (x : Nat → LoadedRow) : List Tile :=
  keepBad old k n (tileOfRows g n kind (rowsAfter old n k total x))

theorem loadTile_ok {b0 : Bool} {n d k total : Nat} {kind : Option SxK} {src : List Src}
    {fetch : Nat → State → Except Stop (State × LoadedRow)} {σ : Nat → State} {x : Nat → LoadedRow}
    (hready : tileReady (σ k)) (hc : clean (σ k) src = true)
    (htotal : (if b0 then n else n * (σ k).ctx.aux.gang) = total) (hk : k < total)
    (hread : ∀ i, k ≤ i → i < total → fetch i (σ i) = .ok (σ (i + 1), x i)) :
    loadTile b0 n kind d k src fetch (σ k) =
      .ok (putTile d (loadedTile ((σ k).ctx.tile d) (σ k).ctx.aux.gang n k total kind x) (σ total)) := by
  have hrows := loadRows_ok (commit := fun rows s => putTile d (keepBad ((σ k).ctx.tile d) k n
    (tileOfRows (σ k).ctx.aux.gang n kind rows)) s) (total - k) k ((List.range k).map (oldRow ((σ k).ctx.tile d) n))
    fun m hm hlt => hread m hm (by omega)
  rw [Nat.add_sub_cancel' hk.le] at hrows
  unfold loadTile
  rw [hready.1, ok_bind]
  dsimp only
  rw [htotal, if_neg hk.not_ge, need_ok hc, ok_bind, granted_ok hready, ok_bind, hrows]
  rfl

/-! ## The bands of a load -/

section
variable {old : List Tile} {g n k total e i : Nat} {kind : Option SxK} {x : Nat → LoadedRow}

theorem rowsAfter_length (hk : k ≤ total) : (rowsAfter old n k total x).length = total := by
  simp only [rowsAfter, List.length_append, List.length_map, List.length_range, List.length_range']
  omega

theorem rowsAfter_read {m : Nat} (hk : k ≤ m) (hm : m < total) : (rowsAfter old n k total x)[m]? = some (x m) := by
  rw [rowsAfter, List.getElem?_append_right (by simpa using hk)]
  simp [show m - k < total - k by omega, show k + (m - k) = m by omega]

/-- The rows of a band. -/
def bandRows (old : List Tile) (n k total e : Nat) (x : Nat → LoadedRow) : List LoadedRow :=
  ((rowsAfter old n k total x).drop (e * n)).take n

theorem bandRows_length (hk : k ≤ total) (hfit : e * n + n ≤ total) : (bandRows old n k total e x).length = n := by
  rw [bandRows, List.length_take, List.length_drop, rowsAfter_length hk]
  omega

theorem bandRows_read (hi : i < n) (hk : k ≤ e * n + i) (hm : e * n + i < total) :
    (bandRows old n k total e x)[i]? = some (x (e * n + i)) := by
  rw [bandRows, List.getElem?_take_of_lt hi, List.getElem?_drop, rowsAfter_read hk hm]

theorem loadedTile_length : (loadedTile old g n k total kind x).length = g := by
  simp [loadedTile, keepBad, tileOfRows]

/-- A band holds its rows, and for an SX load their side-store rows (R65, R165). -/
theorem tileBand_loadedTile (he : e < g) (hn : bandRows old n k total e x ≠ []) :
    (tileBand (loadedTile old g n k total kind x) e).rows = (bandRows old n k total e x).map (·.row) ∧
    (tileBand (loadedTile old g n k total kind x) e).side =
      kind.map (fun q => ⟨q, (bandRows old n k total e x).map (·.side)⟩) := by
  have hreaches : ¬ (n = 0 ∨ (rowsAfter old n k total x).length ≤ e * n) := by simpa [bandRows] using hn
  simp [loadedTile, keepBad, tileOfRows, tileBand, he, bandRows, hreaches]

/-- The bands of a name that the load reaches are whole. -/
theorem bandRows_fit {b0 : Bool} (htotal : (if b0 then n else n * g) = total) (he : e < g) (hm : e * n + i < total) :
    e * n + n ≤ total := by
  subst htotal
  cases b0 with
  | true =>
    obtain rfl : e = 0 := by
      by_contra hne
      have := Nat.le_mul_of_pos_left n (Nat.pos_of_ne_zero hne)
      simp only [if_true] at hm
      omega
    simp
  | false => simpa [Nat.succ_mul, Nat.mul_comm n] using Nat.mul_le_mul_right n (Nat.succ_le_of_lt he)

/-- A row that the load has read stands in its band. -/
theorem row_loadedTile {b0 : Bool} (htotal : (if b0 then n else n * g) = total) (he : e < g) (hi : i < n)
    (hk : k ≤ e * n + i) (hm : e * n + i < total) :
    let b := tileBand (loadedTile old g n k total kind x) e
    b.rows.length = n ∧ b.row i = (x (e * n + i)).row ∧
      b.side = kind.map (fun q => ⟨q, (bandRows old n k total e x).map (·.side)⟩) := by
  have hlen := bandRows_length (old := old) (x := x) (hk.trans hm.le) (bandRows_fit htotal he hm)
  obtain ⟨hrows, hside⟩ := tileBand_loadedTile (kind := kind) he
    (List.ne_nil_of_length_pos (hlen ▸ Nat.zero_lt_of_lt hi))
  refine ⟨by rw [hrows, List.length_map, hlen], ?_, hside⟩
  rw [Tile.row, hrows, List.getElem?_map, bandRows_read hi hk hm]
  rfl

end

/-! ## The instructions -/

section
variable {fm : Form} {b0 : Bool} {rows bytes d a b j k total : Nat} {sx : SxK} {s : State} {σ : Nat → State}
  (hs : startAt fm s = some (j, k)) (hready : tileReady s) (hσ : σ k = s)
  (hc : clean s [.g (fm.a j a), .g (fm.b j b)] = true)
  (htotal : (if b0 then rows else rows * s.ctx.aux.gang) = total) (hk : k < total)

include hs hready hσ hc htotal hk

theorem exec_tld {v : Nat → List Byte} (hread : ∀ i, k ≤ i → i < total →
      loadRow 8 (rg s (fm.a j a) + BitVec.ofNat 64 i * rg s (fm.b j b)) bytes (σ i) = .ok (σ (i + 1), v i)) :
    exec (.tld fm b0 rows bytes d a b) s = .next (completes fm (fm.len 24) j (putTile (fm.d j d) (loadedTile
      (s.ctx.tile (fm.d j d)) s.ctx.aux.gang rows k total none fun i => ⟨rowOfBytes (v i), 0⟩) (σ total))) := by
  subst hσ
  refine (show exec _ (σ k) = execTld fm b0 rows bytes d a b (σ k) from rfl).trans (runRep_ok hs ?_)
  exact loadTile_ok hready hc htotal hk fun i hi hlt => by rw [rowAddr, hread i hi hlt]; rfl

theorem exec_tlds {x : Nat → LoadedRow} (hc1 : clean s [.g (fm.a j a + 1), .g (fm.b j b + 1)] = true)
    (hread : ∀ i, k ≤ i → i < total →
      loadSxRow sx (rg s (fm.a j a) + BitVec.ofNat 64 i * rg s (fm.a j a + 1))
        (rg s (fm.b j b) + BitVec.ofNat 64 i * rg s (fm.b j b + 1)) i (σ i) = .ok (σ (i + 1), x i)) :
    exec (.tlds fm b0 sx rows d a b) s = .next (completes fm (fm.len 24) j (putTile (fm.d j d)
      (loadedTile (s.ctx.tile (fm.d j d)) s.ctx.aux.gang rows k total (some sx) x) (σ total))) := by
  subst hσ
  have hclean : clean (σ k) [.g (fm.a j a), .g (fm.a j a + 1), .g (fm.b j b), .g (fm.b j b + 1)] = true := by
    simp only [clean_cons (σ k) _ (_ :: _)] at hc hc1 ⊢
    exact ⟨hc.1, hc1.1, hc.2, hc1.2⟩
  refine (show exec _ (σ k) = execTlds fm b0 sx rows d a b (σ k) from rfl).trans (runRep_ok hs ?_)
  exact loadTile_ok hready hclean htotal hk hread

end

/-- Settles O24: the name that each load leaves (`exec_tld`, `exec_tlds`), and the rows of its bands
(`row_loadedTile`). -/
theorem tileLoadResults : Obligations.TileLoadResults := by
  unfold Obligations.TileLoadResults
  intro fm b0 sx rows bytes d a b s σ v x j k hs hready hσ hc A B total hk
  refine ⟨fun hread => ⟨_, exec_tld hs hready hσ hc rfl hk hread, loadedTile_length, fun e i he hi hfrom hm => ?_⟩,
    fun hc1 hread => ⟨_, exec_tlds hs hready hσ hc rfl hk hc1 hread, loadedTile_length, fun e i he hi hfrom hm => ?_⟩⟩
  · obtain ⟨hlen, hrow, hside⟩ := row_loadedTile (old := s.ctx.tile (fm.d j d)) (kind := none)
      (x := fun i => ⟨rowOfBytes (v i), 0⟩) rfl he hi hfrom hm
    exact ⟨hlen, hside, hrow⟩
  · obtain ⟨hlen, hrow, hside⟩ := row_loadedTile (old := s.ctx.tile (fm.d j d)) (kind := some sx) (x := x) rfl he hi
      hfrom hm
    refine ⟨hlen, hrow, _, hside, rfl, ?_⟩
    rw [List.getElem?_map, bandRows_read hi hfrom hm]
    rfl

end Sys2Proof.Machine

/-! PROOFS. Tile stores and drains (R166, R168, R183 to R186). -/

namespace Sys2Proof.Machine

/-! ## The values a drain reads -/

/-- Lists of one length one after the other, by index. -/
theorem getElem?_flatMap_const {α β : Type} {f : α → List β} {n : Nat} (hf : ∀ a, (f a).length = n) (l : List α)
    {i : Nat} (hi : i < l.length * n) : (l.flatMap f)[i]? = l[i / n]?.bind fun a => (f a)[i % n]? := by
  induction l generalizing i with
  | nil => simp at hi
  | cons a l ih =>
    have hn : 0 < n := Nat.pos_of_ne_zero fun h => by simp [h] at hi
    rw [List.flatMap_cons]
    by_cases h : i < n
    · rw [List.getElem?_append_left (by rwa [hf]), Nat.div_eq_of_lt h, Nat.mod_eq_of_lt h]
      rfl
    · have hle : n ≤ i := not_lt.1 h
      rw [List.length_cons, Nat.succ_mul] at hi
      rw [List.getElem?_append_right (by rwa [hf]), hf, ih (by omega), Nat.div_eq_sub_div hn hle,
        Nat.mod_eq_sub_mod hle]
      rfl

/-- The value of a cell, by its row counted across the bands and its column. -/
def gridCell (c : FpCtl) (a : Acc) (i q : Nat) : FVal :=
  (readCell c a.tag (cellAt (a.band (i / a.rext)) (i % a.rext) q)).1

theorem drainGrid_eq (c : FpCtl) (a : Acc) : (drainGrid c a).1 =
    (List.range (a.bands.length * a.rext)).map fun i => (List.range a.cext).map (gridCell c a i) := by
  have hlen : (drainGrid c a).1.length = a.bands.length * a.rext := by simp [drainGrid, List.length_flatMap]
  refine List.ext_getElem? fun i => ?_
  by_cases hi : i < a.bands.length * a.rext
  · have hpos : 0 < a.rext := Nat.pos_of_ne_zero fun h => by simp [h] at hi
    have hband : i / a.rext < a.bands.length := (Nat.div_lt_iff_lt_mul hpos).2 hi
    rw [drainGrid]
    dsimp only
    rw [List.getElem?_map, getElem?_flatMap_const (fun _ => by simp) a.bands hi]
    simp [hi, hband, Nat.mod_lt i hpos, gridCell, Acc.band, Function.comp_def]
  · rw [List.getElem?_eq_none (by omega), List.getElem?_eq_none (by simpa using hi)]

/-- A column of the grid. -/
theorem columnOf_drainGrid {c : FpCtl} {a : Acc} {q : Nat} (hq : q < a.cext) : columnOf (drainGrid c a).1 q =
    (List.range (a.bands.length * a.rext)).map fun i => gridCell c a i q := by
  rw [drainGrid_eq, columnOf, List.map_map]
  exact List.map_congr_left fun i _ => by simp [hq]

/-! ## The bytes of rows, in a format other than SX and without stochastic rounding -/

/-- Bytes of an element in a format other than SX (R183). -/
def outElem (o : OFmt) (c : FpCtl) (v : FVal) : List Byte :=
  match outKind o with
  | .float f => bytesOfNat (f.bits / 8) (f.ofVal c v).bits
  | .int w => bytesOfNat (w / 8) ((toIntR w c.rm v).1 % 2 ^ w).toNat
  | .sx _ => []

/-- A fold that appends the bytes of each element and leaves the LFSR. -/
theorem foldl_payload {f : OutBytes → FVal → OutBytes} {g : FVal → List Byte}
    (h : ∀ r v, (f r v).payload = r.payload ++ g v ∧ (f r v).lfsr = r.lfsr) (l : List FVal) (r : OutBytes) :
    (l.foldl f r).payload = r.payload ++ l.flatMap g ∧ (l.foldl f r).lfsr = r.lfsr := by
  induction l generalizing r with
  | nil => simp
  | cons v l ih =>
    obtain ⟨hp, hl⟩ := h r v
    obtain ⟨ihp, ihl⟩ := ih (f r v)
    exact ⟨by rw [List.foldl_cons, ihp, hp, List.flatMap_cons, List.append_assoc], by rw [List.foldl_cons, ihl, hl]⟩

theorem outRow_plain {o : OFmt} (ho : o.isSx = false) (c : FpCtl) (st : BitVec 32) (l : List FVal) :
    (outRow o c false st l).payload = l.flatMap (outElem o c) ∧ (outRow o c false st l).lfsr = st := by
  unfold outRow outElem
  cases hk : outKind o with
  | float f =>
    exact foldl_payload (g := fun v => bytesOfNat (f.bits / 8) (f.ofVal c v).bits)
      (fun _ _ => by exact ⟨rfl, rfl⟩) l _
  | int n =>
    exact foldl_payload (g := fun v => bytesOfNat (n / 8) ((toIntR n c.rm v).1 % 2 ^ n).toNat)
      (fun _ _ => by exact ⟨rfl, rfl⟩) l _
  | sx k => cases o <;> cases hk <;> cases ho

/-- The rows of a copy, in order (R183, R186). -/
theorem copyRows_plain {o : OFmt} (ho : o.isSx = false) (c : FpCtl) (bad : Nat → Bool) (va st sva sst : Word)
    (rs : List (List FVal)) (i fl : Nat) (l : BitVec 32) :
    let x := copyRows o c false bad va st sva sst rs i fl l
    x.1.length = rs.length ∧ x.2.2 = l ∧ ∀ m r, rs[m]? = some r →
      ∃ p, x.1[m]? = some p ∧ p.va = rowAddr va st (i + m) ∧ p.data = r.flatMap (outElem o c) := by
  induction rs generalizing i fl l with
  | nil => exact ⟨rfl, rfl, nofun⟩
  | cons r rs ih =>
    obtain ⟨hpay, hst⟩ := outRow_plain ho c l r
    obtain ⟨hlen, hlfsr, hrows⟩ := ih (i + 1) (fl ||| (outRow o c false l r).flags) (outRow o c false l r).lfsr
    simp only [copyRows, ho, Bool.false_eq_true, if_false, List.singleton_append, List.length_cons]
    refine ⟨by rw [hlen], by rw [hlfsr, hst], fun m r' hm => ?_⟩
    cases m with
    | zero =>
      obtain rfl : r = r' := Option.some.inj hm
      exact ⟨_, rfl, rfl, hpay⟩
    | succ m =>
      obtain ⟨p, hp, hva, hdata⟩ := hrows m r' hm
      exact ⟨p, hp, by rw [hva, Nat.add_assoc, Nat.add_comm 1], hdata⟩

/-- As `copyRows_plain`, of rows given by their elements. -/
theorem copyRows_range {o : OFmt} (ho : o.isSx = false) (c : FpCtl) (bad : Nat → Bool) (va st sva sst : Word)
    (n m fl : Nat) (l : BitVec 32) (w : Nat → Nat → FVal) :
    let x := copyRows o c false bad va st sva sst ((List.range n).map fun i => (List.range m).map (w i)) 0 fl l
    x.1.length = n ∧ x.2.2 = l ∧ ∀ i, i < n → ∃ p, x.1[i]? = some p ∧ p.va = rowAddr va st i ∧
      p.data = (List.range m).flatMap fun q => outElem o c (w i q) := by
  intro x
  obtain ⟨hlen, hlfsr, hrows⟩ := copyRows_plain ho c bad va st sva sst
    ((List.range n).map fun i => (List.range m).map (w i)) 0 fl l
  refine ⟨by simpa using hlen, hlfsr, fun i hi => ?_⟩
  obtain ⟨p, hp, hva, hdata⟩ := hrows i ((List.range m).map (w i)) (by simp [hi])
  exact ⟨p, hp, by rw [hva, Nat.zero_add], by rw [hdata, List.flatMap_map]⟩

/-! ## The rows of a drain -/

section
variable (s : State) (a : Acc)

/-- The rows of the direct copy: the cells' rows, scaled (R183). -/
def directRows (fs : Nat) : List (List FVal) :=
  (drainGrid (tileCtl s) a).1.map fun r => r.map (scaled s (tileCtl s) fs)

/-- The rows of the transposed copy: the cells' columns, scaled (R185). -/
def transposedRows (ft : Nat) : List (List FVal) :=
  ((List.range a.cext).map (columnOf (drainGrid (tileCtl s) a).1)).map fun r => r.map (scaled s (tileCtl s) ft)

theorem directRows_eq (fs : Nat) : directRows s a fs = (List.range (a.bands.length * a.rext)).map fun i =>
    (List.range a.cext).map fun q => scaled s (tileCtl s) fs (gridCell (tileCtl s) a i q) := by
  simp [directRows, drainGrid_eq, Function.comp_def]

theorem transposedRows_eq (ft : Nat) : transposedRows s a ft = (List.range a.cext).map fun q =>
    (List.range (a.bands.length * a.rext)).map fun i => scaled s (tileCtl s) ft (gridCell (tileCtl s) a i q) := by
  rw [transposedRows, List.map_map]
  refine List.map_congr_left fun q hq => ?_
  rw [Function.comp_apply, columnOf_drainGrid (List.mem_range.1 hq), List.map_map]
  rfl

/-- Poison feeds a row of the grid (R186). -/
def gridRowBad (i : Nat) : Bool := a.rext != 0 && a.rowBad (i / a.rext) (i % a.rext)

/-- Bytes of the element of row `i`, counted across the bands, and column `q`, as a copy with a scale stores it. -/
def elemBytesAt (s : State) (a : Acc) (o : OFmt) (fs i q : Nat) : List Byte :=
  outElem o (tileCtl s) (scaled s (tileCtl s) fs (gridCell (tileCtl s) a i q))

theorem copyRows_direct {o : OFmt} (ho : o.isSx = false) (fs : Nat) (va st sva sst : Word) (fl : Nat) (l : BitVec 32) :
    let x := copyRows o (tileCtl s) false (gridRowBad a) va st sva sst (directRows s a fs) 0 fl l
    x.1.length = a.bands.length * a.rext ∧ x.2.2 = l ∧ ∀ i, i < a.bands.length * a.rext → ∃ p, x.1[i]? = some p ∧
      p.va = rowAddr va st i ∧ p.data = (List.range a.cext).flatMap (elemBytesAt s a o fs i) := by
  rw [directRows_eq]
  exact copyRows_range ho ..

theorem copyRows_transposed {o : OFmt} (ho : o.isSx = false) (ft : Nat) (va st sva sst : Word) (fl : Nat)
    (l : BitVec 32) :
    let x := copyRows o (tileCtl s) false a.colBad va st sva sst (transposedRows s a ft) 0 fl l
    x.1.length = a.cext ∧ x.2.2 = l ∧ ∀ q, q < a.cext → ∃ p, x.1[q]? = some p ∧ p.va = rowAddr va st q ∧
      p.data = (List.range (a.bands.length * a.rext)).flatMap fun i => elemBytesAt s a o ft i q := by
  rw [transposedRows_eq]
  exact copyRows_range ho ..

variable {s a} (htag : a.tag ≠ .empty) (hsr : bits s.ctx.ctl.tctl 17 3 ≠ 5)
include htag hsr

theorem drainRows_single (o : OFmt) (fs ft : Nat) (va st va1 st1 : Word) :
    drainRows s a o none fs ft va st va1 st1 = copyRows o (tileCtl s) false (gridRowBad a) va st va1 st1
      (directRows s a fs) 0 (drainGrid (tileCtl s) a).2 s.ctx.ctl.lfsr := by
  simp only [drainRows, htag, hsr, if_false, decide_false]
  rfl

theorem drainRows_pair (o o2 : OFmt) (fs ft : Nat) (va st va1 st1 : Word) :
    let x := copyRows o (tileCtl s) false (gridRowBad a) va st va1 st1 (directRows s a fs) 0
      (drainGrid (tileCtl s) a).2 s.ctx.ctl.lfsr
    let y := copyRows o2 (tileCtl s) false a.colBad va1 st1 0 0 (transposedRows s a ft) 0 x.2.1 x.2.2
    drainRows s a o (some o2) fs ft va st va1 st1 = (x.1 ++ y.1, y.2) := by
  simp only [drainRows, htag, hsr, if_false, decide_false]
  rfl

/-- The rows of a drain in a format other than SX (R183). -/
theorem drainRows_single_plain {o : OFmt} (ho : o.isSx = false) (fs ft : Nat) (va st va1 st1 : Word) :
    let x := drainRows s a o none fs ft va st va1 st1
    x.1.length = a.bands.length * a.rext ∧ x.2.2 = s.ctx.ctl.lfsr ∧ ∀ i, i < a.bands.length * a.rext →
      ∃ p, x.1[i]? = some p ∧ p.va = rowAddr va st i ∧
        p.data = (List.range a.cext).flatMap (elemBytesAt s a o fs i) := by
  rw [drainRows_single htag hsr]
  exact copyRows_direct s a ho ..

/-- The rows of a drain with a transposed copy: those of the direct copy, and then the columns (R185). -/
theorem drainRows_pair_plain {o o2 : OFmt} (ho : o.isSx = false) (ho2 : o2.isSx = false) (fs ft : Nat)
    (va st va1 st1 : Word) : let x := drainRows s a o (some o2) fs ft va st va1 st1
    x.1.length = a.bands.length * a.rext + a.cext ∧ x.2.2 = s.ctx.ctl.lfsr ∧
    (∀ i, i < a.bands.length * a.rext → ∃ p, x.1[i]? = some p ∧ p.va = rowAddr va st i ∧
      p.data = (List.range a.cext).flatMap (elemBytesAt s a o fs i)) ∧
    ∀ q, q < a.cext → ∃ p, x.1[a.bands.length * a.rext + q]? = some p ∧ p.va = rowAddr va1 st1 q ∧
      p.data = (List.range (a.bands.length * a.rext)).flatMap fun i => elemBytesAt s a o2 ft i q := by
  rw [drainRows_pair htag hsr]
  obtain ⟨hlen, hlfsr, hrows⟩ := copyRows_direct s a ho fs va st va1 st1 (drainGrid (tileCtl s) a).2 s.ctx.ctl.lfsr
  generalize copyRows o _ _ _ _ _ _ _ (directRows s a fs) _ _ _ = x at hlen hlfsr hrows ⊢
  obtain ⟨hlen2, hlfsr2, hrows2⟩ := copyRows_transposed s a ho2 ft va1 st1 0 0 x.2.1 x.2.2
  refine ⟨by rw [List.length_append, hlen, hlen2], hlfsr2.trans hlfsr, fun i hi => ?_, fun q hq => ?_⟩
  · obtain ⟨p, hp, hrow⟩ := hrows i hi
    exact ⟨p, by rw [List.getElem?_append_left (hlen ▸ hi), hp], hrow⟩
  · obtain ⟨p, hp, hrow⟩ := hrows2 q hq
    exact ⟨p, by rw [List.getElem?_append_right (by omega), hlen, Nat.add_sub_cancel_left, hp], hrow⟩

end

/-! ## The instructions -/

/-- What a drain leaves once its rows are stored: its flags, the LFSR and, with FREE, an empty accumulator (R59, R183,
R184). -/
def drainedState (free : Bool) (d : Nat) (x : List OutRow × Nat × BitVec 32) (s : State) : State :=
  let t := orFlags x.2.1 { s with ctx.ctl.lfsr := x.2.2 }
  if free then putAcc d Acc.empty t else t

theorem clean_append (s : State) (l l' : List Src) :
    clean s (l ++ l') = true ↔ clean s l = true ∧ clean s l' = true := by
  simp [clean]

section
variable {o : OFmt} {o2 : Option OFmt} {free : Bool} {fs ft d a b : Nat} {s s1 : State}

theorem drain_refused (h : inService s = .ok ())
    (hacc : (accepts (s.ctx.acc d).tag o && (o2.map (accepts (s.ctx.acc d).tag)).getD true) = false) :
    drain o o2 free fs ft d a b s = .error (.trap (illTrap s) s) := by
  unfold drain
  rw [h, ok_bind]
  dsimp only
  rw [hacc]
  rfl

/-- The registers that a drain reads (R183, R185). -/
def drainSources (o : OFmt) (o2 : Option OFmt) (fs ft a b : Nat) : List Src :=
  [Src.g a, .g b] ++ (if o2.isSome || o.isSx then [Src.g (a + 1), .g (b + 1)] else []) ++
    (if fs = 0 then [] else [Src.f fs]) ++ (if ft = 0 then [] else [Src.f ft]) ++ [.ctl 0x002]

theorem drain_ok (h : tileReady s)
    (hacc : (accepts (s.ctx.acc d).tag o && (o2.map (accepts (s.ctx.acc d).tag)).getD true) = true)
    (hc : clean s (drainSources o o2 fs ft a b) = true)
    (hstore : blockStore (drainRows s (seenAcc s d) o o2 fs ft (rg s a) (rg s b) (rg s (a + 1)) (rg s (b + 1))).1 s =
      .ok s1) :
    drain o o2 free fs ft d a b s = .ok (drainedState free d
      (drainRows s (seenAcc s d) o o2 fs ft (rg s a) (rg s b) (rg s (a + 1)) (rg s (b + 1))) s1) := by
  unfold drain
  rw [h.1, ok_bind]
  dsimp only
  rw [hacc]
  change (need s (drainSources o o2 fs ft a b) >>= fun _ => _) = _
  rw [need_ok hc, ok_bind, granted_ok h, ok_bind, hstore]
  rfl

end

/-- Row `i` of a tile store, counted across the bands; `bad` says whether poison feeds it (R166, R168). -/
def storedRow (t : List Tile) (rows bytes : Nat) (va st : Word) (bad : Bool) (i : Nat) : OutRow :=
  ⟨rowAddr va st i, (bytesOfRow ((tileBand t (i / rows)).row (i % rows))).take bytes, 8, bad⟩

theorem exec_tsto {fm : Form} {rows bytes d a b j k : Nat} {s s1 : State} (hs : startAt fm s = some (j, k))
    (h : tileReady s) (hc : clean s [.g (fm.a j a), .g (fm.b j b)] = true)
    (hgood : ∀ e r, e < s.ctx.aux.gang → r < rows → (tileBand (seenTile s (fm.d j d)) e).bad.contains r = false)
    (hstore : blockStore ((List.range (rows * s.ctx.aux.gang)).map
      (storedRow (seenTile s (fm.d j d)) rows bytes (rg s (fm.a j a)) (rg s (fm.b j b)) false)) s = .ok s1) :
    exec (.tsto fm rows bytes d a b) s = .next (completes fm (fm.len 24) j s1) := by
  refine (show exec _ s = execTsto fm rows bytes d a b s from rfl).trans (runRep_ok hs ?_)
  have hrows : (List.range (rows * s.ctx.aux.gang)).map (fun i => storedRow (seenTile s (fm.d j d)) rows bytes
      (rg s (fm.a j a)) (rg s (fm.b j b)) ((tileBand (seenTile s (fm.d j d)) (i / rows)).bad.contains (i % rows)) i) =
      (List.range (rows * s.ctx.aux.gang)).map
        (storedRow (seenTile s (fm.d j d)) rows bytes (rg s (fm.a j a)) (rg s (fm.b j b)) false) := by
    refine List.map_congr_left fun i hi => ?_
    have hlt := List.mem_range.1 hi
    have hpos : 0 < rows := Nat.pos_of_ne_zero fun h0 => by simp [h0] at hlt
    rw [hgood _ _ (Nat.div_lt_of_lt_mul hlt) (Nat.mod_lt i hpos)]
  rw [← hrows] at hstore
  dsimp only
  rw [h.1, ok_bind, need_ok hc, ok_bind, granted_ok h]
  exact hstore

/-- Settles O25: `exec_tsto`, `drain_ok`, `drain_refused`, and the rows of a drain (`drainRows_single_plain`,
`drainRows_pair_plain`). -/
theorem tileStoreResults : Obligations.TileStoreResults := by
  unfold Obligations.TileStoreResults
  intro fm rows bytes fs ft d a b o o2 free s s1 j k hs A B D tag ill drained
  refine ⟨fun h hc hgood hstore => exec_tsto hs h hc hgood hstore, fun h hacc => ?_, fun h hacc => ?_,
    fun h hacc hc hsx hstore => ?_, fun h hacc hacc2 hc hstore => ?_, fun c va st va1 st1 htag ho ho2 hsr => ?_⟩
  · exact (show exec _ s = execTdrain fm o free fs d a b s from rfl).trans
      (runRep_trap hs (drain_refused h (Bool.and_eq_false_iff.2 (.inl hacc))))
  · exact (show exec _ s = execTdraint fm o o2 free fs ft d a b s from rfl).trans
      (runRep_trap hs (drain_refused h (Bool.and_eq_false_iff.2 hacc)))
  · refine (show exec _ s = execTdrain fm o free fs d a b s from rfl).trans
      (runRep_ok hs (drain_ok h (Bool.and_eq_true_iff.2 ⟨hacc, rfl⟩) ?_ hstore))
    simp only [drainSources, clean_append, clean_cons s _ (_ :: _), Option.isSome_none, Bool.false_or] at hc hsx ⊢
    obtain ⟨⟨ha, hb, hctl⟩, hfs⟩ := hc
    refine ⟨⟨⟨⟨⟨ha, hb⟩, ?_⟩, hfs⟩, rfl⟩, hctl⟩
    split
    · exact (clean_cons ..).2 (hsx ‹_›)
    · rfl
  · refine (show exec _ s = execTdraint fm o o2 free fs ft d a b s from rfl).trans
      (runRep_ok hs (drain_ok h (Bool.and_eq_true_iff.2 ⟨hacc, hacc2⟩) ?_ hstore))
    simp only [drainSources, clean_append, clean_cons s _ (_ :: _), Option.isSome_some, Bool.true_or, if_true] at hc ⊢
    obtain ⟨⟨⟨ha, hb, ha1, hb1, hctl⟩, hfs⟩, hft⟩ := hc
    exact ⟨⟨⟨⟨⟨ha, hb⟩, ha1, hb1⟩, hfs⟩, hft⟩, hctl⟩
  · exact ⟨drainRows_single_plain htag hsr ho fs 0 va st va1 st1,
      drainRows_pair_plain htag hsr ho ho2 fs ft va st va1 st1⟩

end Sys2Proof.Machine

/-! PROOFS. Accesses of the copy engine leave the record of commands and locks (R222 to R226, R229, R239 to R251). -/

namespace Sys2Proof.Machine

/-! ## Steps of the memory system -/

section
variable (s : State)

@[simp] theorem setCore_copy (n : Nat) (c : CoreSt) : (setCore s n c).copy = s.copy := by
  unfold setCore
  split <;> rfl

@[simp] theorem setActive_copy (n : Nat) (c : Ctx) : (setActive s n c).copy = s.copy := by
  unfold setActive
  split
  · rfl
  · exact setCore_copy ..

@[simp] theorem onContext_copy (g : Word) (f : Ctx → Ctx) : (onContext g f s).copy = s.copy := by
  unfold onContext
  refine List.foldlRecOn (motive := fun t : State => t.copy = s.copy) _ _ rfl fun t ht n _ => ?_
  dsimp only
  repeat' split
  all_goals simpa using ht

@[simp] theorem loseStore_copy (die : Nat) (g : Word) (pid pa : Nat) : (loseStore die g pid pa s).copy = s.copy := by
  unfold loseStore
  split
  · exact onContext_copy ..
  · split <;> rfl

@[simp] theorem storeWrite_copy (g : Word) (pa : Nat) (d : List Byte) (m : Byte) (p f : Bool) :
    (storeWrite g pa d m p f s).copy = s.copy := by
  obtain ⟨_, _, h⟩ := sameButMemory_storeWrite g pa d m p f s
  rw [h]

@[simp] theorem dropStale_copy (ag : Agent) (line : Option Nat) : (dropStale ag line s).copy = s.copy := by
  unfold dropStale
  dsimp only
  split <;> split <;> rfl

@[simp] theorem applyWt_copy (die line : Nat) : (applyWt die line s).copy = s.copy := by
  unfold applyWt
  split
  · rfl
  · dsimp only
    split
    · exact dropStale_copy ..
    · exact storeWrite_copy ..

@[simp] theorem applyWts_copy (die line : Nat) : (applyWts die line s).copy = s.copy :=
  List.foldlRecOn (motive := fun t : State => t.copy = s.copy) _ _ rfl
    fun t ht _ _ => (applyWt_copy t die line).trans ht

@[simp] theorem roomInDirectory_copy : (roomInDirectory s).copy = s.copy := by
  unfold roomInDirectory
  split
  · split <;> rfl
  · rfl

@[simp] theorem serveFill_copy (die line : Nat) : (serveFill die line s).1.copy = s.copy := by
  simp only [serveFill]
  split
  · exact applyWts_copy ..
  · exact (roomInDirectory_copy _).trans (applyWts_copy ..)

@[simp] theorem askRemote_copy (pa : Nat) : (askRemote pa s).copy = s.copy := by
  unfold askRemote
  split <;> rfl

@[simp] theorem sendStore_copy (cmd : Option Nat) (e : SbEntry) : (sendStore cmd e s).copy = s.copy := by
  unfold sendStore
  split
  · rfl
  · exact List.foldlRecOn (motive := fun t : State => t.copy = s.copy) _ _ rfl fun _ ht _ _ => ht

/-! ## Messages to other packages -/

@[simp] theorem amoAt_copy (g : Word) (op : AmoOp) (pa n : Nat) (src cmp : Word) :
    (amoAt g op pa n src cmp s).1.copy = s.copy := by
  unfold amoAt
  dsimp only
  split
  · rfl
  · exact storeWrite_copy ..

@[simp] theorem applyRemote_copy (g : Word) (rq : RemoteReq) (p f : Bool) : (applyRemote g rq p f s).copy = s.copy := by
  cases rq with
  | read a n => rfl
  | write a n v => exact storeWrite_copy ..
  | atomic op a n v cmp =>
    unfold applyRemote
    dsimp only
    split
    · rfl
    · exact amoAt_copy ..
  | subByte fld w v => exact storeWrite_copy ..
  | bind => rfl
  | abort => rfl

@[simp] theorem answerAtomic_copy (g : Word) (x : Sent) : (answerAtomic g x s).copy = s.copy := by
  unfold answerAtomic
  split
  · rfl
  · exact onContext_copy ..

@[simp] theorem answerRemote_copy (g : Word) (rq : RemoteReq) (t : State) : (answerRemote g rq t s).copy = s.copy := by
  unfold answerRemote
  split
  · split <;> exact answerAtomic_copy ..
  · rfl

@[simp] theorem applyMsg_copy (src dst seq : Nat) : (applyMsg src dst seq s).copy = s.copy := by
  unfold applyMsg
  split
  · rfl
  · split
    · rfl
    · dsimp only
      split
      · exact applyRemote_copy ..
      · exact (answerRemote_copy ..).trans (applyRemote_copy ..)

@[simp] theorem passMsg_copy (m : Msg) : (passMsg s m).copy = s.copy := by
  unfold passMsg
  split
  · exact applyMsg_copy ..
  · rfl

@[simp] theorem easePair_copy (pa : Nat) : (easePair pa s).copy = s.copy := by
  unfold easePair
  split
  · exact List.foldlRecOn (motive := fun t : State => t.copy = s.copy) _ _ rfl
      fun t ht m _ => (passMsg_copy t m).trans ht
  · rfl

/-! ## Stores and warming -/

@[simp] theorem performStoreBy_copy (cmd : Option Nat) (core : Nat) (e : SbEntry) :
    (performStoreBy cmd core e s).copy = s.copy := by
  unfold performStoreBy
  dsimp only
  split
  · exact loseStore_copy ..
  · split
    · exact sendStore_copy ..
    · split
      · simp only [homeWrite_frame]
      · split
        · exact storeWrite_copy ..
        · rfl

@[simp] theorem engPut_copy (c : Cmd) (pa : Nat) (d : List Byte) : (engPut c pa d s).copy = s.copy :=
  performStoreBy_copy ..

@[simp] theorem warmLine_copy (core line : Nat) : (warmLine core line s).copy = s.copy := by
  unfold warmLine
  dsimp only
  split
  · rfl
  · exact serveFill_copy ..

end

/-! ## Translation -/

/-- Every state with which a translation ends has one record of commands. -/
def translationKeeps (k : CopySt) : RunV Phys → Prop
  | .ok (t, _) => t.copy = k
  | .error (.trap _ t) => t.copy = k
  | .error (.wait t) => t.copy = k

theorem copy_of_sameButTables {s t : State} (h : sameButTables s t) : t.copy = s.copy := by
  obtain ⟨_, _, _, _, _, rfl⟩ := h
  rfl

section
variable (sp : Space) (kind : AccKind) (va : Word) (n : Nat)

theorem heapTranslate_copy (s : State) : translationKeeps s.copy (heapTranslate sp kind va n s) := by
  simp only [heapTranslate]
  split_ifs <;> rfl

theorem useLeaf_copy (lvl : Nat) (e : Word) (a : Nat) (s : State) :
    translationKeeps s.copy (useLeaf sp kind va n lvl e a s) := by
  unfold useLeaf
  lift_lets
  intro on s1 pa
  have hmarks : s1.copy = s.copy := by
    unfold s1
    split <;> rfl
  split
  · rfl
  · exact hmarks

theorem walkFor_copy (fuel : Nat) (s : State) : translationKeeps s.copy (walkFor sp kind va n fuel s) := by
  induction fuel generalizing s with
  | zero => rfl
  | succ fuel ih =>
    simp only [walkFor]
    split
    case h_1 => rfl
    case h_2 lvl r _ =>
      show State.copy (if r = 1 then _ else s) = s.copy
      split <;> rfl
    case h_3 lvl e a _ =>
      split
      · rfl
      · split
        · rfl
        · next s1 hs1 =>
          rw [← copy_of_sameButTables (sameButTables_expandPage hs1)]
          exact ih s1
    case h_4 lvl e a _ =>
      split
      · rfl
      · exact useLeaf_copy ..

theorem tableTranslate_copy (s : State) : translationKeeps s.copy (tableTranslate sp kind va n s) := by
  simp only [tableTranslate]
  split
  case h_1 t _ =>
    split
    · split
      · exact walkFor_copy sp kind va n 2
          { s with core.tlb := s.core.tlb.filter (fun t => ¬ t.hits sp va.toNat) }
      · split <;> rfl
    · split
      · rfl
      · exact walkFor_copy sp kind va n 2
          { s with core.tlb := s.core.tlb.filter (fun t => ¬ t.hits sp va.toNat) }
  case h_2 =>
    split
    · rfl
    · exact walkFor_copy ..

theorem translateIn_copy (s : State) : translationKeeps s.copy (translateIn sp kind va n s) := by
  unfold translateIn
  split
  · rfl
  · split
    · exact heapTranslate_copy ..
    · exact tableTranslate_copy ..

end

/-! ## The engine's accesses -/

/-- Every state with which work of the engine ends has one record of commands. -/
def engKeeps {α : Type} (k : CopySt) : Except EngStop (State × α) → Prop
  | .ok (t, _) => t.copy = k
  | .error (_, _, t) => t.copy = k

theorem engKeeps_bind {α β : Type} {k : CopySt} {x : Except EngStop (State × α)}
    {f : State × α → Except EngStop (State × β)} (hx : engKeeps k x)
    (hf : ∀ t a, t.copy = k → engKeeps k (f (t, a))) : engKeeps k (x >>= f) := by
  cases x with
  | ok y => exact hf y.1 y.2 hx
  | error e => exact hx

section
variable {k : CopySt} {s : State} (c : Cmd) (hs : s.copy = k)
include hs

theorem engTranslate_copy (sp : Space) (kind : AccKind) (va n : Nat) : engKeeps k (engTranslate sp kind va n s) := by
  have h := translateIn_copy sp kind (BitVec.ofNat 64 va) n { s with core.tlb := [], core.notPresent := [] }
  simp only [engTranslate]
  split
  · exact hs
  · split
    next hx =>
      rw [hx] at h
      split
      · exact hs
      · exact h.trans hs
    next hx =>
      rw [hx] at h
      exact h.trans hs
    next hx =>
      rw [hx] at h
      exact h.trans hs

theorem engRead_copy (va n : Nat) : engKeeps k (engRead c va n s) := by
  refine engKeeps_bind (engTranslate_copy hs ..) fun t pa ht => ?_
  dsimp only
  split
  · exact ht
  · have hease : (easePair pa t).copy = k := (easePair_copy ..).trans ht
    split
    · exact hease
    · split
      · have hhome := (applyWts_copy { easePair pa t with coh := readToken c.core (lineOf pa) (easePair pa t).coh }
          (c.core / 64) (lineOf pa)).trans hease
        split <;> exact hhome
      · have hasked := (askRemote_copy (easePair pa t) pa).trans hease
        split <;> exact hasked

theorem engWriteAt_copy (va pa : Nat) (d : List Byte) : engKeeps k (engWriteAt c va pa d s) := by
  unfold engWriteAt
  split
  · exact hs
  · dsimp only
    split
    · exact (easePair_copy ..).trans hs
    · exact (engPut_copy ..).trans ((easePair_copy ..).trans hs)

theorem engWrite_copy (va : Nat) (d : List Byte) : engKeeps k (engWrite c va d s) :=
  engKeeps_bind (engTranslate_copy hs ..) fun _ _ ht => engWriteAt_copy c ht ..

theorem readBytes_copy (fuel va n : Nat) : engKeeps k (readBytes c fuel va n s) := by
  induction fuel generalizing va n s with
  | zero => exact hs
  | succ fuel ih =>
    unfold readBytes
    split
    · exact hs
    · exact engKeeps_bind (engRead_copy c hs ..) fun _ _ ht => engKeeps_bind (ih ht ..) fun _ _ hu => hu

theorem moveBytes_copy (fuel src dst n : Nat) : engKeeps k (moveBytes c fuel src dst n s) := by
  induction fuel generalizing src dst n s with
  | zero => exact hs
  | succ fuel ih =>
    unfold moveBytes
    split
    · exact hs
    · exact engKeeps_bind (readBytes_copy c hs ..) fun _ _ ht =>
        engKeeps_bind (engWrite_copy c ht ..) fun _ _ hu => ih hu ..

theorem writeBytes_copy (f : Nat → Byte) (base fuel off n : Nat) : engKeeps k (writeBytes c f base fuel off n s) := by
  induction fuel generalizing off n s with
  | zero => exact hs
  | succ fuel ih =>
    unfold writeBytes
    split
    · exact hs
    · exact engKeeps_bind (engWrite_copy c hs ..) fun _ _ ht => ih ht ..

theorem writeRun_copy (fuel va : Nat) (d : List Byte) : engKeeps k (writeRun c fuel va d s) := by
  induction fuel generalizing va d s with
  | zero => exact hs
  | succ fuel ih =>
    unfold writeRun
    split
    · exact hs
    · exact engKeeps_bind (engWrite_copy c hs ..) fun _ _ ht => ih ht ..

theorem readRows_copy (n : Nat) (l : List Nat) : engKeeps k (readRows c n l s) := by
  induction l generalizing s with
  | nil => exact hs
  | cons a l ih =>
    exact engKeeps_bind (readBytes_copy c hs ..) fun _ _ ht => engKeeps_bind (ih ht) fun _ _ hu => hu

theorem gatherElems_copy (n : Nat) (dst : Range) (l : List Nat) (pos : Nat) :
    engKeeps k (gatherElems c n dst l pos s) := by
  induction l generalizing pos s with
  | nil => exact hs
  | cons a l ih =>
    exact engKeeps_bind (readBytes_copy c hs ..) fun _ _ ht => engKeeps_bind (ih ht _) fun _ _ hu => hu

/-- Pieces of work that leave the record leave it when they run one after the other. -/
theorem engAll_copy {l : List (State → Except EngStop (State × Unit))}
    (hl : ∀ f ∈ l, ∀ t : State, t.copy = k → engKeeps k (f t)) : engKeeps k (engAll l s) := by
  induction l generalizing s with
  | nil => exact hs
  | cons f l ih =>
    exact engKeeps_bind (hl f List.mem_cons_self s hs) fun _ _ ht =>
      ih ht fun g hg => hl g (List.mem_cons_of_mem f hg)

theorem writeFree_copy (lo n : Nat) : engKeeps k (writeFree c lo n s) := writeBytes_copy c hs ..

theorem freeRange_copy (r : Range) : engKeeps k (freeRange c r s) := by
  unfold freeRange
  split
  · exact writeFree_copy c hs ..
  · exact hs

theorem unlessHeld_copy {x : Except EngStop (State × Unit)} (hx : engKeeps k x) : engKeeps k (unlessHeld s x) := by
  unfold unlessHeld
  split
  · exact hx
  · exact hs
  · exact hx

/-! ## The work of a command -/

theorem runCopy2_copy : engKeeps k (runCopy2 c s) := by
  simp only [runCopy2]
  split
  · exact engKeeps_bind (readRows_copy c hs ..) fun _ _ ht => writeRun_copy c ht ..
  · refine engAll_copy hs fun f hf t ht => ?_
    obtain ⟨r, -, rfl⟩ := List.mem_map.1 hf
    exact moveBytes_copy c ht ..

theorem runGather_copy : engKeeps k (runGather c s) :=
  engKeeps_bind (readBytes_copy c hs ..) fun _ _ ht =>
    engKeeps_bind (gatherElems_copy c ht ..) fun _ _ hu => writeRun_copy c hu ..

theorem runScatter_copy : engKeeps k (runScatter c s) := by
  refine engKeeps_bind (readBytes_copy c hs ..) fun t d ht => engKeeps_bind (engAll_copy ht fun f hf u hu => ?_)
    fun v _ hv => engAll_copy hv fun f hf u hu => ?_
  · obtain ⟨i, -, rfl⟩ := List.mem_map.1 hf
    dsimp only
    split
    · exact writeFree_copy c hu ..
    · exact moveBytes_copy c hu ..
  · obtain ⟨i, -, hi⟩ := List.mem_flatMap.1 hf
    obtain rfl | rfl : f = _ ∨ f = _ := by simpa using hi
    · exact freeRange_copy c hu _
    · exact freeRange_copy c hu _

theorem warmPages_copy (llc : Bool) : (warmPages llc c s).copy = k := by
  unfold warmPages
  refine List.foldlRecOn (motive := fun t : State => t.copy = k) _ _ hs fun t ht i _ => ?_
  extract_lets va n
  have h := engTranslate_copy ht c.space .load va 1
  split
  next t1 pa hx =>
    rw [hx] at h
    split
    · exact h
    · exact List.foldlRecOn (motive := fun t : State => t.copy = k) _ _ h
        fun u hu _ _ => (warmLine_copy u ..).trans hu
  next => exact ht

theorem runCommand_copy : engKeeps k (runCommand c s) := by
  unfold runCommand
  dsimp only
  split
  · exact moveBytes_copy c hs ..
  · exact runCopy2_copy c hs
  · exact runGather_copy c hs
  · exact runScatter_copy c hs
  · exact writeBytes_copy c hs ..
  · exact warmPages_copy c hs _
  · exact hs

theorem undefineRaced_copy : engKeeps k (undefineRaced c s) :=
  engAll_copy hs fun f hf t ht => by
    obtain ⟨a, -, rfl⟩ := List.mem_map.1 hf
    exact unlessHeld_copy ht (engWriteAt_copy c ht ..)

theorem writeWord_copy (v : Word) : (writeWord c v s).copy = k := by
  have h := engTranslate_copy hs c.space .store c.desc.cw.toNat 8
  unfold writeWord
  split
  · exact hs
  next hx =>
    rw [hx] at h
    exact (engPut_copy ..).trans h

end

end Sys2Proof.Machine

/-! PROOFS. The steps of a copy command in flight (R222, R225, R226, R229 to R231, R237). -/

namespace Sys2Proof.Machine

/-! ## Which steps take place -/

theorem exec_commandStart_none {n : Nat} {s : State} (h : s.copy.cmds.find? (fun c => c.id = n) = none) :
    exec (.copyCommandStart n) s = .next s := by
  change execCopyCommandStart n s = _
  rw [execCopyCommandStart, h]

theorem exec_commandEnd_none {n : Nat} {s : State} (h : s.copy.cmds.find? (fun c => c.id = n) = none) :
    exec (.copyCommandEnd n) s = .next s := by
  change execCopyCommandEnd n s = _
  rw [execCopyCommandEnd, h]

section
variable {n : Nat} {s : State} {c : Cmd} (hfind : s.copy.cmds.find? (fun c => c.id = n) = some c)
include hfind

theorem id_of_found : c.id = n := by simpa using List.find?_some hfind

theorem exec_commandStart (h : canStart s c = true) : exec (.copyCommandStart n) s = .next (startCmd c s) := by
  change execCopyCommandStart n s = _
  rw [execCopyCommandStart, hfind]
  exact if_pos h

theorem exec_commandStart_idle (h : canStart s c = false) : exec (.copyCommandStart n) s = .next s := by
  change execCopyCommandStart n s = _
  rw [execCopyCommandStart, hfind]
  exact if_neg (by rw [h]; exact Bool.false_ne_true)

theorem exec_commandEnd (h : canEnd s c = true) : exec (.copyCommandEnd n) s = .next (endCmd c s) := by
  change execCopyCommandEnd n s = _
  rw [execCopyCommandEnd, hfind]
  exact if_pos h

theorem exec_commandEnd_idle (h : canEnd s c = false) : exec (.copyCommandEnd n) s = .next s := by
  change execCopyCommandEnd n s = _
  rw [execCopyCommandEnd, hfind]
  exact if_neg (by rw [h]; exact Bool.false_ne_true)

/-- A command that has been replaced by one with an outcome has one. -/
theorem putCmd_outcome {t : State} {c1 : Cmd} (ht : t.copy = s.copy) (hid : c1.id = c.id)
    (hout : c1.outcome.isSome = true) :
    (putCmd c1 t).copy.cmds.any (fun y => decide (y.id = n) && y.outcome.isSome) = true := by
  have hc1 : c1.id = n := hid.trans (id_of_found hfind)
  refine List.any_eq_true.2 ⟨c1, List.mem_map.2 ⟨c, ?_, if_pos hid.symm⟩, by simp [hc1, hout]⟩
  rw [ht]
  exact List.mem_of_find?_eq_some hfind

end

/-! ## The start -/

section
variable {c : Cmd} {s s1 : State}

theorem undefineRaced_none (h : c.raced = []) (s : State) : undefineRaced c s = .ok (s, ()) := by
  rw [undefineRaced, h]
  rfl

/-- What a start leaves once the work has led to `s1`, with the command as `c1`: nothing has changed where an undefined
byte has to wait (R224). -/
def startedWith (c c1 : Cmd) (s s1 : State) : State :=
  match undefineRaced c s1 with
  | .ok (s2, _) => putCmd c1 s2
  | .error _ => s

/-- The command once its work is done (R232). -/
def doneCmd (c : Cmd) (s : State) : Cmd := { c with classes := some (classesOf c s), outcome := some (0, 0) }

/-- A start leaves the command with an outcome, or its raced bytes have to wait. -/
theorem startedWith_cases (c1 : Cmd) (h : s1.copy = s.copy) : (c.raced ≠ [] ∧ startedWith c c1 s s1 = s) ∨
    ∃ s2, s2.copy = s.copy ∧ startedWith c c1 s s1 = putCmd c1 s2 := by
  have hraced := undefineRaced_copy c h
  unfold startedWith
  by_cases hnil : c.raced = []
  · rw [undefineRaced_none hnil]
    exact .inr ⟨s1, h, rfl⟩
  · cases hu : undefineRaced c s1 with
    | ok x =>
      rw [hu] at hraced
      exact .inr ⟨x.1, hraced, rfl⟩
    | error e => exact .inl ⟨hnil, rfl⟩

theorem startedWith_unraced (h : c.raced = []) (c1 : Cmd) : startedWith c c1 s s1 = putCmd c1 s1 := by
  rw [startedWith, undefineRaced_none h]

theorem startCmd_done (h : runCommand c s = .ok (s1, ())) : startCmd c s = startedWith c (doneCmd c s) s s1 := by
  unfold startCmd
  rw [h]
  rfl

theorem startCmd_failed {code a : Nat} (h : runCommand c s = .error (code, a, s1)) (hcode : code ≠ 0) :
    startCmd c s = startedWith c { c with outcome := some (code, a) } s s1 := by
  obtain ⟨k, rfl⟩ := Nat.exists_eq_succ_of_ne_zero hcode
  unfold startCmd
  rw [h]
  rfl

theorem startCmd_waits {a : Nat} (h : runCommand c s = .error (0, a, s1)) : startCmd c s = s := by
  unfold startCmd
  rw [h]
  rfl

/-- A start whose accesses need not wait gives the command an outcome. -/
theorem startCmd_outcome {n : Nat} (hfind : s.copy.cmds.find? (fun c => c.id = n) = some c)
    (h : ∀ a u, runCommand c s ≠ .error (0, a, u)) : (c.raced ≠ [] ∧ startCmd c s = s) ∨
      (startCmd c s).copy.cmds.any (fun y => decide (y.id = n) && y.outcome.isSome) = true := by
  have hkeeps := runCommand_copy c (rfl : s.copy = s.copy)
  have hstarted : ∃ c1 s1, c1.id = c.id ∧ c1.outcome.isSome = true ∧ s1.copy = s.copy ∧
      startCmd c s = startedWith c c1 s s1 := by
    cases hrun : runCommand c s with
    | ok x =>
      rw [hrun] at hkeeps
      exact ⟨doneCmd c s, x.1, rfl, rfl, hkeeps, startCmd_done hrun⟩
    | error e =>
      obtain ⟨code, a, u⟩ := e
      rw [hrun] at hkeeps
      exact ⟨{ c with outcome := some (code, a) }, u, rfl, rfl, hkeeps,
        startCmd_failed hrun fun h0 => h a u (h0 ▸ hrun)⟩
  obtain ⟨c1, s1, hid, hout, hs1, hstart⟩ := hstarted
  rw [hstart]
  rcases startedWith_cases c1 hs1 with hwait | ⟨s2, hs2, hput⟩
  · exact .inl hwait
  · rw [hput]
    exact .inr (putCmd_outcome hfind hs2 hid hout)

end

/-! ## A write at the home of the engine's own die -/

section
variable {c : Cmd} {pa : Nat} {d : List Byte} {s : State}

theorem deadHome_of_deliver (h : deliverCode pa s = none) : deadHome s pa = false := by
  unfold deliverCode at h
  split at h
  · cases h
  · split at h
    · cases h
    · exact Bool.eq_false_of_not_eq_true ‹_›

theorem mem_engPut (hlocal : localMem s pa = true) (hdie : homeDie pa = c.core / 64) (hlive : deadHome s pa = false) :
    (engPut c pa d s).mem = memWriteMasked 0xFF s.mem pa d := by
  obtain ⟨hhbm, howner⟩ := ownerOf_localMem hlocal
  simp [engPut, performStoreBy, hlive, isHostWin_hbm hhbm, howner, hlocal, hdie, mem_storeWrite]

theorem engWriteAt_home {va : Nat} (hcode : deliverCode pa s = none) (hlocal : localMem s pa = true)
    (htok : tokensHeld s.coh c.core (lineOf pa) = false) : engWriteAt c va pa d s = .ok (engPut c pa d s, ()) := by
  have hease : easePair pa s = s := by simp [easePair, hlocal]
  unfold engWriteAt
  rw [hcode]
  dsimp only
  rw [hease, engHeld, if_pos hlocal, htok]
  rfl

end

/-! ## A fill within one line -/

section
variable {c : Cmd} {f : Nat → Byte} {base off n : Nat} {s s1 : State}

theorem writeBytes_nothing (fuel off : Nat) (s : State) : writeBytes c f base fuel off 0 s = .ok (s, ()) := by
  cases fuel with
  | zero => rfl
  | succ fuel => exact if_pos rfl

/-- A range within one line is one write. -/
theorem writeBytes_line (hn : 0 < n) (hline : (base + off) % 128 + n ≤ 128)
    (h : engWrite c (base + off) ((List.range n).map fun i => f (off + i)) s = .ok (s1, ())) :
    writeBytes c f base n off n s = .ok (s1, ()) := by
  obtain ⟨m, rfl⟩ : ∃ m, n = m + 1 := ⟨n - 1, by omega⟩
  have hpiece : min (m + 1) (toLine (base + off)) = m + 1 := min_eq_left (by rw [toLine]; omega)
  rw [writeBytes, if_neg (by omega), hpiece]
  dsimp only
  rw [h, ok_bind, Nat.sub_self]
  exact writeBytes_nothing ..

end

/-- The bytes that a fill writes (R225). -/
def fillByte (c : Cmd) (i : Nat) : Byte := BitVec.ofNat 8 (c.desc.p0.toNat / 256 ^ (i % 8))

section
variable {c : Cmd} {s s1 : State} {pa : Nat} (hop : c.op = .fill) (hlen : 0 < c.desc.len.toNat)
  (hline : c.desc.dst.toNat % 128 + c.desc.len.toNat ≤ 128)
  (htr : engTranslate c.space .store c.desc.dst.toNat c.desc.len.toNat s = .ok (s1, pa))
  (hcode : deliverCode pa s1 = none) (hlocal : localMem s1 pa = true)
  (htok : tokensHeld s1.coh c.core (lineOf pa) = false)
include hop hlen hline htr hcode hlocal htok

theorem runCommand_fill : runCommand c s =
    .ok (engPut c pa ((List.range c.desc.len.toNat).map fun i => fillByte c (0 + i)) s1, ()) := by
  unfold runCommand
  rw [hop]
  refine writeBytes_line hlen hline ?_
  rw [engWrite, List.length_map, List.length_range, Nat.add_zero, htr]
  exact engWriteAt_home hcode hlocal htok

/-- A fill within one line leaves the bytes of P0 in turn (R225). -/
theorem memRead_startCmd_fill (hraced : c.raced = []) (hok : s1.memOk) (hdie : homeDie pa = c.core / 64) {i : Nat}
    (hi : i < c.desc.len.toNat) : memRead (startCmd c s).mem (pa + i) = fillByte c i := by
  have hbyte : ((List.range c.desc.len.toNat).map fun i => fillByte c (0 + i))[i]? = some (fillByte c i) := by
    simp [hi]
  rw [startCmd_done (runCommand_fill hop hlen hline htr hcode hlocal htok), startedWith_unraced hraced]
  show memRead (engPut c pa _ s1).mem (pa + i) = _
  rw [mem_engPut hlocal hdie (deadHome_of_deliver hcode), memRead_masked _ _ _ _ _ _ hok hbyte, byte_under_mask]

end

/-! ## A warming of one line -/

/-- A copy stamped with the die's generation is fresh (R241). -/
theorem freshCopy_putCopy (die line : Nat) (d : List Byte) (p : Bool) (v : Option Nat) (c : Coh) :
    freshCopy (putCopy ⟨die, line, d, p, generation c die, v⟩ c) die line =
      some ⟨die, line, d, p, generation c die, v⟩ := by
  have hage : ageOf (putCopy ⟨die, line, d, p, generation c die, v⟩ c) ⟨die, line, d, p, generation c die, v⟩ = 0 :=
    stampAge_generation c die
  have hfind : copyOf (putCopy ⟨die, line, d, p, generation c die, v⟩ c) die line =
      some ⟨die, line, d, p, generation c die, v⟩ :=
    List.find?_cons_of_pos (decide_eq_true ⟨rfl, rfl, by rw [hage]; decide⟩)
  rw [freshCopy, hfind]
  exact Option.filter_some_pos (decide_eq_true hage)

theorem freshCopy_warmLine {core line : Nat} {s : State} (hlocal : localMem s (line * 128) = true)
    (hdie : homeDie (line * 128) ≠ core / 64) (htok : tokensHeld s.coh core line = false)
    (hlive : deadHome s (line * 128) = false) :
    ∃ x, freshCopy (warmLine core line s).coh (core / 64) line = some x := by
  unfold warmLine
  cases hfresh : freshCopy s.coh (core / 64) line with
  | some x => exact ⟨x, by simp [hfresh]⟩
  | none =>
    simp only [hlocal, hdie, hfresh, htok, hlive]
    exact ⟨_, freshCopy_putCopy ..⟩

section
variable {c : Cmd} {s s1 : State} {pa : Nat} (hlen : 0 < c.desc.len.toNat)
  (hline : c.desc.src.toNat % 128 + c.desc.len.toNat ≤ 128)
  (htr : engTranslate c.space .load c.desc.src.toNat 1 s = .ok (s1, pa)) (hpa : pa % 128 = c.desc.src.toNat % 128)
include hlen hline htr hpa

/-- A warming of bytes of one line brings in that line alone. -/
theorem warmPages_line : warmPages false c s = warmLine c.core (lineOf pa) s1 := by
  have hpages : (c.desc.src.toNat + c.desc.len.toNat + 4095) / 4096 - c.desc.src.toNat / 4096 = 1 := by omega
  have hva : max c.desc.src.toNat ((c.desc.src.toNat / 4096 + 0) * 4096) = c.desc.src.toNat := by omega
  have hend : min (c.desc.src.toNat + c.desc.len.toNat) ((c.desc.src.toNat / 4096 + 0 + 1) * 4096) -
      c.desc.src.toNat = c.desc.len.toNat := by omega
  have hlines : lineOf (pa + c.desc.len.toNat - 1) + 1 - lineOf pa = 1 := by
    simp only [lineOf]
    omega
  simp only [warmPages, hpages, List.range_one, List.foldl_cons, List.foldl_nil, hva, htr, hend, hlines]
  rfl

/-- Afterwards the issuing die has a fresh copy of the line (R226, R237). -/
theorem freshCopy_startCmd_warm (hop : c.op = .warm false) (hraced : c.raced = [])
    (hlocal : localMem s1 (lineOf pa * 128) = true) (hdie : homeDie (lineOf pa * 128) ≠ c.core / 64)
    (htok : tokensHeld s1.coh c.core (lineOf pa) = false) (hlive : deadHome s1 (lineOf pa * 128) = false) :
    ∃ x, freshCopy (startCmd c s).coh (c.core / 64) (lineOf pa) = some x := by
  have hrun : runCommand c s = .ok (warmLine c.core (lineOf pa) s1, ()) := by
    unfold runCommand
    rw [hop]
    dsimp only
    rw [warmPages_line hlen hline htr hpa]
  rw [startCmd_done hrun, startedWith_unraced hraced]
  exact freshCopy_warmLine hlocal hdie htok hlive

end

/-! ## The end -/

section
variable {c : Cmd} {s : State}

theorem endCmd_scrambles (hend : canEnd s c = true) (h : c.scrambles = true) : endCmd c s = scrambleCmd c s := by
  cases hout : c.outcome with
  | none => simp [canEnd, hout] at hend
  | some x =>
    rw [endCmd, hout]
    exact if_pos h

theorem endCmd_finishes {code addr : Nat} (hout : c.outcome = some (code, addr)) (h : c.scrambles = false) :
    endCmd c s = finishCmd c code addr s := by
  rw [endCmd, hout]
  exact if_neg (by rw [h]; exact Bool.false_ne_true)

theorem scrambleCmd_waits {e : EngStop} (h : scrambleDst c s = .error e) : scrambleCmd c s = s := by
  rw [scrambleCmd, h]

theorem scrambleCmd_done {s1 : State} (h : scrambleDst c s = .ok (s1, ())) :
    scrambleCmd c s = putCmd { c with scrambles := false } s1 := by
  rw [scrambleCmd, h]

/-- The state in which a command and its locks are gone (R230). -/
def withoutCmd (c : Cmd) (s : State) : State :=
  { s with
    copy.cmds := s.copy.cmds.filter (fun x => x.id ≠ c.id)
    copy.locks := s.copy.locks.filter (fun l => l.cmd ≠ c.id) }

theorem finishCmd_eq (code addr : Nat) : finishCmd c code addr s =
    if c.cw.isNone then withoutCmd c s else writeWord c (completionWord code addr) (withoutCmd c s) := rfl

theorem finishCmd_copy (code addr : Nat) : (finishCmd c code addr s).copy = (withoutCmd c s).copy := by
  rw [finishCmd_eq]
  split
  · rfl
  · exact writeWord_copy c rfl _

/-- A completion word that this die's home holds reads as the code (R230). -/
theorem memReadN_finishCmd {s1 : State} {pa : Nat} {code addr : Nat} (hcw : c.cw.isSome = true)
    (htr : engTranslate c.space .store c.desc.cw.toNat 8 (withoutCmd c s) = .ok (s1, pa)) (hok : s1.memOk)
    (hlive : deadHome s1 pa = false) (hlocal : localMem s1 pa = true) (hdie : homeDie pa = c.core / 64) :
    memReadN (finishCmd c code addr s).mem pa 8 = bytesOfNat 8 (code % 256 + codeAddr code addr * 256) := by
  have hword : bytesOfWord 8 (completionWord code addr) = bytesOfNat 8 (code % 256 + codeAddr code addr * 256) :=
    bytesOfNat_ofNat 8 _
  have hnone : c.cw.isNone = false := Option.isNone_eq_false_iff.2 hcw
  rw [finishCmd_eq, hnone, if_neg Bool.false_ne_true, writeWord, htr]
  dsimp only
  rw [mem_engPut hlocal hdie hlive, hword, memReadN_bytesOfNat 8 _ pa hok]

end

end Sys2Proof.Machine

/-! PROOFS. Gangs that are granted and stalled `TMMA`s that go on (R161, R180, R365). -/

namespace Sys2Proof.Machine

/-! ## Gangs -/

theorem exec_gangGrant {s : State} {g : Nat} {l : List Nat} (h : s.ctx.aux.sent = .gang g l) :
    exec .gangGrant s = .next
      { s with ctx.aux.sent := if gangAccepted s g then .gangGranted g else .gang g (acceptances s g l) } := by
  change execGangGrant s = _
  rw [execGangGrant, h]
  by_cases ha : gangAccepted s g = true
  · simp only [if_pos ha]
  · simp only [if_neg ha]

/-! ## The instruction at the program counter -/

theorem runTmmaAtPc_tmma {fm : Form} {pr : Pair} {wide : Bool} {n fs d a b : Nat} {s s1 : State}
    (h : fetchDecode s = .exec (.tmma fm pr wide n fs d a b) s1) :
    runTmmaAtPc s = exec (.tmma fm pr wide n fs d a b) s1 := by
  rw [runTmmaAtPc, h]
  rfl

theorem runTmmaAtPc_next (s : State) : ∃ t, runTmmaAtPc s = .next t := by
  unfold runTmmaAtPc
  split
  · exact runRep_next ..
  · exact runRep_next ..
  · exact ⟨s, rfl⟩

/-! ## What has been sent once an instruction has retired -/

theorem deliver_sent (c d : Nat) (v pc : Word) (s : State) : (deliver c d v pc s).ctx.aux.sent = .nothing := by
  rw [deliver_eq]
  split
  · rfl
  · split
    · rfl
    · simp only [enter_frame, interrupted]

theorem completes_sent (fm : Form) (len j : Nat) (s : State) : (completes fm len j s).ctx.aux.sent = .nothing := by
  unfold completes
  split
  · rfl
  · unfold retire retireTo
    dsimp only
    split
    · exact deliver_sent ..
    · rfl

/-! ## Stalls -/

section
variable {s : State} {x since used : Nat} {held : List Nat} (hsent : s.ctx.aux.sent = .stall x since used held)
include hsent

theorem exec_stallResume (h : stallEnds s = true) : exec .cellarStallResume s =
    .next { s with ctx.aux.sent := .resumed (used + (s.cyc - since)) held } := by
  have hused : stallUsed s = used + (s.cyc - since) := by rw [stallUsed, hsent]
  change execCellarStallResume s = _
  rw [execCellarStallResume, hsent, ← hused]
  exact if_pos h

theorem exec_stallResume_idle (h : stallEnds s = false) : exec .cellarStallResume s = .next s := by
  change execCellarStallResume s = _
  rw [execCellarStallResume, hsent]
  exact if_neg (by rw [h]; exact Bool.false_ne_true)

theorem exec_stallTimeout : exec .cellarStallTimeout s = runTmmaAtPc { s with ctx.aux.sent := .timedOut x } := by
  change execCellarStallTimeout s = _
  rw [execCellarStallTimeout, hsent]

end

/-- A stall ends where the instruction, executed again, completes. -/
theorem stallEnds_of_completes {fm : Form} {len j : Nat} {s t : State}
    (h : runTmmaAtPc s = .next (completes fm len j t)) : stallEnds s = true := by
  rw [stallEnds, h]
  dsimp only
  rw [completes_sent]

section
variable {fm : Form} {pr : Pair} {wide : Bool} {n fs d a b j k : Nat} {s : State}

/-- A `TMMA` of integers completes where every carry finds room and no fault hits it (R180, R377). -/
theorem exec_tmma_room (hs : startAt fm s = some (j, k)) (h : tileReady s)
    (hc : clean s ((if fs = 0 then [] else [.f fs]) ++ [.ctl 0x002]) = true) (hint : pairTag pr = .int)
    (hsent : ∀ y, s.ctx.aux.sent ≠ .timedOut y) :
    let o := tmmaOp pr wide false n fs (fm.d j d) (fm.a j a) (fm.b j b) s
    tmmaIll o (fm.a j a) (fm.b j b) = false → tmmaPoisoned o = false →
      stuckAt (runTmmaOp o).takes (freeByBand s) = none → faultFree s o (runTmmaOp o) = true →
      ∃ t, exec (.tmma fm pr wide n fs d a b) s = .next (completes fm (fm.len 24) j t) := fun hill hbad hst hfree =>
  ⟨_, (show exec _ s = execTmma fm pr wide n fs d a b s from rfl).trans
    (runRep_ok hs (tmmaBody_retires h hc hill hbad hsent hst hfree (.inl hint)))⟩

end

theorem exec_tmmaComplete {s : State} {used : Nat} {held : List Nat} (h : s.ctx.aux.sent = .resumed used held) :
    exec .tmmaComplete s = runTmmaAtPc s := by
  change execTmmaComplete s = _
  rw [execTmmaComplete, h]

/-- Where no tile work waits, none of its events changes anything. -/
theorem tileEvents_idle {s : State} (h : s.ctx.aux.sent = .nothing) :
    exec .gangGrant s = .next s ∧ exec .cellarStallResume s = .next s ∧
      exec .cellarStallTimeout s = .next s ∧ exec .tmmaComplete s = .next s := by
  change execGangGrant s = _ ∧ execCellarStallResume s = _ ∧ execCellarStallTimeout s = _ ∧ execTmmaComplete s = _
  simp only [execGangGrant, execCellarStallResume, execCellarStallTimeout, execTmmaComplete, h, and_self]

/-- Settles O29: each step of a command by what it leaves (`startCmd_outcome`, `memRead_startCmd_fill`,
`freshCopy_startCmd_warm`, `finishCmd_copy`, `memReadN_finishCmd`), each event of tile work by its equation. -/
theorem engineEvents : Obligations.EngineEvents := by
  unfold Obligations.EngineEvents
  refine ⟨fun n s => ⟨fun h => ⟨exec_commandStart_none h, exec_commandEnd_none h⟩, fun c hfind =>
    ⟨exec_commandStart_idle hfind, exec_commandEnd_idle hfind, fun h => ⟨_, exec_commandStart hfind h,
      startCmd_outcome hfind, ?_, ?_⟩, fun h pa s1 hop hraced hlen hline htr hpa hlocal hdie htok hlive => ?_,
      fun hscr h => ⟨_, exec_commandEnd hfind h, ?_, fun s1 hdst => ?_⟩,
      fun code addr hout hscr h => ⟨_, exec_commandEnd hfind h, ?_, ?_, fun s1 pa hcw htr hok hlive hlocal hdie => ?_⟩⟩⟩,
    fun s => ⟨fun g l => exec_gangGrant, fun x since used held hsent => ?_, fun used held hsent => ?_,
      tileEvents_idle⟩⟩
  · rintro ⟨a, u, hrun⟩
    exact startCmd_waits hrun
  · intro pa s1 hop hraced hok hlen hline _ htr hmem hcode _ hlocal hdie htok i hi
    exact memRead_startCmd_fill hop hlen hline htr hcode hlocal htok hraced (memOk_of_mem hmem hok) hdie hi
  · obtain ⟨x, hx⟩ := freshCopy_startCmd_warm hlen hline htr hpa hop hraced hlocal hdie htok hlive
    exact ⟨_, x, exec_commandStart hfind h, hx⟩
  · rintro ⟨a, u, hdst⟩
    rw [endCmd_scrambles h hscr, scrambleCmd_waits hdst]
  · rw [endCmd_scrambles h hscr, scrambleCmd_done hdst]
    exact ⟨rfl, rfl⟩
  · rw [endCmd_finishes hout hscr, finishCmd_copy, ← id_of_found hfind]
    exact fun y hy => of_decide_eq_true (List.mem_filter.1 hy).2
  · rw [endCmd_finishes hout hscr, finishCmd_copy, ← id_of_found hfind]
    exact fun l hl => of_decide_eq_true (List.mem_filter.1 hl).2
  · rw [endCmd_finishes hout hscr]
    exact memReadN_finishCmd hcw htr hok hlive hlocal hdie
  · obtain ⟨t, ht⟩ := runTmmaAtPc_next { s with ctx.aux.sent := .timedOut x }
    refine ⟨fun fm pr wide n fs d a b s1 j k hfetch hsame hs hready hc hint hill hbad hst hfree => ?_,
      exec_stallResume hsent, exec_stallResume_idle hsent, t, (exec_stallTimeout hsent).trans ht,
      fun fm pr wide n fs d a b s1 hfetch => (runTmmaAtPc_tmma hfetch).symm.trans ht⟩
    have hstalled (y : Nat) : s1.ctx.aux.sent ≠ .timedOut y := by rw [hsame, hsent]; nofun
    obtain ⟨u, hu⟩ := exec_tmma_room hs hready hc hint hstalled hill hbad hst hfree
    exact exec_stallResume hsent (stallEnds_of_completes ((runTmmaAtPc_tmma hfetch).trans hu))
  · obtain ⟨t, ht⟩ := runTmmaAtPc_next s
    exact ⟨t, (exec_tmmaComplete hsent).trans ht, fun fm pr wide n fs d a b s1 hfetch =>
      (runTmmaAtPc_tmma hfetch).symm.trans ht⟩

end Sys2Proof.Machine

/-! PROOFS. Vector instructions that run, what a row write leaves, and the arithmetic of lanes (R197 to R202, R204,
R205, R211). -/

namespace Sys2Proof.Machine

/-! ## A vector instruction that runs -/

section
variable {t : Tag} {typed wide rows : List Nat} {loose : Bool} {dest : Option Nat} {src : List Src} {s : State}

/-- The checks of a vector instruction pass, and its effect follows (R88, R197, R202). -/
theorem vecRun_ok {ok : Tag → Bool} (h : vecRuns s t typed wide loose dest rows src) (hok : ok t = true)
    (body : Tag → State → Run) : vecRun typed wide loose dest ok src body s = body t s := by
  obtain ⟨hready, htype, hdest, hclean, -⟩ := h
  have htag : ((dest.map (fun d => decide ((s.ctx.acc (windowAcc s d)).tag = .int))).getD false || !ok t) = false := by
    cases dest with
    | none => simp [hok]
    | some d => simp [hok, hdest d rfl]
  unfold vecRun
  rw [hready.1, ok_bind, htype]
  dsimp only
  rw [htag, if_neg Bool.false_ne_true, srcFcsr, need_ok hclean, ok_bind, granted_ok hready, ok_bind]

/-- No row that the instruction reads is poisoned (R202). -/
theorem vecRuns_rows (h : vecRuns s t typed wide loose dest rows src) :
    ∀ e, e < s.ctx.aux.gang → ∀ f ∈ rows, rowBad s f e = false := by
  obtain ⟨-, -, -, -, hrows⟩ := h
  exact hrows

theorem rowBad_any_false {srcs : List Nat} (h : ∀ e, e < s.ctx.aux.gang → ∀ f ∈ srcs, rowBad s f e = false) :
    (bandsOf s).any (fun e => srcs.any (fun f => rowBad s f e)) = false := by
  simpa [bandsOf] using h

end

/-- Repeat `j` of `i` completes with the lanes `row e` in row `d` of each band and the flags of the active lanes, where
none of these is enabled (R199 to R201). -/
def rowGives (fm : Form) (page j : Nat) (t : Tag) (d : Nat) (s : State) (z : Bool) (act : List Bool)
    (row : Nat → List Lane) (i : Instr) : Prop :=
  let rs := (List.range s.ctx.aux.gang).map row
  rowFlags act rs &&& bits s.ctx.ctl.fcsr 16 5 = 0 →
  exec i s = .next (completes fm (fm.len page) j (orFlags (rowFlags act rs) (vecWrite t d (rs.map (chosen z act)) s)))

section
variable {fm : Form} {page j m d : Nat} {t : Tag} {s : State} {z : Bool} {act : List Bool} {srcs : List Nat}
  {op : List (List Lane) → List Lane} {row : Nat → List Lane} {i : Instr} {body : Nat → Nat → State → Run}

theorem vecEach_ok (hrows : ∀ e, e < s.ctx.aux.gang → ∀ f ∈ srcs, rowBad s f e = false)
    (hrow : ∀ e, op (srcs.map (fun f => laneRow s t.cols f e)) = row e)
    (hfl : rowFlags act ((List.range s.ctx.aux.gang).map row) &&& trapEnables s = 0) :
    vecEach t z act d srcs op s = .ok (orFlags (rowFlags act ((List.range s.ctx.aux.gang).map row))
      (vecWrite t d (((List.range s.ctx.aux.gang).map row).map (chosen z act)) s)) := by
  unfold vecEach
  rw [rowBad_any_false hrows, if_neg Bool.false_ne_true]
  simp only [hrow]
  exact fpRetire_ok hfl

theorem rowGives_of_vecEach (hs : startAt fm s = some (j, m)) (hx : exec i s = runRep fm (fm.len page) body s)
    (hb : body j m s = vecEach t z act d srcs op s)
    (hrows : ∀ e, e < s.ctx.aux.gang → ∀ f ∈ srcs, rowBad s f e = false)
    (hrow : ∀ e, op (srcs.map (fun f => laneRow s t.cols f e)) = row e) :
    rowGives fm page j t d s z act row i := fun hfl =>
  hx.trans (runRep_ok hs (hb.trans (vecEach_ok hrows hrow hfl)))

end

section
variable {fm : Form} {page j m k d a b : Nat} {t : Tag} {s : State} {z loose : Bool} {ok : Tag → Bool} {i : Instr}
  {row : Nat → List Lane} (hs : startAt fm s = some (j, m))

include hs

/-- An instruction on two vector sources. -/
theorem rowGives_vec3 {op : Tag → State → List (List Lane) → List Lane}
    (hx : exec i s = vec3 fm page z k d a b loose false ok op s)
    (h : vecRuns s t [fm.d j d, fm.a j a, fm.b j b] [] loose (some (fm.d j d)) [fm.a j a, fm.b j b] [.m k])
    (hok : ok t = true)
    (hrow : ∀ e, op t s [laneRow s t.cols (fm.a j a) e, laneRow s t.cols (fm.b j b) e] = row e) :
    rowGives fm page j t (fm.d j d) s z (activeLanes s k t.cols) row i :=
  rowGives_of_vecEach hs hx (vecRun_ok h hok _) (vecRuns_rows h) hrow

/-- An instruction on two vector sources and its destination. -/
theorem rowGives_vec3_dest {op : Tag → State → List (List Lane) → List Lane}
    (hx : exec i s = vec3 fm page z k d a b loose true ok op s)
    (h : vecRuns s t [fm.d j d, fm.a j a, fm.b j b] [] loose (some (fm.d j d)) [fm.a j a, fm.b j b] [.m k])
    (hdest : ∀ e, e < s.ctx.aux.gang → rowBad s (fm.d j d) e = false) (hok : ok t = true)
    (hrow : ∀ e, op t s [laneRow s t.cols (fm.a j a) e, laneRow s t.cols (fm.b j b) e,
      laneRow s t.cols (fm.d j d) e] = row e) :
    rowGives fm page j t (fm.d j d) s z (activeLanes s k t.cols) row i := by
  have hthree : ∀ e, e < s.ctx.aux.gang → ∀ f ∈ [fm.a j a, fm.b j b, fm.d j d], rowBad s f e = false := fun e he =>
    List.forall_mem_append.2 ⟨vecRuns_rows h e he, List.forall_mem_singleton.2 (hdest e he)⟩
  exact rowGives_of_vecEach hs hx (vecRun_ok h hok _) hthree hrow

/-- An instruction on one vector source. -/
theorem rowGives_vec2 {src : Nat → State → List Src} {op : Nat → State → Tag → State → List (List Lane) → List Lane}
    (hx : exec i s = runRep fm (fm.len page) (fun j _ s => vec2 fm page z k d a ok (src j s) (op j s) j s) s)
    (h : vecRuns s t [fm.d j d, fm.a j a] [] false (some (fm.d j d)) [fm.a j a] (.m k :: src j s)) (hok : ok t = true)
    (hrow : ∀ e, op j s t s [laneRow s t.cols (fm.a j a) e] = row e) :
    rowGives fm page j t (fm.d j d) s z (activeLanes s k t.cols) row i :=
  rowGives_of_vecEach hs hx (vecRun_ok h hok _) (vecRuns_rows h) hrow

end

/-! ## What a row write leaves -/

section
variable {α : Type}

theorem getElem?_setPad_same (d : α) (n : Nat) (x : α) (l : List α) : (setPad d n x l)[n]? = some x := by
  induction n generalizing l with
  | zero => cases l <;> rfl
  | succ n ih => cases l <;> simpa [setPad] using ih _

/-- Elsewhere a list reads as before, its default where it was shorter. -/
theorem getD_setPad_ne (d : α) {n p : Nat} (x : α) (l : List α) (h : p ≠ n) :
    ((setPad d n x l)[p]?).getD d = (l[p]?).getD d := by
  induction n generalizing l p with
  | zero =>
    obtain ⟨q, rfl⟩ := Nat.exists_eq_succ_of_ne_zero h
    cases l <;> simp [setPad]
  | succ n ih =>
    cases p with
    | zero => cases l <;> simp [setPad]
    | succ p =>
      have hp : p ≠ n := fun hn => h (congrArg Nat.succ hn)
      cases l with
      | nil => exact ih [] hp
      | cons y l => exact ih l hp

end

theorem cellAt_setPad_same (r i : Nat) (x : List Word) (b : List (List Word)) :
    cellAt (setPad [] r x b) r i = (x[i]?).getD 0 := by rw [cellAt, getElem?_setPad_same]; rfl

theorem cellAt_setPad_ne {r p : Nat} (i : Nat) (x : List Word) (b : List (List Word)) (h : p ≠ r) :
    cellAt (setPad [] r x b) p i = cellAt b p i := by rw [cellAt, getD_setPad_ne _ _ _ h, cellAt]

theorem cellAt_trimBand (a : Acc) (e p i : Nat) :
    cellAt (trimBand a e) p i = if p < a.rext ∧ i < a.cext then cellAt (a.band e) p i else 0 := by
  unfold cellAt trimBand
  by_cases hp : p < a.rext
  · rw [List.getElem?_map, List.getElem?_take_of_lt hp]
    by_cases hi : i < a.cext
    · cases (a.band e)[p]? <;> simp [hp, hi]
    · cases (a.band e)[p]? <;> simp [hi]
  · simp [hp]

theorem getD_mergeRow {n i : Nat} (old : List Word) (out : List (Option Nat)) (h : i < n) :
    ((mergeRow n old out)[i]?).getD 0 =
      match (out[i]?).getD none with
      | some v => BitVec.ofNat 64 v
      | none => (old[i]?).getD 0 := by
  rw [mergeRow, List.getElem?_map, List.getElem?_range h]
  rfl

theorem windowAcc_lt (s : State) (f : Nat) : windowAcc s f < 8 := Nat.mod_lt _ (by decide)

section
variable (t : Tag) (f : Nat) (outs : List (List (Option Nat))) (s : State)

theorem acc_vecWrite_other {n : Nat} (h : n ≠ windowAcc s f) : (vecWrite t f outs s).ctx.acc n = s.ctx.acc n :=
  getD_setIfInBounds_ne _ _ _ h

/-- The accumulator that a row write leaves: its lane type, its extent and, band by band, the row replaced. -/
theorem acc_vecWrite :
    let a := s.ctx.acc (windowAcc s f)
    let b := (vecWrite t f outs s).ctx.acc (windowAcc s f)
    b.tag = (if a.tag = .empty then t else a.tag) ∧ b.rext = max a.rext (f % 64 + 1) ∧ b.cext = t.cols ∧
    ∀ e, e < s.ctx.aux.gang → b.band e = (outs[e]?).elim (trimBand a e) (fun o =>
      setPad [] (f % 64) (mergeRow t.cols (((trimBand a e)[f % 64]?).getD []) o) (trimBand a e)) := by
  intro a b
  have hb : b = _ := (acc_putAcc (windowAcc_lt s f) ..).trans (if_pos rfl)
  rw [hb]
  refine ⟨rfl, rfl, rfl, fun e he => ?_⟩
  rw [Acc.band, List.getElem?_map, List.getElem?_range he, Option.map_some, Option.getD_some]
  cases outs[e]? <;> rfl

end

/-- A lane that is written takes its value, and another keeps its cell (R198 to R200). -/
theorem cellAt_vecWrite_row {t : Tag} {f e i : Nat} {outs : List (List (Option Nat))} {o : List (Option Nat)}
    {s : State} (he : e < s.ctx.aux.gang) (ho : outs[e]? = some o) (hi : i < t.cols) :
    let a := s.ctx.acc (windowAcc s f)
    cellAt (((vecWrite t f outs s).ctx.acc (windowAcc s f)).band e) (f % 64) i =
      match (o[i]?).getD none with
      | some v => BitVec.ofNat 64 v
      | none => if f % 64 < a.rext ∧ i < a.cext then cellAt (a.band e) (f % 64) i else 0 := by
  obtain ⟨-, -, -, hband⟩ := acc_vecWrite t f outs s
  rw [hband e he, ho, Option.elim_some, cellAt_setPad_same, getD_mergeRow _ _ hi]
  cases (o[i]?).getD none with
  | some v => rfl
  | none => exact cellAt_trimBand ..

/-- Every other row within the extent is as it was. -/
theorem cellAt_vecWrite_other {t : Tag} {f e p i : Nat} {outs : List (List (Option Nat))} {s : State}
    (he : e < s.ctx.aux.gang) (hp : p ≠ f % 64) (hrow : p < (s.ctx.acc (windowAcc s f)).rext)
    (hcol : i < (s.ctx.acc (windowAcc s f)).cext) :
    cellAt (((vecWrite t f outs s).ctx.acc (windowAcc s f)).band e) p i =
      cellAt ((s.ctx.acc (windowAcc s f)).band e) p i := by
  obtain ⟨-, -, -, hband⟩ := acc_vecWrite t f outs s
  have htrim := cellAt_trimBand (s.ctx.acc (windowAcc s f)) e p i
  rw [if_pos ⟨hrow, hcol⟩] at htrim
  rw [hband e he]
  cases outs[e]? with
  | none => exact htrim
  | some o => exact (cellAt_setPad_ne _ _ _ hp).trans htrim

/-! ## Lanes -/

/-- An operation on two lanes: that of their float format, or else that of 32-bit words (R201, R204). -/
def laneOp2 (t : Tag) (ff : EFmt → Nat → Nat → FRes) (fi : BitVec 32 → BitVec 32 → BitVec 32) (x y : Lane) : Lane :=
  match tagFmt t with
  | some f => ((ff f x.1 y.1).bits, (ff f x.1 y.1).flags ||| x.2 ||| y.2)
  | none => ((fi (BitVec.ofNat 32 x.1) (BitVec.ofNat 32 y.1)).toNat, x.2 ||| y.2)

/-- An operation on one lane. -/
def laneOp1 (t : Tag) (ff : EFmt → Nat → Lane) (fi : BitVec 32 → BitVec 32) (x : Lane) : Lane :=
  match tagFmt t with
  | some f => ((ff f x.1).1, (ff f x.1).2 ||| x.2)
  | none => ((fi (BitVec.ofNat 32 x.1)).toNat, x.2)

/-- A product of two lanes with a third added or subtracted. -/
def laneOp3 (t : Tag) (c : FpCtl) (sub : Bool) (x y w : Lane) : Lane :=
  match tagFmt t with
  | some f =>
    let r := f.fmaR c false sub x.1 y.1 w.1
    (r.bits, r.flags ||| x.2 ||| y.2 ||| w.2)
  | none =>
    let q := BitVec.ofNat 32 x.1 * BitVec.ofNat 32 y.1
    let v := BitVec.ofNat 32 w.1
    ((if sub then q - v else q + v).toNat, x.2 ||| y.2 ||| w.2)

theorem wrap32_eq (i : Int) : wrap32 i = (BitVec.ofInt 32 i).toNat := (BitVec.toNat_ofInt ..).symm

theorem ofInt_natAbs {n : Nat} (x : BitVec n) : BitVec.ofInt n x.toInt.natAbs = if x.msb then -x else x := by
  rw [BitVec.msb_eq_toInt]
  by_cases h : x.toInt < 0
  · rw [if_pos (decide_eq_true h), Int.ofNat_natAbs_of_nonpos h.le, BitVec.ofInt_neg, BitVec.ofInt_toInt]
  · rw [if_neg (by simpa using h), Int.natAbs_of_nonneg (not_lt.1 h), BitVec.ofInt_toInt]

section
variable (t : Tag) (c : FpCtl)

theorem laneBin_eq (ff : EFmt → FpCtl → Nat → Nat → FRes) {fi : Int → Int → Int}
    {gi : BitVec 32 → BitVec 32 → BitVec 32} (h : ∀ x y : BitVec 32, BitVec.ofInt 32 (fi x.toInt y.toInt) = gi x y) :
    laneBin t c ff fi = laneOp2 t (fun f => ff f c) gi := by
  funext x y
  unfold laneBin laneOp2
  cases tagFmt t with
  | some f => rfl
  | none => simp only [wrap32_eq, sext_eq_toInt, h]

theorem laneUn_eq (ff : EFmt → Nat → Nat) {fi : Int → Int} {gi : BitVec 32 → BitVec 32}
    (h : ∀ x : BitVec 32, BitVec.ofInt 32 (fi x.toInt) = gi x) :
    laneUn t ff fi = laneOp1 t (fun f x => (ff f x, 0)) gi := by
  funext x
  unfold laneUn laneOp1
  cases tagFmt t with
  | some f => simp only [Nat.zero_or]
  | none => simp only [wrap32_eq, sext_eq_toInt, h]

theorem laneFma_eq (sub : Bool) : laneFma t c sub = laneOp3 t c sub := by
  funext x y w
  unfold laneFma laneOp3
  cases tagFmt t with
  | some f => rfl
  | none => simp only [wrap32_eq, sext_eq_toInt, apply_ite (BitVec.ofInt 32), ofInt_sub, BitVec.ofInt_add,
      BitVec.ofInt_mul, BitVec.ofInt_toInt]

theorem laneApprox_eq {t : Tag} (ff : EFmt → FpCtl → Nat → FRes) (h : (tagFmt t).isSome = true) :
    laneApprox t c ff = laneOp1 t (fun f x => ((ff f c x).bits, (ff f c x).flags)) id := by
  obtain ⟨f, hf⟩ := Option.isSome_iff_exists.1 h
  funext x
  simp only [laneApprox, laneOp1, hf]

end

/-- A shift to the left counts modulo 32 and drops what leaves the lane (R205). -/
theorem shl_lane : (fun x y : Lane => (x.1 * 2 ^ (y.1 % 32) % 2 ^ 32, x.2 ||| y.2)) =
    laneOp2 .i32 (fun _ _ _ => ⟨0, 0⟩) (fun x y => x <<< (y.toNat % 32)) := by
  funext x y
  have hamt : (BitVec.ofNat 32 y.1).toNat % 32 = y.1 % 32 := by rw [BitVec.toNat_ofNat]; omega
  change _ = ((BitVec.ofNat 32 x.1 <<< ((BitVec.ofNat 32 y.1).toNat % 32)).toNat, x.2 ||| y.2)
  rw [hamt, BitVec.toNat_shiftLeft, BitVec.toNat_ofNat, Nat.shiftLeft_eq, Nat.mod_mul_mod]

theorem shr_lane : (fun x y : Lane => (wrap32 (sext x.1 32 / 2 ^ (y.1 % 32)), x.2 ||| y.2)) =
    laneOp2 .i32 (fun _ _ _ => ⟨0, 0⟩) (fun x y => x.sshiftRight (y.toNat % 32)) := by
  funext x y
  have hamt : (BitVec.ofNat 32 y.1).toNat % 32 = y.1 % 32 := by rw [BitVec.toNat_ofNat]; omega
  change _ = (((BitVec.ofNat 32 x.1).sshiftRight ((BitVec.ofNat 32 y.1).toNat % 32)).toNat, x.2 ||| y.2)
  rw [hamt, wrap32_eq, sext_eq_toInt, ofInt_sshiftRight]

/-! ## Arithmetic -/

section
variable {fm : Form} {j m k d a b : Nat} {t : Tag} {s : State} {z : Bool} {i : Instr} (hs : startAt fm s = some (j, m))

include hs

theorem rowGives_vecArith {ff : EFmt → FpCtl → Nat → Nat → FRes} {fi : Int → Int → Int}
    {gi : BitVec 32 → BitVec 32 → BitVec 32} (hx : exec i s = vecArith fm z k d a b ff fi s)
    (h : vecRuns s t [fm.d j d, fm.a j a, fm.b j b] [] false (some (fm.d j d)) [fm.a j a, fm.b j b] [.m k])
    (hi : ∀ x y : BitVec 32, BitVec.ofInt 32 (fi x.toInt y.toInt) = gi x y) :
    rowGives fm 16 j t (fm.d j d) s z (activeLanes s k t.cols) (fun e =>
      List.zipWith (laneOp2 t (fun f => ff f (fcsrCtl 0 s)) gi) (laneRow s t.cols (fm.a j a) e)
        (laneRow s t.cols (fm.b j b) e)) i :=
  rowGives_vec3 hs hx h rfl fun e => by rw [lanes2, laneBin_eq _ _ ff hi]

theorem rowGives_vecFma (sub : Bool)
    (hx : exec i s = vec3 fm 16 z k d a b false true anyTag (fun t s => lanes3 (laneFma t (fcsrCtl 0 s) sub)) s)
    (h : vecRuns s t [fm.d j d, fm.a j a, fm.b j b] [] false (some (fm.d j d)) [fm.a j a, fm.b j b] [.m k])
    (hdest : ∀ e, e < s.ctx.aux.gang → rowBad s (fm.d j d) e = false) :
    rowGives fm 16 j t (fm.d j d) s z (activeLanes s k t.cols) (fun e =>
      List.zipWith (fun (p : Lane × Lane) w => laneOp3 t (fcsrCtl 0 s) sub p.1 p.2 w)
        (List.zip (laneRow s t.cols (fm.a j a) e) (laneRow s t.cols (fm.b j b) e)) (laneRow s t.cols (fm.d j d) e)) i :=
  rowGives_vec3_dest hs hx h hdest rfl fun e => by rw [lanes3, laneFma_eq]

/-- The logical instructions take lanes as bits (R205). -/
theorem rowGives_vecLogic (f : Nat → Nat → Nat) (hx : exec i s = vecLogic fm z k d a b f s)
    (h : vecRuns s t [fm.d j d, fm.a j a, fm.b j b] [] true (some (fm.d j d)) [fm.a j a, fm.b j b] [.m k]) :
    rowGives fm 17 j t (fm.d j d) s z (activeLanes s k t.cols) (fun e =>
      List.zipWith (fun x y => (f x.1 y.1, x.2 ||| y.2)) (laneRow s t.cols (fm.a j a) e)
        (laneRow s t.cols (fm.b j b) e)) i :=
  rowGives_vec3 hs hx h rfl fun _ => rfl

theorem rowGives_vecShift {op : Lane → Lane → Lane} {gi : BitVec 32 → BitVec 32 → BitVec 32} (ht : t = .i32)
    (hx : exec i s = vec3 fm 17 z k d a b false false intTag (fun _ _ => lanes2 op) s)
    (h : vecRuns s t [fm.d j d, fm.a j a, fm.b j b] [] false (some (fm.d j d)) [fm.a j a, fm.b j b] [.m k])
    (hop : op = laneOp2 .i32 (fun _ _ _ => ⟨0, 0⟩) gi) :
    rowGives fm 17 j t (fm.d j d) s z (activeLanes s k t.cols) (fun e =>
      List.zipWith (laneOp2 t (fun _ _ _ => ⟨0, 0⟩) gi) (laneRow s t.cols (fm.a j a) e)
        (laneRow s t.cols (fm.b j b) e)) i := by
  subst ht hop
  exact rowGives_vec3 hs hx h rfl fun _ => rfl

section
variable (h : vecRuns s t [fm.d j d, fm.a j a] [] false (some (fm.d j d)) [fm.a j a] [.m k])
include h

theorem rowGives_vecUn {ff : EFmt → Nat → Nat} {fi : Int → Int} {gi : BitVec 32 → BitVec 32}
    (hx : exec i s = runRep fm (fm.len 16)
      (fun j _ s => vec2 fm 16 z k d a anyTag [] (fun t _ => lanes1 (laneUn t ff fi)) j s) s)
    (hi : ∀ x : BitVec 32, BitVec.ofInt 32 (fi x.toInt) = gi x) :
    rowGives fm 16 j t (fm.d j d) s z (activeLanes s k t.cols) (fun e =>
      (laneRow s t.cols (fm.a j a) e).map (laneOp1 t (fun f x => (ff f x, 0)) gi)) i :=
  rowGives_vec2 hs hx h rfl fun e => by rw [lanes1, laneUn_eq _ ff hi]

theorem rowGives_vecApprox {ff : EFmt → FpCtl → Nat → FRes} (hf : (tagFmt t).isSome = true)
    (hx : exec i s = vecApprox fm z k d a ff s) :
    rowGives fm 21 j t (fm.d j d) s z (activeLanes s k t.cols) (fun e => (laneRow s t.cols (fm.a j a) e).map
      (laneOp1 t (fun f x => ((ff f (fcsrCtl 0 s) x).bits, (ff f (fcsrCtl 0 s) x).flags)) id)) i :=
  rowGives_vec2 hs hx h hf fun e => by rw [lanes1, laneApprox_eq _ ff hf]

end

end

/-- Settles O20: the accumulator that a row write leaves (`acc_vecWrite`, `cellAt_vecWrite_row`), and each instruction
by the row it gives, its lanes those of its format or of 32-bit words (`laneOp2`, `laneOp3`, `laneOp1`). -/
theorem vectorArithmeticResults : Obligations.VectorArithmeticResults := by
  unfold Obligations.VectorArithmeticResults
  refine ⟨fun t f outs s => ?_, fun fm z k d a b t s j m hs => ⟨fun h => ?_, fun h => ?_, fun h => ?_⟩⟩
  · obtain ⟨htag, hrext, hcext, -⟩ := acc_vecWrite t f outs s
    exact ⟨htag, hrext, hcext, fun n hn => acc_vecWrite_other t f outs s hn,
      fun e o he ho i hi => cellAt_vecWrite_row he ho hi,
      fun e p i he hp hrow hcol => cellAt_vecWrite_other he hp hrow hcol⟩
  · exact ⟨rowGives_vecArith hs rfl h fun x y => by rw [BitVec.ofInt_add, BitVec.ofInt_toInt, BitVec.ofInt_toInt],
      rowGives_vecArith hs rfl h fun x y => by rw [ofInt_sub, BitVec.ofInt_toInt, BitVec.ofInt_toInt],
      rowGives_vecArith hs rfl h fun x y => by rw [BitVec.ofInt_mul, BitVec.ofInt_toInt, BitVec.ofInt_toInt],
      rowGives_vecArith (ff := fun f c => f.minmaxR c false) hs rfl h ofInt_min,
      rowGives_vecArith (ff := fun f c => f.minmaxR c true) hs rfl h ofInt_max,
      fun hdest => ⟨rowGives_vecFma hs false rfl h hdest, rowGives_vecFma hs true rfl h hdest⟩,
      fun ht => ⟨rowGives_vecShift hs ht rfl h shl_lane, rowGives_vecShift hs ht rfl h shr_lane⟩⟩
  · exact ⟨rowGives_vecLogic hs (· &&& ·) rfl h, rowGives_vecLogic hs (· ||| ·) rfl h,
      rowGives_vecLogic hs (· ^^^ ·) rfl h⟩
  · exact ⟨rowGives_vecUn (ff := EFmt.mag) (fi := fun i => i.natAbs) hs h rfl ofInt_natAbs,
      rowGives_vecUn (ff := fun f x => f.signBit (!f.neg x) + f.mag x) hs h rfl fun x => by
        rw [BitVec.ofInt_neg, BitVec.ofInt_toInt],
      fun hf => ⟨rowGives_vecApprox hs h hf rfl, rowGives_vecApprox hs h hf rfl, rowGives_vecApprox hs h hf rfl,
        rowGives_vecApprox hs h hf rfl⟩⟩

end Sys2Proof.Machine

/-! PROOFS. Lane movement, conversion, reduction and scan, comparisons, masks and moves to scalar registers (R203,
R206 to R210, R212). -/

namespace Sys2Proof.Machine

/-! ## Lane movement, conversion, reduction and scan -/

theorem rowBad_bands_false {s : State} {f : Nat} (h : ∀ e, e < s.ctx.aux.gang → rowBad s f e = false) :
    (bandsOf s).any (rowBad s f) = false := by
  simpa [bandsOf] using h

/-- A merge takes the lanes of its first source where the mask, inverted or not, selects them (R210). -/
theorem lanes3_mergeMask (inv : Bool) (act : List Bool) (x y : List Lane) :
    lanes3 (fun x y g => if g.1 = 1 then x else y) [x, y, act.map (fun g => (if g ^^ inv then 1 else 0, 0))] =
      List.zipWith (fun (p : Lane × Lane) (g : Bool) => if g ^^ inv then p.1 else p.2) (List.zip x y) act := by
  rw [lanes3, List.zipWith_map_right]
  congr 1
  funext p g
  cases g ^^ inv <;> rfl

section
variable {fm : Form} {j m k d a b : Nat} {t : Tag} {s : State} {z : Bool} {i : Instr} (hs : startAt fm s = some (j, m))

include hs

theorem rowGives_vmov (h : vecRuns s t [fm.d j d, fm.a j a] [] false (some (fm.d j d)) [fm.a j a] [.m k]) :
    rowGives fm 23 j t (fm.d j d) s z (activeLanes s k t.cols) (laneRow s t.cols (fm.a j a)) (.vmov fm z k d a) :=
  rowGives_vec2 hs (show exec _ s = execVmov fm z k d a s from rfl) h rfl fun _ => List.map_id _

theorem rowGives_vbcl
    (h : vecRuns s t [fm.d j d, fm.a j a] [] false (some (fm.d j d)) [fm.a j a] [.m k, .g (fm.b j b)]) :
    rowGives fm 18 j t (fm.d j d) s z (activeLanes s k t.cols) (fun e =>
      List.replicate t.cols (laneAt (laneRow s t.cols (fm.a j a) e) ((rg s (fm.b j b)).toNat % t.cols)))
      (.vbcl fm z k d a b) :=
  rowGives_vec2 hs (show exec _ s = execVbcl fm z k d a b s from rfl) h rfl fun _ => rfl

theorem rowGives_vrot
    (h : vecRuns s t [fm.d j d, fm.a j a] [] false (some (fm.d j d)) [fm.a j a] [.m k, .g (fm.b j b)]) :
    rowGives fm 18 j t (fm.d j d) s z (activeLanes s k t.cols) (fun e =>
      (laneRow s t.cols (fm.a j a) e).drop ((rg s (fm.b j b)).toNat % t.cols) ++
        (laneRow s t.cols (fm.a j a) e).take ((rg s (fm.b j b)).toNat % t.cols)) (.vrot fm z k d a b) :=
  rowGives_vec2 hs (show exec _ s = execVrot fm z k d a b s from rfl) h rfl fun _ => rfl

theorem rowGives_vperm
    (h : vecRuns s t [fm.d j d, fm.a j a] [fm.b j b] false (some (fm.d j d)) [fm.a j a, fm.b j b] [.m k]) :
    rowGives fm 18 j t (fm.d j d) s z (activeLanes s k t.cols) (fun e => (laneRow s t.cols (fm.b j b) e).map (fun y =>
      ((laneAt (laneRow s t.cols (fm.a j a) e) (y.1 % t.cols)).1,
        (laneAt (laneRow s t.cols (fm.a j a) e) (y.1 % t.cols)).2 ||| y.2))) (.vperm fm z k d a b) :=
  rowGives_of_vecEach hs (show exec _ s = execVperm fm z k d a b s from rfl) (vecRun_ok h rfl _)
    (vecRuns_rows h) fun _ => rfl

theorem rowGives_vmerge (inv : Bool)
    (h : vecRuns s t [fm.d j d, fm.a j a, fm.b j b] [] false (some (fm.d j d)) [fm.a j a, fm.b j b] [.m k]) :
    rowGives fm 20 j t (fm.d j d) s false (List.replicate t.cols true) (fun e =>
      List.zipWith (fun (p : Lane × Lane) (g : Bool) => if g ^^ inv then p.1 else p.2)
        (List.zip (laneRow s t.cols (fm.a j a) e) (laneRow s t.cols (fm.b j b) e)) (activeLanes s k t.cols))
      (.vmerge fm inv k d a b) :=
  rowGives_of_vecEach hs (show exec _ s = execVmerge fm inv k d a b s from rfl) (vecRun_ok h rfl _)
    (vecRuns_rows h) fun _ => lanes3_mergeMask ..

section
variable (op : Rop) (h : vecRuns s t [fm.d j d, fm.a j a] [] false (some (fm.d j d)) [fm.a j a] [.m (fm.b j b)])
include h

theorem rowGives_vred : rowGives fm 19 j t (fm.d j d) s false (List.replicate t.cols true) (fun e =>
    redRow op t (fcsrCtl 0 s) (activeLanes s (fm.b j b) t.cols) (laneRow s t.cols (fm.a j a) e)) (.vred fm op d a b) :=
  rowGives_of_vecEach hs (show exec _ s = execVred fm op d a b s from rfl) (vecRun_ok h rfl _)
    (vecRuns_rows h) fun _ => rfl

theorem exec_vscan :
    let rs := (List.range s.ctx.aux.gang).map (fun e =>
      scanRow op t (fcsrCtl 0 s) z (activeLanes s (fm.b j b) t.cols) (laneRow s t.cols (fm.a j a) e))
    let fl := rs.foldl (fun f r => f ||| r.2) 0
    fl &&& trapEnables s = 0 → exec (.vscan fm z op d a b) s = .next (completes fm (fm.len 19) j
      (orFlags fl (vecWrite t (fm.d j d) (rs.map (·.1)) s))) := by
  intro rs fl hfl
  refine (show exec _ s = execVscan fm z op d a b s from rfl).trans (runRep_ok hs ?_)
  rw [vecRun_ok h rfl, rowBad_bands_false fun e he => vecRuns_rows h e he _ (List.mem_singleton_self _),
    if_neg Bool.false_ne_true]
  exact fpRetire_ok hfl

end

/-- A conversion writes the active lanes that have a source (R206). -/
theorem exec_vcvt {hi : Bool} {tg : Tag} (h : tileReady s) (hc : clean s [.m (fm.b j b), .ctl 0x002, .ctl 0x001] = true)
    (hrows : ∀ e, e < s.ctx.aux.gang → rowBad s (fm.a j a) e = false)
    (hok : convertOk (laneTag s (fm.a j a)) tg (s.ctx.acc (windowAcc s (fm.d j d))).tag hi = true) :
    let st := laneTag s (fm.a j a)
    let rs := (List.range s.ctx.aux.gang).map (fun e =>
      List.zipWith (fun g (x : Option Lane) => if g then x else none) (activeLanes s (fm.b j b) tg.cols)
        (convertRow (fcsrCtl 0 s) st tg hi (laneRow s st.cols (fm.a j a) e)))
    let fl := rs.foldl (fun f l => l.foldl (fun f x => f ||| (x.map (·.2)).getD 0) f) 0
    fl &&& trapEnables s = 0 → exec (.vcvt fm hi tg d a b) s = .next (completes fm (fm.len 17) j
      (orFlags fl (vecWrite tg (fm.d j d) (rs.map (fun l => l.map (fun x => x.map (·.1)))) s))) := by
  intro st rs fl hfl
  refine (show exec _ s = execVcvt fm hi tg d a b s from rfl).trans (runRep_ok hs ?_)
  dsimp only
  rw [h.1, ok_bind, hok, if_neg (by decide), srcFcsr, need_ok hc, ok_bind, granted_ok h, ok_bind,
    rowBad_bands_false hrows, if_neg Bool.false_ne_true]
  exact fpRetire_ok hfl

end

/-- Settles O21: each movement and the reduction by the row it gives (`rowGives`), the scan and the conversion by what
they write (`exec_vscan`, `exec_vcvt`). -/
theorem vectorMovementResults : Obligations.VectorMovementResults := by
  unfold Obligations.VectorMovementResults
  intro fm z hi inv op tg k d a b t s j m hs
  exact ⟨rowGives_vmov hs, fun h => ⟨rowGives_vbcl hs h, rowGives_vrot hs h⟩, rowGives_vperm hs, rowGives_vmerge hs inv,
    fun h => ⟨rowGives_vred hs op h, exec_vscan hs op h⟩, exec_vcvt hs⟩

/-! ## Masks -/

/-- A bit of the number of a list of bits is the list's (R209). -/
theorem testBit_natOfBits (l : List Bool) (i : Nat) : (natOfBits l).testBit i = (l[i]?).getD false := by
  induction l generalizing i with
  | nil => simp [natOfBits]
  | cons b l ih =>
    have hbit : natOfBits (b :: l) = Nat.bit b (natOfBits l) := by
      rw [Nat.bit_val, natOfBits, Nat.add_comm]
      cases b <;> rfl
    rw [hbit]
    cases i with
    | zero => exact Nat.testBit_bit_zero ..
    | succ i => exact (Nat.testBit_bit_succ ..).trans (ih i)

theorem ofNat_oneBits (x : BitVec 128) : BitVec.ofNat 64 (oneBits 128 x.toNat) = x.cpop.setWidth 64 := by
  rw [oneBits_toNat, BitVec.cpop, BitVec.setWidth_ofNat_of_le (by decide)]

section
variable {fm : Form} {d a b : Nat} {s : State} (h : inService s = .ok ())

include h

theorem exec_vwin : exec (.vwin fm d a) s =
    retires (fm.len 16) { s with ctx.ctl.tctl := putBits (putBits s.ctx.ctl.tctl 24 3 d) 27 3 a } :=
  (show exec _ s = execVwin fm d a s from rfl).trans (runOne_ok (by rw [h]; rfl))

theorem exec_vmpopc (hc : clean s [.m a] = true) :
    exec (.vmpopc fm d a) s = retires (fm.len 20) (wg s d ((rm s a).cpop.setWidth 64)) :=
  (show exec _ s = execVmpopc fm d a s from rfl).trans
    (runOne_ok (by rw [h, ok_bind, need_ok hc, ok_bind, ofNat_oneBits]))

theorem exec_vmlog (op : Mop) (hc : clean s [.m a, .m b] = true) :
    exec (.vmlog fm op d a b) s = retires (fm.len 20) (wm s d (mlogV op (rm s a) (rm s b))) :=
  (show exec _ s = execVmlog fm op d a b s from rfl).trans (runOne_ok (by rw [h, ok_bind, need_ok hc, ok_bind]))

end

/-! ## Comparisons and moves of a lane -/

section
variable {fm : Form} {j m k d a b : Nat} {t : Tag} {s : State} {z u : Bool} {cc : Vcc} (hs : startAt fm s = some (j, m))

include hs

/-- The mask that a comparison leaves holds the result of each lane it compares, and no other bit (R209). -/
theorem exec_vcmp (h : vecRuns s t [fm.a j a, fm.b j b] [] false none [] []) (hok : cmpOk u cc t = true)
    (ha : rowBad s (fm.a j a) 0 = false) (hb : rowBad s (fm.b j b) 0 = false) :
    let r := List.zipWith (laneCmp cc u t (fcsrCtl 0 s)) (cmpLanes t u (laneRow s t.cols (fm.a j a) 0))
      (cmpLanes t u (laneRow s t.cols (fm.b j b) 0))
    let fl := r.foldl (fun f x => f ||| x.2) 0
    fl &&& trapEnables s = 0 →
    ∃ v : BitVec 128, exec (.vcmp fm u cc d a b) s =
        .next (completes fm (fm.len 20) j (orFlags fl (wm s (fm.d j d) v))) ∧
      ∀ i, i < 128 → v.getLsbD i = ((r[i]?).map (·.1)).getD false := by
  intro r fl hfl
  refine ⟨BitVec.ofNat 128 (natOfBits (r.map (·.1))), ?_, fun i hi => ?_⟩
  · refine (show exec _ s = execVcmp fm u cc d a b s from rfl).trans (runRep_ok hs ?_)
    dsimp only
    rw [vecRun_ok h hok, ha, hb, Bool.or_self, if_neg Bool.false_ne_true]
    exact fpRetire_ok hfl
  · rw [BitVec.getLsbD_ofNat, decide_eq_true hi, Bool.true_and, testBit_natOfBits, List.getElem?_map]

end

section
variable {k a b : Nat} {t : Tag} {s : State} {z : Bool}

/-- The lane that a mask makes active is moved, and zero in its place where it is not (R212). -/
def laneOrZero (s : State) (t : Tag) (k a b : Nat) : Lane :=
  let q := (rg s b).toNat % t.cols
  if ((activeLanes s k t.cols)[q]?).getD false then laneAt (laneRow s t.cols a 0) q else (0, 0)

/-- The destination of a move of a lane is unchanged. -/
def moveKeeps (s : State) (t : Tag) (z : Bool) (k b : Nat) : Bool :=
  !((activeLanes s k t.cols)[(rg s b).toNat % t.cols]?).getD false && !z

theorem movedLane_eq : movedLane s t z k a b = if moveKeeps s t z k b then none else some (laneOrZero s t k a b) := by
  unfold movedLane moveKeeps laneOrZero
  dsimp only
  cases ((activeLanes s k t.cols)[(rg s b).toNat % t.cols]?).getD false <;> cases z <;> rfl

theorem moveLane_ok {write : Tag → Nat → State → State} (h : vecRuns s t [a] [] false none [] [.m k, .g b])
    (ha : rowBad s a 0 = false) (hfl : (laneOrZero s t k a b).2 &&& trapEnables s = 0) :
    moveLane z k a b write s = .ok (if moveKeeps s t z k b then s
      else orFlags (laneOrZero s t k a b).2 (write t (laneOrZero s t k a b).1 s)) := by
  unfold moveLane
  rw [vecRun_ok h rfl, ha, if_neg Bool.false_ne_true, movedLane_eq]
  cases moveKeeps s t z k b with
  | true => rfl
  | false => exact fpRetire_ok hfl

end

/-- An I32 lane is sign-extended into a `g` register (R212). -/
theorem ofInt_sext_lane (v : Nat) : ofInt (sext v 32) = (BitVec.ofNat 32 v).signExtend 64 := by
  rw [sext_eq_toInt]; rfl

section
variable {fm : Form} {j m k d a b : Nat} {t : Tag} {s : State} {z : Bool} (hs : startAt fm s = some (j, m))
  (h : vecRuns s t [fm.a j a] [] false none [] [.m k, .g (fm.b j b)]) (ha : rowBad s (fm.a j a) 0 = false)
  (hfl : (laneOrZero s t k (fm.a j a) (fm.b j b)).2 &&& trapEnables s = 0)

include hs h ha hfl

theorem exec_vmovg : exec (.vmovg fm z k d a b) s = .next (completes fm (fm.len 23) j
    (if moveKeeps s t z k (fm.b j b) then s
      else orFlags (laneOrZero s t k (fm.a j a) (fm.b j b)).2 (wg s (fm.d j d)
        (if t = .i32 then (BitVec.ofNat 32 (laneOrZero s t k (fm.a j a) (fm.b j b)).1).signExtend 64
          else BitVec.ofNat 64 (laneOrZero s t k (fm.a j a) (fm.b j b)).1)))) := by
  rw [← ofInt_sext_lane]
  exact (show exec _ s = execVmovg fm z k d a b s from rfl).trans (runRep_ok hs (moveLane_ok h ha hfl))

theorem exec_vmovf : exec (.vmovf fm z k d a b) s = .next (completes fm (fm.len 23) j
    (if moveKeeps s t z k (fm.b j b) then s
      else orFlags (laneOrZero s t k (fm.a j a) (fm.b j b)).2 (wf s (fm.d j d)
        (BitVec.ofNat 64 (laneOrZero s t k (fm.a j a) (fm.b j b)).1)))) :=
  (show exec _ s = execVmovf fm z k d a b s from rfl).trans (runRep_ok hs (moveLane_ok h ha hfl))

end

/-- Settles O22: a mask by its bits (`exec_vcmp`, `exec_vmlog`), and a move by the lane it takes (`exec_vmovg`,
`exec_vmovf`). -/
theorem vectorMaskResults : Obligations.VectorMaskResults := by
  unfold Obligations.VectorMaskResults
  intro fm z u cc op k d a b t s j m hs
  refine ⟨fun hin => ⟨exec_vwin hin, exec_vmpopc hin, fun hc => ?_⟩, exec_vcmp hs, fun h ha hfl =>
    ⟨exec_vmovg hs h ha hfl, exec_vmovf hs h ha hfl⟩⟩
  rw [exec_vmlog hin op hc]
  cases op <;> rfl

end Sys2Proof.Machine

/-! PROOFS. Vector loads and stores, gathers and scatters, and the broadcast from memory (R199, R213 to R215). -/

namespace Sys2Proof.Machine

/-! ## What the accesses of the lanes leave of the context -/

section
variable {pa n : Nat} {s t : State}

theorem sameThread_askRemote (pa : Nat) (s : State) : sameThread s (askRemote pa s) := by
  unfold askRemote
  split <;> exact ⟨rfl, rfl⟩

theorem sameThread_readHome (pa n : Nat) (s : State) : sameThread s (readHome pa n s).1 := by
  unfold readHome
  split
  · exact sameThread_askRemote pa s
  · dsimp only
    split
    · exact ⟨rfl, rfl⟩
    · exact sameThread_applyWts s.die (lineOf pa) { s with coh := readToken s.cur (lineOf pa) s.coh }

theorem sameThread_readLine (pa n : Nat) (s : State) : sameThread s (readLine pa n s).1 := by
  by_cases hlocal : localMem s pa = true
  · by_cases hdie : homeDie pa = s.die
    · rw [readLine_home hlocal hdie]
      exact ⟨rfl, rfl⟩
    · cases hfresh : freshCopy s.coh s.die (lineOf pa) with
      | some x =>
        rw [readLine_copy hlocal hdie hfresh]
        exact ⟨rfl, rfl⟩
      | none =>
        rw [readLine_fill hlocal hdie hfresh rfl]
        exact sameThread_serveFill s.die (lineOf pa) (withToken (lineOf pa) s)
  · have hhome : readLine pa n s = readHome pa n s := by simp only [readLine, hlocal]; rfl
    exact hhome ▸ sameThread_readHome pa n s

theorem loadLine_ctx {home : Bool} {r : List Byte × Bool} (h : loadLine home pa n s = .ok (t, r)) : t.ctx = s.ctx := by
  unfold loadLine at h
  generalize (if localMem s pa = true then msgsPast _ pa n s else remoteReady _ pa n s) = ready at h
  split at h
  · cases h
  · split at h
    · cases h
    · split at h
      · cases h
      · cases home with
        | true =>
          cases h
          exact (sameThread_readHome pa n s).1
        | false =>
          cases h
          exact (sameThread_readLine pa n s).1

theorem readUncached_ctx {d : List Byte} (h : readUncached pa n s = .ok (t, d)) : t.ctx = s.ctx := by
  unfold readUncached at h
  split at h
  · split at h
    · cases h
    · cases h
      rfl
  · split at h
    · cases h
    · generalize hu : (if (localMem s pa && decide (homeDie pa ≠ s.die)) = true then
        { s with coh := dropCopy s.die (lineOf pa) s.coh } else s) = u at h
      have hctx : u.ctx = s.ctx := by
        subst hu
        split <;> rfl
      dsimp only at h
      split at h
      · cases h
      · cases h
        exact (sameThread_readHome pa n u).1.trans hctx

theorem loadPhys_ctx {home : Bool} {ph : Phys} {d : List Byte} (h : loadPhys home ph n s = .ok (t, d)) :
    t.ctx = s.ctx := by
  unfold loadPhys at h
  split at h
  · split at h
    · cases h
    · rcases hread : readUncached ph.pa n s with e | ⟨u, v⟩ <;> rw [hread] at h <;> cases h
      exact readUncached_ctx hread
  · rcases hread : loadLine home ph.pa n s with e | ⟨u, v, p⟩ <;> rw [hread] at h
    · cases h
    · cases p <;> cases h
      exact loadLine_ctx hread

variable {k : AccKind} {c : AccClass} {va : Word}

theorem checkScalar_ctx {ph : Phys} (h : checkScalar k c va n s = .ok (t, ph)) : t.ctx = s.ctx := by
  unfold checkScalar checkPage at h
  split at h
  · cases h
  · rcases htr : translate k va n s with e | ⟨u, v⟩ <;> rw [htr] at h
    · cases h
    · rw [ok_bind] at h
      dsimp only at h
      split at h
      · cases h
      · rw [ok_bind] at h
        dsimp only at h
        rcases hr : checkRange k va n u with e | x <;> rw [hr] at h <;> cases h
        exact (translate_ctx htr).1

theorem loadScalar_ctx {home : Bool} {d : List Byte} (h : loadScalar home c va n s = .ok (t, d)) : t.ctx = s.ctx := by
  unfold loadScalar at h
  rcases hc : checkScalar .load c va n s with e | ⟨u, ph⟩ <;> rw [hc] at h
  · cases h
  · exact (loadPhys_ctx h).trans (checkScalar_ctx hc)

end

section
variable {addr : Nat → Word} {w : Nat} {s t : State}

theorem loadLanes_ctx {z : Bool} {commit : List (Option Nat) → State → State} {act : List Bool} {i : Nat}
    {out v : List (Option Nat)} (h : loadLanes addr w z commit act i out s = .ok (t, v)) : t.ctx = s.ctx := by
  induction act generalizing i out s with
  | nil =>
    cases h
    rfl
  | cons g act ih =>
    cases g with
    | false => exact ih h
    | true =>
      rcases hl : loadScalar false .row (addr i) w s with (⟨x, u⟩ | u) | ⟨u, d⟩ <;> rw [loadLanes, hl] at h
      · cases h
      · cases h
      · exact (ih h).trans (loadScalar_ctx hl)

theorem checkLanes_ctx {l : List (Bool × Lane)} {i : Nat} {ps : List (Nat × List Byte)}
    (h : checkLanes addr w l i s = .ok (t, ps)) : t.ctx = s.ctx := by
  induction l generalizing i s ps with
  | nil =>
    cases h
    rfl
  | cons p l ih =>
    obtain ⟨g, x⟩ := p
    cases g with
    | false => exact ih h
    | true =>
      rcases hc : checkScalar .store .row (addr i) w s with e | ⟨u, ph⟩ <;> rw [checkLanes, hc] at h
      · cases h
      · rw [ok_bind] at h
        dsimp only at h
        rcases hrest : checkLanes addr w l (i + 1) u with e | ⟨y, r⟩ <;> rw [hrest] at h <;> cases h
        exact (ih hrest).trans (checkScalar_ctx hc)

end

theorem trapEnables_of_ctx {s t : State} (h : t.ctx = s.ctx) : trapEnables t = trapEnables s := by
  rw [trapEnables, h, trapEnables]

theorem indexFlags_none (act : List Bool) : indexFlags act none = 0 := by
  rw [indexFlags, Option.getD_none, laneFlags, List.zipWith_nil_right]
  rfl

/-! ## Loads and stores -/

section
variable {k d k0 fl : Nat} {t : Tag} {s s1 s2 : State} {ofs : Option Nat} {src : List Src}
  {addr : Tag → List Lane → State → Nat → Word} (hofs : (ofs.map (fun b => rowBad s b 0)).getD false = false)

include hofs

/-- A load whose active lanes can all be read writes its row, with the flags of its index lanes (R213, R214). -/
theorem vecLoad_ok {z : Bool} {out : List (Option Nat)}
    (h : vecRuns s t [d] ofs.toList false (some d) [] (.m k :: src)) (hk : k0 < t.cols)
    (hix : indexFlags (activeLanes s k t.cols) (ofs.map (fun b => laneRow s t.cols b 0)) = fl)
    (hfl : fl &&& trapEnables s = 0)
    (hl : loadLanes (addr t ((ofs.map (fun b => laneRow s t.cols b 0)).getD []) s) (laneBits t / 8) z
      (fun o s => commitLanes t d [o] s) ((activeLanes s k t.cols).drop k0) k0 (List.replicate k0 none) s =
        .ok (s1, out)) :
    fromUnit k0 (vecLoad z k d k0 ofs src addr s) = .ok (orFlags fl (vecWrite t d [out] s1)) := by
  have hfl1 : fl &&& trapEnables s1 = 0 := by rwa [trapEnables_of_ctx (loadLanes_ctx hl)]
  unfold vecLoad
  rw [vecRun_ok h (decide_eq_true hk), hofs, if_neg Bool.false_ne_true]
  dsimp only
  rw [hl, ok_bind, hix]
  dsimp only
  rw [fpRetire_ok hfl1]
  rfl

/-- A store whose active lanes all pass their checks stores them, with the flags of the lanes it reads (R213, R215). -/
theorem vecStore_ok {ps : List (Nat × List Byte)}
    (h : vecRuns s t [d] ofs.toList false none [] (.m k :: src))
    (hix : laneFlags (activeLanes s k t.cols) (laneRow s t.cols d 0) |||
      indexFlags (activeLanes s k t.cols) (ofs.map (fun b => laneRow s t.cols b 0)) = fl)
    (hfl : fl &&& trapEnables s = 0) (hd : rowBad s d 0 = false)
    (hl : checkLanes (addr t ((ofs.map (fun b => laneRow s t.cols b 0)).getD []) s) (laneBits t / 8)
      (List.zip (activeLanes s k t.cols) (laneRow s t.cols d 0)) 0 s = .ok (s1, ps))
    (hst : storePieces ps s1 = .ok s2) : vecStore k d ofs src addr s = .ok (orFlags fl s2) := by
  have hfl1 : fl &&& trapEnables s1 = 0 := by rwa [trapEnables_of_ctx (checkLanes_ctx hl)]
  unfold vecStore
  rw [vecRun_ok h rfl, hofs, if_neg Bool.false_ne_true]
  dsimp only
  rw [hl, ok_bind, hix]
  dsimp only
  rw [hd, if_neg Bool.false_ne_true, fpRetire_ok hfl1, ok_bind, hst, ok_bind]

end

/-! ## The broadcast from memory -/

section
variable {fm : Form} {k d a b j k0 : Nat} {t : Tag} {s : State} {z : Bool}

/-- The rows that a broadcast of `x` writes, alike in every band, from lane `k0` on (R199, R214). -/
def spreadRows (s : State) (t : Tag) (z : Bool) (k k0 x : Nat) : List (List (Option Nat)) :=
  List.replicate s.ctx.aux.gang (List.replicate k0 none ++
    (chosen z (activeLanes s k t.cols) (List.replicate t.cols (x, 0))).drop k0)

theorem spreadRows_eq (s : State) (t : Tag) (z : Bool) (k k0 x : Nat) : spreadRows s t z k k0 x =
    (bandsOf s).map (fun _ => List.replicate k0 none ++
      (chosen z (activeLanes s k t.cols) (List.replicate t.cols (x, 0))).drop k0) := by
  rw [List.map_const', bandsOf, List.length_range, spreadRows]

variable (hs : startAt fm s = some (j, k0))
  (h : vecRuns s t [fm.d j d] [] false (some (fm.d j d)) [] [.m k, .g (fm.a j a), .g (fm.b j b)]) (hk : k0 < t.cols)

include hs h hk

/-- With an active lane left, one access is made (R214). -/
theorem exec_vbcast_active {s1 : State} {v : List Byte}
    (hact : ∃ i : Nat, k0 ≤ i ∧ i < t.cols ∧ (activeLanes s k t.cols)[i]? = some true)
    (hl : loadScalar false .row (rg s (fm.a j a) + rg s (fm.b j b) * BitVec.ofNat 64 (laneBits t / 8))
      (laneBits t / 8) s = .ok (s1, v)) :
    exec (.vbcast fm z k d a b) s = .next (completes fm (fm.len 18) j
      (vecWrite t (fm.d j d) (spreadRows s t z k k0 (natOfBytes v)) s1)) := by
  obtain ⟨i, hfrom, hi, hon⟩ := hact
  have hfound : ((List.range t.cols).find? (fun i =>
      decide (k0 ≤ i) && ((activeLanes s k t.cols)[i]?).getD false)).isSome = true :=
    List.find?_isSome.2 ⟨i, List.mem_range.2 hi, by simp [hfrom, hon]⟩
  obtain ⟨q, hq⟩ := Option.isSome_iff_exists.1 hfound
  refine (show exec _ s = execVbcast fm z k d a b s from rfl).trans (runRep_ok hs ?_)
  dsimp only
  rw [vecRun_ok h (decide_eq_true hk), hq, spreadRows_eq]
  dsimp only
  rw [hl]
  rfl

theorem exec_vbcast_idle
    (hact : ∀ i : Nat, k0 ≤ i → i < t.cols → (activeLanes s k t.cols)[i]? = some false) :
    exec (.vbcast fm z k d a b) s = .next (completes fm (fm.len 18) j
      (vecWrite t (fm.d j d) (spreadRows s t z k k0 0) s)) := by
  have hnone : (List.range t.cols).find? (fun i =>
      decide (k0 ≤ i) && ((activeLanes s k t.cols)[i]?).getD false) = none := by
    refine List.find?_eq_none.2 fun i hi => ?_
    by_cases hfrom : k0 ≤ i
    · simp [hact i hfrom (List.mem_range.1 hi)]
    · simp [hfrom]
  refine (show exec _ s = execVbcast fm z k d a b s from rfl).trans (runRep_ok hs ?_)
  dsimp only
  rw [vecRun_ok h (decide_eq_true hk), hnone, spreadRows_eq]
  rfl

end

/-- Settles O23: a load or a store by what its lanes give (`vecLoad_ok`, `vecStore_ok`), the accesses of which leave the
enables of `FCSR` as they were (`loadLanes_ctx`, `checkLanes_ctx`). -/
theorem vectorMemoryResults : Obligations.VectorMemoryResults := by
  unfold Obligations.VectorMemoryResults
  intro fm z k d a b imm t s s1 s2 out ps v j k0 hs
  refine ⟨fun h hk hfl hl => ?_, fun h hk hfl hl => ?_, fun h hb hk hfl hl => ?_, fun h hfl hd hl hst => ?_,
    fun h hfl hd hl hst => ?_, fun h hb hfl hd hl hst => ?_, fun h hk => ⟨exec_vbcast_active hs h hk,
      exec_vbcast_idle hs h hk⟩⟩
  · exact (show exec _ s = execVld fm z k d a imm s from rfl).trans
      (runRep_ok hs (vecLoad_ok rfl h hk (indexFlags_none _) hfl hl))
  · exact (show exec _ s = execVlds fm z k d a b s from rfl).trans
      (runRep_ok hs (vecLoad_ok rfl h hk (indexFlags_none _) hfl hl))
  · exact (show exec _ s = execVgath fm z k d a b s from rfl).trans
      (runRep_ok hs (vecLoad_ok (ofs := some (fm.b j b)) hb h hk rfl hfl hl))
  · exact (show exec _ s = execVst fm z k d a imm s from rfl).trans
      (runRep_ok hs (vecStore_ok rfl h (by rw [Option.map_none, indexFlags_none, Nat.or_zero]) hfl hd hl hst))
  · exact (show exec _ s = execVsts fm z k d a b s from rfl).trans
      (runRep_ok hs (vecStore_ok rfl h (by rw [Option.map_none, indexFlags_none, Nat.or_zero]) hfl hd hl hst))
  · exact (show exec _ s = execVscat fm z k d a b s from rfl).trans
      (runRep_ok hs (vecStore_ok (ofs := some (fm.b j b)) hb h rfl hfl hd hl hst))

end Sys2Proof.Machine

/-! PROOFS. Words of the encoding tables (spec/05). -/

namespace Sys2Proof.Machine

/-- Settles O60: decoding of these words is a computation. -/
theorem decodedWords : Obligations.DecodedWords := by
  unfold Obligations.DecodedWords
  decide

end Sys2Proof.Machine

/-! PROOFS. Memory keeps its canonical form, and every step of the machine has a next state (R282, R284, R294). -/

namespace Sys2Proof.Machine

/-! ## Updates that write nothing, and the home's writes -/

section
variable {s : State}

theorem mem_foldl {α : Type} {f : State → α → State} (hf : ∀ t a, (f t a).mem = t.mem) (l : List α) (s : State) :
    (l.foldl f s).mem = s.mem :=
  l.foldlRecOn (motive := fun t => t.mem = s.mem) f rfl (fun t ht a _ => (hf t a).trans ht)

@[simp] theorem mem_setCore (n : Nat) (c : CoreSt) : (setCore s n c).mem = s.mem := by simp

@[simp] theorem mem_setActive (n : Nat) (c : Ctx) : (setActive s n c).mem = s.mem := by simp

@[simp] theorem mem_clearActive (n : Nat) : (clearActive s n).mem = s.mem := by
  unfold clearActive; split <;> simp

@[simp] theorem mem_switchTo (n : Nat) : (switchTo s n).mem = s.mem := by
  unfold switchTo; split <;> rfl

@[simp] theorem mem_onContext (g : Word) (f : Ctx → Ctx) : (onContext g f s).mem = s.mem := by
  unfold onContext
  refine mem_foldl (fun t n => ?_) _ _
  dsimp only
  repeat' split
  all_goals simp

@[simp] theorem mem_logEvent (code die pid addr count : Nat) : (logEvent code die pid addr count s).mem = s.mem := rfl

@[simp] theorem mem_answerAtomic (g : Word) (x : Sent) : (answerAtomic g x s).mem = s.mem := by
  unfold answerAtomic; split <;> simp

@[simp] theorem mem_loseStore (die : Nat) (g : Word) (pid pa : Nat) : (loseStore die g pid pa s).mem = s.mem := by
  unfold loseStore; repeat' split
  all_goals simp

@[simp] theorem mem_pendInt (core detail pid : Nat) : (pendInt core detail pid s).mem = s.mem := by
  unfold pendInt; dsimp only; split <;> simp

@[simp] theorem mem_roomInDirectory : (roomInDirectory s).mem = s.mem := by
  unfold roomInDirectory; repeat' split
  all_goals rfl

@[simp] theorem mem_dropStale (ag : Agent) (line : Option Nat) : (dropStale ag line s).mem = s.mem := by
  unfold dropStale; dsimp only; repeat' split
  all_goals simp

@[simp] theorem mem_clearingNow (die : Nat) : (clearingNow die s).mem = s.mem := rfl

@[simp] theorem mem_releaseMsgs : (releaseMsgs s).mem = s.mem := rfl

@[simp] theorem mem_repairRoutes : (repairRoutes s).mem = s.mem := rfl

@[simp] theorem mem_sendMsgFor (fwd : Option (Nat × Nat)) (cmd : Option Nat) (dst : Nat) (g : Word) (pid : Nat)
    (rq : RemoteReq) (p f : Bool) : (sendMsgFor fwd cmd dst g pid rq p f s).mem = s.mem := rfl

@[simp] theorem mem_sendMsg (dst : Nat) (g : Word) (pid : Nat) (rq : RemoteReq) (p f : Bool) :
    (sendMsg dst g pid rq p f s).mem = s.mem := rfl

@[simp] theorem mem_tellAborts : (tellAborts s).mem = s.mem := by
  unfold tellAborts
  refine mem_foldl (fun t x => ?_) _ _
  dsimp only
  split <;> simp

@[simp] theorem mem_keepReply (src seq : Nat) (d : List Byte × Bool) : (keepReply src seq d s).mem = s.mem := rfl

@[simp] theorem mem_answerRemote (g : Word) (rq : RemoteReq) (t : State) : (answerRemote g rq s t).mem = t.mem := by
  unfold answerRemote; repeat' split
  all_goals simp

@[simp] theorem mem_ackMsg (src dst seq : Nat) : (ackMsg src dst seq s).mem = s.mem := rfl

@[simp] theorem mem_askPackage (dst : Nat) : (askPackage dst s).mem = s.mem := rfl

@[simp] theorem mem_askRemote (pa : Nat) : (askRemote pa s).mem = s.mem := by
  unfold askRemote; split <;> simp

@[simp] theorem mem_ackWt (die line : Nat) : (ackWt die line s).mem = s.mem := by
  unfold ackWt; split <;> rfl

@[simp] theorem mem_sendStore (cmd : Option Nat) (e : SbEntry) : (sendStore cmd e s).mem = s.mem := by
  unfold sendStore; split
  · simp
  · exact mem_foldl (fun t p => by simp) _ _

@[simp] theorem mem_heard (pa n : Nat) : (heard pa n s).mem = s.mem := rfl

@[simp] theorem mem_heardBy (g : Word) (die : Nat) : (heardBy g die s).mem = s.mem := rfl

@[simp] theorem mem_heardAll : (heardAll s).mem = s.mem := rfl

@[simp] theorem mem_sendMsix (fn idx : Nat) : (sendMsix fn idx s).mem = s.mem := by
  unfold sendMsix; repeat' split
  all_goals rfl

@[simp] theorem mem_writeMsix (fn off : Nat) (v : Word) : (writeMsix fn off v s).mem = s.mem := by
  unfold writeMsix; dsimp only; repeat' split
  all_goals rfl

@[simp] theorem mem_writeMbstat (v : Word) : (writeMbstat v s).mem = s.mem := by
  unfold writeMbstat; dsimp only; split <;> simp

@[simp] theorem mem_installTlb (sp : Space) (va lvl : Nat) (e : Word) (a : Nat) :
    (installTlb sp va lvl e a s).mem = s.mem := rfl

@[simp] theorem mem_forgetUntranslated (va : Word) : (forgetUntranslated va s).mem = s.mem := by
  unfold forgetUntranslated; repeat' split
  all_goals rfl

@[simp] theorem mem_noteRaces (pa n : Nat) : (noteRaces pa n s).mem = s.mem := rfl

end

/-! ## Stores and messages, performed -/

section
variable {s : State} (h : Memory.wf s.mem = true)

theorem wf_ite {c : Prop} [Decidable c] {s t : State} (hs : Memory.wf s.mem = true) (ht : Memory.wf t.mem = true) :
    Memory.wf (if c then s else t).mem = true := by
  split <;> assumption

theorem wf_foldl {α : Type} {f : State → α → State} (hf : ∀ t a, Memory.wf t.mem = true → Memory.wf (f t a).mem = true)
    {s : State} (l : List α) (h : Memory.wf s.mem = true) : Memory.wf (l.foldl f s).mem = true :=
  l.foldlRecOn (motive := fun t => Memory.wf t.mem = true) f h (fun t ht a _ => hf t a ht)

include h

@[simp] theorem wf_homeWrite (pa : Nat) (d : List Byte) (m : Byte) (p f : Bool) :
    Memory.wf (homeWrite pa d m p f s).mem = true := memWriteMasked_wf _ _ _ _ h

@[simp] theorem wf_storeWrite (g : Word) (pa : Nat) (d : List Byte) (m : Byte) (p f : Bool) :
    Memory.wf (storeWrite g pa d m p f s).mem = true := by
  unfold storeWrite; dsimp only; split <;> simp [h]

@[simp] theorem wf_amoAt (g : Word) (op : AmoOp) (pa n : Nat) (src cmp : Word) :
    Memory.wf (amoAt g op pa n src cmp s).1.mem = true := by
  unfold amoAt; dsimp only; split <;> simp [h]

@[simp] theorem wf_applyRemote (g : Word) (rq : RemoteReq) (p f : Bool) :
    Memory.wf (applyRemote g rq p f s).mem = true := by
  unfold applyRemote; split
  case h_5 => split <;> simp [h]
  all_goals simp [h]

@[simp] theorem wf_applyMsg (src dst seq : Nat) : Memory.wf (applyMsg src dst seq s).mem = true := by
  unfold applyMsg; split
  · exact h
  · split
    · exact h
    · dsimp only
      split <;> simp [h]

@[simp] theorem wf_passMsg (m : Msg) : Memory.wf (passMsg s m).mem = true := by
  unfold passMsg; split <;> simp [h]

@[simp] theorem wf_applyWt (die line : Nat) : Memory.wf (applyWt die line s).mem = true := by
  unfold applyWt; split
  · exact h
  · dsimp only
    split <;> simp [h]

@[simp] theorem wf_applyWts (die line : Nat) : Memory.wf (applyWts die line s).mem = true :=
  wf_foldl (fun _ _ ht => wf_applyWt ht _ _) _ h

@[simp] theorem wf_performStoreBy (cmd : Option Nat) (core : Nat) (e : SbEntry) :
    Memory.wf (performStoreBy cmd core e s).mem = true := by
  unfold performStoreBy; dsimp only
  repeat' split
  all_goals simp [h]

@[simp] theorem wf_performStore (core : Nat) (e : SbEntry) : Memory.wf (performStore core e s).mem = true :=
  wf_performStoreBy h _ _ _

@[simp] theorem wf_drainHead (core : Nat) : Memory.wf (drainHead core s).mem = true := by
  unfold drainHead; split
  · exact h
  · split <;> simp [h]

@[simp] theorem wf_drainAll (core : Nat) : Memory.wf (drainAll core s).mem = true :=
  wf_foldl (fun _ _ ht => wf_drainHead ht _) _ h

@[simp] theorem wf_progress : Memory.wf (progress s).mem = true := by
  unfold progress
  repeat' split
  all_goals simp [h]

@[simp] theorem wf_readHome (pa n : Nat) : Memory.wf (readHome pa n s).1.mem = true := by
  unfold readHome; split
  · simp [h]
  · dsimp only
    split <;> simp [h]

@[simp] theorem wf_serveFill (die line : Nat) : Memory.wf (serveFill die line s).1.mem = true := by
  unfold serveFill; dsimp only; split <;> simp [h]

@[simp] theorem wf_readLine (pa n : Nat) : Memory.wf (readLine pa n s).1.mem = true := by
  unfold readLine; split
  · simp [h]
  · dsimp only
    repeat' split
    all_goals simp [h]

@[simp] theorem wf_ringDoorbell (x : Vf) (off : Nat) (d : List Byte) :
    Memory.wf (ringDoorbell x off d s).mem = true := by
  unfold ringDoorbell; dsimp only; split <;> simp [h]

@[simp] theorem wf_devWrite (off : Nat) (v : Word) : Memory.wf (devWrite off v s).mem = true := by
  unfold devWrite; dsimp only
  repeat' split
  all_goals simp [h]

@[simp] theorem wf_orEntry (a : Nat) (v : Word) : Memory.wf (orEntry a v s).mem = true := wf_homeWrite h _ _ _ _ _

@[simp] theorem wf_agentWrite (pa : Nat) (d : List Byte) : Memory.wf (agentWrite pa d s).mem = true :=
  wf_foldl (fun _ _ ht => by simp [ht]) _ h

end

/-! ## Pages -/

section
variable {s t : State}

theorem wf_ringTake {r : Ring} {a : Nat} (h : Memory.wf s.mem = true) (ht : ringTake r s = some (a, t)) :
    Memory.wf t.mem = true := by
  unfold ringTake at ht
  split at ht
  · cases ht
  · simp only [Option.some.injEq, Prod.mk.injEq] at ht
    obtain ⟨-, rfl⟩ := ht
    exact wf_agentWrite h _ _

theorem memOk_agentWrite (h : s.memOk) (pa : Nat) (d : List Byte) : (agentWrite pa d s).memOk := wf_agentWrite h _ _

/-- The definition is rewritten as a function, as in `sameButMemory_ringTakeRun`. -/
theorem wf_ringTakeRun {r : Ring} {n a : Nat} (h : Memory.wf s.mem = true) (ht : ringTakeRun r n s = some (a, t)) :
    Memory.wf t.mem = true := by
  have hdef : ringTakeRun = ringTakeRun := rfl
  conv at hdef => rhs; delta ringTakeRun
  rw [hdef] at ht
  beta_reduce at ht
  generalize ringAddrs s r = l at ht
  extract_lets l run at ht
  split at ht
  · cases ht
  · extract_lets rest hd u at ht
    have hu : u.memOk := List.foldlRecOn (motive := State.memOk) _ _ h fun _ hv _ _ => memOk_agentWrite hv _ _
    rw [Option.some.injEq, Prod.mk.injEq] at ht
    have hr := memOk_agentWrite hu r.addr (bytesOfNat 8 (hd % 2 ^ 64))
    rw [ht.2] at hr
    exact hr

theorem wf_takePage {r : Ring} {n a : Nat} (h : Memory.wf s.mem = true) (ht : takePage r n s = some (a, t)) :
    Memory.wf t.mem = true := by
  unfold takePage at ht
  split at ht
  · exact wf_ringTake h ht
  · exact wf_ringTakeRun h ht

theorem wf_expandInto {e : Word} {frame : Nat} (h : Memory.wf s.mem = true) (ht : expandInto e frame s = some t) :
    Memory.wf t.mem = true := by
  unfold expandInto at ht
  split at ht
  · cases ht
  · cases ht; simp [h]

theorem wf_expandPage {e : Word} {a : Nat} (h : Memory.wf s.mem = true) (ht : expandPage e a s = some t) :
    Memory.wf t.mem = true := by
  unfold expandPage at ht
  split at ht
  · cases ht
  · split at ht
    · cases ht
    · next hp =>
      obtain ⟨u, hu, rfl⟩ := Option.map_eq_some_iff.1 ht
      exact wf_foldl (fun _ _ hv => wf_homeWrite hv _ _ _ _ _) _ (wf_expandInto (wf_takePage h hp) hu)

@[simp] theorem wf_ringGive (h : Memory.wf s.mem = true) (r : Ring) (a : Nat) : Memory.wf (ringGive r a s).mem = true := by
  unfold ringGive
  exact wf_ite h (wf_agentWrite (wf_agentWrite h _ _) _ _)

@[simp] theorem wf_makeNative (h : Memory.wf s.mem = true) (frame : Nat) : Memory.wf (makeNative frame s).mem = true := by
  unfold makeNative; split <;> simp [h]

end

/-! ## Parts of an instruction -/

/-- The state in which a part of an instruction stops. -/
def Stop.left : Stop → State
  | .trap _ s => s
  | .wait s => s

/-- What a part of an instruction gives has the property where it completes, and memory in canonical form where it
stops. -/
def endsIn {ε α : Type} (left : ε → State) (p : α → Prop) : Except ε α → Prop
  | .ok x => p x
  | .error e => Memory.wf (left e).mem = true

/-- An effect leaves memory in canonical form, complete or stopped. -/
abbrev formKept (r : Run) : Prop := endsIn Stop.left (fun t => Memory.wf t.mem = true) r

/-- As `formKept`, of a part of an instruction that gives a value. -/
abbrev formKeptV {α : Type} (r : RunV α) : Prop := endsIn Stop.left (fun x => Memory.wf x.1.mem = true) r

theorem endsIn_ite {ε α : Type} {left : ε → State} {p : α → Prop} {c : Prop} [Decidable c] {x y : Except ε α}
    (hx : endsIn left p x) (hy : endsIn left p y) : endsIn left p (if c then x else y) := by
  split <;> assumption

theorem endsIn_bind {ε α β : Type} {left : ε → State} {p : α → Prop} {q : β → Prop} {x : Except ε α}
    {f : α → Except ε β} (hx : endsIn left p x) (hf : ∀ a, p a → endsIn left q (f a)) : endsIn left q (x >>= f) :=
  match x, hx with
  | .ok a, ha => hf a ha
  | .error _, he => he

/-- A part that gives a state and a value, and what follows it. -/
theorem endsIn_bindV {ε α β : Type} {left : ε → State} {q : β → Prop} {x : Except ε (State × α)}
    {f : State × α → Except ε β} (hx : endsIn left (fun x => Memory.wf x.1.mem = true) x)
    (hf : ∀ t v, Memory.wf t.mem = true → endsIn left q (f (t, v))) : endsIn left q (x >>= f) :=
  endsIn_bind hx fun a ha => hf a.1 a.2 ha

section
variable {s : State} (h : Memory.wf s.mem = true)
include h

/-- A check that stops in the state it was given. -/
theorem endsIn_check {α β : Type} {q : β → Prop} {x : Except Stop α} {f : α → Except Stop β}
    (hx : ∀ e, x = .error e → e.left = s) (hf : ∀ a, endsIn Stop.left q (f a)) : endsIn Stop.left q (x >>= f) :=
  match x, hx with
  | .ok a, _ => hf a
  | .error e, he => show Memory.wf e.left.mem = true by rw [he e rfl]; exact h

theorem endsIn_need {β : Type} {q : β → Prop} {l : List Src} {f : Unit → Except Stop β}
    (hf : endsIn Stop.left q (f ())) : endsIn Stop.left q (need s l >>= f) :=
  endsIn_check h (fun e he => by unfold need at he; split at he <;> cases he; rfl) (fun _ => hf)

theorem endsIn_atLeast {β : Type} {q : β → Prop} {pl : Nat} {f : Unit → Except Stop β}
    (hf : endsIn Stop.left q (f ())) : endsIn Stop.left q (atLeast s pl >>= f) :=
  endsIn_check h (fun e he => by unfold atLeast at he; split at he <;> cases he; rfl) (fun _ => hf)

theorem formKept_awaitStores (scope : Nat) : formKept (awaitStores scope s) := by
  unfold awaitStores; split
  · exact h
  · exact wf_progress h

theorem formKept_clearing : formKept (clearing s) := by
  unfold clearing; split <;> exact h

theorem formKept_pushStores (l : List SbEntry) : formKept (pushStores l s) := by
  unfold pushStores; split
  · exact wf_drainHead h _
  · exact h

theorem formKept_loadLine (home : Bool) (pa n : Nat) : formKeptV (loadLine home pa n s) := by
  unfold loadLine
  refine endsIn_ite (wf_drainHead h _) (endsIn_ite h (endsIn_ite (wf_progress h) ?_))
  cases home
  · exact wf_readLine h _ _
  · exact wf_readHome h _ _

/-! ## Translation -/

theorem formKept_heapTranslate (sp : Space) (k : AccKind) (va : Word) (n : Nat) :
    formKeptV (heapTranslate sp k va n s) := by
  unfold heapTranslate; dsimp only
  repeat' split
  all_goals exact h

theorem formKept_useLeaf (sp : Space) (k : AccKind) (va : Word) (n lvl : Nat) (e : Word) (a : Nat) :
    formKeptV (useLeaf sp k va n lvl e a s) := by
  exact endsIn_ite h (wf_ite h (wf_orEntry h _ _))

theorem formKept_walkFor (sp : Space) (k : AccKind) (va : Word) (n fuel : Nat) : formKeptV (walkFor sp k va n fuel s) := by
  induction fuel generalizing s with
  | zero => exact h
  | succ fuel ih =>
    unfold walkFor; split
    · exact h
    · show Memory.wf (State.mem (ite _ _ _)) = true
      split <;> exact h
    · split
      · exact h
      · split
        · exact h
        · next hu => exact ih (wf_expandPage h hu)
    · split
      · exact h
      · exact formKept_useLeaf h _ _ _ _ _ _ _

theorem formKept_tableTranslate (sp : Space) (k : AccKind) (va : Word) (n : Nat) :
    formKeptV (tableTranslate sp k va n s) := by
  have hwalk (t : State) (ht : t.mem = s.mem) : formKeptV (walkFor sp k va n 2 t) := formKept_walkFor (ht ▸ h) _ _ _ _ _
  unfold tableTranslate; split
  · split
    · split
      · exact hwalk _ rfl
      · dsimp only; split <;> exact h
    · dsimp only; split
      · exact h
      · exact hwalk _ rfl
  · split
    · exact h
    · exact hwalk _ rfl

theorem formKept_translateIn (sp : Space) (k : AccKind) (va : Word) (n : Nat) : formKeptV (translateIn sp k va n s) := by
  unfold translateIn; split
  · exact h
  · split
    · exact formKept_heapTranslate h _ _ _ _
    · exact formKept_tableTranslate h _ _ _ _

theorem formKept_translate (k : AccKind) (va : Word) (n : Nat) : formKeptV (translate k va n s) :=
  formKept_translateIn h _ _ _ _

theorem formKept_readyFrame (va : Word) (pa : Nat) : formKept (readyFrame va pa s) := by
  unfold readyFrame; split
  · exact h
  · split
    · exact h
    · split
      · exact h
      · split
        · exact h
        · dsimp only; split
          · exact wf_orEntry (wf_makeNative h _) _ _
          · exact wf_makeNative h _

theorem formKept_fetchHword (va : Word) : formKeptV (fetchHword va s) := by
  refine endsIn_bindV (formKept_translate (by simpa using h) _ _ _) fun t ph ht => ?_
  dsimp only; split
  · exact ht
  · refine endsIn_bind (formKept_readyFrame ht _ _) fun u hu => ?_
    split <;> exact hu

theorem formKept_fetchChain (n : Nat) (va : Word) : formKeptV (fetchChain n va s) := by
  induction n generalizing s va with
  | zero => exact h
  | succ n ih =>
    refine endsIn_bindV (formKept_fetchHword h _) fun t w ht => ?_
    dsimp only; split
    · exact endsIn_bindV (ih ht _) fun u ws hu => hu
    · exact ht

/-! ## Accesses -/

theorem formKept_checkPage (k : AccKind) (c : AccClass) (va : Word) (n : Nat) : formKeptV (checkPage k c va n s) := by
  refine endsIn_bindV (formKept_translate h _ _ _) fun t ph ht => ?_
  dsimp only; split <;> exact ht

theorem endsIn_checkRange {β : Type} {q : β → Prop} {k : AccKind} {va : Word} {n : Nat} {f : Unit → Except Stop β}
    (hf : endsIn Stop.left q (f ())) : endsIn Stop.left q (checkRange k va n s >>= f) :=
  endsIn_check h (fun e he => by unfold checkRange at he; repeat' split at he
                                 all_goals cases he
                                 all_goals rfl) (fun _ => hf)

theorem formKept_checkScalar (k : AccKind) (c : AccClass) (va : Word) (n : Nat) : formKeptV (checkScalar k c va n s) := by
  unfold checkScalar; split
  · exact h
  · exact endsIn_bindV (formKept_checkPage h _ _ _ _) fun t ph ht => endsIn_checkRange ht ht

theorem formKept_readUncached (pa n : Nat) : formKeptV (readUncached pa n s) := by
  have hr (t : State) (ht : Memory.wf t.mem = true) := wf_readHome ht pa n
  unfold readUncached
  exact endsIn_ite (endsIn_ite h h) (endsIn_ite h (endsIn_ite (hr _ (wf_ite h h)) (hr _ (wf_ite h h))))

@[simp] theorem wf_writeUncached (pa : Nat) (d : List Byte) (m : Byte) : Memory.wf (writeUncached pa d m s).mem = true := by
  unfold writeUncached; split <;> simp [h]

theorem formKept_loadPhys (home : Bool) (ph : Phys) (n : Nat) : formKeptV (loadPhys home ph n s) := by
  unfold loadPhys; split
  · split
    · exact wf_progress h
    · exact endsIn_bindV (formKept_readUncached h _ _) fun t d ht => ht
  · refine endsIn_bindV (formKept_loadLine h _ _ _) fun t d ht => ?_
    dsimp only; split <;> exact ht

theorem formKept_loadScalar (home : Bool) (c : AccClass) (va : Word) (n : Nat) : formKeptV (loadScalar home c va n s) :=
  endsIn_bindV (formKept_checkScalar h _ _ _ _) fun _ _ ht => formKept_loadPhys ht _ _ _

theorem formKept_storePhys (ph : Phys) (d : List Byte) (m : Byte) : formKept (storePhys ph d m s) := by
  unfold storePhys; split
  · split
    · exact wf_progress h
    · exact wf_writeUncached (by simpa using h) _ _ _
  · exact endsIn_bind (formKept_pushStores h _) fun t ht => ht

theorem formKept_storeScalar (va : Word) (d : List Byte) : formKept (storeScalar va d s) :=
  endsIn_bindV (formKept_checkScalar h _ _ _ _) fun _ _ ht => formKept_storePhys ht _ _ _

theorem formKept_checkPieces (k : AccKind) (l : List (Nat × Nat)) : formKeptV (checkPieces k l s) := by
  induction l generalizing s with
  | nil => exact h
  | cons p l ih =>
    exact endsIn_bindV (formKept_checkPage h _ _ _ _) fun t ph ht => endsIn_bindV (ih ht) fun u r hu => hu

theorem formKept_checkRow (k : AccKind) (align : Nat) (va : Word) (n : Nat) : formKeptV (checkRow k align va n s) := by
  unfold checkRow; split
  · exact h
  · refine endsIn_bindV (formKept_checkPieces h _ _) fun t ps ht => endsIn_check ht (fun e he => ?_) fun _ => ht
    unfold checkRowRange at he; dsimp only at he
    repeat' split at he
    all_goals cases he
    all_goals rfl

theorem formKept_loadPieces (l : List (Nat × Nat)) : formKeptV (loadPieces l s) := by
  induction l generalizing s with
  | nil => exact h
  | cons p l ih => exact endsIn_bindV (formKept_loadPhys h _ _ _) fun t d ht => endsIn_bindV (ih ht) fun u r hu => hu

theorem formKept_loadRow (align : Nat) (va : Word) (n : Nat) : formKeptV (loadRow align va n s) :=
  endsIn_bindV (formKept_checkRow h _ _ _ _) fun _ _ ht => formKept_loadPieces ht _

theorem formKept_storePieces (l : List (Nat × List Byte)) : formKept (storePieces l s) :=
  endsIn_bind (formKept_pushStores h _) fun _ ht =>
    wf_foldl (f := fun s (p : Nat × List Byte) => noteRaces p.1 p.2.length s) (fun _ _ hu => hu) l ht

end

end Sys2Proof.Machine

/-! PROOFS. How instructions end, registers, branches, ordering and atomics keep memory's form (R109 to R147). -/

namespace Sys2Proof.Machine

/-! ## How an instruction ends -/

/-- The outcome is a next state, and memory that has its canonical form has it there too. -/
def stepsFrom (s : State) (o : Out) : Prop :=
  ∃ t, o = .next t ∧ (Memory.wf s.mem = true → Memory.wf t.mem = true)

theorem stepsFrom_next {s t : State} (h : Memory.wf s.mem = true → Memory.wf t.mem = true) : stepsFrom s (.next t) :=
  ⟨t, rfl, h⟩

theorem stepsFrom_of_mem {s t : State} (h : t.mem = s.mem) : stepsFrom s (.next t) :=
  ⟨t, rfl, fun hs => h ▸ hs⟩

theorem stepsFrom_ite {s : State} {c : Prop} [Decidable c] {x y : Out} (hx : stepsFrom s x) (hy : stepsFrom s y) :
    stepsFrom s (if c then x else y) := by
  split <;> assumption

theorem stepsFrom_runRep {fm : Form} {len : Nat} {body : Nat → Nat → State → Run} {s : State}
    (hb : ∀ j k, Memory.wf s.mem = true → formKept (body j k s)) : stepsFrom s (runRep fm len body s) := by
  obtain ⟨t, ht⟩ := runRep_next fm len body s
  refine ⟨t, ht, fun h => ?_⟩
  cases hs : startAt fm s with
  | none => rw [runRep_none hs] at ht; cases ht; simpa using h
  | some x =>
    have hk := hb x.1 x.2 h
    cases hr : body x.1 x.2 s with
    | ok u => rw [runRep_ok hs hr] at ht; cases ht; rw [hr] at hk; have hu : Memory.wf u.mem = true := hk; simpa using hu
    | error e =>
      rw [hr] at hk
      cases e with
      | trap x u => rw [runRep_trap hs hr] at ht; cases ht; have hu : Memory.wf u.mem = true := hk; simpa using hu
      | wait u => rw [runRep_wait hs hr] at ht; cases ht; exact hk

theorem stepsFrom_runOne {len : Nat} {body : State → Run} {s : State}
    (hb : Memory.wf s.mem = true → formKept (body s)) : stepsFrom s (runOne len body s) := by
  obtain ⟨t, ht⟩ := runOne_next len body s
  refine ⟨t, ht, fun h => ?_⟩
  have hk := hb h
  cases hr : body s with
  | ok u => rw [runOne_ok hr] at ht; rw [hr] at hk; cases ht; have hu : Memory.wf u.mem = true := hk; simpa using hu
  | error e =>
    rw [hr] at hk
    cases e with
    | trap x u => rw [runOne_trap hr] at ht; cases ht; have hu : Memory.wf u.mem = true := hk; simpa using hu
    | wait u => unfold runOne at ht; rw [hr] at ht; cases ht; exact hk

theorem stepsFrom_runTo {body : State → RunV Word} {s : State}
    (hb : Memory.wf s.mem = true → formKeptV (body s)) : stepsFrom s (runTo body s) := by
  obtain ⟨t, ht⟩ := runTo_next body s
  refine ⟨t, ht, fun h => ?_⟩
  have hk := hb h
  cases hr : body s with
  | ok x => rw [runTo_ok hr] at ht; rw [hr] at hk; cases ht; have hu : Memory.wf x.1.mem = true := hk; simpa using hu
  | error e =>
    rw [hr] at hk
    cases e with
    | trap x u => rw [runTo_trap hr] at ht; cases ht; have hu : Memory.wf u.mem = true := hk; simpa using hu
    | wait u => unfold runTo at ht; rw [hr] at ht; cases ht; exact hk

theorem stepsFrom_runEvent {s : State} {r : Run} (hb : Memory.wf s.mem = true → formKept r) :
    stepsFrom s (runEvent s r) := by
  obtain ⟨t, ht⟩ := runEvent_next s r
  refine ⟨t, ht, fun h => ?_⟩
  have hk := hb h
  unfold runEvent at ht
  split at ht
  all_goals cases ht
  · exact hk
  · exact hk
  · exact h

/-! ## Registers -/

section
variable {s : State}

@[simp] theorem mem_wfn (n v : Nat) : (wfn n v s).mem = s.mem := by simp [wfn]

theorem mem_wg (n : Nat) (v : Word) : (wg s n v).mem = s.mem := by simp only [wg_frame]

theorem wf_of_mem {t : State} (e : t.mem = s.mem) (h : Memory.wf s.mem = true) : Memory.wf t.mem = true := e ▸ h

@[simp] theorem mem_setXstate (x : Word) : (setXstate x s).mem = s.mem := by
  unfold setXstate; rfl

@[simp] theorem mem_setProgress (rep tprog rfc : Nat) : (setProgress rep tprog rfc s).mem = s.mem := by
  unfold setProgress; exact mem_setXstate _

@[simp] theorem mem_recordRepeats : (recordRepeats s).mem = s.mem := by
  unfold recordRepeats; split <;> simp

@[simp] theorem mem_noteFault (va : Word) : (noteFault va s).mem = s.mem := rfl

@[simp] theorem mem_takeFetchTrap (t : Trap) : (takeFetchTrap t s).mem = s.mem := by
  unfold takeFetchTrap
  dsimp only
  repeat' split
  all_goals simp

@[simp] theorem mem_takeAsync (code detail : Nat) (tval : Word) : (takeAsync code detail tval s).mem = s.mem := by
  simp [takeAsync]

@[simp] theorem mem_enter (lvl code detail : Nat) (tval pc : Word) : (enter lvl code detail tval pc s).mem = s.mem := by
  simp

@[simp] theorem mem_haltCore : (haltCore s).mem = s.mem := rfl

@[simp] theorem mem_returnFrom (lvl : Nat) : (returnFrom lvl s).mem = s.mem := rfl

@[simp] theorem mem_returnFromUser : (returnFromUser s).mem = s.mem := rfl

variable (h : Memory.wf s.mem = true)
include h

theorem formKept_ok : formKept (.ok s) := h

/-- Sources are read, and something that writes no memory follows. -/
theorem formKept_needOk {l : List Src} {t : State} (ht : t.mem = s.mem) : formKept (need s l >>= fun _ => .ok t) :=
  endsIn_need h (wf_of_mem ht h)

theorem formKept_fpRetire {raised : Nat} {write : State → State} (hw : (write s).mem = s.mem) :
    formKept (fpRetire raised write s) := by
  unfold fpRetire
  exact endsIn_ite h (wf_of_mem (by simpa using hw) h)

omit h in
theorem formKept_fromUnit {k : Nat} {r : Run} (hr : formKept r) : formKept (fromUnit k r) := by
  unfold fromUnit; split <;> exact hr

theorem formKept_aluR (fm : Form) (d a b : Nat) (f : Word → Word → Word) (j k : Nat) :
    formKept (aluR fm d a b f j k s) := formKept_needOk h (by simp)

theorem formKept_aluU (fm : Form) (d a : Nat) (f : Word → Word) (j k : Nat) : formKept (aluU fm d a f j k s) :=
  formKept_needOk h (by simp)

theorem formKept_aluI (fm : Form) (d a : Nat) (imm : Int) (f : Word → Word → Word) (j k : Nat) :
    formKept (aluI fm d a imm f j k s) := formKept_needOk h (by simp)

theorem formKept_aluN (fm : Form) (d a imm : Nat) (f : Word → Nat → Word) (j k : Nat) :
    formKept (aluN fm d a imm f j k s) := formKept_needOk h (by simp)

theorem formKept_predR (d a b : Nat) (f : Bool → Bool → Bool) : formKept (predR d a b f s) :=
  formKept_needOk h (by simp)

theorem formKept_fp1 (fm : Form) (f : Fmt) (rx d a : Nat) (op : FpCtl → Nat → FRes) (j k : Nat) :
    formKept (fp1 fm f rx d a op j k s) := endsIn_need h (formKept_fpRetire h (by simp))

theorem formKept_fp2 (fm : Form) (f : Fmt) (rx d a b : Nat) (op : FpCtl → Nat → Nat → FRes) (j k : Nat) :
    formKept (fp2 fm f rx d a b op j k s) := endsIn_need h (formKept_fpRetire h (by simp))

theorem formKept_fp3 (fm : Form) (f : Fmt) (rx d a b : Nat) (np nd : Bool) (j k : Nat) :
    formKept (fp3 fm f rx d a b np nd j k s) := endsIn_need h (formKept_fpRetire h (by simp))

/-! ## Branches -/

theorem formKept_branchIf (fm : Form) (page d : Nat) (imm : Int) : formKeptV (branchIf fm page d imm s) := by
  unfold branchIf
  rcases need_cases s [.p d] with hn | hn <;> rw [hn] <;> exact h

theorem formKept_jumpLink (fm : Form) (page d : Nat) (imm : Int) : formKeptV (jumpLink fm page d imm s) :=
  wf_of_mem (t := wg s d _) (by simp) h

theorem formKept_jumpReg (fm : Form) (page d a : Nat) (imm : Int) : formKeptV (jumpReg fm page d a imm s) := by
  unfold jumpReg
  rcases need_cases s [.g a] with hn | hn <;> rw [hn]
  · exact endsIn_ite h (wf_of_mem (t := wg s d _) (by simp) h)
  · exact h

/-! ## Wayside entries and ordering -/

omit h in
@[simp] theorem serveConfirm_mem (g : Word) (line : Nat) : (serveConfirm g line s).mem = s.mem := by
  unfold serveConfirm; dsimp only; split <;> rfl

omit h in
@[simp] theorem mem_answerWayside (g : Word) (line : Nat) : (answerWayside g line s).mem = s.mem := by
  unfold answerWayside; dsimp only
  repeat' split
  all_goals simp

omit h in
@[simp] theorem mem_timeoutWayside (g : Word) (line : Nat) : (timeoutWayside g line s).mem = s.mem := by
  unfold timeoutWayside; dsimp only
  repeat' split
  all_goals simp

omit h in
@[simp] theorem mem_progressWayside : (progressWayside s).mem = s.mem := by
  unfold progressWayside
  repeat' split
  all_goals simp

omit h in
@[simp] theorem mem_freeWayside : (freeWayside s).mem = s.mem := rfl

theorem formKept_acquireAt (scope : Nat) : formKept (acquireAt scope s) := by
  unfold acquireAt
  exact endsIn_ite h (formKept_clearing (s := heardAll s) h)

/-- What follows the rule of the wayside entries. -/
theorem endsIn_waysideRule {β : Type} {q : β → Prop} {scope : Nat} {f : Unit → Except Stop β}
    (hf : endsIn Stop.left q (f ())) : endsIn Stop.left q (waysideRule scope s >>= f) := by
  refine endsIn_bind (p := fun _ => True) ?_ fun _ _ => hf
  unfold waysideRule
  repeat' split
  · trivial
  · exact wf_of_mem mem_progressWayside h
  · trivial
  · exact h

theorem formKept_releaseAt (scope : Nat) : formKept (releaseAt scope s) :=
  endsIn_waysideRule h (endsIn_ite h (formKept_awaitStores h _))

theorem formKept_awaitMsgs : formKept (awaitMsgs s) := endsIn_ite h (wf_progress h)

@[simp] theorem wf_addWayside (va : Word) (x : Copy) : Memory.wf (addWayside va x s).mem = true := by
  unfold addWayside
  exact wf_ite h (wf_applyWts h _ _)

theorem formKept_loadWayside (va : Word) (ph : Phys) (n : Nat) : formKeptV (loadWayside va ph n s) := by
  unfold loadWayside; split
  · exact formKept_loadPhys h _ _ _
  · next x _ =>
    have hadd := wf_addWayside (s := heard ph.pa n { s with coh := readToken s.cur x.line s.coh }) h va x
    exact endsIn_ite h (endsIn_ite (wf_progress h) (endsIn_ite h hadd))

theorem formKept_fence (k : Fk) (sc : Scope) :
    formKept (match k with
      | .load => (.ok s : Run)
      | .store => if sc.code < 2 then .ok s else awaitStores sc.code s
      | .acquire => acquireAt sc.code s
      | .release => releaseAt sc.code s
      | .sc => do
        let _ ← waysideRule sc.code s
        let s ← awaitStores sc.code s
        let s ← awaitMsgs s
        acquireAt sc.code s) := by
  cases k
  case load => exact h
  case store => exact endsIn_ite h (formKept_awaitStores h _)
  case acquire => exact formKept_acquireAt h _
  case release => exact formKept_releaseAt h _
  case sc => exact endsIn_waysideRule h (endsIn_bind (formKept_awaitStores h _) fun _ ht =>
    endsIn_bind (formKept_awaitMsgs ht) fun _ hu => formKept_acquireAt hu _)

/-! ## Loads, stores and atomics -/

theorem formKept_loadG (home : Bool) (va : Word) (n d : Nat) (f : List Byte → Word) : formKept (loadG home va n d f s) :=
  endsIn_bindV (formKept_loadScalar h _ _ _ _) fun t v ht => wf_of_mem (t := wg t d (f v)) (by simp) ht

theorem formKept_loadF (va : Word) (n d : Nat) : formKept (loadF va n d s) :=
  endsIn_bindV (formKept_loadScalar h _ _ _ _) fun t v ht => wf_of_mem (t := wf t d (loadedU v)) (by simp) ht

@[simp] theorem wf_askFill (pa : Nat) : Memory.wf (askFill pa s).mem = true := by
  unfold askFill; exact wf_ite h (wf_serveFill h _ _)

@[simp] theorem wf_prefetchLine (lv : Pf) (pa : Nat) : Memory.wf (prefetchLine lv pa s).mem = true := by
  have hask (c : Coh) : Memory.wf (askFill pa { s with coh := c }).mem = true := wf_askFill (s := { s with coh := c }) h _
  unfold prefetchLine
  refine wf_ite h ?_
  split
  · exact hask _
  · exact h
  · exact hask _

@[simp] theorem wf_serveAtomicAt (i : Nat) : Memory.wf (serveAtomicAt i s).mem = true := by
  unfold serveAtomicAt; split
  · exact h
  · dsimp only; split <;> simp [h]

@[simp] theorem wf_serveAtomicOf (g : Word) : Memory.wf (serveAtomicOf g s).mem = true := by
  unfold serveAtomicOf; split <;> simp [h]

omit h in
@[simp] theorem mem_sendAtomic (op : AmoOp) (pa n : Nat) (src cmp : Word) : (sendAtomic op pa n src cmp s).mem = s.mem := by
  unfold sendAtomic; dsimp only; split <;> simp

@[simp] theorem wf_raceAtomic (op : AmoOp) (pa n : Nat) (src cmp : Word) :
    Memory.wf (raceAtomic op pa n src cmp s).mem = true := by
  unfold raceAtomic; dsimp only; split <;> simp [h]

theorem formKept_startAtomic (op : AmoOp) (ph : Phys) (n : Nat) (src cmp : Word) :
    formKept (startAtomic op ph n src cmp s) := by
  have hown (t : State) (ht : Memory.wf t.mem = true) :
      formKept (if linePoisoned t (lineOf ph.pa) then raisePoison t
        else .ok { (amoAt s.ctx.prv.gtid op ph.pa n src cmp t).1 with
          ctx.aux.sent := .atomicAnswer (amoAt s.ctx.prv.gtid op ph.pa n src cmp t).2.1
            (amoAt s.ctx.prv.gtid op ph.pa n src cmp t).2.2 }) := endsIn_ite ht (wf_amoAt ht _ _ _ _ _ _)
  unfold startAtomic
  refine endsIn_ite h (endsIn_ite (endsIn_ite h (endsIn_ite (wf_progress h) (wf_raceAtomic h _ _ _ _ _)))
    (endsIn_ite (hown _ (wf_ite h h)) (endsIn_ite h ?_)))
  exact wf_of_mem (mem_sendAtomic _ _ _ _ _) h

theorem endsIn_atomicTurn {β : Type} {q : β → Prop} {pa n : Nat} {f : Unit → Except Stop β}
    (hf : endsIn Stop.left q (f ())) : endsIn Stop.left q (atomicTurn pa n s >>= f) :=
  endsIn_bind (p := fun _ => True) (endsIn_ite (wf_progress h) trivial) fun _ _ => hf

theorem formKept_runAtomic (op : AmoOp) (rel : Option Nat) (va : Word) (n : Nat) (src cmp : Word) :
    formKeptV (runAtomic op rel va n src cmp s) := by
  unfold runAtomic; split
  · exact h
  · exact h
  · exact wf_serveAtomicOf h _
  · refine endsIn_bindV (formKept_checkScalar h _ _ _ _) fun t ph ht => ?_
    dsimp only
    cases rel
    case' none => refine endsIn_bind (p := fun u : State => Memory.wf u.mem = true) (x := .ok t) ht fun u hu => ?_
    case' some => refine endsIn_bind (formKept_releaseAt ht _) fun u hu => ?_
    all_goals
      refine endsIn_bind (formKept_awaitStores hu _) fun v hv => endsIn_atomicTurn hv
        (endsIn_bind (formKept_startAtomic hv _ _ _ _ _) fun w hw => ?_)
      split <;> exact hw

theorem formKept_amoInt (op : AmoOp) (o : Order) (z : Wd) (sc : Scope) (d a b : Nat) :
    formKept (amoInt op o z sc d a b s) :=
  endsIn_need h <| endsIn_bindV (formKept_runAtomic h _ _ _ _ _ _) fun t v ht => by
    have hret (u : State) (hu : Memory.wf u.mem = true) : formKept (.ok (wg u d (ofInt (sext v.1.toNat (8 * z.bytes))))) :=
      wf_of_mem (t := wg u d _) (by simp) hu
    exact endsIn_ite (endsIn_bind (formKept_acquireAt ht _) hret) (hret t ht)

end

end Sys2Proof.Machine

/-! PROOFS. Interrupts, save areas, engines, tiles and drains keep memory's form (R163 to R186, R283, R304). -/

namespace Sys2Proof.Machine

/-! ## Interrupts and traps -/

section
variable {s : State}

theorem mem_ite {c : Prop} [Decidable c] {a b : State} {m : List Host.Cell} (ha : a.mem = m) (hb : b.mem = m) :
    (if c then a else b).mem = m := by
  split <;> assumption

@[simp] theorem mem_clearInt (x : Bool × Nat × Nat) : (clearInt x s).mem = s.mem := by
  unfold clearInt; split <;> rfl

@[simp] theorem withdrawSpawn_mem (g : Word) : (withdrawSpawn g s).mem = s.mem := by
  unfold withdrawSpawn; rfl

@[simp] theorem mem_abandon : (abandon s).mem = s.mem := by
  unfold abandon; split <;> simp

@[simp] theorem mem_takePreempt (idx : Nat) (entry : Word) : (takePreempt idx entry s).mem = s.mem := by
  unfold takePreempt; dsimp only; split <;> simp

theorem stepsFrom_execAsyncCauseDelivery : stepsFrom s (execAsyncCauseDelivery s) := by
  unfold execAsyncCauseDelivery
  repeat' apply stepsFrom_ite
  all_goals exact stepsFrom_of_mem (by simp)

theorem stepsFrom_execIllegalInstruction : stepsFrom s (execIllegalInstruction s) :=
  stepsFrom_ite (stepsFrom_of_mem rfl) (stepsFrom_of_mem (by simp))

theorem stepsFrom_execInstructionFetchFault (ff : FetchFault) : stepsFrom s (execInstructionFetchFault ff s) := by
  refine stepsFrom_ite (stepsFrom_of_mem rfl) ?_
  cases ff <;> exact stepsFrom_of_mem (by simp)

theorem stepsFrom_execInterruptEntry : stepsFrom s (execInterruptEntry s) := by
  refine stepsFrom_ite (stepsFrom_of_mem rfl) ?_
  split
  all_goals
    repeat' apply stepsFrom_ite
    all_goals exact stepsFrom_of_mem (by simp)

/-! ## Save areas -/

@[simp] theorem mem_poisonLines (l : List Nat) : (poisonLines l s).mem = s.mem :=
  mem_foldl (f := fun s x => { s with coh := poisonLine x s.coh }) (fun _ _ => rfl) _ _

@[simp] theorem wf_writeBlock (h : Memory.wf s.mem = true) (c : Ctx) (area : Nat) (seq : Word) (i : Nat) :
    Memory.wf (writeBlock c area seq i s).mem = true := by simp [writeBlock, h]

@[simp] theorem wf_writeExt (h : Memory.wf s.mem = true) (x : Nat) (seq : Word) (str : List Byte) (j : Nat) :
    Memory.wf (writeExt x seq str j s).mem = true := wf_agentWrite h _ _

@[simp] theorem wf_setAreaFlags (h : Memory.wf s.mem = true) (area : Nat) (v : Word) :
    Memory.wf (setAreaFlags area v s).mem = true := wf_agentWrite h _ _

@[simp] theorem wf_markPoisoned (h : Memory.wf s.mem = true) (area reason : Nat) :
    Memory.wf (markPoisoned area reason s).mem = true := wf_setAreaFlags h _ _

@[simp] theorem wf_spillTo (h : Memory.wf s.mem = true) (c : Ctx) (area : Nat) :
    Memory.wf (spillTo c area s).mem = true := by
  unfold spillTo
  extract_lets seq _ s0 x0 xb str x fits s1 s2 s3 len s4 s5
  have h1 : Memory.wf s1.mem = true := wf_foldl (fun _ _ ht => wf_writeBlock ht _ _ _ _) _ (s := s0) h
  have h2 : Memory.wf s2.mem = true := wf_ite h1 (wf_foldl (fun _ _ ht => wf_writeExt ht _ _ _ _) _ h1)
  have h3 : Memory.wf s3.mem = true := wf_ite (wf_of_mem (mem_poisonLines _) h2) h2
  have h5 : Memory.wf s5.mem = true := wf_agentWrite (wf_agentWrite (wf_agentWrite h3 _ _) _ _) _ _
  refine wf_setAreaFlags ?_ _ _
  exact h5

end

/-! ## Engines and tiles -/

section
variable {s : State}

@[simp] theorem mem_setEngine (n : Nat) (e : Engine) : (setEngine n e s).mem = s.mem := rfl

@[simp] theorem mem_putTile (n : Nat) (t : List Tile) : (putTile n t s).mem = s.mem := by unfold putTile; rfl

@[simp] theorem mem_putAcc (n : Nat) (a : Acc) : (putAcc n a s).mem = s.mem := by unfold putAcc; rfl

@[simp] theorem mem_undefNames (core : Nat) : (undefNames core s).mem = s.mem := by
  unfold undefNames; split
  · rfl
  · exact mem_ite rfl (mem_setActive _ _)

@[simp] theorem mem_undefRivals : (undefRivals s).mem = s.mem := mem_foldl (fun _ _ => mem_undefNames _) _ _

@[simp] theorem mem_endOverlap : (endOverlap s).mem = s.mem := by simp [endOverlap]

variable (h : Memory.wf s.mem = true)
include h

theorem endsIn_inService {β : Type} {q : β → Prop} {f : Unit → Except Stop β} (hf : endsIn Stop.left q (f ())) :
    endsIn Stop.left q (inService s >>= f) :=
  endsIn_check h (fun e he => by unfold inService at he; split at he <;> cases he; rfl) (fun _ => hf)

theorem formKept_loadTileState (names : List Nat) : formKept (loadTileState names s) := by
  unfold loadTileState
  extract_lets fail outside
  have hfail (d a r : Nat) : formKept (fail d a r) := by
    unfold fail
    show Memory.wf (State.mem _) = true
    split
    · exact h
    · exact wf_markPoisoned h _ _
  split
  · split
    · exact h
    · exact hfail _ _ _
    · exact h
  · refine endsIn_ite h ?_
    split
    · exact h
    · exact hfail _ _ _
    · exact h

theorem formKept_obtainGang : formKept (obtainGang s) := by
  unfold obtainGang; split
  · exact h
  · exact endsIn_ite h (endsIn_ite h (wf_progress (s := { s with ctx.aux.regang := _ }) h))

theorem formKept_tileWork (names : List Nat) : formKept (tileWork names s) :=
  endsIn_bind (formKept_loadTileState h _) fun _ ht => formKept_obtainGang ht

theorem formKept_granted (names : List Nat) : formKept (granted names s) :=
  endsIn_bind (formKept_tileWork h _) fun _ ht => endsIn_ite ht (wf_progress ht)

/-- A row that is read leaves memory in canonical form. -/
def rowsKept (fetch : Nat → State → Except Stop (State × LoadedRow)) : Prop :=
  ∀ i t, Memory.wf t.mem = true → formKeptV (fetch i t)

theorem formKept_loadRows {fetch : Nat → State → Except Stop (State × LoadedRow)}
    {commit : List LoadedRow → State → State} (hf : rowsKept fetch) (hc : ∀ l t, (commit l t).mem = t.mem)
    (n i : Nat) (rows : List LoadedRow) : formKept (loadRows fetch commit n i rows s) := by
  induction n generalizing s i rows with
  | zero => exact wf_of_mem (hc _ _) h
  | succ n ih =>
    have hk := hf i s h
    unfold loadRows
    split
    · next hr => rw [hr] at hk; exact ih hk _ _
    · next hr => rw [hr] at hk; exact wf_of_mem (hc _ _) hk
    · next hr => rw [hr] at hk; exact hk

theorem formKept_loadTile {fetch : Nat → State → Except Stop (State × LoadedRow)} (hf : rowsKept fetch) (b0 : Bool)
    (n : Nat) (kind : Option SxK) (d k : Nat) (src : List Src) : formKept (loadTile b0 n kind d k src fetch s) :=
  formKept_fromUnit <| endsIn_inService h <| endsIn_ite h <| endsIn_need h <|
    endsIn_bind (formKept_granted h _) fun _ ht => formKept_loadRows ht hf (fun _ _ => mem_putTile _ _) _ _ _

theorem formKept_readScales (va : Word) (n pos : Nat) (d : List Byte) : formKeptV (readScales va n pos d s) := by
  induction n generalizing s pos d with
  | zero =>
    unfold readScales
    exact endsIn_ite h (endsIn_bindV (formKept_loadRow h _ _ _) fun _ _ ht => ht)
  | succ n ih =>
    unfold readScales
    refine endsIn_ite (ih h _ _) (endsIn_bindV (formKept_loadRow h _ _ _) fun _ _ ht => ih ht _ _)

theorem formKept_loadSxRow (k : SxK) (pa sa : Word) (i : Nat) : formKeptV (loadSxRow k pa sa i s) :=
  endsIn_bindV (formKept_loadRow h _ _ _) fun t v ht => endsIn_bindV (formKept_readScales ht _ _ _ _) fun u w hu => by
    dsimp only
    split <;> exact hu

theorem formKept_checkRows (l : List OutRow) : formKeptV (checkRows l s) := by
  induction l generalizing s with
  | nil => exact h
  | cons r l ih =>
    unfold checkRows
    extract_lets rest
    have hrest (x : State × List (Nat × Nat)) (hx : Memory.wf x.1.mem = true) : formKeptV (rest x) :=
      endsIn_ite hx (endsIn_bindV (ih hx) fun _ _ ht => ht)
    exact endsIn_ite (hrest (s, []) h : formKeptV (rest (s, []))) (endsIn_bind (formKept_checkRow h _ _ _ _) hrest)

theorem formKept_blockStore (rows : List OutRow) : formKept (blockStore rows s) :=
  endsIn_bindV (formKept_checkRows h _) fun _ _ ht => formKept_storePieces ht _

theorem formKept_moveAcc (tag : Tag) (d a : Nat) : formKept (moveAcc tag d a s) := by
  unfold moveAcc
  exact endsIn_ite (wf_of_mem (mem_putAcc _ _) h) (endsIn_ite h (endsIn_ite h (endsIn_ite (wf_of_mem (mem_putAcc _ _) h)
    (wf_of_mem (t := orFlags _ (putAcc _ _ s)) (by simp) h))))

theorem formKept_query (names : List Nat) (d : Nat) (f : State → Nat) : formKept (query names d f s) :=
  endsIn_inService h <| endsIn_bind (formKept_tileWork h _) fun t ht =>
    wf_of_mem (t := wg t d (BitVec.ofNat 64 (f t))) (by simp) ht

theorem formKept_drain (o : OFmt) (o2 : Option OFmt) (free : Bool) (fs ft d a b : Nat) :
    formKept (drain o o2 free fs ft d a b s) := by
  refine endsIn_inService h <| endsIn_ite h <| endsIn_need h <| endsIn_bind (formKept_granted h _) fun t ht =>
    endsIn_bind (formKept_blockStore ht _) fun u hu => wf_ite (wf_of_mem (mem_putAcc _ _) ?_) ?_
  all_goals simpa using hu

end

end Sys2Proof.Machine

/-! PROOFS. Vectors and system registers keep memory's form (R197 to R215, R286 to R293). -/

namespace Sys2Proof.Machine

/-! ## Vectors -/

section
variable {s : State}

@[simp] theorem mem_vecWrite (t : Tag) (f : Nat) (outs : List (List (Option Nat))) : (vecWrite t f outs s).mem = s.mem :=
  mem_putAcc _ _

@[simp] theorem mem_commitLanes (t : Tag) (d : Nat) (outs : List (List (Option Nat))) :
    (commitLanes t d outs s).mem = s.mem := mem_ite (mem_vecWrite _ _ _) rfl

/-- A part of a vector instruction that leaves memory in canonical form. -/
def bodyKept (body : Tag → State → Run) : Prop := ∀ t u, Memory.wf u.mem = true → formKept (body t u)

variable (h : Memory.wf s.mem = true)
include h

theorem formKept_vecRun {body : Tag → State → Run} (hb : bodyKept body) (typed wide : List Nat) (loose : Bool)
    (dest : Option Nat) (ok : Tag → Bool) (src : List Src) : formKept (vecRun typed wide loose dest ok src body s) := by
  refine endsIn_inService h ?_
  split
  · exact h
  · exact endsIn_ite h <| endsIn_need h <| endsIn_bind (formKept_granted h _) fun _ ht => hb _ _ ht

theorem formKept_vecEach (t : Tag) (z : Bool) (act : List Bool) (d : Nat) (srcs : List Nat)
    (op : List (List Lane) → List Lane) : formKept (vecEach t z act d srcs op s) :=
  endsIn_ite h (formKept_fpRetire h (mem_vecWrite _ _ _))

theorem formKept_vec2 (fm : Form) (page : Nat) (z : Bool) (k d a : Nat) (ok : Tag → Bool) (src : List Src)
    (op : Tag → State → List (List Lane) → List Lane) (j : Nat) : formKept (vec2 fm page z k d a ok src op j s) :=
  formKept_vecRun h (fun _ _ ht => formKept_vecEach ht _ _ _ _ _ _) _ _ _ _ _ _

omit h in
theorem stepsFrom_vec3 (fm : Form) (page : Nat) (z : Bool) (k d a b : Nat) (loose dSrc : Bool) (ok : Tag → Bool)
    (op : Tag → State → List (List Lane) → List Lane) : stepsFrom s (vec3 fm page z k d a b loose dSrc ok op s) :=
  stepsFrom_runRep fun _ _ h => formKept_vecRun h (fun _ _ ht => formKept_vecEach ht _ _ _ _ _ _) _ _ _ _ _ _

omit h in
theorem stepsFrom_vecApprox (fm : Form) (z : Bool) (k d a : Nat) (ff : EFmt → FpCtl → Nat → FRes) :
    stepsFrom s (vecApprox fm z k d a ff s) := stepsFrom_runRep fun _ _ h => formKept_vec2 h _ _ _ _ _ _ _ _ _ _

theorem formKept_moveLane {write : Tag → Nat → State → State} (hw : ∀ t v u, (write t v u).mem = u.mem) (z : Bool)
    (k a b : Nat) : formKept (moveLane z k a b write s) := by
  refine formKept_vecRun h (fun t u hu => ?_) _ _ _ _ _ _
  refine endsIn_ite hu ?_
  split
  · exact hu
  · exact formKept_fpRetire hu (hw _ _ _)

theorem formKept_loadLanes {commit : List (Option Nat) → State → State} (hc : ∀ l t, (commit l t).mem = t.mem)
    (addr : Nat → Word) (w : Nat) (z : Bool) (act : List Bool) (i : Nat) (out : List (Option Nat)) :
    formKeptV (loadLanes addr w z commit act i out s) := by
  induction act generalizing s i out with
  | nil => exact h
  | cons b act ih =>
    cases b
    · exact ih h _ _
    · have hk := formKept_loadScalar h false .row (addr i) w
      unfold loadLanes
      split
      · next hr => rw [hr] at hk; exact ih hk _ _
      · next hr => rw [hr] at hk; exact wf_of_mem (hc _ _) hk
      · next hr => rw [hr] at hk; exact hk

theorem formKept_vecLoad (z : Bool) (k d k0 : Nat) (ofs : Option Nat) (src : List Src)
    (addr : Tag → List Lane → State → Nat → Word) : formKept (vecLoad z k d k0 ofs src addr s) := by
  refine formKept_vecRun h (fun t u hu => ?_) _ _ _ _ _ _
  exact endsIn_ite hu <| endsIn_bindV (formKept_loadLanes hu (fun _ _ => mem_commitLanes _ _ _) _ _ _ _ _ _)
    fun _ _ hv => formKept_fpRetire hv (mem_vecWrite _ _ _)

theorem formKept_checkLanes (addr : Nat → Word) (w : Nat) (l : List (Bool × Lane)) (i : Nat) :
    formKeptV (checkLanes addr w l i s) := by
  induction l generalizing s i with
  | nil => exact h
  | cons x l ih =>
    obtain ⟨b, x⟩ := x
    cases b
    · exact ih h _
    · exact endsIn_bindV (formKept_checkScalar h _ _ _ _) fun _ _ ht => endsIn_bindV (ih ht _) fun _ _ hu => hu

theorem formKept_vecStore (k d : Nat) (ofs : Option Nat) (src : List Src)
    (addr : Tag → List Lane → State → Nat → Word) : formKept (vecStore k d ofs src addr s) := by
  refine formKept_vecRun h (fun t u hu => ?_) _ _ _ _ _ _
  refine endsIn_ite hu <| endsIn_bindV (formKept_checkLanes hu _ _ _ _) fun v ps hv => ?_
  refine endsIn_ite hv <| endsIn_bind (formKept_fpRetire hv rfl) fun _ _ => endsIn_bind (formKept_storePieces hv _)
    fun w hw => ?_
  exact wf_of_mem (t := orFlags _ w) (by simp) hw

omit h in
theorem stepsFrom_execVbcast (fm : Form) (z : Bool) (k d a b : Nat) : stepsFrom s (execVbcast fm z k d a b s) := by
  refine stepsFrom_runRep fun j k0 h => formKept_fromUnit (formKept_vecRun h (fun t u hu => ?_) _ _ _ _ _ _)
  dsimp only
  split
  · exact wf_of_mem (mem_vecWrite _ _ _) hu
  · have hk := formKept_loadScalar hu false .row (rg u (fm.a j a) + rg u (fm.b j b) * BitVec.ofNat 64 (laneBits t / 8))
      (laneBits t / 8)
    split
    · next hr => rw [hr] at hk; exact wf_of_mem (mem_vecWrite _ _ _) hk
    · next hr => rw [hr] at hk; exact wf_of_mem (mem_commitLanes _ _ _) hk
    · next hr => rw [hr] at hk; exact hk

end

/-! ## System registers and calls -/

section
variable {s : State}

@[simp] theorem mem_noteCall (len : Nat) : (noteCall len s).mem = s.mem := rfl

@[simp] theorem mem_tretTo : (tretTo s).mem = s.mem := by
  unfold tretTo
  have ht : (if s.pl = 0 then returnFromUser s else returnFrom s.pl s).mem = s.mem := mem_ite rfl (mem_returnFrom _)
  exact mem_ite (by simpa using ht) ht

@[simp] theorem mem_writeXstate (v : Word) : (writeXstate v s).mem = s.mem := by unfold writeXstate; rfl

@[simp] theorem mem_writeCelshr (v : Word) : (writeCelshr v s).mem = s.mem := mem_ite rfl rfl

@[simp] theorem mem_writeLockshr (v : Word) : (writeLockshr v s).mem = s.mem := mem_ite rfl rfl

@[simp] theorem mem_writeEngslot (v : Word) : (writeEngslot v s).mem = s.mem := mem_ite rfl rfl

@[simp] theorem mem_writeRprsel (v : Word) : (writeRprsel v s).mem = s.mem := by
  simp [writeRprsel]

@[simp] theorem mem_setHolderCtx (x : Holder) (c : Ctx) : (setHolderCtx x c s).mem = s.mem :=
  mem_ite (mem_setCore _ _) (mem_setActive _ _)

@[simp] theorem mem_scramble (acc : Bool) (row : Nat) (x : Holder) : (scramble acc row x s).mem = s.mem := by
  unfold scramble; split
  · rfl
  · exact mem_ite (mem_setHolderCtx _ _) (mem_setHolderCtx _ _)

@[simp] theorem mem_redirectRow (n : Nat) (e : RepairEntry) : (redirectRow n e s).mem = s.mem := by
  unfold redirectRow
  extract_lets hs pins loose s1
  have h1 : s1.mem = s.mem := mem_foldl (fun _ _ => mem_scramble _ _ _) _ _
  split
  · exact (mem_scramble _ _ _).trans h1
  · exact h1

@[simp] theorem mem_writeRpradd (v : Word) : (writeRpradd v s).mem = s.mem :=
  mem_ite rfl (mem_ite rfl ((mem_redirectRow _ _).trans rfl))

@[simp] theorem mem_writeBootst (v : Word) : (writeBootst v s).mem = s.mem := mem_ite rfl rfl

@[simp] theorem mem_noteHandler (v : Word) : (noteHandler v s).mem = s.mem := mem_ite rfl rfl

@[simp] theorem mem_healCtl (n : Nat) : (healCtl n s).mem = s.mem := rfl

@[simp] theorem mem_writePlain (n : Nat) (v : Word) : (writePlain n v s).mem = s.mem := by
  unfold writePlain; split
  all_goals try simp
  repeat' split
  all_goals rfl

variable (h : Memory.wf s.mem = true)
include h

theorem formKept_beforeMessage : formKept (beforeMessage s) :=
  endsIn_ite h (wf_progress h)

theorem formKept_writeIpi (v : Word) : formKept (writeIpi v s) :=
  endsIn_bind (formKept_beforeMessage h) fun _ ht => ht

theorem formKept_writeHostirq (v : Word) : formKept (writeHostirq v s) :=
  endsIn_bind (formKept_beforeMessage h) fun t ht => endsIn_ite (wf_of_mem (mem_sendMsix _ _) ht) (by
    split
    · exact ht
    · exact wf_of_mem (mem_sendMsix _ _) ht)

theorem formKept_writeSys (n : Nat) (v : Word) : formKept (writeSys n v s) := by
  unfold writeSys; split
  · exact wf_of_mem (mem_writeXstate v) h
  · exact formKept_writeIpi h v
  · exact formKept_writeHostirq h v
  · exact wf_of_mem (mem_writeCelshr v) h
  · exact wf_of_mem (mem_writeBootst v) h
  · exact wf_of_mem (mem_writeRprsel v) h
  · exact wf_of_mem (mem_writeRpradd v) h
  · exact wf_of_mem (mem_writePlain _ v) h

omit h in
theorem left_of_gate {n : Nat} {w : Bool} {e : Stop} (he : gate n w s = .error e) : e.left = s := by
  unfold gate at he
  repeat' split at he
  all_goals cases he
  all_goals rfl

theorem endsIn_gate {β : Type} {q : β → Prop} {n : Nat} {w : Bool} {f : Unit → Except Stop β}
    (hf : endsIn Stop.left q (f ())) : endsIn Stop.left q (gate n w s >>= f) :=
  endsIn_check h (fun _ he => left_of_gate he) (fun _ => hf)

theorem endsIn_gateSet {β : Type} {q : β → Prop} {n : Nat} {f : Unit → Except Stop β}
    (hf : endsIn Stop.left q (f ())) : endsIn Stop.left q (gateSet n s >>= f) :=
  endsIn_bind (p := fun _ => True) (endsIn_gate h (endsIn_ite h trivial)) fun _ _ => hf

theorem formKept_alter (n d a : Nat) (f : Word → Word) : formKept (do
    let _ ← gateSet n s
    let _ ← need s [.g a, .ctl n]
    let old := readSys n s
    let t ← writeSys n (f old) s
    .ok (wg t d old)) :=
  endsIn_gateSet h <| endsIn_need h <| endsIn_bind (formKept_writeSys h _ _) fun t ht =>
    wf_of_mem (t := wg t d _) (by simp) ht

omit h in
theorem stepsFrom_writeEvent (n : Nat) (v : Word) : stepsFrom s (writeEvent n v s) := by
  refine stepsFrom_ite (stepsFrom_of_mem rfl) ?_
  split
  · exact stepsFrom_of_mem rfl
  · exact stepsFrom_runEvent fun h => formKept_writeSys h _ _

omit h in
theorem stepsFrom_execSystemRegisterWrite (n : Nat) (v : Word) : stepsFrom s (execSystemRegisterWrite n v s) := by
  refine stepsFrom_ite (stepsFrom_of_mem rfl) ?_
  split
  · exact stepsFrom_of_mem rfl
  · exact stepsFrom_of_mem (mem_writePlain _ _)

omit h in
theorem stepsFrom_execTret (fm : Form) : stepsFrom s (execTret fm s) := by
  unfold execTret
  refine stepsFrom_ite (stepsFrom_ite (stepsFrom_of_mem (by simp)) ?_) ?_
  · rcases need_cases s [.ctl 0x005, .ctl 0x006] with hn | hn <;> rw [hn] <;> exact stepsFrom_of_mem (by simp)
  · rcases need_cases s [.ctl 0x100, .ctl (256 * s.pl + 3), .ctl (256 * s.pl + 4)] with hn | hn <;> rw [hn] <;>
      exact stepsFrom_of_mem (by simp)

omit h in
@[simp] theorem mem_countMessage (core pid : Nat) : (countMessage core pid s).mem = s.mem :=
  mem_ite rfl (mem_setCore _ _)

omit h in
theorem stepsFrom_execIpiMessage (core pid : Nat) : stepsFrom s (execIpiMessage core pid s) :=
  stepsFrom_ite (stepsFrom_of_mem (mem_countMessage _ _)) (stepsFrom_of_mem rfl)

end

end Sys2Proof.Machine

/-! PROOFS. The copy engine keeps memory's form (R219 to R237). -/

namespace Sys2Proof.Machine

/-! ## The copy engine -/

/-- As `formKeptV`, of a part of a copy command. -/
abbrev engKept {α : Type} (r : Except EngStop (State × α)) : Prop :=
  endsIn (fun e : EngStop => e.2.2) (fun x => Memory.wf x.1.mem = true) r

section
variable {s : State}

@[simp] theorem mem_putCmd (c : Cmd) : (putCmd c s).mem = s.mem := rfl

@[simp] theorem mem_failMember (code : Nat) (c : Cmd) : (failMember code c s).mem = s.mem := mem_ite (mem_putCmd _) rfl

@[simp] theorem mem_endMember (code addr : Nat) (c : Cmd) : (endMember code addr c s).mem = s.mem := rfl

@[simp] theorem mem_bindGroup (num pid : Nat) (l : List Word) : (bindGroup num pid l s).mem = s.mem := rfl

@[simp] theorem mem_abortCollective (grp id code : Nat) (except : Word) :
    (abortCollective grp id code except s).mem = s.mem :=
  mem_foldl (fun _ _ => mem_failMember _ _) _ _

@[simp] theorem mem_abortEverywhere (grp id code : Nat) (except : Word) :
    (abortEverywhere grp id code except s).mem = s.mem :=
  mem_tellAborts.trans (mem_abortCollective _ _ _ _)

@[simp] theorem mem_raiseAborts (lost : Word → Bool) : (raiseAborts lost s).mem = s.mem := rfl

@[simp] theorem mem_cancelCmd (c : Cmd) : (cancelCmd c s).mem = s.mem :=
  mem_ite ((mem_abortEverywhere _ _ _ _).trans (mem_putCmd _)) (mem_putCmd _)

@[simp] theorem mem_loseCmd (contained : Bool) (c : Cmd) : (loseCmd contained c s).mem = s.mem := rfl

@[simp] theorem mem_killCmds (g : Word) (code : Nat) : (killCmds g code s).mem = s.mem := by
  unfold killCmds
  extract_lets s1 s2 s3
  have h1 : s1.mem = s.mem := mem_foldl (fun _ _ => mem_loseCmd _ _) _ _
  have h2 : s2.mem = s.mem := mem_ite h1 h1
  have h3 : s3.mem = s.mem := (mem_foldl (fun _ _ => mem_abortEverywhere _ _ _ _) _ _).trans h2
  exact h3

@[simp] theorem mem_register (op : CmdOp) (d : Desc) (cw : Option (Nat × Bool)) (locks : List (Range × LockKind)) :
    (register op d cw locks s).mem = s.mem := by
  unfold register
  extract_lets id g o s1
  have h1 : s1.mem = s.mem := mem_ite rfl rfl
  exact h1

@[simp] theorem mem_loseWrite (cmd : Option Nat) (die : Nat) (g : Word) (pid pa : Nat) :
    (loseWrite cmd die g pid pa s).mem = s.mem := by
  unfold loseWrite; dsimp only
  split
  · exact mem_ite (mem_failMember _ _) (mem_putCmd _)
  · exact mem_loseStore _ _ _ _

variable (h : Memory.wf s.mem = true)
include h

theorem engKept_engTranslate (sp : Space) (k : AccKind) (va n : Nat) : engKept (engTranslate sp k va n s) := by
  have hk := formKept_translateIn (s := { s with core.tlb := [], core.notPresent := [] }) h sp k (BitVec.ofNat 64 va) n
  unfold engTranslate
  refine endsIn_ite h ?_
  split
  · next hr => rw [hr] at hk; exact endsIn_ite h hk
  · next hr => rw [hr] at hk; exact hk
  · next hr => rw [hr] at hk; exact hk

@[simp] theorem wf_easePair (pa : Nat) : Memory.wf (easePair pa s).mem = true := by
  unfold easePair
  exact wf_ite (wf_foldl (fun _ _ ht => wf_passMsg ht _) _ h) h

theorem engKept_engRead (c : Cmd) (va n : Nat) : engKept (engRead c va n s) := by
  refine endsIn_bindV (engKept_engTranslate h _ _ _ _) fun t pa ht => ?_
  dsimp only
  split
  · exact ht
  · have hp := wf_easePair ht pa
    generalize easePair pa t = u at hp
    have hcopy : Memory.wf (if localMem u pa
        then applyWts (c.core / 64) (lineOf pa) { u with coh := readToken c.core (lineOf pa) u.coh }
        else askRemote pa u).mem = true :=
      wf_ite (wf_applyWts (s := { u with coh := readToken c.core (lineOf pa) u.coh }) hp _ _)
        (wf_of_mem (mem_askRemote _) hp)
    exact endsIn_ite hp (endsIn_ite hcopy hcopy)

@[simp] theorem wf_engPut (c : Cmd) (pa : Nat) (d : List Byte) : Memory.wf (engPut c pa d s).mem = true :=
  wf_performStoreBy h _ _ _

theorem engKept_engWriteAt (c : Cmd) (va pa : Nat) (d : List Byte) : engKept (engWriteAt c va pa d s) := by
  unfold engWriteAt
  split
  · exact h
  · exact endsIn_ite (wf_easePair h _) (wf_engPut (wf_easePair h _) _ _ _)

theorem engKept_engWrite (c : Cmd) (va : Nat) (d : List Byte) : engKept (engWrite c va d s) :=
  endsIn_bindV (engKept_engTranslate h _ _ _ _) fun _ _ ht => engKept_engWriteAt ht _ _ _ _

theorem engKept_unlessHeld {x : Except EngStop (State × Unit)} (hx : engKept x) : engKept (unlessHeld s x) := by
  unfold unlessHeld
  split
  · exact hx
  · exact h
  · exact hx

theorem engKept_readBytes (c : Cmd) (fuel va n : Nat) : engKept (readBytes c fuel va n s) := by
  induction fuel generalizing s va n with
  | zero => exact h
  | succ fuel ih =>
    exact endsIn_ite h (endsIn_bindV (engKept_engRead h _ _ _) fun _ _ ht => endsIn_bindV (ih ht _ _) fun _ _ hu => hu)

theorem engKept_moveBytes (c : Cmd) (fuel src dst n : Nat) : engKept (moveBytes c fuel src dst n s) := by
  induction fuel generalizing s src dst n with
  | zero => exact h
  | succ fuel ih =>
    exact endsIn_ite h (endsIn_bindV (engKept_readBytes h _ _ _ _) fun _ _ ht =>
      endsIn_bindV (engKept_engWrite ht _ _ _) fun _ _ hu => ih hu _ _ _)

theorem engKept_writeBytes (c : Cmd) (f : Nat → Byte) (base fuel off n : Nat) :
    engKept (writeBytes c f base fuel off n s) := by
  induction fuel generalizing s off n with
  | zero => exact h
  | succ fuel ih =>
    exact endsIn_ite h (endsIn_bindV (engKept_engWrite h _ _ _) fun _ _ ht => ih ht _ _)

theorem engKept_writeRun (c : Cmd) (fuel va : Nat) (d : List Byte) : engKept (writeRun c fuel va d s) := by
  induction fuel generalizing s va d with
  | zero => exact h
  | succ fuel ih =>
    exact endsIn_ite h (endsIn_bindV (engKept_engWrite h _ _ _) fun _ _ ht => ih ht _ _)

theorem engKept_readRows (c : Cmd) (n : Nat) (l : List Nat) : engKept (readRows c n l s) := by
  induction l generalizing s with
  | nil => exact h
  | cons a l ih =>
    exact endsIn_bindV (engKept_readBytes h _ _ _ _) fun _ _ ht => endsIn_bindV (ih ht) fun _ _ hu => hu

theorem engKept_engAll {l : List (State → Except EngStop (State × Unit))}
    (hl : ∀ f ∈ l, ∀ t : State, Memory.wf t.mem = true → engKept (f t)) : engKept (engAll l s) := by
  induction l generalizing s with
  | nil => exact h
  | cons f l ih =>
    rw [List.forall_mem_cons] at hl
    exact endsIn_bindV (hl.1 s h) fun _ _ ht => ih ht hl.2

theorem engKept_writeFree (c : Cmd) (lo n : Nat) : engKept (writeFree c lo n s) := engKept_writeBytes h _ _ _ _ _ _

theorem engKept_freeRange (c : Cmd) (r : Range) : engKept (freeRange c r s) := endsIn_ite (engKept_writeFree h _ _ _) h

theorem engKept_gatherElems (c : Cmd) (n : Nat) (dst : Range) (l : List Nat) (pos : Nat) :
    engKept (gatherElems c n dst l pos s) := by
  induction l generalizing s pos with
  | nil => exact h
  | cons a l ih =>
    exact endsIn_bindV (engKept_readBytes h _ _ _ _) fun _ _ ht => endsIn_bindV (ih ht _) fun _ _ hu => hu

theorem engKept_runGather (c : Cmd) : engKept (runGather c s) :=
  endsIn_bindV (engKept_readBytes h _ _ _ _) fun _ _ ht => endsIn_bindV (engKept_gatherElems ht _ _ _ _ _) fun _ _ hu =>
    engKept_writeRun hu _ _ _ _

theorem engKept_runCopy2 (c : Cmd) : engKept (runCopy2 c s) := by
  refine endsIn_ite (endsIn_bindV (engKept_readRows h _ _ _) fun _ _ ht => engKept_writeRun ht _ _ _ _)
    (engKept_engAll h fun f hf t ht => ?_)
  obtain ⟨r, -, rfl⟩ := List.mem_map.1 hf
  exact engKept_moveBytes ht _ _ _ _ _

theorem engKept_runScatter (c : Cmd) : engKept (runScatter c s) := by
  refine endsIn_bindV (engKept_readBytes h _ _ _ _) fun t d ht => endsIn_bindV (engKept_engAll ht fun f hf u hu => ?_)
    fun v _ hv => engKept_engAll hv fun f hf u hu => ?_
  · obtain ⟨r, -, rfl⟩ := List.mem_map.1 hf
    exact endsIn_ite (engKept_writeFree hu _ _ _) (engKept_moveBytes hu _ _ _ _ _)
  · obtain ⟨r, -, hr⟩ := List.mem_flatMap.1 hf
    simp only [List.mem_cons, List.not_mem_nil, or_false] at hr
    rcases hr with rfl | rfl <;> exact engKept_freeRange hu _ _

@[simp] theorem wf_warmLine (core line : Nat) : Memory.wf (warmLine core line s).mem = true :=
  wf_ite h (wf_serveFill h _ _)

@[simp] theorem wf_warmPages (llc : Bool) (c : Cmd) : Memory.wf (warmPages llc c s).mem = true := by
  refine wf_foldl (fun t i ht => ?_) _ h
  dsimp only
  have hk (va : Nat) := engKept_engTranslate ht c.space .load va 1
  split
  · next hr =>
    have hr' := hk (max c.desc.src.toNat ((c.desc.src.toNat / 4096 + i) * 4096))
    rw [hr] at hr'
    exact wf_ite hr' (wf_foldl (fun _ _ hu => wf_warmLine hu _ _) _ hr')
  · exact ht

theorem engKept_runCommand (c : Cmd) : engKept (runCommand c s) := by
  unfold runCommand
  dsimp only
  split
  · exact engKept_moveBytes h _ _ _ _ _
  · exact engKept_runCopy2 h _
  · exact engKept_runGather h _
  · exact engKept_runScatter h _
  · exact engKept_writeBytes h _ _ _ _ _ _
  · exact wf_warmPages h _ _
  · exact h

@[simp] theorem wf_writeWord (c : Cmd) (v : Word) : Memory.wf (writeWord c v s).mem = true := by
  have hk := engKept_engTranslate h c.space .store c.desc.cw.toNat 8
  unfold writeWord
  split
  · exact h
  · next hr => rw [hr] at hk; exact wf_engPut hk _ _ _

@[simp] theorem wf_finishCmd (c : Cmd) (code addr : Nat) : Memory.wf (finishCmd c code addr s).mem = true := by
  unfold finishCmd
  refine wf_ite h (wf_writeWord ?_ _ _)
  exact h

theorem engKept_scrambleDst (c : Cmd) : engKept (scrambleDst c s) := by
  refine engKept_engAll h fun f hf t ht => ?_
  obtain ⟨p, -, rfl⟩ := List.mem_map.1 hf
  exact engKept_unlessHeld ht (engKept_engWrite ht _ _ _)

@[simp] theorem wf_scrambleCmd (c : Cmd) : Memory.wf (scrambleCmd c s).mem = true := by
  have hk := engKept_scrambleDst h c
  unfold scrambleCmd
  split
  · next hr => rw [hr] at hk; exact hk
  · exact h

/-- As `engKept`, of the contributions of a collective's members. -/
theorem contribsKept_readContribs (like : Cmd) (l : List (Option Cmd)) (r : Nat) :
    endsIn (fun e : Nat × Nat × Nat × State => e.2.2.2) (fun x => Memory.wf x.1.mem = true) (readContribs like l r s) := by
  induction l generalizing s r with
  | nil => exact h
  | cons m l ih =>
    unfold readContribs
    extract_lets n rest
    have hrest (x : State × List Byte) (hx : Memory.wf x.1.mem = true) :
        endsIn (fun e : Nat × Nat × Nat × State => e.2.2.2) (fun x => Memory.wf x.1.mem = true) (rest x) :=
      endsIn_bindV (ih hx _) fun _ _ ht => ht
    cases m with
    | none => exact endsIn_ite h (hrest (s, _) h)
    | some c =>
      have hk := engKept_readBytes h c n c.desc.src.toNat n
      dsimp only
      split
      · next hr => rw [hr] at hk; exact hk
      · next hr => rw [hr] at hk; exact hrest _ hk

theorem wf_writeResults {contrib : List (List Byte)} {l : List (Option Cmd)} {r : Nat} {t : State}
    (ht : writeResults contrib l r s = some t) : Memory.wf t.mem = true := by
  induction l generalizing s r with
  | nil => cases ht; exact h
  | cons m l ih =>
    cases m with
    | none => exact ih h ht
    | some c =>
      have hk := engKept_writeRun h c ((collResult c.op.variant c.desc contrib r).length + 1) c.desc.dst.toNat
        (collResult c.op.variant c.desc contrib r)
      unfold writeResults at ht
      dsimp only at ht
      split at ht
      · next hr => rw [hr] at hk; exact ih (s := endMember 0 0 c _) hk ht
      · cases ht
      · next hr => rw [hr] at hk; exact ih (s := endMember _ _ c _) hk ht

@[simp] theorem wf_runCollective (grp id : Nat) : Memory.wf (runCollective grp id s).mem = true := by
  unfold runCollective
  split
  · exact h
  · next ms _ =>
    dsimp only
    split
    · exact h
    · next like l _ =>
      refine wf_ite h (wf_ite (wf_of_mem (mem_foldl (fun _ _ => mem_failMember _ _) _ _) h) ?_)
      have hk := contribsKept_readContribs h like ms 0
      split
      · next s1 ds hr =>
        rw [hr] at hk
        cases hw : writeResults ds ms 0 s1 with
        | none => exact h
        | some t => exact wf_writeResults hk hw
      · next hr =>
        rw [hr] at hk
        refine wf_ite h (wf_ite ?_ ?_)
        · exact wf_of_mem (mem_foldl (fun _ _ => mem_putCmd _) _ _) hk
        · split
          · exact hk
          · exact wf_of_mem ((mem_abortEverywhere _ _ _ _).trans (mem_endMember _ _ _)) hk

theorem engKept_undefineRaced (c : Cmd) : engKept (undefineRaced c s) := by
  refine engKept_engAll h fun f hf t ht => ?_
  obtain ⟨a, -, rfl⟩ := List.mem_map.1 hf
  exact engKept_unlessHeld ht (engKept_engWriteAt ht _ _ _ _)

@[simp] theorem wf_startCmd (c : Cmd) : Memory.wf (startCmd c s).mem = true := by
  unfold startCmd
  extract_lets ended
  have hended (t : State) (ht : Memory.wf t.mem = true) (c1 : Cmd) : Memory.wf (ended t c1).mem = true := by
    have hk := engKept_undefineRaced ht c
    unfold ended
    split
    · next hr => rw [hr] at hk; exact hk
    · exact h
  have hk := engKept_runCommand h c
  split
  · next hr => rw [hr] at hk; exact hended _ hk _
  · exact h
  · next hr => rw [hr] at hk; exact hended _ hk _

@[simp] theorem wf_endCmd (c : Cmd) : Memory.wf (endCmd c s).mem = true := by
  unfold endCmd
  split
  · exact h
  · exact wf_ite (wf_scrambleCmd h _) (wf_finishCmd h _ _ _)

@[simp] theorem wf_stepCmd (c : Cmd) : Memory.wf (stepCmd c s).mem = true :=
  wf_ite (wf_endCmd h _) (wf_ite (wf_runCollective h _ _) (wf_startCmd h _))

@[simp] theorem wf_advance : Memory.wf (advance s).mem = true := by
  unfold advance
  split
  · exact wf_progress h
  · exact wf_ite (wf_progress h) (wf_stepCmd h _)

theorem formKept_issueWord (d : Desc) : formKeptV (issueWord d s) :=
  endsIn_ite h (endsIn_bindV (formKept_checkScalar h _ _ _ _) fun _ _ ht => ht)

theorem formKept_command (op : CmdOp) (d a : Nat) : formKept (command op d a s) := by
  refine endsIn_need h <| endsIn_bindV (formKept_loadRow h _ _ _) fun t b ht => endsIn_ite ?_ <|
    endsIn_bindV (formKept_issueWord ht _) fun u ph hu => endsIn_ite (wf_advance hu) ?_
  · exact wf_of_mem (t := wg t d _) (by simp) ht
  · dsimp only
    split
    · exact endsIn_bind (x := Except.ok u) (p := fun v : State => Memory.wf v.mem = true) hu fun v hv =>
        formKept_ok (by simpa using hv)
    · exact endsIn_bind (formKept_storePhys hu _ _ _) fun v hv => formKept_ok (by simpa using hv)

@[simp] theorem wf_progressEnded (g : Word) : Memory.wf (progressEnded g s).mem = true := by
  unfold progressEnded
  split
  · exact wf_ite (wf_of_mem (mem_ackWt _ _) h) (wf_applyWt h _ _)
  · exact wf_progress h

omit h in
theorem stepsFrom_execXdrain (fm : Form) (mc : Mc) : stepsFrom s (execXdrain fm mc s) :=
  stepsFrom_runOne fun h => endsIn_ite (wf_advance h) (endsIn_ite (wf_progressEnded h _) (endsIn_ite (formKept_clearing h) h))

omit h in
theorem stepsFrom_execXcancel (fm : Form) (d a : Nat) : stepsFrom s (execXcancel fm d a s) := by
  refine stepsFrom_runOne fun h => endsIn_need h (endsIn_ite (wf_progress h) (endsIn_ite (wf_progress h) ?_))
  refine wf_of_mem (s := List.foldl _ _ _) (by simp only [wg_frame]; rfl) ?_
  exact wf_foldl (fun _ _ ht => wf_finishCmd (wf_of_mem (mem_cancelCmd _) ht) _ _ _) _ h

omit h in
theorem stepsFrom_execCopyCommandStart (id : Nat) : stepsFrom s (execCopyCommandStart id s) := by
  unfold execCopyCommandStart
  split
  · exact stepsFrom_of_mem rfl
  · exact stepsFrom_ite (stepsFrom_next fun h => wf_startCmd h _) (stepsFrom_of_mem rfl)

omit h in
theorem stepsFrom_execCopyCommandEnd (id : Nat) : stepsFrom s (execCopyCommandEnd id s) := by
  unfold execCopyCommandEnd
  split
  · exact stepsFrom_of_mem rfl
  · exact stepsFrom_ite (stepsFrom_next fun h => wf_endCmd h _) (stepsFrom_of_mem rfl)

omit h in
theorem stepsFrom_execCollectiveAbort (grp cid : Nat) : stepsFrom s (execCollectiveAbort grp cid s) := by
  unfold execCollectiveAbort
  split
  · exact stepsFrom_of_mem rfl
  · split
    · exact stepsFrom_of_mem rfl
    · exact stepsFrom_ite (stepsFrom_of_mem (mem_abortEverywhere _ _ _ _)) (stepsFrom_of_mem rfl)

end

end Sys2Proof.Machine

/-! PROOFS. Teams, the distributor and restores keep memory's form (R148 to R156, R341 to R349). -/

namespace Sys2Proof.Machine

/-! ## Teams and the distributor -/

section
variable {s : State}

@[simp] theorem putTeam_mem (t : Team) : (putTeam t s).mem = s.mem := rfl

@[simp] theorem mem_noteMember (g : Word) (f : Member → Member) : (noteMember g f s).mem = s.mem := by
  unfold noteMember; split <;> rfl

@[simp] theorem mem_makeTeam (c : Ctx) (b : List Byte) (donew : Option (Nat × Word)) (id : Nat) :
    (makeTeam c b donew id s).mem = s.mem := by unfold makeTeam; rfl

theorem mem_takeRequest {p : Request → Bool} {r : Request} {t : State} (ht : takeRequest p s = some (r, t)) :
    t.mem = s.mem := by
  unfold takeRequest at ht
  split at ht
  · cases ht
  · cases ht; rfl

@[simp] theorem mem_serveInfo : (serveInfo s).mem = s.mem := by
  unfold serveInfo
  refine mem_ite rfl ?_
  split
  · next hr =>
    have h1 := mem_takeRequest hr
    split
    · exact h1
    · exact (mem_answerAtomic _ _).trans ((putTeam_mem _).trans h1)
  · rfl

@[simp] theorem mem_serveSpawn : (serveSpawn s).mem = s.mem := by
  unfold serveSpawn
  refine mem_ite rfl ?_
  split
  · next hr =>
    have h1 := mem_takeRequest hr
    split
    · exact h1
    · unfold makeTeam
      exact h1
  · rfl

@[simp] theorem mem_applyStop (c : Ctx) : (applyStop c s).2.mem = s.mem := by
  unfold applyStop; split <;> rfl

@[simp] theorem mem_putLodge (core : Nat) (c : Ctx) : (putLodge core c s).mem = s.mem :=
  (mem_setCore _ _).trans (mem_applyStop _)

@[simp] theorem mem_acquireOn (g : Word) (core : Nat) (clears : Bool) : (acquireOn g core clears s).mem = s.mem :=
  (mem_heardBy _ _).trans (mem_ite (mem_clearingNow _) rfl)

@[simp] theorem mem_enterBank (resumes : Bool) (core : Nat) (c : Ctx) : (enterBank resumes core c s).mem = s.mem := by
  unfold enterBank
  extract_lets g saved moved c1 _ _ s1
  have h1 : s1.mem = s.mem := mem_putLodge _ _
  split
  · exact mem_ite ((mem_acquireOn _ _ _).trans h1) h1
  · exact mem_ite (mem_ite ((mem_acquireOn _ _ _).trans h1) h1) ((mem_acquireOn _ _ _).trans h1)

@[simp] theorem mem_reserveBank (core : Nat) (g : Word) : (reserveBank core g s).mem = s.mem := mem_noteMember _ _

@[simp] theorem mem_takeReserved (core : Nat) : (takeReserved core s).mem = s.mem := by
  unfold takeReserved
  split
  · rfl
  · refine mem_ite rfl ?_
    split
    · rfl
    · split
      · rfl
      · exact mem_enterBank _ _ _

@[simp] theorem mem_electMaster : (electMaster s).mem = s.mem := mem_ite rfl rfl

@[simp] theorem mem_forgetAtomics (g : Word) : (forgetAtomics g s).mem = s.mem := rfl

theorem mem_onCore {f : State → State} (hf : ∀ t, (f t).mem = t.mem) (n : Nat) : (onCore n f s).mem = s.mem := by
  simp [onCore, hf]

@[simp] theorem mem_vacate (g : Word) : (vacate g s).mem = s.mem := by
  refine mem_foldl (fun t n => ?_) _ _
  extract_lets v u _
  have hu : u.mem = t.mem := by
    unfold u
    split
    · exact mem_ite ((mem_clearActive _).trans (mem_onCore (fun _ => mem_endOverlap) _)) rfl
    · rfl
  split
  · exact mem_ite ((mem_setCore _ _).trans hu) hu
  · exact hu

variable (h : Memory.wf s.mem = true)
include h

@[simp] theorem wf_agentStore (t : Team) (pa : Nat) (d : List Byte) : Memory.wf (agentStore t pa d s).mem = true :=
  wf_ite (wf_of_mem (mem_loseStore _ _ _ _) h) (wf_ite (wf_homeWrite h _ _ _ _ _) (wf_performStore h _ _))

@[simp] theorem wf_recordAcceptance (id : Nat) : Memory.wf (recordAcceptance id s).mem = true := by
  unfold recordAcceptance
  split
  · exact h
  · dsimp only
    split
    · exact h
    · exact wf_agentStore (s := putTeam _ s) h _ _ _

@[simp] theorem wf_serveAcceptance : Memory.wf (serveAcceptance s).mem = true := by
  unfold serveAcceptance
  refine wf_ite h ?_
  split
  · next hr =>
    have h1 := wf_of_mem (mem_takeRequest hr) h
    refine wf_ite ?_ (wf_of_mem (mem_answerAtomic _ _) ?_)
    all_goals exact wf_ite h1 (wf_recordAcceptance h1 _)
  · exact h

omit h in
theorem wf_takeArea {pid a : Nat} {t : State} (h : Memory.wf s.mem = true) (ht : takeArea pid s = some (a, t)) :
    Memory.wf t.mem = true := by
  unfold takeArea at ht
  split at ht
  · cases ht
  · exact wf_ringTake h ht

omit h in
theorem wf_areaFor {pid a : Nat} {m : Member} {t : State} (h : Memory.wf s.mem = true)
    (ht : areaFor pid m s = some (a, t)) : Memory.wf t.mem = true := by
  unfold areaFor at ht
  split at ht
  · cases ht; exact h
  · exact wf_takeArea h ht

@[simp] theorem wf_placeMember (id rank core : Nat) : Memory.wf (placeMember id rank core s).mem = true := by
  unfold placeMember
  split
  · exact h
  · split
    · exact h
    · split
      · exact h
      · next hr =>
        have h1 (a : Nat) := wf_setAreaFlags (wf_areaFor h hr) a 0x20001
        exact wf_ite (wf_of_mem (mem_enterBank _ _ _) (h1 _)) (wf_of_mem (mem_reserveBank _ _) (h1 _))

omit h in
theorem wf_admitGroup {pid : Nat} {t : State} (h : Memory.wf s.mem = true) (ht : admitGroup pid s = some t) :
    Memory.wf t.mem = true := by
  unfold admitGroup at ht
  split at ht
  · cases ht
  · dsimp only at ht
    split at ht
    · cases ht
    · obtain ⟨l, -, rfl⟩ := Option.map_eq_some_iff.1 ht
      exact wf_foldl (fun _ _ hu => wf_placeMember hu _ _ _) _ h

@[simp] theorem wf_setRec (a st : Nat) : Memory.wf (setRec a st s).mem = true := wf_agentWrite h _ _

omit h in
theorem wf_enqueue {id rank : Nat} {q : RunQueue} {t : State} (h : Memory.wf s.mem = true)
    (ht : enqueue id rank q s = some t) : Memory.wf t.mem = true := by
  unfold enqueue at ht
  split at ht
  · split at ht
    · next hr =>
      obtain ⟨m, -, hm⟩ := Option.bind_eq_some_iff.1 hr
      obtain ⟨x, hx, he⟩ := Option.map_eq_some_iff.1 hm
      cases he
      obtain rfl := Option.some.inj ht
      refine wf_agentWrite (wf_agentWrite ?_ _ _) _ _
      exact (putTeam_mem _).symm ▸ wf_spillTo (wf_areaFor h hx) _ _
    · cases ht
  · cases ht

omit h in
theorem wf_placeOne {x : Team} {rank : Nat} {t : State} (h : Memory.wf s.mem = true)
    (ht : placeOne x rank s = some t) : Memory.wf t.mem = true := by
  unfold placeOne at ht
  split at ht
  · cases ht
  · split at ht
    · cases ht; exact wf_placeMember h _ _ _
    · obtain ⟨q, -, hq⟩ := Option.bind_eq_some_iff.1 ht
      exact wf_enqueue h hq

omit h in
theorem wf_placeLoose {pid : Nat} {t : State} (h : Memory.wf s.mem = true) (ht : placeLoose pid s = some t) :
    Memory.wf t.mem = true := by
  obtain ⟨x, -, hx⟩ := List.exists_of_findSome?_eq_some ht
  split at hx
  · cases hx
  · exact wf_placeOne h hx

omit h in
theorem wf_admitOne {pid : Nat} {t : State} (h : Memory.wf s.mem = true) (ht : admitOne pid s = some t) :
    Memory.wf t.mem = true := by
  unfold admitOne at ht
  split at ht
  · next hr => cases ht; exact wf_admitGroup h hr
  · exact wf_placeLoose h ht

@[simp] theorem wf_releaseArea (pid area : Nat) (pooled : Bool) : Memory.wf (releaseArea pid area pooled s).mem = true := by
  have h1 := wf_setAreaFlags h area (areaFlags s area &&& ~~~(1#64 <<< 17))
  unfold releaseArea
  extract_lets f s1
  split
  · exact h1
  · exact wf_ite (wf_ringGive h1 _ _) h1

@[simp] theorem wf_endThread (g : Word) (killed lost : Bool) : Memory.wf (endThread g killed lost s).mem = true := by
  have h1 : Memory.wf (forgetAtomics g (vacate g (withdrawSpawn g s))).mem = true := by simpa using h
  unfold endThread
  generalize forgetAtomics g (vacate g (withdrawSpawn g s)) = s1 at h1
  extract_lets ctx t m _ _ _ _ s2 s3
  clear_value t
  have h3 : Memory.wf s3.mem = true := by
    unfold s3
    split
    · exact h1
    · exact wf_of_mem (putTeam_mem _) h1
  exact wf_foldl (fun _ _ ht => wf_releaseArea ht _ _ _) _ h3

@[simp] theorem wf_killThread (g : Word) (lost : Bool) : Memory.wf (killThread g lost s).mem = true := by
  unfold killThread
  extract_lets _ s1
  have h1 : Memory.wf s1.mem = true := wf_foldl (fun _ _ ht => wf_setRec ht _ _) _ h
  exact wf_endThread (wf_of_mem (mem_killCmds _ _) h1) _ _ _

@[simp] theorem wf_completeTeam (t : Team) : Memory.wf (completeTeam t s).mem = true := by
  unfold completeTeam
  dsimp only
  split
  · exact h
  · have hstore (pa : Nat) := wf_agentStore h t pa (bytesOfNat 8 (finalWord t))
    exact wf_ite h (wf_ite (hstore _) (hstore _))

omit h in
theorem wf_distStep {t : State} (h : Memory.wf s.mem = true) (ht : distStep s = some t) : Memory.wf t.mem = true := by
  unfold distStep at ht
  split at ht
  · obtain rfl := Option.some.inj ht; exact wf_of_mem mem_electMaster h
  · split at ht
    · obtain rfl := Option.some.inj ht; exact wf_serveAcceptance h
    · split at ht
      · obtain rfl := Option.some.inj ht; exact wf_of_mem mem_serveSpawn h
      · split at ht
        · obtain rfl := Option.some.inj ht; exact wf_of_mem mem_serveInfo h
        · split at ht
          · obtain rfl := Option.some.inj ht; exact wf_completeTeam h _
          · obtain rfl := Option.some.inj ht; exact wf_of_mem (mem_takeReserved _) h
          · split at ht
            · cases ht
            · obtain ⟨pid, -, hp⟩ := List.exists_of_findSome?_eq_some ht
              exact wf_admitOne h hp

theorem wf_getD {o : Option State} (ho : ∀ t, o = some t → Memory.wf t.mem = true) : Memory.wf (o.getD s).mem = true := by
  cases o with
  | none => exact h
  | some t => exact ho t rfl

@[simp] theorem wf_distStepGetD : Memory.wf ((distStep s).getD s).mem = true := wf_getD h fun _ ht => wf_distStep h ht

@[simp] theorem wf_advanceAll : Memory.wf (advanceAll s).mem = true := wf_ite (wf_advance h) (wf_distStepGetD h)

/-! ## Instructions of a team -/

theorem formKept_readRecord (va : Word) : formKeptV (readRecord va s) :=
  endsIn_bindV (formKept_loadRow h _ _ _) fun _ _ ht => endsIn_ite ht <|
    endsIn_bindV (formKept_translate ht _ _ _) fun _ _ hu => endsIn_ite hu hu

theorem formKept_sendSpawn (b : List Byte) (donew : Option (Nat × Word)) : formKept (sendSpawn b donew s) :=
  endsIn_ite (wf_recordAcceptance (wf_of_mem (mem_makeTeam _ _ _ _) h) _) h

theorem formKept_spawn (d a : Nat) : formKept (spawn d a s) := by
  unfold spawn
  split
  · exact wf_of_mem (t := wg s d _) (by simp) h
  · exact wf_ite (wf_distStepGetD h) (wf_progress (wf_distStepGetD h))
  · refine endsIn_need h <| endsIn_bindV (formKept_readRecord h _) fun t x ht => endsIn_ite
      (wf_of_mem (t := wg t d _) (by simp) ht) <| endsIn_waysideRule ht <| endsIn_bind (formKept_awaitStores ht _)
        fun u hu => endsIn_bind (formKept_sendSpawn hu _ _) fun v hv => ?_
    exact wf_of_mem (t := wg v d _) (by simp) hv

theorem formKept_arrive (t : Team) (n scope : Nat) : formKept (arrive t n scope s) :=
  endsIn_ite h (endsIn_bind (formKept_awaitStores h _) fun _ hu => formKept_ok (wf_of_mem (putTeam_mem _) hu))

theorem formKept_barrier (n : Nat) : formKept (barrier n s) := by
  unfold barrier
  split
  · exact h
  · exact endsIn_waysideRule h <| endsIn_bind (formKept_arrive h _ _ _) fun t ht =>
      endsIn_ite (endsIn_bind (formKept_acquireAt ht _) fun _ hu => formKept_ok (by simpa using hu)) (wf_advanceAll ht)

theorem formKept_info (d : Nat) : formKept (info d s) := by
  unfold info
  generalize s.ctx.aux.sent = x
  cases x with
  | infoAnswer first len => exact wf_of_mem (t := wg (wg s d first) (d + 1) len) (by simp only [wg_frame]) h
  | info => exact wf_of_mem mem_serveInfo h
  | _ =>
    cases teamOf s s.ctx.prv.gtid with
    | none => exact h
    | some t =>
      refine endsIn_ite (formKept_ok ?_) ?_
      · exact wf_of_mem (t := wg (wg (putTeam _ s) d _) (d + 1) _) (by simp only [wg_frame, putTeam_mem]) h
      · exact h

omit h in
theorem stepsFrom_execTexit (fm : Form) : stepsFrom s (execTexit fm s) :=
  stepsFrom_ite (stepsFrom_next fun h => wf_endThread h _ _ _) (stepsFrom_next fun h => wf_advance h)

omit h in
theorem stepsFrom_execTeamCompletion (team : Nat) : stepsFrom s (execTeamCompletion team s) := by
  unfold execTeamCompletion
  split
  · exact stepsFrom_of_mem rfl
  · exact stepsFrom_ite (stepsFrom_next fun h => wf_completeTeam h _) (stepsFrom_of_mem rfl)

omit h in
theorem stepsFrom_execGroupAdmission (pid : Nat) : stepsFrom s (execGroupAdmission pid s) :=
  stepsFrom_next fun h => wf_ite h (wf_getD h fun _ ht => wf_admitOne h ht)

/-! ## Restores -/

@[simp] theorem wf_beginRestore (pid core a : Nat) : Memory.wf (beginRestore pid core a s).mem = true := wf_setRec h _ _

@[simp] theorem wf_restoreRec (core : Nat) (q : RunQueue) (a : Nat) : Memory.wf (restoreRec core q a s).mem = true := by
  unfold restoreRec
  refine wf_ite (wf_beginRestore h _ _ _) (wf_ite h ?_)
  dsimp only
  split
  · exact h
  · exact wf_foldl (fun _ _ ht => wf_beginRestore ht _ _ _) _ h

omit h in
theorem stepsFrom_execRunQueueRestore (core : Nat) : stepsFrom s (execRunQueueRestore core s) := by
  refine stepsFrom_ite (stepsFrom_of_mem rfl) ?_
  split
  · exact stepsFrom_of_mem rfl
  · exact stepsFrom_next fun h => wf_restoreRec h _ _ _

@[simp] theorem wf_restoreFails (r : Restore) : Memory.wf (restoreFails r s).mem = true := by
  unfold restoreFails
  dsimp only
  split
  · exact wf_setRec h _ _
  · exact wf_of_mem (mem_pendInt _ _ _) (wf_setRec h _ _)

omit h in
theorem stepsFrom_execRestoreComplete (core : Nat) : stepsFrom s (execRestoreComplete core s) := by
  unfold execRestoreComplete
  split
  · exact stepsFrom_of_mem rfl
  · next r _ =>
    refine stepsFrom_ite (stepsFrom_of_mem rfl) ?_
    extract_lets _ s1
    have h1 (h : Memory.wf s.mem = true) : Memory.wf s1.mem = true := h
    split
    · refine stepsFrom_next fun h => wf_of_mem (mem_enterBank _ _ _) ?_
      have h2 := wf_setRec (wf_setAreaFlags (h1 h) r.area (areaFlags s r.area ||| (1#64 <<< 17))) r.record 0
      exact wf_ite h2 h2
    · exact stepsFrom_next fun h => wf_restoreFails (wf_ite (h1 h) (wf_markPoisoned (h1 h) _ _)) _
    · exact stepsFrom_next fun h => wf_restoreFails (h1 h) _

end

end Sys2Proof.Machine

/-! PROOFS. Swaps, the lodge, services, residence, agents and debugging keep memory's form (R303 to R328, R396 to R409). -/

namespace Sys2Proof.Machine

theorem wf_of_stepsFrom {s t : State} {o : Out} (hs : stepsFrom s o) (h : Memory.wf s.mem = true) (ho : o = .next t) :
    Memory.wf t.mem = true := by
  obtain ⟨u, hu, hw⟩ := hs
  cases hu.symm.trans ho
  exact hw h

/-! ## Swaps and quantum boundaries -/

section
variable {s : State}

@[simp] theorem mem_squash : (squash s).mem = s.mem := by
  unfold squash
  show (recordRepeats (abandon s)).mem = s.mem
  simp

@[simp] theorem mem_swapBanks : (swapBanks s).mem = s.mem := by
  unfold swapBanks
  split
  · rfl
  · extract_lets s1 out confirms _ s2
    have h1 : s1.mem = s.mem := mem_ite (mem_endOverlap.trans mem_abandon) rfl
    exact (mem_takeReserved _).trans h1

@[simp] theorem mem_noteLodged (pid : Nat) (g : Word) : (noteLodged pid g s).mem = s.mem := rfl

@[simp] theorem mem_atBoundary : (atBoundary s).mem = s.mem := by
  unfold atBoundary
  extract_lets idx entry pid _ s1 note here there turn out
  have hnote (g : Word) (t : State) : (note g t).mem = t.mem := mem_ite (mem_noteLodged _ _) rfl
  refine mem_ite rfl (mem_ite (hnote _ _) (mem_ite (hnote _ _) (mem_ite (hnote _ _) ((hnote _ _).trans ?_))))
  exact mem_ite (mem_squash (s := s1)) rfl

theorem stepsFrom_onCore {f : State → State} (hf : ∀ t, (f t).mem = t.mem) (n : Nat) : stepsFrom s (.next (onCore n f s)) :=
  stepsFrom_of_mem (mem_onCore hf n)

theorem stepsFrom_execContextSwap (core : Nat) : stepsFrom s (execContextSwap core s) :=
  stepsFrom_onCore (fun _ => mem_ite mem_swapBanks rfl) _

theorem stepsFrom_execQuantumBoundary (core : Nat) : stepsFrom s (execQuantumBoundary core s) :=
  stepsFrom_onCore (fun _ => mem_ite rfl mem_atBoundary) _

theorem stepsFrom_execIsolationWindow (core : Nat) : stepsFrom s (execIsolationWindow core s) :=
  stepsFrom_onCore (f := fun s =>
    let next := (s.core.slottab[(s.cyc / 4096 + 1) % 16]?).getD 0
    if 3008 ≤ s.cyc % 4096 ∧ bits next 62 2 ≠ 0 ∧ s.core.act ∧ entryDiffers s next
    then { s with core.window := true } else s) (fun _ => mem_ite rfl rfl) _

theorem stepsFrom_execCtxsw (fm : Form) : stepsFrom s (execCtxsw fm s) := by
  refine stepsFrom_runOne fun h => endsIn_atLeast h ?_
  split
  · exact h
  · exact endsIn_ite h h

theorem stepsFrom_execManagementRestart (core : Nat) : stepsFrom s (execManagementRestart core s) :=
  stepsFrom_of_mem (mem_setCore _ _)

/-! ## The lodge -/

theorem left_of_checkArea {k : AccKind} {va : Word} {e : Stop} (he : checkArea k va s = .error e) : e.left = s := by
  unfold checkArea at he
  repeat' split at he
  all_goals cases he
  all_goals rfl

theorem left_of_ownLodged {e : Stop} (he : ownLodged s = .error e) : e.left = s := by
  unfold ownLodged at he
  repeat' split at he
  all_goals cases he
  all_goals rfl

@[simp] theorem mem_withAreaSeq (c : Ctx) : (withAreaSeq c s).2.mem = s.mem := by
  unfold withAreaSeq; split <;> rfl

variable (h : Memory.wf s.mem = true)
include h

theorem formKept_settle (scope : Nat) : formKept (settle scope s) := endsIn_ite h (wf_progress h)

theorem formKept_loadArea (d area : Nat) : formKept (loadArea d area s) := by
  unfold loadArea
  extract_lets f r
  clear_value r
  cases r with
  | bad b reason => exact wf_markPoisoned h _ _
  | outside a => exact h
  | ok c =>
    refine formKept_ok (wf_of_mem ((mem_wg _ _).trans (mem_enterBank _ _ _)) ?_)
    exact wf_ite (wf_setAreaFlags h _ _) (wf_setAreaFlags h _ _)

theorem formKept_wg (d : Nat) (v : Word) : formKept (.ok (wg s d v)) := wf_of_mem (mem_wg d v) h

omit h in
theorem stepsFrom_execCtxld (fm : Form) (d a : Nat) : stepsFrom s (execCtxld fm d a s) :=
  stepsFrom_runOne fun h => endsIn_atLeast h <| endsIn_need h <| endsIn_check h (fun _ he => left_of_checkArea he) fun _ =>
    endsIn_bind (formKept_settle h _) fun _ ht => endsIn_ite ht <| endsIn_ite (formKept_wg ht _ _) <|
      endsIn_ite (formKept_wg ht _ _) <| endsIn_ite (formKept_wg ht _ _) <| formKept_loadArea ht _ _

@[simp] theorem wf_spillLodged (area : Nat) (c : Ctx) : Memory.wf (spillLodged area c s).mem = true := by
  refine wf_of_mem (mem_noteMember _ _) ?_
  exact wf_ite (wf_markPoisoned (wf_spillTo h _ _) _ _) (wf_spillTo h _ _)

theorem wf_onLodged {f : State → State} (hf : ∀ t, Memory.wf t.mem = true → Memory.wf (f t).mem = true) (c : Ctx) :
    Memory.wf (onLodged c f s).mem = true := hf _ h

/-- What a choice of an instruction leaves. -/
def Choice.left : Choice → State
  | .exec _ s => s
  | .idle s => s

theorem wf_fetchDecode : Memory.wf (fetchDecode s).left.mem = true := by
  have hk := formKept_fetchChain h 5 s.pc
  unfold fetchDecode
  split
  · next hr => rw [hr] at hk; exact hk
  · next hr => rw [hr] at hk; exact hk
  · next hr =>
    rw [hr] at hk
    dsimp only
    split <;> exact hk

omit h in
theorem stepsFrom_amoInt {len : Nat} (op : AmoOp) (o : Order) (z : Wd) (sc : Scope) (d a b : Nat) :
    stepsFrom s (runOne len (amoInt op o z sc d a b) s) := stepsFrom_runOne fun h => formKept_amoInt h _ _ _ _ _ _ _

omit h in
theorem stepsFrom_execAmofadd (fm : Form) (o : Order) (z : Wd) (sc : Scope) (d a b : Nat) :
    stepsFrom s (execAmofadd fm o z sc d a b s) := by
  refine stepsFrom_runOne fun h => endsIn_need h <| endsIn_bindV (formKept_runAtomic h _ _ _ _ _ _) fun t v ht => ?_
  have hret (u : State) (hu : Memory.wf u.mem = true) : formKept (.ok (orFlags v.2 (wf u d v.1))) :=
    wf_of_mem (t := orFlags _ (wf u d _)) (by simp) hu
  exact endsIn_ite (endsIn_bind (formKept_acquireAt ht _) hret) (hret t ht)

theorem wf_runAnswered {t : State} (ht : runAnswered s = some (.next t)) : Memory.wf t.mem = true := by
  have hk := wf_fetchDecode h
  unfold runAnswered at ht
  generalize fetchDecode s = x at hk ht
  split at ht
  case h_11 => exact wf_of_stepsFrom (stepsFrom_execAmofadd _ _ _ _ _ _ _) hk (Option.some.inj ht)
  case h_12 => exact wf_of_stepsFrom (stepsFrom_runOne fun h => formKept_spawn h _ _) hk (Option.some.inj ht)
  case h_13 => exact wf_of_stepsFrom (stepsFrom_runOne fun h => formKept_info h _) hk (Option.some.inj ht)
  case h_14 => cases ht
  all_goals exact wf_of_stepsFrom (stepsFrom_amoInt _ _ _ _ _ _ _) hk (Option.some.inj ht)

@[simp] theorem wf_completeAnswered : Memory.wf (completeAnswered s).mem = true := by
  unfold completeAnswered
  split
  · next hr => exact wf_runAnswered h hr
  · exact h

@[simp] theorem wf_settleLodged (c : Ctx) : Memory.wf (settleLodged c s).mem = true := by
  unfold settleLodged
  generalize c.aux.sent = x
  cases x with
  | atomic line => exact wf_serveAtomicOf h _
  | info => exact wf_of_mem mem_serveInfo h
  | spawn => exact wf_advanceAll h
  | _ => exact wf_onLodged h (fun _ ht => wf_completeAnswered ht) _

omit h in
theorem stepsFrom_execCtxsp (fm : Form) (d a : Nat) : stepsFrom s (execCtxsp fm d a s) := by
  refine stepsFrom_runOne fun h => endsIn_atLeast h <| endsIn_check h (fun _ he => left_of_ownLodged he) fun _ =>
    endsIn_need h <| endsIn_check h (fun _ he => left_of_checkArea he) fun _ =>
      endsIn_bind (formKept_settle h _) fun t ht => ?_
  split
  · exact formKept_wg ht _ _
  · exact endsIn_ite (wf_progress ht) (endsIn_ite (wf_settleLodged ht _) (formKept_wg (wf_spillLodged ht _ _) _ _))

omit h in
theorem stepsFrom_execBackgroundSpill (core : Nat) : stepsFrom s (execBackgroundSpill core s) := by
  unfold execBackgroundSpill
  split
  · exact stepsFrom_of_mem rfl
  · split
    · exact stepsFrom_ite (stepsFrom_of_mem rfl) (stepsFrom_next fun h => wf_of_mem (mem_setCore _ _)
        (wf_writeBlock (wf_of_mem (mem_withAreaSeq _) h) _ _ _ _))
    · exact stepsFrom_of_mem rfl

omit h in
theorem stepsFrom_execLodgedTileEviction (core : Nat) : stepsFrom s (execLodgedTileEviction core s) := by
  unfold execLodgedTileEviction
  split
  · exact stepsFrom_of_mem rfl
  · split
    · exact stepsFrom_ite (stepsFrom_of_mem rfl) (stepsFrom_next fun h => wf_of_mem (mem_setCore _ _)
        (wf_foldl (fun _ _ ht => wf_writeBlock ht _ _ _ _) _ (wf_of_mem (mem_withAreaSeq _) h)))
    · exact stepsFrom_of_mem rfl

omit h in
theorem stepsFrom_execTileNameReload : stepsFrom s (execTileNameReload s) := by
  unfold execTileNameReload
  split
  · exact stepsFrom_of_mem rfl
  · split <;> exact stepsFrom_of_mem rfl

end

/-! ## Services of the firmware -/

section
variable {s : State}

@[simp] theorem mem_finishService (status : Nat) : (finishService status s).mem = s.mem := by
  unfold finishService
  exact (mem_returnFrom 3).trans ((mem_wg _ _).trans (mem_ite rfl mem_endOverlap))

theorem stepsFrom_serviceWhen {ready : State → Bool} {n low : Nat} {body : State → Nat × State}
    (hb : Memory.wf s.mem = true → Memory.wf (body s).2.mem = true) : stepsFrom s (serviceWhen ready n low body s) :=
  stepsFrom_ite (stepsFrom_of_mem rfl) <| stepsFrom_ite (stepsFrom_of_mem (mem_finishService _)) <|
    stepsFrom_ite (stepsFrom_next fun h => wf_progress h) (stepsFrom_next fun h => wf_of_mem (mem_finishService _) (hb h))

theorem stepsFrom_service {n low : Nat} {body : State → Nat × State}
    (hb : Memory.wf s.mem = true → Memory.wf (body s).2.mem = true) : stepsFrom s (service n low body s) :=
  stepsFrom_serviceWhen hb

/-- A service's status and the state it leaves, from either branch. -/
theorem wf_ite_snd {c : Prop} [Decidable c] {a b : Nat × State} (ha : Memory.wf a.2.mem = true)
    (hb : Memory.wf b.2.mem = true) : Memory.wf (if c then a else b).2.mem = true := by
  split <;> assumption

/-! ## Residence -/

@[simp] theorem mem_everyCore (f : CoreSt → CoreSt) : (everyCore f s).mem = s.mem := rfl

@[simp] theorem mem_dropEntries (r : TlbRemoval) : (dropEntries r s).mem = s.mem := rfl

@[simp] theorem mem_moveDonews : (moveDonews s).mem = s.mem := rfl

@[simp] theorem mem_emptyNotPresent : (emptyNotPresent s).mem = s.mem := rfl

@[simp] theorem mem_syncCode : (syncCode s).mem = s.mem := rfl

variable (h : Memory.wf s.mem = true)
include h

@[simp] theorem wf_settleWts : Memory.wf (settleWts s).mem = true :=
  wf_foldl (fun _ _ ht => wf_of_mem (mem_ackWt _ _) (wf_applyWt ht _ _)) _ h

@[simp] theorem wf_settleMsgs : Memory.wf (settleMsgs s).mem = true := wf_foldl (fun _ _ ht => wf_passMsg ht _) _ h

@[simp] theorem wf_settleAtomics : Memory.wf (settleAtomics s).mem = true :=
  wf_foldl (fun _ _ ht => wf_serveAtomicAt ht _) _ h

@[simp] theorem wf_quiesce : Memory.wf (quiesce s).mem = true :=
  wf_settleAtomics (wf_settleMsgs (wf_settleWts (wf_foldl (fun _ _ ht => wf_drainAll ht _) _ h)))

@[simp] theorem wf_completeRemoval : Memory.wf (completeRemoval s).mem = true := by
  unfold completeRemoval
  split
  · exact h
  · exact wf_ite (wf_quiesce h) (wf_progress (wf_quiesce h))

omit h in
theorem stepsFrom_execTlbinv (fm : Form) (a b : Nat) : stepsFrom s (execTlbinv fm a b s) :=
  stepsFrom_runOne fun h => endsIn_atLeast h <| endsIn_need h <| endsIn_ite h <| endsIn_atLeast h h

omit h in
theorem stepsFrom_execTlbsync (fm : Form) : stepsFrom s (execTlbsync fm s) :=
  stepsFrom_runOne fun h => endsIn_atLeast h <| endsIn_ite (wf_completeRemoval h) <|
    endsIn_bind (formKept_settle h _) fun _ ht => formKept_ok (wf_of_mem (mem_syncCode.trans mem_emptyNotPresent) ht)

omit h in
theorem stepsFrom_execPageWalk (va : Word) (acc : Nat) : stepsFrom s (execPageWalk va acc s) := by
  refine stepsFrom_ite (stepsFrom_of_mem rfl) ?_
  extract_lets k
  have hk (h : Memory.wf s.mem = true) := formKept_walkFor h s.ctx.space k va 1 2
  split
  all_goals
    next hr =>
      rw [hr] at hk
      exact stepsFrom_next hk

theorem formKept_cacheLine (fm : Form) (k : AccKind) (a : Nat) (imm : Int) : formKeptV (cacheLine fm k a imm s) :=
  endsIn_atLeast h <| endsIn_need h <| endsIn_bindV (formKept_checkPage h _ _ _ _) fun _ _ ht =>
    endsIn_bind (formKept_settle ht _) fun _ hu => hu

@[simp] theorem wf_invalidateLine (line : Nat) : Memory.wf (invalidateLine line s).mem = true :=
  wf_ite h (wf_ite (wf_homeWrite h _ _ _ _ _) h)

@[simp] theorem wf_handOver (first n q : Nat) : Memory.wf (handOver first n q s).mem = true := wf_settleWts h

omit h in
theorem wf_takeFrames {n : Nat} {t : State} (h : Memory.wf s.mem = true) (ht : takeFrames n s = some t) :
    Memory.wf t.mem = true := by
  induction n generalizing s with
  | zero => cases ht; exact h
  | succ n ih =>
    rw [takeFrames_succ, Option.bind_eq_some_iff] at ht
    obtain ⟨r, -, ht⟩ := ht
    obtain ⟨x, hx, ht⟩ := Option.bind_eq_some_iff.1 ht
    exact ih (wf_ringTake h hx) ht

omit h in
theorem wf_roomAt {q n : Nat} {t : State} (h : Memory.wf s.mem = true) (ht : roomAt q n s = some t) :
    Memory.wf t.mem = true := by
  unfold roomAt at ht
  split at ht
  · exact wf_takeFrames h ht
  · split at ht
    · cases ht; exact h
    · cases ht

@[simp] theorem wf_migrate (q va pa : Nat) : Memory.wf (migrate q va pa s).2.mem = true := by
  unfold migrate
  split
  · exact h
  · refine wf_ite_snd h (wf_ite_snd h (wf_ite_snd h ?_))
    split
    · exact h
    · next hr => exact wf_handOver (wf_roomAt h hr) _ _ _

omit h in
theorem stepsFrom_execPgmig (fm : Form) (d a b : Nat) : stepsFrom s (execPgmig fm d a b s) :=
  stepsFrom_runOne fun h => endsIn_atLeast h <| endsIn_need h <| endsIn_ite h <|
    endsIn_bindV (formKept_translate h _ _ _) fun _ _ ht => formKept_wg (wf_migrate ht _ _ _) _ _

omit h in
theorem stepsFrom_execHandOver (frame pkg : Nat) : stepsFrom s (execHandOver frame pkg s) := by
  refine stepsFrom_ite (stepsFrom_of_mem rfl) <| stepsFrom_ite (stepsFrom_next fun h => wf_handOver h _ _ _) <|
    stepsFrom_ite (stepsFrom_of_mem rfl) <| stepsFrom_ite (stepsFrom_next fun h => ?_)
      (stepsFrom_next fun h => wf_handOver h _ _ _)
  cases hr : takeFrames 1 s with
  | none => exact h
  | some t => exact wf_handOver (wf_takeFrames h hr) _ _ _

@[simp] theorem wf_ringPut (r : Ring) (rec : List Byte) : Memory.wf (ringPut r rec s).1.mem = true := by
  unfold ringPut
  dsimp only
  split
  · exact wf_agentWrite h _ _
  · exact wf_agentWrite (wf_agentWrite h _ _) _ _

@[simp] theorem wf_propose (frame q : Nat) (p : Proposal) : Memory.wf (propose frame q p s).mem = true := by
  have hput := wf_ringPut h p.ring (proposalRecord s frame q p.pid p.threshold)
  exact wf_ite h (wf_ite (wf_ite (wf_of_mem (mem_pendInt _ _ _) hput) hput) (wf_ite h h))

@[simp] theorem wf_countRequest (frame q : Nat) : Memory.wf (countRequest frame q s).mem = true := by
  unfold countRequest
  extract_lets n p t hit here rest kept _ s1
  have h1 : Memory.wf s1.mem = true := h
  clear_value p
  split
  · exact wf_ite (wf_propose h1 _ _ _) h1
  · exact h1

@[simp] theorem wf_compress (va lvl : Nat) (e : Word) (a : Nat) : Memory.wf (compress va lvl e a s).2.mem = true := by
  unfold compress
  extract_lets n frame s1 data h0 s2 bad
  have h1 : Memory.wf s1.mem = true :=
    wf_of_mem (mem_emptyNotPresent.trans (mem_dropEntries _)) (wf_quiesce h)
  have h2 : Memory.wf s2.mem = true := wf_foldl (fun _ _ ht => wf_homeWrite ht _ _ _ _ _) _ h1
  exact wf_ite_snd h (wf_ite_snd h1 (wf_ite_snd h1 (wf_of_mem mem_moveDonews h2)))

omit h in
theorem stepsFrom_execPgcmp (fm : Form) (d a : Nat) : stepsFrom s (execPgcmp fm d a s) := by
  refine stepsFrom_runOne fun h => endsIn_atLeast h <| endsIn_need h ?_
  refine endsIn_ite h (endsIn_ite (formKept_wg h _ _) ?_)
  split
  · exact h
  · exact h
  · exact formKept_wg h _ _
  · refine endsIn_ite h <| endsIn_bind (formKept_settle h _) fun t ht => ?_
    refine endsIn_ite (endsIn_bind (x := Except.ok t) (p := fun u : State => Memory.wf u.mem = true) ht fun u hu => ?_)
      (wf_progress (wf_quiesce ht))
    exact formKept_wg (wf_compress hu _ _ _ _) _ _

omit h in
theorem stepsFrom_execPageExpansion (va : Word) : stepsFrom s (execPageExpansion va s) := by
  refine stepsFrom_ite (stepsFrom_of_mem rfl) ?_
  split
  · exact stepsFrom_next fun h => wf_getD h fun _ ht => wf_expandPage h ht
  · exact stepsFrom_of_mem rfl

omit h in
theorem stepsFrom_execFrameTranslation (frame : Nat) : stepsFrom s (execFrameTranslation frame s) :=
  stepsFrom_ite (stepsFrom_of_mem rfl) (stepsFrom_next fun h => wf_makeNative h _)

omit h in
theorem stepsFrom_execExpand : stepsFrom s (execExpand s) := by
  refine stepsFrom_service fun h => wf_ite_snd h (wf_ite_snd h ?_)
  split
  · refine wf_ite_snd h ?_
    split
    · next hr => exact wf_expandInto h hr
    · exact h
  · exact h

/-! ## Agents -/

omit h in
theorem stepsFrom_execFillRequest (die line : Nat) : stepsFrom s (execFillRequest die line s) :=
  stepsFrom_ite (stepsFrom_of_mem rfl) (stepsFrom_next fun h => wf_serveFill h _ _)

omit h in
theorem stepsFrom_execFillReply (die line : Nat) : stepsFrom s (execFillReply die line s) := by
  unfold execFillReply
  split <;> exact stepsFrom_of_mem rfl

omit h in
theorem stepsFrom_execRetentionExit (die slice : Nat) : stepsFrom s (execRetentionExit die slice s) := by
  unfold execRetentionExit
  split
  · exact stepsFrom_of_mem rfl
  · exact stepsFrom_of_mem (mem_ite rfl rfl)

@[simp] theorem wf_deviceRequest (rq : RemoteReq) : Memory.wf (deviceRequest rq s).mem = true := by
  unfold deviceRequest
  split
  · exact h
  · exact h
  · exact h
  · exact wf_ite (wf_ite (wf_devWrite h _ _) h) (wf_ite (wf_homeWrite h _ _ _ _ _) h)
  · exact wf_ite h (wf_applyRemote h _ _ _ _)
  · exact wf_ite h (wf_applyRemote h _ _ _ _)

omit h in
@[simp] theorem mem_noteApplied (pkg seq : Nat) (d : List Byte × Bool) : (noteApplied pkg seq d s).mem = s.mem := rfl

omit h in
@[simp] theorem mem_forwardRequest (pkg : Nat) (x : SentReq) (pa : Nat) : (forwardRequest pkg x pa s).mem = s.mem :=
  mem_ite rfl (mem_sendMsgFor _ _ _ _ _ _ _ _)

omit h in
theorem stepsFrom_execRemotePackageRequest (pkg : Nat) (x : SentReq) : stepsFrom s (execRemotePackageRequest pkg x s) := by
  unfold execRemotePackageRequest
  refine stepsFrom_ite (stepsFrom_of_mem rfl) <| stepsFrom_ite (stepsFrom_of_mem (mem_dropStale _ _)) <|
    stepsFrom_ite (stepsFrom_of_mem rfl) ?_
  split
  · exact stepsFrom_of_mem ((mem_noteApplied _ _ _).trans (mem_bindGroup _ _ _))
  · exact stepsFrom_of_mem ((mem_noteApplied _ _ _).trans (mem_abortCollective _ _ _ _))
  · refine stepsFrom_ite (stepsFrom_next fun h => wf_ite (wf_of_mem (mem_noteApplied _ _ _) (wf_deviceRequest h _)) h) <|
      stepsFrom_ite (stepsFrom_of_mem rfl) <| stepsFrom_ite (stepsFrom_next fun h => wf_countRequest ?_ _ _)
        (stepsFrom_of_mem (mem_forwardRequest _ _ _))
    exact wf_of_mem (mem_noteApplied _ _ _) (wf_applyRemote h _ _ _ _)

/-! ## Debugging -/

theorem formKept_dumpCheck (va : Word) (n : Nat) : formKeptV (dumpCheck va n s) :=
  endsIn_ite h <| endsIn_bindV (formKept_checkPage h _ _ _ _) fun _ _ ht => endsIn_ite ht ht

theorem formKept_dumpPieces (l : List (Word × List Byte)) : formKeptV (dumpPieces l s) := by
  induction l generalizing s with
  | nil => exact h
  | cons p l ih =>
    obtain ⟨va, d⟩ := p
    have hk := formKept_dumpCheck h va d.length
    unfold dumpPieces
    split
    · next hr => rw [hr] at hk; exact hk
    · next hr => rw [hr] at hk; exact hk
    · next s1 ph hr =>
      rw [hr] at hk
      have hl := ih hk
      split
      · next hp => rw [hp] at hl; exact hl
      · next hp => rw [hp] at hl; exact hl

omit h in
theorem stepsFrom_execDump (fm : Form) (d a b : Nat) : stepsFrom s (execDump fm d a b s) := by
  refine stepsFrom_runOne fun h => endsIn_atLeast h <| endsIn_need h ?_
  split
  · exact formKept_ok (wf_of_mem ((mem_wg _ _).trans (mem_wg _ _)) h)
  · exact endsIn_ite h <| endsIn_bindV (formKept_dumpPieces h _) fun _ _ ht =>
      endsIn_bind (formKept_storePieces ht _) fun _ hu => formKept_ok (wf_of_mem ((mem_wg _ _).trans (mem_wg _ _)) hu)

@[simp] theorem wf_ringData (r : Ring) (i : Nat) (d : List Byte) : Memory.wf (ringData r i d s).mem = true :=
  wf_ite (wf_agentWrite h _ _) (wf_agentWrite (wf_agentWrite h _ _) _ _)

@[simp] theorem wf_ringAppend (r : Ring) (d : List Byte) : Memory.wf (ringAppend r d s).mem = true := by
  unfold ringAppend
  exact wf_agentWrite (wf_ringData h _ _ _) _ _

@[simp] theorem wf_ringLose (r : Ring) : Memory.wf (ringLose r s).mem = true := by
  unfold ringLose
  exact wf_agentWrite h _ _

@[simp] theorem wf_dumpEntry (d : List Byte) : Memory.wf (dumpEntry d s).mem = true := by
  unfold dumpEntry
  split
  · exact h
  · exact wf_ite (wf_of_mem (mem_pendInt _ _ _) (wf_ringAppend h _ _)) (wf_ringLose h _)

@[simp] theorem wf_dumpContained (c : Ctx) : Memory.wf (dumpContained c s).mem = true := by
  unfold dumpContained
  refine wf_ite (wf_dumpEntry h _) ?_
  split
  · exact h
  · next hr => exact wf_dumpEntry (wf_setAreaFlags (wf_spillTo (wf_takeArea h hr) _ _) _ _) _

omit h in
theorem stepsFrom_execThreadKill (gtid : Nat) (contained : Bool) : stepsFrom s (execThreadKill gtid contained s) := by
  refine stepsFrom_ite (stepsFrom_next fun h => wf_killThread ?_ _ _) (stepsFrom_of_mem rfl)
  split
  · exact wf_ite (wf_dumpContained h _) h
  · exact h

omit h in
theorem stepsFrom_execDbgstop : stepsFrom s (execDbgstop s) := by
  refine stepsFrom_service fun h => wf_ite_snd h (wf_ite_snd ?_ (wf_ite_snd h h))
  dsimp only
  rw [mem_onContext]
  exact h

@[simp] theorem wf_rollDie (die : Nat) (new : List (Nat × Word × Word)) : Memory.wf (rollDie die new s).mem = true := by
  unfold rollDie
  extract_lets r d full first rec' s1 s2 n _ s3
  have h1 : Memory.wf s1.mem = true := wf_ite h (wf_ringAppend h _ _)
  have h2 : Memory.wf s2.mem = true := wf_ringAppend h1 _ _
  have h3 : Memory.wf s3.mem = true := wf_ringLose h _
  exact wf_ite h2 h3

@[simp] theorem wf_rollCallAt (m : Nat) : Memory.wf (rollCallAt m s).mem = true := by
  unfold rollCallAt
  extract_lets s1 dies latched s2
  have h1 : Memory.wf s1.mem = true := h
  have h2 : Memory.wf s2.mem = true := wf_foldl (fun _ _ ht => wf_rollDie ht _ _) _ h1
  exact h2

omit h in
theorem stepsFrom_execRollCall : stepsFrom s (execRollCall s) := by
  unfold execRollCall
  split
  · exact stepsFrom_of_mem rfl
  · exact stepsFrom_next fun h => wf_rollCallAt h _

omit h in
theorem stepsFrom_execRollcallPeriodChange : stepsFrom s (execRollcallPeriodChange s) := by
  unfold execRollcallPeriodChange
  split <;> exact stepsFrom_of_mem rfl

@[simp] theorem wf_catchUp (n : Nat) : Memory.wf (catchUp n s).mem = true := by
  induction n generalizing s with
  | zero => exact h
  | succ n ih =>
    unfold catchUp
    split
    · exact ih (wf_rollCallAt h _)
    · exact ih h
    · exact h

omit h in
theorem stepsFrom_execRollcall : stepsFrom s (execRollcall s) :=
  stepsFrom_service fun h =>
    have hc := wf_catchUp h (s.cyc - s.dbg.rollAt + 2)
    wf_ite_snd hc (wf_ite_snd hc (wf_ite_snd hc hc))

end

end Sys2Proof.Machine

/-! PROOFS. Matrix multiplication, audits, containment, the fabric, the host's link and boot keep memory's form (R169 to R180,
R367 to R392, R413 to R426). -/

namespace Sys2Proof.Machine

/-! ## Matrix multiplication -/

section
variable {s : State}

@[simp] theorem mem_wearEngines : (wearEngines s).mem = s.mem :=
  mem_foldl (f := fun s n => setEngine n { engineAt s n with faults := wornFaults (engineAt s n).faults } s)
    (fun _ _ => mem_setEngine _ _) _ _

@[simp] theorem mem_sampleAudit (o : TmmaOp) (sig : Word) : (sampleAudit o sig s).mem = s.mem :=
  mem_ite rfl (mem_ite (mem_logEvent _ _ _ _ _) rfl)

@[simp] theorem mem_retireTmma (o : TmmaOp) (out : TmmaOut) (cells : List (List Cells)) (fixes : Nat) :
    (retireTmma o out cells fixes s).mem = s.mem := by
  unfold retireTmma
  extract_lets s1 unck _ _ s2
  have h1 : s1.mem = s.mem := mem_foldl (fun _ _ => mem_putAcc _ _) _ _
  have h2 : s2.mem = s1.mem := by simp [s2]
  exact (mem_sampleAudit _ _).trans (h2.trans h1)

section
variable (h : Memory.wf s.mem = true)
include h

theorem formKept_cellarFull (x : Nat) (held : List Nat) : formKept (cellarFull x held s) := by
  refine endsIn_ite h (endsIn_ite h ?_)
  exact wf_progress (s := { s with ctx := _ }) h

theorem formKept_retireTmma (o : TmmaOp) (out : TmmaOut) (cells : List (List Cells)) (fixes : Nat) :
    formKept (.ok (retireTmma o out cells fixes (wearEngines s))) :=
  wf_of_mem ((mem_retireTmma _ _ _ _).trans mem_wearEngines) h

theorem formKept_testRun (o : TmmaOp) (out : TmmaOut) : formKept (testRun o out s) := by
  refine endsIn_ite (formKept_retireTmma h _ _ _ _) (endsIn_ite ?_ ?_)
  · exact wf_of_mem (mem_wearEngines (s := { s with ctx := _ })) h
  · exact wf_of_mem mem_wearEngines h

theorem formKept_checkedRetire (o : TmmaOp) (out : TmmaOut) : formKept (checkedRetire o out s) := by
  have hworn := wf_of_mem mem_wearEngines h
  refine endsIn_ite (formKept_retireTmma h _ _ _ _) (endsIn_ite (formKept_testRun h _ _) ?_)
  split
  · exact hworn
  · exact endsIn_ite hworn (formKept_retireTmma h _ _ _ _)

theorem formKept_tmmaBody (pr : Pair) (wide chained : Bool) (k fs d a b : Nat) :
    formKept (tmmaBody pr wide chained k fs d a b s) := by
  refine endsIn_inService h <| endsIn_ite h <| endsIn_need h <| endsIn_bind (formKept_granted h _) fun t ht => ?_
  refine endsIn_ite ht ?_
  split
  · exact ht
  · dsimp only
    split
    · exact formKept_cellarFull ht _ _
    · exact formKept_checkedRetire ht _ _

end

theorem stepsFrom_execTmma (fm : Form) (pr : Pair) (wide : Bool) (k fs d a b : Nat) :
    stepsFrom s (execTmma fm pr wide k fs d a b s) := stepsFrom_runRep fun _ _ h => formKept_tmmaBody h _ _ _ _ _ _ _ _

theorem stepsFrom_execTmmaChained (fm : Form) (pr : Pair) (wide : Bool) (k fs d a b : Nat) :
    stepsFrom s (execTmmaChained fm pr wide k fs d a b s) :=
  stepsFrom_runRep fun _ _ h => formKept_tmmaBody h _ _ _ _ _ _ _ _

theorem stepsFrom_of_wf {t : State} {o : Out} (ht : Memory.wf s.mem = true → Memory.wf t.mem = true)
    (ho : stepsFrom t o) : stepsFrom s o :=
  let ⟨u, hu, hw⟩ := ho
  ⟨u, hu, fun h => hw (ht h)⟩

theorem stepsFrom_runTmmaAtPc : stepsFrom s (runTmmaAtPc s) := by
  have hk (h : Memory.wf s.mem = true) := wf_fetchDecode h
  unfold runTmmaAtPc
  generalize fetchDecode s = x at hk
  split
  · exact stepsFrom_of_wf hk (stepsFrom_execTmma _ _ _ _ _ _ _ _)
  · exact stepsFrom_of_wf hk (stepsFrom_execTmmaChained _ _ _ _ _ _ _ _)
  · exact stepsFrom_of_mem rfl

theorem stepsFrom_execTmmaComplete : stepsFrom s (execTmmaComplete s) := by
  unfold execTmmaComplete
  split
  · exact stepsFrom_runTmmaAtPc
  · exact stepsFrom_of_mem rfl

theorem stepsFrom_execCellarStallResume : stepsFrom s (execCellarStallResume s) := by
  unfold execCellarStallResume
  split
  · exact stepsFrom_ite (stepsFrom_of_mem rfl) (stepsFrom_of_mem rfl)
  · exact stepsFrom_of_mem rfl

theorem stepsFrom_execCellarStallTimeout : stepsFrom s (execCellarStallTimeout s) := by
  unfold execCellarStallTimeout
  split
  · next x _ _ _ _ =>
    exact stepsFrom_of_wf (t := { s with ctx.aux.sent := .timedOut x }) id stepsFrom_runTmmaAtPc
  · exact stepsFrom_of_mem rfl

/-! ## Audits and containment -/

@[simp] theorem mem_reportAudit (code : Nat) (g pc : Word) : (reportAudit code g pc s).mem = s.mem := by
  unfold reportAudit
  split
  · rw [mem_onContext]
  · split <;> rfl

@[simp] theorem mem_absorbHeld : (absorbHeld s).mem = s.mem := mem_ite rfl rfl

@[simp] theorem mem_undefCluster (n : Nat) : (undefCluster n s).mem = s.mem := mem_foldl (fun _ _ => mem_undefNames _) _ _

@[simp] theorem mem_restoreEngine (n : Nat) : (restoreEngine n s).mem = s.mem :=
  (mem_undefCluster n).trans ((mem_setEngine _ _).trans (mem_undefCluster n))

@[simp] theorem mem_quarantine (n : Nat) : (quarantine n s).mem = s.mem := by
  unfold quarantine
  refine mem_ite rfl ((mem_undefCluster n).trans ((mem_setEngine _ _).trans (mem_foldl (fun t g => ?_) _ _)))
  rw [mem_onContext]

theorem stepsFrom_execQuarantine : stepsFrom s (execQuarantine s) :=
  stepsFrom_service fun h => wf_ite_snd h (wf_ite_snd (wf_of_mem (mem_quarantine _) h)
    (wf_ite_snd h (wf_of_mem (mem_restoreEngine _) h)))

@[simp] theorem mem_replayOn (eng : Nat) (o : TmmaOp) : (replayOn eng o s).2.mem = s.mem := mem_setEngine _ _

@[simp] theorem mem_putAudit (r : AuditRec) : (putAudit r s).mem = s.mem := rfl

@[simp] theorem mem_dropAudit (n : Nat) : (dropAudit n s).mem = s.mem := rfl

@[simp] theorem mem_suspectEngine (n pid : Nat) : (suspectEngine n pid s).mem = s.mem := rfl

@[simp] theorem mem_putReport (r : AuditRec) : (putReport r s).mem = s.mem := mem_ite rfl rfl

@[simp] theorem mem_settleAudit (code : Nat) (r : AuditRec) : (settleAudit code r s).mem = s.mem := by
  unfold settleAudit
  extract_lets s1
  have h1 : s1.mem = s.mem := (mem_putReport _).trans (mem_dropAudit _)
  split
  · rw [mem_reportAudit, mem_suspectEngine, h1]
  · rw [mem_reportAudit]
    exact (mem_foldl (fun _ _ => mem_quarantine _) _ _).trans h1
  · split
    · rw [mem_suspectEngine, h1]
    · exact h1

theorem stepsFrom_execAuditReplay (rec eng : Nat) : stepsFrom s (execAuditReplay rec eng s) := by
  unfold execAuditReplay
  split
  · exact stepsFrom_of_mem rfl
  · next r _ =>
    have h1 := mem_replayOn (s := s) eng r.op
    generalize replayOn eng r.op s = x at h1
    obtain ⟨sig, s1⟩ := x
    refine stepsFrom_ite (stepsFrom_of_mem rfl) <| stepsFrom_ite (stepsFrom_of_mem h1) <| stepsFrom_ite
      (stepsFrom_of_mem h1) ?_
    extract_lets r2 s2
    have h2 : s2.mem = s.mem := (mem_putReport _).trans h1
    split
    · exact stepsFrom_of_mem ((mem_pendInt _ _ _).trans h2)
    · exact stepsFrom_of_mem h2

theorem stepsFrom_execAuditTieBreak (rec eng : Nat) : stepsFrom s (execAuditTieBreak rec eng s) := by
  unfold execAuditTieBreak
  split
  · exact stepsFrom_of_mem rfl
  · next r _ =>
    exact stepsFrom_ite (stepsFrom_of_mem rfl) (stepsFrom_of_mem ((mem_settleAudit _ _).trans (mem_replayOn eng r.op)))

theorem stepsFrom_execAuditTimeout (rec : Nat) : stepsFrom s (execAuditTimeout rec s) := by
  unfold execAuditTimeout
  split
  · exact stepsFrom_of_mem rfl
  · exact stepsFrom_ite (stepsFrom_of_mem rfl) (stepsFrom_of_mem rfl)

theorem stepsFrom_execAuditlog : stepsFrom s (execAuditlog s) := by
  refine stepsFrom_service fun h => wf_ite_snd h ?_
  split
  · exact h
  · refine wf_agentWrite ?_ _ _
    exact h

theorem stepsFrom_execAuditrun : stepsFrom s (execAuditrun s) := by
  refine stepsFrom_service fun h => ?_
  split
  · exact h
  · next r _ =>
    exact wf_ite_snd h (wf_ite_snd h (wf_of_mem ((mem_wg _ _).trans ((mem_putAudit _).trans
      (mem_replayOn (arg s 6) r.op))) h))

theorem stepsFrom_execAuditrule : stepsFrom s (execAuditrule s) := by
  refine stepsFrom_service fun h => ?_
  split
  · exact h
  · exact wf_ite_snd h (wf_of_mem (mem_settleAudit _ _) h)

@[simp] theorem mem_scrub (ag : Agent) (lines : List Nat) : (scrub ag lines s).mem = s.mem := rfl

@[simp] theorem mem_endOutstanding (dead : State → Nat → Bool) : (endOutstanding dead s).mem = s.mem := by
  unfold endOutstanding
  extract_lets lost _ s1 s2 s3 s4
  have h2 : s2.mem = s.mem := mem_foldl (fun _ _ => mem_loseWrite _ _ _ _ _) _ s1
  have h3 : s3.mem = s2.mem := mem_foldl (fun _ _ => mem_timeoutWayside _ _) _ _
  have h4 : s4.mem = s3.mem := mem_foldl (fun _ _ => mem_answerAtomic _ _) _ _
  exact h4.trans (h3.trans h2)

@[simp] theorem mem_loseMaster (die : Nat) : (loseMaster die s).mem = s.mem := by
  unfold loseMaster
  exact mem_ite rfl (mem_ite rfl (mem_pendInt _ _ _))

@[simp] theorem mem_containCmds (die : Nat) : (containCmds die s).mem = s.mem :=
  mem_foldl (fun _ _ => mem_ite ((mem_abortEverywhere _ _ _ _).trans (mem_loseCmd _ _)) (mem_loseCmd _ _)) _ _

@[simp] theorem mem_dropReserved (die : Nat) : (dropReserved die s).mem = s.mem := by
  refine mem_foldl (fun t r => ?_) _ _
  rw [mem_noteMember]

section
variable (h : Memory.wf s.mem = true)
include h

@[simp] theorem wf_scatterStores (die : Nat) : Memory.wf (scatterStores die s).mem = true := by
  unfold scatterStores
  extract_lets entries s1 s2 mine s3
  have h1 : Memory.wf s1.mem = true := wf_of_mem (mem_foldl (fun _ _ => mem_ite (mem_setCore _ _) rfl) _ _) h
  have h2 : Memory.wf s2.mem = true :=
    wf_foldl (fun _ _ ht => wf_ite (wf_performStore ht _ _) (wf_of_mem (mem_logEvent _ _ _ _ _) ht)) _ h1
  have h3 : Memory.wf s3.mem = true := by
    refine wf_foldl (fun t x ht => ?_) _ h2
    refine wf_ite ht (wf_ite (wf_applyWt ht _ _) ?_)
    dsimp only
    rw [mem_logEvent]
    exact ht
  exact h3

@[simp] theorem wf_dropRestores (die : Nat) : Memory.wf (dropRestores die s).mem = true := by
  unfold dropRestores
  extract_lets group mine drops s1
  have h1 : Memory.wf s1.mem = true := wf_foldl (fun _ _ ht => wf_setRec ht _ _) _ h
  exact h1

@[simp] theorem wf_fenceDie (die : Nat) : Memory.wf (fenceDie die s).mem = true := by
  unfold fenceDie
  refine wf_ite h ?_
  extract_lets lines s1 s2 _ _ s3 s4
  have h1 : Memory.wf s1.mem = true := wf_of_mem (mem_dropReserved _) <| wf_dropRestores (wf_of_mem (mem_containCmds _)
    (wf_foldl (fun _ _ ht => wf_killThread ht _ _) _ h)) _
  have h2 : Memory.wf s2.mem = true := wf_scatterStores h1 _
  clear_value s2
  have h3 : Memory.wf s3.mem = true := h2
  have h4 : s4.mem = s3.mem := mem_endOutstanding _
  rw [mem_loseMaster, mem_scrub]
  exact wf_of_mem h4 h3

end

@[simp] theorem mem_loseAgent (p : Nat) : (loseAgent p s).mem = s.mem := by
  unfold loseAgent
  extract_lets frames lines lost s1 _ _ _ _ s2 s3 asked s3' s4
  have h3 : s3.mem = s2.mem := mem_foldl (fun _ _ => mem_loseWrite _ _ _ _ _) _ _
  have h3' : s3'.mem = s3.mem := mem_foldl (fun _ _ => mem_answerAtomic _ _) _ _
  have h4 : s4.mem = s3'.mem := (mem_foldl (fun _ _ => mem_abortCollective _ _ _ _) _ _).trans (mem_raiseAborts _)
  exact (mem_endOutstanding _).trans (h4.trans (h3'.trans h3))

theorem stepsFrom_execAgentDeclaredDead (ag : Agent) : stepsFrom s (execAgentDeclaredDead ag s) := by
  cases ag with
  | die d => exact stepsFrom_next fun h => wf_fenceDie h _
  | package p => exact stepsFrom_ite (stepsFrom_of_mem rfl) (stepsFrom_of_mem (mem_loseAgent _))

theorem stepsFrom_execStaleMessage (ag : Agent) (line inc : Nat) : stepsFrom s (execStaleMessage ag line inc s) := by
  refine stepsFrom_ite (stepsFrom_next fun h => wf_foldl (fun _ _ ht => wf_fenceDie ht _) _ h) <|
    stepsFrom_ite (stepsFrom_of_mem rfl) ?_
  cases ag with
  | die d => exact stepsFrom_next fun h => wf_fenceDie (wf_of_mem (mem_dropStale _ _) h) _
  | package p => exact stepsFrom_of_mem (mem_dropStale _ _)

@[simp] theorem mem_bankError (core : Nat) (lodged : Bool) (f : Ctx → Ctx) : (bankError core lodged f s).mem = s.mem := by
  unfold bankError
  split
  · rfl
  · exact (mem_logEvent _ _ _ _ _).trans (mem_ite (mem_setCore _ _) (mem_setActive _ _))

theorem stepsFrom_execEccError (site : EccSite) : stepsFrom s (execEccError site s) := by
  cases site with
  | corrected die => exact stepsFrom_of_mem rfl
  | memory line => exact stepsFrom_ite (stepsFrom_of_mem rfl) (stepsFrom_of_mem rfl)
  | copy die line => exact stepsFrom_of_mem rfl
  | storeBuffer core idx => exact stepsFrom_of_mem ((mem_logEvent _ _ _ _ _).trans (mem_setCore _ _))
  | register core lodged file idx => exact stepsFrom_of_mem (mem_bankError _ _ _)
  | slotRow core lodged acc name band row => exact stepsFrom_of_mem (mem_bankError _ _ _)
  | cellar core lodged name band row col => exact stepsFrom_of_mem (mem_bankError _ _ _)
  | defectRow eng acc slot row spare mask stuck => exact stepsFrom_of_mem rfl
  | defectCell eng acc row col flip runs => exact stepsFrom_of_mem rfl
  | unattributable die => exact stepsFrom_next fun h => wf_of_mem (mem_logEvent _ _ _ _ _) (wf_fenceDie h _)

/-! ## Fabric -/

theorem stepsFrom_execFabricMessage (src dst seq : Nat) : stepsFrom s (execFabricMessage src dst seq s) :=
  stepsFrom_next fun h => wf_ite (wf_applyMsg h _ _ _) h

theorem stepsFrom_execFabricAck (src dst seq : Nat) : stepsFrom s (execFabricAck src dst seq s) :=
  stepsFrom_of_mem (mem_ite (mem_dropStale _ _) (mem_ite rfl rfl))

@[simp] theorem mem_takeDown (port : Nat) : (takeDown port s).mem = s.mem := mem_ite (mem_pendInt _ _ _) rfl

theorem stepsFrom_execGroupbind : stepsFrom s (execGroupbind s) := by
  refine stepsFrom_serviceWhen fun h => wf_ite_snd h (wf_ite_snd h ?_)
  exact wf_of_mem ((mem_foldl (fun _ _ => mem_askPackage _) _ _).trans (mem_bindGroup _ _ _)) h

/-! ## Host link -/

@[simp] theorem mem_answerHost (d : Option (List Byte)) : (answerHost d s).mem = s.mem := rfl

@[simp] theorem mem_setDecoder (k base size : Nat) : (setDecoder k base size s).mem = s.mem := mem_ite rfl rfl

@[simp] theorem mem_holdLine (line : Nat) : (holdLine line s).mem = s.mem := rfl

@[simp] theorem mem_ringMailbox : (ringMailbox s).mem = s.mem := mem_ite rfl rfl

@[simp] theorem mem_setMbArg (i v : Nat) : (setMbArg i v s).mem = s.mem := rfl

@[simp] theorem mem_endMailbox (status : Nat) : (endMailbox status s).mem = s.mem := mem_writeMbstat _

section
variable (h : Memory.wf s.mem = true)
include h

@[simp] theorem wf_hostAccess (rq : HostReq) (pa : Nat) : Memory.wf (hostAccess rq pa s).mem = true := by
  unfold hostAccess
  extract_lets n
  split
  · exact h
  · exact wf_ite h (wf_homeWrite h _ _ _ _ _)
  · split
    · exact h
    · exact wf_ite h (wf_of_mem (mem_answerHost _) (wf_amoAt h _ _ _ _ _ _))
  · exact wf_ite h h
  · exact wf_ite h (wf_of_mem (mem_holdLine _) (wf_homeWrite h _ _ _ _ _))
  · exact h

@[simp] theorem wf_pageWrite (x : Vf) (off n : Nat) (v : Word) : Memory.wf (pageWrite x off n v s).mem = true :=
  wf_ite (wf_ite h (wf_ringDoorbell h _ _ _)) (wf_ite (wf_of_mem (mem_writeMsix _ _ _) h) h)

@[simp] theorem wf_hostRegWrite (off n : Nat) (v : Word) : Memory.wf (hostRegWrite off n v s).mem = true := by
  unfold hostRegWrite
  extract_lets o
  split
  · split
    · exact h
    · exact wf_pageWrite h _ _ _ _
  · exact wf_ite h (wf_ite h (wf_ite (wf_of_mem mem_ringMailbox h) (wf_ite (wf_of_mem (mem_writeMsix _ _ _) h) h)))

end

theorem stepsFrom_execHostMemoryAccess (rq : HostReq) : stepsFrom s (execHostMemoryAccess rq s) := by
  refine stepsFrom_next fun h => wf_ite h ?_
  split
  · exact wf_ite (wf_of_mem (mem_setDecoder _ _ _) h) h
  · split
    · exact h
    · exact wf_hostAccess h _ _

theorem stepsFrom_execDoorbellWrite (vf off n : Nat) (v : Word) : stepsFrom s (execDoorbellWrite vf off n v s) := by
  refine stepsFrom_next fun h => wf_ite h ?_
  split
  · exact h
  · exact wf_pageWrite h _ _ _ _

theorem stepsFrom_execDoorbellRead (vf off n : Nat) : stepsFrom s (execDoorbellRead vf off n s) := by
  refine stepsFrom_next fun h => wf_ite h (wf_ite h ?_)
  split <;> exact h

theorem stepsFrom_execHostRegisterAccess (wr : Bool) (off n : Nat) (v : Word) :
    stepsFrom s (execHostRegisterAccess wr off n v s) :=
  stepsFrom_next fun h => wf_ite h (wf_ite (wf_ite h h) (wf_ite (wf_hostRegWrite h _ _ _) h))

theorem stepsFrom_mailbox {cmd : Nat} {body : State → Nat × State}
    (hb : Memory.wf s.mem = true → Memory.wf (body s).2.mem = true) : stepsFrom s (mailbox cmd body s) :=
  stepsFrom_next fun h => wf_ite (wf_of_mem (mem_endMailbox _) (hb h)) h

@[simp] theorem mem_extendMeasure (i : Nat) (digest : List Byte) : (extendMeasure i digest s).mem = s.mem := rfl

theorem stepsFrom_execExtend : stepsFrom s (execExtend s) :=
  stepsFrom_service fun h => wf_ite_snd h (wf_of_mem (mem_extendMeasure _ _) h)

theorem stepsFrom_execQuote : stepsFrom s (execQuote s) :=
  stepsFrom_service fun h => wf_ite_snd h (wf_agentWrite h _ _)

theorem stepsFrom_execIdcert : stepsFrom s (execIdcert s) :=
  stepsFrom_mailbox fun h => wf_ite_snd h (wf_ite_snd h (wf_of_mem (mem_setMbArg _ _) (wf_agentWrite h _ _)))

theorem stepsFrom_execMailboxQuote : stepsFrom s (execMailboxQuote s) :=
  stepsFrom_mailbox fun h => wf_ite_snd h (wf_agentWrite h _ _)

theorem stepsFrom_execLogread : stepsFrom s (execLogread s) := by
  refine stepsFrom_mailbox fun h => wf_ite_snd h (wf_of_mem (mem_setMbArg _ _) ?_)
  refine wf_agentWrite ?_ _ _
  exact h

theorem stepsFrom_execBistread : stepsFrom s (execBistread s) :=
  stepsFrom_mailbox fun h => wf_ite_snd h (wf_agentWrite h _ _)

/-! ## Boot -/

@[simp] theorem mem_toStage (n : Nat) : (toStage n s).mem = s.mem := rfl

@[simp] theorem mem_failStage : (failStage s).mem = s.mem := rfl

@[simp] theorem mem_resetPackage : (resetPackage s).mem = s.mem := rfl

@[simp] theorem mem_measureChain : (measureChain s).mem = s.mem := mem_foldl (fun _ _ => mem_extendMeasure _ _) _ _

@[simp] theorem mem_setDieLinks (ddok ccok : Nat) : (setDieLinks ddok ccok s).mem = s.mem := rfl

@[simp] theorem mem_quarantineFailed : (quarantineFailed s).mem = s.mem :=
  mem_ite rfl (mem_foldl (fun _ _ => mem_ite (mem_quarantine _) rfl) _ _)

theorem stepsFrom_execRootCheck (ok : Bool) : stepsFrom s (execRootCheck ok s) := by
  have h1 : (measureChain s).mem = s.mem := mem_measureChain
  unfold execRootCheck
  generalize measureChain s = s1 at h1
  generalize Config.packageNumber % 256 = num
  generalize Config.packagesPresent = present
  refine stepsFrom_of_mem (mem_ite rfl (mem_ite mem_failStage ?_))
  rw [mem_toStage]
  exact h1

theorem stepsFrom_execDieLinkTraining (ddok ccok : Nat) : stepsFrom s (execDieLinkTraining ddok ccok s) := by
  have h1 : (setDieLinks (ddok % 16) (ccok % 16) s).mem = s.mem := mem_setDieLinks _ _
  unfold execDieLinkTraining
  generalize setDieLinks (ddok % 16) (ccok % 16) s = s1 at h1
  exact stepsFrom_of_mem (mem_ite rfl (mem_ite h1 h1))

theorem stepsFrom_execCoreRelease : stepsFrom s (execCoreRelease s) := by
  cases hs : atStage s 4 with
  | false => exact ⟨_, exec_coreRelease_off hs, id⟩
  | true =>
    refine ⟨_, exec_coreRelease_on hs, fun h => ?_⟩
    have h1 := mem_coresReleased s
    generalize coresReleased s = s1 at h1
    exact wf_of_mem h1 h

theorem stepsFrom_execBootstWrite (v : Word) : stepsFrom s (execBootstWrite v s) :=
  stepsFrom_of_wf (fun h => wf_ite (wf_of_mem mem_quarantineFailed h) h) (stepsFrom_writeEvent _ _)

theorem stepsFrom_execThermalReset (die : Nat) : stepsFrom s (execThermalReset die s) :=
  stepsFrom_of_mem (mem_ite (mem_resetPackage.trans (mem_logEvent _ _ _ _ _)) rfl)

theorem stepsFrom_execWaitne (fm : Form) (d a b : Nat) : stepsFrom s (execWaitne fm d a b s) := by
  refine stepsFrom_runOne fun h => endsIn_need h <| endsIn_bindV (formKept_checkScalar h _ _ _ _) fun t ph ht => ?_
  refine endsIn_bindV (formKept_loadPhys ?_ _ _ _) fun u v hu => ?_
  · exact wf_ite ht ht
  · exact endsIn_ite (wf_advanceAll hu) (formKept_wg hu _ _)

end

end Sys2Proof.Machine

/-! PROOFS. The other instructions, events and services keep memory's form. -/

namespace Sys2Proof.Machine

/-! ## Instructions with a body of their own -/

section

variable {s : State}

theorem stepsFrom_execLi (fm : Form) (d : Nat) (imm : Int) : stepsFrom s (execLi fm d imm s) :=
  stepsFrom_runRep fun _ _ h => formKept_wg h _ _

theorem stepsFrom_execBfi (fm : Form) (w : Width) (d a imm : Nat) : stepsFrom s (execBfi fm w d a imm s) :=
  stepsFrom_runRep fun _ _ h => formKept_needOk h (mem_wg _ _)

theorem stepsFrom_execLea (fm : Form) (d a : Nat) (imm : Int) : stepsFrom s (execLea fm d a imm s) :=
  stepsFrom_runRep fun _ _ h => formKept_needOk h (mem_wg _ _)

theorem stepsFrom_execSel (fm : Form) (k d a b : Nat) : stepsFrom s (execSel fm k d a b s) :=
  stepsFrom_runRep fun _ _ h => formKept_needOk h (mem_wg _ _)

theorem mem_wp (n : Nat) (v : Bool) : (wp s n v).mem = s.mem := by simp

theorem mem_wf (n : Nat) (v : Word) : (wf s n v).mem = s.mem := by simp

theorem mem_wm (n : Nat) (v : BitVec 128) : (wm s n v).mem = s.mem := by simp

theorem stepsFrom_execLdp (fm : Form) (z : Wd) (d a : Nat) (imm : Int) : stepsFrom s (execLdp fm z d a imm s) :=
  stepsFrom_runRep fun _ _ h => endsIn_need h <| endsIn_bindV (formKept_loadScalar h _ _ _ _) fun _ _ ht =>
    wf_of_mem ((mem_wg _ _).trans (mem_wg _ _)) ht

theorem stepsFrom_execLda (fm : Form) (sc : Scope) (z : Wd) (d a : Nat) (imm : Int) :
    stepsFrom s (execLda fm sc z d a imm s) :=
  stepsFrom_runOne fun h => endsIn_need h <| endsIn_bindV (formKept_loadScalar h _ _ _ _) fun _ _ ht =>
    endsIn_bind (formKept_acquireAt ht _) fun _ hu => formKept_wg hu _ _

theorem stepsFrom_execStl (fm : Form) (sc : Scope) (z : Wd) (d a : Nat) (imm : Int) :
    stepsFrom s (execStl fm sc z d a imm s) :=
  stepsFrom_runOne fun h => endsIn_need h <| endsIn_bindV (formKept_checkScalar h _ _ _ _) fun _ _ ht =>
    endsIn_bind (formKept_releaseAt ht _) fun _ hu => formKept_storePhys hu _ _ _

theorem stepsFrom_execPref (fm : Form) (lv : Pf) (a : Nat) (imm : Int) : stepsFrom s (execPref fm lv a imm s) := by
  refine stepsFrom_runRep fun j k h => ?_
  have ht := formKept_translate h .load (eaImm fm j a imm 128 s) 1
  dsimp only
  split
  · exact h
  · next hr =>
    rw [hr] at ht
    exact endsIn_ite h (wf_prefetchLine ht _ _)

theorem stepsFrom_execSbst (fm : Form) (sb : Sb) (d a : Nat) (imm : Int) : stepsFrom s (execSbst fm sb d a imm s) :=
  stepsFrom_runOne fun h => endsIn_need h <| endsIn_bindV (formKept_checkScalar h _ _ _ _) fun _ _ ht =>
    formKept_storePhys ht _ _ _

theorem stepsFrom_execLdw (fm : Form) (z : Wd) (d a : Nat) (imm : Int) : stepsFrom s (execLdw fm z d a imm s) :=
  stepsFrom_runOne fun h => endsIn_need h <| endsIn_bindV (formKept_checkScalar h _ _ _ _) fun _ _ ht =>
    endsIn_bindV (formKept_loadWayside ht _ _ _) fun _ _ hu => formKept_wg hu _ _

theorem stepsFrom_execChkw (fm : Form) (imm : Int) : stepsFrom s (execChkw fm imm s) := by
  have hf : Memory.wf s.mem = true → Memory.wf (freeWayside s).mem = true := wf_of_mem mem_freeWayside
  exact stepsFrom_runTo fun h =>
    endsIn_ite (wf_of_mem mem_progressWayside h) (endsIn_ite (hf h) (hf h))

theorem stepsFrom_execYield (fm : Form) : stepsFrom s (execYield fm s) :=
  stepsFrom_runOne fun h => endsIn_ite (wf_of_mem rfl h) h

theorem stepsFrom_execFcmp (fm : Form) (c : Fcc) (f : Fmt) (rx d a b : Nat) :
    stepsFrom s (execFcmp fm c f rx d a b s) :=
  stepsFrom_runOne fun h => endsIn_need h (formKept_fpRetire h (mem_wp _ _))

theorem stepsFrom_execFcvt (fm : Form) (df sf : Fmt) (rx d a : Nat) : stepsFrom s (execFcvt fm df sf rx d a s) :=
  stepsFrom_runOne fun h => endsIn_need h (formKept_fpRetire h (mem_wfn _ _))

theorem stepsFrom_execFcvti (fm : Form) (iw : IW) (f : Fmt) (rx d a : Nat) :
    stepsFrom s (execFcvti fm iw f rx d a s) :=
  stepsFrom_runOne fun h => endsIn_need h (formKept_fpRetire h (mem_wg _ _))

theorem stepsFrom_execIcvtf (fm : Form) (iw : IW) (f : Fmt) (rx d a : Nat) :
    stepsFrom s (execIcvtf fm iw f rx d a s) :=
  stepsFrom_runOne fun h => endsIn_need h (formKept_fpRetire h (mem_wfn _ _))

/-! ## Vectors and tiles -/

theorem stepsFrom_execVwin (fm : Form) (d a : Nat) : stepsFrom s (execVwin fm d a s) :=
  stepsFrom_runOne fun h => endsIn_inService h h

theorem stepsFrom_execVcvt (fm : Form) (hi : Bool) (tg : Tag) (d a b : Nat) :
    stepsFrom s (execVcvt fm hi tg d a b s) :=
  stepsFrom_runRep fun _ _ h => endsIn_inService h <| endsIn_ite h <| endsIn_need h <|
    endsIn_bind (formKept_granted h _) fun _ ht => endsIn_ite ht (formKept_fpRetire ht (mem_vecWrite _ _ _))

theorem stepsFrom_execVscan (fm : Form) (z : Bool) (op : Rop) (d a b : Nat) :
    stepsFrom s (execVscan fm z op d a b s) :=
  stepsFrom_runRep fun _ _ h => by
    refine formKept_vecRun h (fun _ _ ht => ?_) _ _ _ _ _ _
    exact endsIn_ite ht (formKept_fpRetire ht (mem_vecWrite _ _ _))

theorem stepsFrom_execVcmp (fm : Form) (u : Bool) (c : Vcc) (d a b : Nat) :
    stepsFrom s (execVcmp fm u c d a b s) :=
  stepsFrom_runRep fun _ _ h => by
    refine formKept_vecRun h (fun _ _ ht => ?_) _ _ _ _ _ _
    exact endsIn_ite ht (formKept_fpRetire ht (mem_wm _ _))

theorem stepsFrom_execVmlog (fm : Form) (op : Mop) (d a b : Nat) : stepsFrom s (execVmlog fm op d a b s) :=
  stepsFrom_runOne fun h => endsIn_inService h (formKept_needOk h (mem_wm _ _))

theorem stepsFrom_execVmpopc (fm : Form) (d a : Nat) : stepsFrom s (execVmpopc fm d a s) :=
  stepsFrom_runOne fun h => endsIn_inService h (formKept_needOk h (mem_wg _ _))

theorem rowsKept_loadRow (va : Nat → Word) (n : Nat) : rowsKept (fun i s => do
    let (s, v) ← loadRow 8 (va i) n s
    .ok (s, ⟨rowOfBytes v, 0⟩)) :=
  fun _ _ h => endsIn_bindV (formKept_loadRow h _ _ _) fun _ _ ht => ht

theorem stepsFrom_execTld (fm : Form) (b0 : Bool) (rows bytes d a b : Nat) :
    stepsFrom s (execTld fm b0 rows bytes d a b s) :=
  stepsFrom_runRep fun _ _ h => formKept_loadTile h (rowsKept_loadRow _ _) _ _ _ _ _ _

theorem stepsFrom_execTlds (fm : Form) (b0 : Bool) (sx : SxK) (rows d a b : Nat) :
    stepsFrom s (execTlds fm b0 sx rows d a b s) :=
  stepsFrom_runRep fun _ _ h => formKept_loadTile h (fun _ _ ht => formKept_loadSxRow ht _ _ _ _) _ _ _ _ _ _

theorem stepsFrom_execTsto (fm : Form) (rows bytes d a b : Nat) : stepsFrom s (execTsto fm rows bytes d a b s) :=
  stepsFrom_runRep fun _ _ h => endsIn_inService h <| endsIn_need h <|
    endsIn_bind (formKept_granted h _) fun _ ht => formKept_blockStore ht _

theorem stepsFrom_execTzero (fm : Form) (tgt : ZeroKind) (d : Nat) : stepsFrom s (execTzero fm tgt d s) := by
  refine stepsFrom_runRep fun j k h => endsIn_inService h <| endsIn_bind (formKept_tileWork h _) fun t ht => ?_
  cases tgt with
  | tile => exact wf_of_mem (mem_putTile _ _) ht
  | acc tag => exact endsIn_ite (wf_of_mem (mem_putAcc _ _) ht) (wf_of_mem (mem_putAcc _ _) ht)

theorem stepsFrom_execTmov (fm : Form) (mk : MovKind) (d a : Nat) : stepsFrom s (execTmov fm mk d a s) := by
  refine stepsFrom_runRep fun j k h => endsIn_inService h <| endsIn_bind (formKept_tileWork h _) fun t ht => ?_
  cases mk with
  | tile => exact endsIn_ite ht (wf_of_mem (mem_putTile _ _) ht)
  | acc => exact formKept_moveAcc ht _ _ _
  | convert tag => exact endsIn_need ht (formKept_moveAcc ht _ _ _)

theorem stepsFrom_execTgang (fm : Form) (imm : Nat) : stepsFrom s (execTgang fm imm s) :=
  stepsFrom_runOne fun h => endsIn_ite h <| endsIn_ite h <|
    endsIn_ite (wf_of_mem (mem_ite rfl mem_endOverlap) h) (wf_progress h)

theorem stepsFrom_execTfree (fm : Form) (acc : Bool) (d a : Nat) : stepsFrom s (execTfree fm acc d a s) :=
  stepsFrom_runRep fun _ _ h => endsIn_inService h <| endsIn_ite h <| endsIn_bind (formKept_tileWork h _) fun _ ht =>
    endsIn_ite (wf_of_mem (mem_foldl (fun _ _ => mem_putAcc _ _) _ _) ht)
      (wf_of_mem (mem_foldl (fun _ _ => mem_putTile _ _) _ _) ht)

theorem stepsFrom_execTsync (fm : Form) : stepsFrom s (execTsync fm s) :=
  stepsFrom_runOne fun h => endsIn_inService h (formKept_awaitStores h _)

theorem stepsFrom_execTctlSeed (fm : Form) (d : Nat) : stepsFrom s (execTctlSeed fm d s) :=
  stepsFrom_runOne fun h => endsIn_inService h (formKept_needOk h rfl)

theorem stepsFrom_execTctlRd (fm : Form) (d : Nat) : stepsFrom s (execTctlRd fm d s) :=
  stepsFrom_runOne fun h => endsIn_inService h (formKept_wg h _ _)

theorem stepsFrom_execTctlClr (fm : Form) : stepsFrom s (execTctlClr fm s) :=
  stepsFrom_runOne fun h => endsIn_inService h h

theorem stepsFrom_execGangGrant : stepsFrom s (execGangGrant s) := by
  unfold execGangGrant
  split
  · exact stepsFrom_ite (stepsFrom_of_mem rfl) (stepsFrom_of_mem rfl)
  · exact stepsFrom_of_mem rfl

/-! ## System instructions -/

theorem stepsFrom_execSvc (fm : Form) (imm : Nat) : stepsFrom s (execSvc fm imm s) := stepsFrom_runOne id

theorem stepsFrom_execHvc (fm : Form) (imm : Nat) : stepsFrom s (execHvc fm imm s) :=
  stepsFrom_runOne fun h => endsIn_atLeast h h

theorem stepsFrom_execMvc (fm : Form) (imm : Nat) : stepsFrom s (execMvc fm imm s) :=
  stepsFrom_runOne fun h => endsIn_atLeast h (wf_of_mem (mem_noteCall _) h)

theorem stepsFrom_execSrd (fm : Form) (d imm : Nat) : stepsFrom s (execSrd fm d imm s) :=
  stepsFrom_runOne fun h => endsIn_gate h (formKept_needOk h (mem_wg _ _))

theorem stepsFrom_execSwr (fm : Form) (a imm : Nat) : stepsFrom s (execSwr fm a imm s) :=
  stepsFrom_runOne fun h => endsIn_gate h <| endsIn_need h <| formKept_writeSys (wf_of_mem (mem_healCtl _) h) _ _

theorem stepsFrom_execSset (fm : Form) (d a imm : Nat) : stepsFrom s (execSset fm d a imm s) :=
  stepsFrom_runOne fun h => formKept_alter h imm d a (· ||| rg s a)

theorem stepsFrom_execSclr (fm : Form) (d a imm : Nat) : stepsFrom s (execSclr fm d a imm s) :=
  stepsFrom_runOne fun h => formKept_alter h imm d a (· &&& ~~~(rg s a))

theorem stepsFrom_execCflush (fm : Form) (a : Nat) (imm : Int) : stepsFrom s (execCflush fm a imm s) :=
  stepsFrom_runOne fun h => endsIn_bindV (formKept_cacheLine h _ _ _ _) fun _ _ ht => ht

theorem stepsFrom_execCinv (fm : Form) (a : Nat) (imm : Int) : stepsFrom s (execCinv fm a imm s) :=
  stepsFrom_runOne fun h => endsIn_bindV (formKept_cacheLine h _ _ _ _) fun _ _ ht => wf_invalidateLine ht _

theorem stepsFrom_execCwb (fm : Form) (a : Nat) (imm : Int) : stepsFrom s (execCwb fm a imm s) :=
  stepsFrom_runOne fun h => endsIn_bindV (formKept_cacheLine h _ _ _ _) fun _ _ ht => ht

theorem stepsFrom_execWfi (fm : Form) : stepsFrom s (execWfi fm s) :=
  stepsFrom_runOne fun h => endsIn_atLeast h (endsIn_ite h (wf_advanceAll h))

theorem stepsFrom_execHalt (fm : Form) : stepsFrom s (execHalt fm s) :=
  stepsFrom_runOne fun h => endsIn_atLeast h (wf_of_mem mem_haltCore h)

theorem stepsFrom_execWpins (fm : Form) (a b : Nat) : stepsFrom s (execWpins fm a b s) :=
  stepsFrom_runOne fun h => endsIn_atLeast h <| endsIn_need h <| endsIn_ite h h

theorem stepsFrom_execWpclr (fm : Form) : stepsFrom s (execWpclr fm s) :=
  stepsFrom_runOne fun h => endsIn_atLeast h h

theorem stepsFrom_execBkpt (fm : Form) (imm : Nat) : stepsFrom s (execBkpt fm imm s) := stepsFrom_runOne id

/-! ## Events -/

theorem stepsFrom_execHbmTraining (ok : Nat) : stepsFrom s (execHbmTraining ok s) :=
  stepsFrom_of_mem (mem_ite rfl (mem_toStage _))

theorem stepsFrom_execGenerationSweepEnd (die : Nat) : stepsFrom s (execGenerationSweepEnd die s) :=
  stepsFrom_ite (stepsFrom_of_mem rfl) (stepsFrom_of_mem rfl)

theorem stepsFrom_execPersistentRequest (core line : Nat) : stepsFrom s (execPersistentRequest core line s) :=
  stepsFrom_ite (stepsFrom_of_mem rfl) (stepsFrom_of_mem rfl)

theorem stepsFrom_execHealthMonitorRefresh (die kind idx value : Nat) (alarm : Bool) :
    stepsFrom s (execHealthMonitorRefresh die kind idx value alarm s) := stepsFrom_of_mem (mem_ite rfl rfl)

theorem stepsFrom_execForwardedMailboxCommand : stepsFrom s (execForwardedMailboxCommand s) :=
  stepsFrom_of_mem (mem_ite (mem_pendInt _ _ _) rfl)

theorem stepsFrom_execUnknownMailboxCommand : stepsFrom s (execUnknownMailboxCommand s) :=
  stepsFrom_of_mem (mem_ite (mem_endMailbox _) rfl)

/-! ## Services that write no memory -/

theorem stepsFrom_execRdcsize : stepsFrom s (execRdcsize s) :=
  stepsFrom_service fun h => wf_ite_snd h (wf_ite_snd h h)

theorem stepsFrom_execPool : stepsFrom s (execPool s) := stepsFrom_service fun h => wf_ite_snd h h

theorem stepsFrom_execZone : stepsFrom s (execZone s) := stepsFrom_service fun h => wf_ite_snd h (wf_ite_snd h h)

theorem stepsFrom_execPropose : stepsFrom s (execPropose s) := stepsFrom_service fun h => wf_ite_snd h h

theorem stepsFrom_execRunq : stepsFrom s (execRunq s) := stepsFrom_service fun h => wf_ite_snd h (wf_ite_snd h h)

theorem stepsFrom_execSapool : stepsFrom s (execSapool s) := stepsFrom_service fun h => wf_ite_snd h h

theorem stepsFrom_execElect : stepsFrom s (execElect s) := stepsFrom_service fun h => wf_ite_snd h (wf_ite_snd h h)

theorem stepsFrom_execAuditcfg : stepsFrom s (execAuditcfg s) := stepsFrom_service fun h => wf_ite_snd h h

theorem stepsFrom_execRouteset : stepsFrom s (execRouteset s) :=
  stepsFrom_service fun h => wf_ite_snd (wf_of_mem (mem_ite rfl rfl) h) (wf_ite_snd h (wf_ite_snd h h))

theorem stepsFrom_execNotify : stepsFrom s (execNotify s) :=
  stepsFrom_service fun h => wf_ite_snd h (wf_ite_snd h (wf_ite_snd h h))

theorem stepsFrom_execHostvf : stepsFrom s (execHostvf s) :=
  stepsFrom_service fun h => wf_ite_snd h (wf_ite_snd h (wf_ite_snd h (wf_ite_snd h h)))

theorem stepsFrom_execHostwin : stepsFrom s (execHostwin s) :=
  stepsFrom_service fun h => wf_ite_snd h (wf_ite_snd h (wf_ite_snd h h))

end

end Sys2Proof.Machine

/-! PROOFS. Every instruction answers a state, and every step keeps memory's form (R282, R284, R294). -/

namespace Sys2Proof.Machine

/-! ## Every instruction, and every step -/

theorem stepsFrom_exec (i : Instr) (s : State) : stepsFrom s (exec i s) := by
  cases i
  all_goals
    unfold exec
    dsimp only
  case addP0 | subP0 | add | sub | mul | mulh | mulhu | div | divu | rem | remu | min | max | minu | maxu |
    and | andn | or | xor | shl | shr | sra | rotr =>
    exact stepsFrom_runRep fun _ _ h => formKept_aluR h _ _ _ _ _ _ _
  case addiP0 | andiP0 | addi | andi | ori | xori => exact stepsFrom_runRep fun _ _ h => formKept_aluI h _ _ _ _ _ _ _
  case shliP0 | shli | shri | srai | rotri | bfx => exact stepsFrom_runRep fun _ _ h => formKept_aluN h _ _ _ _ _ _ _
  case movP0 | clz | ctz | popc | rev8 | sext | zext | mov =>
    exact stepsFrom_runRep fun _ _ h => formKept_aluU h _ _ _ _ _ _
  case liP0 => exact stepsFrom_runRep fun _ _ h => formKept_wg h _ _
  case ldP0 | ld | ldz | ldx => exact stepsFrom_runRep fun _ _ h => endsIn_need h (formKept_loadG h _ _ _ _ _)
  case stP0 | st | stx | stp | fst => exact stepsFrom_runRep fun _ _ h => endsIn_need h (formKept_storeScalar h _ _)
  case fldP0 | fld => exact stepsFrom_runRep fun _ _ h => endsIn_need h (formKept_loadF h _ _ _)
  case brP0 | br => exact stepsFrom_runTo fun h => h
  case brcP0 | brc => exact stepsFrom_runTo fun h => formKept_branchIf h _ _ _ _
  case jalP0 | jal => exact stepsFrom_runTo fun h => formKept_jumpLink h _ _ _ _
  case jalrP0 | jalr => exact stepsFrom_runTo fun h => formKept_jumpReg h _ _ _ _ _
  case cmp | cmpi => exact stepsFrom_runRep fun _ _ h => formKept_needOk h (mem_wp _ _)
  case pand | por | pxor => exact stepsFrom_runOne fun h => formKept_predR h _ _ _ _
  case pnot | pmov => exact stepsFrom_runOne fun h => formKept_needOk h (mem_wp _ _)
  case amoadd | amoand | amoor | amoxor | amomin | amomax | amominu | amomaxu | amoswap | amocas =>
    exact stepsFrom_amoInt _ _ _ _ _ _ _
  case fence => exact stepsFrom_runOne fun h => formKept_fence h _ _
  case tspawn => exact stepsFrom_runOne fun h => formKept_spawn h _ _
  case tbar => exact stepsFrom_runOne fun h => formKept_barrier h _
  case tinfo => exact stepsFrom_runOne fun h => formKept_info h _
  case gtidrd | rdcyc | rdtime => exact stepsFrom_runOne fun h => formKept_wg h _ _
  case fadd | fsub | fmul | fdiv | fmin | fmax => exact stepsFrom_runRep fun _ _ h => formKept_fp2 h _ _ _ _ _ _ _ _ _
  case fsqrt | frcpa | frsqa => exact stepsFrom_runRep fun _ _ h => formKept_fp1 h _ _ _ _ _ _ _ _
  case fma | fms | fnma => exact stepsFrom_runRep fun _ _ h => formKept_fp3 h _ _ _ _ _ _ _ _ _ _
  case fabs | fneg | fsgnj => exact stepsFrom_runRep fun _ _ h => formKept_needOk h (mem_wfn _ _)
  case fclass | fmvg => exact stepsFrom_runOne fun h => formKept_needOk h (mem_wg _ _)
  case gmvf => exact stepsFrom_runOne fun h => formKept_needOk h (mem_wf _ _)
  case vadd | vsub | vmul | vfma | vfms | vmin | vmax | vand | vor | vxor | vshl | vshr =>
    exact stepsFrom_vec3 _ _ _ _ _ _ _ _ _ _ _
  case vabs | vneg | vbcl | vrot | vmov => exact stepsFrom_runRep fun _ _ h => formKept_vec2 h _ _ _ _ _ _ _ _ _ _
  case vperm | vred | vmerge =>
    exact stepsFrom_runRep fun _ _ h => formKept_vecRun h (fun _ _ ht => formKept_vecEach ht _ _ _ _ _ _) _ _ _ _ _ _
  case vrcpa | vrsqa | vexp2a | vlog2a => exact stepsFrom_vecApprox _ _ _ _ _ _
  case vld | vlds | vgath => exact stepsFrom_runRep fun _ _ h => formKept_fromUnit (formKept_vecLoad h _ _ _ _ _ _ _)
  case vst | vsts | vscat => exact stepsFrom_runRep fun _ _ h => formKept_vecStore h _ _ _ _ _
  case vmovg => exact stepsFrom_runRep fun _ _ h => formKept_moveLane h (fun _ _ _ => mem_wg _ _) _ _ _ _
  case vmovf => exact stepsFrom_runRep fun _ _ h => formKept_moveLane h (fun _ _ _ => mem_wf _ _) _ _ _ _
  case tdrain | tdraint => exact stepsFrom_runRep fun _ _ h => formKept_drain h _ _ _ _ _ _ _ _
  case tqryRows | tqryAcc | tqryCell | tqryFree | tqryGang | tqryCorr | tqryUnck =>
    exact stepsFrom_runOne fun h => formKept_query h _ _ _
  case xcopy | xcopy2 | xgath | xscat | xfill | xwarm | xcollAr | xcollAg | xcollRs | xcollBc =>
    exact stepsFrom_runOne fun h => formKept_command h _ _ _
  case writeThrough => exact stepsFrom_next fun h => wf_applyWt h _ _
  case writeThroughAck => exact stepsFrom_of_mem (mem_ackWt _ _)
  case storeBufferDrain => exact stepsFrom_next fun h => wf_drainHead h _
  case confirmationRequest => exact stepsFrom_of_mem (serveConfirm_mem _ _)
  case waysideAnswer => exact stepsFrom_of_mem (mem_answerWayside _ _)
  case waysideTimeout => exact stepsFrom_of_mem (mem_timeoutWayside _ _)
  case notPresentExpiry | governorClockChange | retentionEntry => exact stepsFrom_of_mem rfl
  case ipiWrite | hostirqWrite | xstateWrite | celshrWrite | rprselWrite | rpraddWrite =>
    exact stepsFrom_writeEvent _ _
  case spawnRequest => exact stepsFrom_of_mem mem_serveSpawn
  case acceptanceRecorded => exact stepsFrom_next fun h => wf_serveAcceptance h
  case chunkRequest => exact stepsFrom_of_mem mem_serveInfo
  case masterElection => exact stepsFrom_of_mem mem_electMaster
  case dieFence => exact stepsFrom_next fun h => wf_fenceDie h _
  case fabricResend | routeRepair | powerOnStable | hostLinkTraining | hostLinkFailure =>
    exact stepsFrom_of_mem (mem_ite rfl rfl)
  case linkDown => exact stepsFrom_of_mem (mem_ite (mem_takeDown _) rfl)
  case collectiveStart => exact stepsFrom_next fun h => wf_runCollective h _ _
  case packageReset => exact stepsFrom_of_mem mem_resetPackage
  case mbdoor => exact stepsFrom_of_mem (mem_ite mem_ringMailbox rfl)
  case mbstatWrite => exact stepsFrom_of_mem (mem_writeMbstat _)
  case atomicAtHome => exact stepsFrom_next fun h => wf_serveAtomicAt h _
  case tlbRemovalComplete => exact stepsFrom_next fun h => wf_completeRemoval h
  case bfi => exact stepsFrom_execBfi _ _ _ _ _
  case lea => exact stepsFrom_execLea _ _ _ _
  case li => exact stepsFrom_execLi _ _ _
  case sel => exact stepsFrom_execSel _ _ _ _ _
  case ldp => exact stepsFrom_execLdp _ _ _ _ _
  case lda => exact stepsFrom_execLda _ _ _ _ _ _
  case stl => exact stepsFrom_execStl _ _ _ _ _ _
  case pref => exact stepsFrom_execPref _ _ _ _
  case sbst => exact stepsFrom_execSbst _ _ _ _ _
  case ldw => exact stepsFrom_execLdw _ _ _ _ _
  case chkw => exact stepsFrom_execChkw _ _
  case amofadd => exact stepsFrom_execAmofadd _ _ _ _ _ _ _
  case waitne => exact stepsFrom_execWaitne _ _ _ _
  case yield => exact stepsFrom_execYield _
  case texit => exact stepsFrom_execTexit _
  case fcmp => exact stepsFrom_execFcmp _ _ _ _ _ _ _
  case fcvt => exact stepsFrom_execFcvt _ _ _ _ _ _
  case fcvti => exact stepsFrom_execFcvti _ _ _ _ _ _
  case icvtf => exact stepsFrom_execIcvtf _ _ _ _ _ _
  case vwin => exact stepsFrom_execVwin _ _ _
  case vcvt => exact stepsFrom_execVcvt _ _ _ _ _ _
  case vbcast => exact stepsFrom_execVbcast _ _ _ _ _ _
  case vscan => exact stepsFrom_execVscan _ _ _ _ _ _
  case vcmp => exact stepsFrom_execVcmp _ _ _ _ _ _
  case vmlog => exact stepsFrom_execVmlog _ _ _ _ _
  case vmpopc => exact stepsFrom_execVmpopc _ _ _
  case tmma => exact stepsFrom_execTmma _ _ _ _ _ _ _ _
  case tmmaChained => exact stepsFrom_execTmmaChained _ _ _ _ _ _ _ _
  case tld => exact stepsFrom_execTld _ _ _ _ _ _ _
  case tlds => exact stepsFrom_execTlds _ _ _ _ _ _ _
  case tsto => exact stepsFrom_execTsto _ _ _ _ _ _
  case tzero => exact stepsFrom_execTzero _ _ _
  case tmov => exact stepsFrom_execTmov _ _ _ _
  case tgang => exact stepsFrom_execTgang _ _
  case tfree => exact stepsFrom_execTfree _ _ _ _
  case tsync => exact stepsFrom_execTsync _
  case tctlSeed => exact stepsFrom_execTctlSeed _ _
  case tctlRd => exact stepsFrom_execTctlRd _ _
  case tctlClr => exact stepsFrom_execTctlClr _
  case xdrain => exact stepsFrom_execXdrain _ _
  case xcancel => exact stepsFrom_execXcancel _ _ _
  case svc => exact stepsFrom_execSvc _ _
  case hvc => exact stepsFrom_execHvc _ _
  case mvc => exact stepsFrom_execMvc _ _
  case tret => exact stepsFrom_execTret _
  case srd => exact stepsFrom_execSrd _ _ _
  case swr => exact stepsFrom_execSwr _ _ _
  case sset => exact stepsFrom_execSset _ _ _ _
  case sclr => exact stepsFrom_execSclr _ _ _ _
  case tlbinv => exact stepsFrom_execTlbinv _ _ _
  case tlbsync => exact stepsFrom_execTlbsync _
  case cflush => exact stepsFrom_execCflush _ _ _
  case cinv => exact stepsFrom_execCinv _ _ _
  case cwb => exact stepsFrom_execCwb _ _ _
  case wfi => exact stepsFrom_execWfi _
  case halt => exact stepsFrom_execHalt _
  case ctxsw => exact stepsFrom_execCtxsw _
  case ctxld => exact stepsFrom_execCtxld _ _ _
  case ctxsp => exact stepsFrom_execCtxsp _ _ _
  case wpins => exact stepsFrom_execWpins _ _ _
  case wpclr => exact stepsFrom_execWpclr _
  case bkpt => exact stepsFrom_execBkpt _ _
  case dump => exact stepsFrom_execDump _ _ _ _
  case pgmig => exact stepsFrom_execPgmig _ _ _ _
  case pgcmp => exact stepsFrom_execPgcmp _ _ _
  case instructionFetchFault => exact stepsFrom_execInstructionFetchFault _
  case contextSwap => exact stepsFrom_execContextSwap _
  case ipiMessage => exact stepsFrom_execIpiMessage _ _
  case rootCheck => exact stepsFrom_execRootCheck _
  case dieLinkTraining => exact stepsFrom_execDieLinkTraining _ _
  case hbmTraining => exact stepsFrom_execHbmTraining _
  case copyCommandStart => exact stepsFrom_execCopyCommandStart _
  case copyCommandEnd => exact stepsFrom_execCopyCommandEnd _
  case hostMemoryAccess => exact stepsFrom_execHostMemoryAccess _
  case hostRegisterAccess => exact stepsFrom_execHostRegisterAccess _ _ _ _
  case fillRequest => exact stepsFrom_execFillRequest _ _
  case fillReply => exact stepsFrom_execFillReply _ _
  case fabricMessage => exact stepsFrom_execFabricMessage _ _ _
  case fabricAck => exact stepsFrom_execFabricAck _ _ _
  case quantumBoundary => exact stepsFrom_execQuantumBoundary _
  case eccError => exact stepsFrom_execEccError _
  case generationSweepEnd => exact stepsFrom_execGenerationSweepEnd _
  case cellarStallResume => exact stepsFrom_execCellarStallResume
  case cellarStallTimeout => exact stepsFrom_execCellarStallTimeout
  case tmmaComplete => exact stepsFrom_execTmmaComplete
  case auditReplay => exact stepsFrom_execAuditReplay _ _
  case auditTieBreak => exact stepsFrom_execAuditTieBreak _ _
  case auditTimeout => exact stepsFrom_execAuditTimeout _
  case gangGrant => exact stepsFrom_execGangGrant
  case persistentRequest => exact stepsFrom_execPersistentRequest _ _
  case retentionExit => exact stepsFrom_execRetentionExit _ _
  case remotePackageRequest => exact stepsFrom_execRemotePackageRequest _ _
  case handOver => exact stepsFrom_execHandOver _ _
  case pageWalk => exact stepsFrom_execPageWalk _ _
  case pageExpansion => exact stepsFrom_execPageExpansion _
  case frameTranslation => exact stepsFrom_execFrameTranslation _
  case isolationWindow => exact stepsFrom_execIsolationWindow _
  case backgroundSpill => exact stepsFrom_execBackgroundSpill _
  case lodgedTileEviction => exact stepsFrom_execLodgedTileEviction _
  case tileNameReload => exact stepsFrom_execTileNameReload
  case interruptEntry => exact stepsFrom_execInterruptEntry
  case asyncCauseDelivery => exact stepsFrom_execAsyncCauseDelivery
  case bootstWrite => exact stepsFrom_execBootstWrite _
  case systemRegisterWrite => exact stepsFrom_execSystemRegisterWrite _ _
  case groupAdmission => exact stepsFrom_execGroupAdmission _
  case runQueueRestore => exact stepsFrom_execRunQueueRestore _
  case restoreComplete => exact stepsFrom_execRestoreComplete _
  case teamCompletion => exact stepsFrom_execTeamCompletion _
  case threadKill => exact stepsFrom_execThreadKill _ _
  case agentDeclaredDead => exact stepsFrom_execAgentDeclaredDead _
  case staleMessage => exact stepsFrom_execStaleMessage _ _ _
  case collectiveAbort => exact stepsFrom_execCollectiveAbort _ _
  case rollCall => exact stepsFrom_execRollCall
  case rollcallPeriodChange => exact stepsFrom_execRollcallPeriodChange
  case coreRelease => exact stepsFrom_execCoreRelease
  case healthMonitorRefresh => exact stepsFrom_execHealthMonitorRefresh _ _ _ _ _
  case thermalReset => exact stepsFrom_execThermalReset _
  case doorbellWrite => exact stepsFrom_execDoorbellWrite _ _ _ _
  case doorbellRead => exact stepsFrom_execDoorbellRead _ _ _
  case idcert => exact stepsFrom_execIdcert
  case mailboxQuote => exact stepsFrom_execMailboxQuote
  case logread => exact stepsFrom_execLogread
  case bistread => exact stepsFrom_execBistread
  case forwardedMailboxCommand => exact stepsFrom_execForwardedMailboxCommand
  case unknownMailboxCommand => exact stepsFrom_execUnknownMailboxCommand
  case rdcsize => exact stepsFrom_execRdcsize
  case pool => exact stepsFrom_execPool
  case zone => exact stepsFrom_execZone
  case propose => exact stepsFrom_execPropose
  case expand => exact stepsFrom_execExpand
  case runq => exact stepsFrom_execRunq
  case sapool => exact stepsFrom_execSapool
  case elect => exact stepsFrom_execElect
  case auditcfg => exact stepsFrom_execAuditcfg
  case auditlog => exact stepsFrom_execAuditlog
  case auditrun => exact stepsFrom_execAuditrun
  case auditrule => exact stepsFrom_execAuditrule
  case quarantine => exact stepsFrom_execQuarantine
  case dbgstop => exact stepsFrom_execDbgstop
  case rollcall => exact stepsFrom_execRollcall
  case groupbind => exact stepsFrom_execGroupbind
  case routeset => exact stepsFrom_execRouteset
  case notify => exact stepsFrom_execNotify
  case hostvf => exact stepsFrom_execHostvf
  case hostwin => exact stepsFrom_execHostwin
  case extend => exact stepsFrom_execExtend
  case quote => exact stepsFrom_execQuote
  case illegalInstruction => exact stepsFrom_execIllegalInstruction
  case managementRestart => exact stepsFrom_execManagementRestart _

section

variable {s : State} (h : Memory.wf s.mem = true)

/-- Of two choices, either of which leaves memory in canonical form. -/
theorem wf_left_ite {c : Prop} [Decidable c] {x y : Choice} (hx : Memory.wf x.left.mem = true)
    (hy : Memory.wf y.left.mem = true) : Memory.wf (if c then x else y).left.mem = true := by
  split <;> assumption

include h

theorem wf_restTurn : Memory.wf (restTurn s).mem = true := wf_progress (wf_ite h h)

theorem wf_embargo {c : Choice} (hc : Memory.wf c.left.mem = true) : Memory.wf (embargo s c).left.mem = true := by
  cases c with
  | idle t => exact hc
  | exec i t =>
    exact wf_left_ite (wf_progress h) hc

theorem wf_coreTurn : Memory.wf (coreTurn s).left.mem = true := by
  have hp : Memory.wf (Choice.idle (progress s)).left.mem = true := wf_progress h
  have hs : Memory.wf (match serviceInstr (bits s.ctx.prv.mon.cause 16 16) with
      | some i => Choice.exec i s
      | none => Choice.idle (finishService 2 s)).left.mem = true := by
    split
    · exact h
    · exact wf_of_mem (mem_finishService _) h
  have hf := wf_fetchDecode h
  have he := wf_embargo h hf
  unfold coreTurn
  exact wf_left_ite (wf_restTurn h) <| wf_left_ite hf <| wf_left_ite h <| wf_left_ite hp <| wf_left_ite h <|
    wf_left_ite hf <| wf_left_ite h <| wf_left_ite hp <| wf_left_ite h <| wf_left_ite hs he

theorem wf_ownTurn : Memory.wf (ownTurn s).left.mem = true :=
  wf_coreTurn (wf_of_mem (mem_absorbHeld.trans mem_quarantineFailed) h)

theorem wf_untold : Memory.wf (untold s).left.mem = true := by
  unfold untold
  split
  · exact h
  · split
    · exact h
    · split
      · next hd => exact wf_distStep h hd
      · exact wf_ownTurn h

theorem wf_choose : Memory.wf (choose s).left.mem = true := by
  unfold choose
  split
  · exact h
  · exact wf_ownTurn (wf_of_mem (mem_switchTo _) h)
  · exact wf_untold h

end

/-- Settles O57: an instruction ends complete, in its handler's entry, or in a state in which it executes again. -/
theorem everyInstructionAnswersAState : Obligations.EveryInstructionAnswersAState := by
  intro i s
  obtain ⟨t, ht, -⟩ := stepsFrom_exec i s
  exact ⟨t, ht⟩

/-- Settles O56: what a step chooses keeps the form, and what the chosen instruction does keeps it. -/
theorem stepKeepsMemoryForm : Obligations.StepKeepsMemoryForm := by
  intro s t hs ht
  unfold step at ht
  split at ht
  · exact wf_of_stepsFrom (stepsFrom_exec _ _) hs ht
  · have hc : Memory.wf (choose (tick s)).left.mem = true := wf_choose hs
    split at ht
    · next hx => rw [hx] at hc; exact wf_of_stepsFrom (stepsFrom_exec _ _) hc ht
    · next hx => rw [hx] at hc; cases ht; exact hc

end Sys2Proof.Machine

/-! PROOFS. Instructions above the level they need (R280, R286, R293, R331). -/

namespace Sys2Proof.Machine

section

variable {s : State} {n : Nat}

/-- The outcome of an instruction above its level (R331). -/
def privTaken (detail : Nat) (s : State) : Out := .next (takeTrap none ⟨0x03, detail, s.ctx.aux.ir, false, 0⟩ s)

theorem runOne_priv {len : Nat} {body : State → Run} (hb : body s = .error (.trap (privTrap n s) s)) :
    runOne len body s = privTaken n s := runOne_trap hb

theorem atLeast_above {α : Type} {l : Nat} (h : s.pl < l) (f : Unit → Except Stop α) :
    (atLeast s l >>= f) = .error (.trap (privTrap 0 s) s) := by
  unfold atLeast
  rw [if_pos h]
  rfl

/-- What needs level 1 and no register's number. -/
theorem runOne_user {len : Nat} {f : State → Unit → Run} (h : s.pl = 0) :
    runOne len (fun s => atLeast s 1 >>= f s) s = privTaken 0 s :=
  runOne_priv (atLeast_above (by omega) _)

theorem runOne_cacheLine_user {fm : Form} {len a : Nat} {k : AccKind} {imm : Int} {f : State → State × Nat → Run}
    (h : s.pl = 0) : runOne len (fun s => cacheLine fm k a imm s >>= f s) s = privTaken 0 s :=
  runOne_priv (by
    unfold cacheLine
    rw [atLeast_above (by omega)]
    rfl)

/-! ## Registers above the level -/

theorem gate_high {w : Bool} (hn : 0x100 ≤ n) (h : s.pl = 0) : gate n w s = .error (.trap (privTrap n s) s) := by
  unfold gate
  rw [if_neg (by omega), if_pos h]

theorem gate_above {w : Bool} (hp : 1 ≤ s.pl) (hn : n ∈ highRegs) (h : s.pl < n / 256) :
    gate n w s = .error (.trap (privTrap n s) s) := by
  unfold gate
  rw [if_neg (by omega), if_neg (by omega), if_neg (by simpa using hn), if_pos h]

theorem gate_readOnly (hn : n ∈ userReadOnly) (h : s.pl = 0) : gate n true s = .error (.trap (privTrap n s) s) := by
  have hm : n < 0x100 ∧ n ∈ userRegs := by
    revert n
    decide
  unfold gate
  rw [if_pos hm.1, if_neg (by simpa using hm.2), if_pos (by simpa [h] using hn)]

theorem gateSet_of_gate (hg : gate n true s = .error (.trap (privTrap n s) s)) :
    gateSet n s = .error (.trap (privTrap n s) s) := by
  unfold gateSet
  rw [hg]
  rfl

theorem gateSet_user (hn : n ∈ userRegs) (h : s.pl = 0) : gateSet n s = .error (.trap (privTrap n s) s) := by
  by_cases hr : n ∈ userReadOnly
  · exact gateSet_of_gate (gate_readOnly hr h)
  · have hm : n / 256 ≤ s.pl := by
      rw [h]
      revert n
      decide
    unfold gateSet
    rw [gate_ok (List.mem_append_left _ hn) hm fun _ _ => hr]
    exact if_pos h

section

variable {fm : Form} {d a : Nat}

theorem exec_srd_priv (hg : gate n false s = .error (.trap (privTrap n s) s)) :
    exec (.srd fm d n) s = privTaken n s := (exec_srd ..).trans (runOne_priv (by rw [hg]; rfl))

theorem exec_swr_priv (hg : gate n true s = .error (.trap (privTrap n s) s)) :
    exec (.swr fm a n) s = privTaken n s := (exec_swr ..).trans (runOne_priv (by rw [hg]; rfl))

theorem exec_sset_priv (hg : gateSet n s = .error (.trap (privTrap n s) s)) :
    exec (.sset fm d a n) s = privTaken n s := (exec_sset ..).trans (runOne_priv (by rw [hg]; rfl))

theorem exec_sclr_priv (hg : gateSet n s = .error (.trap (privTrap n s) s)) :
    exec (.sclr fm d a n) s = privTaken n s := (exec_sclr ..).trans (runOne_priv (by rw [hg]; rfl))

/-- All four forms, where a read and a write are refused. -/
theorem registerForms_priv (hg : ∀ w, gate n w s = .error (.trap (privTrap n s) s)) :
    exec (.srd fm d n) s = privTaken n s ∧ exec (.swr fm a n) s = privTaken n s ∧
      exec (.sset fm d a n) s = privTaken n s ∧ exec (.sclr fm d a n) s = privTaken n s :=
  ⟨exec_srd_priv (hg false), exec_swr_priv (hg true), exec_sset_priv (gateSet_of_gate (hg true)),
    exec_sclr_priv (gateSet_of_gate (hg true))⟩

end

end

/-- Settles O32: the level is the first thing each of these instructions checks. -/
theorem privilegeTraps : Obligations.PrivilegeTraps := by
  intro fm d a b n imm s
  refine ⟨fun h => ?_, fun h => ?_, fun h1 hn h => registerForms_priv fun _ => gate_above h1 hn h⟩
  · exact ⟨show execHvc fm n s = privTaken 0 s from runOne_user h,
      show execMvc fm n s = privTaken 0 s from runOne_user h,
      show execTlbinv fm a b s = privTaken 0 s from runOne_user h,
      show execTlbsync fm s = privTaken 0 s from runOne_user h,
      show execCflush fm a imm s = privTaken 0 s from runOne_cacheLine_user h,
      show execCinv fm a imm s = privTaken 0 s from runOne_cacheLine_user h,
      show execCwb fm a imm s = privTaken 0 s from runOne_cacheLine_user h,
      show execWfi fm s = privTaken 0 s from runOne_user h,
      show execCtxsw fm s = privTaken 0 s from runOne_user h,
      show execCtxld fm d a s = privTaken 0 s from runOne_user h,
      show execCtxsp fm d a s = privTaken 0 s from runOne_user h,
      show execWpins fm a b s = privTaken 0 s from runOne_user h,
      show execWpclr fm s = privTaken 0 s from runOne_user h,
      show execDump fm d a b s = privTaken 0 s from runOne_user h,
      show execPgmig fm d a b s = privTaken 0 s from runOne_user h,
      show execPgcmp fm d a s = privTaken 0 s from runOne_user h,
      fun hn => registerForms_priv fun _ => gate_high hn h, fun hn => exec_swr_priv (gate_readOnly hn h),
      fun hn => ⟨exec_sset_priv (gateSet_user hn h), exec_sclr_priv (gateSet_user hn h)⟩⟩
  · exact show execHalt fm s = privTaken 0 s from runOne_priv (atLeast_above h _)

end Sys2Proof.Machine

/-! PROOFS. Waiting, halting and the swap of banks (R301 to R303, R342). -/

namespace Sys2Proof.Machine

section

variable {s : State}

theorem runOne_wait {len : Nat} {body : State → Run} {t : State} (hb : body s = .error (.wait t)) :
    runOne len body s = .next t := by
  unfold runOne
  rw [hb]

theorem atLeast_bind {α : Type} {l : Nat} (h : l ≤ s.pl) (f : Unit → Except Stop α) : (atLeast s l >>= f) = f () := by
  rw [atLeast_ok h]
  rfl

theorem switchTo_self : switchTo s s.cur = s := if_pos rfl

theorem switchTo_of_cur {n : Nat} (h : s.cur = n) : switchTo s n = s := if_pos h.symm

/-- What happens on the current core. -/
theorem onCore_self {f : State → State} (hf : (f s).cur = s.cur) : onCore s.cur f s = f s := by
  rw [onCore, switchTo_self, switchTo_of_cur hf]

/-! ## The swap -/

theorem undefNames_of_noRivals {n : Nat} (ht : pinRivals s n false = []) (hc : pinRivals s n true = []) :
    undefNames n s = s := by
  unfold undefNames
  rw [ht, hc]
  cases activeOf s n with
  | none => rfl
  | some c => exact if_pos rfl

theorem endOverlap_of_noRivals (ht : pinRivals s s.cur false = []) (hc : pinRivals s s.cur true = []) :
    endOverlap s = s := by
  unfold endOverlap undefRivals
  rw [ht, hc]
  exact undefNames_of_noRivals ht hc

theorem waysidePending_strikePending (c : Ctx) : waysidePending (strikePending c) = false := by
  refine List.any_eq_false.2 fun w hw => ?_
  obtain ⟨v, -, rfl⟩ := List.mem_map.1 hw
  by_cases hp : v.state = .pending <;> simp [hp]

theorem recordRepeats_of_zero (hr : s.ctx.aux.repLeft = 0) : recordRepeats s = s := if_pos hr

/-- A context that is put aside between instructions keeps its registers, and waits for no wayside answer. -/
theorem parked_between (hn : s.ctx.aux.sent = .nothing) (hr : s.ctx.aux.repLeft = 0) :
    (∃ a, parked s = { s.ctx with aux := a }) ∧ waysidePending (parked s) = false := by
  have hw : waysidePending (strikePending (squash s).ctx) = false := waysidePending_strikePending _
  refine ⟨?_, hw⟩
  unfold parked squash
  rw [abandon_of_nothing hn]
  dsimp only
  rw [recordRepeats_of_zero hr]
  exact ⟨_, rfl⟩

theorem takeReserved_of_lodge {n : Nat} (hn : n = s.cur) (h : s.core.lodge.isSome = true) : takeReserved n s = s := by
  unfold takeReserved
  split
  · rfl
  · rw [if_pos (by simpa [getCore, hn] using h)]


/-- The swap of a context that is between instructions. -/
theorem swapBanks_between {c : Ctx} (ha : s.core.act = true) (hl : s.core.lodge = some c)
    (hn : s.ctx.aux.sent = .nothing) (ht : pinRivals s s.cur false = []) (hc : pinRivals s s.cur true = []) :
    swapBanks s = { s with
      ctx := { c with aux.spilled := [] }
      core.lodge := some (parked s)
      core.swapping := false
      coh := { dropRequest s.cur s.coh with
        confirms := s.coh.confirms.filter (fun x => decide (x.gtid ≠ s.ctx.prv.gtid)) } } := by
  have he : endOverlap (abandon s) = s := by rw [abandon_of_nothing hn, endOverlap_of_noRivals ht hc]
  unfold swapBanks
  rw [hl]
  dsimp only
  rw [if_pos ha, if_pos ha, if_pos ha, he]
  refine (takeReserved_of_lodge ?_ ?_).trans ?_
  · rfl
  · rfl
  · rw [ha]

/-- A core swaps its banks (R303, R329). -/
def swaps (s : State) : Bool :=
  s.core.swapping && !s.core.halted && !(s.core.act && mustComplete s && !crossing s)

theorem exec_contextSwap (n : Nat) :
    exec (.contextSwap n) s = .next (onCore n (fun s => if swaps s then swapBanks s else s) s) := rfl

theorem exec_contextSwap_idle (h : swaps s = false) : exec (.contextSwap s.cur) s = .next s := by
  have hf : (if swaps s then swapBanks s else s) = s := if_neg (by simp [h])
  rw [exec_contextSwap, onCore_self] <;> rw [hf]

theorem exec_contextSwap_swaps (h : swaps s = true) (hc : (swapBanks s).cur = s.cur) :
    exec (.contextSwap s.cur) s = .next (swapBanks s) := by
  have hf : (if swaps s then swapBanks s else s) = swapBanks s := if_pos h
  rw [exec_contextSwap, onCore_self] <;> rw [hf]
  exact hc

end

/-- Settles O37. -/
theorem waitHaltAndSwap : Obligations.WaitHaltAndSwap := by
  intro fm s core
  refine ⟨fun h1 hi => ?wfi, fun h1 hi => ?waits, fun h3 => ?halt, ?restart, fun h1 hl => ?empty,
    fun c h1 hl hp => ?ctxsw, fun hh => ?halted, fun c hh hs ha hl hn hr ht hc => ?swap, fun hs => ?unswapped⟩
  case wfi =>
    exact show execWfi fm s = _ from runOne_ok (by rw [atLeast_bind h1, if_pos hi])
  case waits =>
    exact show execWfi fm s = _ from runOne_wait (by rw [atLeast_bind h1, if_neg (by simp [hi])]; rfl)
  case halt =>
    exact show execHalt fm s = _ from runOne_ok (by rw [atLeast_bind h3]; rfl)
  case restart =>
    exact ⟨_, rfl, by rw [getCore_setCore_same], by simp, by simp⟩
  case empty =>
    exact show execCtxsw fm s = _ from runOne_trap (by rw [atLeast_bind h1, hl]; rfl)
  case ctxsw =>
    exact show execCtxsw fm s = _ from runOne_ok (by
      rw [atLeast_bind h1, hl]
      exact if_neg fun h => h.2 (hp h.1))
  case halted => exact exec_contextSwap_idle (by simp [swaps, hh])
  case unswapped => exact exec_contextSwap_idle (by simp [swaps, hs])
  case swap =>
    have hx := swapBanks_between ha hl hn ht hc
    obtain ⟨⟨a, hpark⟩, hw⟩ := parked_between hn hr
    have hgo : swaps s = true := by simp [swaps, hs, hh, mustComplete, hn]
    refine ⟨swapBanks s, exec_contextSwap_swaps hgo (by rw [hx]), ?_⟩
    rw [hx]
    exact ⟨rfl, ha, rfl, rfl, rfl, rfl, parked s, rfl, by rw [hpark], by rw [hpark], by rw [hpark], by rw [hpark], hw⟩

end Sys2Proof.Machine

/-! PROOFS. Quantum boundaries and the isolation window (R283, R338 to R340, R355). -/

namespace Sys2Proof.Machine

section

variable {s : State}

theorem abandon_withCore (c : CoreSt) : abandon { s with core := c } = { abandon s with core := c } := by
  unfold abandon
  dsimp only
  split <;> rfl

/-- What a squash does is no affair of the core's. -/
theorem squash_withCore (c : CoreSt) : squash { s with core := c } = { squash s with core := c } := by
  unfold squash
  rw [abandon_withCore]
  generalize abandon s = t
  unfold recordRepeats
  dsimp only
  split <;> rfl

/-! ## The branches of a boundary -/

/-- The entry of the quantum that begins. -/
def quantumEntry (s : State) : Word := (s.core.slottab[s.cyc / 4096 % 16]?).getD 0

/-- The context in the bank is the one that the entry of the quantum names. -/
def quantumHere (s : State) : Bool := s.core.act && qualifies (quantumEntry s) s.ctx

/-- So is the lodged one. -/
def quantumThere (s : State) : Bool := (s.core.lodge.map (qualifies (quantumEntry s))).getD false

/-- The lodged context was lodged the last time, too. -/
def quantumTurn (s : State) : Bool :=
  decide ((s.core.lastLodged.find? (fun x => x.1 = bits (quantumEntry s) 0 12)).map (·.2) = some (lodgedId s))

/-- The core in a quantum that has just begun. -/
def quantumCore (s : State) : CoreSt :=
  { s.core with quantum := some (s.cyc / 4096 % 16, quantumEntry s), minPl := 4, lent := none, window := false }

/-- What a boundary notes of the contexts that a partition's quantum leaves lodged (R338). -/
def boundaryNote (s : State) (g : Word) (t : State) : State :=
  if bits (quantumEntry s) 62 2 = 2 then noteLodged (bits (quantumEntry s) 0 12) g t else t

theorem boundaryNote_eq (g : Word) (t : State) : ∃ l, boundaryNote s g t = { t with core.lastLodged := l } := by
  unfold boundaryNote
  split
  · exact ⟨_, rfl⟩
  · exact ⟨_, rfl⟩

/-- PREEMPT becomes pending in the new quantum. -/
def pendPreempt (s t : State) : State :=
  { t with
    core.preempt := some (s.cyc / 4096 % 16, quantumEntry s)
    core.minPl := if s.core.act then preemptLevel s (quantumEntry s) else 4 }

/-- A boundary by its branches. -/
theorem atBoundary_eq (s : State) : atBoundary s =
    if bits (quantumEntry s) 62 2 = 0 then { s with core := quantumCore s }
    else if decide (bits (quantumEntry s) 62 2 = 2) && reservedHere s (bits (quantumEntry s) 0 12) then
      boundaryNote s 0 { s with core := { quantumCore s with swapping := true } }
    else if quantumHere s && !(decide (bits (quantumEntry s) 62 2 = 2) && quantumThere s && quantumTurn s) then
      boundaryNote s (lodgedId s) { s with core := quantumCore s }
    else if quantumThere s then
      boundaryNote s (if s.core.act then s.ctx.prv.gtid else 0) { s with core := { quantumCore s with swapping := true } }
    else boundaryNote s (lodgedId s) (pendPreempt s (if s.core.act && entryDiffers s (quantumEntry s)
      then { squash s with core := quantumCore s } else { s with core := quantumCore s })) := by
  rw [← squash_withCore]
  rfl

/-- An entry that names no context. -/
theorem atBoundary_idle (hk : bits (quantumEntry s) 62 2 = 0) : atBoundary s = { s with core := quantumCore s } := by
  rw [atBoundary_eq, if_pos hk]

/-- The context in the bank goes on. -/
theorem atBoundary_stays (hk : bits (quantumEntry s) 62 2 ≠ 0) (hh : quantumHere s = true)
    (ht : bits (quantumEntry s) 62 2 = 2 → quantumThere s = true → quantumTurn s = false) :
    ∃ l, atBoundary s = { s with core := { quantumCore s with lastLodged := l } } := by
  have ha : s.core.act = true := (Bool.and_eq_true_iff.1 hh).1
  have hr : reservedHere s (bits (quantumEntry s) 0 12) = false := by simp [reservedHere, ha]
  have hn : (decide (bits (quantumEntry s) 62 2 = 2) && quantumThere s && quantumTurn s) = false := by
    rw [Bool.and_assoc, Bool.and_eq_false_imp, decide_eq_true_eq]
    exact fun h2 => Bool.and_eq_false_imp.2 (ht h2)
  rw [atBoundary_eq, if_neg hk, hr, hh, hn, Bool.and_false, if_neg (by decide), if_pos (by decide)]
  exact boundaryNote_eq _ _

/-- The lodged context comes in. -/
theorem atBoundary_swaps (hk : bits (quantumEntry s) 62 2 ≠ 0) (ht : quantumThere s = true)
    (hh : quantumHere s = true → bits (quantumEntry s) 62 2 = 2 ∧ quantumTurn s = true) :
    ∃ l, atBoundary s = { s with core := { quantumCore s with lastLodged := l, swapping := true } } := by
  have hn : (quantumHere s &&
      !(decide (bits (quantumEntry s) 62 2 = 2) && quantumThere s && quantumTurn s)) = false := by
    rw [Bool.and_eq_false_imp]
    intro h
    simp [hh h, ht]
  rw [atBoundary_eq, if_neg hk, hn, if_neg (c := false = true) (by decide), if_pos ht]
  split
  · exact boundaryNote_eq _ _
  · exact boundaryNote_eq _ _

/-- A context that is on its way to the core comes in. -/
theorem atBoundary_reserved (hk : bits (quantumEntry s) 62 2 = 2)
    (hr : reservedHere s (bits (quantumEntry s) 0 12) = true) :
    ∃ l, atBoundary s = { s with core := { quantumCore s with lastLodged := l, swapping := true } } := by
  rw [atBoundary_eq, if_neg (by omega), if_pos (by simp [hk, hr])]
  exact boundaryNote_eq _ _

/-- Neither context is named: PREEMPT becomes pending. -/
theorem atBoundary_preempts (hk : bits (quantumEntry s) 62 2 ≠ 0) (hh : quantumHere s = false)
    (ht : quantumThere s = false)
    (hr : bits (quantumEntry s) 62 2 = 2 → reservedHere s (bits (quantumEntry s) 0 12) = false) :
    ∃ l, atBoundary s = { (if s.core.act && entryDiffers s (quantumEntry s) then squash s else s) with
      core := { quantumCore s with
        lastLodged := l
        preempt := some (s.cyc / 4096 % 16, quantumEntry s)
        minPl := if s.core.act then preemptLevel s (quantumEntry s) else 4 } } := by
  have hn : (decide (bits (quantumEntry s) 62 2 = 2) && reservedHere s (bits (quantumEntry s) 0 12)) = false := by
    rw [Bool.and_eq_false_imp, decide_eq_true_eq]
    exact hr
  rw [atBoundary_eq, if_neg hk, hn, hh, ht, Bool.false_and, if_neg (c := false = true) (by decide),
    if_neg (c := false = true) (by decide), if_neg (c := false = true) (by decide)]
  obtain ⟨l, hl⟩ := boundaryNote_eq (s := s) (lodgedId s) (pendPreempt s
    (if s.core.act && entryDiffers s (quantumEntry s) then { squash s with core := quantumCore s }
      else { s with core := quantumCore s }))
  rw [hl]
  refine ⟨l, ?_⟩
  unfold pendPreempt
  split <;> rfl

theorem setXstate_cur (x : Word) (t : State) : (setXstate x t).cur = t.cur := rfl

theorem recordRepeats_cur (t : State) : (recordRepeats t).cur = t.cur := by
  unfold recordRepeats
  split
  · rfl
  · exact setXstate_cur _ _

theorem squash_cur : (squash s).cur = s.cur := by
  obtain ⟨x, hx⟩ := abandon_eq s
  unfold squash
  exact (recordRepeats_cur _).trans (by rw [hx])

theorem atBoundary_cur (s : State) : (atBoundary s).cur = s.cur := by
  by_cases hk : bits (quantumEntry s) 62 2 = 0
  · rw [atBoundary_idle hk]
  · rw [atBoundary_eq, if_neg hk]
    have hn : ∀ g t, (boundaryNote s g t).cur = t.cur := fun g t => by
      obtain ⟨l, hl⟩ := boundaryNote_eq (s := s) g t
      rw [hl]
    split
    · exact hn _ _
    · split
      · exact hn _ _
      · split
        · exact hn _ _
        · rw [hn]
          unfold pendPreempt
          split
          · exact squash_cur
          · rfl

/-! ## Boundaries of another core -/

/-- What happens on a core happens at that core's turn. -/
theorem onCore_switchTo {f : State → State} (hf : ∀ t, (f t).cur = t.cur) (n : Nat) :
    onCore n f s = switchTo (onCore n f (switchTo s n)) s.cur := by
  have h := onCore_self (s := switchTo s n) (f := f) (hf _)
  rw [switchTo_cur] at h
  rw [h, onCore]

/-- What a quantum boundary does on the current core. -/
def boundaryOf (s : State) : State := if s.core.halted then s else atBoundary s

theorem boundaryOf_cur (t : State) : (boundaryOf t).cur = t.cur := by
  unfold boundaryOf
  split
  · rfl
  · exact atBoundary_cur t

/-- The entry of the quantum to come. -/
def nextEntry (s : State) : Word := (s.core.slottab[(s.cyc / 4096 + 1) % 16]?).getD 0

/-- What an event of the isolation window does on the current core. -/
def windowOf (s : State) : State :=
  if 3008 ≤ s.cyc % 4096 ∧ bits (nextEntry s) 62 2 ≠ 0 ∧ s.core.act = true ∧ entryDiffers s (nextEntry s) = true
  then { s with core.window := true } else s

theorem windowOf_cur (t : State) : (windowOf t).cur = t.cur := by
  unfold windowOf
  split <;> rfl

theorem exec_quantumBoundary (n : Nat) : exec (.quantumBoundary n) s = .next (onCore n boundaryOf s) := rfl

theorem exec_isolationWindow (n : Nat) : exec (.isolationWindow n) s = .next (onCore n windowOf s) := rfl

end

/-- Settles O44: the branches of a boundary by what its entry names. -/
theorem quantumBoundaries : Obligations.QuantumBoundaries := by
  intro core s
  refine ⟨fun u hu => ?_, fun u hu => ?_, fun hh => ?_, fun hh => ?_, ?_⟩
  · rw [exec_quantumBoundary] at hu ⊢
    rw [onCore_switchTo boundaryOf_cur, Host.Outcome.next.inj hu]
  · rw [exec_isolationWindow] at hu ⊢
    rw [onCore_switchTo windowOf_cur, Host.Outcome.next.inj hu]
  · rw [exec_quantumBoundary, onCore_self (boundaryOf_cur s), boundaryOf, if_pos hh]
  · intro idx entry kind pid here there turn left
    refine ⟨atBoundary s, ?_, mem_atBoundary, ?_⟩
    · rw [exec_quantumBoundary, onCore_self (boundaryOf_cur s), boundaryOf, if_neg (by simp [hh])]
    · have hctx : ∀ {p : Prop} [Decidable p], ¬ p → s.ctx = if p then (squash s).ctx else s.ctx := fun h => (if_neg h).symm
      by_cases hk : kind = 0
      · rw [atBoundary_idle hk]
        exact ⟨hctx fun h => h.1 hk, rfl, rfl, rfl, fun _ => ⟨rfl, rfl⟩, fun h => by omega, fun h => by omega,
          fun h => by omega, fun _ _ h => by omega⟩
      by_cases hr : kind = 2 ∧ reservedHere s pid = true
      · have ha : s.core.act = false := by
          cases ha : s.core.act with
          | false => rfl
          | true => simp [reservedHere, ha] at hr
        have hhere : here = false := by simp [here, ha]
        obtain ⟨l, hl⟩ := atBoundary_reserved hr.1 hr.2
        rw [hl]
        exact ⟨hctx fun h => by simp [ha] at h, rfl, rfl, rfl, fun h => absurd h hk,
          fun _ => ⟨fun h => by simp [hhere] at h, fun _ _ => ⟨rfl, rfl⟩⟩, fun _ h => by simp [hhere] at h,
          fun _ h => by simp [hhere] at h, fun _ _ _ h => by simp [h hr.1] at hr⟩
      have hkept : kind = 2 → reservedHere s pid = false := fun h2 => by
        cases h : reservedHere s pid with
        | false => rfl
        | true => exact absurd ⟨h2, h⟩ hr
      cases hhere : here with
      | false =>
        cases hthere : there with
        | false =>
          obtain ⟨l, hl⟩ := atBoundary_preempts hk hhere hthere hkept
          rw [hl]
          refine ⟨?ctx, rfl, rfl, rfl, fun h => absurd h hk, fun _ => ⟨fun h => absurd h (by decide), fun _ h => absurd h (by decide)⟩,
            fun _ h => absurd h (by decide), fun _ h => absurd h (by decide), fun _ _ _ _ => ⟨rfl, fun ha => if_pos ha⟩⟩
          by_cases hd : s.core.act = true ∧ entryDiffers s (quantumEntry s) = true
          · rw [if_pos (Bool.and_eq_true_iff.2 hd)]
            exact (if_pos ⟨hk, rfl, rfl, hd⟩).symm
          · rw [if_neg fun h => hd (Bool.and_eq_true_iff.1 h)]
            exact hctx fun h => hd ⟨h.2.2.2.1, h.2.2.2.2⟩
        | true =>
          obtain ⟨l, hl⟩ := atBoundary_swaps hk hthere fun h => absurd (hhere.symm.trans h) (by decide)
          rw [hl]
          exact ⟨hctx fun h => absurd h.2.2.1 (by decide), rfl, rfl, rfl, fun h => absurd h hk,
            fun _ => ⟨fun h => absurd h (by decide), fun _ _ => ⟨rfl, rfl⟩⟩, fun _ h => absurd h (by decide),
            fun _ h => absurd h (by decide), fun _ h => absurd h (by decide)⟩
      | true =>
        by_cases ht : kind = 2 ∧ there = true ∧ turn = true
        · obtain ⟨h2, hthere, hturn⟩ := ht
          obtain ⟨l, hl⟩ := atBoundary_swaps hk hthere fun _ => ⟨h2, hturn⟩
          rw [hl, hthere, hturn]
          exact ⟨hctx fun h => absurd h.2.1 (by decide), rfl, rfl, rfl, fun h => absurd h hk,
            fun _ => ⟨fun _ h => absurd h (by decide), fun h => absurd h (by decide)⟩, fun h => by omega,
            fun _ _ _ => ⟨rfl, (Bool.or_true _).symm⟩, fun h => absurd h (by decide)⟩
        · obtain ⟨l, hl⟩ := atBoundary_stays hk hhere fun h2 h3 => by
            cases h4 : quantumTurn s with
            | false => rfl
            | true => exact absurd ⟨h2, h3, h4⟩ ht
          rw [hl]
          refine ⟨hctx fun h => absurd h.2.1 (by decide), rfl, rfl, rfl, fun h => absurd h hk,
            fun _ => ⟨fun _ _ => ⟨rfl, rfl⟩, fun h => absurd h (by decide)⟩, fun _ _ => ⟨rfl, rfl⟩,
            fun h2 _ h3 => ⟨rfl, ?_⟩, fun h => absurd h (by decide)⟩
          have hturn : turn = false := Bool.eq_false_iff.2 fun h4 => ht ⟨h2, h3, h4⟩
          rw [hturn, Bool.or_false]
          rfl
  · intro next
    rw [exec_isolationWindow, onCore_self (windowOf_cur s)]
    rfl

end Sys2Proof.Machine

/-! PROOFS. `CWB`, `CFLUSH` and `CINV` (R299, R412, R413). -/

namespace Sys2Proof.Machine

section

variable {s s1 : State} {pa : Nat}

/-! ## What an invalidation leaves -/

theorem undefinedLine_length (line : Nat) : (undefinedLine s line).length = 128 := by simp [undefinedLine]

/-- The bytes of a line that is invalidated. -/
theorem memRead_undefinedLine {line i : Nat} (hok : s.memOk) (hi : i < 128)
    (hd : (((s.coh.dirty.find? (fun (e : Nat × BitVec 128) => e.1 = line)).map Prod.snd).getD 0).getLsbD i = false) :
    memRead (homeWrite (line * 128) (undefinedLine s line) 0xFF false false s).mem (line * 128 + i) =
      memRead s.mem (line * 128 + i) := by
  have hb : (undefinedLine s line)[i]? = some (memRead s.mem (line * 128 + i)) := by
    unfold undefinedLine
    dsimp only
    rw [List.getElem?_map, List.getElem?_range hi, Option.map_some, hd]
    rfl
  rw [homeWrite_mem, memRead_masked _ _ _ _ _ _ hok hb, show (~~~0xFF : Byte) = 0 from rfl,
    show (0xFF : Byte) = BitVec.allOnes 8 from rfl, BitVec.and_allOnes]
  simp

theorem memRead_homeWrite_otherLine {line x : Nat} {d : List Byte} {m : Byte} {p f : Bool} (hd : d.length = 128)
    (hx : lineOf x ≠ line) : memRead (homeWrite (line * 128) d m p f s).mem x = memRead s.mem x := by
  refine memRead_masked_other _ _ _ _ _ ?_
  unfold lineOf at hx
  omega

theorem invalidateLine_coh {line : Nat} (hl : localMem s (line * 128) = true) :
    (∀ x ∈ (invalidateLine line s).coh.copies, x.line ≠ line) ∧
      ∀ x ∈ (invalidateLine line s).coh.fills, x.line ≠ line := by
  unfold invalidateLine
  rw [if_neg (by simp [hl])]
  exact ⟨fun x hx => of_decide_eq_true (List.mem_filter.1 hx).2, fun x hx => of_decide_eq_true (List.mem_filter.1 hx).2⟩

theorem invalidateLine_mem {line : Nat} (hl : localMem s (line * 128) = true) :
    (invalidateLine line s).mem = s.mem ∨
      (invalidateLine line s).mem = (homeWrite (line * 128) (undefinedLine s line) 0xFF false false s).mem := by
  unfold invalidateLine
  rw [if_neg (by simp [hl])]
  dsimp only
  split
  · exact .inr rfl
  · exact .inl rfl

/-! ## The line -/

/-- A cache instruction: an update of the line that it reaches. -/
def lineRun (fm : Form) (k : AccKind) (a : Nat) (imm : Int) (f : State → Nat → State) (s : State) : Run := do
  let (s, line) ← cacheLine fm k a imm s
  .ok (f s line)

theorem exec_cwb (fm : Form) (a : Nat) (imm : Int) (s : State) : exec (.cwb fm a imm) s =
    runOne (fm.len 49) (lineRun fm .load a imm fun s line => { s with coh := writeBack line s.coh }) s := rfl

theorem exec_cflush (fm : Form) (a : Nat) (imm : Int) (s : State) : exec (.cflush fm a imm) s =
    runOne (fm.len 49) (lineRun fm .load a imm fun s line => { s with
      coh := flushCode s.ctx.prv.gtid line s.cyc (dropCopies line (writeBack line s.coh)) }) s := rfl

theorem exec_cinv (fm : Form) (a : Nat) (imm : Int) (s : State) : exec (.cinv fm a imm) s =
    runOne (fm.len 49) (lineRun fm .store a imm fun s line => invalidateLine line s) s := rfl

section

variable {fm : Form} {k : AccKind} {a : Nat} {imm : Int} {s1 : State} (hp : 1 ≤ s.pl) (hc : clean s [.g a] = true)

include hp hc

theorem cacheLine_eq : cacheLine fm k a imm s = (do
    let (s, ph) ← checkPage k .line (rg s a + ofInt (imm * 128)) 1 s
    let s ← settle 2 s
    .ok (s, lineOf ph.pa)) := by
  unfold cacheLine
  rw [atLeast_bind hp, need_ok hc, eaImm_zero]
  rfl

theorem cacheLine_ok (ht : translate k (rg s a + ofInt (imm * 128)) 1 s = .ok (s1, ⟨pa, false⟩))
    (hh : offsetOf pa < hbmEnd) (hs : storesPerformed 2 s1 = true) :
    cacheLine fm k a imm s = .ok (s1, lineOf pa) := by
  have hpage : checkPage k .line (rg s a + ofInt (imm * 128)) 1 s = .ok (s1, ⟨pa, false⟩) := by
    rw [checkPage, ht]
    exact if_neg (by rw [devRefuses_hbm s1 _ _ hh]; decide)
  have hsettle : settle 2 s1 = .ok s1 := if_pos hs
  rw [cacheLine_eq hp hc, hpage]
  change (settle 2 s1 >>= fun s => Except.ok (s, lineOf pa)) = _
  rw [hsettle]
  rfl

theorem cacheLine_refused (ht : translate k (rg s a + ofInt (imm * 128)) 1 s = .ok (s1, ⟨pa, false⟩))
    (hd : isDevReg pa = true ∨ isHostWin pa = true) :
    cacheLine fm k a imm s = raisePage k (lvlOf s1 (rg s a + ofInt (imm * 128))) 9 (rg s a + ofInt (imm * 128)) s1 := by
  have hr : devRefuses s1 .line ⟨pa, false⟩ 1 = true := by
    unfold devRefuses
    cases hv : isDevReg pa with
    | true => rfl
    | false => simp [hd.resolve_left (by simp [hv])]
  rw [cacheLine_eq hp hc, checkPage, ht]
  change ((if devRefuses s1 .line ⟨pa, false⟩ 1 = true then _ else _) >>= _) = _
  rw [if_pos hr]
  rfl

theorem runOne_lineRun {len : Nat} {f : State → Nat → State}
    (ht : translate k (rg s a + ofInt (imm * 128)) 1 s = .ok (s1, ⟨pa, false⟩))
    (hh : offsetOf pa < hbmEnd) (hs : storesPerformed 2 s1 = true) :
    runOne len (lineRun fm k a imm f) s = retires len (f s1 (lineOf pa)) :=
  runOne_ok (by
    rw [lineRun, cacheLine_ok hp hc ht hh hs]
    rfl)

theorem runOne_lineRun_refused {len : Nat} {f : State → Nat → State}
    (ht : translate k (rg s a + ofInt (imm * 128)) 1 s = .ok (s1, ⟨pa, false⟩))
    (hd : isDevReg pa = true ∨ isHostWin pa = true) :
    runOne len (lineRun fm k a imm f) s =
      .next (takeTrap none ⟨0x05, k.acc * 256 + lvlOf s1 (rg s a + ofInt (imm * 128)) * 64 + 9,
        rg s a + ofInt (imm * 128), true, 0⟩ s1) :=
  runOne_trap (by
    rw [lineRun, cacheLine_refused hp hc ht hd]
    rfl)

theorem exec_cwb_line (ht : translate .load (rg s a + ofInt (imm * 128)) 1 s = .ok (s1, ⟨pa, false⟩))
    (hh : offsetOf pa < hbmEnd) (hs : storesPerformed 2 s1 = true) :
    exec (.cwb fm a imm) s = retires (fm.len 49) { s1 with coh := writeBack (lineOf pa) s1.coh } :=
  (exec_cwb ..).trans (runOne_lineRun hp hc ht hh hs)

theorem exec_cflush_line (ht : translate .load (rg s a + ofInt (imm * 128)) 1 s = .ok (s1, ⟨pa, false⟩))
    (hh : offsetOf pa < hbmEnd) (hs : storesPerformed 2 s1 = true) :
    exec (.cflush fm a imm) s = retires (fm.len 49) { s1 with
      coh := flushCode s1.ctx.prv.gtid (lineOf pa) s1.cyc (dropCopies (lineOf pa) (writeBack (lineOf pa) s1.coh)) } :=
  (exec_cflush ..).trans (runOne_lineRun hp hc ht hh hs)

theorem exec_cinv_line (ht : translate .store (rg s a + ofInt (imm * 128)) 1 s = .ok (s1, ⟨pa, false⟩))
    (hh : offsetOf pa < hbmEnd) (hs : storesPerformed 2 s1 = true) :
    exec (.cinv fm a imm) s = retires (fm.len 49) (invalidateLine (lineOf pa) s1) :=
  (exec_cinv ..).trans (runOne_lineRun hp hc ht hh hs)

end

end

/-- Settles O36. -/
theorem cacheLineResults : Obligations.CacheLineResults := by
  intro fm a imm s s1 pa hp hc va line refused
  have hwritten : ∀ {c : Coh}, ∀ e ∈ (writeBack line c).dirty, e.1 ≠ line :=
    fun e he => of_decide_eq_true (List.mem_filter.1 he).2
  refine ⟨fun hd => ⟨fun ht => ⟨?_, ?_⟩, fun ht => ?_⟩, fun hh hs => ⟨fun ht => ⟨?_, ?_⟩, fun ht hok hl => ?_⟩⟩
  · exact (exec_cwb ..).trans (runOne_lineRun_refused hp hc ht hd)
  · exact (exec_cflush ..).trans (runOne_lineRun_refused hp hc ht hd)
  · exact (exec_cinv ..).trans (runOne_lineRun_refused hp hc ht hd)
  · exact ⟨_, exec_cwb_line hp hc ht hh hs, rfl, hwritten, rfl⟩
  · exact ⟨_, exec_cflush_line hp hc ht hh hs, rfl, hwritten,
      fun x hx => of_decide_eq_true (List.mem_filter.1 hx).2, fun x hx => of_decide_eq_true (List.mem_filter.1 hx).2⟩
  · obtain ⟨hcopies, hfills⟩ := invalidateLine_coh hl
    refine ⟨_, exec_cinv_line hp hc ht hh hs, hcopies, hfills, fun x hx => ?_, fun i hi hd => ?_⟩
    · obtain hm | hm := invalidateLine_mem hl
      · rw [hm]
      · rw [hm]
        exact memRead_homeWrite_otherLine (undefinedLine_length _) hx
    · obtain hm | hm := invalidateLine_mem hl
      · rw [hm]
      · rw [hm]
        exact memRead_undefinedLine hok hi hd

end Sys2Proof.Machine

/-! PROOFS. Register writes with an effect beyond the register (R291, R292, R302, R335, R426, R431, R432). -/

namespace Sys2Proof.Machine

section

variable {s t : State} {n : Nat} {v : Word}

/-! ## Writes that are carried out -/

theorem writeEvent_halted (h : s.core.halted = true) : writeEvent n v s = .next s := if_pos h

theorem writeEvent_ok (hh : s.core.halted = false) (hg : gate n true s = .ok ()) (hw : writeSys n v s = .ok t) :
    writeEvent n v s = .next t := by
  unfold writeEvent
  rw [if_neg (by simp [hh]), hg]
  dsimp only
  rw [hw]
  rfl

/-- A level that reaches the register writes it. -/
theorem gate_write (hn : n ∈ userRegs ++ highRegs) (hl : n / 256 ≤ s.pl) (hp : 1 ≤ s.pl) : gate n true s = .ok () :=
  gate_ok hn hl fun _ h0 => by omega

theorem beforeMessage_ok (h : storesPerformed 4 s = true) : beforeMessage s = .ok s := if_pos h

/-! ## Messages to the host -/

theorem bits_lt (w : Word) (lo k : Nat) : bits w lo k < 2 ^ k := by
  rw [bits_eq_extractLsb']
  exact BitVec.isLt _

theorem sendMsix_frame (fn idx : Nat) : (sendMsix fn idx s).ctx = s.ctx ∧ (sendMsix fn idx s).mem = s.mem := by
  unfold sendMsix
  split
  · exact ⟨rfl, rfl⟩
  · split
    · split <;> exact ⟨rfl, rfl⟩
    · exact ⟨rfl, rfl⟩

theorem sendMsix_sent {fn idx : Nat} (hi : idx < msixCount fn)
    (hm : (msixVector s.host fn idx).data.getLsbD 32 = false) :
    (sendMsix fn idx s).host.sentMsix = s.host.sentMsix ++ [(fn, idx)] := by
  unfold sendMsix
  rw [if_neg (by omega), hm]
  rfl

theorem writeHostirq_ok (h : storesPerformed 4 s = true) : ∃ t, writeHostirq v s = .ok t ∧
    t.ctx = s.ctx ∧ t.mem = s.mem ∧ (2 ≤ s.pl → v.getLsbD 15 = true → t = sendMsix 0 (bits v 0 11) s) := by
  unfold writeHostirq
  rw [beforeMessage_ok h]
  dsimp only [bind, Except.bind]
  by_cases hv : (v.getLsbD 15 && decide (s.pl ≥ 2)) = true
  · rw [if_pos hv]
    obtain ⟨hctx, hmem⟩ := sendMsix_frame (s := s) 0 (bits v 0 11)
    exact ⟨_, rfl, hctx, hmem, fun _ _ => rfl⟩
  · have hno : 2 ≤ s.pl → v.getLsbD 15 = true → False := fun h2 h15 => hv (by simp [h15, h2])
    rw [if_neg hv]
    cases s.host.vfs.find? (fun x => x.pid = s.pid) with
    | none => exact ⟨_, rfl, rfl, rfl, fun h2 h15 => (hno h2 h15).elim⟩
    | some x =>
      obtain ⟨hctx, hmem⟩ := sendMsix_frame (s := s) x.num (bits v 0 11)
      exact ⟨_, rfl, hctx, hmem, fun h2 h15 => (hno h2 h15).elim⟩

/-! ## Cellar shares -/

theorem engineAt_setEngine_same (e : Engine) (h : n < 128) : engineAt (setEngine n e s) n = e := by
  simp [engineAt, setEngine, h]

theorem foldl_add_if {α : Type} (c : α → Bool) (f : α → Nat) (l : List α) (m : Nat) :
    l.foldl (fun n k => if c k then n else n + f k) m = m + (l.map (fun k => if c k then 0 else f k)).sum := by
  induction l generalizing m with
  | nil => rfl
  | cons x l ih =>
    rw [List.foldl_cons, ih, List.map_cons, List.sum_cons]
    split <;> omega

/-- What the valid entries but one add up to. -/
theorem otherShares_eq (e : Engine) (i : Nat) : otherShares e i = ((List.range 8).map (fun k =>
    let x := (e.celshr[k]?).getD 0
    if k ≠ i ∧ x.getLsbD 63 = true then bits x 0 9 else 0)).sum := by
  have h := foldl_add_if (fun k => decide (k = i) || !((e.celshr[k]?).getD 0).getLsbD 63)
    (fun k => bits ((e.celshr[k]?).getD 0) 0 9) (List.range 8) 0
  rw [Nat.zero_add] at h
  unfold otherShares
  dsimp only
  rw [h]
  refine congrArg List.sum (List.map_congr_left fun k _ => ?_)
  by_cases hk : k = i
  · simp [hk]
  · cases ((e.celshr[k]?).getD 0).getLsbD 63 <;> simp [hk]

/-- A share as it is stored. -/
def storedShare (others : Nat) (v : Word) : Word :=
  let w := fields [(63, 1), (32, 12), (0, 9)] v
  if w.getLsbD 63 && decide (bits w 0 9 > 256 - others) then putBits w 0 9 (256 - others) else w

theorem storedShare_fields (others : Nat) (v : Word) :
    bits (storedShare others v) 32 12 = bits v 32 12 ∧ (storedShare others v).getLsbD 63 = v.getLsbD 63 ∧
    bits (storedShare others v) 0 9 =
      (if v.getLsbD 63 = true ∧ 256 < bits v 0 9 + others then 256 - others else bits v 0 9) := by
  have hid := bits_fields_of_mem (l := [(63, 1), (32, 12), (0, 9)]) (f := (32, 12)) v (by decide)
  have hshare := bits_fields_of_mem (l := [(63, 1), (32, 12), (0, 9)]) (f := (0, 9)) v (by decide)
  have hvalid := getLsbD_fields_of_mem (l := [(63, 1), (32, 12), (0, 9)]) (f := (63, 1)) (i := 63) v (by decide)
    (by decide) (by decide)
  dsimp only at hid hshare
  unfold storedShare
  extract_lets w
  split
  next h =>
    rw [Bool.and_eq_true, decide_eq_true_eq, hvalid, hshare] at h
    refine ⟨(bits_putBits_other _ _ (by decide)).trans hid, ?_, ?_⟩
    · rw [getLsbD_putBits, if_neg (by decide), hvalid]
    · rw [bits_putBits_same _ _ (by decide), Nat.mod_eq_of_lt (by omega)]
      by_cases hover : 256 < bits v 0 9 + others
      · rw [if_pos ⟨h.1, hover⟩]
      · omega
  next h =>
    rw [Bool.and_eq_true, decide_eq_true_eq, hvalid, hshare] at h
    refine ⟨hid, hvalid, hshare.trans ?_⟩
    split
    next hc => 
      have : ¬ bits v 0 9 > 256 - others := fun hgt => h ⟨hc.1, hgt⟩
      omega
    next => rfl

theorem writeCelshr_eq (h : selEntry s < 8) : writeCelshr v s = setEngine (selEngine s)
    { engineAt s (selEngine s) with
      celshr := (engineAt s (selEngine s)).celshr.setIfInBounds (selEntry s)
        (storedShare (otherShares (engineAt s (selEngine s)) (selEntry s)) v) } s :=
  if_neg (by omega)

theorem selEngine_lt (h : s.cur < 256) : selEngine s < 128 := by
  have := bits_lt s.core.engsel 8 2
  unfold selEngine State.cluster
  omega

/-! ## The selected row repair -/

/-- Undefining the names of another core leaves the current context and core. -/
theorem undefNames_other {x : Nat} (hx : x ≠ s.cur) :
    (undefNames x s).ctx = s.ctx ∧ (undefNames x s).core = s.core ∧ (undefNames x s).cur = s.cur := by
  obtain h | ⟨c, c', -, -, h⟩ := undefNames_cases x s
  · rw [h]
    exact ⟨rfl, rfl, rfl⟩
  · rw [h, setActive, if_neg hx, setCore, if_neg hx]
    exact ⟨rfl, rfl, rfl⟩

theorem ne_of_mem_pinRivals {acc : Bool} {x : Nat} (h : x ∈ pinRivals s n acc) : x ≠ n := by
  unfold pinRivals at h
  split at h
  · cases h
  · exact of_decide_eq_true (Bool.and_eq_true_iff.1 (List.mem_filter.1 h).2).1

theorem undefRivals_keeps (s : State) : (undefRivals s).ctx = s.ctx ∧ (undefRivals s).core = s.core := by
  have hrivals : ∀ x ∈ (pinRivals s s.cur false ++ pinRivals s s.cur true).dedup, x ≠ s.cur := fun x hx =>
    (List.mem_append.1 (List.mem_dedup.1 hx)).elim ne_of_mem_pinRivals ne_of_mem_pinRivals
  obtain ⟨hctx, hcore, -⟩ := List.foldlRecOn (motive := fun t : State => t.ctx = s.ctx ∧ t.core = s.core ∧ t.cur = s.cur)
    _ (fun s x => undefNames x s) ⟨rfl, rfl, rfl⟩ fun t ⟨hctx, hcore, hcur⟩ x hx => by
      obtain ⟨h1, h2, h3⟩ := undefNames_other (s := t) (x := x) (hcur ▸ hrivals x hx)
      exact ⟨h1.trans hctx, h2.trans hcore, h3.trans hcur⟩
  exact ⟨hctx, hcore⟩

/-- `RPRSEL` as it is stored. -/
def storedRprsel (v : Word) : Word :=
  let w := fields [(15, 1), (12, 2), (6, 4), (0, 5)] v
  if bits w 8 2 = 3 then putBits w 8 2 0 else w

theorem storedRprsel_fields (v : Word) :
    (storedRprsel v).getLsbD 15 = v.getLsbD 15 ∧ bits (storedRprsel v) 8 2 < 3 := by
  have h15 := getLsbD_fields_of_mem (l := [(15, 1), (12, 2), (6, 4), (0, 5)]) (f := (15, 1)) (i := 15) v (by decide)
    (by decide) (by decide)
  unfold storedRprsel
  extract_lets w
  split
  next h =>
    refine ⟨?_, ?_⟩
    · rw [getLsbD_putBits, if_neg (by decide), h15]
    · rw [bits_putBits_same _ _ (by decide)]
      decide
  next h =>
    have := bits_lt w 8 2
    exact ⟨h15, by omega⟩

theorem writeRprsel_keeps (v : Word) (s : State) :
    (writeRprsel v s).ctx = freeNames s.ctx.aux.gang s.ctx ∧ (writeRprsel v s).core.rprsel = storedRprsel v := by
  obtain ⟨hctx, hcore⟩ := undefRivals_keeps s
  unfold writeRprsel
  extract_lets w t
  obtain ⟨hctx', hcore'⟩ := undefRivals_keeps { t with
    ctx := freeNames t.ctx.aux.gang t.ctx
    core.rprsel := if bits w 8 2 = 3 then putBits w 8 2 0 else w }
  rw [hctx', hcore']
  dsimp only [t]
  rw [hctx]
  exact ⟨rfl, rfl⟩

/-! ## Repairs -/

theorem setCore_eng (c : CoreSt) : (setCore s n c).eng = s.eng := by
  unfold setCore
  split <;> rfl

theorem setActive_eng (c : Ctx) : (setActive s n c).eng = s.eng := by
  unfold setActive
  split
  · rfl
  · exact setCore_eng _

theorem setHolderCtx_eng (x : Holder) (c : Ctx) : (setHolderCtx x c s).eng = s.eng := by
  unfold setHolderCtx
  split
  · exact setCore_eng _
  · exact setActive_eng _

theorem scramble_eng (acc : Bool) (row : Nat) (x : Holder) : (scramble acc row x s).eng = s.eng := by
  unfold scramble
  split
  · rfl
  · split <;> exact setHolderCtx_eng _ _

/-- A row that is redirected leaves the engines' records. -/
theorem redirectRow_eng (e : RepairEntry) : (redirectRow n e s).eng = s.eng := by
  unfold redirectRow
  extract_lets hs pins loose s1
  have h1 : s1.eng = s.eng := List.foldlRecOn (motive := fun t : State => t.eng = s.eng) _ _ rfl
    fun t ht x _ => (scramble_eng ..).trans ht
  split
  · exact (scramble_eng ..).trans h1
  · exact h1

theorem repairEngine_lt (h : s.cur < 256) : repairEngine s < 128 := by
  have := bits_lt s.core.rprsel 6 2
  unfold repairEngine State.cluster
  omega

/-! ## The end of boot -/

/-- What the end of the tests looks at. -/
def bootKept (s t : State) : Prop :=
  t.cur = s.cur ∧ t.boot = s.boot ∧ t.rel = s.rel ∧
    ∀ n, (getCore t n).bistsum = (getCore s n).bistsum ∧ (getCore t n).halted = (getCore s n).halted

theorem bootKept_refl (s : State) : bootKept s s := ⟨rfl, rfl, rfl, fun _ => ⟨rfl, rfl⟩⟩

theorem bootKept_trans {u : State} (h : bootKept s t) (k : bootKept t u) : bootKept s u := by
  obtain ⟨h1, h2, h3, h4⟩ := h
  obtain ⟨k1, k2, k3, k4⟩ := k
  exact ⟨k1.trans h1, k2.trans h2, k3.trans h3, fun n => ⟨(k4 n).1.trans (h4 n).1, (k4 n).2.trans (h4 n).2⟩⟩

theorem bootKept_setCore {c : CoreSt} (hb : c.bistsum = (getCore s n).bistsum) (hh : c.halted = (getCore s n).halted) :
    bootKept s (setCore s n c) := by
  obtain ⟨hcur, -, -, hboot⟩ := setCore_frame s (n := n) c
  refine ⟨hcur, hboot, ?_, fun m => ?_⟩
  · unfold setCore
    split <;> rfl
  · by_cases hm : m = n
    · rw [hm, getCore_setCore_same]
      exact ⟨hb, hh⟩
    · rw [getCore_setCore_other _ _ hm]
      exact ⟨rfl, rfl⟩

theorem bootKept_setActive (c : Ctx) : bootKept s (setActive s n c) := by
  by_cases hn : n = s.cur
  · rw [setActive, if_pos hn]
    refine ⟨rfl, rfl, rfl, fun m => ?_⟩
    unfold getCore
    dsimp only
    split <;> exact ⟨rfl, rfl⟩
  · rw [setActive, if_neg hn]
    exact bootKept_setCore rfl rfl

theorem bootKept_undefNames (n : Nat) (s : State) : bootKept s (undefNames n s) := by
  obtain h | ⟨c, c', -, -, h⟩ := undefNames_cases n s
  · rw [h]
    exact bootKept_refl s
  · rw [h]
    exact bootKept_setActive c'

theorem bootKept_undefCluster (n : Nat) (s : State) : bootKept s (undefCluster n s) :=
  List.foldlRecOn (motive := bootKept s) _ _ (bootKept_refl s) fun _ ht _ _ => bootKept_trans ht (bootKept_undefNames ..)

theorem bootKept_onContext (g : Word) (f : Ctx → Ctx) (s : State) : bootKept s (onContext g f s) := by
  refine List.foldlRecOn (motive := bootKept s) _ _ (bootKept_refl s) fun t ht n _ => ?_
  extract_lets s1
  have h1 : bootKept s s1 := by
    unfold s1
    split
    · split
      · exact bootKept_trans ht (bootKept_setActive _)
      · exact ht
    · exact ht
  split
  · split
    · exact bootKept_trans h1 (bootKept_setCore rfl rfl)
    · exact h1
  · exact h1

theorem bootKept_quarantine (n : Nat) (s : State) : bootKept s (quarantine n s) := by
  unfold quarantine
  split
  · exact bootKept_refl s
  · extract_lets hit s1
    have hlost : bootKept s s1 := List.foldlRecOn (motive := bootKept s) _ _ (bootKept_refl s)
      fun _ ht _ _ => bootKept_trans ht (bootKept_onContext ..)
    exact bootKept_trans hlost (bootKept_trans ⟨rfl, rfl, rfl, fun _ => ⟨rfl, rfl⟩⟩ (bootKept_undefCluster n _))

/-- Quarantining the engines that fail their tests leaves what the tests have given, and the level. -/
theorem bootKept_quarantineFailed (s : State) : bootKept s (quarantineFailed s) ∧ (quarantineFailed s).pl = s.pl := by
  unfold quarantineFailed
  split
  · exact ⟨bootKept_refl s, rfl⟩
  · obtain ⟨hk, hr⟩ := List.foldlRecOn (motive := fun t : State => bootKept s t ∧ sameReturn s.ctx t.ctx)
      (s.cur :: s.others.map (·.1)) (fun s n => if bits (getCore s n).bistsum 0 3 = 7 then quarantine (rawHome n) s else s)
      ⟨bootKept_refl s, sameReturn_refl _⟩ fun t ht n _ => by
        split
        · exact ⟨bootKept_trans ht.1 (bootKept_quarantine ..), sameReturn_trans ht.2 (sameReturn_quarantine ..)⟩
        · exact ht
    exact ⟨hk, hr.2.2⟩

theorem testsDone_of_bootKept (h : bootKept s t) :
    (List.range 4).all (fun d => !dieLive t d || bistDone t d) =
      (List.range 4).all (fun d => !dieLive s d || bistDone s d) := by
  obtain ⟨-, -, hrel, hcores⟩ := h
  have hd : ∀ d, (!dieLive t d || bistDone t d) = (!dieLive s d || bistDone s d) := fun d => by
    unfold dieLive bistDone
    rw [hrel]
    simp only [hcores]
  simp only [hd]

theorem writeBootst_code (v : Word) (s : State) : bits (writeBootst v s).boot.bootst 0 4 =
    if bits v 0 4 = 6 ∧ bits s.boot.bootst 0 4 = 5 ∧ (List.range 4).all (fun d => !dieLive s d || bistDone s d) = true
    then 6 else bits s.boot.bootst 0 4 := by
  unfold writeBootst
  split
  · exact bits_putBits_same _ _ (by decide)
  · rfl

theorem exec_bootstWrite_ok (hh : s.core.halted = false) (hp : 3 ≤ s.pl) :
    ∃ u, bootKept s u ∧ exec (.bootstWrite v) s = .next (writeBootst v u) := by
  have hgo : ∀ u, bootKept s u → u.pl = s.pl → writeEvent 0x310 v u = .next (writeBootst v u) := fun u hk hpl => by
    have hcore : u.core.halted = false := by
      have h := (hk.2.2.2 s.cur).2
      rwa [getCore, getCore, if_pos hk.1.symm, if_pos rfl, hh] at h
    exact writeEvent_ok hcore (gate_write (by decide) (by rw [hpl]; exact hp) (by omega)) rfl
  obtain ⟨hk, hpl⟩ := bootKept_quarantineFailed s
  by_cases hc : bits v 0 4 = 6 ∧ s.pl = 3 ∧ (!s.core.halted) = true
  · exact ⟨_, hk, (show execBootstWrite v s = _ by rw [execBootstWrite, if_pos hc, hgo _ hk hpl])⟩
  · exact ⟨_, bootKept_refl s, (show execBootstWrite v s = _ by rw [execBootstWrite, if_neg hc, hgo _ (bootKept_refl s) rfl])⟩

/-! ## Other registers -/

theorem execSystemRegisterWrite_ok (hh : s.core.halted = false) (hg : gate n true s = .ok ()) :
    exec (.systemRegisterWrite n v) s = .next (writePlain n v s) :=
  show execSystemRegisterWrite n v s = _ by rw [execSystemRegisterWrite, if_neg (by simp [hh]), hg]

theorem execSystemRegisterWrite_user (hn : 0x100 ≤ n) (hp : s.pl = 0) : exec (.systemRegisterWrite n v) s = .next s :=
  show execSystemRegisterWrite n v s = _ by
    rw [execSystemRegisterWrite, gate_high hn hp]
    exact ite_self _

end

/-- Settles O34. -/
theorem registerWriteEvents : Obligations.RegisterWriteEvents := by
  intro n v s
  refine ⟨fun hh i hi => ?halted, fun hh => ⟨fun h1 hs => ⟨?ipi, ?hostirq⟩, fun h1 => ?xstate, fun h2 hc he => ?celshr,
    fun h3 => ?rprsel, fun h3 hc => ?rpradd, fun h3 => ?bootst, fun h3 hn => ?others,
    fun h0 hn => execSystemRegisterWrite_user hn h0⟩⟩
  case halted =>
    simp only [List.mem_cons, List.not_mem_nil, or_false] at hi
    obtain rfl | rfl | rfl | rfl | rfl | rfl | rfl | rfl := hi
    case inr.inr.inr.inr.inr.inr.inl =>
      refine (show execBootstWrite v s = _ from ?_)
      rw [execBootstWrite, if_neg (by simp [hh])]
      exact writeEvent_halted hh
    case inr.inr.inr.inr.inr.inr.inr => exact (show execSystemRegisterWrite n v s = _ from if_pos hh)
    all_goals exact writeEvent_halted hh
  case ipi =>
    refine writeEvent_ok hh (gate_write (by decide) h1 h1) ?_
    change writeIpi v s = _
    rw [writeIpi, beforeMessage_ok hs]
    rfl
  case hostirq =>
    obtain ⟨t, ht, hctx, hmem, hsent⟩ := writeHostirq_ok (v := v) hs
    refine ⟨t, writeEvent_ok hh (gate_write (by decide) h1 h1) ht, hctx, hmem, fun h2 h15 hm => ?_⟩
    rw [hsent h2 h15]
    exact sendMsix_sent (bits_lt v 0 11) hm
  case xstate =>
    exact ⟨writeXstate v s, writeEvent_ok hh (gate_write (by decide) (by omega) h1) rfl, fields_eq_and_maskOf _ v, rfl⟩
  case celshr =>
    refine ⟨writeCelshr v s, writeEvent_ok hh (gate_write (by decide) h2 (by omega)) rfl, ?_⟩
    rw [writeCelshr_eq he, engineAt_setEngine_same _ (selEngine_lt hc)]
    dsimp only
    rw [Vector.getElem?_setIfInBounds_self_of_lt he, Option.getD_some, ← otherShares_eq]
    exact storedShare_fields _ v
  case rprsel =>
    obtain ⟨hctx, hsel⟩ := writeRprsel_keeps v s
    refine ⟨writeRprsel v s, writeEvent_ok hh (gate_write (by decide) h3 (by omega)) rfl, hctx, ?_⟩
    rw [hsel]
    exact storedRprsel_fields v
  case rpradd =>
    intro e old
    refine ⟨writeRpradd v s, writeEvent_ok hh (gate_write (by decide) h3 (by omega)) rfl, fun hm => ?_, fun hm hs hl => ?_,
      fun hm hs => ?_⟩
    · exact if_pos (List.contains_iff_mem.2 hm)
    · have heng : (writeRpradd v s).eng = (setEngine (repairEngine s)
          { engineAt s (repairEngine s) with repair := old ++ [e] } s).eng := by
        unfold writeRpradd
        rw [if_neg fun h => hm (List.contains_iff_mem.1 h), if_neg (not_or.2 ⟨Nat.not_le.2 hs, Nat.not_le.2 hl⟩)]
        exact redirectRow_eng _
      rw [engineAt, heng, ← engineAt, engineAt_setEngine_same _ (repairEngine_lt hc)]
    · unfold writeRpradd
      rw [if_neg fun h => hm (List.contains_iff_mem.1 h)]
      exact if_pos hs
  case bootst =>
    obtain ⟨u, hk, hu⟩ := exec_bootstWrite_ok (v := v) hh h3
    refine ⟨_, hu, ?_⟩
    rw [writeBootst_code, testsDone_of_bootKept hk, hk.2.1]
  case others =>
    have hg : gate n true s = .ok () := gate_write (by revert n; decide) (by
      have : n / 256 ≤ 3 := by revert n; decide
      omega) (by omega)
    refine ⟨_, execSystemRegisterWrite_ok hh hg, ?_⟩
    simp only [List.mem_cons, List.not_mem_nil, or_false] at hn
    obtain rfl | rfl | rfl | rfl | rfl | rfl := hn
    case inr.inr.inr.inl => exact ⟨rfl, rfl, fun _ => fields_eq_and_maskOf _ v, fun h => absurd h (by decide)⟩
    case inr.inr.inr.inr.inr => exact ⟨rfl, rfl, fun h => absurd h (by decide), fun _ => fields_eq_and_maskOf [(0, 7)] v⟩
    all_goals exact ⟨rfl, rfl, fun h => absurd h (by decide), fun h => absurd h (by decide)⟩

end Sys2Proof.Machine

/-! PROOFS. Copy commands: checks, issue, `XDRAIN` and `XCANCEL` (R219 to R221, R229, R232, R233, R262). -/

namespace Sys2Proof.Machine

section

variable {s s1 s2 : State} {op : CmdOp} {d a : Nat} {bytes : List Byte}

/-! ## Issue -/

/-- What a command instruction does once its descriptor has been read. -/
def issueRead (op : CmdOp) (d : Nat) (x : Desc) (res : Bool) (s : State) : Run :=
  let chk := firstFailing s s.ctx.prv.gtid s.pid op x res
  if chk ≠ 0 then .ok (wg s d (BitVec.ofNat 64 chk))
  else do
    let (s, ph) ← issueWord x s
    let locks := cmdLocks s s.ctx.prv.gtid op x
    if !canIssue s locks then waitIn (advance s)
    else
      let s ← match ph with
        | none => .ok s
        | some ph => storePhys ph (bytesOfNat 8 1) 0xFF s
      .ok (wg (register op x (ph.map (fun p => (p.pa, p.dev))) locks s) d 0)

theorem command_read (hc : clean s [.g a] = true) (hl : loadRow 64 (rg s a) 64 s = .ok (s1, bytes)) :
    command op d a s = issueRead op d (readDesc bytes).1 (readDesc bytes).2 s1 := by
  unfold command
  rw [need_ok hc]
  dsimp only [bind, Except.bind]
  rw [hl]
  rfl

theorem issueRead_fails {x : Desc} {res : Bool} (h : firstFailing s1 s1.ctx.prv.gtid s1.pid op x res ≠ 0) :
    issueRead op d x res s1 =
      .ok (wg s1 d (BitVec.ofNat 64 (firstFailing s1 s1.ctx.prv.gtid s1.pid op x res))) := if_pos h

/-- The command is in flight. -/
theorem issueRead_goes {x : Desc} {res : Bool} {ph : Option Phys} {s3 : State}
    (h : firstFailing s1 s1.ctx.prv.gtid s1.pid op x res = 0) (hw : issueWord x s1 = .ok (s2, ph))
    (hi : canIssue s2 (cmdLocks s2 s2.ctx.prv.gtid op x) = true)
    (hs : (match ph with
      | none => (.ok s2 : Run)
      | some ph => storePhys ph (bytesOfNat 8 1) 0xFF s2) = .ok s3) :
    issueRead op d x res s1 = .ok (wg (register op x (ph.map (fun p => (p.pa, p.dev)))
      (cmdLocks s2 s2.ctx.prv.gtid op x) s3) d 0) := by
  unfold issueRead
  dsimp only
  rw [if_neg (not_not.2 h), hw]
  dsimp only [bind, Except.bind]
  rw [hi, if_neg (by decide)]
  cases ph with
  | none =>
    cases hs
    rfl
  | some p =>
    dsimp only at hs ⊢
    rw [hs]

/-- What a command that is registered adds. -/
theorem register_adds (x : Desc) (cw : Option (Nat × Bool)) (locks : List (Range × LockKind)) (s : State) :
    (register op x cw locks s).core.sb = s.core.sb ∧
    (∃ c, (register op x cw locks s).copy.cmds = s.copy.cmds ++ [c] ∧ c.op = op ∧ c.desc = x ∧
      c.gtid = s.ctx.prv.gtid ∧ c.core = s.cur) ∧
    ∀ r ∈ locks, (register op x cw locks s).copy.locks.any (fun l =>
      l.gtid = s.ctx.prv.gtid ∧ l.lo = r.1.lo.toNat ∧ l.hi = r.1.hi.toNat ∧ l.kind = r.2) = true := by
  unfold register
  extract_lets id g o s0 ls c
  have h0 : s0.core = s.core ∧ s0.copy.cmds = s.copy.cmds := by
    dsimp only [s0]
    split <;> exact ⟨rfl, rfl⟩
  refine ⟨congrArg CoreSt.sb h0.1, ⟨c, congrArg (· ++ [c]) h0.2, rfl, rfl, rfl, rfl⟩, fun r hr => ?_⟩
  refine List.any_eq_true.2 ⟨_, List.mem_append_right _ (List.mem_map_of_mem hr), ?_⟩
  exact decide_eq_true ⟨rfl, rfl, rfl, rfl⟩

/-- The forms of a command instruction. -/
theorem exec_command {fm : Form} {llc : Bool} {i : Instr}
    (h : (op, i) ∈ [(CmdOp.copy, Instr.xcopy fm d a), (.copy2, .xcopy2 fm d a), (.gather, .xgath fm d a),
      (.scatter, .xscat fm d a), (.fill, .xfill fm d a), (.warm llc, .xwarm fm llc d a),
      (.collective 0, .xcollAr fm d a), (.collective 1, .xcollAg fm d a), (.collective 2, .xcollRs fm d a),
      (.collective 3, .xcollBc fm d a)]) : exec i s = runOne (fm.len 28) (command op d a) s := by
  simp only [List.mem_cons, List.not_mem_nil, or_false, Prod.mk.injEq] at h
  obtain ⟨rfl, rfl⟩ | ⟨rfl, rfl⟩ | ⟨rfl, rfl⟩ | ⟨rfl, rfl⟩ | ⟨rfl, rfl⟩ | ⟨rfl, rfl⟩ | ⟨rfl, rfl⟩ | ⟨rfl, rfl⟩ |
    ⟨rfl, rfl⟩ | ⟨rfl, rfl⟩ := h
  all_goals rfl

/-! ## Cancelling -/

/-- The numbers of the commands in flight. -/
def cmdIds (s : State) : List Nat := s.copy.cmds.map (·.id)

theorem cmdIds_of_copy {t : State} (h : t.copy.cmds = s.copy.cmds) : cmdIds t = cmdIds s :=
  congrArg (List.map Cmd.id) h

theorem cmdIds_putCmd (c : Cmd) : cmdIds (putCmd c s) = cmdIds s := by
  unfold cmdIds putCmd
  rw [List.map_map]
  refine List.map_congr_left fun x _ => ?_
  dsimp only [Function.comp]
  split
  · next h => exact h.symm
  · rfl

theorem cmdIds_failMember (code : Nat) (c : Cmd) : cmdIds (failMember code c s) = cmdIds s := by
  unfold failMember
  split
  · exact cmdIds_putCmd _
  · rfl

theorem cmdIds_foldl {α : Type} {f : State → α → State} (hf : ∀ t x, cmdIds (f t x) = cmdIds t) (l : List α) (s : State) :
    cmdIds (l.foldl f s) = cmdIds s :=
  List.foldlRecOn (motive := fun t : State => cmdIds t = cmdIds s) _ _ rfl fun t ht x _ => (hf t x).trans ht

theorem cmdIds_abortCollective (grp id code : Nat) (except : Word) :
    cmdIds (abortCollective grp id code except s) = cmdIds s :=
  cmdIds_foldl (f := fun s c => failMember code c s) (fun _ _ => cmdIds_failMember _ _) _ s

theorem cmdIds_tellAborts : cmdIds (tellAborts s) = cmdIds s := by
  refine cmdIds_foldl (fun t x => ?_) _ _
  dsimp only
  split <;> rfl

theorem cmdIds_abortEverywhere (grp id code : Nat) (except : Word) :
    cmdIds (abortEverywhere grp id code except s) = cmdIds s :=
  cmdIds_tellAborts.trans (cmdIds_abortCollective ..)

theorem cmdIds_cancelCmd (c : Cmd) : cmdIds (cancelCmd c s) = cmdIds s := by
  unfold cancelCmd
  dsimp only
  split
  · exact (cmdIds_abortEverywhere ..).trans (cmdIds_putCmd _)
  · exact cmdIds_putCmd _

theorem cmdIds_finishCmd (c : Cmd) (code addr : Nat) :
    cmdIds (finishCmd c code addr s) = (cmdIds s).filter (fun n => decide (n ≠ c.id)) := by
  unfold cmdIds
  rw [finishCmd_copy, List.filter_map]
  rfl

/-- What `XCANCEL` does to the commands it finds. -/
def cancelled (l : List Cmd) (s : State) : State := l.foldl (fun s c => finishCmd c 5 0 (cancelCmd c s)) s

/-- Commands that have been ended are no longer in flight, and none has come. -/
theorem cmdIds_cancelled (l : List Cmd) (s : State) :
    ∀ n ∈ cmdIds (cancelled l s), n ∈ cmdIds s ∧ ∀ y ∈ l, n ≠ y.id := by
  induction l generalizing s with
  | nil => exact fun n hn => ⟨hn, fun y hy => absurd hy List.not_mem_nil⟩
  | cons c l ih =>
    intro n hn
    obtain ⟨hin, hout⟩ := ih _ n hn
    rw [cmdIds_finishCmd, cmdIds_cancelCmd] at hin
    obtain ⟨hs, hc⟩ := List.mem_filter.1 hin
    refine ⟨hs, fun y hy => ?_⟩
    obtain rfl | hy := List.mem_cons.1 hy
    · exact of_decide_eq_true hc
    · exact hout y hy

end

/-- Settles O28. -/
theorem copyCommandResults : Obligations.CopyCommandResults := by
  refine ⟨fun fm llc d a s s1 bytes hc hl op i hi => ?_, fun fm mc d a s => ⟨fun hn he => ?_, fun hc ht => ?_⟩⟩
  · intro x chk
    rw [exec_command hi]
    refine ⟨fun hf => runOne_ok ((command_read hc hl).trans (issueRead_fails hf)), fun s2 pa h0 hword hgo => ?_⟩
    obtain ⟨hcw, rfl⟩ | ⟨hcw, hr, hroom⟩ := hword
    · have hwordOk : issueWord x s2 = .ok (s2, none) := if_pos hcw
      rw [if_pos hcw]
      exact ⟨_, runOne_ok ((command_read hc hl).trans (issueRead_goes h0 hwordOk hgo rfl)), register_adds x _ _ s2⟩
    · have hwordOk : issueWord x s1 = .ok (s2, some ⟨pa, false⟩) := by
        rw [issueWord, if_neg hcw, checkScalar_reaches .scalar hr]
        rfl
      have hstore := storePhys_reaches (data := bytesOfNat 8 1) (mask := 0xFF) hr rfl (by decide) hroom
      rw [if_neg hcw]
      exact ⟨_, runOne_ok ((command_read hc hl).trans (issueRead_goes h0 hwordOk hgo hstore)),
        register_adds x _ _ (stored pa (bytesOfNat 8 1) 0xFF s2)⟩
  · have hclass : (cmdsOf s s.ctx.prv.gtid).any (inClass (mcNum mc)) = false := by
      cases mc <;> exact hn
    have hbody : execXdrain fm mc s = runOne (fm.len 28) (fun s => if mc = .pkg then clearing s else .ok s) s := by
      unfold execXdrain runOne
      dsimp only
      rw [if_neg (by simp [hclass]), if_neg (by simp [he])]
    refine ⟨fun hm => hbody.trans (runOne_ok (if_neg hm)), fun hm hheld => hbody.trans (runOne_ok ?_)⟩
    rw [if_pos hm]
    exact if_neg (by simp [hheld])
  · intro l hw
    refine ⟨cancelled l s, (show execXcancel fm d a s = _ from runOne_ok ?_), fun c hin => ?_⟩
    · rw [need_ok hc]
      dsimp only [bind, Except.bind]
      rw [if_neg (by simp [ht]), if_neg (Bool.eq_false_iff.1 hw)]
      rfl
    · exact (cmdIds_cancelled l s c.id (List.mem_map_of_mem hin)).2

end Sys2Proof.Machine

/-! PROOFS. `CTXLD` and `CTXSP` (R304, R329, R344). -/

namespace Sys2Proof.Machine

section

variable {s t : State}

/-! ## What goes on around the current thread -/

theorem sameThread_refl (s : State) : sameThread s s := ⟨rfl, rfl⟩

theorem sameThread_foldl {α : Type} {f : State → α → State} (hf : ∀ t x, sameThread t (f t x)) (l : List α) (s : State) :
    sameThread s (l.foldl f s) :=
  List.foldlRecOn (motive := sameThread s) _ _ (sameThread_refl s) fun t ht x _ => sameThread_trans ht (hf t x)

theorem sameThread_agentWrite (pa : Nat) (d : List Byte) (s : State) : sameThread s (agentWrite pa d s) := by
  obtain ⟨m, c, h⟩ := agentWrite_sameButMemory pa d s
  rw [h]
  exact ⟨rfl, rfl⟩

theorem sameThread.agentWrite (h : sameThread s t) (pa : Nat) (d : List Byte) : sameThread s (agentWrite pa d t) :=
  sameThread_trans h (sameThread_agentWrite pa d t)

theorem agentWrite_cur (pa : Nat) (d : List Byte) (s : State) : (agentWrite pa d s).cur = s.cur := by
  obtain ⟨m, c, h⟩ := agentWrite_sameButMemory pa d s
  rw [h]

theorem sameThread_noteMember (g : Word) (f : Member → Member) (s : State) : sameThread s (noteMember g f s) := by
  unfold noteMember
  split <;> exact ⟨rfl, rfl⟩

/-! ## Spilling -/

theorem sameThread_poisonLines (l : List Nat) (s : State) : sameThread s (poisonLines l s) :=
  sameThread_foldl (f := fun s x => { s with coh := poisonLine x s.coh }) (fun _ _ => ⟨rfl, rfl⟩) l s

theorem sameThread_writeBlock (c : Ctx) (area : Nat) (seq : Word) (i : Nat) (s : State) :
    sameThread s (writeBlock c area seq i s) := by
  unfold writeBlock
  exact sameThread_trans (sameThread_trans (sameThread_agentWrite ..) (sameThread_agentWrite ..))
    (sameThread_poisonLines ..)

theorem sameThread_spillTo (c : Ctx) (area : Nat) (s : State) : sameThread s (spillTo c area s) := by
  unfold spillTo
  extract_lets seq _ s0 x0 xb str x fits s1 s2 s3 len s4 s5
  have h1 : sameThread s s1 :=
    sameThread_trans (t := s0) ⟨rfl, rfl⟩ (sameThread_foldl (fun _ _ => sameThread_writeBlock ..) _ _)
  have h2 : sameThread s s2 := by
    dsimp only [s2]
    split
    · exact h1
    · exact sameThread_trans h1 (sameThread_foldl (fun _ _ => sameThread_agentWrite ..) _ _)
  have h3 : sameThread s s3 := by
    dsimp only [s3]
    split
    · exact sameThread_trans h2 (sameThread_poisonLines ..)
    · exact h2
  have h5 : sameThread s s5 := ((h3.agentWrite _ _).agentWrite _ _).agentWrite _ _
  clear_value s5
  refine sameThread.agentWrite ?_ _ _
  exact ⟨h5.1, h5.2⟩

/-- The state in which a lodged context has been written to its area. -/
def spilledState (area : Nat) (c : Ctx) (s : State) : State :=
  if (spillable s c).2 ≠ 0 then markPoisoned area (spillable s c).2 (spillTo (spillable s c).1 area s)
  else spillTo (spillable s c).1 area s

theorem spillLodged_eq (area : Nat) (c : Ctx) (s : State) : spillLodged area c s =
    noteMember c.prv.gtid (fun m => { m.goes .queued with place := none })
      { spilledState area c s with core.lodge := none } := rfl

theorem sameThread_spilledState (area : Nat) (c : Ctx) (s : State) : sameThread s (spilledState area c s) := by
  unfold spilledState
  split
  · exact sameThread_trans (sameThread_spillTo ..) (sameThread_agentWrite ..)
  · exact sameThread_spillTo ..

/-- A spill empties the lodge and leaves the current context. -/
theorem spillLodged_keeps (area : Nat) (c : Ctx) (s : State) :
    (spillLodged area c s).core.lodge = none ∧ (spillLodged area c s).ctx = s.ctx := by
  obtain ⟨hctx, hcore⟩ := sameThread_noteMember c.prv.gtid (fun m => { m.goes .queued with place := none })
    { spilledState area c s with core.lodge := none }
  rw [spillLodged_eq, hctx, hcore]
  exact ⟨rfl, (sameThread_spilledState area c s).1⟩

/-! ## Entering the lodge -/

theorem applyStop_keeps (c : Ctx) (s : State) :
    (applyStop c s).1.regs = c.regs ∧ (applyStop c s).2.ctx = s.ctx ∧ (applyStop c s).2.cur = s.cur := by
  unfold applyStop
  split <;> exact ⟨rfl, rfl, rfl⟩

/-- A context has entered the lodge of the current core. -/
def lodges (c : Ctx) (s t : State) : Prop := (∃ c', t.core.lodge = some c' ∧ c'.regs = c.regs) ∧ t.ctx = s.ctx

theorem lodges_putLodge (c : Ctx) (s : State) : lodges c s (putLodge s.cur c s) := by
  obtain ⟨hregs, hctx, hcur⟩ := applyStop_keeps c s
  unfold putLodge
  rw [setCore, if_pos hcur.symm]
  exact ⟨⟨_, rfl, hregs⟩, hctx⟩

theorem lodges_of_sameThread {c : Ctx} {u : State} (h : lodges c s t) (k : sameThread t u) : lodges c s u := by
  obtain ⟨⟨c', hl, hr⟩, hctx⟩ := h
  exact ⟨⟨c', k.2 ▸ hl, hr⟩, k.1.trans hctx⟩

theorem sameThread_acquireOn (g : Word) (n : Nat) (clears : Bool) (s : State) : sameThread s (acquireOn g n clears s) := by
  unfold acquireOn
  split <;> exact ⟨rfl, rfl⟩

theorem lodges_enterBank (resumes : Bool) (c : Ctx) (s : State) : lodges c s (enterBank resumes s.cur c s) := by
  unfold enterBank
  extract_lets g saved moved _ c1 _ s1
  have h1 : lodges c s s1 := by
    obtain ⟨⟨c', hl, hr⟩, hctx⟩ :=
      lodges_putLodge c1 { s with xlat.saved := s.xlat.saved.filter (fun x => decide (x.gtid ≠ g)) }
    exact ⟨⟨c', hl, hr⟩, hctx⟩
  clear_value s1
  split
  · split
    · exact lodges_of_sameThread h1 (sameThread_acquireOn ..)
    · exact h1
  · next tm _ =>
    extract_lets begun s2
    have h2 : lodges c s s2 := lodges_of_sameThread h1 ⟨rfl, rfl⟩
    split
    · split
      · exact lodges_of_sameThread h2 (sameThread_acquireOn ..)
      · exact h2
    · exact lodges_of_sameThread h2 (sameThread_acquireOn ..)

/-! ## The instructions -/

section

variable {fm : Form} {d a : Nat} (hp : 1 ≤ s.pl) (hc : clean s [.g a] = true)

/-- What `CTXLD` does with an area that it may read. -/
def loadFrom (d area : Nat) (s : State) : Run :=
  if s.core.lodge.isSome then .ok (wg s d 1)
  else if (areaFlags s area).getLsbD 18 then .ok (wg s d 2)
  else if (areaFlags s area).getLsbD 17 then .ok (wg s d 3)
  else loadArea d area s

theorem settle_ok {scope : Nat} (h : storesPerformed scope s = true) : settle scope s = .ok s := if_pos h

include hp hc in
theorem exec_ctxld_reaches (ha : checkArea .load (rg s a) s = .ok ()) (hs : storesPerformed 2 s = true)
    (ho : s.pl = 1 → areaPid s (rg s a).toNat = s.pid) :
    exec (.ctxld fm d a) s = runOne (fm.len 50) (fun _ => loadFrom d (rg s a).toNat s) s := by
  have hbody : (do
      let _ ← atLeast s 1
      let _ ← need s [.g a]
      let _ ← checkArea .load (rg s a) s
      let s ← settle 2 s
      let area := (rg s a).toNat
      if s.pl = 1 ∧ areaPid s area ≠ s.pid then .error (.trap (privTrap 0 s) s)
      else if s.core.lodge.isSome then .ok (wg s d 1)
      else if (areaFlags s area).getLsbD 18 then .ok (wg s d 2)
      else if (areaFlags s area).getLsbD 17 then .ok (wg s d 3)
      else loadArea d area s : Run) = loadFrom d (rg s a).toNat s := by
    rw [atLeast_bind hp, need_ok hc, ha, settle_ok hs]
    exact if_neg fun h => h.2 (ho h.1)
  exact show execCtxld fm d a s = _ by
    unfold execCtxld runOne
    dsimp only
    rw [hbody]

/-- The status of a `CTXLD` whose area's context cannot enter the lodge. -/
theorem loadArea_ok {area : Nat} {c : Ctx} (h : (if (areaFlags s area).getLsbD 19 then restoreUnsealed s s.ctx.prv area
      else restoreSealed s area) = .ok c) :
    ∃ t, loadArea d area s = .ok (wg t d 0) ∧ lodges c s t := by
  unfold loadArea
  extract_lets f r s1 _ s2
  have hr : r = .ok c := h
  rw [hr]
  refine ⟨_, rfl, ?_⟩
  have hset := sameThread_agentWrite area (bytesOfWord 8 (f ||| (1#64 <<< 17))) s
  have hcur := agentWrite_cur area (bytesOfWord 8 (f ||| (1#64 <<< 17))) s
  have hentry : ∀ u, u.cur = s.cur → u.ctx = s.ctx → lodges c s (enterBank (!f.getLsbD 19) s.cur c u) := fun u hu hx => by
    obtain ⟨hl, hctx⟩ := lodges_enterBank (!f.getLsbD 19) c u
    rw [hu] at hl hctx
    exact ⟨hl, hctx.trans hx⟩
  have h2 : s2.cur = s.cur ∧ s2.ctx = s.ctx := by
    dsimp only [s2]
    split
    · exact ⟨hcur, hset.1⟩
    · exact ⟨hcur, hset.1⟩
  exact hentry _ h2.1 h2.2

include hp in
theorem exec_ctxsp_other {c : Ctx} (h1 : s.pl = 1) (hl : s.core.lodge = some c) (hpid : c.pid ≠ s.pid) :
    exec (.ctxsp fm d a) s = privTaken 0 s := by
  have ho : ownLodged s = .error (.trap (privTrap 0 s) s) := if_pos ⟨h1, by simp [hl, hpid]⟩
  exact show execCtxsp fm d a s = _ from runOne_priv (by
    rw [atLeast_bind hp, ho]
    rfl)

/-- What `CTXSP` does with an area that it may write. -/
def spillFrom (d area : Nat) (s : State) : Run :=
  match s.core.lodge with
  | none => .ok (wg s d 1)
  | some c =>
    if !performedFor c.prv.gtid 4 s then waitIn { progress s with ctx.aux.sent := .working }
    else if c.aux.sent.outlives then waitIn { settleLodged c s with ctx.aux.sent := .working }
    else .ok (wg (spillLodged area c s) d 0)

include hp hc in
theorem exec_ctxsp_reaches (ho : ownLodged s = .ok ()) (ha : checkArea .store (rg s a) s = .ok ())
    (hs : storesPerformed 4 s = true) :
    exec (.ctxsp fm d a) s = runOne (fm.len 50) (fun _ => spillFrom d (rg s a).toNat s) s := by
  have hbody : (do
      let _ ← atLeast s 1
      let _ ← ownLodged s
      let _ ← need s [.g a]
      let _ ← checkArea .store (rg s a) s
      let s ← settle 4 s
      spillFrom d (rg s a).toNat s : Run) = spillFrom d (rg s a).toNat s := by
    rw [atLeast_bind hp, ho, need_ok hc, ha, settle_ok hs]
    rfl
  exact show execCtxsp fm d a s = _ by
    unfold execCtxsp runOne
    dsimp only
    rw [← hbody]
    rfl

end

end

/-- Settles O38. -/
theorem contextLoadAndSpill : Obligations.ContextLoadAndSpill := by
  intro fm d a s hp hc area
  refine ⟨fun c h1 hl hpid => exec_ctxsp_other hp h1 hl hpid, fun ha hs ho => ?_, fun ha hs => ?_⟩
  · have hgo := exec_ctxld_reaches (fm := fm) (d := d) hp hc ha hs ho
    refine ⟨fun hl => hgo.trans (runOne_ok (if_pos hl)), fun hl h18 => hgo.trans (runOne_ok ?_),
      fun hl h18 h17 => hgo.trans (runOne_ok ?_), fun c hl h18 h17 hr => ?_⟩
    · rw [loadFrom, if_neg (by simp [hl])]
      exact if_pos h18
    · rw [loadFrom, if_neg (by simp [hl]), if_neg (Bool.eq_false_iff.1 h18)]
      exact if_pos h17
    · obtain ⟨t, ht, ⟨c', hlodge, hregs⟩, hctx⟩ := loadArea_ok (d := d) hr
      refine ⟨t, c', hgo.trans (runOne_ok ?_), hlodge, hregs, by rw [hctx]⟩
      rw [loadFrom, if_neg (by simp [hl]), if_neg (Bool.eq_false_iff.1 h18), if_neg (Bool.eq_false_iff.1 h17)]
      exact ht
  · refine ⟨fun hl => ?_, fun c hl ho hperf hout => ?_⟩
    · have hown : ownLodged s = .ok () := if_neg (by simp [hl])
      refine (exec_ctxsp_reaches hp hc hown ha hs).trans (runOne_ok ?_)
      rw [spillFrom, hl]
    · have hown : ownLodged s = .ok () := if_neg fun h => by simp [hl, ho h.1] at h
      obtain ⟨hlodge, hctx⟩ := spillLodged_keeps area c s
      refine ⟨_, (exec_ctxsp_reaches hp hc hown ha hs).trans (runOne_ok ?_), hlodge, by rw [hctx]⟩
      rw [spillFrom, hl]
      dsimp only
      rw [if_neg (by simp [hperf]), if_neg (by simp [hout])]

end Sys2Proof.Machine

/-! PROOFS. The watch filter, `DUMP`, and the migration and compression of pages (R305 to R307, R396 to R398, R409). -/

namespace Sys2Proof.Machine

/-! ## The watch filter -/

section

variable {w b : Nat} {f g : BitVec w}

/-- A key inserted into a level of the filter (R396). -/
def insertKey (b x : Nat) (f : BitVec w) : BitVec w := (watchHash x b).foldl (fun f h => f ||| (1#w <<< h)) f

theorem getLsbD_insertKey (x j : Nat) :
    (insertKey b x f).getLsbD j = true ↔ f.getLsbD j = true ∨ (j < w ∧ j ∈ watchHash x b) := by
  unfold insertKey
  induction watchHash x b generalizing f with
  | nil => simp
  | cons h l ih =>
    rw [List.foldl_cons, ih]
    have hbit : (f ||| 1#w <<< h).getLsbD j = true ↔ f.getLsbD j = true ∨ (j < w ∧ j = h) := by
      simp only [BitVec.getLsbD_or, BitVec.getLsbD_shiftLeft, BitVec.getLsbD_one, Bool.or_eq_true, Bool.and_eq_true,
        Bool.not_eq_true', decide_eq_true_eq, decide_eq_false_iff_not]
      constructor
      · rintro (h' | ⟨⟨h1, h2⟩, h3, h4⟩)
        · exact .inl h'
        · exact .inr ⟨h1, by omega⟩
      · rintro (h' | ⟨h1, h2⟩)
        · exact .inl h'
        · exact .inr ⟨⟨h1, by omega⟩, by omega, by omega⟩
    rw [hbit, List.mem_cons]
    tauto

/-- Every mark of a level stands in another. -/
def marksKept (f g : BitVec w) : Prop := ∀ j, f.getLsbD j = true → g.getLsbD j = true

theorem present_kept (h : marksKept f g) {x : Nat} (hp : present f x b = true) : present g x b = true :=
  List.all_eq_true.2 fun j hj => h j (List.all_eq_true.1 hp j hj)

theorem marksKept_insertKey (x : Nat) : marksKept f (insertKey b x f) := fun _ h => (getLsbD_insertKey ..).2 (.inl h)

theorem watchHash_lt (x j : Nat) (hb : b ≤ 64) (h : j ∈ watchHash x b) : j < 2 ^ b := by
  obtain ⟨c, -, rfl⟩ := List.mem_map.1 h
  rw [Nat.div_lt_iff_lt_mul (Nat.two_pow_pos _), ← Nat.pow_add, Nat.add_sub_cancel' hb]
  exact Nat.mod_lt _ (Nat.two_pow_pos _)

theorem present_insertKey (x : Nat) (hb : b ≤ 64) (hw : w = 2 ^ b) : present (insertKey b x f) x b = true :=
  List.all_eq_true.2 fun j hj => (getLsbD_insertKey ..).2 (.inr ⟨hw ▸ watchHash_lt x j hb hj, hj⟩)

/-- A fold whose every step keeps a property has it at the end where the step of one element gives it. -/
theorem foldl_reaches {α β : Type} {f : β → α → β} {P : β → Prop} (keep : ∀ b a, P b → P (f b a)) {l : List α} {a : α}
    (ha : a ∈ l) (gives : ∀ b, P (f b a)) (b : β) : P (l.foldl f b) := by
  induction l generalizing b with
  | nil => cases ha
  | cons x l ih =>
    rcases List.mem_cons.1 ha with rfl | ha
    · exact l.foldlRecOn (motive := P) f (gives b) fun b hb a _ => keep b a hb
    · exact ih ha _

/-- The keys of a run inserted. -/
def insertRun (b : Nat) (r : Nat × Nat) (f : BitVec w) : BitVec w :=
  (List.range r.2).foldl (fun f i => insertKey b (r.1 + i) f) f

theorem insertRuns_eq (l : List (Nat × Nat)) : insertRuns b l f = l.foldl (fun f r => insertRun b r f) f := rfl

theorem marksKept_insertRun (r : Nat × Nat) : marksKept f (insertRun b r f) := fun j h =>
  List.foldlRecOn (motive := fun g : BitVec w => g.getLsbD j = true) _ _ h fun _ hg _ _ => marksKept_insertKey _ j hg

theorem marksKept_insertRuns (l : List (Nat × Nat)) : marksKept f (insertRuns b l f) := fun j h =>
  List.foldlRecOn (motive := fun g : BitVec w => g.getLsbD j = true) _ _ h fun _ hg _ _ => marksKept_insertRun _ j hg

/-- Each key of each run is present once the runs are inserted. -/
theorem present_insertRuns {l : List (Nat × Nat)} {r : Nat × Nat} {x : Nat} (hb : b ≤ 64) (hw : w = 2 ^ b) (hr : r ∈ l)
    (hlo : r.1 ≤ x) (hhi : x < r.1 + r.2) : present (insertRuns b l f) x b = true := by
  have hrun (g : BitVec w) : present (insertRun b r g) x b = true :=
    foldl_reaches (P := fun g : BitVec w => present g x b = true) (a := x - r.1)
      (fun _ _ h => present_kept (marksKept_insertKey _) h) (List.mem_range.2 (by omega))
      (fun g => by rw [Nat.add_sub_cancel' hlo]; exact present_insertKey x hb hw) g
  rw [insertRuns_eq]
  exact foldl_reaches (f := fun g r => insertRun b r g) (P := fun g : BitVec w => present g x b = true) (a := r)
    (fun _ _ h => present_kept (marksKept_insertRun _) h) hr hrun f

/-- An address lies in one of some ranges. -/
def inSome (va : Nat) (l : List (Nat × Nat)) : Prop := ∃ x ∈ l, x.1 ≤ va ∧ va < x.2

/-- A number lies in one of some runs, given as first and count. -/
def inRuns (n : Nat) (l : List (Nat × Nat)) : Prop := ∃ r ∈ l, r.1 ≤ n ∧ n < r.1 + r.2

theorem carveUnits_covers {u va : Nat} {seg : Nat × Nat} (hlo : seg.1 ≤ va) (hhi : va < seg.2) :
    ((carveUnits u seg).1.1 ≤ va / u ∧ va / u < (carveUnits u seg).1.1 + (carveUnits u seg).1.2) ∨
      inSome va (carveUnits u seg).2 := by
  unfold carveUnits
  extract_lets a e
  split
  · rcases Nat.lt_or_ge va (a * u) with h | ha
    · exact .inr ⟨_, List.mem_cons_self, hlo, h⟩
    rcases Nat.lt_or_ge va (e * u) with he | h
    · have hu : 0 < u := Nat.pos_of_ne_zero fun h => by simp [h] at he
      refine .inl ⟨(Nat.le_div_iff_mul_le hu).2 ha, ?_⟩
      have := (Nat.div_lt_iff_lt_mul hu).2 he
      dsimp only
      omega
    · exact .inr ⟨_, List.mem_cons_of_mem _ List.mem_cons_self, h, hhi⟩
  · exact .inr ⟨_, List.mem_cons_self, hlo, hhi⟩

/-- A level takes each address as one of its units, or leaves it to the next. -/
theorem splitLevel_covers {on : Bool} {u va : Nat} {segs : List (Nat × Nat)} (h : inSome va segs) :
    (on = true ∧ inRuns (va / u) (splitLevel on u segs).1) ∨ inSome va (splitLevel on u segs).2 := by
  obtain ⟨x, hx, hlo, hhi⟩ := h
  have hmem : x ∈ segs.filter (fun x => decide (x.1 < x.2)) := List.mem_filter.2 ⟨hx, decide_eq_true (by omega)⟩
  unfold splitLevel
  cases on
  · exact .inr ⟨x, hmem, hlo, hhi⟩
  · rcases carveUnits_covers (u := u) hlo hhi with hr | ⟨y, hy, hr⟩
    · exact .inl ⟨rfl, _, List.mem_map_of_mem hmem, hr⟩
    · exact .inr ⟨y, List.mem_flatMap.2 ⟨x, hmem, hy⟩, hr⟩

theorem granules_covers {va : Nat} {segs : List (Nat × Nat)} (h : inSome va segs) : inRuns (va / 64) (granules segs) := by
  obtain ⟨x, hx, hlo, hhi⟩ := h
  refine ⟨_, List.mem_map_of_mem (List.mem_filter.2 ⟨hx, decide_eq_true (by omega)⟩), ?_, ?_⟩ <;> dsimp only <;> omega

/-- A split covers its range, at levels that `WATCHF` enables (R397). -/
theorem splitRange_covers {watchf : Word} {lo hi va : Nat} (hlo : lo ≤ va) (hhi : va < hi) (h56 : va < 2 ^ 56) :
    (watchf.getLsbD 2 = true ∧ inRuns (va / 2 ^ 21) (splitRange watchf lo hi).regions) ∨
      (watchf.getLsbD 1 = true ∧ inRuns (va / 2 ^ 12) (splitRange watchf lo hi).pages) ∨
      inRuns (va / 2 ^ 6) (splitRange watchf lo hi).grains := by
  have h0 : inSome va [(lo, min hi (2 ^ 56))] := ⟨_, List.mem_cons_self, hlo, lt_min hhi h56⟩
  rcases splitLevel_covers (on := watchf.getLsbD 2) (u := 2 ^ 21) h0 with h | h1
  · exact .inl h
  rcases splitLevel_covers (on := watchf.getLsbD 1) (u := 4096) h1 with h | h2
  · exact .inr (.inl h)
  · exact .inr (.inr (granules_covers h2))

theorem keysOf_one (va b : Nat) : keysOf va 1 b = [va / 2 ^ b] := by
  simp [keysOf]

end

section

variable {fm : Form} {d a b : Nat} {s t : State}

theorem watched_iff (s : State) (va n : Nat) : watched s va n = true ↔ s.ctx.prv.watchf.getLsbD 0 = true ∧
    ((∃ x ∈ keysOf va n 6, present s.ctx.aux.watch.base x 12 = true) ∨
     (s.ctx.prv.watchf.getLsbD 1 = true ∧ ∃ x ∈ keysOf va n 12, present s.ctx.aux.watch.s4k x 11 = true) ∨
     (s.ctx.prv.watchf.getLsbD 2 = true ∧ ∃ x ∈ keysOf va n 21, present s.ctx.aux.watch.s2m x 11 = true)) := by
  simp only [watched, Bool.and_eq_true, Bool.or_eq_true, List.any_eq_true, or_assoc]

/-- The state with a split inserted into the filter. -/
def watching (x : Split) (s : State) : State := { s with ctx.aux.watch := insertSplit x s.ctx.aux.watch }

theorem watched_watching {x : Split} {va n : Nat} (h : watched s va n = true) : watched (watching x s) va n = true := by
  obtain ⟨hon, hkeys⟩ := (watched_iff ..).1 h
  refine (watched_iff ..).2 ⟨hon, ?_⟩
  rcases hkeys with ⟨k, hk, hp⟩ | ⟨h1, k, hk, hp⟩ | ⟨h2, k, hk, hp⟩
  · exact .inl ⟨k, hk, present_kept (marksKept_insertRuns _) hp⟩
  · exact .inr (.inl ⟨h1, k, hk, present_kept (marksKept_insertRuns _) hp⟩)
  · exact .inr (.inr ⟨h2, k, hk, present_kept (marksKept_insertRuns _) hp⟩)

theorem watched_of_split {lo hi va : Nat} (hon : s.ctx.prv.watchf.getLsbD 0 = true) (hlo : lo ≤ va) (hhi : va < hi)
    (h56 : va < 2 ^ 56) : watched (watching (splitRange s.ctx.prv.watchf lo hi) s) va 1 = true := by
  simp only [watched_iff, keysOf_one, List.mem_singleton, exists_eq_left]
  refine ⟨hon, ?_⟩
  rcases splitRange_covers (watchf := s.ctx.prv.watchf) hlo hhi h56 with
    ⟨h2, r, hr, h⟩ | ⟨h1, r, hr, h⟩ | ⟨r, hr, h⟩
  · exact .inr (.inr ⟨h2, present_insertRuns (by decide) rfl hr h.1 h.2⟩)
  · exact .inr (.inl ⟨h1, present_insertRuns (by decide) rfl hr h.1 h.2⟩)
  · exact .inl (present_insertRuns (by decide) rfl hr h.1 h.2)

theorem watched_cleared (va n : Nat) : watched { s with ctx.aux.watch := ⟨0, 0, 0⟩ } va n = false := by
  refine Bool.eq_false_iff.2 fun h => ?_
  have hnone (w x b : Nat) : present (0 : BitVec w) x b = false := by simp [present, watchHash]
  simp only [watched_iff] at h
  obtain ⟨-, ⟨k, -, hp⟩ | ⟨-, k, -, hp⟩ | ⟨-, k, -, hp⟩⟩ := h <;> rw [hnone] at hp <;> cases hp

theorem exec_wpins (hp : 1 ≤ s.pl) (hc : clean s [.g a, .g b] = true) :
    exec (.wpins fm a b) s = runOne (fm.len 50) (fun s =>
      if (splitRange s.ctx.prv.watchf (rg s a).toNat ((rg s a).toNat + (rg s b).toNat)).count > 65536 then raiseIll s
      else .ok (watching (splitRange s.ctx.prv.watchf (rg s a).toNat ((rg s a).toNat + (rg s b).toNat)) s)) s := by
  rw [show exec (.wpins fm a b) s = execWpins fm a b s from rfl]
  unfold execWpins runOne
  simp only [atLeast_bind hp, need_ok hc]
  rfl

theorem exec_wpclr (hp : 1 ≤ s.pl) :
    exec (.wpclr fm) s = retires (fm.len 50) { s with ctx.aux.watch := ⟨0, 0, 0⟩ } := by
  show execWpclr fm s = _
  unfold execWpclr
  exact runOne_ok (by rw [atLeast_bind hp])

/-! ## Dumps -/

/-- What `DUMP` does with the context in the lodge, its writes being `plan`. -/
def dumpPlanned (d : Nat) (plan : List (Word × List Byte)) (s : State) : Run := do
  let (s1, pieces, fault) ← dumpPieces plan s
  let s2 ← storePieces pieces s1
  .ok (wg (wg s2 d (BitVec.ofNat 64 (pieces.foldl (fun n p => n + p.2.length) 0))) (d + 1) (fault.getD 0))

theorem exec_dump_empty (hp : 1 ≤ s.pl) (hc : clean s [.g a, .g b] = true) (hl : s.core.lodge = none) :
    exec (.dump fm d a b) s = retires (fm.len 50) (wg (wg s d 0) (d + 1) 0) := by
  show execDump fm d a b s = _
  unfold execDump
  exact runOne_ok (by rw [atLeast_bind hp, need_ok hc, hl]; rfl)

theorem exec_dump {c : Ctx} (hp : 1 ≤ s.pl) (hc : clean s [.g a, .g b] = true) (hl : s.core.lodge = some c)
    (hown : s.pl = 1 → c.pid = s.pid)
    (h : dumpPlanned d (dumpPlan s.pl s.cyc (decide ((spillable s c).2 ≠ 0)) (rg s a) (rg s b).toNat (spillable s c).1) s =
      .ok t) : exec (.dump fm d a b) s = retires (fm.len 50) t := by
  have hno : ¬ (s.pl = 1 ∧ c.pid ≠ s.pid) := fun ⟨h1, h2⟩ => h2 (hown h1)
  show execDump fm d a b s = _
  unfold execDump
  refine runOne_ok ?_
  rw [atLeast_bind hp, need_ok hc, hl]
  exact (if_neg hno).trans h

theorem foldl_lengths (l : List (Nat × List Byte)) (n : Nat) :
    l.foldl (fun n p => n + p.2.length) n = n + (l.map (fun p => p.2.length)).sum := by
  induction l generalizing n with
  | nil => rfl
  | cons p l ih => rw [List.foldl_cons, ih, List.map_cons, List.sum_cons, Nat.add_assoc]

theorem dumpPlanned_ok {plan : List (Word × List Byte)} {s1 s2 : State} {pieces : List (Nat × List Byte)}
    {fault : Option Word} (h1 : dumpPieces plan s = .ok (s1, pieces, fault)) (h2 : storePieces pieces s1 = .ok s2) :
    dumpPlanned d plan s =
      .ok (wg (wg s2 d (BitVec.ofNat 64 (pieces.map (fun p => p.2.length)).sum)) (d + 1) (fault.getD 0)) := by
  have hsum := foldl_lengths pieces 0
  rw [Nat.zero_add] at hsum
  unfold dumpPlanned
  rw [h1, ← hsum]
  simp only [bind, Except.bind, h2]

/-- A buffer below 64 bytes takes nothing. -/
theorem dumpPlanned_small (h : s.core.sb.length < 96) : dumpPlanned d [] s = .ok (wg (wg s d 0) (d + 1) 0) := by
  have hpush : storePieces [] s = .ok s := by
    have hroom : ¬ s.core.sb.length ≥ sbCapacity := by unfold sbCapacity; omega
    simp [storePieces, pushStores, hroom, bind, Except.bind]
  have hnone : dumpPieces [] s = .ok (s, [], none) := rfl
  rw [dumpPlanned_ok hnone hpush]
  rfl

/-! ## Migration -/

theorem inFrames_iff {first n f : Nat} : inFrames first n f = true ↔ first ≤ f ∧ f < first + n := decide_eq_true_iff

/-- Pages are aligned to their size, and no larger than 2^43 bytes. -/
theorem pageOf_aligned {sp : Space} {va first n lvl : Nat} (h : pageOf s sp va = some (first, n, lvl)) :
    ∃ b k, 12 ≤ b ∧ b ≤ 43 ∧ first = k * 2 ^ (b - 12) ∧ n = 2 ^ (b - 12) := by
  unfold pageOf at h
  split at h
  next l e _ _ =>
    simp only [Option.some.injEq, Prod.mk.injEq] at h
    obtain ⟨rfl, rfl, -⟩ := h
    have hb : 12 ≤ pageBits l (e.getLsbD 61) ∧ pageBits l (e.getLsbD 61) ≤ 43 := by
      unfold pageBits
      split
      · split <;> omega
      all_goals omega
    have hpow : 2 ^ pageBits l (e.getLsbD 61) = 2 ^ (pageBits l (e.getLsbD 61) - 12) * 4096 := by
      rw [show (4096 : Nat) = 2 ^ 12 from rfl, ← Nat.pow_add, Nat.sub_add_cancel hb.1]
    refine ⟨pageBits l (e.getLsbD 61), pteAddr e / 2 ^ pageBits l (e.getLsbD 61), hb.1, hb.2, ?_, ?_⟩
    · rw [hpow, ← Nat.mul_assoc, Nat.mul_div_cancel _ (by decide)]
    · rw [hpow, Nat.mul_div_cancel _ (by decide)]
  · cases h

/-- The frames of a page lie in the memory of one package. -/
theorem originOf_page {sp : Space} {va first n lvl i : Nat} (h : pageOf s sp va = some (first, n, lvl)) (hi : i < n) :
    originOf ((first + i) * 4096) = originOf (first * 4096) := by
  obtain ⟨b, k, hlo, hhi, rfl, rfl⟩ := pageOf_aligned h
  have h44 : 2 ^ 44 = 4096 * (2 ^ (b - 12) * 2 ^ (44 - b)) := by
    rw [← Nat.pow_add, show (4096 : Nat) = 2 ^ 12 from rfl, ← Nat.pow_add]
    congr 1
    omega
  have hdiv (x : Nat) (hx : x / 2 ^ (b - 12) = k) : originOf (x * 4096) = k / 2 ^ (44 - b) := by
    rw [originOf, h44, ← Nat.div_div_eq_div_mul, Nat.mul_div_cancel _ (by decide), ← Nat.div_div_eq_div_mul, hx]
  have hpos : 0 < 2 ^ (b - 12) := Nat.two_pow_pos _
  rw [hdiv, hdiv]
  · exact Nat.mul_div_cancel _ hpos
  · rw [Nat.mul_comm, Nat.mul_add_div hpos, Nat.div_eq_of_lt hi, Nat.add_zero]

/-- The frames of a page that changes hands have the new owner (R250). -/
theorem ownerOf_handOver {first n q i : Nat} (hi : i < n)
    (horigin : originOf ((first + i) * 4096) = originOf (first * 4096)) :
    ownerOf (handOver first n q s) ((first + i) * 4096) = q := by
  have hframe : frameOf ((first + i) * 4096) = first + i := Nat.mul_div_cancel _ (by decide)
  have hkept (l : List (Nat × Nat)) : (l.filter (fun e => !inFrames first n e.1)).find? (fun e => e.1 = first + i) = none :=
    List.find?_eq_none.2 fun e he => by
      have hout := (List.mem_filter.1 he).2
      rw [Bool.not_eq_true'] at hout
      simp only [decide_eq_true_eq]
      rintro heq
      rw [heq, inFrames, decide_eq_false_iff_not] at hout
      omega
  simp only [ownerOf, handOver, hframe]
  split
  next ho => rw [List.nil_append, hkept, Option.map_none, Option.getD_none, horigin]; exact ho
  next =>
    have hfind : ((List.range n).map (fun i => (first + i, q))).find? (fun e => e.1 = first + i) = some (first + i, q) := by
      rw [List.find?_map]
      have : (List.range n).find? ((fun e : Nat × Nat => decide (e.1 = first + i)) ∘ fun i => (first + i, q)) = some i := by
        rw [List.find?_range_eq_some]
        refine ⟨by simp, List.mem_range.2 hi, fun j hj => ?_⟩
        simp only [Function.comp_apply, Bool.not_eq_true', decide_eq_false_iff_not]
        omega
      rw [this]
      rfl
    rw [List.find?_append, hfind]
    rfl

theorem handOver_copies {first n q : Nat} : ∀ x ∈ (handOver first n q s).coh.copies, inFrames first n (lineFrame x.line) = false :=
  fun _ hx => by simpa using (List.mem_filter.1 hx).2

/-- A page that may not move: heap and save areas, and devices (R307). -/
def staysPut (first n pa : Nat) (s : State) : Bool :=
  meetsHeap s (first * 4096) ((first + n) * 4096) || meetsArea s (first * 4096) ((first + n) * 4096) ||
    decide (hbmEnd ≤ offsetOf pa)

theorem migrate_heap {q va pa : Nat} (h : heapAddr s.ctx.space va = true) : migrate q va pa s = (3, s) := by
  unfold migrate
  split
  · rfl
  · rw [h]
    exact if_pos rfl

/-- A page moves to a package that has room for it (R307). -/
def moveTo (first n q : Nat) (s : State) : Nat × State :=
  match roomAt q n s with
  | none => (2, s)
  | some s1 => (0, handOver first n q s1)

/-- `PGMIG`'s answer for a page outside the heap, its conditions in order. -/
theorem migrate_page {q va pa first n lvl : Nat} (hpage : pageOf s s.ctx.space va = some (first, n, lvl))
    (hheap : heapAddr s.ctx.space va = false) : migrate q va pa s =
      if staysPut first n pa s = true then (3, s)
      else if s.xlat.handOvers.any (fun e => inFrames first n e.1) then (4, s)
      else if (List.range n).all (fun i => decide (ownerOf s ((first + i) * 4096) = q)) then (1, s)
      else moveTo first n q s := by
  unfold migrate staysPut
  rw [hpage]
  dsimp only
  rw [hheap, Bool.false_or]
  rfl

theorem exec_pgmig {s1 : State} {ph : Phys} (hp : 1 ≤ s.pl) (hc : clean s [.g a, .g b] = true)
    (hq : bits (rg s b) 8 56 = 0) (ht : translate .load (rg s a) 1 s = .ok (s1, ph)) :
    exec (.pgmig fm d a b) s = retires (fm.len 50) (wg (migrate (bits (rg s b) 0 8) (rg s a).toNat ph.pa s1).2 d
      (BitVec.ofNat 64 (migrate (bits (rg s b) 0 8) (rg s a).toNat ph.pa s1).1)) := by
  have hreg (n : Nat) : rg s1 n = rg s n := by unfold rg; rw [(translate_ctx ht).1]
  show execPgmig fm d a b s = _
  unfold execPgmig
  refine runOne_ok ?_
  rw [atLeast_bind hp, need_ok hc]
  simp only [bind, Except.bind, hq, ne_eq, not_true_eq_false, if_false, ht, hreg]

/-! ## What goes on around a thread leaves residence as it is -/

theorem xlat_foldl {α : Type} {f : State → α → State} (hf : ∀ t x, (f t x).xlat = t.xlat) (l : List α) (s : State) :
    (l.foldl f s).xlat = s.xlat :=
  List.foldlRecOn (motive := fun t : State => t.xlat = s.xlat) _ _ rfl fun t ht x _ => (hf t x).trans ht

theorem xlat_setCore (n : Nat) (c : CoreSt) (s : State) : (setCore s n c).xlat = s.xlat := by
  unfold setCore
  split <;> rfl

theorem xlat_setActive (n : Nat) (c : Ctx) (s : State) : (setActive s n c).xlat = s.xlat := by
  unfold setActive
  split
  · rfl
  · exact xlat_setCore ..

theorem xlat_onContext (g : Word) (f : Ctx → Ctx) (s : State) : (onContext g f s).xlat = s.xlat := by
  refine xlat_foldl (fun t n => ?_) coreNumbers s
  extract_lets s1
  have h1 : s1.xlat = t.xlat := by
    unfold s1
    repeat' split
    · exact xlat_setActive ..
    all_goals rfl
  repeat' split
  · exact (xlat_setCore ..).trans h1
  all_goals exact h1

theorem xlat_answerAtomic (g : Word) (x : Sent) (s : State) : (answerAtomic g x s).xlat = s.xlat := by
  unfold answerAtomic
  split
  · rfl
  · exact xlat_onContext ..

theorem xlat_storeWrite (g : Word) (pa : Nat) (d : List Byte) (m : Byte) (p f : Bool) (s : State) :
    (storeWrite g pa d m p f s).xlat = s.xlat := by
  unfold storeWrite
  extract_lets t old
  split <;> rfl

theorem xlat_amoAt (g : Word) (op : AmoOp) (pa n : Nat) (src cmp : Word) (s : State) :
    (amoAt g op pa n src cmp s).1.xlat = s.xlat := by
  unfold amoAt
  extract_lets old
  split
  · rfl
  · exact xlat_storeWrite ..

theorem xlat_applyRemote (g : Word) (rq : RemoteReq) (p f : Bool) (s : State) :
    (applyRemote g rq p f s).xlat = s.xlat := by
  unfold applyRemote
  split
  case h_4 => exact xlat_storeWrite ..
  case h_5 =>
    split
    · rfl
    · exact xlat_amoAt ..
  case h_6 => exact xlat_storeWrite ..
  all_goals rfl

theorem xlat_answerRemote (g : Word) (rq : RemoteReq) (u s : State) : (answerRemote g rq u s).xlat = s.xlat := by
  unfold answerRemote
  repeat' split
  · exact xlat_answerAtomic ..
  · exact xlat_answerAtomic ..
  · rfl

theorem xlat_applyMsg (src dst seq : Nat) (s : State) : (applyMsg src dst seq s).xlat = s.xlat := by
  unfold applyMsg
  split
  · rfl
  split
  · rfl
  extract_lets s1 s2 f
  have h1 : s1.xlat = s.xlat := xlat_applyRemote ..
  show s2.xlat = s.xlat
  unfold s2
  split
  · exact h1
  · exact (xlat_answerRemote ..).trans h1

theorem xlat_passMsg (s : State) (m : Msg) : (passMsg s m).xlat = s.xlat := by
  unfold passMsg
  split
  · exact xlat_applyMsg ..
  · rfl

theorem xlat_applyWt (die line : Nat) (s : State) : (applyWt die line s).xlat = s.xlat := by
  unfold applyWt
  split
  · rfl
  extract_lets i s1
  split
  · unfold dropStale
    extract_lets pa dd s2
    split <;> rfl
  · exact xlat_storeWrite ..

theorem xlat_ackWt (die line : Nat) (s : State) : (ackWt die line s).xlat = s.xlat := by
  unfold ackWt
  split <;> rfl

theorem xlat_loseStore (die : Nat) (g : Word) (pid pa : Nat) (s : State) : (loseStore die g pid pa s).xlat = s.xlat := by
  unfold loseStore
  split
  · exact xlat_onContext ..
  · split <;> rfl

theorem xlat_sendStore (cmd : Option Nat) (e : SbEntry) (s : State) : (sendStore cmd e s).xlat = s.xlat := by
  unfold sendStore
  split
  · rfl
  · exact xlat_foldl (f := fun s (p : Nat × List Byte) => sendMsgFor none cmd (ownerOf s e.pa) e.gtid e.pid
      (.write p.1 p.2.length (BitVec.ofNat 64 (natOfBytes p.2))) e.poison
      (decide (e.data.length = 128 ∧ p.1 + p.2.length = e.pa + 128)) s) (fun _ _ => rfl) _ _

theorem xlat_performStore (core : Nat) (e : SbEntry) (s : State) : (performStore core e s).xlat = s.xlat := by
  unfold performStore performStoreBy
  extract_lets die line full s1 c1
  split
  · exact xlat_loseStore ..
  split
  · exact xlat_sendStore ..
  split
  · rfl
  split
  · exact xlat_storeWrite ..
  · rfl

theorem xlat_drainHead (core : Nat) (s : State) : (drainHead core s).xlat = s.xlat := by
  unfold drainHead
  split
  · rfl
  split
  · rfl
  · exact (xlat_performStore ..).trans (xlat_setCore ..)

theorem xlat_serveAtomicAt (i : Nat) (s : State) : (serveAtomicAt i s).xlat = s.xlat := by
  unfold serveAtomicAt
  split
  · rfl
  next q _ =>
    extract_lets s1 s2
    have h2 : s2.xlat = s.xlat := xlat_foldl (fun t _ => xlat_applyWt _ _ t) _ _
    clear_value s2
    split
    · exact (xlat_answerAtomic ..).trans h2
    · exact (xlat_answerAtomic ..).trans ((xlat_amoAt ..).trans h2)

/-- That everything under way is performed changes nothing of where pages stand (R319). -/
theorem xlat_quiesce (s : State) : (quiesce s).xlat = s.xlat := by
  have hwts (t : State) : (settleWts t).xlat = t.xlat :=
    xlat_foldl (f := fun s (w : WriteThrough) => ackWt w.die w.line (applyWt w.die w.line s))
      (fun u w => (xlat_ackWt ..).trans (xlat_applyWt w.die w.line u)) _ _
  have hmsgs (t : State) : (settleMsgs t).xlat = t.xlat := xlat_foldl xlat_passMsg _ _
  have hatomics (t : State) : (settleAtomics t).xlat = t.xlat :=
    xlat_foldl (f := fun s _ => serveAtomicAt 0 s) (fun u _ => xlat_serveAtomicAt 0 u) _ _
  have hdrain (n : Nat) (t : State) : (drainAll n t).xlat = t.xlat :=
    xlat_foldl (f := fun s _ => drainHead n s) (fun u _ => xlat_drainHead n u) _ _
  unfold quiesce
  rw [hatomics, hmsgs, hwts]
  exact xlat_foldl (f := fun s n => drainAll n s) (fun t n => hdrain n t) _ s

/-! ## Compression -/

/-- What `PGCMP` reads of a page, once nothing is under way: its bytes. -/
def pageData (e : Word) (s : State) : List Byte :=
  memReadN (quiesce s).mem (pteAddr e / zippedBytes e * zippedBytes e) (zippedBytes e)

/-- The state in which no translation of the page is left. -/
def untranslated (va : Nat) (s : State) : State :=
  emptyNotPresent (dropEntries ⟨0, BitVec.ofNat 64 va, s.ctx.space.asid, s.pid, 0⟩ (quiesce s))

theorem everyCore_keeps (f : CoreSt → CoreSt) (s : State) :
    (everyCore f s).xlat = s.xlat ∧ (everyCore f s).mem = s.mem ∧ (everyCore f s).core = f s.core := ⟨rfl, rfl, rfl⟩

theorem xlat_untranslated (va : Nat) (s : State) : (untranslated va s).xlat = s.xlat := by
  unfold untranslated emptyNotPresent dropEntries
  rw [(everyCore_keeps ..).1, (everyCore_keeps ..).1, xlat_quiesce]

theorem mem_untranslated (va : Nat) (s : State) : (untranslated va s).mem = (quiesce s).mem := by
  unfold untranslated emptyNotPresent dropEntries
  rw [(everyCore_keeps ..).2.1, (everyCore_keeps ..).2.1]

theorem untranslated_tlb {va : Nat} (h : va < 2 ^ 64) :
    ∀ x ∈ (untranslated va s).core.tlb, x.hits s.ctx.space va = false := by
  have hva : (BitVec.ofNat 64 va).toNat = va := by rw [BitVec.toNat_ofNat, Nat.mod_eq_of_lt h]
  unfold untranslated emptyNotPresent dropEntries
  rw [(everyCore_keeps ..).2.2, (everyCore_keeps ..).2.2]
  intro x hx
  have htake := (List.mem_filter.1 hx).2
  refine Bool.eq_false_iff.2 fun hhit => ?_
  simp only [TlbEntry.hits, decide_eq_true_eq] at hhit
  simp only [TlbRemoval.takes, hva, Bool.not_eq_true', decide_eq_false_iff_not] at htake
  exact htake hhit

/-- The zone takes a page: its leaf names the place, and its bytes stand there (R96). -/
def zipInto (e : Word) (p : Nat) (data : List Byte) (bad : List Nat) (s : State) : State :=
  let h := freshHandle s
  let s2 := (pageEntries e p).foldl (fun s a =>
    homeWrite a (bytesOfWord 8 (zipLeaf h (readPte s a))) 0xFF false false s) s
  moveDonews { s2 with xlat.zipped := s2.xlat.zipped ++ [⟨h, data, bad⟩] }

/-- The poisoned lines of a page. -/
def poisonedIn (e : Word) (s : State) : List Nat :=
  (List.range (zippedBytes e / 128)).filter
    (fun i => linePoisoned s (lineOf (pteAddr e / zippedBytes e * zippedBytes e) + i))

theorem compress_eq (va lvl p : Nat) (e : Word) (s : State) : compress va lvl e p s =
    if zipRefused lvl e s = true then (3, s)
    else if Config.compressible (pageData e s) = false then (1, untranslated va s)
    else if zoneSize s < zoneUsed s + Config.zippedSize (pageData e s) then (2, untranslated va s)
    else (0, zipInto e p (pageData e s) (poisonedIn e (untranslated va s)) (untranslated va s)) := by
  have hzone : zoneSize (untranslated va s) = zoneSize s ∧ zoneUsed (untranslated va s) = zoneUsed s := by
    unfold zoneUsed zoneSize
    rw [xlat_untranslated]
    exact ⟨rfl, rfl⟩
  unfold compress
  extract_lets n frame s1 data h s2 bad
  refine if_congr Iff.rfl rfl ?_
  have h1 : s1 = untranslated va s := rfl
  have hdata : data = pageData e s := by
    unfold data pageData
    rw [h1, mem_untranslated]
  rw [h1, hzone.1, hzone.2, ← hdata]
  simp only [Bool.not_eq_true']
  rfl

theorem core_foldl_homeWrite (w : State → Nat → List Byte) (l : List Nat) (s : State) :
    (l.foldl (fun s a => homeWrite a (w s a) 0xFF false false s) s).core = s.core :=
  List.foldlRecOn (motive := fun t : State => t.core = s.core) _ _ rfl fun _ ht _ _ => ht

/-- A page that is compressed leaves its bytes in the zone (R96, R307). -/
theorem zipInto_keeps (e : Word) (p : Nat) (data : List Byte) (bad : List Nat) (s : State) :
    (zipInto e p data bad s).core = s.core ∧
      (zipInto e p data bad s).xlat.zipped = s.xlat.zipped ++ [⟨freshHandle s, data, bad⟩] := by
  unfold zipInto
  extract_lets h s2
  have hcore : s2.core = s.core := core_foldl_homeWrite _ _ _
  have hxlat : s2.xlat = s.xlat := xlat_foldl_homeWrite _ _ _
  clear_value s2
  rw [← hcore, ← hxlat]
  exact ⟨rfl, rfl⟩

/-! ## `PGCMP` -/

/-- What `PGCMP` does with a leaf, once the thread's stores are performed. -/
def compressLeaf (d lvl p : Nat) (e va : Word) (s : State) : Run := do
  let s ← if zipRefused lvl e s || quiet (quiesce s) then .ok s else waitIn (progress (quiesce s))
  .ok (wg (compress va.toNat lvl e p s).2 d (BitVec.ofNat 64 (compress va.toNat lvl e p s).1))

theorem compressLeaf_ok {lvl p : Nat} {e va : Word} (h : zipRefused lvl e s = true ∨ quiet (quiesce s) = true) :
    compressLeaf d lvl p e va s =
      .ok (wg (compress va.toNat lvl e p s).2 d (BitVec.ofNat 64 (compress va.toNat lvl e p s).1)) := by
  unfold compressLeaf
  rw [if_pos (by simpa using h)]
  rfl

section

variable (hp : 1 ≤ s.pl) (hc : clean s [.g a] = true) (hva : (rg s a).toNat < 2 ^ 56)
include hp hc hva

theorem exec_pgcmp_heap (hheap : heapAddr s.ctx.space (rg s a).toNat = true) :
    exec (.pgcmp fm d a) s = retires (fm.len 50) (wg s d 3) := by
  show execPgcmp fm d a s = _
  unfold execPgcmp
  refine runOne_ok ?_
  rw [atLeast_bind hp, need_ok hc]
  exact (if_neg (Nat.not_le.2 hva)).trans (if_pos hheap)

variable (hheap : heapAddr s.ctx.space (rg s a).toNat = false)
include hheap

theorem exec_pgcmp_compressed {lvl p : Nat} {e : Word} (hw : walk s s.ctx.space (rg s a).toNat = .compressed lvl e p) :
    exec (.pgcmp fm d a) s = retires (fm.len 50) (wg s d 4) := by
  show execPgcmp fm d a s = _
  unfold execPgcmp
  refine runOne_ok ?_
  rw [atLeast_bind hp, need_ok hc]
  refine (if_neg (Nat.not_le.2 hva)).trans ((if_neg (by simp [hheap])).trans ?_)
  rw [hw]

theorem exec_pgcmp_leaf {lvl p : Nat} {e : Word} (hw : walk s s.ctx.space (rg s a).toNat = .leaf lvl e p)
    (h4 : step4 s s.ctx.space (leafPhys lvl e (rg s a).toNat) 1 = true) (hs : storesPerformed 2 s = true)
    (h : zipRefused lvl e s = true ∨ quiet (quiesce s) = true) :
    exec (.pgcmp fm d a) s = retires (fm.len 50) (wg (compress (rg s a).toNat lvl e p s).2 d
      (BitVec.ofNat 64 (compress (rg s a).toNat lvl e p s).1)) := by
  show execPgcmp fm d a s = _
  unfold execPgcmp
  refine runOne_ok ?_
  rw [atLeast_bind hp, need_ok hc]
  refine (if_neg (Nat.not_le.2 hva)).trans ((if_neg (by simp [hheap])).trans ?_)
  rw [hw]
  refine (if_neg (by simp [h4])).trans ?_
  rw [settle_ok hs]
  exact compressLeaf_ok h

end

end

/-- Settles O39: the filter by `present_insertRuns` and `splitRange_covers`, a dump by `dumpPlanned_ok`, migration by the
conditions of `migrate_page` and `ownerOf_handOver`, compression by those of `compress_eq`, nothing of residence changing
while what is under way is performed (`xlat_quiesce`). -/
theorem watchAndPageResults : Obligations.WatchAndPageResults := by
  unfold Obligations.WatchAndPageResults
  intro fm d a b s hp
  refine ⟨fun hc => ⟨fun hcount => ?_, fun hcount => ?_⟩, ?_, fun hc => ⟨?_, ?_, ?_⟩, fun hc hq s1 ph ht => ?_,
    fun hc hva => ⟨?_, ?_⟩⟩
  · refine ⟨_, (exec_wpins hp hc).trans (runOne_ok (if_neg (Nat.not_lt.2 hcount))), rfl, rfl,
      fun va n h => watched_watching h, fun hon va hlo hhi h56 => watched_of_split hon hlo hhi h56⟩
  · exact (exec_wpins hp hc).trans (runOne_trap (if_pos hcount))
  · exact ⟨_, exec_wpclr hp, rfl, rfl, watched_cleared⟩
  · exact exec_dump_empty hp hc
  · intro c hl hown hn hroom
    refine exec_dump hp hc hl hown ?_
    have hplan (pl cyc : Nat) (lost : Bool) (va : Word) (x : Ctx) : dumpPlan pl cyc lost va (rg s b).toNat x = [] := by
      unfold dumpPlan
      extract_lets body required
      exact if_pos hn
    rw [hplan]
    exact dumpPlanned_small hroom
  · intro c s1 s2 pieces fault hl hown h1 h2
    exact exec_dump hp hc hl hown (dumpPlanned_ok h1 h2)
  · refine ⟨_, _, exec_pgmig hp hc hq ht, fun hheap => ?_, fun first n lvl hpage hheap => ?_⟩
    · rw [migrate_heap hheap]
      exact ⟨rfl, rfl⟩
    intro fixed moving there
    have hanswer : migrate (bits (rg s b) 0 8) (rg s a).toNat ph.pa s1 =
        if fixed = true then (3, s1) else if moving = true then (4, s1) else if there = true then (1, s1)
        else moveTo first n (bits (rg s b) 0 8) s1 := migrate_page hpage hheap
    clear_value fixed moving there
    rw [hanswer]
    refine ⟨fun hf => ?_, fun hf hm => ?_, fun hf hm hthere => ?_, fun hf hm hthere hroom => ?_,
      fun s2 hf hm hthere hroom => ?_⟩
    · rw [hf]
      exact ⟨rfl, rfl⟩
    · rw [hf, hm]
      exact ⟨rfl, rfl⟩
    · rw [hf, hm, hthere]
      exact ⟨rfl, rfl⟩
    · rw [hf, hm, hthere, moveTo, hroom]
      exact ⟨rfl, rfl⟩
    · rw [hf, hm, hthere, moveTo, hroom]
      exact ⟨rfl, fun i hi => ownerOf_handOver hi (originOf_page hpage hi), handOver_copies⟩
  · exact exec_pgcmp_heap hp hc hva
  · intro hheap lvl e p
    refine ⟨exec_pgcmp_compressed hp hc hva hheap, fun hw h4 hs => ?_⟩
    intro n frame fixed data full
    refine ⟨fun hf => ?_, fun hf hquiet => ?_⟩
    · have hrefused : zipRefused lvl e s = true := hf
      rw [exec_pgcmp_leaf hp hc hva hheap hw h4 hs (.inl hrefused), compress_eq, if_pos hrefused]
      rfl
    · have hrefused : ¬ zipRefused lvl e s = true := Bool.eq_false_iff.1 hf
      have htlb := untranslated_tlb (s := s) (va := (rg s a).toNat) (rg s a).isLt
      have hdata : data = pageData e s := rfl
      have hzipped (va : Nat) : (untranslated va s).xlat.zipped = s.xlat.zipped := by rw [xlat_untranslated]
      refine ⟨_, _, exec_pgcmp_leaf hp hc hva hheap hw h4 hs (.inr hquiet), ?_⟩
      rw [compress_eq, if_neg hrefused, ← hdata]
      by_cases hcomp : Config.compressible data = false
      · rw [if_pos hcomp]
        exact ⟨htlb, fun _ => ⟨rfl, hzipped _⟩, fun h => absurd (hcomp.symm.trans h) (by decide),
          fun h => absurd (hcomp.symm.trans h) (by decide)⟩
      rw [if_neg hcomp]
      by_cases hfull : zoneSize s < zoneUsed s + Config.zippedSize data
      · rw [if_pos hfull]
        exact ⟨htlb, fun h => absurd h hcomp, fun _ _ => ⟨rfl, hzipped _⟩,
          fun _ h => absurd hfull (of_decide_eq_false h)⟩
      rw [if_neg hfull]
      obtain ⟨hcore, hzip⟩ := zipInto_keeps e p data (poisonedIn e (untranslated (rg s a).toNat s))
        (untranslated (rg s a).toNat s)
      rw [hzipped] at hzip
      exact ⟨hcore ▸ htlb, fun h => absurd h hcomp, fun _ h => absurd (of_decide_eq_true h) hfull,
        fun _ _ => ⟨rfl, _, hzip, rfl⟩⟩

end Sys2Proof.Machine

/-! PROOFS. Translation, walks and the TLB (R297, R298, R309 to R319). -/

namespace Sys2Proof.Machine

section

variable {sp : Space} {k : AccKind} {va : Word} {n : Nat} {s t : State}

/-! ## Entries at their home -/

theorem natOfBytes_bytesOfNat (n v : Nat) : natOfBytes (bytesOfNat n v) = v % 256 ^ n := by
  induction n generalizing v with
  | zero => simp [natOfBytes, bytesOfNat, Nat.mod_one]
  | succ n ih =>
    calc natOfBytes (bytesOfNat (n + 1) v) = v % 256 + 256 * (v / 256 % 256 ^ n) := by
          rw [bytesOfNat, natOfBytes, ih, BitVec.toNat_ofNat]
      _ = v % (256 * 256 ^ n) := (Nat.mod_mul ..).symm
      _ = v % 256 ^ (n + 1) := by rw [Nat.pow_succ']

theorem ofNat_natOfBytes_bytesOfWord (w : Word) : BitVec.ofNat 64 (natOfBytes (bytesOfWord 8 w)) = w := by
  rw [bytesOfWord, natOfBytes_bytesOfNat, Nat.mod_eq_of_lt (by simpa using w.isLt), BitVec.ofNat_toNat]
  exact BitVec.setWidth_eq w

/-- ORing bits into an entry changes the entry so, and no other byte (R316). -/
theorem orEntry_writes {a : Nat} {on : Word} (h : s.memOk) : readPte (orEntry a on s) a = readPte s a ||| on ∧
    ∀ x, x < a ∨ a + 8 ≤ x → memRead (orEntry a on s).mem x = memRead s.mem x := by
  have hmem : (orEntry a on s).mem = memWriteMasked 0xFF s.mem a (bytesOfWord 8 (readPte s a ||| on)) := rfl
  have hlen : (bytesOfWord 8 (readPte s a ||| on)).length = 8 := bytesOfWord_length ..
  constructor
  · have hread := memReadN_memWriteMasked_full (bytesOfWord 8 (readPte s a ||| on)) s.mem a h
    rw [hlen] at hread
    rw [readPte, hmem, hread, ofNat_natOfBytes_bytesOfWord]
  · intro x hx
    rw [hmem]
    exact memRead_masked_other _ _ _ _ _ (by rwa [hlen])

/-! ## What a walk's result becomes -/

theorem walkFor_stop {lvl r : Nat} (fuel : Nat) (h : walk s sp va.toNat = .stop lvl r) :
    walkFor sp k va n (fuel + 1) s = raisePage k lvl r va (if r = 1 then
      { s with core.notPresent := ⟨sp.pid, sp.asid, lvl, va.toNat / 2 ^ pageBits lvl false⟩ :: s.core.notPresent }
      else s) := by
  rw [walkFor, h]

theorem walkFor_poison (fuel : Nat) (h : walk s sp va.toNat = .poison) :
    walkFor sp k va n (fuel + 1) s = raiseAccess 0x0E 2 0 s := by
  rw [walkFor, h]

/-- A compressed page that cannot be expanded here (R326). -/
theorem walkFor_compressed {lvl a : Nat} {e : Word} (fuel : Nat) (h : walk s sp va.toNat = .compressed lvl e a)
    (hno : s.modes.getLsbD 1 = true ∨ expandPage e a s = none) :
    walkFor sp k va n (fuel + 1) s = raisePage k lvl 5 va s := by
  rw [walkFor, h]
  dsimp only
  split
  · rfl
  next hmode => rw [hno.resolve_left hmode]

section
variable {lvl a : Nat} {e : Word} (fuel : Nat) (h : walk s sp va.toNat = .leaf lvl e a)
include h

theorem walkFor_forbidden (hp : permits sp k e = false) :
    walkFor sp k va n (fuel + 1) s = raisePage k lvl 2 va s := by
  rw [walkFor, h]
  dsimp only
  rw [hp]
  rfl

theorem walkFor_permitted (hp : permits sp k e = true) :
    walkFor sp k va n (fuel + 1) s = useLeaf sp k va n lvl e a s := by
  rw [walkFor, h]
  dsimp only
  rw [hp]
  rfl

end

/-- A and D, where an access needs them and an entry has them not (R316). -/
def marksFor (writes : Bool) (e : Word) : Word :=
  (if e.getLsbD 6 then 0 else 0x40) ||| (if writes && !e.getLsbD 7 then 0x80 else 0)

theorem useLeaf_step4 {lvl a : Nat} {e : Word} (h : step4 s sp (leafPhys lvl e va.toNat) n = false) :
    useLeaf sp k va n lvl e a s = raisePage k lvl 4 va s := by
  have hno : (!step4 s sp (leafPhys lvl e va.toNat) n) = true := by rw [h]; rfl
  unfold useLeaf
  exact if_pos hno

/-- The state in which a leaf has been marked and stands in the core's TLB. -/
def installed (sp : Space) (va lvl : Nat) (e : Word) (a : Nat) (on : Word) (s : State) : State :=
  installTlb sp va lvl (e ||| on) a (if on = 0 then s else orEntry a on s)

theorem useLeaf_ok {lvl a : Nat} {e : Word} (h : step4 s sp (leafPhys lvl e va.toNat) n = true) :
    useLeaf sp k va n lvl e a s =
      .ok (installed sp va.toNat lvl e a (marksFor k.writes e) s, ⟨leafPhys lvl e va.toNat, decide (bits e 8 2 = 1)⟩) := by
  have hno : ¬ (!step4 s sp (leafPhys lvl e va.toNat) n) = true := by rw [h]; decide
  unfold useLeaf
  exact if_neg hno

theorem installed_ctx (sp : Space) (va lvl : Nat) (e : Word) (a : Nat) (on : Word) (s : State) :
    (installed sp va lvl e a on s).ctx = s.ctx ∧ (installed sp va lvl e a on s).core.sb = s.core.sb := by
  unfold installed
  split <;> exact ⟨rfl, rfl⟩

theorem installed_tlb {va lvl a : Nat} {e on : Word} (hon : on.getLsbD 61 = false) :
    (installed sp va lvl e a on s).core.tlb.find? (fun x => x.hits sp va) =
      some ⟨sp.pid, sp.asid, lvl, e.getLsbD 61, va / 2 ^ pageBits lvl (e.getLsbD 61) * 2 ^ pageBits lvl (e.getLsbD 61),
        e ||| on, a⟩ := by
  have hg : (e ||| on).getLsbD 61 = e.getLsbD 61 := by rw [BitVec.getLsbD_or, hon, Bool.or_false]
  unfold installed installTlb
  extract_lets g b
  rw [List.find?_cons_of_pos]
  · unfold b g
    rw [hg]
  · simp [TlbEntry.hits, b]

theorem installed_writes {va lvl a : Nat} {e on : Word} :
    (on = 0 → (installed sp va lvl e a on s).mem = s.mem) ∧
    (s.memOk → readPte (installed sp va lvl e a on s) a = readPte s a ||| on ∧
      ∀ x, x < a ∨ a + 8 ≤ x → memRead (installed sp va lvl e a on s).mem x = memRead s.mem x) := by
  have hmem (u : State) (v : Word) : (installTlb sp va lvl v a u).mem = u.mem := rfl
  have hread (u : State) (v : Word) : readPte (installTlb sp va lvl v a u) a = readPte u a := rfl
  unfold installed
  by_cases h : on = 0
  · subst h
    rw [if_pos rfl, hread, hmem]
    exact ⟨fun _ => rfl, fun _ => ⟨(BitVec.or_zero).symm, fun _ _ => rfl⟩⟩
  · rw [if_neg h, hread, hmem]
    exact ⟨fun h' => absurd h' h, orEntry_writes⟩

theorem marksFor_61 (w : Bool) (e : Word) : (marksFor w e).getLsbD 61 = false := by
  unfold marksFor
  rw [BitVec.getLsbD_or]
  split <;> split <;> rfl

/-! ## Through the TLB -/

theorem translate_table (h56 : va.toNat < 2 ^ 56)
    (hheap : ¬ (s.ctx.space.hbase ≤ va.toNat ∧ va.toNat < s.ctx.space.hlimit)) :
    translate k va n s = tableTranslate s.ctx.space k va n s := by
  unfold translate translateIn
  rw [if_neg (Nat.not_le.2 h56), if_neg hheap]

theorem translate_heap (h56 : va.toNat < 2 ^ 56)
    (hheap : s.ctx.space.hbase ≤ va.toNat ∧ va.toNat < s.ctx.space.hlimit) :
    translate k va n s = heapTranslate s.ctx.space k va n s := by
  unfold translate translateIn
  rw [if_neg (Nat.not_le.2 h56), if_pos hheap]

/-- What the heap triple answers (R311). -/
theorem heapTranslate_eq : heapTranslate sp k va n s =
    if k = .fetch then raisePage k 0 2 va s
    else if step4 s sp ((va.toNat + sp.hoffs) % 2 ^ 52) n = false then raisePage k 0 4 va s
    else if decide (originOf ((va.toNat + sp.hoffs) % 2 ^ 52) = s.pkg ∧ offsetOf ((va.toNat + sp.hoffs) % 2 ^ 52) < hbmEnd ∧
      ownerOf s ((va.toNat + sp.hoffs) % 2 ^ 52) = s.pkg) = false then raisePage k 0 8 va s
    else .ok (s, ⟨(va.toNat + sp.hoffs) % 2 ^ 52, false⟩) := by
  unfold heapTranslate
  dsimp only
  generalize (va.toNat + sp.hoffs) % 2 ^ 52 = pa
  refine if_congr Iff.rfl rfl (if_congr (by simp) rfl (if_congr ?_ rfl rfl))
  simp only [decide_eq_false_iff_not, not_and_or, not_lt, ne_eq, ge_iff_le]

/-- A translation that the TLB does not give: a not-present result that is remembered, or a walk (R318). -/
def beyondTlb (sp : Space) (k : AccKind) (va : Word) (n : Nat) (s : State) : RunV Phys :=
  match s.core.notPresent.find? (fun t => t.hits sp va.toNat) with
  | some t => raisePage k t.level 1 va s
  | none => walkFor sp k va n 2 s

/-- The state in which the core's TLB holds no entry for an address. -/
def tlbDropped (sp : Space) (va : Nat) (s : State) : State :=
  { s with core.tlb := s.core.tlb.filter (fun x => ¬ x.hits sp va) }

theorem tableTranslate_miss (h : s.core.tlb.find? (fun x => x.hits sp va.toNat) = none) :
    tableTranslate sp k va n s = beyondTlb sp k va n s := by
  unfold tableTranslate
  rw [h]
  rfl

section
variable {x : TlbEntry} (h : s.core.tlb.find? (fun x => x.hits sp va.toNat) = some x)
include h

theorem tableTranslate_forbidden (hp : permits sp k x.pte = false) :
    tableTranslate sp k va n s = beyondTlb sp k va n (tlbDropped sp va.toNat s) := by
  unfold tableTranslate
  rw [h]
  dsimp only
  rw [hp]
  rfl

theorem tableTranslate_clean (hp : permits sp k x.pte = true) (hw : k.writes = true) (hd : x.pte.getLsbD 7 = false) :
    tableTranslate sp k va n s = walkFor sp k va n 2 (tlbDropped sp va.toNat s) := by
  unfold tableTranslate
  rw [h]
  dsimp only
  rw [hp, hw, hd]
  rfl

theorem tableTranslate_hit (hp : permits sp k x.pte = true) (hw : k.writes = true → x.pte.getLsbD 7 = true) :
    tableTranslate sp k va n s = if step4 s sp (leafPhys x.level x.pte va.toNat) n = true
      then .ok (s, ⟨leafPhys x.level x.pte va.toNat, decide (bits x.pte 8 2 = 1)⟩)
      else raisePage k x.level 4 va s := by
  have hmarked : (k.writes && !x.pte.getLsbD 7) = false := by
    cases hk : k.writes
    · rfl
    · rw [hw hk]
      rfl
  unfold tableTranslate
  rw [h]
  dsimp only
  rw [hp, hmarked]
  cases step4 s sp (leafPhys x.level x.pte va.toNat) n <;> rfl

end

/-- The state that a translation ends in. -/
def translationLeaves : RunV Phys → State
  | .ok (t, _) => t
  | .error (.trap _ t) => t
  | .error (.wait t) => t

theorem exec_pageWalk {acc : Nat} (hact : s.core.act = true) : exec (.pageWalk va acc) s = .next (translationLeaves
    (walkFor s.ctx.space (if acc = 1 then .store else if acc = 2 then .fetch else .load) va 1 2 s)) := by
  show execPageWalk va acc s = _
  unfold execPageWalk
  rw [hact]
  refine (if_neg (by decide)).trans ?_
  dsimp only
  generalize walkFor _ _ _ _ _ _ = out
  rcases out with (_ | _) | _ <;> rfl

/-! ## The levels of a walk -/

theorem not_isHostWin_of_isDevReg {pa : Nat} (h : isDevReg pa = true) : isHostWin pa = false := by
  have hdev := of_decide_eq_true h
  refine decide_eq_false ?_
  unfold hbmEnd at hdev
  unfold hostBase
  omega

theorem isDevReg_of_hbm {pa : Nat} (h : offsetOf pa < hbmEnd) : isDevReg pa = false ∧ isHostWin pa = false := by
  unfold hbmEnd at h
  unfold isDevReg isHostWin hbmEnd hostBase
  exact ⟨decide_eq_false (by omega), decide_eq_false (by omega)⟩

/-- A table can be read: it lies in the window, in no carve-out, and where memory is (R312). -/
def tableHeld (s : State) (sp : Space) (tbl l : Nat) : Bool :=
  inWindow sp tbl (if l ≥ 2 then 65536 else 4096) && !inCarve s tbl 8 && reachable s tbl

/-- The entry a level's lookup uses (R312, R314). -/
def entryAt (s : State) (va tbl l : Nat) : Nat :=
  if l = 0 then level0Entry s tbl (levelIndex va 0) else tbl + 8 * levelIndex va l

/-- What an entry at a level says of the walk (R312, R314). -/
def walkEntry (s : State) (sp : Space) (va l a : Nat) (e : Word) : WalkRes :=
  if linePoisoned s (lineOf a) then .poison
  else if !e.getLsbD 0 then (if e.getLsbD 62 && decide (l ≤ 1) then .compressed l e a else .stop l 1)
  else if e.getLsbD 1 then (if leafBad l e then .stop l 3 else .leaf l e a)
  else if pointerBad l e then .stop l 3
  else walkFrom s sp va l (pteAddr e)

theorem walkFrom_succ (s : State) (sp : Space) (va l tbl : Nat) : walkFrom s sp va (l + 1) tbl =
    if (!tableHeld s sp tbl l || (isDevReg tbl && decide (sp.pid ≠ 0))) = true then .stop l 4
    else if (isDevReg tbl || isHostWin tbl) = true then .stop l 9
    else walkEntry s sp va l (entryAt s va tbl l) (readPte s (entryAt s va tbl l)) := rfl

section
variable {l tbl v : Nat}

theorem walkFrom_unheld (h : tableHeld s sp tbl l = false) : walkFrom s sp v (l + 1) tbl = .stop l 4 := by
  rw [walkFrom_succ, h]
  rfl

theorem walkFrom_device (h : tableHeld s sp tbl l = true) (hd : isDevReg tbl = true) :
    walkFrom s sp v (l + 1) tbl = .stop l (if sp.pid = 0 then 9 else 4) := by
  rw [walkFrom_succ, h, hd]
  by_cases hp : sp.pid = 0 <;> simp [hp]

theorem walkFrom_host (h : tableHeld s sp tbl l = true) (hw : isHostWin tbl = true) :
    walkFrom s sp v (l + 1) tbl = .stop l 9 := by
  have hd : isDevReg tbl = false := Bool.eq_false_iff.2 fun hd => by simp [not_isHostWin_of_isDevReg hd] at hw
  rw [walkFrom_succ, h, hd, hw]
  rfl

theorem walkFrom_memory (h : tableHeld s sp tbl l = true) (hm : offsetOf tbl < hbmEnd) :
    walkFrom s sp v (l + 1) tbl = walkEntry s sp v l (entryAt s v tbl l) (readPte s (entryAt s v tbl l)) := by
  rw [walkFrom_succ, h, (isDevReg_of_hbm hm).1, (isDevReg_of_hbm hm).2]
  rfl

/-- Entry `i` of the sixteen that map the 64 KiB range of an index. -/
def groupEntry (s : State) (tbl idx i : Nat) : Word := readPte s (tbl + 8 * (idx / 16 * 16 + i))

/-- Where no entry of the range has G64, or all agree but for A and D, the lookup uses the entry of the index (R314). -/
theorem level0Entry_regular {idx : Nat} (h : (∀ i, i < 16 → (groupEntry s tbl idx i).getLsbD 61 = false) ∨
    (∀ i, i < 16 → groupEntry s tbl idx i &&& ~~~0xC0#64 = groupEntry s tbl idx 0 &&& ~~~0xC0#64)) :
    level0Entry s tbl idx = tbl + 8 * idx := by
  unfold level0Entry
  refine if_neg ?_
  rw [Bool.and_eq_true, Bool.not_eq_true']
  rintro ⟨hany, hall⟩
  rcases h with h | h
  · obtain ⟨e, he, h61⟩ := List.any_eq_true.1 hany
    obtain ⟨i, hi, rfl⟩ := List.mem_map.1 he
    have hi0 := h i (List.mem_range.1 hi)
    rw [groupEntry] at hi0
    rw [BitVec.getLsbD_and, hi0] at h61
    cases h61
  · refine Bool.eq_false_iff.1 hall (List.all_eq_true.2 fun e he => ?_)
    obtain ⟨i, hi, rfl⟩ := List.mem_map.1 he
    exact decide_eq_true (h i (List.mem_range.1 hi))

theorem entryAt_regular (h : l = 0 → (∀ i, i < 16 → (groupEntry s tbl (levelIndex v 0) i).getLsbD 61 = false) ∨
    (∀ i, i < 16 → groupEntry s tbl (levelIndex v 0) i &&& ~~~0xC0#64 =
      groupEntry s tbl (levelIndex v 0) 0 &&& ~~~0xC0#64)) : entryAt s v tbl l = tbl + 8 * levelIndex v l := by
  unfold entryAt
  split
  next hl =>
    rw [level0Entry_regular (h hl), hl]
  · rfl

end

theorem leafBad_iff (l : Nat) (e : Word) : leafBad l e = true ↔
    l = 3 ∨ (e.getLsbD 3 = true ∧ e.getLsbD 2 = false) ∨ pteAddr e % 2 ^ pageBits l (e.getLsbD 61) ≠ 0 ∨
      (e.getLsbD 61 = true ∧ l ≠ 0) ∨ e.getLsbD 60 = true ∨ bits e 10 2 ≠ 0 ∨ 2 ≤ bits e 8 2 := by
  simp only [leafBad, Bool.or_eq_true, Bool.and_eq_true, Bool.not_eq_true', decide_eq_true_eq, ge_iff_le, or_assoc]

theorem pointerBad_iff (l : Nat) (e : Word) : pointerBad l e = true ↔
    l = 0 ∨ bits e 60 4 ≠ 0 ∨ bits e 2 10 ≠ 0 ∨ (l = 3 ∧ bits e 12 4 ≠ 0) := by
  have hlow : bits e 2 10 ≠ 0 ↔ bits e 2 8 ≠ 0 ∨ bits e 10 2 ≠ 0 := by
    unfold bits
    omega
  have haddr : pteAddr e % 65536 ≠ 0 ↔ bits e 12 4 ≠ 0 := by
    unfold pteAddr bits
    omega
  simp only [pointerBad, Bool.or_eq_true, Bool.and_eq_true, decide_eq_true_eq, or_assoc, hlow, haddr]

/-- What an entry says, its conditions written out. -/
theorem walkEntry_eq (s : State) (sp : Space) (va l a : Nat) (e : Word) : walkEntry s sp va l a e =
    if linePoisoned s (lineOf a) = true then .poison
    else if e.getLsbD 0 = false then (if e.getLsbD 62 = true ∧ l ≤ 1 then .compressed l e a else .stop l 1)
    else if e.getLsbD 1 = true then
      (if l = 3 ∨ (e.getLsbD 3 = true ∧ e.getLsbD 2 = false) ∨ pteAddr e % 2 ^ pageBits l (e.getLsbD 61) ≠ 0 ∨
          (e.getLsbD 61 = true ∧ l ≠ 0) ∨ e.getLsbD 60 = true ∨ bits e 10 2 ≠ 0 ∨ 2 ≤ bits e 8 2
       then .stop l 3 else .leaf l e a)
    else if l = 0 ∨ bits e 60 4 ≠ 0 ∨ bits e 2 10 ≠ 0 ∨ (l = 3 ∧ bits e 12 4 ≠ 0) then .stop l 3
    else walkFrom s sp va l (bits e 12 40 * 4096) := by
  unfold walkEntry
  refine if_congr Iff.rfl rfl (if_congr (by simp) (if_congr (by simp) rfl rfl) (if_congr Iff.rfl ?_ ?_))
  · exact if_congr (leafBad_iff l e) rfl rfl
  · exact if_congr (pointerBad_iff l e) rfl rfl

/-! ## Removals -/

section
variable {fm : Form} {a b : Nat}

theorem exec_tlbinv (hp : 1 ≤ s.pl) (hc : clean s [.g a, .g b] = true) (h28 : bits (rg s b) 28 34 = 0)
    (h12 : bits (rg s b) 12 4 = 0) (hsel : 2 ≤ bits (rg s b) 62 2 → 2 ≤ s.pl) :
    exec (.tlbinv fm a b) s = retires (fm.len 49)
      { s with xlat.removals := s.xlat.removals ++ [removalOf s (rg s a) (rg s b)] } := by
  have hlevel : (if bits (rg s b) 62 2 ≥ 2 then 2 else 1) ≤ s.pl := by
    split
    next h => exact hsel h
    · exact hp
  show execTlbinv fm a b s = _
  unfold execTlbinv
  refine runOne_ok ?_
  rw [atLeast_bind hp, need_ok hc]
  refine (if_neg (by simp [h28, h12])).trans ?_
  rw [atLeast_bind hlevel]

theorem exec_tlbsync (hp : 1 ≤ s.pl)
    (hr : s.xlat.removals.any (fun r => decide (r.gtid = s.ctx.prv.gtid)) = false)
    (hs : storesPerformed 2 s = true) : exec (.tlbsync fm) s = retires (fm.len 49) (syncCode (emptyNotPresent s)) := by
  show execTlbsync fm s = _
  unfold execTlbsync
  refine runOne_ok ?_
  rw [atLeast_bind hp, hr, settle_ok hs]
  rfl

theorem completeRemoval_none (h : s.xlat.removals = []) : completeRemoval s = s := by
  unfold completeRemoval
  rw [h]

/-- A removal that completes takes the entries it names from every core (R298, R319). -/
theorem completeRemoval_takes {r : TlbRemoval} {l : List TlbRemoval} (h : s.xlat.removals = r :: l)
    (hq : quiet (quiesce s) = true) : (completeRemoval s).xlat.removals = l ∧
      (∀ e ∈ (completeRemoval s).core.tlb, r.takes e = false) ∧
      (∀ e ∈ (completeRemoval s).core.notPresent, r.takesNp e = false) ∧
      ∀ x ∈ (completeRemoval s).others, ∀ e ∈ x.2.tlb, r.takes e = false := by
  have hkept {α : Type} {p : α → Bool} {l : List α} : ∀ e ∈ l.filter (fun t => !p t), p e = false := fun e he => by
    simpa using (List.mem_filter.1 he).2
  have hdone : completeRemoval s = moveDonews { dropEntries r (quiesce s) with xlat.removals := l } := by
    unfold completeRemoval
    rw [h]
    exact if_pos hq
  rw [hdone]
  generalize quiesce s = u
  refine ⟨rfl, hkept, hkept, fun x hx e he => ?_⟩
  obtain ⟨y, -, rfl⟩ := List.mem_map.1 hx
  exact hkept e he

end

end

/-- Settles O35: a walk's results by the `walkFor` lemmas and `useLeaf_ok`, the TLB by the `tableTranslate` lemmas, the
levels by the `walkFrom` lemmas and `walkEntry_eq`, removals by `completeRemoval_takes`. -/
theorem translationResults : Obligations.TranslationResults := by
  unfold Obligations.TranslationResults
  refine ⟨fun k va n acc s => ?_, fun s sp va tbl l => ⟨rfl, ?_⟩, fun fm a b va s => ?_⟩
  · intro sp heap page allows writes place walks
    have hpage (k : AccKind) (lvl r : Nat) (u : State) : (raisePage k lvl r va u : RunV Phys) = .error (.trap (page k lvl r) u) := by
      cases k <;> rfl
    have hallows (k : AccKind) (e : Word) : allows k e = permits sp k e := by
      by_cases hu : s.pl = 0
      · have huser : sp.user = true := decide_eq_true hu
        cases k <;> simp [allows, permits, hu, huser]
      · have huser : sp.user = false := decide_eq_false hu
        cases k <;> simp [allows, permits, hu, huser]
    have hwrites (k : AccKind) : writes k = k.writes := by cases k <;> rfl
    have hwalks (k : AccKind) (n : Nat) (u : State) : walks k n u (walkFor sp k va n 2 u) := by
      refine ⟨fun lvl r h => (walkFor_stop 1 h).trans (hpage ..), walkFor_poison 1,
        fun lvl e a h hno => (walkFor_compressed 1 h hno).trans (hpage ..), fun lvl e a h => ⟨fun hp => ?_, fun hp h4 => ?_, fun hp h4 => ?_⟩⟩
      · exact (walkFor_forbidden 1 h (hallows k e ▸ hp)).trans (hpage ..)
      · exact (walkFor_permitted 1 h (hallows k e ▸ hp)).trans ((useLeaf_step4 h4).trans (hpage ..))
      · intro size on
        have hon : on = marksFor k.writes e := by
          unfold on marksFor
          rw [hwrites]
        obtain ⟨hctx, hsb⟩ := installed_ctx sp va.toNat lvl e a on u
        obtain ⟨hsame, hmem⟩ := installed_writes (sp := sp) (va := va.toNat) (lvl := lvl) (e := e) (a := a) (on := on) (s := u)
        refine ⟨_, ?_, hctx, hsb, installed_tlb (hon ▸ marksFor_61 _ _), hsame, hmem⟩
        rw [hon]
        exact (walkFor_permitted 1 h (hallows k e ▸ hp)).trans (useLeaf_ok h4)
    have hbeyond (u : State) : (∀ x, u.core.notPresent.find? (fun x => x.hits sp va.toNat) = some x →
          beyondTlb sp k va n u = .error (.trap (page k x.level 1) u)) ∧
        (u.core.notPresent.find? (fun x => x.hits sp va.toNat) = none → walks k n u (beyondTlb sp k va n u)) := by
      unfold beyondTlb
      refine ⟨fun x h => ?_, fun h => ?_⟩
      · rw [h]
        exact hpage ..
      · rw [h]
        exact hwalks k n u
    refine ⟨fun h56 => (if_pos h56).trans (hpage ..), fun h56 hheap => ?_, fun h56 hheap => ?_, fun hact => ?_, fun hact => ?_⟩
    · intro pa owned
      rw [translate_heap h56 hheap, heapTranslate_eq, hpage, hpage, hpage]
    · intro dropped forgets
      rw [show forgets = fun u => (∀ x, u.core.notPresent.find? (fun x => x.hits sp va.toNat) = some x →
          translate k va n s = .error (.trap (page k x.level 1) u)) ∧
        (u.core.notPresent.find? (fun x => x.hits sp va.toNat) = none → walks k n u (translate k va n s)) from rfl]
      rw [translate_table h56 hheap]
      refine ⟨fun hmiss => ?_, fun x hx => ⟨fun hp => ?_, fun hp hw hd => ?_, fun hp hw => ?_⟩⟩
      · rw [tableTranslate_miss hmiss]
        exact hbeyond s
      · rw [tableTranslate_forbidden hx (hallows k _ ▸ hp)]
        exact hbeyond dropped
      · rw [tableTranslate_clean hx (hallows k _ ▸ hp) (hwrites k ▸ hw) hd]
        exact hwalks k n dropped
      · rw [tableTranslate_hit hx (hallows k _ ▸ hp) (hwrites k ▸ hw), hpage]
        rfl
    · show execPageWalk va acc s = _
      unfold execPageWalk
      rw [hact]
      rfl
    · refine ⟨_, hwalks (if acc = 1 then .store else if acc = 2 then .fetch else .load) 1 s, ?_⟩
      rw [exec_pageWalk hact]
      generalize walkFor _ _ _ _ _ _ = out
      rcases out with (_ | _) | _ <;> rfl
  · intro held index a e group
    have hindex : levelIndex va l = index := rfl
    refine ⟨walkFrom_unheld, walkFrom_device, walkFrom_host, fun hheld hmem hl hgroup => ?_⟩
    have hentry : entryAt s va tbl l = a := by
      rw [entryAt_regular, hindex]
      intro h0
      have h := hgroup h0
      subst h0
      exact h
    rw [walkFrom_memory hheld hmem, hentry]
    exact walkEntry_eq ..
  · refine ⟨exec_tlbinv, fun hp hr hs => ⟨_, exec_tlbsync hp hr hs, rfl, fun x hx => ?_, rfl, rfl, rfl⟩, fun h => ?_,
      fun r l h hq => ⟨_, rfl, completeRemoval_takes h hq⟩, ⟨_, rfl, rfl, rfl, fun e => ?_⟩⟩
    · obtain ⟨y, -, rfl⟩ := List.mem_map.1 hx
      rfl
    · exact congrArg _ (completeRemoval_none h)
    · simp [List.mem_filter]

end Sys2Proof.Machine

/-! PROOFS. What the management services do (R328, R359, R385 to R387, R401 to R405, R417 to R420, R429). -/

namespace Sys2Proof.Machine

section

variable {s t : State} {i : Instr} {n low st : Nat} {body : State → Nat × State} {ready : State → Bool}

/-- A caller that a service accepts, its stores performed (R328). -/
def accepted (low : Nat) (s : State) : Prop :=
  firmwareCalled s = true ∧ low ≤ bits s.ctx.prv.mon.cause 62 2 ∧ storesPerformed 3 s = true

/-- A service called by its number ends with a status, in a state. -/
def gives (s : State) (i : Instr) (n st : Nat) (t : State) : Prop :=
  bits s.ctx.prv.mon.cause 16 16 = n → exec i s = .next (finishService st t)

theorem gives_of_serviceWhen (h : accepted low s) (hx : exec i s = serviceWhen ready n low body s)
    (hready : ready s = true) (hb : body s = (st, t)) : gives s i n st t := by
  intro hn
  obtain ⟨hcalled, hlow, hperf⟩ := h
  rw [hx, serviceWhen, if_neg (by simp [hcalled, hn]), if_neg (Nat.not_lt.2 hlow), if_neg (by simp [hperf, hready]), hb]

theorem gives_of_service (h : accepted low s) (hx : exec i s = service n low body s) (hb : body s = (st, t)) :
    gives s i n st t := gives_of_serviceWhen h hx rfl hb

theorem arg_lt (s : State) (n : Nat) : arg s n < 2 ^ 64 := (rg s n).isLt

/-! ## `EXPAND` -/

section
variable (h : accepted 1 s)
include h

theorem expand_range (hr : aligned (arg s 6) 4096 = false ∨ 2 ^ 56 ≤ arg s 5) : gives s .expand 0x44 2 s :=
  gives_of_service h (show exec .expand s = execExpand s from rfl) (if_pos (by simpa using hr))

variable (ha : aligned (arg s 6) 4096 = true) (hva : arg s 5 < 2 ^ 56)
include ha hva

theorem expand_heap (hheap : heapAddr s.ctx.space (arg s 5) = true) : gives s .expand 0x44 1 s :=
  gives_of_service h (show exec .expand s = execExpand s from rfl)
    ((if_neg (by simpa [ha] using hva)).trans (if_pos hheap))

variable (hheap : heapAddr s.ctx.space (arg s 5) = false) {lvl p : Nat} {e : Word}
  (hw : walk s s.ctx.space (arg s 5) = .compressed lvl e p)
include hheap hw

theorem expand_step4 (h4 : step4 s s.ctx.space (arg s 6) (zippedBytes e) = false) : gives s .expand 0x44 2 s := by
  refine gives_of_service h (show exec .expand s = execExpand s from rfl)
    ((if_neg (by simpa [ha] using hva)).trans ((if_neg (by simp [hheap])).trans ?_))
  rw [hw]
  exact if_pos (by simp [h4])

theorem expand_into (h4 : step4 s s.ctx.space (arg s 6) (zippedBytes e) = true) :
    (expandInto e (arg s 6) s = none → gives s .expand 0x44 1 s) ∧
    ∀ t, expandInto e (arg s 6) s = some t → gives s .expand 0x44 0 t := by
  have hbody {st : Nat} {t : State} (hx : (expandInto e (arg s 6) s).elim (1, s) (fun t => (0, t)) = (st, t)) :
      gives s .expand 0x44 st t := by
    refine gives_of_service h (show exec .expand s = execExpand s from rfl)
      ((if_neg (by simpa [ha] using hva)).trans ((if_neg (by simp [hheap])).trans ?_))
    rw [hw]
    refine (if_neg (by simp [h4])).trans (Eq.trans ?_ hx)
    cases expandInto e (arg s 6) s <;> rfl
  exact ⟨fun hn => hbody (by rw [hn]; rfl), fun t ht => hbody (by rw [ht]; rfl)⟩

end

/-! ## `DBGSTOP` -/

/-- A fold keeps an invariant, and has a property at the end that every step keeps and the step of one element gives, where
the invariant holds. -/
theorem foldl_reaches_of_inv {α β : Type} {f : β → α → β} {I P : β → Prop} (inv : ∀ b a, I b → I (f b a))
    (keep : ∀ b a, I b → P b → P (f b a)) {l : List α} {a : α} (ha : a ∈ l) (gives : ∀ b, I b → P (f b a)) {b : β}
    (hb : I b) : P (l.foldl f b) := by
  have hall : I (l.foldl f b) ∧ P (l.foldl f b) := by
    induction l generalizing b with
    | nil => cases ha
    | cons x l ih =>
      rcases List.mem_cons.1 ha with rfl | ha
      · exact l.foldlRecOn (motive := fun b => I b ∧ P b) f ⟨inv b a hb, gives b hb⟩
          fun b hb a _ => ⟨inv b a hb.1, keep b a hb.1 hb.2⟩
      · exact ih ha (inv b x hb)
  exact hall.2

/-- The context of the current core runs, and is that of a thread. -/
def runsHere (core : Nat) (g : Word) (s : State) : Prop := s.cur = core ∧ s.core.act = true ∧ s.ctx.prv.gtid = g

/-- What `onContext` does at one core. -/
def onContextAt (g : Word) (f : Ctx → Ctx) (s : State) (n : Nat) : State :=
  let s1 := match activeOf s n with
    | some c => if c.prv.gtid = g then setActive s n (f c) else s
    | none => s
  match (getCore s1 n).lodge with
  | some c => if c.prv.gtid = g then setCore s1 n { getCore s1 n with lodge := some (f c) } else s1
  | none => s1

theorem onContext_eq (g : Word) (f : Ctx → Ctx) (s : State) : onContext g f s = coreNumbers.foldl (onContextAt g f) s := by
  unfold onContext onContextAt
  rfl

/-- The context that runs on the current core is changed there, and nowhere else. -/
theorem onContextAt_ctx {core : Nat} {g : Word} {f : Ctx → Ctx} (hs : runsHere core g s) (n : Nat) :
    (onContextAt g f s n).ctx = (if n = core then f s.ctx else s.ctx) ∧ (onContextAt g f s n).cur = core ∧
      (onContextAt g f s n).core.act = true := by
  obtain ⟨rfl, hact, hg⟩ := hs
  have hlodge (u : State) (hu : u.cur = s.cur) (x : Ctx) : (setCore u n { getCore u n with lodge := some x }).ctx = u.ctx ∧
      (setCore u n { getCore u n with lodge := some x }).cur = u.cur ∧
      (u.core.act = true → (setCore u n { getCore u n with lodge := some x }).core.act = true) := by
    by_cases hn : n = u.cur
    · simp [setCore, getCore, hn]
    · simp [setCore, hn]
  unfold onContextAt
  extract_lets s1
  have h1 : s1.ctx = (if n = s.cur then f s.ctx else s.ctx) ∧ s1.cur = s.cur ∧ s1.core.act = true := by
    unfold s1
    by_cases hn : n = s.cur
    · simp [activeOf, setActive, hn, hact, hg]
    · rw [if_neg hn]
      split
      · split
        · simp [setActive, setCore, hn, hact]
        · exact ⟨rfl, rfl, hact⟩
      · exact ⟨rfl, rfl, hact⟩
  obtain ⟨hctx, hcur, ha⟩ := h1
  clear_value s1
  split
  · split
    · obtain ⟨h1, h2, h3⟩ := hlodge s1 hcur _
      exact ⟨h1.trans hctx, h2.trans hcur, h3 ha⟩
    · exact ⟨hctx, hcur, ha⟩
  · exact ⟨hctx, hcur, ha⟩

theorem setStep_bit (on : Bool) (c : Ctx) : (setStep on c).prv.status.getLsbD 7 = on := by
  show (putBits c.prv.status 7 1 (if on then 1 else 0)).getLsbD 7 = on
  rw [getLsbD_putBits]
  cases on <;> simp

theorem stepped_onContext {g : Word} (on : Bool) (hs : runsHere s.cur g s) (hcur : s.cur < 256) :
    (onContext g (setStep on) s).ctx.prv.status.getLsbD 7 = on := by
  have hmem : s.cur ∈ coreNumbers := List.mem_range.2 hcur
  rw [onContext_eq]
  refine foldl_reaches_of_inv (I := runsHere s.cur g) (P := fun t : State => t.ctx.prv.status.getLsbD 7 = on)
    (a := s.cur) (fun t n ht => ?_) (fun t n ht hp => ?_) hmem (fun t ht => ?_) hs
  · obtain ⟨hctx, hc, ha⟩ := onContextAt_ctx (f := setStep on) ht n
    refine ⟨hc, ha, ?_⟩
    rw [hctx]
    split <;> exact ht.2.2
  · rw [(onContextAt_ctx ht n).1]
    split
    · exact setStep_bit on _
    · exact hp
  · rw [(onContextAt_ctx ht _).1, if_pos rfl]
    exact setStep_bit on _

/-- The context of the current core is found. -/
theorem findContext_here {g : Word} (hs : runsHere s.cur g s) (hcur : s.cur < 256) : (findContext s g).isSome = true := by
  obtain ⟨-, hact, hg⟩ := hs
  unfold findContext
  rw [List.findSome?_isSome_iff]
  have hmem : s.cur ∈ coreNumbers := List.mem_range.2 hcur
  refine ⟨s.cur, hmem, List.find?_isSome.2 ⟨s.ctx, ?_, by simp [hg]⟩⟩
  simp [residents, activeOf, hact]

section
variable (h : accepted 1 s)
include h

theorem dbgstop_range (hr : stopTarget s (rg s 5) = false ∨ 1 < arg s 6) : gives s .dbgstop 0x58 2 s :=
  gives_of_service h (show exec .dbgstop s = execDbgstop s from rfl) (if_pos (by
    rcases hr with hr | hr
    · exact .inr (.inr (by simp [hr]))
    · exact .inl hr))

variable (hg : arg s 5 < 2 ^ 48) (hb : arg s 6 ≤ 1) (ht : stopTarget s (rg s 5) = true)
include hg hb ht

theorem dbgstop_body (hx : (if (findContext s (rg s 5)).isSome then
      (0, onContext (rg s 5) (setStep (decide (arg s 6 = 1))) s)
    else if (s.dbg.stops.filter (fun x => decide (x.1 ≠ rg s 5))).length ≥ 64 then (1, s)
    else (0, { s with dbg.stops := s.dbg.stops.filter (fun x => decide (x.1 ≠ rg s 5)) ++
      [(rg s 5, decide (arg s 6 = 1))] })) = (st, t)) : gives s .dbgstop 0x58 st t := by
  have hno : ¬ (arg s 6 > 1 ∨ (rg s 5).toNat ≥ 2 ^ 48 ∨ ¬ stopTarget s (rg s 5) = true) := by
    rw [not_or, not_or, not_not]
    exact ⟨Nat.not_lt.2 hb, Nat.not_le.2 hg, ht⟩
  exact gives_of_service h (show exec .dbgstop s = execDbgstop s from rfl) ((if_neg hno).trans hx)

theorem dbgstop_here (hs : runsHere s.cur (rg s 5) s) (hcur : s.cur < 256) :
    ∃ t, gives s .dbgstop 0x58 0 t ∧ t.ctx.prv.status.getLsbD 7 = decide (arg s 6 = 1) :=
  ⟨_, dbgstop_body h hg hb ht (if_pos (findContext_here hs hcur)), stepped_onContext _ hs hcur⟩

theorem dbgstop_later (hno : (findContext s (rg s 5)).isSome = false) :
    let rest := s.dbg.stops.filter (fun x => decide (x.1 ≠ rg s 5))
    (64 ≤ rest.length → gives s .dbgstop 0x58 1 s) ∧
    (rest.length < 64 →
      gives s .dbgstop 0x58 0 { s with dbg.stops := rest ++ [(rg s 5, decide (arg s 6 = 1))] }) :=
  ⟨fun hfull => dbgstop_body h hg hb ht ((if_neg (by simp [hno])).trans (if_pos hfull)),
   fun hroom => dbgstop_body h hg hb ht ((if_neg (by simp [hno])).trans (if_neg (Nat.not_le.2 hroom)))⟩

end

/-! ## `GROUPBIND` -/

theorem groups_bound (num pid : Nat) (members : List Word) (l : List Nat) (s : State) :
    (l.foldl (fun t p => askPackage p t) (bindGroup num pid members s)).copy.groups.find? (fun g => g.num = num) =
      if members.isEmpty then none else some ⟨num, pid, members⟩ := by
  have hcopy : (l.foldl (fun t p => askPackage p t) (bindGroup num pid members s)).copy = (bindGroup num pid members s).copy :=
    List.foldlRecOn (motive := fun t : State => t.copy = (bindGroup num pid members s).copy) _ _ rfl fun _ ht _ _ => ht
  have hothers : (s.copy.groups.filter (fun g => decide (g.num ≠ num))).find? (fun g => g.num = num) = none :=
    List.find?_eq_none.2 fun g hg => by simpa using (List.mem_filter.1 hg).2
  rw [hcopy]
  unfold bindGroup
  dsimp only
  split
  · exact hothers
  · exact List.find?_cons_of_pos (by simp)

section
variable (h : accepted 1 s) (ha : arg s 5 ≤ 65535) (hd : arg s 8 ≤ 4096)
  (hpid : (if bits s.ctx.prv.mon.cause 62 2 = 1 then s.pid else arg s 6) ≤ 4095)
  (hbuf : arg s 8 = 0 ∨ bufferOk s (arg s 7) (8 * arg s 8) = true) (hready : bindReady s = true)

include h in
theorem bindPid_eq : bindPid s = if bits s.ctx.prv.mon.cause 62 2 = 1 then s.pid else arg s 6 := by
  have hl := h.2.1
  unfold bindPid
  by_cases h1 : bits s.ctx.prv.mon.cause 62 2 = 1
  · rw [if_pos h1, if_neg (by omega)]
  · rw [if_neg h1, if_pos (by omega)]

include h ha hd hpid hbuf hready

theorem groupbind_body
    (hx : (if !(readGtids s (arg s 7) (arg s 8)).all (memberOk s (bindPid s)) then (2, s)
      else if groupBusy s (arg s 5) then (1, s)
      else (0, (bindPackages s).foldl (fun t p => askPackage p t)
        (bindGroup (arg s 5) (bindPid s) (readGtids s (arg s 7) (arg s 8)) s))) = (st, t)) :
    gives s .groupbind 0x60 st t := by
  have hlist : bindListOk s = true := by
    rw [bindListOk, bindPid_eq h, Bool.and_eq_true, Bool.or_eq_true, decide_eq_true_eq, Bool.not_eq_true',
      decide_eq_false_iff_not]
    exact ⟨by omega, hbuf⟩
  refine gives_of_serviceWhen h (show exec .groupbind s = execGroupbind s from rfl) hready ?_
  rw [← hx]
  dsimp only
  rw [hlist, Bool.not_true, Bool.false_or]

theorem groupbind_member (hm : (readGtids s (arg s 7) (arg s 8)).all (memberOk s (bindPid s)) = false) :
    gives s .groupbind 0x60 2 s :=
  groupbind_body h ha hd hpid hbuf hready (if_pos (by simp [hm]))

theorem groupbind_busy (hm : (readGtids s (arg s 7) (arg s 8)).all (memberOk s (bindPid s)) = true)
    (hbusy : groupBusy s (arg s 5) = true) : gives s .groupbind 0x60 1 s :=
  groupbind_body h ha hd hpid hbuf hready ((if_neg (by rw [hm]; decide)).trans (if_pos hbusy))

theorem groupbind_binds (hm : (readGtids s (arg s 7) (arg s 8)).all (memberOk s (bindPid s)) = true)
    (hbusy : groupBusy s (arg s 5) = false) : ∃ t, gives s .groupbind 0x60 0 t ∧
      t.copy.groups.find? (fun g => g.num = arg s 5) =
        (if arg s 8 = 0 then none else some ⟨arg s 5, bindPid s, readGtids s (arg s 7) (arg s 8)⟩) := by
  refine ⟨_, groupbind_body h ha hd hpid hbuf hready ((if_neg (by rw [hm]; decide)).trans (if_neg (by rw [hbusy]; decide))), ?_⟩
  refine (groups_bound ..).trans (if_congr ?_ rfl rfl)
  simp [readGtids]

end

/-! ## Carve-outs, the pool, the zone and proposals -/

section
variable (h : accepted 2 s)
include h

theorem rdcsize_range (hr : 3 < arg s 5 ∨ 16 < arg s 6) : gives s .rdcsize 0x40 2 s :=
  gives_of_service h (show exec .rdcsize s = execRdcsize s from rfl) (if_pos hr)

/-- The upper end of a die's memory. -/
def dieTop (s : State) : Nat := s.pkg * 2 ^ 44 + (arg s 5 + 1) * 0x3000000000

theorem rdcsize_guests (ha : arg s 5 ≤ 3) (hb : arg s 6 ≤ 16) (hn : arg s 6 ≠ 0)
    (hm : meetsGuests s (dieTop s - arg s 6 * 2 ^ 30) (dieTop s) = true) : gives s .rdcsize 0x40 1 s :=
  gives_of_service h (show exec .rdcsize s = execRdcsize s from rfl) ((if_neg (by omega)).trans (if_pos ⟨hn, hm⟩))

theorem rdcsize_sets (ha : arg s 5 ≤ 3) (hb : arg s 6 ≤ 16)
    (hm : arg s 6 = 0 ∨ meetsGuests s (dieTop s - arg s 6 * 2 ^ 30) (dieTop s) = false) :
    ∃ t, gives s .rdcsize 0x40 0 t ∧ t.xlat.carve[arg s 5]? = some (arg s 6) ∧ t.mem = s.mem := by
  have hno : ¬ (arg s 6 ≠ 0 ∧ meetsGuests s (dieTop s - arg s 6 * 2 ^ 30) (dieTop s) = true) := by
    rintro ⟨h0, h1⟩
    rcases hm with hm | hm
    · exact h0 hm
    · rw [hm] at h1
      cases h1
  refine ⟨_, gives_of_service h (show exec .rdcsize s = execRdcsize s from rfl)
    ((if_neg (by omega)).trans (if_neg hno)), ?_, rfl⟩
  have ha4 : arg s 5 < 4 := by omega
  simp [ha4]

theorem pool_gives : gives s .pool 0x41 (if aligned (arg s 5) 4096 && pow2In (arg s 6) 16 (2 ^ 20) then 0 else 2)
    (if aligned (arg s 5) 4096 && pow2In (arg s 6) 16 (2 ^ 20) then { s with xlat.pool := some ⟨arg s 5, arg s 6⟩ }
      else s) := by
  refine gives_of_service h (show exec .pool s = execPool s from rfl) ?_
  dsimp only
  cases aligned (arg s 5) 4096
  · rfl
  · cases pow2In (arg s 6) 16 (2 ^ 20) <;> rfl

theorem zone_gives (ha : aligned (arg s 5) (2 ^ 21) = true) (hb : aligned (arg s 6) (2 ^ 21) = true) :
    (s.xlat.zipped ≠ [] → gives s .zone 0x42 1 s) ∧
    (s.xlat.zipped = [] → gives s .zone 0x42 0 { s with xlat.zone := some (arg s 5, arg s 6) }) := by
  have hno : ¬ (!aligned (arg s 5) (2 ^ 21) || !aligned (arg s 6) (2 ^ 21)) = true := by
    rw [ha, hb]
    decide
  exact ⟨fun hz => gives_of_service h (show exec .zone s = execZone s from rfl) ((if_neg hno).trans (if_pos hz)),
    fun hz => gives_of_service h (show exec .zone s = execZone s from rfl) ((if_neg hno).trans (if_neg (not_not.2 hz)))⟩

theorem propose_gives (ha : arg s 5 < 4096) (hb : aligned (arg s 6) 4096 = true)
    (hc : pow2In (arg s 7) 1 (2 ^ 52) = true) : ∃ t, gives s .propose 0x43 0 t ∧
      proposalOf t (arg s 5) = some ⟨arg s 5, ⟨arg s 6, arg s 7⟩, bits (rg s 8) 0 16, bits (rg s 8) 16 8⟩ := by
  refine ⟨_, gives_of_service h (show exec .propose s = execPropose s from rfl) (if_neg ?_), List.find?_cons_of_pos (by simp)⟩
  rw [hb, hc]
  simpa using ha

/-! ## Queues, save areas and the election -/

omit h in
/-- What is found last, where nothing before it is what is looked for. -/
theorem find?_append_singleton {α : Type} {p : α → Bool} {l : List α} {x : α} (hl : ∀ y ∈ l, p y = false) (hx : p x = true) :
    (l ++ [x]).find? p = some x := by
  rw [List.find?_append, List.find?_eq_none.2 fun y hy => by rw [hl y hy]; decide, Option.none_or,
    List.find?_cons_of_pos hx]

theorem runq_gives (ha : arg s 5 ≤ 4095) (hb : arg s 6 ≤ 31) (hc : aligned (arg s 7) 4096 = true)
    (hd : pow2In (arg s 8) 16 65536 = true) :
    ((queueOf s (arg s 5) (arg s 6)).any (fun q => !(recsIn s q 1).isEmpty) = true → gives s .runq 0x48 1 s) ∧
    ((queueOf s (arg s 5) (arg s 6)).any (fun q => !(recsIn s q 1).isEmpty) = false →
      ∃ t, gives s .runq 0x48 0 t ∧ queueOf t (arg s 5) (arg s 6) = some ⟨arg s 5, arg s 6, arg s 7, arg s 8⟩) := by
  have hno : ¬ (arg s 5 > 4095 ∨ arg s 6 > 31 ∨ ¬ aligned (arg s 7) 4096 = true ∨ ¬ pow2In (arg s 8) 16 65536 = true) := by
    simp only [hc, hd, not_true_eq_false, or_false]
    omega
  refine ⟨fun hq => gives_of_service h (show exec .runq s = execRunq s from rfl) ((if_neg hno).trans (if_pos hq)),
    fun hq => ⟨_, gives_of_service h (show exec .runq s = execRunq s from rfl)
      ((if_neg hno).trans (if_neg (Bool.eq_false_iff.1 hq))), find?_append_singleton (fun q hm => ?_) (by simp)⟩⟩
  have hother := (List.mem_filter.1 hm).2
  rw [decide_eq_true_eq] at hother
  exact decide_eq_false hother

theorem sapool_gives (ha : arg s 5 ≤ 4095) (hb : aligned (arg s 6) 4096 = true)
    (hc : pow2In (arg s 7) 16 (2 ^ 20) = true) : ∃ t, gives s .sapool 0x49 0 t ∧
      t.sched.sapools.find? (fun x => x.1 = arg s 5) = some (arg s 5, ⟨arg s 6, arg s 7⟩) := by
  refine ⟨_, gives_of_service h (show exec .sapool s = execSapool s from rfl) (if_neg ?_),
    find?_append_singleton (fun x hm => ?_) (by simp)⟩
  · rw [hb, hc]
    simpa using ha
  · simpa using (List.mem_filter.1 hm).2

theorem elect_gives (ha : arg s 5 ≤ 3) :
    ((dieLive s (arg s 5) && s.sched.electHost && s.sched.election) = true →
      gives s .elect 0x4A 0 { s with sched.master := arg s 5, sched.election := false }) ∧
    ((dieLive s (arg s 5) && s.sched.electHost && s.sched.election) = false → gives s .elect 0x4A 1 s) := by
  have hcond : (!dieLive s (arg s 5) || !s.sched.electHost || !s.sched.election) =
      !(dieLive s (arg s 5) && s.sched.electHost && s.sched.election) := by
    rw [Bool.not_and, Bool.not_and]
  have hrange : ¬ arg s 5 > 3 := Nat.not_lt.2 ha
  refine ⟨fun hok => gives_of_service h (show exec .elect s = execElect s from rfl) ((if_neg hrange).trans (if_neg ?_)),
    fun hno => gives_of_service h (show exec .elect s = execElect s from rfl) ((if_neg hrange).trans (if_pos ?_))⟩
  · rw [hcond, hok]
    decide
  · rw [hcond, hno]
    rfl

/-! ## Audits -/

theorem auditcfg_gives (ha : arg s 5 ≤ 3) (hb : 4 ≤ arg s 6) (hb' : arg s 6 ≤ 20) (hc : arg s 7 ≤ 15) :
    ∃ t, gives s .auditcfg 0x50 0 t ∧ t.rel.auditK[arg s 5]? = some (arg s 6) ∧ t.rel.retry[arg s 5]? = some (arg s 7) := by
  have ha4 : arg s 5 < 4 := by omega
  refine ⟨_, gives_of_service h (show exec .auditcfg s = execAuditcfg s from rfl) (if_neg (by omega)), ?_, ?_⟩ <;> simp [ha4]

omit h in
theorem reportBytes_length (r : AuditRec) : (reportBytes r).length = 64 := by
  simp [reportBytes, bytesOfNat_length, List.range_succ]

omit h in
theorem rel_agentWrite (pa : Nat) (d : List Byte) (s : State) : (agentWrite pa d s).rel = s.rel := by
  obtain ⟨m, c, h⟩ := agentWrite_sameButMemory pa d s
  rw [h]

theorem auditlog_gives (hb : bufferOk s (arg s 5) 64 = true) :
    (s.rel.reports = [] → gives s .auditlog 0x51 1 s) ∧
    (∀ r l, s.rel.reports = r :: l → ∃ t, gives s .auditlog 0x51 0 t ∧ t.rel.reports = l ∧
      (s.memOk → memReadN t.mem (arg s 5) 64 = reportBytes r)) := by
  have hno : ¬ (!bufferOk s (arg s 5) 64) = true := by rw [hb]; decide
  refine ⟨fun hr => gives_of_service h (show exec .auditlog s = execAuditlog s from rfl) ((if_neg hno).trans (by rw [hr])),
    fun r l hr => ⟨agentWrite (arg s 5) (reportBytes r) { s with rel.reports := l },
      gives_of_service h (show exec .auditlog s = execAuditlog s from rfl) ((if_neg hno).trans (by rw [hr])), ?_, fun hok => ?_⟩⟩
  · rw [rel_agentWrite]
  · have hread := memReadN_agentWrite (arg s 5) (reportBytes r) (s := { s with rel.reports := l }) hok
    rwa [reportBytes_length] at hread

theorem audit_unknown (hr : auditAt s (arg s 5) = none) : gives s .auditrun 0x52 2 s ∧ gives s .auditrule 0x53 2 s :=
  ⟨gives_of_service h (show exec .auditrun s = execAuditrun s from rfl) (by rw [hr]),
   gives_of_service h (show exec .auditrule s = execAuditrule s from rfl) (by rw [hr])⟩

section
variable {r : AuditRec} (hr : auditAt s (arg s 5) = some r) (hrep : r.reported = true)
include hr hrep

theorem auditrun_refused (hb : arg s 6 ≤ 127) (hm : mayBreak s r (arg s 6) = false) : gives s .auditrun 0x52 1 s := by
  refine gives_of_service h (show exec .auditrun s = execAuditrun s from rfl) ?_
  dsimp only
  rw [hr]
  exact (if_neg (by simpa [hrep] using hb)).trans (if_pos (by simp [hm]))

theorem auditrun_runs (hb : arg s 6 ≤ 127) (hm : mayBreak s r (arg s 6) = true) :
    ∃ t, gives s .auditrun 0x52 0 t ∧ rg t 6 = (replayOn (arg s 6) r.op s).1 := by
  refine ⟨wg (putAudit { r with third := some (arg s 6), sigs := r.sigs.take 2 ++ [(replayOn (arg s 6) r.op s).1] }
      (replayOn (arg s 6) r.op s).2) 6 (replayOn (arg s 6) r.op s).1,
    gives_of_service h (show exec .auditrun s = execAuditrun s from rfl) ?_, rg_wg_same _ (by decide) (by decide)⟩
  dsimp only
  rw [hr]
  exact (if_neg (by simpa [hrep] using hb)).trans (if_neg (by simp [hm]))

theorem auditrule_gives (hb : 1 ≤ arg s 6) (hb' : arg s 6 ≤ 3) :
    gives s .auditrule 0x53 0 (settleAudit (arg s 6) r s) := by
  refine gives_of_service h (show exec .auditrule s = execAuditrule s from rfl) ?_
  rw [hr]
  refine if_neg ?_
  rw [hrep, Bool.not_true, Bool.false_or, decide_eq_true_eq]
  omega

end

/-! ## Engines out of service -/

theorem quarantine_range (hr : 127 < arg s 5 ∨ 1 < arg s 6) : gives s .quarantine 0x54 2 s :=
  gives_of_service h (show exec .quarantine s = execQuarantine s from rfl) (if_pos hr)

omit h in
theorem eng_undefCluster (n : Nat) (s : State) : (undefCluster n s).eng = s.eng := by
  refine List.foldlRecOn (motive := fun t : State => t.eng = s.eng) _ _ rfl fun t ht i _ => ?_
  rcases undefNames_cases (n / 4 * 8 + i) t with hu | ⟨c, c', -, -, hu⟩
  · rw [hu, ht]
  · rw [hu, setActive_eng, ht]

omit h in
theorem quarantined_quarantine {n : Nat} (hn : n < 128) : (engineAt (quarantine n s) n).quarantined = true := by
  unfold quarantine
  split
  next hq => exact hq
  · extract_lets hit s1
    rw [engineAt, eng_undefCluster, ← engineAt, engineAt_setEngine_same _ hn]

omit h in
theorem quarantined_restoreEngine {n : Nat} (hn : n < 128) : (engineAt (restoreEngine n s) n).quarantined = false := by
  unfold restoreEngine
  extract_lets s1
  rw [engineAt, eng_undefCluster, ← engineAt, engineAt_setEngine_same _ hn]

section
variable (ha : arg s 5 ≤ 127)
include ha

theorem quarantine_takes (hb : arg s 6 = 1) :
    ∃ t, gives s .quarantine 0x54 0 t ∧ (engineAt t (arg s 5)).quarantined = true :=
  ⟨_, gives_of_service h (show exec .quarantine s = execQuarantine s from rfl)
    ((if_neg (by omega)).trans (if_pos hb)), quarantined_quarantine (by omega)⟩

theorem quarantine_hypervisor (hb : arg s 6 = 0) (hl : bits s.ctx.prv.mon.cause 62 2 = 2) :
    gives s .quarantine 0x54 3 s :=
  gives_of_service h (show exec .quarantine s = execQuarantine s from rfl)
    ((if_neg (by omega)).trans ((if_neg (by omega)).trans (if_pos (by omega))))

theorem quarantine_restores (hb : arg s 6 = 0) (hl : bits s.ctx.prv.mon.cause 62 2 = 3) :
    ∃ t, gives s .quarantine 0x54 0 t ∧ (engineAt t (arg s 5)).quarantined = false :=
  ⟨_, gives_of_service h (show exec .quarantine s = execQuarantine s from rfl)
    ((if_neg (by omega)).trans ((if_neg (by omega)).trans (if_neg (by omega)))), quarantined_restoreEngine (by omega)⟩

end

/-! ## `ROLLCALL` -/

omit h in
theorem catchUp_idle {n : Nat} (hr : rollDue s = none) (hp : periodDue s = none) : catchUp n s = s := by
  cases n with
  | zero => rfl
  | succ n => rw [catchUp, hr, hp]

/-- The state in which every record that was due has been written. -/
def caughtUp (s : State) : State := catchUp (s.cyc - s.dbg.rollAt + 2) s

omit h in
theorem arg_caughtUp (n : Nat) : arg (caughtUp s) n = arg s n := by
  unfold arg rg caughtUp
  rw [ctx_catchUp]

theorem rollcall_off (ha : arg s 5 = 0) : ∃ t, gives s .rollcall 0x59 0 t ∧ t.dbg.rollNext = some 0 ∧
    t.dbg.rollK = (caughtUp s).dbg.rollK ∧
    ∀ (i : Nat) x, t.dbg.roll[i]? = some x → x.count = 0 ∧ x.last = [] := by
  refine ⟨_, gives_of_service h (show exec .rollcall s = execRollcall s from rfl) (if_pos ha), rfl, rfl, fun i x hx => ?_⟩
  obtain ⟨d, -, rfl⟩ : ∃ d, (caughtUp s).dbg.roll[i]? = some d ∧ { d with last := [], count := 0 } = x := by
    simpa [Vector.getElem?_map, caughtUp] using hx
  exact ⟨rfl, rfl⟩

theorem rollcall_range (ha : 10 ≤ arg s 5) (ha' : arg s 5 ≤ 24) (hb : arg s 6 ≤ 15) (hc : aligned (arg s 7) 4096 = true)
    (hd : pow2In (arg s 8) (2 ^ 16) (2 ^ 30) = true) :
    (ringInWindow (caughtUp s) (arg s 7) (arg s 7 + 4096 + arg s 8) = true → gives s .rollcall 0x59 1 (caughtUp s)) ∧
    (ringInWindow (caughtUp s) (arg s 7) (arg s 7 + 4096 + arg s 8) = false → ∃ t, gives s .rollcall 0x59 0 t ∧
      t.dbg.rollNext = some (arg s 5) ∧ t.dbg.rollMask = arg s 6 ∧ t.dbg.rollRing = arg s 7 ∧ t.dbg.rollSize = arg s 8) := by
  have h0 : ¬ arg s 5 = 0 := by omega
  have hno : ¬ (arg s 5 < 10 ∨ 24 < arg s 5 ∨ 15 < arg (caughtUp s) 6 ∨ ¬ aligned (arg (caughtUp s) 7) 4096 = true ∨
      ¬ pow2In (arg (caughtUp s) 8) (2 ^ 16) (2 ^ 30) = true) := by
    simp only [arg_caughtUp, hc, hd, not_true_eq_false, or_false]
    omega
  rw [← arg_caughtUp 6, ← arg_caughtUp 7, ← arg_caughtUp 8]
  exact ⟨fun hw => gives_of_service h (show exec .rollcall s = execRollcall s from rfl)
      ((if_neg h0).trans ((if_neg hno).trans (if_pos hw))),
    fun hw => ⟨_, gives_of_service h (show exec .rollcall s = execRollcall s from rfl)
      ((if_neg h0).trans ((if_neg hno).trans (if_neg (Bool.eq_false_iff.1 hw)))), rfl, rfl, rfl, rfl⟩⟩

/-! ## Routes, notices and the host -/

theorem routeset_end (ha : arg s 5 = 256) :
    (s.fab.repairHost = true → ∃ t, gives s .routeset 0x61 0 t ∧ t.fab.repairing = false) ∧
    (s.fab.repairHost = false → gives s .routeset 0x61 0 s) := by
  have hbody {t : State} (hx : (if s.fab.repairHost then releaseMsgs { s with fab.repairing := false } else s) = t) :
      gives s .routeset 0x61 0 t :=
    gives_of_service h (show exec .routeset s = execRouteset s from rfl) ((if_pos ha).trans (by rw [hx]))
  exact ⟨fun hh => ⟨_, hbody (if_pos hh), rfl⟩, fun hh => hbody (if_neg (Bool.eq_false_iff.1 hh))⟩

theorem routeset_route (ha : arg s 5 ≤ 255) (hb : arg s 6 ≤ 17) :
    (s.fab.linksUp.getLsbD (arg s 6) = false → gives s .routeset 0x61 1 s) ∧
    (s.fab.linksUp.getLsbD (arg s 6) = true → ∃ t, gives s .routeset 0x61 0 t ∧
      t.fab.routes.find? (fun r => r.1 = arg s 5) = some (arg s 5, arg s 6)) := by
  refine ⟨fun hl => gives_of_service h (show exec .routeset s = execRouteset s from rfl)
      ((if_neg (by omega)).trans ((if_neg (by omega)).trans (if_pos (by rw [hl]; rfl)))),
    fun hl => ⟨_, gives_of_service h (show exec .routeset s = execRouteset s from rfl)
      ((if_neg (by omega)).trans ((if_neg (by omega)).trans (if_neg (by rw [hl]; decide)))),
      List.find?_cons_of_pos (by simp)⟩⟩

theorem notify_gives (ha : arg s 5 ≤ 255) :
    (arg s 6 = 0 → gives s .notify 0x62 0 { s with host.notifyCore := arg s 5, host.dumpRing := none }) ∧
    (arg s 6 ≠ 0 → aligned (arg s 6) 4096 = true → pow2In (arg s 7) (2 ^ 20) (2 ^ 34) = true →
      gives s .notify 0x62 0 { s with host.notifyCore := arg s 5, host.dumpRing := some ⟨arg s 6, arg s 7⟩ }) :=
  ⟨fun hb => gives_of_service h (show exec .notify s = execNotify s from rfl) ((if_neg (by omega)).trans (if_pos hb)),
   fun hb hal hpow => gives_of_service h (show exec .notify s = execNotify s from rfl)
    ((if_neg (by omega)).trans ((if_neg hb).trans (if_neg (by rw [hal, hpow]; decide))))⟩

theorem hostvf_gives (ha : 1 ≤ arg s 5) (ha' : arg s 5 ≤ 64) (hb : 1 ≤ arg s 6) (hb' : arg s 6 ≤ 4095)
    (hd : arg s 8 ≤ 255) (hc : aligned (arg s 7) 65536 = true) (hw : insideWindow s (arg s 6) (arg s 7) 65536 = true) :
    ((vfOf s (arg s 5)).any (fun x => decide (x.pid ≠ arg s 6)) = true → gives s .hostvf 0x63 1 s) ∧
    ((vfOf s (arg s 5)).any (fun x => decide (x.pid ≠ arg s 6)) = false →
      ∃ t, gives s .hostvf 0x63 0 t ∧ vfOf t (arg s 5) = some ⟨arg s 5, arg s 6, arg s 7, arg s 8⟩) := by
  have hno : ¬ (arg s 8 > 255 ∨ ¬ aligned (arg s 7) 65536 = true ∨ ¬ insideWindow s (arg s 6) (arg s 7) 65536 = true) := by
    simp only [hc, hw, not_true_eq_false, or_false]
    omega
  have hbody {st : Nat} {t : State} (hx : (if (vfOf s (arg s 5)).any (fun x => decide (x.pid ≠ arg s 6)) = true then (1, s)
      else (0, { s with host.vfs := ⟨arg s 5, arg s 6, arg s 7, arg s 8⟩ ::
        s.host.vfs.filter (fun x => decide (x.num ≠ arg s 5)) })) = (st, t)) : gives s .hostvf 0x63 st t :=
    gives_of_service h (show exec .hostvf s = execHostvf s from rfl)
      ((if_neg (by omega)).trans ((if_neg (by omega)).trans ((if_neg hno).trans hx)))
  exact ⟨fun hv => hbody (if_pos hv), fun hv => ⟨_, hbody (if_neg (by rw [hv]; decide)), List.find?_cons_of_pos (by simp)⟩⟩

theorem hostwin_closes (hb : arg s 6 = 0) : gives s .hostwin 0x64 0 { s with host.window := none } :=
  gives_of_service h (show exec .hostwin s = execHostwin s from rfl) (if_pos hb)

theorem hostwin_opens (hb : pow2In (arg s 6) 1 512 = true) (ha : aligned (arg s 5) (2 ^ 30) = true)
    (ho : originOf (arg s 5) = s.pkg) (hend : offsetOf (arg s 5) + arg s 6 * 2 ^ 30 ≤ hbmEnd) :
    (inCarve s (arg s 5) (arg s 6 * 2 ^ 30) = true → gives s .hostwin 0x64 1 s) ∧
    (inCarve s (arg s 5) (arg s 6 * 2 ^ 30) = false →
      gives s .hostwin 0x64 0 { s with host.window := some (arg s 5, arg s 6 * 2 ^ 30) }) := by
  have h0 : ¬ arg s 6 = 0 := (of_decide_eq_true hb).2.2.1
  have hno : ¬ (!pow2In (arg s 6) 1 512 || !aligned (arg s 5) (2 ^ 30) || decide (originOf (arg s 5) ≠ s.pkg) ||
      decide (offsetOf (arg s 5) + arg s 6 * 2 ^ 30 > hbmEnd)) = true := by
    rw [hb, ha]
    simpa [ho] using hend
  have hbody {st : Nat} {t : State} (hx : (if inCarve s (arg s 5) (arg s 6 * 2 ^ 30) = true then (1, s)
      else (0, { s with host.window := some (arg s 5, arg s 6 * 2 ^ 30) })) = (st, t)) : gives s .hostwin 0x64 st t :=
    gives_of_service h (show exec .hostwin s = execHostwin s from rfl) ((if_neg h0).trans ((if_neg hno).trans hx))
  exact ⟨fun hc => hbody (if_pos hc), fun hc => hbody (if_neg (by rw [hc]; decide))⟩

/-! ## Measurement -/

theorem extend_gives (ha : 4 ≤ arg s 5) (ha' : arg s 5 ≤ 7) (hb : bufferOk s (arg s 6) 32 = true) :
    ∃ t, gives s .extend 0x68 0 t ∧ t.mem = s.mem ∧ ∀ m, s.boot.measure[arg s 5]? = some m →
      t.boot.measure[arg s 5]? = some (digestValue (sm3 (digestBytes m ++ memReadN s.mem (arg s 6) 32))) := by
  refine ⟨_, gives_of_service h (show exec .extend s = execExtend s from rfl) (if_neg ?_), rfl, fun m hm => ?_⟩
  · simp only [hb, not_true_eq_false, or_false]
    omega
  · have ha8 : arg s 5 < 8 := by omega
    have hset : (s.boot.measure.setIfInBounds (arg s 5) (digestValue (sm3 (digestBytes ((s.boot.measure[arg s 5]?).getD 0) ++
        memReadN s.mem (arg s 6) 32))))[arg s 5]? = some (digestValue (sm3 (digestBytes ((s.boot.measure[arg s 5]?).getD 0) ++
        memReadN s.mem (arg s 6) 32))) := by
      simp [ha8]
    rw [hm] at hset
    unfold extendMeasure
    rw [hm]
    exact hset

omit h in
theorem quoteBytes_length (mask : Nat) {nonce : List Byte} (hn : nonce.length = 32) : (quoteBytes s mask nonce).length = 368 := by
  have hdigest (i : Nat) : (if mask.testBit i then digestBytes ((s.boot.measure[i]?).getD 0) else List.replicate 32 0).length = 32 := by
    split <;> simp [digestBytes, bytesOfNat_length]
  simp only [quoteBytes, quoteBody, List.length_append, List.length_reverse, bytesOfNat_length, hn, List.length_flatMap, hdigest,
    List.map_const', List.sum_replicate, List.length_range]
  decide

theorem quote_gives (ha : bufferOk s (arg s 5) 32 = true) (hb : bufferOk s (arg s 6) 384 = true) :
    ∃ t, gives s .quote 0x69 0 t ∧ (s.memOk →
      memReadN t.mem (arg s 6) 368 = quoteBytes s (bits (rg s 7) 0 8) (memReadN s.mem (arg s 5) 32)) := by
  refine ⟨_, gives_of_service h (show exec .quote s = execQuote s from rfl) (if_neg (by rw [ha, hb]; decide)), fun hok => ?_⟩
  have hread := memReadN_agentWrite (arg s 6) (quoteBytes s (bits (rg s 7) 0 8) (memReadN s.mem (arg s 5) 32)) hok
  rwa [quoteBytes_length _ (by simp)] at hread

end

end

/-- Settles O42: a service that is called by its number, its caller's stores performed, ends as its body says
(`gives_of_serviceWhen`), and each body has its lemmas. -/
theorem serviceEffects : Obligations.ServiceEffects := by
  unfold Obligations.ServiceEffects
  intro s hcalled hlevel hperf a b c d answer hi
  have h1 : accepted 1 s := ⟨hcalled, hlevel, hperf⟩
  refine ⟨expand_range h1, expand_heap h1, fun hal hva hheap lvl e p hw => ⟨expand_step4 h1 hal hva hheap hw,
      expand_into h1 hal hva hheap hw⟩, dbgstop_range h1, fun ha hb ht => ⟨fun hg hact hcur =>
        dbgstop_here h1 ha hb ht ⟨rfl, hact, hg⟩ hcur, dbgstop_later h1 ha hb ht⟩, ?_, fun h2 => ?_⟩
  · intro pid ha hd hpid hbuf hready
    have hp : bindPid s = pid := bindPid_eq h1
    rw [← hp]
    exact ⟨groupbind_member h1 ha hd hpid hbuf hready, fun hm => ⟨groupbind_busy h1 ha hd hpid hbuf hready hm,
      groupbind_binds h1 ha hd hpid hbuf hready hm⟩⟩
  have h : accepted 2 s := ⟨hcalled, h2, hperf⟩
  refine ⟨rdcsize_range h, rdcsize_guests h, rdcsize_sets h, pool_gives h, zone_gives h, propose_gives h, runq_gives h,
    sapool_gives h, fun ha => (elect_gives h ha).1, fun ha => (elect_gives h ha).2, auditcfg_gives h, auditlog_gives h,
    audit_unknown h, fun r hr hrep => ⟨auditrun_refused h hr hrep, auditrun_runs h hr hrep, auditrule_gives h hr hrep⟩,
    quarantine_range h, quarantine_takes h, quarantine_hypervisor h, quarantine_restores h, ?_,
    fun ha => (routeset_end h ha).1, fun ha => (routeset_end h ha).2, routeset_route h, fun ha => (notify_gives h ha).1,
    fun ha => (notify_gives h ha).2, fun ha ha' hb hb' => hostvf_gives h ha ha' hb hb', hostwin_closes h, hostwin_opens h, extend_gives h, ?_⟩
  · exact ⟨catchUp_idle, rollcall_off h, rollcall_range h⟩
  · intro ha hb
    have hmask : c % 256 = bits (rg s 7) 0 8 := by simp [c, arg, bits]
    rw [hmask]
    exact quote_gives h ha hb

end Sys2Proof.Machine

/-! PROOFS. What the package knows of its agents, and what leaves it as it is (R367, R389 to R393). -/

namespace Sys2Proof.Machine

/-! ## What the package knows of its agents

Which dies are fenced off and live, which packages are dead, the incarnations, and what the boot firmware reports: only a
fence and a declaration of death change these. -/

/-- What the package knows of its agents. -/
def standing (s : State) : Vector Bool 4 × Vector Bool 4 × List Nat × List (Nat × Nat) × Word :=
  (s.rel.fenced, s.rel.live, s.rel.deadPkgs, s.rel.incarnation, s.boot.bootst)

/-- What a package is linked to others by: its messages and routes, and where its pages stand. -/
def outward (s : State) : Fabric × Xlat := (s.fab, s.xlat)

section

variable {s t : State}

theorem standing_of_eq (h : t.rel = s.rel) (h' : t.boot = s.boot) : standing t = standing s := by
  unfold standing
  rw [h, h']

theorem standing_foldl {α : Type} {f : State → α → State} (hf : ∀ t x, standing (f t x) = standing t) (l : List α)
    (s : State) : standing (l.foldl f s) = standing s :=
  List.foldlRecOn (motive := fun t : State => standing t = standing s) _ _ rfl fun t ht x _ => (hf t x).trans ht

theorem standing_ite {p : Prop} [Decidable p] {u : State} (ht : standing t = standing s) (hu : standing u = standing s) :
    standing (if p then t else u) = standing s := by
  split <;> assumption

theorem outward_foldl {α : Type} {f : State → α → State} (hf : ∀ t x, outward (f t x) = outward t) (l : List α)
    (s : State) : outward (l.foldl f s) = outward s :=
  List.foldlRecOn (motive := fun t : State => outward t = outward s) _ _ rfl fun t ht x _ => (hf t x).trans ht

/-! ### Contexts -/

theorem standing_setCore (n : Nat) (c : CoreSt) (s : State) : standing (setCore s n c) = standing s := by
  unfold setCore
  split <;> rfl

theorem outward_setCore (n : Nat) (c : CoreSt) (s : State) : outward (setCore s n c) = outward s := by
  unfold setCore
  split <;> rfl

theorem standing_setActive (n : Nat) (c : Ctx) (s : State) : standing (setActive s n c) = standing s := by
  unfold setActive
  split
  · rfl
  · exact standing_setCore ..

theorem outward_setActive (n : Nat) (c : Ctx) (s : State) : outward (setActive s n c) = outward s := by
  unfold setActive
  split
  · rfl
  · exact outward_setCore ..

theorem standing_clearActive (n : Nat) (s : State) : standing (clearActive s n) = standing s := by
  unfold clearActive
  split
  · rfl
  · exact standing_setCore ..

theorem standing_switchTo (n : Nat) (s : State) : standing (switchTo s n) = standing s := by
  unfold switchTo
  split <;> rfl

theorem standing_onContextAt (g : Word) (f : Ctx → Ctx) (s : State) (n : Nat) :
    standing (onContextAt g f s n) = standing s := by
  unfold onContextAt
  extract_lets s1
  have h1 : standing s1 = standing s := by
    unfold s1
    repeat' split
    · exact standing_setActive ..
    all_goals rfl
  repeat' split
  · exact (standing_setCore ..).trans h1
  all_goals exact h1

theorem outward_onContextAt (g : Word) (f : Ctx → Ctx) (s : State) (n : Nat) :
    outward (onContextAt g f s n) = outward s := by
  unfold onContextAt
  extract_lets s1
  have h1 : outward s1 = outward s := by
    unfold s1
    repeat' split
    · exact outward_setActive ..
    all_goals rfl
  repeat' split
  · exact (outward_setCore ..).trans h1
  all_goals exact h1

theorem standing_onContext (g : Word) (f : Ctx → Ctx) (s : State) : standing (onContext g f s) = standing s := by
  rw [onContext_eq]
  exact standing_foldl (standing_onContextAt g f) _ _

theorem outward_onContext (g : Word) (f : Ctx → Ctx) (s : State) : outward (onContext g f s) = outward s := by
  rw [onContext_eq]
  exact outward_foldl (outward_onContextAt g f) _ _

theorem standing_undefNames (n : Nat) (s : State) : standing (undefNames n s) = standing s := by
  rcases undefNames_cases n s with h | ⟨c, c', -, -, h⟩
  · rw [h]
  · rw [h, standing_setActive]

theorem standing_endOverlap (s : State) : standing (endOverlap s) = standing s :=
  (standing_undefNames ..).trans (standing_foldl (f := fun s x => undefNames x s) (fun t x => standing_undefNames x t) _ s)

theorem standing_onCore {f : State → State} (hf : ∀ t, standing (f t) = standing t) (n : Nat) (s : State) :
    standing (onCore n f s) = standing s :=
  (standing_switchTo ..).trans ((hf _).trans (standing_switchTo ..))

theorem standing_pendInt (core detail pid : Nat) (s : State) : standing (pendInt core detail pid s) = standing s := by
  unfold pendInt
  extract_lets c
  split
  · rfl
  · exact standing_setCore ..

theorem standing_vacate (g : Word) (s : State) : standing (vacate g s) = standing s := by
  refine standing_foldl (fun t n => ?_) coreNumbers s
  extract_lets v s1 _
  have hv : standing v = standing t := standing_onCore standing_endOverlap n t
  have h1 : standing s1 = standing t := by
    unfold s1
    repeat' split
    · exact (standing_clearActive ..).trans hv
    all_goals rfl
  repeat' split
  · exact (standing_setCore ..).trans h1
  all_goals exact h1

/-! ### Memory -/

theorem standing_agentWrite (pa : Nat) (d : List Byte) (s : State) : standing (agentWrite pa d s) = standing s := by
  obtain ⟨m, c, h⟩ := agentWrite_sameButMemory pa d s
  rw [h]
  rfl

theorem standing_storeWrite (g : Word) (pa : Nat) (d : List Byte) (m : Byte) (p f : Bool) (s : State) :
    standing (storeWrite g pa d m p f s) = standing s := by
  unfold storeWrite
  extract_lets t old
  split <;> rfl

theorem standing_loseStore (die : Nat) (g : Word) (pid pa : Nat) (s : State) :
    standing (loseStore die g pid pa s) = standing s := by
  unfold loseStore
  split
  · exact standing_onContext ..
  · split <;> rfl

theorem outward_loseStore (die : Nat) (g : Word) (pid pa : Nat) (s : State) :
    outward (loseStore die g pid pa s) = outward s := by
  unfold loseStore
  split
  · exact outward_onContext ..
  · split <;> rfl

theorem standing_sendStore (cmd : Option Nat) (e : SbEntry) (s : State) : standing (sendStore cmd e s) = standing s := by
  unfold sendStore
  split
  · rfl
  · exact standing_foldl (f := fun s (p : Nat × List Byte) => sendMsgFor none cmd (ownerOf s e.pa) e.gtid e.pid
      (.write p.1 p.2.length (BitVec.ofNat 64 (natOfBytes p.2))) e.poison
      (decide (e.data.length = 128 ∧ p.1 + p.2.length = e.pa + 128)) s) (fun _ _ => rfl) _ _

theorem standing_performStore (core : Nat) (e : SbEntry) (s : State) : standing (performStore core e s) = standing s := by
  unfold performStore performStoreBy
  extract_lets die line full s1 c1
  split
  · exact standing_loseStore ..
  split
  · exact standing_sendStore ..
  split
  · rfl
  split
  · exact standing_storeWrite ..
  · rfl

theorem standing_applyWt (die line : Nat) (s : State) : standing (applyWt die line s) = standing s := by
  unfold applyWt
  split
  · rfl
  extract_lets i s1
  split
  · unfold dropStale
    extract_lets pa dd s2
    split <;> rfl
  · exact standing_storeWrite ..

theorem standing_answerAtomic (g : Word) (x : Sent) (s : State) : standing (answerAtomic g x s) = standing s := by
  unfold answerAtomic
  split
  · rfl
  · exact standing_onContext ..

theorem outward_answerAtomic (g : Word) (x : Sent) (s : State) : outward (answerAtomic g x s) = outward s := by
  unfold answerAtomic
  split
  · rfl
  · exact outward_onContext ..

theorem standing_timeoutWayside (g : Word) (line : Nat) (s : State) : standing (timeoutWayside g line s) = standing s := by
  unfold timeoutWayside
  extract_lets i _ s1
  split
  · rfl
  split
  · rfl
  · exact standing_onContext ..

theorem outward_timeoutWayside (g : Word) (line : Nat) (s : State) : outward (timeoutWayside g line s) = outward s := by
  unfold timeoutWayside
  extract_lets i _ s1
  split
  · rfl
  split
  · rfl
  · exact outward_onContext ..

/-! ### Copy commands -/

theorem standing_failMember (code : Nat) (c : Cmd) (s : State) : standing (failMember code c s) = standing s := by
  unfold failMember
  split <;> rfl

theorem outward_failMember (code : Nat) (c : Cmd) (s : State) : outward (failMember code c s) = outward s := by
  unfold failMember
  split <;> rfl

theorem standing_loseWrite (cmd : Option Nat) (die : Nat) (g : Word) (pid pa : Nat) (s : State) :
    standing (loseWrite cmd die g pid pa s) = standing s := by
  unfold loseWrite
  extract_lets s1
  split
  · split
    · exact standing_failMember ..
    · rfl
  · exact standing_loseStore ..

theorem outward_loseWrite (cmd : Option Nat) (die : Nat) (g : Word) (pid pa : Nat) (s : State) :
    outward (loseWrite cmd die g pid pa s) = outward s := by
  unfold loseWrite
  extract_lets s1
  split
  · split
    · exact outward_failMember ..
    · rfl
  · exact outward_loseStore ..

theorem standing_abortCollective (grp id code : Nat) (except : Word) (s : State) :
    standing (abortCollective grp id code except s) = standing s :=
  standing_foldl (f := fun s c => failMember code c s) (fun t c => standing_failMember code c t) _ s

theorem outward_abortCollective (grp id code : Nat) (except : Word) (s : State) :
    outward (abortCollective grp id code except s) = outward s :=
  outward_foldl (f := fun s c => failMember code c s) (fun t c => outward_failMember code c t) _ s

theorem standing_tellAborts (s : State) : standing (tellAborts s) = standing s := by
  unfold tellAborts
  refine (standing_foldl (fun t x => ?_) _ _).trans ?_
  · dsimp only
    split <;> rfl
  · rfl

theorem standing_abortEverywhere (grp id code : Nat) (except : Word) (s : State) :
    standing (abortEverywhere grp id code except s) = standing s :=
  (standing_tellAborts _).trans (standing_abortCollective grp id code except s)

theorem standing_killCmds (g : Word) (code : Nat) (s : State) : standing (killCmds g code s) = standing s := by
  unfold killCmds
  extract_lets s1 s2 s3
  have h1 : standing s1 = standing s := standing_foldl (f := fun s c => loseCmd (decide (code = 9)) c s) (fun _ _ => rfl) _ s
  have h2 : standing s2 = standing s := standing_ite h1 h1
  have h3 : standing s3 = standing s := (standing_foldl (f := fun s (x : Nat × Nat) => abortEverywhere x.1 x.2 code g s)
    (fun t x => standing_abortEverywhere x.1 x.2 code g t) _ _).trans h2
  exact h3

/-! ### Threads -/

theorem standing_noteMember (g : Word) (f : Member → Member) (s : State) : standing (noteMember g f s) = standing s := by
  unfold noteMember
  split <;> rfl

theorem standing_releaseArea (pid area : Nat) (pooled : Bool) (s : State) :
    standing (releaseArea pid area pooled s) = standing s := by
  have h1 : standing (setAreaFlags area (areaFlags s area &&& ~~~(1#64 <<< 17)) s) = standing s := standing_agentWrite ..
  unfold releaseArea
  extract_lets f s1
  split
  · exact h1
  · refine standing_ite ?_ h1
    unfold ringGive
    extract_lets hd
    exact standing_ite h1 ((standing_agentWrite ..).trans ((standing_agentWrite ..).trans h1))

theorem standing_forgetAtomics (g : Word) (s : State) : standing (forgetAtomics g s) = standing s := rfl

theorem standing_withdrawSpawn (g : Word) (s : State) : standing (withdrawSpawn g s) = standing s := rfl

theorem standing_endThread (g : Word) (killed lost : Bool) (s : State) : standing (endThread g killed lost s) = standing s := by
  have h1 : standing (forgetAtomics g (vacate g (withdrawSpawn g s))) = standing s := by
    rw [standing_forgetAtomics, standing_vacate, standing_withdrawSpawn]
  unfold endThread
  generalize forgetAtomics g (vacate g (withdrawSpawn g s)) = s1 at h1
  extract_lets ctx t m _ _ _ _ s2 s3 pid areas
  clear_value t
  have h3 : standing s3 = standing s := by
    unfold s3
    split <;> exact h1
  exact (standing_foldl (f := fun s a => releaseArea pid a (decide (m.bind (·.area) = some a)) s)
    (fun t a => standing_releaseArea pid a _ t) _ _).trans h3

theorem standing_setRec (a st : Nat) (s : State) : standing (setRec a st s) = standing s := standing_agentWrite ..

theorem standing_killThread (g : Word) (lost : Bool) (s : State) : standing (killThread g lost s) = standing s := by
  unfold killThread
  extract_lets _ s1
  have h1 : standing s1 = standing s :=
    standing_foldl (f := fun s a => setRec a 0 s) (fun t a => standing_setRec a 0 t) _ _
  exact (standing_endThread ..).trans ((standing_killCmds ..).trans h1)

/-! ### A die that ends -/

theorem standing_containCmds (die : Nat) (s : State) : standing (containCmds die s) = standing s := by
  refine standing_foldl (fun t c => ?_) _ _
  extract_lets s1
  exact standing_ite (standing_abortEverywhere ..) rfl

theorem standing_dropReserved (die : Nat) (s : State) : standing (dropReserved die s) = standing s :=
  standing_foldl (f := fun s (r : Nat × Word) => noteMember r.2 (fun m => { m with place := none })
    { s with sched.reserved := s.sched.reserved.erase r }) (fun _ _ => standing_noteMember ..) _ _

theorem standing_dropRestores (die : Nat) (s : State) : standing (dropRestores die s) = standing s :=
  standing_foldl (f := fun s (r : Restore) => setRec r.record 1 s) (fun t r => standing_setRec r.record 1 t) _ s

theorem standing_scatterStores (die : Nat) (s : State) : standing (scatterStores die s) = standing s := by
  unfold scatterStores
  extract_lets entries s1 s2 mine s3
  have h1 : standing s1 = standing s := standing_foldl (fun t n => standing_ite (standing_setCore ..) rfl) _ _
  have h2 : standing s2 = standing s := by
    refine (standing_foldl (fun t x => standing_ite (standing_performStore ..) ?_) _ _).trans h1
    rfl
  have h3 : standing s3 = standing s := by
    refine (standing_foldl (fun t x => standing_ite rfl (standing_ite (standing_applyWt ..) ?_)) _ _).trans h2
    rfl
  clear_value s3
  exact h3

theorem standing_endOutstanding (dead : State → Nat → Bool) (s : State) : standing (endOutstanding dead s) = standing s := by
  unfold endOutstanding
  extract_lets lost _ s1 s2 s3 s4
  have h2 : standing s2 = standing s :=
    standing_foldl (f := fun s (w : WriteThrough) => loseWrite w.cmd w.die w.gtid w.pid w.pa s)
      (fun t w => standing_loseWrite w.cmd w.die w.gtid w.pid w.pa t) _ s1
  have h3 : standing s3 = standing s := (standing_foldl (f := fun s (c : Confirm) => timeoutWayside c.gtid c.line s)
    (fun t c => standing_timeoutWayside c.gtid c.line t) _ _).trans h2
  have h4 : standing s4 = standing s := (standing_foldl (f := fun s (q : AtomicReq) => answerAtomic q.gtid .atomicPoison s)
    (fun t q => standing_answerAtomic q.gtid .atomicPoison t) _ _).trans h3
  exact h4

theorem outward_endOutstanding (dead : State → Nat → Bool) (s : State) : outward (endOutstanding dead s) = outward s := by
  unfold endOutstanding
  extract_lets lost _ s1 s2 s3 s4
  have h2 : outward s2 = outward s :=
    outward_foldl (f := fun s (w : WriteThrough) => loseWrite w.cmd w.die w.gtid w.pid w.pa s)
      (fun t w => outward_loseWrite w.cmd w.die w.gtid w.pid w.pa t) _ s1
  have h3 : outward s3 = outward s := (outward_foldl (f := fun s (c : Confirm) => timeoutWayside c.gtid c.line s)
    (fun t c => outward_timeoutWayside c.gtid c.line t) _ _).trans h2
  have h4 : outward s4 = outward s := (outward_foldl (f := fun s (q : AtomicReq) => answerAtomic q.gtid .atomicPoison s)
    (fun t q => outward_answerAtomic q.gtid .atomicPoison t) _ _).trans h3
  exact h4

theorem standing_loseMaster (die : Nat) (s : State) : standing (loseMaster die s) = standing s := by
  unfold loseMaster
  refine standing_ite rfl ?_
  extract_lets host s1
  refine standing_ite rfl ?_
  exact standing_pendInt ..

end

end Sys2Proof.Machine

/-! PROOFS. Errors, audits, and what is left when a die or a package no longer answers (R367, R370, R371, R382, R383,
R387 to R392). -/

namespace Sys2Proof.Machine

section

variable {s t : State} {die : Nat}

/-! ## A die that is fenced off -/

theorem poisonedLine_foldl (lines : List Nat) (c : Coh) (k : Nat) :
    poisonedLine (lines.foldl (fun c l => poisonLine l c) c) k = true ↔ k ∈ lines ∨ poisonedLine c k = true := by
  induction lines generalizing c with
  | nil => simp
  | cons l lines ih => rw [List.foldl_cons, ih, poisonedLine_poisonLine, List.mem_cons, or_left_comm, or_assoc]

theorem poisonLine_keeps (l : Nat) (c : Coh) :
    (poisonLine l c).copies = c.copies ∧ (poisonLine l c).tokens = c.tokens := by
  unfold poisonLine
  split <;> exact ⟨rfl, rfl⟩

theorem foldl_poisonLine_keeps (lines : List Nat) (c : Coh) :
    (lines.foldl (fun c l => poisonLine l c) c).copies = c.copies ∧
      (lines.foldl (fun c l => poisonLine l c) c).tokens = c.tokens :=
  List.foldlRecOn (motive := fun d : Coh => d.copies = c.copies ∧ d.tokens = c.tokens) _ _ ⟨rfl, rfl⟩ fun _ hd _ _ =>
    ⟨(poisonLine_keeps ..).1.trans hd.1, (poisonLine_keeps ..).2.trans hd.2⟩

theorem coh_setCore (n : Nat) (c : CoreSt) (s : State) : (setCore s n c).coh = s.coh := by
  unfold setCore
  split <;> rfl

theorem coh_loseMaster (die : Nat) (s : State) : (loseMaster die s).coh = s.coh := by
  unfold loseMaster
  split
  · rfl
  extract_lets host s1
  split
  · rfl
  unfold pendInt
  extract_lets c
  split
  · rfl
  · exact coh_setCore ..

theorem standing_scrub (ag : Agent) (lines : List Nat) (s : State) : standing (scrub ag lines s) =
    (s.rel.fenced, s.rel.live, s.rel.deadPkgs,
      (agentKey ag, (incOf s ag + 1) % 65536) :: s.rel.incarnation.filter (fun e => decide (e.1 ≠ agentKey ag)),
      s.boot.bootst) := rfl

/-- A die may not be fenced off: there is none, or it is already (R389). -/
def fenceRefused (die : Nat) (s : State) : Prop := die > 3 ∨ (s.rel.fenced[die]?).getD true = true

theorem fenceDie_refused (h : fenceRefused die s) : fenceDie die s = s := if_pos h

/-- What a fence comes to: the scrub of the lines the die held, with what it held in the tables gone, the die recorded as
fenced off, and its bit of `BOOTST` clear (R389, R391). -/
theorem fenceDie_scrubs (h : ¬ fenceRefused die s) : ∃ u c,
    fenceDie die s = loseMaster die (scrub (.die die) (heldBy s die) u) ∧ u.coh = forgetDie die c ∧
    standing u = (s.rel.fenced.setIfInBounds die true, s.rel.live, s.rel.deadPkgs, s.rel.incarnation,
      putBits s.boot.bootst (4 + die) 1 0) := by
  have hopen : ¬ (die > 3 ∨ (s.rel.fenced[die]?).getD true = true) := h
  unfold fenceDie
  rw [if_neg hopen]
  extract_lets lines s1 s2 _ _ s3 s4
  have h1 : standing s1 = standing s := by
    unfold s1
    rw [standing_dropReserved, standing_dropRestores, standing_containCmds]
    exact standing_foldl (f := fun s g => killThread g true s) (fun t g => standing_killThread g true t) _ s
  have h2 : standing s2 = standing s := (standing_scatterStores ..).trans h1
  clear_value s2
  have h3 : standing s3 = (s.rel.fenced.setIfInBounds die true, s.rel.live, s.rel.deadPkgs, s.rel.incarnation,
      putBits s.boot.bootst (4 + die) 1 0) := by
    simp only [standing, Prod.mk.injEq] at h2
    obtain ⟨hf, hl, hd, hi, hb⟩ := h2
    rw [← hf, ← hl, ← hd, ← hi, ← hb]
    rfl
  have h4 : standing s4 = standing s3 := standing_endOutstanding _ s3
  clear_value s4
  exact ⟨_, s4.coh, rfl, rfl, h4.trans h3⟩

/-- What a fence leaves. -/
theorem fenceDie_leaves (hd : die ≤ 3) (hf : s.rel.fenced[die]? = some false) :
    dieLive (fenceDie die s) die = false ∧ (fenceDie die s).boot.bootst.getLsbD (4 + die) = false ∧
      (∀ x ∈ (fenceDie die s).coh.copies, x.die ≠ die) ∧ (∀ x ∈ (fenceDie die s).coh.tokens, x.die ≠ die) ∧
      (∀ l ∈ heldBy s die, poisonedLine (fenceDie die s).coh l = true) ∧
      incOf (fenceDie die s) (.die die) = (incOf s (.die die) + 1) % 65536 := by
  have hopen : ¬ fenceRefused die s := by
    rintro (h | h)
    · omega
    · rw [hf] at h
      cases h
  obtain ⟨u, c, hfence, hcoh, hu⟩ := fenceDie_scrubs hopen
  simp only [standing, Prod.mk.injEq] at hu
  obtain ⟨hfenced, -, -, hinc, hboot⟩ := hu
  have hstand := (standing_loseMaster die (scrub (.die die) (heldBy s die) u)).trans (standing_scrub ..)
  have htables := coh_loseMaster die (scrub (.die die) (heldBy s die) u)
  rw [← hfence] at hstand htables
  have hscrub : (scrub (.die die) (heldBy s die) u).coh = (heldBy s die).foldl (fun c l => poisonLine l c) u.coh := rfl
  obtain ⟨hcopies, htokens⟩ := foldl_poisonLine_keeps (heldBy s die) u.coh
  rw [hscrub] at htables
  generalize fenceDie die s = t at hstand htables ⊢
  simp only [standing, Prod.mk.injEq] at hstand
  obtain ⟨tfenced, -, -, tinc, tboot⟩ := hstand
  have hsame : incOf u (.die die) = incOf s (.die die) := by
    unfold incOf
    rw [hinc]
  refine ⟨?_, ?_, fun x hx => ?_, fun x hx => ?_, fun l hl => ?_, ?_⟩
  · have hdie : die < 4 := by omega
    rw [dieLive, tfenced, hfenced]
    simp [hdie]
  · rw [tboot, hboot, getLsbD_putBits_zero]
    simp
  · rw [htables, hcopies, hcoh] at hx
    simpa using (List.mem_filter.1 hx).2
  · rw [htables, htokens, hcoh] at hx
    simpa using (List.mem_filter.1 hx).2
  · rw [htables]
    exact (poisonedLine_foldl ..).2 (.inl hl)
  · rw [incOf, tinc, List.find?_cons_of_pos (by simp), hsame]
    rfl

/-- Which dies are live after a fence. -/
theorem dieLive_fenceDie (die : Nat) (s : State) (d : Nat) :
    dieLive (fenceDie die s) d = (dieLive s d && decide (d ≠ die)) := by
  by_cases h : fenceRefused die s
  · rw [fenceDie_refused h]
    by_cases hd : d = die
    · subst hd
      have hdead : dieLive s d = false := by
        rcases h with h | h
        · have hnone : s.rel.live[d]? = none := by simp; omega
          rw [dieLive, hnone]
          rfl
        · have hfenced : (s.rel.fenced[d]?).getD false = true ∨ s.rel.live[d]? = none := by
            cases hx : s.rel.fenced[d]? with
            | none => exact .inr (by simpa using hx)
            | some b =>
              rw [hx] at h
              exact .inl h
          rcases hfenced with hx | hx
          · rw [dieLive, hx]
            simp
          · rw [dieLive, hx]
            rfl
      simp [hdead]
    · simp [hd]
  · obtain ⟨u, c, hfence, -, hu⟩ := fenceDie_scrubs h
    simp only [standing, Prod.mk.injEq] at hu
    obtain ⟨hfenced, hlive, -, -, -⟩ := hu
    have hstand := (standing_loseMaster die (scrub (.die die) (heldBy s die) u)).trans (standing_scrub ..)
    rw [← hfence] at hstand
    generalize fenceDie die s = t at hstand ⊢
    simp only [standing, Prod.mk.injEq] at hstand
    obtain ⟨tfenced, tlive, -⟩ := hstand
    have hdie : die < 4 := by
      by_contra hno
      exact h (.inl (by omega))
    rw [dieLive, dieLive, tfenced, tlive, hfenced, hlive]
    by_cases hd : d = die
    · subst hd
      simp [hdie]
    · simp [hd, Ne.symm hd]

theorem dieLive_fenceAll (d : Nat) (hd : d < 4) : dieLive ((List.range 4).foldl (fun s d => fenceDie d s) s) d = false :=
  foldl_reaches (f := fun s d => fenceDie d s) (P := fun t : State => dieLive t d = false) (a := d)
    (fun t k ht => by rw [dieLive_fenceDie, ht, Bool.false_and]) (List.mem_range.2 hd)
    (fun t => by simp [dieLive_fenceDie]) s

/-- A die that sends under an old incarnation fences itself off (R391). -/
theorem exec_staleMessage_die {line inc : Nat} (h : inc < incOf s (.die die)) :
    exec (.staleMessage (.die die) line inc) s = .next (fenceDie die (dropStale (.die die) (some line) s)) := by
  show execStaleMessage (.die die) line inc s = _
  unfold execStaleMessage
  rw [if_neg (by simp), if_neg (Nat.not_le.2 h)]

/-! ## A package that is declared dead -/

/-- What a declaration of death leaves (R391 to R393). -/
theorem loseAgent_leaves (p : Nat) : p ∈ (loseAgent p s).rel.deadPkgs ∧ (∀ m ∈ (loseAgent p s).fab.msgs, m.dst ≠ p) ∧
    (∀ e ∈ (loseAgent p s).xlat.handOvers, e.2 ≠ p) ∧
    incOf (loseAgent p s) (.package p) = (incOf s (.package p) + 1) % 65536 := by
  unfold loseAgent
  extract_lets frames lines lost s1 _ _ _ _ s2 s3 asked s3' s4
  have hkept : standing s4 = standing s2 ∧ outward s4 = outward s2 := by
    have h3 : standing s3 = standing s2 ∧ outward s3 = outward s2 :=
      ⟨standing_foldl (f := fun t (m : Msg) => loseWrite m.cmd t.die m.gtid m.pid (msgAddr m) t)
        (fun t m => standing_loseWrite m.cmd t.die m.gtid m.pid (msgAddr m) t) _ _,
       outward_foldl (f := fun t (m : Msg) => loseWrite m.cmd t.die m.gtid m.pid (msgAddr m) t)
        (fun t m => outward_loseWrite m.cmd t.die m.gtid m.pid (msgAddr m) t) _ _⟩
    have h3' : standing s3' = standing s3 ∧ outward s3' = outward s3 :=
      ⟨standing_foldl (f := fun t (m : Msg) => answerAtomic m.gtid .atomicPoison t)
        (fun t m => standing_answerAtomic m.gtid .atomicPoison t) _ _,
       outward_foldl (f := fun t (m : Msg) => answerAtomic m.gtid .atomicPoison t)
        (fun t m => outward_answerAtomic m.gtid .atomicPoison t) _ _⟩
    have h4 : standing s4 = standing s3' ∧ outward s4 = outward s3' :=
      ⟨standing_foldl (f := fun t (x : Nat × Nat) => abortCollective x.1 x.2 9 0 t)
        (fun t x => standing_abortCollective x.1 x.2 9 0 t) _ _,
       outward_foldl (f := fun t (x : Nat × Nat) => abortCollective x.1 x.2 9 0 t)
        (fun t x => outward_abortCollective x.1 x.2 9 0 t) _ _⟩
    exact ⟨h4.1.trans (h3'.1.trans h3.1), h4.2.trans (h3'.2.trans h3.2)⟩
  have hstand := (standing_endOutstanding (fun s pa => decide (ownerOf s pa = p)) s4).trans hkept.1
  have hout := (outward_endOutstanding (fun s pa => decide (ownerOf s pa = p)) s4).trans hkept.2
  clear hkept
  generalize endOutstanding (fun s pa => decide (ownerOf s pa = p)) s4 = t at hstand hout ⊢
  simp only [standing, outward, Prod.mk.injEq] at hstand hout
  obtain ⟨-, -, hdead, hinc, -⟩ := hstand
  obtain ⟨hfab, hxlat⟩ := hout
  rw [hdead, hfab, hxlat, incOf, hinc]
  refine ⟨List.mem_cons_self, fun m hm => ?_, fun e he => ?_, ?_⟩
  · simpa using (List.mem_filter.1 hm).2
  · simpa using (List.mem_filter.1 he).2
  · show ((List.find? _ (_ :: _)).map Prod.snd).getD 0 = _
    rw [List.find?_cons_of_pos (by simp)]
    rfl

/-! ## Audits -/

theorem auditAt_eq_none {l : List AuditRec} {num : Nat} (h : t.rel.audits = l.filter (fun x => decide (x.seq ≠ num))) :
    auditAt t num = none := by
  rw [auditAt, h]
  exact List.find?_eq_none.2 fun x hx => by simpa using (List.mem_filter.1 hx).2

theorem auditAt_dropAudit (num : Nat) (s : State) : auditAt (dropAudit num s) num = none := auditAt_eq_none (l := s.rel.audits) rfl

/-- A record that takes the place of one with its number is found by it. -/
theorem find?_replaced {num : Nat} {r r' : AuditRec} {l : List AuditRec} (h : l.find? (fun x => decide (x.seq = num)) = some r)
    (hseq : r'.seq = num) :
    (l.map (fun x => if x.seq = r'.seq then r' else x)).find? (fun x => decide (x.seq = num)) = some r' := by
  induction l with
  | nil => cases h
  | cons x l ih =>
    rw [List.map_cons]
    by_cases hx : x.seq = num
    · rw [if_pos (hx.trans hseq.symm), List.find?_cons_of_pos (by simpa using hseq)]
    · rw [List.find?_cons_of_neg (by simpa using hx)] at h
      rw [if_neg (fun h' => hx (h'.trans hseq)), List.find?_cons_of_neg (by simpa using hx)]
      exact ih h

theorem auditAt_putAudit {num : Nat} {r r' : AuditRec} (h : auditAt s num = some r) (hseq : r'.seq = num) :
    auditAt (putAudit r' s) num = some r' := find?_replaced h hseq

theorem seq_of_auditAt {num : Nat} {r : AuditRec} (h : auditAt s num = some r) : r.seq = num := by
  simpa using List.find?_some h

theorem putReport_keeps (r : AuditRec) (s : State) : (putReport r s).rel.audits = s.rel.audits ∧ (putReport r s).eng = s.eng ∧
    (putReport r s).rel.reports.any (fun x => decide (x.seq = r.seq)) = true := by
  unfold putReport
  split
  next h =>
    refine ⟨rfl, rfl, ?_⟩
    obtain ⟨x, hx, hseq⟩ := List.any_eq_true.1 h
    refine List.any_eq_true.2 ⟨r, List.mem_map.2 ⟨x, hx, if_pos (of_decide_eq_true hseq)⟩, by simp⟩
  next => exact ⟨rfl, rfl, by simp⟩

theorem rel_setCore (n : Nat) (c : CoreSt) (s : State) : (setCore s n c).rel = s.rel := by
  unfold setCore
  split <;> rfl

theorem rel_pendInt (core detail pid : Nat) (s : State) : (pendInt core detail pid s).rel = s.rel := by
  unfold pendInt
  extract_lets c
  split
  · rfl
  · exact rel_setCore ..

theorem rel_onContext (g : Word) (f : Ctx → Ctx) (s : State) : (onContext g f s).rel = s.rel := by
  obtain ⟨-, -, hrel, -⟩ := bootKept_onContext g f s
  exact hrel

theorem eng_onContext (g : Word) (f : Ctx → Ctx) (s : State) : (onContext g f s).eng = s.eng := by
  rw [onContext_eq]
  refine List.foldlRecOn (motive := fun t : State => t.eng = s.eng) _ _ rfl fun t ht n _ => ?_
  unfold onContextAt
  extract_lets s1
  have h1 : s1.eng = s.eng := by
    unfold s1
    repeat' split
    · exact (setActive_eng _).trans ht
    all_goals exact ht
  repeat' split
  · exact (setCore_eng _).trans h1
  all_goals exact h1

theorem reportAudit_keeps (code : Nat) (g pc : Word) (s : State) :
    (reportAudit code g pc s).rel.audits = s.rel.audits ∧ (reportAudit code g pc s).eng = s.eng := by
  unfold reportAudit
  split
  · exact ⟨by rw [rel_onContext], eng_onContext ..⟩
  · split <;> exact ⟨rfl, rfl⟩

theorem suspectEngine_suspects {n : Nat} (pid : Nat) (hn : n < 128) (s : State) :
    (engineAt (suspectEngine n pid s) n).suspect = true := by
  have h := engineAt_setEngine_same (s := s) { engineAt s n with suspect := true } hn
  exact congrArg Engine.suspect h

theorem rel_quarantine (n : Nat) (s : State) : (quarantine n s).rel = s.rel := by
  obtain ⟨-, -, hrel, -⟩ := bootKept_quarantine n s
  exact hrel

theorem engineAt_setEngine_other {m n : Nat} (e : Engine) (h : m ≠ n) (s : State) :
    engineAt (setEngine n e s) m = engineAt s m := by
  simp [engineAt, setEngine, Ne.symm h]

/-- Taking an engine out of service returns none to it. -/
theorem quarantined_keeps (k m : Nat) (h : (engineAt s m).quarantined = true) :
    (engineAt (quarantine k s) m).quarantined = true := by
  unfold quarantine
  split
  · exact h
  next hk =>
    extract_lets hit s1
    have h1 : s1.eng = s.eng := List.foldlRecOn (motive := fun t : State => t.eng = s.eng) _ _ rfl
      fun t ht g _ => (eng_onContext ..).trans ht
    have hkm : m ≠ k := by
      rintro rfl
      exact hk h
    rw [engineAt, eng_undefCluster, ← engineAt, engineAt_setEngine_other _ hkm, engineAt, h1]
    exact h

theorem quarantined_foldl {l : List Nat} {m : Nat} (hm : m ∈ l) (hn : m < 128) (s : State) :
    (engineAt (l.foldl (fun s n => quarantine n s) s) m).quarantined = true :=
  foldl_reaches (f := fun s n => quarantine n s) (P := fun t : State => (engineAt t m).quarantined = true) (a := m)
    (fun t k ht => quarantined_keeps (s := t) k m ht) hm (fun t => quarantined_quarantine (s := t) hn) s

/-- Whatever its outcome, an audit that is settled ends (R383). -/
theorem settleAudit_ends (code : Nat) (r : AuditRec) (s : State) : auditAt (settleAudit code r s) r.seq = none := by
  have hput : (putReport { r with outcome := code } (dropAudit r.seq s)).rel.audits =
      s.rel.audits.filter (fun x => decide (x.seq ≠ r.seq)) := (putReport_keeps ..).1
  unfold settleAudit
  extract_lets s1
  refine auditAt_eq_none (l := s.rel.audits) ?_
  split
  · exact (reportAudit_keeps ..).1.trans hput
  · refine (reportAudit_keeps ..).1.trans ?_
    exact List.foldlRecOn (motive := fun t : State => t.rel.audits = _) _ _ hput fun t ht n _ => by rw [rel_quarantine, ht]
  · split <;> exact hput

theorem settleAudit_original {r : AuditRec} (h : r.orig < 128) (s : State) :
    (engineAt (settleAudit 1 r s) r.orig).suspect = true := by
  have heng : (settleAudit 1 r s).eng =
      (suspectEngine r.orig r.pid (putReport { r with outcome := 1 } (dropAudit r.seq s))).eng := (reportAudit_keeps ..).2
  rw [engineAt, heng]
  exact suspectEngine_suspects r.pid h _

theorem settleAudit_replay {r : AuditRec} {n : Nat} (hr : r.replay = some n) (h : n < 128) (s : State) :
    (engineAt (settleAudit 3 r s) n).suspect = true := by
  unfold settleAudit
  rw [hr]
  exact suspectEngine_suspects r.pid h _

theorem settleAudit_all {r : AuditRec} {m : Nat} (hm : m ∈ [r.orig] ++ r.replay.toList ++ r.third.toList) (h : m < 128)
    (s : State) : (engineAt (settleAudit 2 r s) m).quarantined = true := by
  have heng : (settleAudit 2 r s).eng = (([r.orig] ++ r.replay.toList ++ r.third.toList).foldl (fun s n => quarantine n s)
      (putReport { r with outcome := 2 } (dropAudit r.seq s))).eng := (reportAudit_keeps ..).2
  rw [engineAt, heng]
  exact quarantined_foldl hm h _

section
variable {num eng : Nat} {r : AuditRec}

theorem exec_audit_unknown (h : auditAt s num = none) : exec (.auditReplay num eng) s = .next s ∧
    exec (.auditTieBreak num eng) s = .next s ∧ exec (.auditTimeout num) s = .next s := by
  refine ⟨?_, ?_, ?_⟩
  · show execAuditReplay num eng s = _
    rw [execAuditReplay, h]
  · show execAuditTieBreak num eng s = _
    rw [execAuditTieBreak, h]
  · show execAuditTimeout num s = _
    rw [execAuditTimeout, h]

variable (h : auditAt s num = some r)
include h

theorem exec_auditReplay_idle (hno : r.replay.isSome = true ∨ mayReplay s r eng = false) :
    exec (.auditReplay num eng) s = .next s := by
  show execAuditReplay num eng s = _
  rw [execAuditReplay, h]
  refine if_pos ?_
  rcases hno with hno | hno <;> simp [hno]

/-- The record of a replay that does not agree (R383, R387). -/
def replayed (r : AuditRec) (eng : Nat) (sig : Word) (reported : Bool) : AuditRec :=
  { r with replay := some eng, sigs := r.sigs.take 1 ++ [sig], reported := reported }

theorem exec_auditReplay (hr : r.replay = none) (hm : mayReplay s r eng = true) :
    ∃ t, exec (.auditReplay num eng) s = .next t ∧
      (r.sigs[0]? = some (replayOn eng r.op s).1 → auditAt t num = none) ∧
      (r.sigs[0]? ≠ some (replayOn eng r.op s).1 → ∃ r', auditAt t num = some r' ∧ r'.replay = some eng ∧ r'.orig = r.orig ∧
        r'.reported = (r.reported || s.modes.getLsbD 4) ∧
        (s.modes.getLsbD 4 = true → t.rel.reports.any (fun x => decide (x.seq = num)) = true)) := by
  have hseq := seq_of_auditAt h
  have hgo : ¬ (r.replay.isSome || !mayReplay s r eng) = true := by simp [hr, hm]
  have hs1 : auditAt (replayOn eng r.op s).2 num = some r := h
  have hexec : execAuditReplay num eng s = .next (
      if r.sigs[0]? = some (replayOn eng r.op s).1 then dropAudit num (replayOn eng r.op s).2
      else if !s.modes.getLsbD 4 then
        putAudit (replayed r eng (replayOn eng r.op s).1 r.reported) (replayOn eng r.op s).2
      else
        let s2 := putReport (replayed r eng (replayOn eng r.op s).1 true)
          (putAudit (replayed r eng (replayOn eng r.op s).1 true) (replayOn eng r.op s).2)
        (proposeCore s2 r.pid).elim s2 (fun core => pendInt core 0x0006 0 s2)) := by
    rw [execAuditReplay, h]
    refine (if_neg hgo).trans ?_
    dsimp only
    split
    · rfl
    split
    · rfl
    · unfold replayed
      generalize putReport _ _ = s2
      cases proposeCore s2 r.pid <;> rfl
  refine ⟨_, hexec, fun hsig => ?_, fun hsig => ?_⟩
  · rw [if_pos hsig]
    exact auditAt_dropAudit ..
  · rw [if_neg hsig]
    cases hmode : s.modes.getLsbD 4
    · refine ⟨_, auditAt_putAudit hs1 hseq, rfl, rfl, (Bool.or_false _).symm, fun hc => by cases hc⟩
    · rw [if_neg (by decide)]
      extract_lets s2
      have hlast : ((proposeCore s2 r.pid).elim s2 (fun core => pendInt core 0x0006 0 s2)).rel = s2.rel := by
        cases proposeCore s2 r.pid with
        | none => rfl
        | some core =>
          exact rel_pendInt ..
      obtain ⟨haud, -, hrep⟩ := putReport_keeps (replayed r eng (replayOn eng r.op s).1 true)
        (putAudit (replayed r eng (replayOn eng r.op s).1 true) (replayOn eng r.op s).2)
      rw [auditAt, hlast, haud]
      have hput := auditAt_putAudit (r' := replayed r eng (replayOn eng r.op s).1 true) hs1 hseq
      refine ⟨_, hput, rfl, rfl, (Bool.or_true _).symm, fun _ => ?_⟩
      have hnum : (replayed r eng (replayOn eng r.op s).1 true).seq = num := hseq
      rwa [hnum] at hrep

theorem exec_auditTieBreak_idle (hno : r.replay = none ∨ r.reported = true ∨ mayBreak s r eng = false) :
    exec (.auditTieBreak num eng) s = .next s := by
  show execAuditTieBreak num eng s = _
  rw [execAuditTieBreak, h]
  refine if_pos ?_
  rcases hno with hno | hno | hno <;> simp [hno]

theorem exec_auditTieBreak {n : Nat} (hr : r.replay = some n) (hrep : r.reported = false) (hm : mayBreak s r eng = true)
    (ho : r.orig < 128) (hn : n < 128) : ∃ t, exec (.auditTieBreak num eng) s = .next t ∧ auditAt t num = none ∧
      (r.sigs[1]? = some (replayOn eng r.op s).1 → (engineAt t r.orig).suspect = true) ∧
      (r.sigs[1]? ≠ some (replayOn eng r.op s).1 → r.sigs[0]? = some (replayOn eng r.op s).1 →
        (engineAt t n).suspect = true) ∧
      (r.sigs[1]? ≠ some (replayOn eng r.op s).1 → r.sigs[0]? ≠ some (replayOn eng r.op s).1 →
        ∀ m ∈ [r.orig, n, eng], (engineAt t m).quarantined = true) := by
  have hgo : ¬ (r.replay.isNone || r.reported || !mayBreak s r eng) = true := by simp [hr, hrep, hm]
  have heng : eng < 128 := by
    simp only [mayBreak, Bool.and_eq_true, decide_eq_true_eq] at hm
    exact hm.1.1.1.1
  have hexec : execAuditTieBreak num eng s = .next (settleAudit (auditOutcome r (replayOn eng r.op s).1)
      { r with third := some eng, sigs := r.sigs.take 2 ++ [(replayOn eng r.op s).1] } (replayOn eng r.op s).2) := by
    rw [execAuditTieBreak, h]
    exact if_neg hgo
  refine ⟨_, hexec, ?_, fun h1 => ?_, fun h1 h0 => ?_, fun h1 h0 m hmem => ?_⟩
  · rw [← seq_of_auditAt h]
    exact settleAudit_ends _ { r with third := some eng, sigs := r.sigs.take 2 ++ [(replayOn eng r.op s).1] } _
  · rw [auditOutcome, if_pos h1]
    exact settleAudit_original (r := { r with third := some eng, sigs := r.sigs.take 2 ++ [(replayOn eng r.op s).1] }) ho _
  · rw [auditOutcome, if_neg h1, if_pos h0]
    exact settleAudit_replay (r := { r with third := some eng, sigs := r.sigs.take 2 ++ [(replayOn eng r.op s).1] }) hr hn _
  · rw [auditOutcome, if_neg h1, if_neg h0]
    refine settleAudit_all (r := { r with third := some eng, sigs := r.sigs.take 2 ++ [(replayOn eng r.op s).1] }) ?_ ?_ _
    · simpa [hr] using hmem
    · simp only [List.mem_cons, List.not_mem_nil, or_false] at hmem
      rcases hmem with rfl | rfl | rfl <;> assumption

theorem exec_auditTimeout_reported (hr : r.reported = true) : exec (.auditTimeout num) s = .next s := by
  show execAuditTimeout num s = _
  rw [execAuditTimeout, h]
  exact if_pos hr

theorem exec_auditTimeout (hr : r.reported = false) : ∃ t, exec (.auditTimeout num) s = .next t ∧ auditAt t num = none ∧
    t.rel.log = s.rel.log ++ [⟨BitVec.ofNat 64 s.cyc, 4, r.die, r.pid, 0, 1⟩] := by
  refine ⟨logEvent 4 r.die r.pid 0 1 (dropAudit num s), ?_, auditAt_dropAudit num s, rfl⟩
  show execAuditTimeout num s = _
  rw [execAuditTimeout, h]
  exact if_neg (Bool.eq_false_iff.1 hr)

end

/-! ## Errors -/

section
variable {core idx : Nat} {f : Ctx → Ctx}

theorem bankError_active (hact : s.core.act = true) : (bankError s.cur false f s).ctx = f s.ctx := by
  have hbank : bankOf s s.cur false = some s.ctx := by simp [bankOf, activeOf, hact]
  unfold bankError
  rw [hbank]
  show (setActive s s.cur (f s.ctx)).ctx = _
  rw [setActive, if_pos rfl]

theorem bankError_lodged {c : Ctx} (hc : (getCore s core).lodge = some c) :
    (getCore (bankError core true f s) core).lodge = some (f c) := by
  have hbank : bankOf s core true = some c := hc
  unfold bankError
  rw [hbank]
  show (getCore (setCore s core { getCore s core with lodge := some (f c) }) core).lodge = _
  rw [getCore_setCore_same]

theorem getLsbD_or_bit (w : Word) (h : idx < 64) : (w ||| (1#64 <<< idx)).getLsbD idx = true := by
  simp [h]

theorem poisonReg_g (c : Ctx) (h : idx < 64) :
    (decide (idx ≠ 0) && (poisonReg 0 idx c).aux.poison.g.getLsbD idx) = decide (idx ≠ 0) := by
  have hreg : poisonReg 0 idx c =
      if idx = 0 then c else { c with aux.poison.g := c.aux.poison.g ||| (1#64 <<< idx) } := rfl
  by_cases h0 : idx = 0
  · simp [h0]
  · rw [hreg, if_neg h0]
    dsimp only
    rw [getLsbD_or_bit _ h, Bool.and_true]

theorem poisonReg_f (c : Ctx) (h : idx < 64) : (poisonReg 1 idx c).aux.poison.f.getLsbD idx = true :=
  getLsbD_or_bit _ h

theorem poisonReg_ctl (c : Ctx) : (poisonReg 4 idx c).aux.poison.ctl.contains idx = true := by
  have hreg : poisonReg 4 idx c =
      if c.aux.poison.ctl.contains idx then c else { c with aux.poison.ctl := idx :: c.aux.poison.ctl } := rfl
  rw [hreg]
  split
  next h => exact h
  next => exact List.contains_iff_mem.2 List.mem_cons_self

theorem poisonReg_regs (file : Nat) (c : Ctx) : (poisonReg file idx c).regs = c.regs := by
  unfold poisonReg
  repeat' split
  all_goals rfl

/-! ### Tiles and accumulators -/

theorem tile_lt {c : Ctx} {name band row : Nat} (h : row < (tileBand (c.tile name) band).rows.length) : name < 16 := by
  by_contra hno
  have hnone : c.tile name = [] := by
    have h16 : c.t[name]? = none := by simp; omega
    rw [Ctx.tile, h16]
    rfl
  rw [hnone] at h
  exact absurd h (by simp [tileBand, Tile.empty])

theorem acc_lt {c : Ctx} {name : Nat} (h : (c.acc name).tag ≠ .empty) : name < 8 := by
  by_contra hno
  have h8 : c.c[name]? = none := by simp; omega
  rw [Ctx.acc, h8] at h
  exact h rfl

theorem acc_setIfInBounds (c : Ctx) {name : Nat} (a : Acc) (h : name < 8) :
    ({ c with c := c.c.setIfInBounds name a } : Ctx).acc name = a := by
  simp [Ctx.acc, h]

variable {name band row col : Nat}

theorem poisonName_tile {c : Ctx} (h : row < (tileBand (c.tile name) band).rows.length) :
    row ∈ (tileBand ((poisonName false name band row c).tile name) band).bad := by
  have hset (x : Tile) : tileBand ((setTileBand name band x c).tile name) band = x := by
    have hname := tile_lt h
    have htile : (setTileBand name band x c).tile name = setPad Tile.empty band x (c.tile name) := by
      simp [setTileBand, Ctx.tile, hname]
    rw [htile, tileBand, getElem?_setPad_same]
    rfl
  unfold poisonName
  rw [if_neg (by decide)]
  extract_lets x
  rw [if_neg (Nat.not_le.2 h), hset]
  exact List.mem_cons_self

theorem poisonName_acc {c : Ctx} (htag : (c.acc name).tag ≠ .empty) (hrow : row < (c.acc name).rext)
    (hband : band < c.aux.gang) : (band, row) ∈ ((poisonName true name band row c).acc name).bad := by
  have hno : ¬ ((c.acc name).tag = .empty ∨ row ≥ (c.acc name).rext ∨ band ≥ c.aux.gang) := by
    rintro (h | h | h)
    · exact htag h
    · omega
    · omega
  unfold poisonName
  rw [if_pos rfl]
  extract_lets x
  rw [if_neg hno, acc_setIfInBounds _ _ (acc_lt htag)]
  exact List.mem_cons_self

theorem poisonCell_cell {c : Ctx} (htag : (c.acc name).tag = .int) (hrow : row < (c.acc name).rext)
    (hcol : col < (c.acc name).cext) (hband : band < c.aux.gang)
    (hcell : cellEntries (cellAt ((c.acc name).band band) row col) ≠ 0) :
    (band, row, col) ∈ ((poisonCell name band row col c).acc name).badCells := by
  have hlt : name < 8 := acc_lt (by rw [htag]; decide)
  have hno : ¬ ((c.acc name).tag ≠ .int ∨ row ≥ (c.acc name).rext ∨ col ≥ (c.acc name).cext ∨ band ≥ c.aux.gang ∨
      cellEntries (cellAt ((c.acc name).band band) row col) = 0) := by
    rintro (h | h | h | h | h)
    · exact h htag
    · omega
    · omega
    · omega
    · exact hcell h
  unfold poisonCell
  extract_lets x
  rw [if_neg hno, acc_setIfInBounds _ _ hlt]
  exact List.mem_cons_self

end

end

/-- Settles O47: poison by `bankError_active` and the `poison` lemmas, audits by `exec_auditReplay` and
`exec_auditTieBreak`, a fence by `fenceDie_scrubs`, and a dead package by `loseAgent_leaves`; that what is done with threads,
stores and commands on the way changes nothing of what is known of the agents is `standing`'s. -/
theorem errorAndAuditEvents : Obligations.ErrorAndAuditEvents := by
  unfold Obligations.ErrorAndAuditEvents
  intro die line core idx num eng s
  refine ⟨rfl, fun hl => ?_, fun hl => ?_, ?_, fun e he => ?_, fun hact hidx => ⟨?_, ?_, ?_⟩, fun c hc hidx => ?_,
    fun hact name band row col => ⟨fun hrow => ?_, fun htag hrow hband => ?_, fun htag hrow hcol hband hcell => ?_⟩,
    fun heng acc slot row spare mask stuck => ?_, fun heng acc row col flip runs => ?_, rfl, exec_audit_unknown,
    fun r hr => ⟨exec_auditReplay_idle hr, exec_auditReplay hr, exec_auditTieBreak_idle hr,
      fun n hn hrep hm ho hlt => exec_auditTieBreak hr hn hrep hm ho hlt, exec_auditTimeout_reported hr, exec_auditTimeout hr⟩,
    fun h => ?_, fun hd hf => ⟨_, rfl, fenceDie_leaves hd hf⟩, rfl, fun pkg => ⟨fun h => ?_, fun hp hpres hdead hrep => ?_⟩,
    fun ag inc hag hinc => ?_, fun inc => ?_, fun pkg inc hp hinc => ?_, fun inc hinc => ?_⟩
  · show execEccError (.memory line) s = _
    exact if_pos (by rw [hl]; rfl)
  · refine ⟨_, if_neg (by rw [hl]; decide), (poisonedLine_poisonLine ..).2 (.inl rfl), rfl⟩
  · refine ⟨_, rfl, List.find?_eq_none.2 fun x hx => ?_, rfl⟩
    have hout := (List.mem_filter.1 hx).2
    simp only [decide_eq_true_eq] at hout ⊢
    exact fun h => hout ⟨h.1, h.2.1⟩
  · refine ⟨_, rfl, ?_⟩
    show (getCore (setCore s core _) core).sb[idx]? = _
    rw [getCore_setCore_same]
    simp [he]
  · refine ⟨_, rfl, ?_, ?_⟩
    · show (decide (idx ≠ 0) && (bankError s.cur false (poisonReg 0 idx) s).ctx.aux.poison.g.getLsbD idx) = _
      rw [bankError_active hact]
      exact poisonReg_g _ hidx
    · rw [bankError_active hact, poisonReg_regs]
  · refine ⟨_, rfl, ?_, ?_⟩
    · show (bankError s.cur false (poisonReg 1 idx) s).ctx.aux.poison.f.getLsbD idx = _
      rw [bankError_active hact]
      exact poisonReg_f _ hidx
    · rw [bankError_active hact, poisonReg_regs]
  · refine ⟨_, rfl, ?_⟩
    show (bankError s.cur false (poisonReg 4 idx) s).ctx.aux.poison.ctl.contains idx = _
    rw [bankError_active hact]
    exact poisonReg_ctl _
  · exact ⟨_, _, rfl, bankError_lodged hc, poisonReg_f _ hidx, poisonReg_regs ..⟩
  · refine ⟨_, rfl, ?_⟩
    rw [bankError_active hact]
    exact poisonName_tile hrow
  · refine ⟨_, rfl, ?_⟩
    rw [bankError_active hact]
    exact poisonName_acc htag hrow hband
  · refine ⟨_, rfl, ?_⟩
    rw [bankError_active hact]
    exact poisonCell_cell htag hrow hcol hband hcell
  · refine ⟨_, rfl, ?_⟩
    rw [engineAt_setEngine_same _ heng]
    exact List.mem_append_right _ (List.mem_singleton.2 rfl)
  · refine ⟨_, rfl, ?_⟩
    rw [engineAt_setEngine_same _ heng]
    exact List.mem_append_right _ (List.mem_singleton.2 rfl)
  · exact congrArg _ (fenceDie_refused h)
  · refine if_pos ?_
    rcases h with h | h | h | h
    · exact .inl h
    · exact .inr (.inl (by rw [h]; decide))
    · exact .inr (.inr (.inl h))
    · exact .inr (.inr (.inr h))
  · refine ⟨_, if_neg ?_, loseAgent_leaves pkg⟩
    rw [hpres, hdead, hrep]
    simp [hp]
  · exact (if_neg hag).trans (if_pos hinc)
  · exact ⟨_, if_pos rfl, fun d hd => dieLive_fenceAll d hd⟩
  · have hne : ¬ Agent.package pkg = .package s.pkg := fun h => hp (Agent.package.inj h)
    have hnew : ¬ inc ≥ incOf s (.package pkg) := Nat.not_le.2 hinc
    exact ⟨_, (if_neg hne).trans (if_neg hnew), (dropStale_frame (.package pkg) (some line) s).2.1, poisonedLine_dropStale⟩
  · exact ⟨_, exec_staleMessage_die hinc, by rw [dieLive_fenceDie]; simp⟩

end Sys2Proof.Machine

/-! PROOFS. Messages between packages, links and routes, and collectives (R227, R255, R390, R391, R393, R417). -/

namespace Sys2Proof.Machine

/-! ## What applying a message leaves -/

section
variable {src dst seq : Nat} {m : Msg} {s : State}

theorem sameButMemory_applyRemote (g : Word) (rq : RemoteReq) (p f : Bool) (s : State) :
    sameButMemory s (applyRemote g rq p f s) := by
  cases rq with
  | read a n => exact sameButMemory_refl s
  | bind a b c => exact sameButMemory_refl s
  | abort a b c d => exact sameButMemory_refl s
  | write a n v => exact sameButMemory_storeWrite ..
  | subByte fld w v => exact sameButMemory_storeWrite ..
  | atomic op a n v cmp =>
    unfold applyRemote
    dsimp only
    split
    · exact sameButMemory_refl s
    · unfold amoAt
      dsimp only
      split
      · exact sameButMemory_refl s
      · exact sameButMemory_storeWrite ..

/-- A message has had its effect at its destination, and its sender, or the package that forwarded it, its answer. -/
def handled (m : Msg) (s : State) : State :=
  m.fwd.elim (answerRemote m.gtid m.rq s (applyRemote m.gtid m.rq m.poison m.full s))
    fun p => keepReply p.1 p.2 (replyTo m.rq s) (applyRemote m.gtid m.rq m.poison m.full s)

/-- Marks the message of a pair with a number as applied. -/
def markApplied (src dst seq : Nat) (x : Msg) : Msg :=
  if x.src = src ∧ x.dst = dst ∧ x.seq = seq then { x with applied := true } else x

/-- The destination has recorded the number of a message that it has applied (R390). -/
def recorded (src dst seq : Nat) (t : State) : State :=
  { t with fab := { recordSeq src dst seq t.fab with msgs := t.fab.msgs.map (markApplied src dst seq) } }

theorem applyMsg_once (h : msgOf s src dst seq = some m) (happ : m.applied = false)
    (hfresh : (seenOf s.fab src dst).fresh seq = true) :
    applyMsg src dst seq s = recorded src dst seq (handled m s) := by
  have hfind : s.fab.msgs.find? (fun m => m.src = src ∧ m.dst = dst ∧ m.seq = seq) = some m := h
  simp only [applyMsg, hfind, happ, hfresh, handled]
  cases m.fwd <;> rfl

theorem applyMsg_again (h : msgOf s src dst seq = some m)
    (hseen : m.applied = true ∨ (seenOf s.fab src dst).fresh seq = false) : applyMsg src dst seq s = s := by
  have hfind : s.fab.msgs.find? (fun m => m.src = src ∧ m.dst = dst ∧ m.seq = seq) = some m := h
  simp only [applyMsg, hfind]
  exact if_pos (by simpa using hseen)

theorem fab_answerRemote (g : Word) (rq : RemoteReq) (s t : State) : (answerRemote g rq s t).fab = t.fab := by
  have h (x : Sent) : (answerAtomic g x t).fab = t.fab := congrArg Prod.fst (outward_answerAtomic g x t)
  unfold answerRemote
  split
  · split
    · exact h _
    · exact h _
  · rfl

theorem handled_msgs (m : Msg) (s : State) : (handled m s).fab.msgs = s.fab.msgs := by
  obtain ⟨_, _, h⟩ := sameButMemory_applyRemote m.gtid m.rq m.poison m.full s
  have hs : (applyRemote m.gtid m.rq m.poison m.full s).fab.msgs = s.fab.msgs := by rw [h]
  unfold handled
  cases m.fwd with
  | none => exact (congrArg Fabric.msgs (fab_answerRemote ..)).trans hs
  | some p => exact hs

theorem handled_mem (m : Msg) (s : State) :
    (handled m s).mem = (applyRemote m.gtid m.rq m.poison m.full s).mem := by
  unfold handled
  cases m.fwd with
  | none => exact mem_answerRemote ..
  | some p => rfl

/-- A request that is no atomic has no answer for the thread that sent it. -/
theorem handled_ctx (h : ∀ op a n v cmp, m.rq ≠ .atomic op a n v cmp) : (handled m s).ctx = s.ctx := by
  obtain ⟨_, _, hs⟩ := sameButMemory_applyRemote m.gtid m.rq m.poison m.full s
  have hctx : (applyRemote m.gtid m.rq m.poison m.full s).ctx = s.ctx := by rw [hs]
  unfold handled
  cases m.fwd with
  | none =>
    show (answerRemote _ _ _ _).ctx = _
    unfold answerRemote
    split
    · next op a n v cmp hrq => exact absurd hrq (h op a n v cmp)
    · exact hctx
  | some p => exact hctx

theorem msgOf_recorded (h : msgOf s src dst seq = some m) {t : State} (ht : t.fab.msgs = s.fab.msgs) :
    msgOf (recorded src dst seq t) src dst seq = some { m with applied := true } := by
  have hkey (x : Msg) : (decide ((markApplied src dst seq x).src = src ∧ (markApplied src dst seq x).dst = dst ∧
      (markApplied src dst seq x).seq = seq)) = decide (x.src = src ∧ x.dst = dst ∧ x.seq = seq) := by
    unfold markApplied
    split <;> rfl
  have hm : m.src = src ∧ m.dst = dst ∧ m.seq = seq := by simpa using List.find?_some h
  show ((t.fab.msgs.map (markApplied src dst seq)).find? fun x => decide (x.src = src ∧ x.dst = dst ∧ x.seq = seq)) = _
  rw [ht, List.find?_map]
  have hfun : ((fun x : Msg => decide (x.src = src ∧ x.dst = dst ∧ x.seq = seq)) ∘ markApplied src dst seq) =
      fun x => decide (x.src = src ∧ x.dst = dst ∧ x.seq = seq) := funext hkey
  rw [hfun, show s.fab.msgs.find? _ = some m from h]
  exact congrArg some (if_pos hm)

theorem exec_message_idle (h : msgOf s src dst seq = some m) (hidle : m.sentOut = false ∨ m.applied = true ∨
    (seenOf s.fab src dst).fresh seq = false ∨ msgBehind s m = true) :
    exec (.fabricMessage src dst seq) s = .next s := by
  show execFabricMessage src dst seq s = _
  simp only [execFabricMessage, h, Option.any_some]
  split
  · next hgo =>
    rw [Bool.and_eq_true, Bool.not_eq_true'] at hgo
    obtain ⟨hout, hbehind⟩ := hgo
    rw [hout, hbehind] at hidle
    rw [applyMsg_again h (by simpa using hidle)]
  · rfl

theorem exec_message_none (h : msgOf s src dst seq = none) : exec (.fabricMessage src dst seq) s = .next s := by
  show execFabricMessage src dst seq s = _
  rw [execFabricMessage, h]
  rfl

theorem exec_message (h : msgOf s src dst seq = some m) (hout : m.sentOut = true) (happ : m.applied = false)
    (hfresh : (seenOf s.fab src dst).fresh seq = true) (hbehind : msgBehind s m = false) :
    exec (.fabricMessage src dst seq) s = .next (recorded src dst seq (handled m s)) := by
  rw [← applyMsg_once h happ hfresh]
  show execFabricMessage src dst seq s = _
  simp only [execFabricMessage, h, Option.any_some]
  exact congrArg Host.Outcome.next (if_pos (by rw [hout, hbehind]; rfl))

/-- The thread that sent an atomic has its answer, or learns of the poison its line holds (R138, R371). -/
theorem handled_atomic {op a n : Nat} {v cmp : Word} (hrq : m.rq = .atomic op a n v cmp) (hfwd : m.fwd = none)
    (hgtid : s.ctx.prv.gtid = m.gtid) (hact : s.core.act = true) :
    (linePoisoned s (lineOf a) = true → (handled m s).ctx.aux.sent = .atomicPoison ∧ (handled m s).mem = s.mem) ∧
    (linePoisoned s (lineOf a) = false → ∃ fl,
      (handled m s).ctx.aux.sent = .atomicAnswer (BitVec.ofNat 64 (natOfBytes (memReadN s.mem a n))) fl) := by
  have hhandled : handled m s =
      answerRemote m.gtid (.atomic op a n v cmp) s (applyRemote m.gtid (.atomic op a n v cmp) m.poison m.full s) := by
    rw [handled, hfwd, hrq]
    rfl
  obtain ⟨hsame, -, hold, -⟩ := amoAt_frame m.gtid (AmoOp.ofCode op) a n v cmp s
  rw [hhandled]
  refine ⟨fun hpoison => ?_, fun hclean => ?_⟩
  · rw [answerRemote, applyRemote, if_pos hpoison, if_pos hpoison, answerAtomic_current _ ⟨rfl, rfl⟩ hgtid hact]
    exact ⟨rfl, rfl⟩
  · rw [answerRemote, applyRemote, if_neg (by simp [hclean]), if_neg (by simp [hclean]),
      answerAtomic_current _ hsame hgtid hact, hold]
    exact ⟨_, rfl⟩

theorem handled_write {a n : Nat} {v : Word} (hrq : m.rq = .write a n v) (hok : s.memOk) :
    memReadN (handled m s).mem a n = bytesOfNat n v.toNat ∧
      ∀ x, x < a ∨ a + n ≤ x → memRead (handled m s).mem x = memRead s.mem x := by
  have hmem : (handled m s).mem = memWriteMasked 0xFF s.mem a (bytesOfNat n v.toNat) := by
    rw [handled_mem, hrq]
    exact mem_storeWrite ..
  rw [hmem]
  exact ⟨memReadN_bytesOfNat n v.toNat a hok,
    fun x hx => memRead_masked_other _ _ _ _ _ (by rwa [bytesOfNat_length])⟩

end

/-! ## Acknowledgements, and messages sent again -/

section
variable (src dst seq : Nat) (s : State)

theorem exec_ack : let dead := s.rel.deadPkgs.contains (if dst = s.pkg then src else dst)
    ∃ t, exec (.fabricAck src dst seq) s = .next t ∧ t.mem = s.mem ∧ t.ctx = s.ctx ∧
      (dead = true → t.fab = s.fab ∧ t.coh = s.coh ∧ t.rel.log.length = s.rel.log.length + 1) ∧
      (dead = false →
        ∀ m, m ∈ t.fab.msgs ↔ m ∈ s.fab.msgs ∧ ¬ (m.src = src ∧ m.dst = dst ∧ m.seq = seq ∧ m.applied = true)) := by
  intro dead
  refine ⟨_, rfl, ?_⟩
  cases hdead : dead with
  | true =>
    rw [if_pos hdead]
    exact ⟨rfl, rfl, fun _ => ⟨rfl, rfl, List.length_append⟩, nofun⟩
  | false =>
    rw [if_neg (Bool.eq_false_iff.1 hdead)]
    have hmsgs (m : Msg) : m ∈ (ackMsg src dst seq s).fab.msgs ↔
        m ∈ s.fab.msgs ∧ ¬ (m.src = src ∧ m.dst = dst ∧ m.seq = seq ∧ m.applied = true) := by
      rw [ackMsg, List.mem_filter, decide_eq_true_iff]
    split
    · exact ⟨rfl, rfl, nofun, fun _ => hmsgs⟩
    · exact ⟨rfl, rfl, nofun, fun _ => hmsgs⟩

variable {s} {dst}

theorem exec_resend_waits (h : pathUp s.fab dst = false) : exec (.fabricResend src dst seq) s = .next s :=
  congrArg Host.Outcome.next (if_neg (Bool.eq_false_iff.1 h))

theorem exec_resend (h : pathUp s.fab dst = true) : ∃ t, exec (.fabricResend src dst seq) s = .next t ∧ t.mem = s.mem ∧
    ∀ m ∈ t.fab.msgs, m.src = src → m.dst = dst → m.seq = seq → m.sentOut = true := by
  refine ⟨_, congrArg Host.Outcome.next (if_pos h), rfl, fun m hm hsrc hdst hseq => ?_⟩
  obtain ⟨x, -, rfl⟩ := List.mem_map.1 hm
  split at hsrc
  · next hx => rw [if_pos hx]
  · next hx =>
    rw [if_neg hx] at hdst hseq
    exact absurd ⟨hsrc, hdst, hseq⟩ hx

end

/-! ## Links and routes -/

section
variable {port : Nat} {s : State}

theorem getLsbD_clear_one {w : Nat} (x : BitVec w) (p q : Nat) :
    (x &&& ~~~(1#w <<< p)).getLsbD q = (x.getLsbD q && decide (q ≠ p)) := by
  by_cases hq : q < w
  · rw [BitVec.getLsbD_and, BitVec.getLsbD_not, BitVec.getLsbD_shiftLeft, BitVec.getLsbD_one]
    by_cases hp : q < p
    · simp [hq, hp, show q ≠ p by omega]
    · by_cases he : q = p
      · simp [he, show p < w by omega, show 0 < w by omega]
      · simp [hq, hp, he, show q - p ≠ 0 by omega]
  · rw [BitVec.getLsbD_of_ge _ _ (by omega), BitVec.getLsbD_of_ge _ _ (by omega), Bool.false_and]

/-- A package's view of its links when a port has gone down, before its messages are held. -/
def portLost (port : Nat) (s : State) : State :=
  { s with
    fab.linksUp := s.fab.linksUp &&& ~~~(1#18 <<< port)
    fab.repairing := true
    fab.repairHost := if s.fab.repairing then s.fab.repairHost else s.modes.getLsbD 3 }

theorem takeDown_fab (port : Nat) (s : State) : (takeDown port s).fab = (holdMsgs (portLost port s)).fab := by
  unfold takeDown
  extract_lets assisted s1
  split
  · unfold pendInt
    dsimp only
    split
    · rfl
    · exact congrArg Prod.fst (outward_setCore ..)
  · rfl

/-- A message that is held has not gone out; what has a way out or has been applied is left as it is. -/
theorem holdMsgs_sentOut {s : State} {m : Msg} (hm : m ∈ (holdMsgs s).fab.msgs) (hsrc : m.src = s.pkg)
    (happ : m.applied = false) (hpath : pathUp (holdMsgs s).fab m.dst = false) : m.sentOut = false := by
  obtain ⟨x, -, rfl⟩ := List.mem_map.1 hm
  have hpaths (d : Nat) : pathUp (holdMsgs s).fab d = pathUp s.fab d := rfl
  rw [hpaths] at hpath
  split at hsrc
  · next hx => rw [if_pos hx]
  · next hx =>
    rw [if_neg hx] at happ hpath
    exact absurd ⟨hsrc, by simp [happ, hpath]⟩ hx

theorem exec_linkDown_idle (h : s.fab.linksUp.getLsbD port = false) : exec (.linkDown port) s = .next s :=
  congrArg Host.Outcome.next (if_neg (Bool.eq_false_iff.1 h))

theorem exec_linkDown (h : s.fab.linksUp.getLsbD port = true) : ∃ t, exec (.linkDown port) s = .next t ∧
    t.fab.repairing = true ∧ (∀ q, t.fab.linksUp.getLsbD q = (s.fab.linksUp.getLsbD q && decide (q ≠ port))) ∧
    ∀ m ∈ t.fab.msgs, m.src = s.pkg → m.applied = false → pathUp t.fab m.dst = false → m.sentOut = false := by
  refine ⟨takeDown port s, congrArg Host.Outcome.next (if_pos h), ?_⟩
  rw [takeDown_fab]
  exact ⟨rfl, fun q => getLsbD_clear_one _ _ _,
    fun m hm hsrc happ hpath => holdMsgs_sentOut (s := portLost port s) hm hsrc happ hpath⟩

theorem exec_repair_idle (h : s.fab.repairing = false ∨ s.fab.repairHost = true) : exec .routeRepair s = .next s := by
  refine congrArg Host.Outcome.next (if_neg ?_)
  rcases h with h | h <;> simp [h]

theorem find?_route {up d : Nat} {l : List Nat} (hd : d ∈ l) :
    (l.map fun x => (x, up)).find? (fun r => decide (r.1 = d)) = some (d, up) := by
  induction l with
  | nil => exact absurd hd List.not_mem_nil
  | cons x l ih =>
    rw [List.map_cons, List.find?_cons]
    by_cases hx : x = d
    · simp [hx]
    · simpa [hx] using ih (List.mem_of_ne_of_mem (Ne.symm hx) hd)

theorem exec_repair (h : s.fab.repairing = true) (hmode : s.fab.repairHost = false) :
    ∃ t, exec .routeRepair s = .next t ∧ t.fab.repairing = false ∧
      ∀ up, (List.range 18).find? s.fab.linksUp.getLsbD = some up → ∀ d ∈ s.fab.present,
        t.fab.routes.find? (fun r => r.1 = d) = some (d, up) := by
  refine ⟨repairRoutes s, congrArg Host.Outcome.next (if_pos (by simp [h, hmode])), rfl, fun up hup d hd => ?_⟩
  have hroutes : (repairRoutes s).fab.routes = s.fab.present.map fun d => (d, up) := by
    simp only [repairRoutes, releaseMsgs, hup]
  rw [hroutes]
  exact find?_route hd

end

/-! ## The commands of a collective -/

/-- A command of a number has ended, or ends with a given outcome. -/
def ended (P : Nat × Nat → Prop) (id : Nat) (s : State) : Prop :=
  ∃ y ∈ s.copy.cmds, y.id = id ∧ ∃ o, y.outcome = some o ∧ P o

section
variable {P : Nat × Nat → Prop} {id : Nat} {s t : State}

theorem ended_of_copy (h : t.copy = s.copy) (he : ended P id s) : ended P id t := by
  rwa [ended, h]

/-- Replacing a command by one that has ended ends every command of its number, and no other command's end is lost. -/
theorem ended_putCmd {c : Cmd} {o : Nat × Nat} (hout : c.outcome = some o) (hP : P o)
    (h : ended P id s ∨ c.id = id ∧ ∃ y ∈ s.copy.cmds, y.id = id) : ended P id (putCmd c s) := by
  have hput {y : Cmd} (hy : y ∈ s.copy.cmds) (hid : y.id = c.id) : c ∈ (putCmd c s).copy.cmds :=
    List.mem_map.2 ⟨y, hy, if_pos hid⟩
  rcases h with ⟨y, hy, rfl, q, hq, hPq⟩ | ⟨rfl, y, hy, hid⟩
  · by_cases hid : y.id = c.id
    · exact ⟨c, hput hy hid, hid.symm, o, hout, hP⟩
    · exact ⟨y, List.mem_map.2 ⟨y, hy, if_neg hid⟩, rfl, q, hq, hPq⟩
  · exact ⟨c, hput hy hid, rfl, o, hout, hP⟩

/-- Replacing a command loses no number. -/
theorem exists_id_putCmd (c : Cmd) (h : ∃ y ∈ s.copy.cmds, y.id = id) : ∃ y ∈ (putCmd c s).copy.cmds, y.id = id := by
  obtain ⟨y, hy, rfl⟩ := h
  refine ⟨_, List.mem_map.2 ⟨y, hy, rfl⟩, ?_⟩
  split
  · next hid => exact hid.symm
  · rfl

theorem any_of_ended (h : ended (fun _ => True) id s) :
    s.copy.cmds.any (fun y => decide (y.id = id) && y.outcome.isSome) = true := by
  obtain ⟨y, hy, hid, o, ho, -⟩ := h
  exact List.any_eq_true.2 ⟨y, hy, by simp [hid, ho]⟩

theorem any_of_ended_with {o : Nat × Nat} (h : ended (· = o) id s) :
    s.copy.cmds.any (fun y => decide (y.id = id ∧ y.outcome = some o)) = true := by
  obtain ⟨y, hy, hid, q, hq, rfl⟩ := h
  exact List.any_eq_true.2 ⟨y, hy, by simp [hid, hq]⟩

end

/-! ## Members that fail -/

section
variable {code : Nat} {id : Nat} {s : State}

theorem exists_id_failMember (c : Cmd) (h : ∃ y ∈ s.copy.cmds, y.id = id) :
    ∃ y ∈ (failMember code c s).copy.cmds, y.id = id := by
  unfold failMember
  split
  · exact exists_id_putCmd _ h
  · exact h

theorem setOutcome_id (code addr : Nat) (c : Cmd) : (setOutcome code addr c).id = c.id := by
  unfold setOutcome
  split <;> rfl

theorem ended_failMember {P : Nat × Nat → Prop} {c : Cmd} (hP : P (code, 0))
    (h : ended P id s ∨ c.id = id ∧ takesOutcome code c = true ∧ ∃ y ∈ s.copy.cmds, y.id = id) :
    ended P id (failMember code c s) := by
  unfold failMember
  split
  · next htakes =>
    refine ended_putCmd (o := (code, 0)) ?_ hP (h.imp_right fun ⟨hid, _, hy⟩ => ⟨(setOutcome_id ..).trans hid, hy⟩)
    rw [setOutcome, if_pos htakes]
  · next htakes => exact h.resolve_right fun ⟨_, hyes, _⟩ => htakes hyes

/-- Of the commands that fail together, each that takes the outcome ends with it. -/
theorem ended_foldl_failMember {P : Nat × Nat → Prop} (hP : P (code, 0)) (l : List Cmd)
    (hid : ∃ y ∈ s.copy.cmds, y.id = id)
    (h : ended P id s ∨ ∃ c ∈ l, c.id = id ∧ takesOutcome code c = true) :
    ended P id (l.foldl (fun s c => failMember code c s) s) := by
  induction l generalizing s with
  | nil => exact h.resolve_right fun ⟨_, hc, _⟩ => List.not_mem_nil hc
  | cons x l ih =>
    rw [List.foldl_cons]
    refine ih (exists_id_failMember x hid) ?_
    rcases h with h | ⟨c, hc, hcid, htakes⟩
    · exact .inl (ended_failMember hP (.inl h))
    · rcases List.mem_cons.1 hc with rfl | hc
      · exact .inl (ended_failMember hP (.inr ⟨hcid, htakes, hid⟩))
      · exact .inr ⟨c, hc, hcid, htakes⟩

theorem takesOutcome_running {c : Cmd} (h : c.outcome = none) : takesOutcome code c = true := by
  simp [takesOutcome, h]

end

/-! ## The start of a collective -/

section
variable {grp cid : Nat} {s s1 : State} {ms : List (Option Cmd)} {ds : List (List Byte)}

theorem mem_of_mapM_eq_some {α β : Type} {f : α → Option β} {l : List α} {r : List β} (h : l.mapM f = some r) {b : β}
    (hb : b ∈ r) : ∃ a ∈ l, f a = some b := by
  induction l generalizing r with
  | nil =>
    rw [List.mapM_nil] at h
    cases h
    exact absurd hb List.not_mem_nil
  | cons x l ih =>
    rw [List.mapM_cons] at h
    obtain ⟨y, hy, h⟩ := Option.bind_eq_some_iff.1 h
    obtain ⟨r', hr', h⟩ := Option.bind_eq_some_iff.1 h
    cases h
    rcases List.mem_cons.1 hb with rfl | hb
    · exact ⟨x, List.mem_cons_self, hy⟩
    · obtain ⟨a, ha, hfa⟩ := ih hr' hb
      exact ⟨a, List.mem_cons_of_mem _ ha, hfa⟩

/-- The members of a collective that has not started are in flight, and none has ended. -/
theorem collCmds_running (h : collCmds s grp cid = some ms) {c : Cmd} (hc : some c ∈ ms) :
    c ∈ s.copy.cmds ∧ c.outcome = none := by
  unfold collCmds at h
  split at h
  · cases h
  · split at h
    · cases h
    · obtain ⟨g, -, hg⟩ := mem_of_mapM_eq_some h hc
      split at hg
      · cases hg
      · obtain ⟨x, hx, hxc⟩ := Option.map_eq_some_iff.1 hg
        cases hxc
        have hrun := List.find?_some hx
        exact ⟨List.mem_of_find?_eq_some hx, by simp at hrun; exact hrun.2⟩

theorem mem_present {c : Cmd} (hc : c ∈ ms.filterMap fun m => m) : some c ∈ ms := by
  obtain ⟨m, hm, rfl⟩ := List.mem_filterMap.1 hc
  exact hm

theorem exec_collective_waits (h : collCmds s grp cid = none) : exec (.collectiveStart grp cid) s = .next s := by
  show execCollectiveStart grp cid s = _
  rw [execCollectiveStart, runCollective, h]

/-- Members that disagree end with code 7 (R227). -/
theorem exec_collective_mismatch (h : collCmds s grp cid = some ms)
    (hdone : (ms.filterMap fun m => m).all (fun c => threadStoresDone c.gtid s) = true)
    (hagree : collAgree (ms.filterMap fun m => m) = false) : ∃ t, exec (.collectiveStart grp cid) s = .next t ∧
      ∀ c ∈ ms.filterMap fun m => m,
        t.copy.cmds.any (fun y => decide (y.id = c.id ∧ y.outcome = some (7, 0))) = true := by
  refine ⟨(ms.filterMap fun m => m).foldl (fun s c => failMember 7 c s) s, ?_, fun c hc => ?_⟩
  · show execCollectiveStart grp cid s = _
    simp only [execCollectiveStart, runCollective, h, hagree, Bool.false_and, hdone]
    split
    · next hnil => rw [hnil]; rfl
    · rfl
  · obtain ⟨hin, hrun⟩ := collCmds_running h (mem_present hc)
    exact any_of_ended_with (ended_foldl_failMember (P := (· = (7, 0))) rfl _ ⟨c, hin, rfl⟩
      (.inr ⟨c, hc, rfl, takesOutcome_running hrun⟩))

/-- Every state with which a computation that does not stop ends has one record of commands. -/
def okKeeps {ε α : Type} (k : CopySt) (x : Except ε (State × α)) : Prop := ∀ t a, x = .ok (t, a) → t.copy = k

theorem okKeeps_bind {ε α β : Type} {k : CopySt} {x : Except ε (State × α)} {f : State × α → Except ε (State × β)}
    (hx : okKeeps k x) (hf : ∀ t a, t.copy = k → okKeeps k (f (t, a))) : okKeeps k (x >>= f) := by
  cases x with
  | ok y => exact hf y.1 y.2 (hx _ _ rfl)
  | error e =>
    intro t a h
    cases h

theorem okKeeps_error {ε α β : Type} {k : CopySt} (e : ε) (f : State × α → Except ε (State × β)) :
    okKeeps k (Except.error e >>= f) := by
  intro t a h
  cases h

theorem okKeeps_of_engKeeps {α : Type} {k : CopySt} {x : Except EngStop (State × α)} (h : engKeeps k x) :
    okKeeps k x := by
  rintro t a rfl
  exact h

theorem readContribs_copy (like : Cmd) (ms : List (Option Cmd)) (r : Nat) {k : CopySt} (hs : s.copy = k) :
    okKeeps k (readContribs like ms r s) := by
  induction ms generalizing r s with
  | nil =>
    rintro t a ⟨⟩
    exact hs
  | cons m ms ih =>
    have hrest {t : State} (ht : t.copy = k) (d : List Byte) :
        okKeeps k (readContribs like ms (r + 1) t >>= fun x => .ok (x.1, d :: x.2)) :=
      okKeeps_bind (ih (r + 1) ht) fun u l hu => by
        rintro t a ⟨⟩
        exact hu
    simp only [readContribs]
    cases m with
    | none =>
      dsimp only
      split
      · exact okKeeps_error _ _
      · exact hrest hs _
    | some c =>
      dsimp only
      split
      · exact okKeeps_error _ _
      · next x hx => exact hrest (okKeeps_of_engKeeps (readBytes_copy c hs ..) _ _ hx) _

/-- Every rank of this package ends where the results are written, with the code of its write. -/
theorem writeResults_ended {id : Nat} {t : State} (r : Nat) (hid : ∃ y ∈ s.copy.cmds, y.id = id)
    (h : ended (fun _ => True) id s ∨ ∃ c, some c ∈ ms ∧ c.id = id) (ht : writeResults ds ms r s = some t) :
    ended (fun _ => True) id t := by
  induction ms generalizing r s with
  | nil =>
    cases ht
    exact h.resolve_right fun ⟨_, hc, _⟩ => List.not_mem_nil hc
  | cons m ms ih =>
    cases m with
    | none => exact ih (r + 1) hid (h.imp_right fun ⟨c, hc, hcid⟩ => ⟨c, by simpa using hc, hcid⟩) ht
    | some c =>
      have hend {s1 : State} (hs1 : s1.copy = s.copy) (code a : Nat)
          (ht : writeResults ds ms (r + 1) (endMember code a c s1) = some t) : ended (fun _ => True) id t := by
        have hid1 : ∃ y ∈ s1.copy.cmds, y.id = id := by rwa [hs1]
        refine ih (r + 1) (exists_id_putCmd _ hid1) ?_ ht
        rcases h with h | ⟨x, hx, hxid⟩
        · exact .inl (ended_putCmd rfl trivial (.inl (ended_of_copy hs1 h)))
        · rcases List.mem_cons.1 hx with hxc | hx
          · cases hxc
            exact .inl (ended_putCmd rfl trivial (.inr ⟨hxid, hid1⟩))
          · exact .inr ⟨x, hx, hxid⟩
      simp only [writeResults] at ht
      have hkeeps := writeRun_copy c (k := s.copy) rfl ((collResult c.op.variant c.desc ds r).length + 1)
        c.desc.dst.toNat (collResult c.op.variant c.desc ds r)
      split at ht
      · next s1 _ hrun =>
        rw [hrun] at hkeeps
        exact hend hkeeps _ _ ht
      · cases ht
      · next code a s1 _ hrun =>
        rw [hrun] at hkeeps
        exact hend hkeeps _ _ ht

section
variable {like : Cmd} {rest : List Cmd} (h : collCmds s grp cid = some ms)
  (hdone : (ms.filterMap fun m => m).all (fun c => threadStoresDone c.gtid s) = true)
  (hlike : ms.filterMap (fun m => m) = like :: rest) (hall : (ms.filterMap fun m => m).length = ms.length)
  (hagree : collAgree (ms.filterMap fun m => m) = true) (hread : readContribs like ms 0 s = .ok (s1, ds))
include h hdone hlike hall hagree hread

theorem runCollective_eq : exec (.collectiveStart grp cid) s = .next ((writeResults ds ms 0 s1).getD s) := by
  show execCollectiveStart grp cid s = _
  rw [hlike] at hdone hall hagree
  simp only [execCollectiveStart, runCollective, h, hlike, hdone, hall, hagree, hread, decide_true, Bool.true_or,
    Bool.and_true, Bool.not_true, if_false, Bool.false_eq_true]

theorem exec_collective_held (hheld : (writeResults ds ms 0 s1).isSome = false) :
    exec (.collectiveStart grp cid) s = .next s := by
  rw [runCollective_eq h hdone hlike hall hagree hread, Option.isSome_eq_false_iff.1 hheld |> Option.isNone_iff_eq_none.1]
  rfl

theorem exec_collective_results (hwrites : (writeResults ds ms 0 s1).isSome = true) :
    ∃ t, exec (.collectiveStart grp cid) s = .next t ∧ ∀ c ∈ ms.filterMap fun m => m,
      t.copy.cmds.any (fun y => decide (y.id = c.id) && y.outcome.isSome) = true := by
  obtain ⟨t, ht⟩ := Option.isSome_iff_exists.1 hwrites
  refine ⟨t, ?_, fun c hc => any_of_ended ?_⟩
  · rw [runCollective_eq h hdone hlike hall hagree hread, ht]
    rfl
  · have hs1 : s1.copy = s.copy := readContribs_copy like ms 0 rfl s1 ds hread
    have hin := (collCmds_running h (mem_present hc)).1
    exact writeResults_ended 0 ⟨c, by rwa [hs1], rfl⟩ (.inr ⟨c, mem_present hc, rfl⟩) ht

end

end

/-! ## The abort of a collective -/

section
variable {grp cid code : Nat} {m : Word} {s : State}

theorem tellAborts_cmds (s : State) : (tellAborts s).copy.cmds = s.copy.cmds := by
  unfold tellAborts
  refine List.foldlRecOn (motive := fun t : State => t.copy.cmds = s.copy.cmds) _ _ rfl fun t ht x _ => ?_
  dsimp only
  split
  · exact ht
  · exact ht

/-- An abort ends every member of the collective here but the one that was lost (R393). -/
theorem abortEverywhere_ended {c : Cmd} (hc : c ∈ s.copy.cmds) (hjoins : c.joins grp cid = true) (hm : c.gtid ≠ m) :
    ended (fun _ => True) c.id (abortEverywhere grp cid code m s) := by
  have habort : ended (fun _ => True) c.id (abortCollective grp cid code m s) := by
    refine ended_foldl_failMember (code := code) (s := s) trivial _ ⟨c, hc, rfl⟩ ?_
    cases hout : c.outcome with
    | some o => exact .inl ⟨c, hc, rfl, o, hout, trivial⟩
    | none =>
      refine .inr ⟨c, List.mem_filter.2 ⟨List.mem_filter.2 ⟨hc, ?_⟩, decide_eq_true hm⟩, rfl, takesOutcome_running hout⟩
      simp [Cmd.partakes, hjoins, hout]
  unfold abortEverywhere
  unfold ended
  rw [tellAborts_cmds]
  exact habort

theorem exec_abort_unbound (h : s.copy.groups.find? (fun g => g.num = grp) = none) :
    exec (.collectiveAbort grp cid) s = .next s := by
  show execCollectiveAbort grp cid s = _
  rw [execCollectiveAbort, h]

theorem exec_abort {g : Group} {k : Nat} {r : List (Word × Nat)}
    (hg : s.copy.groups.find? (fun g => g.num = grp) = some g)
    (hlost : g.members.filterMap (fun m => (lostCode s m).map (fun k => (m, k))) = (m, k) :: r) :
    ∃ t, exec (.collectiveAbort grp cid) s = .next t ∧
      ∀ c ∈ s.copy.cmds, c.joins grp cid = true → c.gtid ≠ m →
        t.copy.cmds.any (fun y => decide (y.id = c.id) && y.outcome.isSome) = true := by
  show ∃ t, execCollectiveAbort grp cid s = .next t ∧ _
  simp only [execCollectiveAbort, hg, hlost]
  split
  · exact ⟨_, rfl, fun c hc hjoins hm => any_of_ended (abortEverywhere_ended hc hjoins hm)⟩
  · next hnone =>
    refine ⟨s, rfl, fun c hc hjoins hm => any_of_ended ?_⟩
    rw [Bool.not_eq_true, Bool.or_eq_false_iff, List.any_eq_false] at hnone
    obtain ⟨o, ho⟩ : ∃ o, c.outcome = some o := by
      refine Option.ne_none_iff_exists'.1 fun hout => hnone.1 c hc ?_
      simp [Cmd.partakes, hjoins, hout, hm]
    exact ⟨c, hc, rfl, o, ho, trivial⟩

end

/-- Settles O48: each event has its rule above. A message that has been applied is the same message with its mark set, so a
second delivery finds it applied; a collective's commands end because replacing a command loses no number and no end. -/
theorem fabricAndCollectiveEvents : Obligations.FabricAndCollectiveEvents := by
  unfold Obligations.FabricAndCollectiveEvents
  intro src dst seq port s
  refine ⟨fun m hm => ⟨exec_message_idle hm, fun hout happ hfresh hbehind => ?_⟩, exec_message_none,
    exec_ack src dst seq s, exec_resend_waits src seq, exec_resend src seq, exec_linkDown_idle, exec_linkDown,
    exec_repair_idle, exec_repair, fun grp cid => ⟨exec_collective_waits, fun ms hms => ?_,
      exec_abort_unbound, fun g m k r hg hlost => exec_abort hg hlost⟩⟩
  · have hagain := msgOf_recorded hm (handled_msgs m s)
    refine ⟨_, exec_message hm hout happ hfresh hbehind, handled_ctx,
      fun op a n v cmp hrq hfwd hgtid hact => handled_atomic hrq hfwd hgtid hact, hagain, ?_,
      exec_message_idle hagain (.inr (.inl rfl)), fun a n v hrq hok => handled_write hrq hok⟩
    exact (List.length_map _).trans (congrArg List.length (handled_msgs m s))
  · intro l hdone
    exact ⟨exec_collective_mismatch hms hdone, fun like rest s1 ds hlike hall hagree hread =>
      ⟨exec_collective_held hms hdone hlike hall hagree hread,
        exec_collective_results hms hdone hlike hall hagree hread⟩⟩

end Sys2Proof.Machine

/-! PROOFS. The host: its link, its accesses to memory, registers and doorbell pages, and the mailbox (R413 to R416, R419,
R421 to R423, R429). -/

namespace Sys2Proof.Machine

/-! ## Bytes and registers -/

theorem bytesOfNat_natOfBytes {l : List Byte} {n : Nat} (h : l.length = n) : bytesOfNat n (natOfBytes l) = l := by
  subst h
  induction l with
  | nil => rfl
  | cons b l ih =>
    have hlow : BitVec.ofNat 8 (b.toNat + 256 * natOfBytes l) = b := by
      apply BitVec.eq_of_toNat_eq
      rw [BitVec.toNat_ofNat]
      have := b.isLt
      omega
    have hhigh : (b.toNat + 256 * natOfBytes l) / 256 = natOfBytes l := by
      have := b.isLt
      omega
    rw [List.length_cons, natOfBytes, bytesOfNat, hlow, hhigh, ih]

/-- Up to 8 bytes fit in a register. -/
theorem bytesOfWord_natOfBytes {l : List Byte} {n : Nat} (h : l.length = n) (hn : n ≤ 8) :
    bytesOfWord n (BitVec.ofNat 64 (natOfBytes l)) = l := by
  have hlt : natOfBytes l < 2 ^ 64 := (natOfBytes_lt l).trans_le (Nat.pow_le_pow_right (by omega) (by omega))
  rw [bytesOfWord, BitVec.toNat_ofNat, Nat.mod_eq_of_lt hlt, bytesOfNat_natOfBytes h]

/-- A whole register is replaced. -/
theorem mergeHalf_whole (old v : Word) {off : Nat} (h : off % 8 = 0) : mergeHalf old off 8 v = v := by
  refine BitVec.eq_of_getLsbD_eq fun i hi => ?_
  rw [mergeHalf, getLsbD_putBits, if_pos (by omega), h]
  simp [hi, BitVec.testBit_toNat]

theorem halfOf_whole (v : Word) {off : Nat} (h : off % 8 = 0) : halfOf v off 8 = bytesOfWord 8 v := by
  rw [halfOf, h, List.drop_zero, List.take_of_length_le (by simp)]

/-- The bytes of an aligned access, out of the 8 of the word they lie in. -/
theorem halfOf_memory (m : List Host.Cell) (area : Nat) {off n : Nat} (h : regAccessOk off n = true) :
    halfOf (BitVec.ofNat 64 (natOfBytes (memReadN m (area + off / 8 * 8) 8))) off n = memReadN m (area + off) n := by
  have hfit : (n = 4 ∨ n = 8) ∧ off % n = 0 := by simpa [regAccessOk] using h
  obtain ⟨r, hr⟩ : ∃ r, 8 = off % 8 + (n + r) := ⟨8 - off % 8 - n, by obtain ⟨rfl | rfl, h0⟩ := hfit <;> omega⟩
  have hword : bytesOfWord 8 (BitVec.ofNat 64 (natOfBytes (memReadN m (area + off / 8 * 8) 8))) =
      memReadN m (area + off / 8 * 8) (off % 8 + (n + r)) := by
    rw [← hr, bytesOfWord_natOfBytes (memReadN_length ..) le_rfl]
  rw [halfOf, hword, memReadN_drop, memReadN_take, show area + off / 8 * 8 + off % 8 = area + off by omega]

/-! ## Frames -/

section
variable {s : State}

theorem hostLines_poisonAfter (line : Nat) (p f : Bool) (c : Coh) : (poisonAfter line p f c).hostLines = c.hostLines := by
  unfold poisonAfter
  split
  · unfold poisonLine
    split <;> rfl
  · split <;> rfl

/-- A write takes back the host's copy of its line (R422). -/
theorem hostLines_homeWrite (pa : Nat) (d : List Byte) (m : Byte) (p f : Bool) (s : State) :
    lineOf pa ∉ (homeWrite pa d m p f s).coh.hostLines := by
  have hlines : (homeWrite pa d m p f s).coh.hostLines = s.coh.hostLines.filter (· ≠ lineOf pa) :=
    hostLines_poisonAfter _ p f (bumpVersion (lineOf pa) (backInvalidate (lineOf pa) s.coh))
  rw [hlines]
  simp

/-- A message to the host changes only what the host has been sent, or is still to be sent. -/
theorem sendMsix_eq (fn idx : Nat) (s : State) :
    ∃ p m, sendMsix fn idx s = { s with host.pendingBits := p, host.sentMsix := m } := by
  unfold sendMsix
  split
  · exact ⟨_, _, rfl⟩
  · split
    · split
      · exact ⟨_, _, rfl⟩
      · exact ⟨_, _, rfl⟩
    · exact ⟨_, _, rfl⟩

theorem writeMbstat_eq (v : Word) (s : State) : ∃ p m, writeMbstat v s =
    { s with host.mbstat := v &&& 0x800000000000FFFF, host.pendingBits := p, host.sentMsix := m } := by
  unfold writeMbstat
  dsimp only
  split
  · obtain ⟨p, m, h⟩ := sendMsix_eq 0 0 { s with host.mbstat := v &&& 0x800000000000FFFF }
    exact ⟨p, m, h⟩
  · exact ⟨_, _, rfl⟩

/-- BUSY falls, and vector 0 of PF0 is sent unless it is masked (R415). -/
theorem writeMbstat_sent {v : Word} (hbusy : s.host.mbstat.getLsbD 63 = true) (hv : v.getLsbD 63 = false)
    (hmask : (msixVector s.host 0 0).data.getLsbD 32 = false) :
    (writeMbstat v s).host.sentMsix = s.host.sentMsix ++ [(0, 0)] := by
  unfold writeMbstat
  dsimp only
  rw [hbusy, hv, if_pos (by decide)]
  exact sendMsix_sent (by decide) hmask

theorem host_agentWrite (pa : Nat) (d : List Byte) (s : State) : (agentWrite pa d s).host = s.host := by
  obtain ⟨_, _, h⟩ := agentWrite_sameButMemory pa d s
  rw [h]

theorem pendInt_pending (core detail pid : Nat) (s : State) :
    (getCore (pendInt core detail pid s) core).ints.any (fun i => decide (i.detail = detail ∧ i.pid = pid)) = true := by
  unfold pendInt
  dsimp only
  split
  · next h => exact h
  · rw [getCore_setCore_same]
    simp

theorem host_pendInt (core detail pid : Nat) (s : State) : (pendInt core detail pid s).host = s.host := by
  unfold pendInt setCore
  dsimp only
  split
  · rfl
  · split <;> rfl

end

/-! ## The link -/

section
variable {s : State}

theorem exec_linkFailure (s : State) :
    ∃ t, exec .hostLinkFailure s = .next t ∧ hostLinkUp t = false ∧ t.mem = s.mem ∧ t.ctx = s.ctx := by
  refine ⟨_, rfl, ?_⟩
  split
  · exact ⟨Bool.and_false _, rfl, rfl⟩
  · next h => exact ⟨by simp [hostLinkUp, Bool.eq_false_iff.2 h], rfl, rfl⟩

/-- Nothing reaches the package over a link that does not work (R413). -/
theorem linkDown_idle (h : hostLinkUp s = false) (vf off n : Nat) (v : Word) (rq : HostReq) (wr : Bool) :
    exec (.hostMemoryAccess rq) s = .next s ∧ exec (.hostRegisterAccess wr off n v) s = .next s ∧
    exec (.doorbellWrite vf off n v) s = .next s ∧ exec (.doorbellRead vf off n) s = .next s ∧
    exec .mbdoor s = .next s :=
  ⟨congrArg Host.Outcome.next (if_pos (by simp [h])), congrArg Host.Outcome.next (if_pos (by simp [h])),
    congrArg Host.Outcome.next (if_pos (by simp [h])), congrArg Host.Outcome.next (if_pos (by simp [h])),
    congrArg Host.Outcome.next (if_neg (by simp [h]))⟩

end

/-! ## Memory -/

section
variable {s : State} {rq : HostReq} {off n base size : Nat} (hup : hostLinkUp s = true)
include hup

theorem exec_memory (hreq : hostReqOk rq = true) (hno : ∀ k a z, rq ≠ .decoder k a z) :
    exec (.hostMemoryAccess rq) s =
      .next ((hostPlace s rq).elim (answerHost none s) fun pa => hostAccess rq pa s) := by
  show execHostMemoryAccess rq s = _
  unfold execHostMemoryAccess
  rw [if_neg (by simp [hup, hreq])]
  split
  · next k a z => exact absurd rfl (hno k a z)
  · cases hostPlace s rq <;> rfl

/-- An access that reaches a place is performed there. -/
theorem exec_memory_at {pa : Nat} (hreq : hostReqOk rq = true) (hplace : hostPlace s rq = some pa) :
    exec (.hostMemoryAccess rq) s = .next (hostAccess rq pa s) := by
  have hno (k a z : Nat) : rq ≠ .decoder k a z := by
    rintro rfl
    cases hplace
  rw [exec_memory hup hreq hno, hplace]
  rfl

/-- An access that reaches nothing is answered without data. -/
theorem exec_memory_nowhere (hreq : hostReqOk rq = true) (hno : ∀ k a z, rq ≠ .decoder k a z)
    (hplace : hostPlace s rq = none) : exec (.hostMemoryAccess rq) s = .next { s with host.answer := none } := by
  rw [exec_memory hup hreq hno, hplace]
  rfl

omit hup in
theorem barPlace_inside (hwin : s.host.window = some (base, size)) (hfit : off + n ≤ size)
    (hcarve : inCarve s (base + off) n = false) : barPlace s none off n = some (base + off) := by
  simp only [barPlace, hwin]
  exact if_pos (by simp [hfit, hcarve])

omit hup in
theorem barPlace_outside (hwin : s.host.window = some (base, size))
    (h : size < off + n ∨ inCarve s (base + off) n = true) : barPlace s none off n = none := by
  simp only [barPlace, hwin]
  refine if_neg ?_
  rcases h with h | h
  · simp [Nat.not_le_of_gt h]
  · simp [h]

omit hup in
theorem readOk (vf : Option Nat) (hn : 1 ≤ n) (hline : off % 128 + n ≤ 128) :
    hostReqOk (.read vf off n) = true := decide_eq_true ⟨hn, hline⟩

omit hup in
theorem writeOk (vf : Option Nat) {d : List Byte} (hd : d.length = n) (hn : 1 ≤ n) (hline : off % 128 + n ≤ 128) :
    hostReqOk (.write vf off d) = true := decide_eq_true ⟨by rwa [hd], by rwa [hd]⟩

variable (hn : 1 ≤ n) (hline : off % 128 + n ≤ 128)
include hn hline

theorem exec_read_nowhere (vf : Option Nat) (h : barPlace s vf off n = none) :
    exec (.hostMemoryAccess (.read vf off n)) s = .next { s with host.answer := none } :=
  exec_memory_nowhere hup (readOk vf hn hline) nofun h

/-- A VF reaches no memory through the window (R421). -/
theorem exec_vf_nowhere (vf : Nat) :
    exec (.hostMemoryAccess (.read (some vf) off n)) s = .next { s with host.answer := none } ∧
    ∀ d, d.length = n →
      exec (.hostMemoryAccess (.write (some vf) off d)) s = .next { s with host.answer := none } :=
  ⟨exec_read_nowhere hup hn hline _ rfl,
    fun _ hd => exec_memory_nowhere hup (writeOk _ hd hn hline) nofun rfl⟩

section
variable {pa : Nat} (hplace : barPlace s none off n = some pa) (hclean : linePoisoned s (lineOf pa) = false)
include hplace

theorem exec_write_at {d : List Byte} (hd : d.length = n) (hlive : deadHome s pa = false) (hok : s.memOk) :
    ∃ t, exec (.hostMemoryAccess (.write none off d)) s = .next t ∧ memReadN t.mem pa n = d ∧
      ∀ x, x < pa ∨ pa + n ≤ x → memRead t.mem x = memRead s.mem x := by
  subst hd
  refine ⟨homeWrite pa d 0xFF false (decide (d.length = 128)) s, ?_, memReadN_memWriteMasked_full d s.mem pa hok,
    fun x hx => memRead_masked_other _ _ _ _ _ hx⟩
  rw [exec_memory_at hup (writeOk none rfl hn hline) hplace]
  exact congrArg Host.Outcome.next (if_neg (Bool.eq_false_iff.1 hlive))

include hclean

theorem exec_read_at : exec (.hostMemoryAccess (.read none off n)) s =
    .next { s with host.answer := some (memReadN s.mem pa n) } := by
  rw [exec_memory_at hup (readOk none hn hline) hplace]
  exact congrArg (fun d => Host.Outcome.next (answerHost d s)) (if_neg (Bool.eq_false_iff.1 hclean))

/-- An AtomicOp that adds gives the old value (R421). -/
theorem exec_add_at {v cmp : Word} (hsize : n = 4 ∨ n = 8) (halign : off % n = 0) (hok : s.memOk) :
    let old := natOfBytes (memReadN s.mem pa n)
    ∃ t, exec (.hostMemoryAccess (.atomic none 0 off n v cmp)) s = .next t ∧
      t.host.answer = some (memReadN s.mem pa n) ∧
      memReadN t.mem pa n = bytesOfNat n ((old + v.toNat) % 2 ^ (8 * n)) := by
  intro old
  have hreq : hostReqOk (.atomic none 0 off n v cmp) = true := by simp [hostReqOk, hostRange, hn, hline, hsize, halign]
  have hnew : amoNew .add n old v.toNat cmp.toNat = some ((old + v.toNat) % 2 ^ (8 * n), 0) := by
    rw [amoNew, Nat.add_mod_mod]
  have hamo : amoAt 0 .add pa n v cmp s =
      (storeWrite 0 pa (bytesOfNat n ((old + v.toNat) % 2 ^ (8 * n))) 0xFF false false s, BitVec.ofNat 64 old, 0) :=
    amoAt_writes hnew
  refine ⟨answerHost (some (bytesOfWord n (BitVec.ofNat 64 old)))
    (storeWrite 0 pa (bytesOfNat n ((old + v.toNat) % 2 ^ (8 * n))) 0xFF false false s), ?_, ?_, ?_⟩
  · rw [exec_memory_at hup hreq hplace]
    refine congrArg Host.Outcome.next ((if_neg (Bool.eq_false_iff.1 hclean)).trans ?_)
    show answerHost (some (bytesOfWord n (amoAt 0 .add pa n v cmp s).2.1)) (amoAt 0 .add pa n v cmp s).1 = _
    rw [hamo]
  · exact congrArg some (bytesOfWord_natOfBytes (memReadN_length ..) (by omega))
  · show memReadN (storeWrite ..).mem pa n = _
    rw [mem_storeWrite]
    exact memReadN_bytesOfNat n _ pa hok

end

end

/-! ## CXL.mem -/

section
variable {s : State} {k base size : Nat} (hup : hostLinkUp s = true) (hcxl : s.host.cxl = true)
include hup hcxl

theorem exec_decoder (k base size : Nat) : exec (.hostMemoryAccess (.decoder k base size)) s = .next (setDecoder k base size s) := by
  show execHostMemoryAccess _ s = _
  rw [execHostMemoryAccess, if_neg (by simp [hup, hostReqOk])]
  exact congrArg Host.Outcome.next (if_pos hcxl)

theorem exec_decoder_refused (h : decoderOk s k base size = false) :
    exec (.hostMemoryAccess (.decoder k base size)) s = .next s := by
  rw [exec_decoder hup hcxl, setDecoder, if_pos (by simp [h])]

/-- The decoders when one has been set. -/
def withDecoder (k base size : Nat) (s : State) : State :=
  { s with host.decoders :=
      (if size = 0 then [] else [(k, base, size)]) ++ s.host.decoders.filter (fun d => decide (d.1 ≠ k)) }

theorem exec_decoder_set (h : decoderOk s k base size = true) :
    exec (.hostMemoryAccess (.decoder k base size)) s = .next (withDecoder k base size s) := by
  rw [exec_decoder hup hcxl, setDecoder, if_neg (by simp [h])]
  rfl

omit hup hcxl in
theorem withDecoder_only {d : Nat × Nat × Nat} (hd : d ∈ (withDecoder k base size s).host.decoders) (hk : d.1 = k) :
    size ≠ 0 ∧ d = (k, base, size) := by
  rcases List.mem_append.1 hd with hd | hd
  · split at hd
    · cases hd
    · next hsize => exact ⟨hsize, List.mem_singleton.1 hd⟩
  · exact absurd hk (by simpa using (List.mem_filter.1 hd).2)

section
variable {a n : Nat} (hsize : size ≠ 0) (hlo : base ≤ a) (hhi : a + n ≤ base + size)
  (hcarve : inCarve s a n = false)
include hsize hlo hhi hcarve

omit hup in
theorem memPlace_withDecoder : memPlace (withDecoder k base size s) a n = some a := by
  have hany : (withDecoder k base size s).host.decoders.any (fun d => decide (d.2.1 ≤ a ∧ a + n ≤ d.2.1 + d.2.2)) = true :=
    List.any_eq_true.2 ⟨(k, base, size), List.mem_append_left _ (by rw [if_neg hsize]; exact List.mem_singleton.2 rfl),
      decide_eq_true ⟨hlo, hhi⟩⟩
  have hcarve' : inCarve (withDecoder k base size s) a n = false := hcarve
  have hcxl' : (withDecoder k base size s).host.cxl = true := hcxl
  rw [memPlace, hany, hcarve', hcxl']
  rfl

variable (hn : 1 ≤ n) (hline : a % 128 + n ≤ 128)
include hn hline

omit hup hcxl hsize hlo hhi hcarve in
theorem memReadOk : hostReqOk (.memRead a n) = true := decide_eq_true ⟨hn, hline⟩

omit hup hcxl hsize hlo hhi hcarve in
theorem memWriteOk {d : List Byte} (hd : d.length = n) : hostReqOk (.memWrite a d) = true :=
  decide_eq_true ⟨by rwa [hd], by rwa [hd]⟩

/-- The host keeps a copy of a line it reads through a decoder (R422). -/
theorem exec_memRead (hclean : linePoisoned s (lineOf a) = false) :
    ∃ u, exec (.hostMemoryAccess (.memRead a n)) (withDecoder k base size s) = .next u ∧
      u.host.answer = some (memReadN s.mem a n) ∧ lineOf a ∈ u.coh.hostLines ∧ u.mem = s.mem := by
  have hup' : hostLinkUp (withDecoder k base size s) = true := hup
  refine ⟨_, (exec_memory_at hup' (memReadOk hn hline)
    (memPlace_withDecoder hcxl hsize hlo hhi hcarve)).trans (congrArg Host.Outcome.next
      (if_neg (Bool.eq_false_iff.1 hclean))), rfl, List.mem_cons_self, rfl⟩

theorem exec_memWrite {d : List Byte} (hd : d.length = n) (hlive : deadHome s a = false) (hok : s.memOk) :
    ∃ w, exec (.hostMemoryAccess (.memWrite a d)) (withDecoder k base size s) = .next w ∧ memReadN w.mem a n = d := by
  subst hd
  have hup' : hostLinkUp (withDecoder k base size s) = true := hup
  exact ⟨_, (exec_memory_at hup' (memWriteOk hn hline rfl)
    (memPlace_withDecoder hcxl hsize hlo hhi hcarve)).trans (congrArg Host.Outcome.next
      (if_neg (Bool.eq_false_iff.1 hlive))), memReadN_memWriteMasked_full d s.mem a hok⟩

end

end

/-! ## Device registers -/

section
variable {s : State} {off n : Nat} (v : Word) (hup : hostLinkUp s = true)
include hup

theorem exec_register_refused (h : regAccessOk off n = false) :
    ∃ t, exec (.hostRegisterAccess false off n v) s = .next t ∧ t.host.answer = none ∧
      exec (.hostRegisterAccess true off n v) s = .next s := by
  have hexec (wr : Bool) : exec (.hostRegisterAccess wr off n v) s = .next (if wr then s else answerHost none s) := by
    show execHostRegisterAccess wr off n v s = _
    rw [execHostRegisterAccess, if_neg (by simp [hup]), if_pos (by simp [h])]
  exact ⟨_, hexec false, rfl, hexec true⟩

variable (hok : regAccessOk off n = true) (hoff : off < 0x100000)
include hok hoff

omit hup hok in
theorem vfPage_low : vfPage off = none := if_neg (by omega)

/-- Below the pages of the VFs every register is the package's own (R414). -/
theorem exec_register (wr : Bool) : exec (.hostRegisterAccess wr off n v) s =
    .next (if wr then hostRegWrite off n v s else answerHost (some (halfOf (devRead s (off / 8 * 8)) off n)) s) := by
  show execHostRegisterAccess wr off n v s = _
  rw [execHostRegisterAccess, if_neg (by simp [hup]), if_neg (by simp [hok]; omega), hostRegRead, vfPage_low hoff]

end

section
variable {s : State} (v : Word) (hup : hostLinkUp s = true)
include hup

theorem exec_bootst_read : exec (.hostRegisterAccess false 0x008 8 v) s =
    .next { s with host.answer := some (bytesOfWord 8 s.boot.bootst) } := by
  rw [exec_register v hup (by decide) (by decide), halfOf_whole _ (by decide)]
  rfl

theorem exec_bootst_write : exec (.hostRegisterAccess true 0x008 8 v) s = .next s := by
  rw [exec_register v hup (by decide) (by decide)]
  rfl

theorem exec_mbcmd_write : exec (.hostRegisterAccess true 0x1000 8 v) s = .next { s with host.mbcmd := v &&& 0xFFFF } := by
  rw [exec_register v hup (by decide) (by decide)]
  have hwhole : mergeHalf s.host.mbcmd 0x1000 8 v = v := mergeHalf_whole _ _ (by decide)
  show Host.Outcome.next { s with host.mbcmd := mergeHalf s.host.mbcmd 0x1000 8 v &&& 0xFFFF } = _
  rw [hwhole]

theorem exec_mbarg_write {i : Nat} (hi : i < 8) :
    ∃ t, exec (.hostRegisterAccess true (0x1008 + 8 * i) 8 v) s = .next t ∧ t.host.mbarg[i]? = some v := by
  have hoff : (0x1008 + 8 * i) / 8 * 8 = 0x1008 + 8 * i := by omega
  have hidx : (0x1008 + 8 * i - 0x1008) / 8 = i := by omega
  have hwrite : hostRegWrite (0x1008 + 8 * i) 8 v s =
      { s with host.mbarg := s.host.mbarg.setIfInBounds i (mergeHalf ((s.host.mbarg[i]?).getD 0) (0x1008 + 8 * i) 8 v) } := by
    simp only [hostRegWrite, vfPage_low (show 0x1008 + 8 * i < 0x100000 by omega), hoff, hidx]
    rw [if_neg (by omega), if_pos (by omega)]
  refine ⟨_, exec_register v hup (decide_eq_true ⟨.inr rfl, by omega⟩) (by omega) true, ?_⟩
  rw [if_pos rfl, hwrite, mergeHalf_whole _ _ (by omega)]
  simp [hi]

theorem exec_mbdoor_write : exec (.hostRegisterAccess true 0x1048 8 v) s = exec .mbdoor s := by
  rw [exec_register v hup (by decide) (by decide)]
  exact congrArg Host.Outcome.next (if_pos hup).symm

theorem exec_mbdoor : exec .mbdoor s = .next (if s.host.mbstat.getLsbD 63 then s else
    { s with host.mbstat := s.host.mbstat ||| 0x8000000000000000, host.mbPending := true }) :=
  congrArg Host.Outcome.next (if_pos hup)

end

/-! ## Doorbell pages -/

section
variable {s : State} {vf off n : Nat} {v : Word} (hup : hostLinkUp s = true) (hok : regAccessOk off n = true)
  (hoff : off < 0xF000)
include hup hok hoff

theorem exec_doorbellWrite : exec (.doorbellWrite vf off n v) s =
    .next ((vfOf s vf).elim s fun x => pageWrite x off n v s) := by
  show execDoorbellWrite vf off n v s = _
  rw [execDoorbellWrite, if_neg (by simp [hup, hok]; omega)]
  cases vfOf s vf <;> rfl

theorem exec_doorbellRead : exec (.doorbellRead vf off n) s =
    .next ((vfOf s vf).elim (answerHost none s) fun x => answerHost (pageAnswer s x off n) s) := by
  show execDoorbellRead vf off n s = _
  rw [execDoorbellRead, if_neg (by simp [hup]; omega), if_neg (by simp [hok])]
  cases vfOf s vf <;> rfl

theorem exec_doorbell_unbound (h : vfOf s vf = none) : exec (.doorbellWrite vf off n v) s = .next s ∧
    exec (.doorbellRead vf off n) s = .next { s with host.answer := none } := by
  rw [exec_doorbellWrite hup hok hoff, exec_doorbellRead hup hok hoff, h]
  exact ⟨rfl, rfl⟩

variable {x : Vf} (h : vfOf s vf = some x)
include h

theorem exec_doorbell_refused (hwin : doorbellOk s x off n = false) : exec (.doorbellWrite vf off n v) s = .next s ∧
    exec (.doorbellRead vf off n) s = .next { s with host.answer := none } := by
  rw [exec_doorbellWrite hup hok hoff, exec_doorbellRead hup hok hoff, h]
  refine ⟨congrArg Host.Outcome.next ((if_pos hoff).trans (if_pos (by simp [hwin]))), ?_⟩
  exact congrArg (fun d => Host.Outcome.next (answerHost d s)) (if_pos (by simp [hoff, hwin]))

variable (hwin : doorbellOk s x off n = true)
include hwin

theorem exec_doorbell_read (hclean : linePoisoned s (lineOf (x.area + off)) = false) :
    exec (.doorbellRead vf off n) s = .next { s with host.answer := some (memReadN s.mem (x.area + off) n) } := by
  have hanswer : pageAnswer s x off n = some (memReadN s.mem (x.area + off) n) := by
    rw [pageAnswer, if_neg (by simp [hclean, hwin]), pageRead, if_pos (by omega), halfOf_memory _ _ hok]
  rw [exec_doorbellRead hup hok hoff, h]
  exact congrArg (fun d => Host.Outcome.next (answerHost d s)) hanswer

/-- A write to a doorbell word is performed; below offset 8 it also sends INT 2 to the VF's core (R416). -/
theorem exec_doorbell_write (hlive : deadHome s (x.area + off) = false) (hmem : s.memOk) :
    ∃ t, exec (.doorbellWrite vf off n v) s = .next t ∧ memReadN t.mem (x.area + off) n = bytesOfWord n v ∧
      (off < 8 → (getCore t x.core).ints.any (fun i => decide (i.detail = 2 ∧ i.pid = x.pid)) = true) ∧
      (8 ≤ off → getCore t x.core = getCore s x.core) := by
  have hexec : exec (.doorbellWrite vf off n v) s = .next (ringDoorbell x off (bytesOfWord n v) s) := by
    rw [exec_doorbellWrite hup hok hoff, h]
    exact congrArg Host.Outcome.next ((if_pos hoff).trans (if_neg (by simp [hlive, hwin])))
  have hread : memReadN (memWriteMasked 0xFF s.mem (x.area + off) (bytesOfWord n v)) (x.area + off) n = bytesOfWord n v :=
    memReadN_bytesOfNat n v.toNat (x.area + off) hmem
  refine ⟨_, hexec, ?_⟩
  unfold ringDoorbell
  dsimp only
  split
  · refine ⟨?_, fun _ => pendInt_pending .., by omega⟩
    rw [mem_pendInt]
    exact hread
  · exact ⟨hread, by omega, fun _ => rfl⟩

end

/-! ## The mailbox -/

section
variable {s : State}

theorem endMailbox_eq (st : Nat) (s : State) : ∃ p m, endMailbox st s = { s with
    host.mbPending := false, host.mbstat := BitVec.ofNat 64 st &&& 0x800000000000FFFF,
    host.pendingBits := p, host.sentMsix := m } :=
  writeMbstat_eq (BitVec.ofNat 64 st) { s with host.mbPending := false }

/-- A command leaves what its end depends on: the status register, the vectors and what has been sent. -/
def mailboxKept (s t : State) : Prop :=
  t.host.mbstat = s.host.mbstat ∧ t.host.msix = s.host.msix ∧ t.host.sentMsix = s.host.sentMsix

theorem mailboxKept_refl (s : State) : mailboxKept s s := ⟨rfl, rfl, rfl⟩

theorem mailboxKept_of_host {t : State} (h : t.host = s.host) : mailboxKept s t := by
  rw [mailboxKept, h]
  exact ⟨rfl, rfl, rfl⟩

theorem mailboxKept_setMbArg {t : State} (i v : Nat) (h : mailboxKept s t) : mailboxKept s (setMbArg i v t) := h

section
variable {cmd : Nat} {body : State → Nat × State} {i : Instr} (hexec : exec i s = mailbox cmd body s)
include hexec

theorem exec_mailbox_waits (h : mailboxAt s cmd = false) : exec i s = .next s :=
  hexec.trans (congrArg Host.Outcome.next (if_neg (Bool.eq_false_iff.1 h)))

variable (h : mailboxAt s cmd = true)
include h

theorem exec_mailbox : exec i s = .next (endMailbox (body s).1 (body s).2) :=
  hexec.trans (congrArg Host.Outcome.next (if_pos h))

/-- A command that ends clears BUSY, leaves its status, and sends vector 0 of PF0 unless it is masked (R415). -/
theorem exec_mailbox_ends (hst : (body s).1 = 0 ∨ (body s).1 = 2) (hkept : mailboxKept s (body s).2) :
    ∃ t st, exec i s = .next t ∧ t.host.mbPending = false ∧ (st = 0 ∨ st = 2) ∧
      t.host.mbstat = BitVec.ofNat 64 st ∧
      (s.host.mbstat.getLsbD 63 = true → (msixVector s.host 0 0).data.getLsbD 32 = false →
        t.host.sentMsix = s.host.sentMsix ++ [(0, 0)]) := by
  obtain ⟨hstat, hmsix, hsent⟩ := hkept
  have hmask : BitVec.ofNat 64 (body s).1 &&& 0x800000000000FFFF = BitVec.ofNat 64 (body s).1 := by
    rcases hst with hst | hst <;> rw [hst] <;> decide
  have hlow : (BitVec.ofNat 64 (body s).1).getLsbD 63 = false := by
    rcases hst with hst | hst <;> rw [hst] <;> decide
  refine ⟨_, (body s).1, exec_mailbox hexec h, ?_, hst, ?_, fun hbusy hunmasked => ?_⟩
  · obtain ⟨p, m, heq⟩ := endMailbox_eq (body s).1 (body s).2
    rw [heq]
  · obtain ⟨p, m, heq⟩ := endMailbox_eq (body s).1 (body s).2
    rw [heq]
    exact hmask
  · have hvector : msixVector (body s).2.host 0 0 = msixVector s.host 0 0 := by rw [msixVector, hmsix, msixVector]
    rw [← hsent]
    refine writeMbstat_sent (s := { (body s).2 with host.mbPending := false }) ?_ hlow ?_
    · exact (congrArg (·.getLsbD 63) hstat).trans hbusy
    · exact (congrArg (fun x : MsixVector => x.data.getLsbD 32) hvector).trans hunmasked

theorem exec_mailbox_done {t : State} (hbody : body s = (0, t)) :
    ∃ u, exec i s = .next u ∧ u.host.mbstat = 0 ∧ u.mem = t.mem ∧ u.rel = t.rel := by
  obtain ⟨p, m, heq⟩ := endMailbox_eq 0 t
  refine ⟨_, exec_mailbox hexec h, ?_⟩
  rw [hbody]
  dsimp only
  rw [heq]
  exact ⟨rfl, rfl, rfl⟩

end

/-! ## The commands -/

/-- What `IDCERT` does. -/
def idcertBody (s : State) : Nat × State :=
  if mbArg s 1 < Config.certificate.length then (2, setMbArg 0 Config.certificate.length s)
  else if !hostBufOk s (mbArg s 0) Config.certificate.length then (2, s)
  else (0, setMbArg 0 Config.certificate.length (agentWrite (hostPa s (mbArg s 0)) Config.certificate s))

theorem exec_idcert (s : State) : exec .idcert s = mailbox 1 idcertBody s := rfl

/-- What `QUOTE` of the mailbox does. -/
def mailboxQuoteBody (s : State) : Nat × State :=
  if !hostBufOk s (mbArg s 0) 32 || !hostBufOk s (mbArg s 1) 384 then (2, s)
  else (0, agentWrite (hostPa s (mbArg s 1))
    (quoteBytes s (mbArg s 2 % 256) (memReadN s.mem (hostPa s (mbArg s 0)) 32)) s)

theorem exec_mailboxQuote (s : State) : exec .mailboxQuote s = mailbox 2 mailboxQuoteBody s := rfl

/-- The records that `LOGREAD` gives. -/
def logTaken (s : State) : List LogRec := (s.rel.log.drop s.rel.logRead).take (mbArg s 1 / 32)

/-- What `LOGREAD` does. -/
def logreadBody (s : State) : Nat × State :=
  if mbArg s 1 % 32 ≠ 0 ∨ ¬ hostBufOk s (mbArg s 0) (32 * (logTaken s).length) then (2, s)
  else (0, setMbArg 0 (32 * (logTaken s).length) (agentWrite (hostPa s (mbArg s 0)) ((logTaken s).flatMap logBytes)
    { s with rel.logRead := s.rel.logRead + (logTaken s).length }))

theorem exec_logread (s : State) : exec .logread s = mailbox 3 logreadBody s := rfl

/-- The self-test summaries of all cores, one after the other. -/
def bistBytes (s : State) : List Byte := coreNumbers.flatMap fun n => bytesOfWord 8 (getCore s n).bistsum

/-- What `BISTREAD` does. -/
def bistreadBody (s : State) : Nat × State :=
  if !hostBufOk s (mbArg s 0) 2048 then (2, s) else (0, agentWrite (hostPa s (mbArg s 0)) (bistBytes s) s)

theorem exec_bistread (s : State) : exec .bistread s = mailbox 4 bistreadBody s := rfl

/-- A command of the mailbox ends with 0 or 2, and leaves what its end depends on. -/
def goodBody (body : State → Nat × State) : Prop :=
  ∀ s, ((body s).1 = 0 ∨ (body s).1 = 2) ∧ mailboxKept s (body s).2

theorem goodBody_idcert : goodBody idcertBody := by
  intro s
  unfold idcertBody
  split
  · exact ⟨.inr rfl, mailboxKept_refl s⟩
  · split
    · exact ⟨.inr rfl, mailboxKept_refl s⟩
    · exact ⟨.inl rfl, mailboxKept_setMbArg _ _ (mailboxKept_of_host (host_agentWrite ..))⟩

theorem goodBody_mailboxQuote : goodBody mailboxQuoteBody := by
  intro s
  unfold mailboxQuoteBody
  split
  · exact ⟨.inr rfl, mailboxKept_refl s⟩
  · exact ⟨.inl rfl, mailboxKept_of_host (host_agentWrite ..)⟩

theorem goodBody_logread : goodBody logreadBody := by
  intro s
  unfold logreadBody
  split
  · exact ⟨.inr rfl, mailboxKept_refl s⟩
  · exact ⟨.inl rfl, mailboxKept_setMbArg _ _ (mailboxKept_of_host (host_agentWrite ..))⟩

theorem goodBody_bistread : goodBody bistreadBody := by
  intro s
  unfold bistreadBody
  split
  · exact ⟨.inr rfl, mailboxKept_refl s⟩
  · exact ⟨.inl rfl, mailboxKept_of_host (host_agentWrite ..)⟩

/-- The commands that the firmware serves by itself. -/
theorem mailbox_served : ∀ x ∈ ([(.idcert, 1), (.mailboxQuote, 2), (.logread, 3), (.bistread, 4)] : List (Instr × Nat)),
    ∃ body, goodBody body ∧ ∀ s, exec x.1 s = mailbox x.2 body s := by
  simp only [List.forall_mem_cons, List.not_mem_nil, false_imp_iff, implies_true, and_true]
  exact ⟨⟨_, goodBody_idcert, exec_idcert⟩, ⟨_, goodBody_mailboxQuote, exec_mailboxQuote⟩,
    ⟨_, goodBody_logread, exec_logread⟩, ⟨_, goodBody_bistread, exec_bistread⟩⟩

section
variable (hok : s.memOk)
include hok

theorem idcert_done (h : mailboxAt s 1 = true) (hroom : Config.certificate.length ≤ mbArg s 1)
    (hbuf : hostBufOk s (mbArg s 0) Config.certificate.length = true) :
    ∃ t, exec .idcert s = .next t ∧ t.host.mbstat = 0 ∧
      memReadN t.mem (hostPa s (mbArg s 0)) Config.certificate.length = Config.certificate := by
  obtain ⟨t, ht, hstat, hmem, -⟩ := exec_mailbox_done (exec_idcert s) h
    ((if_neg (Nat.not_lt_of_le hroom)).trans (if_neg (by simp [hbuf])))
  refine ⟨t, ht, hstat, ?_⟩
  rw [hmem]
  exact memReadN_agentWrite _ _ hok

theorem mailboxQuote_done (h : mailboxAt s 2 = true) (hin : hostBufOk s (mbArg s 0) 32 = true)
    (hout : hostBufOk s (mbArg s 1) 384 = true) :
    let d := quoteBytes s (mbArg s 2 % 256) (memReadN s.mem (hostPa s (mbArg s 0)) 32)
    ∃ t, exec .mailboxQuote s = .next t ∧ t.host.mbstat = 0 ∧ memReadN t.mem (hostPa s (mbArg s 1)) d.length = d := by
  intro d
  obtain ⟨t, ht, hstat, hmem, -⟩ := exec_mailbox_done (exec_mailboxQuote s) h (if_neg (by simp [hin, hout]))
  refine ⟨t, ht, hstat, ?_⟩
  rw [hmem]
  exact memReadN_agentWrite _ _ hok

theorem logread_done (h : mailboxAt s 3 = true) (hsize : mbArg s 1 % 32 = 0)
    (hbuf : hostBufOk s (mbArg s 0) (32 * (logTaken s).length) = true) :
    ∃ t, exec .logread s = .next t ∧ t.host.mbstat = 0 ∧ t.rel.logRead = s.rel.logRead + (logTaken s).length ∧
      memReadN t.mem (hostPa s (mbArg s 0)) ((logTaken s).flatMap logBytes).length = (logTaken s).flatMap logBytes := by
  obtain ⟨t, ht, hstat, hmem, hrel⟩ := exec_mailbox_done (exec_logread s) h (if_neg (by simp [hsize, hbuf]))
  refine ⟨t, ht, hstat, ?_, ?_⟩
  · rw [hrel]
    exact congrArg Rel.logRead (rel_agentWrite ..)
  · rw [hmem]
    exact memReadN_agentWrite _ _ (by exact hok)

omit hok in
/-- One summary of the list. -/
theorem bistBytes_of {c : Nat} (hc : c < 256) :
    ((bistBytes s).drop (8 * c)).take 8 = bytesOfWord 8 (getCore s c).bistsum := by
  refine List.ext_getElem? fun i => ?_
  by_cases hi : i < 8
  · rw [List.getElem?_take_of_lt hi, List.getElem?_drop, bistBytes,
      getElem?_flatMap_const (n := 8) (fun n => bytesOfWord_length ..) _ (by simp [coreNumbers]; omega),
      show (8 * c + i) / 8 = c by omega, show (8 * c + i) % 8 = i by omega, coreNumbers,
      List.getElem?_range hc]
    rfl
  · rw [List.getElem?_eq_none (by simp; omega), List.getElem?_eq_none (by simp; omega)]

omit hok in
theorem bistBytes_length : (bistBytes s).length = 2048 := by
  rw [bistBytes, List.length_flatMap]
  simp only [bytesOfWord_length, List.map_const', List.sum_replicate, coreNumbers, List.length_range]
  decide

theorem bistread_done (h : mailboxAt s 4 = true) (hbuf : hostBufOk s (mbArg s 0) 2048 = true) :
    ∃ t, exec .bistread s = .next t ∧ t.host.mbstat = 0 ∧ ∀ c, c < 256 →
      memReadN t.mem (hostPa s (mbArg s 0) + 8 * c) 8 = bytesOfWord 8 (getCore s c).bistsum := by
  obtain ⟨t, ht, hstat, hmem, -⟩ := exec_mailbox_done (exec_bistread s) h (if_neg (by simp [hbuf]))
  refine ⟨t, ht, hstat, fun c hc => ?_⟩
  have hread : memReadN t.mem (hostPa s (mbArg s 0)) 2048 = bistBytes s := by
    rw [hmem, ← bistBytes_length (s := s)]
    exact memReadN_agentWrite _ _ hok
  obtain ⟨r, hr⟩ : ∃ r, 2048 = 8 * c + (8 + r) := ⟨2048 - 8 * c - 8, by omega⟩
  rw [hr] at hread
  rw [← bistBytes_of hc, ← hread, memReadN_drop, memReadN_take]

end

/-! ## Commands for the firmware -/

theorem exec_mailbox_idle (h : s.host.mbPending = false) :
    exec .forwardedMailboxCommand s = .next s ∧ exec .unknownMailboxCommand s = .next s :=
  ⟨congrArg Host.Outcome.next (if_neg (by simp [h])), congrArg Host.Outcome.next (if_neg (by simp [h]))⟩

/-- A command above 0x7FFF goes on to the core that `NOTIFY` names; BUSY stays set (R415). -/
theorem exec_forwarded (h : s.host.mbPending = true) (hcmd : 0x8000 ≤ mbCommand s) :
    ∃ t, exec .forwardedMailboxCommand s = .next t ∧ t.host.mbstat = s.host.mbstat ∧
      (getCore t s.host.notifyCore).ints.any (fun i => decide (i.detail = 3 ∧ i.pid = 0)) = true := by
  refine ⟨_, congrArg Host.Outcome.next (if_pos (by simp [h, hcmd])), ?_, pendInt_pending ..⟩
  rw [host_pendInt]

theorem exec_unknown (h : s.host.mbPending = true)
    (hcmd : mbCommand s = 0 ∨ (4 < mbCommand s ∧ mbCommand s < 0x8000)) :
    ∃ t, exec .unknownMailboxCommand s = .next t ∧ t.host.mbstat = 0xFFFF ∧ t.host.mbPending = false := by
  obtain ⟨p, m, heq⟩ := endMailbox_eq 0xFFFF s
  refine ⟨_, congrArg Host.Outcome.next (if_pos (by simp [h, hcmd])), ?_⟩
  rw [heq]
  exact ⟨rfl, rfl⟩

theorem exec_mbstat (v : Word) (s : State) : ∃ t, exec (.mbstatWrite v) s = .next t ∧
    t.host.mbstat = v &&& 0x800000000000FFFF ∧ t.ctx = s.ctx ∧ t.mem = s.mem := by
  obtain ⟨p, m, heq⟩ := writeMbstat_eq v s
  refine ⟨_, rfl, ?_⟩
  rw [heq]
  exact ⟨rfl, rfl, rfl⟩

end

/-- Settles O49: an access of the host is performed at the place its address reaches, or answered without data; a mailbox
command's body gives its status and leaves what its end depends on. -/
theorem hostEvents : Obligations.HostEvents := by
  unfold Obligations.HostEvents
  intro vf off n v s
  refine ⟨fun _ _ _ => rfl, exec_linkFailure s, fun hdown rq wr => linkDown_idle hdown vf off n v rq wr, fun hup => ?_,
    fun x hx => ?_, fun hok => ⟨idcert_done hok, mailboxQuote_done hok, logread_done hok, bistread_done hok⟩,
    exec_mailbox_idle, fun hp => ⟨exec_forwarded hp, exec_unknown hp⟩, exec_mbstat v s⟩
  · refine ⟨fun base size hwin hn hline => ⟨fun hout => ?_, fun hcarve _ => ?_, fun hfit hcarve hclean => ?_⟩,
      fun hn hline => exec_vf_nowhere hup hn hline vf, fun hwin hn hline => exec_read_nowhere hup hn hline none ?_,
      fun k base size hcxl => ⟨exec_decoder_refused hup hcxl, fun hdec => ?_⟩,
      fun pa d m p f => hostLines_homeWrite pa d m p f s, exec_register_refused v hup, exec_bootst_read v hup,
      exec_bootst_write v hup, exec_mbcmd_write v hup, fun i hi => exec_mbarg_write v hup hi, exec_mbdoor_write v hup,
      exec_mbdoor hup, fun hok hoff => ⟨exec_doorbell_unbound hup hok hoff,
        fun x hx hwin => exec_doorbell_refused hup hok hoff hx hwin,
        fun x hx hclean hwin => ⟨exec_doorbell_read hup hok hoff hx hwin hclean,
          exec_doorbell_write hup hok hoff hx hwin⟩⟩⟩
    · exact exec_read_nowhere hup hn hline none (barPlace_outside hwin (.inl hout))
    · exact exec_read_nowhere hup hn hline none (barPlace_outside hwin (.inr hcarve))
    · have hplace := barPlace_inside hwin hfit hcarve
      exact ⟨exec_read_at hup hn hline hplace hclean, fun d hd hlive hok => exec_write_at hup hn hline hplace hd hlive hok,
        fun cmp hsize halign hok => exec_add_at hup hn hline hplace hclean hsize halign hok⟩
    · simp only [barPlace, hwin]
    · refine ⟨_, exec_decoder_set hup hcxl hdec, fun d hd hk => withDecoder_only hd hk,
        fun hsize a d hlo hhi hn hline hcarve hclean hd hlive hok => ?_⟩
      obtain ⟨u, hu, hanswer, hline', hmem⟩ := exec_memRead (k := k) hup hcxl hsize hlo hhi hcarve hn hline hclean
      obtain ⟨w, hw, hread⟩ := exec_memWrite (k := k) hup hcxl hsize hlo hhi hcarve hn hline hd hlive hok
      exact ⟨u, w, hu, hanswer, hline', hmem, hw, hread⟩
  · obtain ⟨body, hgood, hexec⟩ := mailbox_served x hx
    obtain ⟨hst, hkept⟩ := hgood s
    exact ⟨exec_mailbox_waits (hexec s), fun hat => exec_mailbox_ends (hexec s) hat hst hkept⟩

end Sys2Proof.Machine
